-- ==== Sys2Proof/Word.lean ====
section
/-! DEFINITION. The word types of the Mynus architecture and their plainest arithmetic (R5, R6, R59, R73). -/

namespace Sys2Proof

/-- An instruction word (R59). -/
abbrev Word := BitVec 32
/-- The data bits of a c-register (R10). -/
abbrev Quad := BitVec 128
/-- A 64-bit memory word, address or lane pair. -/
abbrev DWord := BitVec 64
/-- A byte of memory. -/
abbrev Byte := BitVec 8
/-- A c-register number (R61). -/
abbrev RegNo := Fin 32

/-- Logical tile coordinates (R3). -/
structure Coord where
  x : Nat
  y : Nat
  deriving DecidableEq, Repr, Inhabited

/-- The two cores of a tile (R3). -/
inductive Side where
  | access
  | execute
  deriving DecidableEq, Repr, Inhabited

/-- Floor of a quotient of integers by a power of two (R6 helpers, R49). -/
def floorShift (v : Int) (n : Nat) : Int := v / (2 ^ n : Int)

/-- The low `n` bits of `x` read as two's complement (R73). -/
def sextNat (x n : Nat) : Int :=
  let v := x % 2 ^ n
  if 2 ^ n ≤ 2 * v then (v : Int) - 2 ^ n else v

/-- An integer reduced modulo 2^w (R6: a value takes a machine width by a slice). -/
def wrap (w : Nat) (v : Int) : BitVec w := BitVec.ofInt w v

/-- Bits [hi:lo] of a natural number (R5). -/
def bits (v hi lo : Nat) : Nat := (v / 2 ^ lo) % 2 ^ (hi + 1 - lo)

end Sys2Proof
end

