-- ==== Sys2Proof/Syntax.lean ====
section
/-! DEFINITION. The abstract syntax: every row of the table of operations and events as a constructor of `Instr`,
and the plain data those constructors carry. -/

namespace Sys2Proof

/-- The TY field of VFP, VSF and VBLK (R66). -/
inductive FTy where
  | f32
  | bf16
  deriving DecidableEq, Repr

/-- The TY field of VINT and the width code of sext and zext (R64, R66). -/
inductive VTy where
  | b
  | h
  | w
  | d
  deriving DecidableEq, Repr

/-- The width of an atomic (R69). -/
inductive ATy where
  | w
  | d
  deriving DecidableEq, Repr

/-- Thermal stretch factors (R172). -/
inductive Stretch where
  | x1_25
  | x1_5
  | x2
  deriving DecidableEq, Repr

/-- Who drives a copy channel (R240). -/
inductive Owner where
  | tile (t : Coord)
  | hub (die hub : Nat)
  deriving DecidableEq, Repr

/-- The sources of loose accesses (R231). -/
inductive LooseSrc where
  | hub (die hub : Nat)
  | host
  | cxl (group : Nat)
  /-- a request that arrived on `port` under `tag` from device `dev`, in generation `gen` of the port's group -/
  | device (dev port tag gen : Nat)
  /-- word `word` of a copy channel's stream on a deadline path, request `id` -/
  | channel (o : Owner) (ch : Fin 4) (id : Nat)
  deriving DecidableEq, Repr

/-- What a loose access does at its home (R231 to R235). -/
inductive LooseOp where
  | read
  | readCap
  | write
  | writeCap (tag : Bool)
  /-- atomic function code F of R233 at 32 (false) or 64 (true) bits -/
  | amo (f : Nat) (wide : Bool)
  deriving DecidableEq, Repr

/-- A loose access on its way to its home (R231). `data` is the store data or the atomic's operand,
`cmp` the compare operand of amo.cas, `sys` whether the capability carries SYS (R200). -/
structure Loose where
  src  : LooseSrc
  op   : LooseOp
  addr : DWord
  size : Nat
  data : List Byte
  cmp  : DWord
  sys  : Bool
  deriving DecidableEq, Repr

/-- The end of a remote access (R359): data or an acknowledgement, or a status other than OK. -/
inductive Reply where
  | ok (data : List Byte) (tag : Bool)
  | refused
  | pathDown
  /-- an uncorrectable word: its structure and its place (R272) -/
  | uncorr (reason info : Nat)
  | xlate (reason : Nat)
  | unsup
  | abort
  deriving DecidableEq, Repr

/-- A word of an in-network reduction: the group-table entry, the start cycle of the commands that
meet, whether it is a gget, and the word number (R257, R259). -/
structure RedKey where
  gw    : Nat
  gh    : Nat
  gx    : Nat
  gy    : Nat
  op    : Nat
  lane  : Nat
  entry : Nat
  get   : Bool
  start : Nat
  word  : Nat
  deriving DecidableEq, Repr

/-- The contents of a Lyder link flit by KIND (R353). -/
inductive FlitBody where
  | idle
  | slot (slot ss q0 : Nat) (quads : List Quad)
  | request (tag : Nat) (addr : DWord) (op : LooseOp) (size : Nat) (data : List Byte) (cmp : DWord)
  | response (tag : Nat) (r : Reply)
  | mgmt (mtype : Nat) (troupe arg rmt : Nat)
  deriving DecidableEq, Repr

/-- A Lyder link flit (R353). -/
structure LinkFlit where
  src  : Nat
  dst  : Nat
  body : FlitBody
  deriving DecidableEq, Repr

/-- A Lyder link flit as it travels: 256 bytes (R353). -/
abbrev WireFlit := List Byte

/-- One direction of an edge port: the receiving one with `rx` (R364, R371). -/
structure PortDir where
  port : Nat
  rx   : Bool
  deriving DecidableEq, Repr

/-- A quad of a reserved slot: its superstep and its index in the transfer (R361). -/
structure SlotQuad where
  ss : Nat
  k  : Nat
  deriving DecidableEq, Repr

/-- A storage event for the error log (R272, R333, R336): record kind, REASON, die, LOC and INFO, and the
time of the module reference counter in microseconds. -/
structure ErrEvent where
  kind   : Nat
  reason : Nat
  die    : Nat
  loc    : Nat
  info   : Nat
  micros : Nat
  hub    : Bool
  deriving DecidableEq, Repr

/-- The outcome of firmware verification and tile test at bring-up (R341 steps 3 and 4). -/
inductive BootOutcome where
  | signatureRefused
  /-- the logical tiles that failed their test -/
  | tested (failed : List Coord)
  deriving DecidableEq, Repr

/-- What the training of one port of a group learns (R355, R371). -/
structure PortTrain where
  port  : Nat
  up    : Bool
  width : Nat
  pport : Nat
  peer  : Nat
  lat   : Nat
  ofs   : Int
  deriving DecidableEq, Repr

/-- The end of a retrain (R367). -/
structure TrainResult where
  ok    : Bool
  ports : List PortTrain
  deriving DecidableEq, Repr

/-- Registers of the device that a write merely stores into (R216, R289, R316, R328, R358, R369, R371). -/
inductive DevReg where
  /-- a system register of a tile context or hub context: s, fm, fl, sr, HASID (R25, R323) -/
  | hubReg (die hub num : Nat)
  | cxlBase (n : Fin 16)
  | cxlCtl (n : Fin 16)
  | adesc (a : Nat) (word : Fin 4)
  /-- a host-port register by its offset (R328) -/
  | hostPort (off : Nat)
  | ewin (n : Nat)
  | lmapBase
  | clkSrc
  /-- a port register by its offset within the port's block (R369) -/
  | port (p off : Nat)
  /-- OPT and NEXT of GCTL written without GO (R370) -/
  | gctl (g : Nat)
  deriving DecidableEq, Repr

/-- One constructor per row of the table of operations and events (spec/opcode_table.json): the
192 rows that are instruction words and the 100 that are operations and events of the part. -/
inductive Instr where
  /-- R84. Adds two 128-bit registers and writes the sum with tag 0. -/
  | add (d : RegNo) (a : RegNo) (b : RegNo)
  /-- R84. Subtracts cB from cA modulo 2^128. -/
  | sub (d : RegNo) (a : RegNo) (b : RegNo)
  /-- R84. Bitwise AND of two registers. -/
  | and (d : RegNo) (a : RegNo) (b : RegNo)
  /-- R84. Bitwise OR of two registers. -/
  | or (d : RegNo) (a : RegNo) (b : RegNo)
  /-- R84. Bitwise XOR of two registers. -/
  | xor (d : RegNo) (a : RegNo) (b : RegNo)
  /-- R84. cA AND NOT cB. -/
  | andn (d : RegNo) (a : RegNo) (b : RegNo)
  /-- R84. Logical left shift by cB[6:0]. -/
  | sll (d : RegNo) (a : RegNo) (b : RegNo)
  /-- R84. Logical right shift by cB[6:0]. -/
  | srl (d : RegNo) (a : RegNo) (b : RegNo)
  /-- R84. Arithmetic right shift by cB[6:0]. -/
  | sra (d : RegNo) (a : RegNo) (b : RegNo)
  /-- R84. Rotates cA left by cB[6:0]. -/
  | rol (d : RegNo) (a : RegNo) (b : RegNo)
  /-- R84. Writes 1 if cA < cB signed, else 0. -/
  | slt (d : RegNo) (a : RegNo) (b : RegNo)
  /-- R84. Writes 1 if cA < cB unsigned, else 0. -/
  | sltu (d : RegNo) (a : RegNo) (b : RegNo)
  /-- R84. Signed minimum of two registers. -/
  | min (d : RegNo) (a : RegNo) (b : RegNo)
  /-- R84. Signed maximum of two registers. -/
  | max (d : RegNo) (a : RegNo) (b : RegNo)
  /-- R84. Unsigned minimum of two registers. -/
  | minu (d : RegNo) (a : RegNo) (b : RegNo)
  /-- R84. Unsigned maximum of two registers. -/
  | maxu (d : RegNo) (a : RegNo) (b : RegNo)
  /-- R84. Low 128 bits of the product, 2-turn latency. -/
  | mul (d : RegNo) (a : RegNo) (b : RegNo)
  /-- R84. High 128 bits of the signed product. -/
  | mulh (d : RegNo) (a : RegNo) (b : RegNo)
  /-- R84. High 128 bits of the unsigned product. -/
  | mulhu (d : RegNo) (a : RegNo) (b : RegNo)
  /-- R84. Signed truncating division with defined division by zero, 8 turns. -/
  | div (d : RegNo) (a : RegNo) (b : RegNo)
  /-- R84. Unsigned division, all ones on division by zero. -/
  | divu (d : RegNo) (a : RegNo) (b : RegNo)
  /-- R84. Signed remainder with the dividend's sign. -/
  | rem (d : RegNo) (a : RegNo) (b : RegNo)
  /-- R84. Unsigned remainder. -/
  | remu (d : RegNo) (a : RegNo) (b : RegNo)
  /-- R84. Counts leading zeros of cA. -/
  | clz (d : RegNo) (a : RegNo)
  /-- R84. Counts trailing zeros of cA. -/
  | ctz (d : RegNo) (a : RegNo)
  /-- R84. Counts one bits of cA. -/
  | pop (d : RegNo) (a : RegNo)
  /-- R84. Sign-extends the low 8, 16, 32 or 64 bits of cA. -/
  | sext (d : RegNo) (a : RegNo) (wd : VTy)
  /-- R84. Zero-extends the low 8, 16, 32 or 64 bits of cA. -/
  | zext (d : RegNo) (a : RegNo) (wd : VTy)
  /-- R85. Adds a sign-extended 16-bit immediate. -/
  | addi (d : RegNo) (a : RegNo) (imm : BitVec 16)
  /-- R85. ANDs a zero-extended immediate. -/
  | andi (d : RegNo) (a : RegNo) (imm : BitVec 16)
  /-- R85. ORs a zero-extended immediate. -/
  | ori (d : RegNo) (a : RegNo) (imm : BitVec 16)
  /-- R85. XORs a zero-extended immediate. -/
  | xori (d : RegNo) (a : RegNo) (imm : BitVec 16)
  /-- R85. Signed compare with a sign-extended immediate. -/
  | slti (d : RegNo) (a : RegNo) (imm : BitVec 16)
  /-- R85. Unsigned compare with a sign-extended immediate. -/
  | sltui (d : RegNo) (a : RegNo) (imm : BitVec 16)
  /-- R85. Logical left shift by an immediate 0-127. -/
  | slli (d : RegNo) (a : RegNo) (sh : BitVec 7)
  /-- R85. Logical right shift by an immediate. -/
  | srli (d : RegNo) (a : RegNo) (sh : BitVec 7)
  /-- R85. Arithmetic right shift by an immediate. -/
  | srai (d : RegNo) (a : RegNo) (sh : BitVec 7)
  /-- R86. Writes sext(imm21) shifted left by 16. -/
  | lhi (d : RegNo) (imm : BitVec 21)
  /-- R89. Narrows a capability's bounds to [cursor, cursor+len). -/
  | cbnd (d : RegNo) (a : RegNo) (b : RegNo)
  /-- R88. ANDs a capability's permissions with cB[11:0]. -/
  | cperm (d : RegNo) (a : RegNo) (b : RegNo)
  /-- R90. Adds cB to a capability's cursor, keeping the tag only if representable. -/
  | cinc (d : RegNo) (a : RegNo) (b : RegNo)
  /-- R90. Sets a capability's cursor to cB. -/
  | cset (d : RegNo) (a : RegNo) (b : RegNo)
  /-- R88. Returns the decoded base. -/
  | cgetBase (d : RegNo) (a : RegNo)
  /-- R88. Returns top minus base. -/
  | cgetLen (d : RegNo) (a : RegNo)
  /-- R88. Returns the PERM bits. -/
  | cgetPerm (d : RegNo) (a : RegNo)
  /-- R88. Returns the tag as an integer. -/
  | cgetTag (d : RegNo) (a : RegNo)
  /-- R88. Returns the cursor. -/
  | cgetCur (d : RegNo) (a : RegNo)
  /-- R91. Seals cA using the SEAL authority in cB. -/
  | cseal (d : RegNo) (a : RegNo) (b : RegNo)
  /-- R91. Unseals cA using the UNSEAL authority in cB. -/
  | cunseal (d : RegNo) (a : RegNo) (b : RegNo)
  /-- R90. Adds a sign-extended immediate to a capability's cursor. -/
  | cincImm (d : RegNo) (a : RegNo) (imm : BitVec 16)
  /-- R92. Branches when the registers are equal. -/
  | beq (a : RegNo) (b : RegNo) (off : BitVec 16)
  /-- R92. Branches when the registers differ. -/
  | bne (a : RegNo) (b : RegNo) (off : BitVec 16)
  /-- R92. Branches when cA < cB signed. -/
  | blt (a : RegNo) (b : RegNo) (off : BitVec 16)
  /-- R92. Branches when cA >= cB signed. -/
  | bge (a : RegNo) (b : RegNo) (off : BitVec 16)
  /-- R92. Branches when cA < cB unsigned. -/
  | bltu (a : RegNo) (b : RegNo) (off : BitVec 16)
  /-- R92. Branches when cA >= cB unsigned. -/
  | bgeu (a : RegNo) (b : RegNo) (off : BitVec 16)
  /-- R95. Starts a counted hardware loop over the following body. -/
  | loop (a : RegNo) (imm : BitVec 16)
  /-- R93. Jumps PC-relative. -/
  | j (off : BitVec 26)
  /-- R93. Jumps PC-relative and writes the link capability to c30. -/
  | jl (off : BitVec 26)
  /-- R97. Does nothing for one turn. -/
  | nop
  /-- R94. Sets the PCC to cA, unsealing an executable entry capability. -/
  | jr (a : RegNo)
  /-- R96. Stops the slot's issue until a partition time, or slips if the time has passed. -/
  | hold (a : RegNo)
  /-- R96. The held slot reaches its target time and resumes issue at its next turn. -/
  | holdExpiry (t : Coord) (k : Side) (slot : Fin 4)
  /-- R99. Loads a sign-extended byte from local SRAM. -/
  | ldB (d : RegNo) (a : RegNo) (off : BitVec 12)
  /-- R99. Loads a zero-extended byte. -/
  | ldBu (d : RegNo) (a : RegNo) (off : BitVec 12)
  /-- R99. Loads a sign-extended halfword. -/
  | ldH (d : RegNo) (a : RegNo) (off : BitVec 12)
  /-- R99. Loads a zero-extended halfword. -/
  | ldHu (d : RegNo) (a : RegNo) (off : BitVec 12)
  /-- R99. Loads a zero-extended 32-bit word. -/
  | ldW (d : RegNo) (a : RegNo) (off : BitVec 12)
  /-- R99. Loads a zero-extended 64-bit word. -/
  | ldD (d : RegNo) (a : RegNo) (off : BitVec 12)
  /-- R99. Loads a quad with tag 0. -/
  | ldQ (d : RegNo) (a : RegNo) (off : BitVec 12)
  /-- R99. Loads a quad with its memory tag. -/
  | ldC (d : RegNo) (a : RegNo) (off : BitVec 12)
  /-- R100. Loads a full word and clears its full bit, or slips if empty. -/
  | ldFe (d : RegNo) (a : RegNo) (off : BitVec 12)
  /-- R99. Loads a quad from the bonded slice. -/
  | ldbQ (d : RegNo) (a : RegNo) (off : BitVec 12)
  /-- R101. Reads a quad and pushes it into the load queue at n+7. -/
  | ldLq (a : RegNo) (off : BitVec 12)
  /-- R99. Stores a byte at the end of n+3. -/
  | stB (d : RegNo) (a : RegNo) (off : BitVec 12)
  /-- R99. Stores a halfword. -/
  | stH (d : RegNo) (a : RegNo) (off : BitVec 12)
  /-- R99. Stores a 32-bit word. -/
  | stW (d : RegNo) (a : RegNo) (off : BitVec 12)
  /-- R99. Stores a 64-bit word. -/
  | stD (d : RegNo) (a : RegNo) (off : BitVec 12)
  /-- R99. Stores a quad and clears its memory tag. -/
  | stQ (d : RegNo) (a : RegNo) (off : BitVec 12)
  /-- R99. Stores a quad with the register's tag. -/
  | stC (d : RegNo) (a : RegNo) (off : BitVec 12)
  /-- R100. Stores a word and sets its full bit. -/
  | stFe (d : RegNo) (a : RegNo) (off : BitVec 12)
  /-- R99. Stores a quad into the bonded slice. -/
  | stbQ (d : RegNo) (a : RegNo) (off : BitVec 12)
  /-- R102. Pops the oldest store-queue entry and stores it. -/
  | stSq (a : RegNo) (off : BitVec 12)
  /-- R106. Element-wise floating add with one rounding. -/
  | fadd (d : RegNo) (a : RegNo) (b : RegNo) (ty : FTy)
  /-- R106. Element-wise floating subtract. -/
  | fsub (d : RegNo) (a : RegNo) (b : RegNo) (ty : FTy)
  /-- R106. Element-wise floating multiply. -/
  | fmul (d : RegNo) (a : RegNo) (b : RegNo) (ty : FTy)
  /-- R106. Fused multiply-add with one rounding. -/
  | fma (d : RegNo) (a : RegNo) (b : RegNo) (e : RegNo) (ty : FTy)
  /-- R106. Fused multiply-subtract with one rounding. -/
  | fms (d : RegNo) (a : RegNo) (b : RegNo) (e : RegNo) (ty : FTy)
  /-- R107. Element-wise minimum with -0 < +0. -/
  | fmin (d : RegNo) (a : RegNo) (b : RegNo) (ty : FTy)
  /-- R107. Element-wise maximum. -/
  | fmax (d : RegNo) (a : RegNo) (b : RegNo) (ty : FTy)
  /-- R107. Clears each lane's sign bit. -/
  | fabs (d : RegNo) (a : RegNo) (ty : FTy)
  /-- R107. Inverts each lane's sign bit. -/
  | fneg (d : RegNo) (a : RegNo) (ty : FTy)
  /-- R107. Lane mask of a = b. -/
  | fcmpEq (d : RegNo) (a : RegNo) (b : RegNo) (ty : FTy)
  /-- R107. Lane mask of a < b. -/
  | fcmpLt (d : RegNo) (a : RegNo) (b : RegNo) (ty : FTy)
  /-- R107. Lane mask of a <= b. -/
  | fcmpLe (d : RegNo) (a : RegNo) (b : RegNo) (ty : FTy)
  /-- R107. Selects lanes of cA or cB by the top bit of cE's lane. -/
  | fsel (d : RegNo) (a : RegNo) (b : RegNo) (e : RegNo) (ty : FTy)
  /-- R108. Sums the lanes in a fixed tree into lane 0. -/
  | vsum (d : RegNo) (a : RegNo) (ty : FTy)
  /-- R108. Folds fmax over the lanes into lane 0. -/
  | vmaxr (d : RegNo) (a : RegNo) (ty : FTy)
  /-- R108. Folds fmin over the lanes into lane 0. -/
  | vminr (d : RegNo) (a : RegNo) (ty : FTy)
  /-- R109. Correctly rounded reciprocal per lane. -/
  | frcp (d : RegNo) (a : RegNo) (ty : FTy)
  /-- R109. Correctly rounded reciprocal square root. -/
  | frsq (d : RegNo) (a : RegNo) (ty : FTy)
  /-- R109. Correctly rounded square root. -/
  | fsqrt (d : RegNo) (a : RegNo) (ty : FTy)
  /-- R109. Correctly rounded 2^a. -/
  | fex2 (d : RegNo) (a : RegNo) (ty : FTy)
  /-- R109. Correctly rounded log2 a. -/
  | flg2 (d : RegNo) (a : RegNo) (ty : FTy)
  /-- R110. Sine by the fixed integer procedure trig. -/
  | fsin (d : RegNo) (a : RegNo) (ty : FTy)
  /-- R110. Cosine by the fixed integer procedure trig. -/
  | fcos (d : RegNo) (a : RegNo) (ty : FTy)
  /-- R111. Packed integer add modulo the lane width. -/
  | vadd (d : RegNo) (a : RegNo) (b : RegNo) (ty : VTy)
  /-- R111. Packed integer subtract. -/
  | vsub (d : RegNo) (a : RegNo) (b : RegNo) (ty : VTy)
  /-- R111. Packed integer multiply, low bits. -/
  | vmul (d : RegNo) (a : RegNo) (b : RegNo) (ty : VTy)
  /-- R111. Packed signed minimum. -/
  | vmin (d : RegNo) (a : RegNo) (b : RegNo) (ty : VTy)
  /-- R111. Packed signed maximum. -/
  | vmax (d : RegNo) (a : RegNo) (b : RegNo) (ty : VTy)
  /-- R111. Packed AND. -/
  | vand (d : RegNo) (a : RegNo) (b : RegNo) (ty : VTy)
  /-- R111. Packed OR. -/
  | vor (d : RegNo) (a : RegNo) (b : RegNo) (ty : VTy)
  /-- R111. Packed XOR. -/
  | vxor (d : RegNo) (a : RegNo) (b : RegNo) (ty : VTy)
  /-- R111. Packed left shift. -/
  | vshl (d : RegNo) (a : RegNo) (b : RegNo) (ty : VTy)
  /-- R111. Packed arithmetic right shift. -/
  | vsra (d : RegNo) (a : RegNo) (b : RegNo) (ty : VTy)
  /-- R111. Permutes lanes of cA by cB. -/
  | vperm (d : RegNo) (a : RegNo) (b : RegNo) (ty : VTy)
  /-- R111. Broadcasts lane idx of cA to every lane. -/
  | vbcast (d : RegNo) (a : RegNo) (idx : BitVec 5) (ty : VTy)
  /-- R112. Widens a part of fm.FC data to FP32. -/
  | cvtWide (d : RegNo) (a : RegNo) (sc : BitVec 3) (rmx : BitVec 3) (sx : BitVec 2) (pt : BitVec 3)
  /-- R112. Widens a part of fm.FC data to BF16. -/
  | cvtWideb (d : RegNo) (a : RegNo) (sc : BitVec 3) (rmx : BitVec 3) (sx : BitVec 2) (pt : BitVec 3)
  /-- R112. Packs FP32 lanes into a part of fm.FC data, merging into cD. -/
  | cvtPack (d : RegNo) (a : RegNo) (sc : BitVec 3) (rmx : BitVec 3) (sx : BitVec 2) (pt : BitVec 3)
  /-- R112. Packs BF16 lanes into a part of fm.FC data, merging. -/
  | cvtPackb (d : RegNo) (a : RegNo) (sc : BitVec 3) (rmx : BitVec 3) (sx : BitVec 2) (pt : BitVec 3)
  /-- R112. Rounds FP32 lanes to BF16 into half of cD. -/
  | cvtF2b (d : RegNo) (a : RegNo) (sc : BitVec 3) (rmx : BitVec 3) (sx : BitVec 2) (pt : BitVec 3)
  /-- R112. Widens four BF16 lanes to FP32. -/
  | cvtB2f (d : RegNo) (a : RegNo) (sc : BitVec 3) (rmx : BitVec 3) (sx : BitVec 2) (pt : BitVec 3)
  /-- R115. Rounds FP32 lanes to 32-bit signed integers. -/
  | cvtF2i (d : RegNo) (a : RegNo) (sc : BitVec 3) (rmx : BitVec 3) (sx : BitVec 2) (pt : BitVec 3)
  /-- R115. Rounds 32-bit integers to FP32. -/
  | cvtI2f (d : RegNo) (a : RegNo) (sc : BitVec 3) (rmx : BitVec 3) (sx : BitVec 2) (pt : BitVec 3)
  /-- R116. Maximum absolute value over cA's lanes and cB[31:0]. -/
  | amaxb (d : RegNo) (a : RegNo) (b : RegNo) (ty : FTy)
  /-- R117. Derives a block scale from an amax into one byte of a scale register. -/
  | scl (sd : BitVec 3) (a : RegNo) (pos : BitVec 4) (ty : FTy)
  /-- R118. Captures and replays a frame of instructions n times with register renaming. -/
  | rep (n : BitVec 8) (len : BitVec 4) (ds : BitVec 3) (as : BitVec 3) (bs : BitVec 3) (es : BitVec 3)
  /-- R131. Multiplies an 8x32 A tile by a 32x8 B tile into an exact accumulator. -/
  | mma (z : Fin 4) (a : RegNo) (b : RegNo) (sca : BitVec 3) (scb : BitVec 3) (ha : BitVec 1) (hb : BitVec 1)
  /-- R128. At the end of the mma's latency its floored unit partials are added to the accumulator. -/
  | mmaComplete (t : Coord)
  /-- R133. Clears an accumulator's elements, OV and IV. -/
  | mzClr (z : Fin 4)
  /-- R133. Sets an accumulator's anchor and clears it. -/
  | mzAnc (a : RegNo) (z : Fin 4)
  /-- R136. Reads out one accumulator row rounded to FP32 or BF16. -/
  | mzRd (d : RegNo) (sx : BitVec 2) (rmx : BitVec 3) (ty : BitVec 1) (half : BitVec 1) (z : Fin 4) (row : BitVec 3)
  /-- R137. Writes a 784-byte raw accumulator image to local SRAM. -/
  | mzRaw (a : RegNo) (z : Fin 4)
  /-- R137. Adds a raw accumulator image into an accumulator. -/
  | mzAdd (a : RegNo) (z : Fin 4)
  /-- R137. At n+51 the image write or image addition of mz.raw or mz.add takes effect. -/
  | imageTransferComplete (t : Coord)
  /-- R138. Reads OV and IV, optionally clearing them. -/
  | mzOvf (d : RegNo) (z : Fin 4) (clear : BitVec 1)
  /-- R135. Sets the geometry from dimensions and the tile's coordinates. -/
  | mgeo (d : RegNo) (a : RegNo) (arr : BitVec 2)
  /-- R135. Sets the geometry from an explicit sub-range. -/
  | mgeoSub (a : RegNo) (arr : BitVec 2)
  /-- R134. Sets an accumulator's live mask. -/
  | msk (a : RegNo) (z : Fin 4)
  /-- R181. Sends a register as two stream flits in its timetabled slot. -/
  | xmit (a : RegNo)
  /-- R181. Sends n quads from local SRAM as stream flits. -/
  | xmitM (a : RegNo) (cnt : BitVec 11)
  /-- R182. Takes two stream flits at the local output and writes a full quad. -/
  | catchOne (a : RegNo) (off : BitVec 11)
  /-- R182. Takes n quads of stream flits into local SRAM. -/
  | catchM (a : RegNo) (cnt : BitVec 11)
  /-- R182. A later flit of a catch is taken, or its absence raises SLIP_EMPTY CHECK as a cycle fault. -/
  | catchFlitTake (t : Coord)
  /-- R183. Posts a 64-bit store to a word of a partition tile through the journal. -/
  | put (d : RegNo) (a : RegNo) (off : BitVec 11)
  /-- R183. The home checks its windows and performs the posted store, then sends an answer. -/
  | putPerform (pid : Nat) (id : Nat)
  /-- R184. The acknowledgement reaches the sender and frees the journal entry. -/
  | putAnswer (pid : Nat) (id : Nat)
  /-- R185. Checks that every put of the superstep has been answered. -/
  | sealOp
  /-- R186. Records the core's Turnstile arrival and returns the superstep number. -/
  | trn (d : RegNo)
  /-- R187. Checks that the load queue holds at least k entries. -/
  | chkLq (k : BitVec 4)
  /-- R187. Checks that a word's full bit is set. -/
  | chkFe (a : RegNo) (off : BitVec 11)
  /-- R187. Checks that a channel's write pointer reaches a threshold. -/
  | chkWp (a : RegNo) (ch : Fin 4)
  /-- R188. Adds an amount to a tile semaphore at n+3. -/
  | semUp (a : RegNo) (k : BitVec 4)
  /-- R188. Tests and decrements a semaphore, or slips. -/
  | semChk (a : RegNo) (k : BitVec 4)
  /-- R189. Makes the current Turnstile a resync Turnstile for a troupe member. -/
  | resync
  /-- R190. Makes a helper slot live at an entry with an argument. -/
  | start (d : RegNo) (a : RegNo) (k : BitVec 2)
  /-- R191. Ends the issuing slot's liveness. -/
  | stop
  /-- R192. Returns partition time, cycle, superstep or coordinates. -/
  | rmt (d : RegNo) (sel : BitVec 3)
  /-- R193. Writes a trace record into the tile's mark ring. -/
  | mark (a : RegNo) (mtag : BitVec 11)
  /-- R233. Atomic add at the word's home. -/
  | amoAdd (d : RegNo) (a : RegNo) (b : RegNo) (ty : ATy)
  /-- R233. Atomic signed maximum. -/
  | amoMax (d : RegNo) (a : RegNo) (b : RegNo) (ty : ATy)
  /-- R233. Atomic signed minimum. -/
  | amoMin (d : RegNo) (a : RegNo) (b : RegNo) (ty : ATy)
  /-- R233. Atomic unsigned maximum. -/
  | amoMaxu (d : RegNo) (a : RegNo) (b : RegNo) (ty : ATy)
  /-- R233. Atomic unsigned minimum. -/
  | amoMinu (d : RegNo) (a : RegNo) (b : RegNo) (ty : ATy)
  /-- R233. Atomic AND. -/
  | amoAnd (d : RegNo) (a : RegNo) (b : RegNo) (ty : ATy)
  /-- R233. Atomic OR. -/
  | amoOr (d : RegNo) (a : RegNo) (b : RegNo) (ty : ATy)
  /-- R233. Atomic XOR. -/
  | amoXor (d : RegNo) (a : RegNo) (b : RegNo) (ty : ATy)
  /-- R233. Atomic swap. -/
  | amoSwap (d : RegNo) (a : RegNo) (b : RegNo) (ty : ATy)
  /-- R233. Atomic compare-and-swap with compare operand cE. -/
  | amoCas (d : RegNo) (a : RegNo) (b : RegNo) (e : RegNo) (ty : ATy)
  /-- R233. Atomic FP32 maximum. -/
  | amoFmax (d : RegNo) (a : RegNo) (b : RegNo)
  /-- R235. An atomic arriving at its home is serialised, window-checked and performed, and its answer sent. -/
  | amoPerform (pid : Nat) (id : Nat)
  /-- R236. A space-1 atomic's answer reaches the sender, writes cD and frees the journal entry. -/
  | amoAnswer (pid : Nat) (id : Nat)
  /-- R238. Checks (tile) or waits for (hub) completion of earlier remote writes in a scope. -/
  | fence (scope : BitVec 5)
  /-- R253. Queues a shaped copy on a copy channel. -/
  | cpy (d : RegNo) (a : RegNo) (b : RegNo) (ch : Fin 4)
  /-- R253. Queues an indexed gather on a copy channel. -/
  | cpyG (d : RegNo) (a : RegNo) (b : RegNo) (ch : Fin 4)
  /-- R253. Queues an indexed scatter on a copy channel. -/
  | cpyS (d : RegNo) (a : RegNo) (b : RegNo) (ch : Fin 4)
  /-- R254. Returns a channel's wp, ORC, ERR and busy bits. -/
  | cpyWp (d : RegNo) (ch : Fin 4)
  /-- R257. Contributes words to an in-network reduction to the group origin. -/
  | gput (d : RegNo) (a : RegNo) (b : RegNo) (ch : Fin 4)
  /-- R257. Broadcasts the origin's words to every group member. -/
  | gget (d : RegNo) (a : RegNo) (b : RegNo) (ch : Fin 4)
  /-- R256. Writes a group-table shadow entry. -/
  | gtbl (a : RegNo) (b : RegNo)
  /-- R241. A queued or new channel command starts at its start cycle and walks its elements. -/
  | channelCommandStart (o : Owner) (ch : Fin 4)
  /-- R250. A member-tile engine element is window-checked at its home and written or refused. -/
  | engineElementAtHome (pid : Nat) (id : Nat)
  /-- R250. An engine element's refusal reaches the channel's tile and raises REMOTE_NACK. -/
  | engineRefusalArrival (pid : Nat) (id : Nat)
  /-- R249. A loose home's reply or acknowledgement arrives and is written, counted or sets ERR. -/
  | deadlineReplyArrival (id : Nat) (reply : Reply)
  /-- R249. A deferred deadline or Carousel write takes effect in the first cycle free of partition writes. -/
  | deferredDeliveryWrite (pid : Nat) (id : Nat)
  /-- R259. A combined gput word reaches the origin, is count-checked and written. -/
  | reductionCombinedArrival (pid : Nat) (key : RedKey)
  /-- R259. A broadcast word reaches a member and is written, or its absence raises GROUP. -/
  | ggetWordArrival (t : Coord) (key : RedKey)
  /-- R287. Raises TRAP with a code and argument and freezes the partition or stops the hub. -/
  | trapTrap (a : RegNo) (num : BitVec 12)
  /-- R283. Disposes of a message with RESUME, restarting the partition or hub. -/
  | tretResume (a : RegNo)
  /-- R283. Disposes of a message with ABANDON, halting the partition or restarting the hub. -/
  | tretAbandon (a : RegNo)
  /-- R283. Forwards a message to the next handler level. -/
  | tretForward (a : RegNo)
  /-- R284. Resumes the partition with one named tile lost. -/
  | tretIsolate (a : RegNo)
  /-- R289. Reads a system register. -/
  | sysrd (d : RegNo) (num : BitVec 12)
  /-- R289. Writes a system register at n+3. -/
  | syswr (a : RegNo) (num : BitVec 12)
  /-- R290. Discards and refills the slot's fetch buffer. -/
  | ifence
  /-- R291. Ends every slot of the core, or stops a hub with a message. -/
  | halt
  /-- R292. Arms or disarms the core's watchdog. -/
  | hbeat (a : RegNo)
  /-- R292. An armed watchdog reaches HBD-1 and raises HEARTBEAT. -/
  | heartbeat (t : Coord) (k : Side)
  /-- R325. Writes a translation entry outside the pinned region. -/
  | tlbW (a : RegNo) (imm : BitVec 12)
  /-- R326. Invalidates translation entries by mode. -/
  | tlbInv (a : RegNo) (mode : BitVec 12)
  /-- R382. Binds a Carousel ring to the landing tile from a ring record. -/
  | crsOpen (a : RegNo)
  /-- R383. Advances the ring step counter. -/
  | crsStep (d : RegNo)
  /-- R384. Sends the step's block to the successor if its slot is owned. -/
  | crsSend (a : RegNo)
  /-- R384. Checks that a step's slot is FULL. -/
  | crsChk (a : RegNo)
  /-- R385. Empties a slot and queues its release to the predecessor. -/
  | crsRel (a : RegNo)
  /-- R385. Clears the binding when every slot is idle. -/
  | crsClose
  /-- R28. Register, memory, queue and flag effects due at the end of a cycle take effect in order. -/
  | pendingEffectDue (pid : Nat)
  /-- R174. A flit takes its router output in its cycle, or loses arbitration to the safety net. -/
  | flitHop (pid : Nat) (id : Nat)
  /-- R177. A route or edge entry's slot passes with no instruction offered and SLIP_LATE SLOT is raised. -/
  | missedSlot (t : Coord) (entry : Nat)
  /-- R154. At U_s-1 arrivals and store counts are checked and the superstep advances. -/
  | turnstile (pid : Nat)
  /-- R209. A timetabled ACT opens a bank row. -/
  | bankAct (pid : Nat) (entry : Nat)
  /-- R209. A timetabled RD checks its armed channel and reads a burst, or slips BANK. -/
  | bankRd (pid : Nat) (entry : Nat)
  /-- R209. A timetabled WR checks its armed channel and writes a staged burst, or slips BANK. -/
  | bankWr (pid : Nat) (entry : Nat)
  /-- R209. A timetabled PRE closes a bank. -/
  | bankPre (pid : Nat) (entry : Nat)
  /-- R209. RD data arrive at the base-die port at t+96 and go to the channel, or raise ECC_HBM. -/
  | hbmReadData (pid : Nat) (id : Nat)
  /-- R202. A loose access arrives at a tile and is window-checked, performed or refused. -/
  | looseTileArrival (a : Loose)
  /-- R232. A blocked hub access receives its answer and the hub continues. -/
  | hubAccessAnswer (die : Nat) (hub : Nat) (ans : Reply)
  /-- R279. The Ringmaster sends one ticketed trap message for a completed freeze to the handler chain. -/
  | trapMessage (pid : Nat)
  /-- R285. The host forwards or fails to answer within 2^35 cycles and the partition is halted. -/
  | chainExhaustion (ticket : Nat)
  /-- R305. A partition held in place restarts after its causes end, running the re-issue step first. -/
  | restart (pid : Nat)
  /-- R307. A victim freezes at the requested device RMT and is written out. -/
  | intermissionFreeze (pid : Nat)
  /-- R307. Write-out finishes and the victim's tiles become free at the next launch slot. -/
  | writeOutComplete (pid : Nat)
  /-- R306. A written-out partition placed again restarts at L+8704+8WH. -/
  | restoredPartitionStart (pid : Nat)
  /-- R308. Every accepting member freezes at the end of troupe cycle q-1. -/
  | troupeIntermissionFreeze (pid : Nat)
  /-- R365. A member restarts partition cycle U_s at the agreed instant Q-OFS. -/
  | troupeRestart (pid : Nat)
  /-- R162. A non-pre-staged image finishes copying into hub staging SRAM and becomes a candidate. -/
  | imageStaged (seq : Nat)
  /-- R166. At T0 partition cycle 0 begins, slot 0 of valid cores issues and held accesses are performed. -/
  | partitionStart (pid : Nat)
  /-- R336. A queued swap runs at the first launch slot when its tile is in no placed partition. -/
  | spareSwapExecute (t : Coord)
  /-- R335. A log signature is written to its slot and notice 0x8004 posted. -/
  | logSignatureDone (lseq : Nat)
  /-- R281. A read of hub register 0x800 pops a trap message header, blocking while empty. -/
  | tmsgRead (die : Nat) (hub : Nat) (d : RegNo)
  /-- R323. A read of 0x811 pops a translation request, blocking while none. -/
  | xmsgRead (die : Nat) (hub : Nat) (d : RegNo)
  /-- R367. QUIESCE ends and the group enters DRAIN. -/
  | drainBegin (g : Nat)
  /-- R368. DRAIN ends, outstanding requests are aborted and GEN advances. -/
  | drainEnd (g : Nat)
  /-- R364. A port direction drops to one lane at a group boundary after realignment. -/
  | widthReduction (dir : PortDir)
  /-- R354. At each flit time a port sends the highest-priority ready flit or idle. -/
  | linkFlitSend (port : Nat)
  /-- R362. At r_k the port releases a present quad into the mesh or raises LINK_LATE. -/
  | edgeQuadRelease (pid : Nat) (entry : Nat) (quad : SlotQuad)
  /-- R363. A group's integrity tag is verified and its contents released or replayed. -/
  | tagVerify (port : Nat) (ctr : Nat)
  /-- R70. A word reaches issue whose opcode or function code is reserved or unassigned and raises ILLEGAL, exactly. -/
  | illegal (w : Word)
  /-- R337. A spare remap finishes within 65,536 cycles: skip links set, the spare reset, a kind 4 record appended and the blocked hub continued. -/
  | remapDone (die : Nat) (num : Nat)
  /-- R336. A corrected storage error is logged and may make its structure lasting. -/
  | correctedError (e : ErrEvent)
  /-- R333. The Ringmaster hub appends a hash-chained error-log record. -/
  | logAppend (e : ErrEvent)
  /-- R329. A host write of JTAIL publishes records and at first latches the rings and features. -/
  | jtailWrite (v : DWord)
  /-- R341. A host write of 1 in state 0 starts firmware verification. -/
  | bootstatWrite (v : DWord)
  /-- R341. Verification ends and bring-up proceeds to ready, or fails with a status. -/
  | firmwareVerifyDone (o : BootOutcome)
  /-- R341. Power-on resets RMT and starts the boot ROM. -/
  | powerOnReset
  /-- R369. A read of SLACKMIN returns and resets the smallest slack seen. -/
  | slackminRead (port : Nat)
  /-- R367. A GCTL write with GO requests a personality switch, accepted into QUIESCE or refused. -/
  | personalitySwitchRequest (g : Nat) (next : Fin 4) (opt : BitVec 4)
  /-- R367. Lane training ends with the group UP or DOWN. -/
  | retrainComplete (g : Nat) (r : TrainResult)
  /-- R371. A new integrity mode takes effect at the first group boundary after both ends agree. -/
  | imodeChange (port : Nat) (mode : Fin 3)
  /-- R361. A received slot-data flit is matched to a receive entry and held in the landing buffer. -/
  | linkSlotDataFlit (port : Nat) (f : WireFlit)
  /-- R356. A loose request flit is admitted by an edge window and performed or refused. -/
  | linkRequestFlit (port : Nat) (f : WireFlit)
  /-- R356. A response flit completes its outstanding request or is dropped. -/
  | linkResponseFlit (port : Nat) (f : WireFlit)
  /-- R353. An idle flit is received and counted in its tag group. -/
  | linkIdleFlit (port : Nat) (f : WireFlit)
  /-- R378. A Carousel data flit at RPORT is matched to a slot and its quads written. -/
  | carouselDataFlit (port : Nat) (f : WireFlit)
  /-- R378. A release (MTYPE 9) at SPORT returns a lent slot view to OWNED. -/
  | carouselReleaseFlit (port : Nat) (f : WireFlit)
  /-- R308. Management message MTYPE 1 proposes a troupe intermission cycle. -/
  | mgmtIntermissionProposal (port : Nat) (f : WireFlit)
  /-- R365. Management message MTYPE 2 accepts a proposal. -/
  | mgmtAccept (port : Nat) (f : WireFlit)
  /-- R365. Management message MTYPE 3 rejects a proposal. -/
  | mgmtReject (port : Nat) (f : WireFlit)
  /-- R365. Management message MTYPE 4 reports a member's resync Turnstile to the lead. -/
  | mgmtResyncReport (port : Nat) (f : WireFlit)
  /-- R365. Management message MTYPE 5 gives the restart instant Q. -/
  | mgmtRestart (port : Nat) (f : WireFlit)
  /-- R365. Management message MTYPE 6 proposes a troupe power step. -/
  | mgmtStepProposal (port : Nat) (f : WireFlit)
  /-- R365. Management message MTYPE 7 makes the lead choose a resync superstep. -/
  | mgmtResyncNotice (port : Nat) (f : WireFlit)
  /-- R367. Management message MTYPE 8 tells a peer that the group is quiescing. -/
  | mgmtDrained (port : Nat) (f : WireFlit)
  /-- R289. A write of a register with no behaviour of its own stores the value. -/
  | registerWrite (r : DevReg) (v : Quad)
  /-- R367. A Lyder link or other personality port loses its peer or lanes and the group enters DOWN, answering every request PATH_DOWN. -/
  | portLoss (port : Nat)
  /-- R171. Hub firmware requests a power step for a partition. -/
  | powerStepRequest (pid : Nat) (step : Fin 4)
  /-- R172. An emergency thermal trip stretches every module cycle. -/
  | thermalTrip (f : Stretch)
  /-- R172. The thermal trip ends and module cycles return to normal length. -/
  | thermalTripEnd
  /-- R310. FRZCTL command 1 freezes a partition with cause 5. -/
  | frzctlFreeze (pid : Nat)
  /-- R310. FRZCTL command 2 ends cause 5. -/
  | frzctlEndRequest (pid : Nat)
  /-- R310. FRZCTL command 3 writes out a frozen partition and intermissions it. -/
  | frzctlIntermission (pid : Nat)
  /-- R310. FRZCTL command 4 writes out a frozen partition and retires it. -/
  | frzctlRetire (pid : Nat)
  /-- R201. A hub write of a tile window register, held in a shadow while the partition runs. -/
  | windowRegisterWrite (t : Coord) (n : Fin 4) (v : DWord)
  /-- R323. A write of 0x812 completes a translation request with success or a reason. -/
  | xdoneWrite (die : Nat) (hub : Nat) (v : Quad)
  /-- R323. A write of 0x813 removes the n oldest dirty-log records. -/
  | dlogWrite (die : Nat) (hub : Nat) (v : Quad)
  /-- R316. A write of AGEN invalidates matching unpinned entries on every die. -/
  | agenWrite (a : Nat) (v : DWord)
  /-- R337. A write of a spare-map register remaps a logical tile onto a spare. -/
  | spareMapWrite (die : Nat) (hub : Nat) (num : Nat) (v : Quad)
  /-- R210. The base die refreshes a bank in its refresh window. -/
  | bankRefresh (pc : Nat) (bank : Nat)
  /-- R162. Every 4096 cycles the Ringmaster reads newly published records and accepts or refuses them. -/
  | journalScan
  /-- R164. Every 1024 cycles retirements, swaps, non-launch commands and one admission are processed. -/
  | launchSlot
  /-- R331. Notices held in hub SRAM are written as NHEAD frees space. -/
  | noticeFlush
  /-- R334. When log space frees, a kind-5 record of lost events is appended. -/
  | lostEventsRecord
  /-- R161. Journal record kind 0x0001 launches a partition. -/
  | launch (seq : Nat)
  /-- R306. Journal record kind 0x0002 restores a saved partition. -/
  | restore (seq : Nat)
  /-- R330. Journal record kind 0x0003 merges dirty-log records. -/
  | harvest (seq : Nat)
  /-- R335. Journal record kind 0x0004 appends a signed log record. -/
  | signLog (seq : Nat)
  /-- R330. Journal record kind 0x0005 gives the host's disposition for a ticket. -/
  | trapAnswer (seq : Nat)
  /-- R330. Journal record kind 0x0006 requests a spare swap of a tile. -/
  | spareSwap (seq : Nat)
  /-- R342. Journal record kind 0x0007 writes a signed attestation report. -/
  | attest (seq : Nat)
  /-- R212. A loose HBM access is performed in arrival order or held for an owner. -/
  | looseHbmAccess (a : Loose)
  deriving DecidableEq, Repr

end Sys2Proof
end

