-- ==== Sys2Proof/Config.lean ====
section
/-! DEFINITION. What an implementation fixes and the manual leaves open: free values with no body (log entries 4 to 14).
No statement rests on any of them. -/

namespace Sys2Proof

/-- The number of device cycles a loose access, answer or reply takes (R213, R231, R349): free. -/
opaque Config.looseDelay : Nat → Nat
/-- Whether a hub core issues in a device cycle (R145): free. -/
opaque Config.hubIssues : Nat → Bool
/-- SPOK, the spare tiles that passed their test at bring-up, by spare-map register (R337, R341): free. -/
opaque Config.spok : Nat → Bool
/-- The PCC with its tag that the firmware gives a hub (R283, R341): free. -/
opaque Config.hubEntry : Nat → BitVec 129
/-- The members of a troupe (R365), by troupe number: device numbers, free. -/
opaque Config.troupeMembers : Nat → List Nat
/-- The port on which the management path toward a device begins (R365): free. -/
opaque Config.relayPort : Nat → Nat
/-- What the port OFS values beyond the first relay port add to a device's offset (R365): free. -/
opaque Config.relayOfs : Nat → Int
/-- The bytes of the firmware image that its SHA-256 covers (R341, R342): free. -/
opaque Config.firmwareHashByte : Nat → Byte
/-- The log key of the power-on (R333, R342): free, 48 bytes. -/
opaque Config.logKeyByte : Nat → Byte
/-- A signature byte (R335, R342): free. -/
opaque Config.signatureByte : List Byte → Nat → Byte
/-- Whether the receiver at the other end has given credit for a flit (R354): free. -/
opaque Config.linkCredit : Nat → Bool
/-- Whether a flit fails its CRC on its way (R354): free. -/
opaque Config.crcFails : Nat → Bool
/-- REASON of a translation that failed on another device, which a response does not carry: free among the five of R320 (R353, R359). -/
opaque Config.remoteReason : Nat → Fin 5
/-- How long a store accepted by a home on another device takes to be performed there (R232, R238): free. -/
opaque Config.remotePerform : Nat → Nat
/-- INFO of a fence's slip (R238): the manual states none; free. -/
opaque Config.fenceInfo : Nat → BitVec 64
/-- The superstep number of another troupe member, by device, as a lead's poll finds it at a device RMT (R365): free. -/
opaque Config.memberSuperstep : Nat → Nat → Nat

end Sys2Proof
end

