-- ==== Sys2Proof/WellFormed.lean ====
section
/-! DEFINITION. The selector values that no instruction may hold (R70), as a check on abstract instructions. -/

namespace Sys2Proof

/-- Why a word or an instruction is not legal (R70). -/
inductive Reject where
  /-- an opcode of R62 marked reserved -/
  | reservedOpcode (op : Nat)
  /-- a function code that R64 to R69 leave unassigned -/
  | unassignedFunction (f : Nat)
  /-- a bit that R61 draws as 0 is 1 -/
  | mustBeZero
  /-- a selector holds a value that the manual calls illegal -/
  | illegalSelector
  /-- fewer than four bytes -/
  | shortStream
  deriving DecidableEq, Repr

/-- The number of lanes of a VINT element width (R66). -/
def VTy.lanes : VTy → Nat
  | .b => 16
  | .h => 8
  | .w => 4
  | .d => 2

/-- RMX 5 and 6 are illegal (R67). -/
def rmxLegal (r : BitVec 3) : Bool := r.toNat != 5 && r.toNat != 6
/-- SX 3 is illegal (R67). -/
def sxLegal (x : BitVec 2) : Bool := x.toNat != 3

/-- The selector checks of R70. An instruction not named here has no selector beyond its types. -/
def Instr.wellFormed : Instr → Bool
  | .loop _ imm => imm.toNat != 0
  | .vbcast _ _ idx ty => decide (idx.toNat < ty.lanes)
  | .cvtWide _ _ _ r x _ | .cvtWideb _ _ _ r x _ | .cvtPack _ _ _ r x _ | .cvtPackb _ _ _ r x _
  | .cvtF2b _ _ _ r x _ | .cvtB2f _ _ _ r x _ | .cvtF2i _ _ _ r x _ | .cvtI2f _ _ _ r x _ => rmxLegal r && sxLegal x
  | .mzRd _ x r ty half _ _ => rmxLegal r && sxLegal x && !(ty == 1 && half == 1)
  | .chkLq k => 1 ≤ k.toNat && k.toNat ≤ 8
  | .start _ _ k => k.toNat != 0
  | .rmt _ sel => decide (sel.toNat < 5)
  | .fence scope => decide (scope.toNat ≤ 5)
  | _ => true

end Sys2Proof
end

