-- ==== Sys2Proof/Decode.lean ====
section
/-! DEFINITION. Decoding of instruction words (R59 to R70), total on any word, the encoder written from the same
tables, and what a word's encoding fixes about it: its register fields, the cores that may issue it, its frame class
(R61, R63, R72). -/

namespace Sys2Proof

/-- The D field [25:21] as a register (R59). -/
def rD (w : Nat) : RegNo := ⟨w / 2 ^ 21 % 32, Nat.mod_lt _ (by decide)⟩
/-- The A field [20:16]. -/
def rA (w : Nat) : RegNo := ⟨w / 2 ^ 16 % 32, Nat.mod_lt _ (by decide)⟩
/-- The B field [15:11]. -/
def rB (w : Nat) : RegNo := ⟨w / 2 ^ 11 % 32, Nat.mod_lt _ (by decide)⟩
/-- The E field [10:6]. -/
def rE (w : Nat) : RegNo := ⟨w / 2 ^ 6 % 32, Nat.mod_lt _ (by decide)⟩
/-- A `k`-bit field whose lowest bit is `lo`. -/
def bv (k w lo : Nat) : BitVec k := BitVec.ofNat k (w / 2 ^ lo)
/-- A two-bit index field whose lowest bit is `lo`. -/
def fin4 (w lo : Nat) : Fin 4 := ⟨w / 2 ^ lo % 4, Nat.mod_lt _ (by decide)⟩
/-- cat(offh, offl) of the Bc format (R60, R61). -/
def branchOff (w : Nat) : BitVec 16 := BitVec.ofNat 16 (w / 2 ^ 21 % 32 * 2 ^ 11 + w % 2 ^ 11)

/-- A word that passed its checks so far. -/
def accept (i : Instr) : Except Reject Instr := .ok i
/-- The bits a form draws as 0 must be 0 (R61). -/
def zero (w : Nat) (rs : List (Nat × Nat)) (k : Except Reject Instr) : Except Reject Instr :=
  if rs.all (fun r => bits w r.1 r.2 == 0) then k else .error .mustBeZero
/-- A selector that must be legal (R70). -/
def selector (c : Bool) (k : Except Reject Instr) : Except Reject Instr :=
  if c then k else .error .illegalSelector
/-- TY of VFP, VSF and VBLK: 2 and 3 are illegal (R66). -/
def fty (w : Nat) (k : FTy → Except Reject Instr) : Except Reject Instr :=
  match bits w 5 4 with
  | 0 => k .f32
  | 1 => k .bf16
  | _ => .error .illegalSelector
/-- TY of an atomic: 2 and 3 are illegal (R69). -/
def aty (w : Nat) (k : ATy → Except Reject Instr) : Except Reject Instr :=
  match bits w 5 4 with
  | 0 => k .w
  | 1 => k .d
  | _ => .error .illegalSelector
/-- A width code 0 to 3 (R64, R66). -/
def vtyOf (n : Nat) : VTy :=
  match n with
  | 0 => .b
  | 1 => .h
  | 2 => .w
  | _ => .d
/-- TY of VINT: every value is legal (R66). -/
def vty (w : Nat) : VTy := vtyOf (bits w 5 4)
/-- The B field of sext and zext: 4 to 31 are illegal (R64). -/
def width (w : Nat) (k : VTy → Except Reject Instr) : Except Reject Instr :=
  if bits w 15 13 = 0 then k (vtyOf (bits w 12 11)) else .error .illegalSelector

/-- The function codes of opcode INT (R64 to R69). -/
def decodeInt (w : Nat) : Except Reject Instr :=
  match bits w 5 0 with
  | 0x00 => zero w [(10, 6)] <| accept (.add (rD w) (rA w) (rB w))
  | 0x01 => zero w [(10, 6)] <| accept (.sub (rD w) (rA w) (rB w))
  | 0x02 => zero w [(10, 6)] <| accept (.and (rD w) (rA w) (rB w))
  | 0x03 => zero w [(10, 6)] <| accept (.or (rD w) (rA w) (rB w))
  | 0x04 => zero w [(10, 6)] <| accept (.xor (rD w) (rA w) (rB w))
  | 0x05 => zero w [(10, 6)] <| accept (.andn (rD w) (rA w) (rB w))
  | 0x06 => zero w [(10, 6)] <| accept (.sll (rD w) (rA w) (rB w))
  | 0x07 => zero w [(10, 6)] <| accept (.srl (rD w) (rA w) (rB w))
  | 0x08 => zero w [(10, 6)] <| accept (.sra (rD w) (rA w) (rB w))
  | 0x09 => zero w [(10, 6)] <| accept (.rol (rD w) (rA w) (rB w))
  | 0x0A => zero w [(10, 6)] <| accept (.slt (rD w) (rA w) (rB w))
  | 0x0B => zero w [(10, 6)] <| accept (.sltu (rD w) (rA w) (rB w))
  | 0x0C => zero w [(10, 6)] <| accept (.min (rD w) (rA w) (rB w))
  | 0x0D => zero w [(10, 6)] <| accept (.max (rD w) (rA w) (rB w))
  | 0x0E => zero w [(10, 6)] <| accept (.minu (rD w) (rA w) (rB w))
  | 0x0F => zero w [(10, 6)] <| accept (.maxu (rD w) (rA w) (rB w))
  | 0x10 => zero w [(10, 6)] <| accept (.mul (rD w) (rA w) (rB w))
  | 0x11 => zero w [(10, 6)] <| accept (.mulh (rD w) (rA w) (rB w))
  | 0x12 => zero w [(10, 6)] <| accept (.mulhu (rD w) (rA w) (rB w))
  | 0x14 => zero w [(10, 6)] <| accept (.div (rD w) (rA w) (rB w))
  | 0x15 => zero w [(10, 6)] <| accept (.divu (rD w) (rA w) (rB w))
  | 0x16 => zero w [(10, 6)] <| accept (.rem (rD w) (rA w) (rB w))
  | 0x17 => zero w [(10, 6)] <| accept (.remu (rD w) (rA w) (rB w))
  | 0x18 => zero w [(15, 6)] <| accept (.clz (rD w) (rA w))
  | 0x19 => zero w [(15, 6)] <| accept (.ctz (rD w) (rA w))
  | 0x1A => zero w [(15, 6)] <| accept (.pop (rD w) (rA w))
  | 0x1C => zero w [(10, 6)] <| width w fun wd => accept (.sext (rD w) (rA w) wd)
  | 0x1D => zero w [(10, 6)] <| width w fun wd => accept (.zext (rD w) (rA w) wd)
  | f => .error (.unassignedFunction f)

/-- The function codes of opcode CAP (R64 to R69). -/
def decodeCap (w : Nat) : Except Reject Instr :=
  match bits w 5 0 with
  | 0x00 => zero w [(10, 6)] <| accept (.cbnd (rD w) (rA w) (rB w))
  | 0x01 => zero w [(10, 6)] <| accept (.cperm (rD w) (rA w) (rB w))
  | 0x02 => zero w [(10, 6)] <| accept (.cinc (rD w) (rA w) (rB w))
  | 0x03 => zero w [(10, 6)] <| accept (.cset (rD w) (rA w) (rB w))
  | 0x04 => zero w [(15, 6)] <| accept (.cgetBase (rD w) (rA w))
  | 0x05 => zero w [(15, 6)] <| accept (.cgetLen (rD w) (rA w))
  | 0x06 => zero w [(15, 6)] <| accept (.cgetPerm (rD w) (rA w))
  | 0x07 => zero w [(15, 6)] <| accept (.cgetTag (rD w) (rA w))
  | 0x08 => zero w [(15, 6)] <| accept (.cgetCur (rD w) (rA w))
  | 0x09 => zero w [(10, 6)] <| accept (.cseal (rD w) (rA w) (rB w))
  | 0x0A => zero w [(10, 6)] <| accept (.cunseal (rD w) (rA w) (rB w))
  | f => .error (.unassignedFunction f)

/-- The function codes of opcode CTRL (R64 to R69). -/
def decodeCtrl (w : Nat) : Except Reject Instr :=
  match bits w 5 0 with
  | 0x00 => zero w [(25, 6)] <| accept (.nop)
  | 0x01 => zero w [(25, 21), (15, 6)] <| accept (.jr (rA w))
  | 0x02 => zero w [(25, 21), (15, 6)] <| accept (.hold (rA w))
  | f => .error (.unassignedFunction f)

/-- The function codes of opcode LD (R64 to R69). -/
def decodeLd (w : Nat) : Except Reject Instr :=
  match bits w 15 12 with
  | 0x00 => accept (.ldB (rD w) (rA w) (bv 12 w 0))
  | 0x01 => accept (.ldBu (rD w) (rA w) (bv 12 w 0))
  | 0x02 => accept (.ldH (rD w) (rA w) (bv 12 w 0))
  | 0x03 => accept (.ldHu (rD w) (rA w) (bv 12 w 0))
  | 0x04 => accept (.ldW (rD w) (rA w) (bv 12 w 0))
  | 0x06 => accept (.ldD (rD w) (rA w) (bv 12 w 0))
  | 0x07 => accept (.ldQ (rD w) (rA w) (bv 12 w 0))
  | 0x08 => accept (.ldC (rD w) (rA w) (bv 12 w 0))
  | 0x09 => accept (.ldFe (rD w) (rA w) (bv 12 w 0))
  | 0x0A => accept (.ldbQ (rD w) (rA w) (bv 12 w 0))
  | 0x0B => zero w [(25, 21)] <| accept (.ldLq (rA w) (bv 12 w 0))
  | f => .error (.unassignedFunction f)

/-- The function codes of opcode ST (R64 to R69). -/
def decodeSt (w : Nat) : Except Reject Instr :=
  match bits w 15 12 with
  | 0x00 => accept (.stB (rD w) (rA w) (bv 12 w 0))
  | 0x02 => accept (.stH (rD w) (rA w) (bv 12 w 0))
  | 0x04 => accept (.stW (rD w) (rA w) (bv 12 w 0))
  | 0x06 => accept (.stD (rD w) (rA w) (bv 12 w 0))
  | 0x07 => accept (.stQ (rD w) (rA w) (bv 12 w 0))
  | 0x08 => accept (.stC (rD w) (rA w) (bv 12 w 0))
  | 0x09 => accept (.stFe (rD w) (rA w) (bv 12 w 0))
  | 0x0A => accept (.stbQ (rD w) (rA w) (bv 12 w 0))
  | 0x0B => zero w [(25, 21)] <| accept (.stSq (rA w) (bv 12 w 0))
  | f => .error (.unassignedFunction f)

/-- The function codes of opcode VFP (R64 to R69). -/
def decodeVfp (w : Nat) : Except Reject Instr :=
  match bits w 3 0 with
  | 0x00 => zero w [(10, 6)] <| fty w fun ty => accept (.fadd (rD w) (rA w) (rB w) ty)
  | 0x01 => zero w [(10, 6)] <| fty w fun ty => accept (.fsub (rD w) (rA w) (rB w) ty)
  | 0x02 => zero w [(10, 6)] <| fty w fun ty => accept (.fmul (rD w) (rA w) (rB w) ty)
  | 0x03 => fty w fun ty => accept (.fma (rD w) (rA w) (rB w) (rE w) ty)
  | 0x04 => fty w fun ty => accept (.fms (rD w) (rA w) (rB w) (rE w) ty)
  | 0x05 => zero w [(10, 6)] <| fty w fun ty => accept (.fmin (rD w) (rA w) (rB w) ty)
  | 0x06 => zero w [(10, 6)] <| fty w fun ty => accept (.fmax (rD w) (rA w) (rB w) ty)
  | 0x07 => zero w [(15, 6)] <| fty w fun ty => accept (.fabs (rD w) (rA w) ty)
  | 0x08 => zero w [(15, 6)] <| fty w fun ty => accept (.fneg (rD w) (rA w) ty)
  | 0x09 => zero w [(10, 6)] <| fty w fun ty => accept (.fcmpEq (rD w) (rA w) (rB w) ty)
  | 0x0A => zero w [(10, 6)] <| fty w fun ty => accept (.fcmpLt (rD w) (rA w) (rB w) ty)
  | 0x0B => zero w [(10, 6)] <| fty w fun ty => accept (.fcmpLe (rD w) (rA w) (rB w) ty)
  | 0x0C => fty w fun ty => accept (.fsel (rD w) (rA w) (rB w) (rE w) ty)
  | 0x0D => zero w [(15, 6)] <| fty w fun ty => accept (.vsum (rD w) (rA w) ty)
  | 0x0E => zero w [(15, 6)] <| fty w fun ty => accept (.vmaxr (rD w) (rA w) ty)
  | 0x0F => zero w [(15, 6)] <| fty w fun ty => accept (.vminr (rD w) (rA w) ty)
  | f => .error (.unassignedFunction f)

/-- The function codes of opcode VSF (R64 to R69). -/
def decodeVsf (w : Nat) : Except Reject Instr :=
  match bits w 3 0 with
  | 0x00 => zero w [(15, 6)] <| fty w fun ty => accept (.frcp (rD w) (rA w) ty)
  | 0x01 => zero w [(15, 6)] <| fty w fun ty => accept (.frsq (rD w) (rA w) ty)
  | 0x02 => zero w [(15, 6)] <| fty w fun ty => accept (.fsqrt (rD w) (rA w) ty)
  | 0x03 => zero w [(15, 6)] <| fty w fun ty => accept (.fex2 (rD w) (rA w) ty)
  | 0x04 => zero w [(15, 6)] <| fty w fun ty => accept (.flg2 (rD w) (rA w) ty)
  | 0x05 => zero w [(15, 6)] <| fty w fun ty => accept (.fsin (rD w) (rA w) ty)
  | 0x06 => zero w [(15, 6)] <| fty w fun ty => accept (.fcos (rD w) (rA w) ty)
  | f => .error (.unassignedFunction f)

/-- The function codes of opcode VINT (R64 to R69). -/
def decodeVint (w : Nat) : Except Reject Instr :=
  match bits w 3 0 with
  | 0x00 => zero w [(10, 6)] <| accept (.vadd (rD w) (rA w) (rB w) (vty w))
  | 0x01 => zero w [(10, 6)] <| accept (.vsub (rD w) (rA w) (rB w) (vty w))
  | 0x02 => zero w [(10, 6)] <| accept (.vmul (rD w) (rA w) (rB w) (vty w))
  | 0x03 => zero w [(10, 6)] <| accept (.vmin (rD w) (rA w) (rB w) (vty w))
  | 0x04 => zero w [(10, 6)] <| accept (.vmax (rD w) (rA w) (rB w) (vty w))
  | 0x05 => zero w [(10, 6)] <| accept (.vand (rD w) (rA w) (rB w) (vty w))
  | 0x06 => zero w [(10, 6)] <| accept (.vor (rD w) (rA w) (rB w) (vty w))
  | 0x07 => zero w [(10, 6)] <| accept (.vxor (rD w) (rA w) (rB w) (vty w))
  | 0x08 => zero w [(10, 6)] <| accept (.vshl (rD w) (rA w) (rB w) (vty w))
  | 0x09 => zero w [(10, 6)] <| accept (.vsra (rD w) (rA w) (rB w) (vty w))
  | 0x0A => zero w [(10, 6)] <| accept (.vperm (rD w) (rA w) (rB w) (vty w))
  | 0x0B => zero w [(10, 6)] <| accept (.vbcast (rD w) (rA w) (bv 5 w 11) (vty w))
  | f => .error (.unassignedFunction f)

/-- The function codes of opcode CVT (R64 to R69). -/
def decodeCvt (w : Nat) : Except Reject Instr :=
  match bits w 15 12 with
  | 0x00 => selector (bits w 3 3 = 0) <| accept (.cvtWide (rD w) (rA w) (bv 3 w 9) (bv 3 w 6) (bv 2 w 4) (bv 3 w 0))
  | 0x01 => selector (bits w 3 3 = 0) <| accept (.cvtWideb (rD w) (rA w) (bv 3 w 9) (bv 3 w 6) (bv 2 w 4) (bv 3 w 0))
  | 0x02 => selector (bits w 3 3 = 0) <| accept (.cvtPack (rD w) (rA w) (bv 3 w 9) (bv 3 w 6) (bv 2 w 4) (bv 3 w 0))
  | 0x03 => selector (bits w 3 3 = 0) <| accept (.cvtPackb (rD w) (rA w) (bv 3 w 9) (bv 3 w 6) (bv 2 w 4) (bv 3 w 0))
  | 0x04 => selector (bits w 3 3 = 0) <| accept (.cvtF2b (rD w) (rA w) (bv 3 w 9) (bv 3 w 6) (bv 2 w 4) (bv 3 w 0))
  | 0x05 => selector (bits w 3 3 = 0) <| accept (.cvtB2f (rD w) (rA w) (bv 3 w 9) (bv 3 w 6) (bv 2 w 4) (bv 3 w 0))
  | 0x06 => selector (bits w 3 3 = 0) <| accept (.cvtF2i (rD w) (rA w) (bv 3 w 9) (bv 3 w 6) (bv 2 w 4) (bv 3 w 0))
  | 0x07 => selector (bits w 3 3 = 0) <| accept (.cvtI2f (rD w) (rA w) (bv 3 w 9) (bv 3 w 6) (bv 2 w 4) (bv 3 w 0))
  | f => .error (.unassignedFunction f)

/-- The function codes of opcode VBLK (R64 to R69). -/
def decodeVblk (w : Nat) : Except Reject Instr :=
  match bits w 3 0 with
  | 0x00 => zero w [(10, 6)] <| fty w fun ty => accept (.amaxb (rD w) (rA w) (rB w) ty)
  | 0x01 => zero w [(25, 24), (15, 15), (10, 6)] <| fty w fun ty => accept (.scl (bv 3 w 21) (rA w) (bv 4 w 11) ty)
  | f => .error (.unassignedFunction f)

/-- The function codes of opcode MATC (R64 to R69). -/
def decodeMatc (w : Nat) : Except Reject Instr :=
  match bits w 5 0 with
  | 0x00 => zero w [(25, 11), (8, 6)] <| accept (.mzClr (fin4 w 9))
  | 0x01 => zero w [(25, 21), (15, 11), (8, 6)] <| accept (.mzAnc (rA w) (fin4 w 9))
  | 0x02 => zero w [(13, 11)] <| accept (.mzRd (rD w) (bv 2 w 19) (bv 3 w 16) (bv 1 w 15) (bv 1 w 14) (fin4 w 9) (bv 3 w 6))
  | 0x03 => zero w [(25, 21), (15, 11), (8, 6)] <| accept (.mzRaw (rA w) (fin4 w 9))
  | 0x04 => zero w [(25, 21), (15, 11), (8, 6)] <| accept (.mzAdd (rA w) (fin4 w 9))
  | 0x05 => zero w [(20, 11), (8, 7)] <| accept (.mzOvf (rD w) (fin4 w 9) (bv 1 w 6))
  | 0x06 => zero w [(15, 8)] <| accept (.mgeo (rD w) (rA w) (bv 2 w 6))
  | 0x07 => zero w [(25, 21), (15, 8)] <| accept (.mgeoSub (rA w) (bv 2 w 6))
  | 0x08 => zero w [(25, 21), (15, 11), (8, 6)] <| accept (.msk (rA w) (fin4 w 9))
  | f => .error (.unassignedFunction f)

/-- The function codes of opcode XCH (R64 to R69). -/
def decodeXch (w : Nat) : Except Reject Instr :=
  match bits w 15 11 with
  | 0x00 => zero w [(25, 21), (10, 0)] <| accept (.xmit (rA w))
  | 0x01 => zero w [(25, 21)] <| accept (.xmitM (rA w) (bv 11 w 0))
  | 0x02 => zero w [(25, 21)] <| accept (.catchOne (rA w) (bv 11 w 0))
  | 0x03 => zero w [(25, 21)] <| accept (.catchM (rA w) (bv 11 w 0))
  | 0x04 => accept (.put (rD w) (rA w) (bv 11 w 0))
  | 0x05 => zero w [(25, 16), (10, 0)] <| accept (.sealOp)
  | 0x06 => zero w [(20, 16), (10, 0)] <| accept (.trn (rD w))
  | 0x07 => zero w [(25, 16), (10, 4)] <| accept (.chkLq (bv 4 w 0))
  | 0x08 => zero w [(25, 21)] <| accept (.chkFe (rA w) (bv 11 w 0))
  | 0x09 => zero w [(25, 21), (10, 2)] <| accept (.chkWp (rA w) (fin4 w 0))
  | 0x0A => zero w [(25, 21), (10, 4)] <| accept (.semUp (rA w) (bv 4 w 0))
  | 0x0B => zero w [(25, 21), (10, 4)] <| accept (.semChk (rA w) (bv 4 w 0))
  | 0x0C => zero w [(25, 16), (10, 0)] <| accept (.resync)
  | 0x0D => zero w [(10, 2)] <| accept (.start (rD w) (rA w) (bv 2 w 0))
  | 0x0E => zero w [(25, 16), (10, 0)] <| accept (.stop)
  | 0x0F => zero w [(20, 16), (10, 3)] <| accept (.rmt (rD w) (bv 3 w 0))
  | 0x10 => zero w [(25, 21)] <| accept (.mark (rA w) (bv 11 w 0))
  | f => .error (.unassignedFunction f)

/-- The function codes of opcode AMO (R64 to R69). -/
def decodeAmo (w : Nat) : Except Reject Instr :=
  match bits w 3 0 with
  | 0x00 => zero w [(10, 6)] <| aty w fun ty => accept (.amoAdd (rD w) (rA w) (rB w) ty)
  | 0x01 => zero w [(10, 6)] <| aty w fun ty => accept (.amoMax (rD w) (rA w) (rB w) ty)
  | 0x02 => zero w [(10, 6)] <| aty w fun ty => accept (.amoMin (rD w) (rA w) (rB w) ty)
  | 0x03 => zero w [(10, 6)] <| aty w fun ty => accept (.amoMaxu (rD w) (rA w) (rB w) ty)
  | 0x04 => zero w [(10, 6)] <| aty w fun ty => accept (.amoMinu (rD w) (rA w) (rB w) ty)
  | 0x05 => zero w [(10, 6)] <| aty w fun ty => accept (.amoAnd (rD w) (rA w) (rB w) ty)
  | 0x06 => zero w [(10, 6)] <| aty w fun ty => accept (.amoOr (rD w) (rA w) (rB w) ty)
  | 0x07 => zero w [(10, 6)] <| aty w fun ty => accept (.amoXor (rD w) (rA w) (rB w) ty)
  | 0x08 => zero w [(10, 6)] <| aty w fun ty => accept (.amoSwap (rD w) (rA w) (rB w) ty)
  | 0x09 => aty w fun ty => accept (.amoCas (rD w) (rA w) (rB w) (rE w) ty)
  | 0x0A => zero w [(10, 6)] <| selector (bits w 5 4 = 0) <| accept (.amoFmax (rD w) (rA w) (rB w))
  | 0x0F => zero w [(25, 11), (5, 4)] <| accept (.fence (bv 5 w 6))
  | f => .error (.unassignedFunction f)

/-- The function codes of opcode ENG (R64 to R69). -/
def decodeEng (w : Nat) : Except Reject Instr :=
  match bits w 5 0 with
  | 0x00 => zero w [(10, 8)] <| accept (.cpy (rD w) (rA w) (rB w) (fin4 w 6))
  | 0x01 => zero w [(10, 8)] <| accept (.cpyG (rD w) (rA w) (rB w) (fin4 w 6))
  | 0x02 => zero w [(10, 8)] <| accept (.cpyS (rD w) (rA w) (rB w) (fin4 w 6))
  | 0x03 => zero w [(20, 8)] <| accept (.cpyWp (rD w) (fin4 w 6))
  | 0x04 => zero w [(10, 8)] <| accept (.gput (rD w) (rA w) (rB w) (fin4 w 6))
  | 0x05 => zero w [(10, 8)] <| accept (.gget (rD w) (rA w) (rB w) (fin4 w 6))
  | 0x06 => zero w [(25, 21), (10, 6)] <| accept (.gtbl (rA w) (rB w))
  | f => .error (.unassignedFunction f)

/-- The function codes of opcode SYS (R64 to R69). -/
def decodeSys (w : Nat) : Except Reject Instr :=
  match bits w 3 0 with
  | 0x00 => zero w [(25, 21)] <| accept (.trapTrap (rA w) (bv 12 w 4))
  | 0x01 => zero w [(25, 21), (15, 4)] <| accept (.tretResume (rA w))
  | 0x02 => zero w [(20, 16)] <| accept (.sysrd (rD w) (bv 12 w 4))
  | 0x03 => zero w [(25, 21)] <| accept (.syswr (rA w) (bv 12 w 4))
  | 0x04 => zero w [(25, 4)] <| accept (.ifence)
  | 0x05 => zero w [(25, 4)] <| accept (.halt)
  | 0x06 => zero w [(25, 21), (15, 4)] <| accept (.hbeat (rA w))
  | 0x07 => zero w [(25, 21)] <| accept (.tlbW (rA w) (bv 12 w 4))
  | 0x08 => zero w [(25, 21)] <| accept (.tlbInv (rA w) (bv 12 w 4))
  | f => .error (.unassignedFunction f)

/-- The function codes of opcode CRS (R64 to R69). -/
def decodeCrs (w : Nat) : Except Reject Instr :=
  match bits w 15 11 with
  | 0x00 => zero w [(25, 21), (10, 0)] <| accept (.crsOpen (rA w))
  | 0x01 => zero w [(20, 16), (10, 0)] <| accept (.crsStep (rD w))
  | 0x02 => zero w [(25, 21), (10, 0)] <| accept (.crsSend (rA w))
  | 0x03 => zero w [(25, 21), (10, 0)] <| accept (.crsChk (rA w))
  | 0x04 => zero w [(25, 21), (10, 0)] <| accept (.crsRel (rA w))
  | 0x05 => zero w [(25, 16), (10, 0)] <| accept (.crsClose)
  | f => .error (.unassignedFunction f)

/-- The major opcode map (R62, R63). -/
def decodeFields (w : Nat) : Except Reject Instr :=
  match bits w 31 26 with
  | 0x01 => decodeInt w
  | 0x02 => accept (.addi (rD w) (rA w) (bv 16 w 0))
  | 0x03 => accept (.andi (rD w) (rA w) (bv 16 w 0))
  | 0x04 => accept (.ori (rD w) (rA w) (bv 16 w 0))
  | 0x05 => accept (.xori (rD w) (rA w) (bv 16 w 0))
  | 0x06 => accept (.slti (rD w) (rA w) (bv 16 w 0))
  | 0x07 => accept (.sltui (rD w) (rA w) (bv 16 w 0))
  | 0x08 => zero w [(15, 7)] <| accept (.slli (rD w) (rA w) (bv 7 w 0))
  | 0x09 => zero w [(15, 7)] <| accept (.srli (rD w) (rA w) (bv 7 w 0))
  | 0x0A => zero w [(15, 7)] <| accept (.srai (rD w) (rA w) (bv 7 w 0))
  | 0x0B => accept (.lhi (rD w) (bv 21 w 0))
  | 0x0C => decodeCap w
  | 0x0D => accept (.cincImm (rD w) (rA w) (bv 16 w 0))
  | 0x10 => accept (.beq (rA w) (rB w) (branchOff w))
  | 0x11 => accept (.bne (rA w) (rB w) (branchOff w))
  | 0x12 => accept (.blt (rA w) (rB w) (branchOff w))
  | 0x13 => accept (.bge (rA w) (rB w) (branchOff w))
  | 0x14 => accept (.bltu (rA w) (rB w) (branchOff w))
  | 0x15 => accept (.bgeu (rA w) (rB w) (branchOff w))
  | 0x16 => zero w [(25, 21)] <| accept (.loop (rA w) (bv 16 w 0))
  | 0x18 => accept (.j (bv 26 w 0))
  | 0x19 => accept (.jl (bv 26 w 0))
  | 0x1A => decodeCtrl w
  | 0x20 => decodeLd w
  | 0x21 => decodeSt w
  | 0x28 => decodeVfp w
  | 0x29 => decodeVsf w
  | 0x2A => decodeVint w
  | 0x2B => decodeCvt w
  | 0x2C => decodeVblk w
  | 0x2F => zero w [(1, 0)] <| accept (.rep (bv 8 w 18) (bv 4 w 14) (bv 3 w 11) (bv 3 w 8) (bv 3 w 5) (bv 3 w 2))
  | 0x30 => zero w [(23, 21), (2, 0)] <| accept (.mma (fin4 w 24) (rA w) (rB w) (bv 3 w 8) (bv 3 w 5) (bv 1 w 4) (bv 1 w 3))
  | 0x31 => decodeMatc w
  | 0x34 => decodeXch w
  | 0x38 => decodeAmo w
  | 0x39 => decodeEng w
  | 0x3C => decodeSys w
  | 0x3D => decodeCrs w
  | op => .error (.reservedOpcode op)
/-- Decodes a word: the reserved opcodes, the unassigned functions, the bits that must be 0 and the
illegal selectors are rejected by name (R70). -/
def decode (w : Word) : Except Reject Instr :=
  match decodeFields w.toNat with
  | .error r => .error r
  | .ok i => if i.wellFormed then .ok i else .error .illegalSelector

/-- The little-endian word of four bytes (R59). -/
def wordOfBytes (b0 b1 b2 b3 : Byte) : Word :=
  BitVec.ofNat 32 (b0.toNat + b1.toNat * 2 ^ 8 + b2.toNat * 2 ^ 16 + b3.toNat * 2 ^ 24)

/-- The four bytes of a word, lowest address first (R59). -/
def bytesOfWord (w : Word) : List Byte :=
  [BitVec.ofNat 8 w.toNat, BitVec.ofNat 8 (w.toNat / 2 ^ 8), BitVec.ofNat 8 (w.toNat / 2 ^ 16),
    BitVec.ofNat 8 (w.toNat / 2 ^ 24)]

/-- Decodes the instruction at the head of a byte stream and gives the rest of the stream. -/
def decodeBytes : List Byte → Except Reject (Instr × List Byte)
  | b0 :: b1 :: b2 :: b3 :: rest =>
    match decode (wordOfBytes b0 b1 b2 b3) with
    | .error r => .error r
    | .ok i => .ok (i, rest)
  | _ => .error .shortStream

/-- The instruction whose bits are `w` as the opcode table numbers them. -/
def decodeTableWord (nbits w : Nat) : Option Instr :=
  match decodeBytes (bytesOfWord (BitVec.ofNat 32 (w % 2 ^ nbits))) with
  | .ok (i, _) => some i
  | .error _ => none

/-! ### The encoder -/

/-- The Bc format (R60). -/
def wordBc (op : Nat) (a b : RegNo) (off : BitVec 16) : Nat :=
  op * 2 ^ 26 + off.toNat / 2 ^ 11 * 2 ^ 21 + a.val * 2 ^ 16 + b.val * 2 ^ 11 + off.toNat % 2 ^ 11
/-- The code of a floating lane type (R66), placed at [5:4]. -/
def FTy.code : FTy → Nat
  | .f32 => 0
  | .bf16 => 1
/-- The code of an atomic's width (R69). -/
def ATy.code : ATy → Nat
  | .w => 0
  | .d => 1
/-- The code of an element width (R64, R66). -/
def VTy.code : VTy → Nat
  | .b => 0
  | .h => 1
  | .w => 2
  | .d => 3

/-- A fixed part and fields at their lowest bits (R60). -/
def word (base : Nat) (fs : List (Nat × Nat)) : Option Nat :=
  some (fs.foldl (fun acc f => acc + f.1 * 2 ^ f.2) base)

/-- The word of an instruction as a number; the operations and events of the part have none. The four
dispositions of tret share one word (R288). -/
def encodeNat : Instr → Option Nat
  | .add d a b => word 0x04000000 [(d.val, 21), (a.val, 16), (b.val, 11)]
  | .sub d a b => word 0x04000001 [(d.val, 21), (a.val, 16), (b.val, 11)]
  | .and d a b => word 0x04000002 [(d.val, 21), (a.val, 16), (b.val, 11)]
  | .or d a b => word 0x04000003 [(d.val, 21), (a.val, 16), (b.val, 11)]
  | .xor d a b => word 0x04000004 [(d.val, 21), (a.val, 16), (b.val, 11)]
  | .andn d a b => word 0x04000005 [(d.val, 21), (a.val, 16), (b.val, 11)]
  | .sll d a b => word 0x04000006 [(d.val, 21), (a.val, 16), (b.val, 11)]
  | .srl d a b => word 0x04000007 [(d.val, 21), (a.val, 16), (b.val, 11)]
  | .sra d a b => word 0x04000008 [(d.val, 21), (a.val, 16), (b.val, 11)]
  | .rol d a b => word 0x04000009 [(d.val, 21), (a.val, 16), (b.val, 11)]
  | .slt d a b => word 0x0400000A [(d.val, 21), (a.val, 16), (b.val, 11)]
  | .sltu d a b => word 0x0400000B [(d.val, 21), (a.val, 16), (b.val, 11)]
  | .min d a b => word 0x0400000C [(d.val, 21), (a.val, 16), (b.val, 11)]
  | .max d a b => word 0x0400000D [(d.val, 21), (a.val, 16), (b.val, 11)]
  | .minu d a b => word 0x0400000E [(d.val, 21), (a.val, 16), (b.val, 11)]
  | .maxu d a b => word 0x0400000F [(d.val, 21), (a.val, 16), (b.val, 11)]
  | .mul d a b => word 0x04000010 [(d.val, 21), (a.val, 16), (b.val, 11)]
  | .mulh d a b => word 0x04000011 [(d.val, 21), (a.val, 16), (b.val, 11)]
  | .mulhu d a b => word 0x04000012 [(d.val, 21), (a.val, 16), (b.val, 11)]
  | .div d a b => word 0x04000014 [(d.val, 21), (a.val, 16), (b.val, 11)]
  | .divu d a b => word 0x04000015 [(d.val, 21), (a.val, 16), (b.val, 11)]
  | .rem d a b => word 0x04000016 [(d.val, 21), (a.val, 16), (b.val, 11)]
  | .remu d a b => word 0x04000017 [(d.val, 21), (a.val, 16), (b.val, 11)]
  | .clz d a => word 0x04000018 [(d.val, 21), (a.val, 16)]
  | .ctz d a => word 0x04000019 [(d.val, 21), (a.val, 16)]
  | .pop d a => word 0x0400001A [(d.val, 21), (a.val, 16)]
  | .sext d a wd => word 0x0400001C [(d.val, 21), (a.val, 16), (wd.code, 11)]
  | .zext d a wd => word 0x0400001D [(d.val, 21), (a.val, 16), (wd.code, 11)]
  | .addi d a imm => word 0x08000000 [(d.val, 21), (a.val, 16), (imm.toNat, 0)]
  | .andi d a imm => word 0x0C000000 [(d.val, 21), (a.val, 16), (imm.toNat, 0)]
  | .ori d a imm => word 0x10000000 [(d.val, 21), (a.val, 16), (imm.toNat, 0)]
  | .xori d a imm => word 0x14000000 [(d.val, 21), (a.val, 16), (imm.toNat, 0)]
  | .slti d a imm => word 0x18000000 [(d.val, 21), (a.val, 16), (imm.toNat, 0)]
  | .sltui d a imm => word 0x1C000000 [(d.val, 21), (a.val, 16), (imm.toNat, 0)]
  | .slli d a sh => word 0x20000000 [(d.val, 21), (a.val, 16), (sh.toNat, 0)]
  | .srli d a sh => word 0x24000000 [(d.val, 21), (a.val, 16), (sh.toNat, 0)]
  | .srai d a sh => word 0x28000000 [(d.val, 21), (a.val, 16), (sh.toNat, 0)]
  | .lhi d imm => word 0x2C000000 [(d.val, 21), (imm.toNat, 0)]
  | .cbnd d a b => word 0x30000000 [(d.val, 21), (a.val, 16), (b.val, 11)]
  | .cperm d a b => word 0x30000001 [(d.val, 21), (a.val, 16), (b.val, 11)]
  | .cinc d a b => word 0x30000002 [(d.val, 21), (a.val, 16), (b.val, 11)]
  | .cset d a b => word 0x30000003 [(d.val, 21), (a.val, 16), (b.val, 11)]
  | .cgetBase d a => word 0x30000004 [(d.val, 21), (a.val, 16)]
  | .cgetLen d a => word 0x30000005 [(d.val, 21), (a.val, 16)]
  | .cgetPerm d a => word 0x30000006 [(d.val, 21), (a.val, 16)]
  | .cgetTag d a => word 0x30000007 [(d.val, 21), (a.val, 16)]
  | .cgetCur d a => word 0x30000008 [(d.val, 21), (a.val, 16)]
  | .cseal d a b => word 0x30000009 [(d.val, 21), (a.val, 16), (b.val, 11)]
  | .cunseal d a b => word 0x3000000A [(d.val, 21), (a.val, 16), (b.val, 11)]
  | .cincImm d a imm => word 0x34000000 [(d.val, 21), (a.val, 16), (imm.toNat, 0)]
  | .beq a b off => some (wordBc 0x10 a b off)
  | .bne a b off => some (wordBc 0x11 a b off)
  | .blt a b off => some (wordBc 0x12 a b off)
  | .bge a b off => some (wordBc 0x13 a b off)
  | .bltu a b off => some (wordBc 0x14 a b off)
  | .bgeu a b off => some (wordBc 0x15 a b off)
  | .loop a imm => word 0x58000000 [(a.val, 16), (imm.toNat, 0)]
  | .j off => word 0x60000000 [(off.toNat, 0)]
  | .jl off => word 0x64000000 [(off.toNat, 0)]
  | .nop => word 0x68000000 []
  | .jr a => word 0x68000001 [(a.val, 16)]
  | .hold a => word 0x68000002 [(a.val, 16)]
  | .ldB d a off => word 0x80000000 [(d.val, 21), (a.val, 16), (off.toNat, 0)]
  | .ldBu d a off => word 0x80001000 [(d.val, 21), (a.val, 16), (off.toNat, 0)]
  | .ldH d a off => word 0x80002000 [(d.val, 21), (a.val, 16), (off.toNat, 0)]
  | .ldHu d a off => word 0x80003000 [(d.val, 21), (a.val, 16), (off.toNat, 0)]
  | .ldW d a off => word 0x80004000 [(d.val, 21), (a.val, 16), (off.toNat, 0)]
  | .ldD d a off => word 0x80006000 [(d.val, 21), (a.val, 16), (off.toNat, 0)]
  | .ldQ d a off => word 0x80007000 [(d.val, 21), (a.val, 16), (off.toNat, 0)]
  | .ldC d a off => word 0x80008000 [(d.val, 21), (a.val, 16), (off.toNat, 0)]
  | .ldFe d a off => word 0x80009000 [(d.val, 21), (a.val, 16), (off.toNat, 0)]
  | .ldbQ d a off => word 0x8000A000 [(d.val, 21), (a.val, 16), (off.toNat, 0)]
  | .ldLq a off => word 0x8000B000 [(a.val, 16), (off.toNat, 0)]
  | .stB d a off => word 0x84000000 [(d.val, 21), (a.val, 16), (off.toNat, 0)]
  | .stH d a off => word 0x84002000 [(d.val, 21), (a.val, 16), (off.toNat, 0)]
  | .stW d a off => word 0x84004000 [(d.val, 21), (a.val, 16), (off.toNat, 0)]
  | .stD d a off => word 0x84006000 [(d.val, 21), (a.val, 16), (off.toNat, 0)]
  | .stQ d a off => word 0x84007000 [(d.val, 21), (a.val, 16), (off.toNat, 0)]
  | .stC d a off => word 0x84008000 [(d.val, 21), (a.val, 16), (off.toNat, 0)]
  | .stFe d a off => word 0x84009000 [(d.val, 21), (a.val, 16), (off.toNat, 0)]
  | .stbQ d a off => word 0x8400A000 [(d.val, 21), (a.val, 16), (off.toNat, 0)]
  | .stSq a off => word 0x8400B000 [(a.val, 16), (off.toNat, 0)]
  | .fadd d a b ty => word 0xA0000000 [(d.val, 21), (a.val, 16), (b.val, 11), (ty.code, 4)]
  | .fsub d a b ty => word 0xA0000001 [(d.val, 21), (a.val, 16), (b.val, 11), (ty.code, 4)]
  | .fmul d a b ty => word 0xA0000002 [(d.val, 21), (a.val, 16), (b.val, 11), (ty.code, 4)]
  | .fma d a b e ty => word 0xA0000003 [(d.val, 21), (a.val, 16), (b.val, 11), (e.val, 6), (ty.code, 4)]
  | .fms d a b e ty => word 0xA0000004 [(d.val, 21), (a.val, 16), (b.val, 11), (e.val, 6), (ty.code, 4)]
  | .fmin d a b ty => word 0xA0000005 [(d.val, 21), (a.val, 16), (b.val, 11), (ty.code, 4)]
  | .fmax d a b ty => word 0xA0000006 [(d.val, 21), (a.val, 16), (b.val, 11), (ty.code, 4)]
  | .fabs d a ty => word 0xA0000007 [(d.val, 21), (a.val, 16), (ty.code, 4)]
  | .fneg d a ty => word 0xA0000008 [(d.val, 21), (a.val, 16), (ty.code, 4)]
  | .fcmpEq d a b ty => word 0xA0000009 [(d.val, 21), (a.val, 16), (b.val, 11), (ty.code, 4)]
  | .fcmpLt d a b ty => word 0xA000000A [(d.val, 21), (a.val, 16), (b.val, 11), (ty.code, 4)]
  | .fcmpLe d a b ty => word 0xA000000B [(d.val, 21), (a.val, 16), (b.val, 11), (ty.code, 4)]
  | .fsel d a b e ty => word 0xA000000C [(d.val, 21), (a.val, 16), (b.val, 11), (e.val, 6), (ty.code, 4)]
  | .vsum d a ty => word 0xA000000D [(d.val, 21), (a.val, 16), (ty.code, 4)]
  | .vmaxr d a ty => word 0xA000000E [(d.val, 21), (a.val, 16), (ty.code, 4)]
  | .vminr d a ty => word 0xA000000F [(d.val, 21), (a.val, 16), (ty.code, 4)]
  | .frcp d a ty => word 0xA4000000 [(d.val, 21), (a.val, 16), (ty.code, 4)]
  | .frsq d a ty => word 0xA4000001 [(d.val, 21), (a.val, 16), (ty.code, 4)]
  | .fsqrt d a ty => word 0xA4000002 [(d.val, 21), (a.val, 16), (ty.code, 4)]
  | .fex2 d a ty => word 0xA4000003 [(d.val, 21), (a.val, 16), (ty.code, 4)]
  | .flg2 d a ty => word 0xA4000004 [(d.val, 21), (a.val, 16), (ty.code, 4)]
  | .fsin d a ty => word 0xA4000005 [(d.val, 21), (a.val, 16), (ty.code, 4)]
  | .fcos d a ty => word 0xA4000006 [(d.val, 21), (a.val, 16), (ty.code, 4)]
  | .vadd d a b ty => word 0xA8000000 [(d.val, 21), (a.val, 16), (b.val, 11), (ty.code, 4)]
  | .vsub d a b ty => word 0xA8000001 [(d.val, 21), (a.val, 16), (b.val, 11), (ty.code, 4)]
  | .vmul d a b ty => word 0xA8000002 [(d.val, 21), (a.val, 16), (b.val, 11), (ty.code, 4)]
  | .vmin d a b ty => word 0xA8000003 [(d.val, 21), (a.val, 16), (b.val, 11), (ty.code, 4)]
  | .vmax d a b ty => word 0xA8000004 [(d.val, 21), (a.val, 16), (b.val, 11), (ty.code, 4)]
  | .vand d a b ty => word 0xA8000005 [(d.val, 21), (a.val, 16), (b.val, 11), (ty.code, 4)]
  | .vor d a b ty => word 0xA8000006 [(d.val, 21), (a.val, 16), (b.val, 11), (ty.code, 4)]
  | .vxor d a b ty => word 0xA8000007 [(d.val, 21), (a.val, 16), (b.val, 11), (ty.code, 4)]
  | .vshl d a b ty => word 0xA8000008 [(d.val, 21), (a.val, 16), (b.val, 11), (ty.code, 4)]
  | .vsra d a b ty => word 0xA8000009 [(d.val, 21), (a.val, 16), (b.val, 11), (ty.code, 4)]
  | .vperm d a b ty => word 0xA800000A [(d.val, 21), (a.val, 16), (b.val, 11), (ty.code, 4)]
  | .vbcast d a idx ty => word 0xA800000B [(d.val, 21), (a.val, 16), (idx.toNat, 11), (ty.code, 4)]
  | .cvtWide d a sc rmx sx pt => word 0xAC000000 [(d.val, 21), (a.val, 16), (sc.toNat, 9), (rmx.toNat, 6), (sx.toNat, 4), (pt.toNat, 0)]
  | .cvtWideb d a sc rmx sx pt => word 0xAC001000 [(d.val, 21), (a.val, 16), (sc.toNat, 9), (rmx.toNat, 6), (sx.toNat, 4), (pt.toNat, 0)]
  | .cvtPack d a sc rmx sx pt => word 0xAC002000 [(d.val, 21), (a.val, 16), (sc.toNat, 9), (rmx.toNat, 6), (sx.toNat, 4), (pt.toNat, 0)]
  | .cvtPackb d a sc rmx sx pt => word 0xAC003000 [(d.val, 21), (a.val, 16), (sc.toNat, 9), (rmx.toNat, 6), (sx.toNat, 4), (pt.toNat, 0)]
  | .cvtF2b d a sc rmx sx pt => word 0xAC004000 [(d.val, 21), (a.val, 16), (sc.toNat, 9), (rmx.toNat, 6), (sx.toNat, 4), (pt.toNat, 0)]
  | .cvtB2f d a sc rmx sx pt => word 0xAC005000 [(d.val, 21), (a.val, 16), (sc.toNat, 9), (rmx.toNat, 6), (sx.toNat, 4), (pt.toNat, 0)]
  | .cvtF2i d a sc rmx sx pt => word 0xAC006000 [(d.val, 21), (a.val, 16), (sc.toNat, 9), (rmx.toNat, 6), (sx.toNat, 4), (pt.toNat, 0)]
  | .cvtI2f d a sc rmx sx pt => word 0xAC007000 [(d.val, 21), (a.val, 16), (sc.toNat, 9), (rmx.toNat, 6), (sx.toNat, 4), (pt.toNat, 0)]
  | .amaxb d a b ty => word 0xB0000000 [(d.val, 21), (a.val, 16), (b.val, 11), (ty.code, 4)]
  | .scl sd a pos ty => word 0xB0000001 [(sd.toNat, 21), (a.val, 16), (pos.toNat, 11), (ty.code, 4)]
  | .rep n len ds as bs es => word 0xBC000000 [(n.toNat, 18), (len.toNat, 14), (ds.toNat, 11), (as.toNat, 8), (bs.toNat, 5), (es.toNat, 2)]
  | .mma z a b sca scb ha hb => word 0xC0000000 [(z.val, 24), (a.val, 16), (b.val, 11), (sca.toNat, 8), (scb.toNat, 5), (ha.toNat, 4), (hb.toNat, 3)]
  | .mzClr z => word 0xC4000000 [(z.val, 9)]
  | .mzAnc a z => word 0xC4000001 [(a.val, 16), (z.val, 9)]
  | .mzRd d sx rmx ty half z row => word 0xC4000002 [(d.val, 21), (sx.toNat, 19), (rmx.toNat, 16), (ty.toNat, 15), (half.toNat, 14), (z.val, 9), (row.toNat, 6)]
  | .mzRaw a z => word 0xC4000003 [(a.val, 16), (z.val, 9)]
  | .mzAdd a z => word 0xC4000004 [(a.val, 16), (z.val, 9)]
  | .mzOvf d z clear => word 0xC4000005 [(d.val, 21), (z.val, 9), (clear.toNat, 6)]
  | .mgeo d a arr => word 0xC4000006 [(d.val, 21), (a.val, 16), (arr.toNat, 6)]
  | .mgeoSub a arr => word 0xC4000007 [(a.val, 16), (arr.toNat, 6)]
  | .msk a z => word 0xC4000008 [(a.val, 16), (z.val, 9)]
  | .xmit a => word 0xD0000000 [(a.val, 16)]
  | .xmitM a cnt => word 0xD0000800 [(a.val, 16), (cnt.toNat, 0)]
  | .catchOne a off => word 0xD0001000 [(a.val, 16), (off.toNat, 0)]
  | .catchM a cnt => word 0xD0001800 [(a.val, 16), (cnt.toNat, 0)]
  | .put d a off => word 0xD0002000 [(d.val, 21), (a.val, 16), (off.toNat, 0)]
  | .sealOp => word 0xD0002800 []
  | .trn d => word 0xD0003000 [(d.val, 21)]
  | .chkLq k => word 0xD0003800 [(k.toNat, 0)]
  | .chkFe a off => word 0xD0004000 [(a.val, 16), (off.toNat, 0)]
  | .chkWp a ch => word 0xD0004800 [(a.val, 16), (ch.val, 0)]
  | .semUp a k => word 0xD0005000 [(a.val, 16), (k.toNat, 0)]
  | .semChk a k => word 0xD0005800 [(a.val, 16), (k.toNat, 0)]
  | .resync => word 0xD0006000 []
  | .start d a k => word 0xD0006800 [(d.val, 21), (a.val, 16), (k.toNat, 0)]
  | .stop => word 0xD0007000 []
  | .rmt d sel => word 0xD0007800 [(d.val, 21), (sel.toNat, 0)]
  | .mark a mtag => word 0xD0008000 [(a.val, 16), (mtag.toNat, 0)]
  | .amoAdd d a b ty => word 0xE0000000 [(d.val, 21), (a.val, 16), (b.val, 11), (ty.code, 4)]
  | .amoMax d a b ty => word 0xE0000001 [(d.val, 21), (a.val, 16), (b.val, 11), (ty.code, 4)]
  | .amoMin d a b ty => word 0xE0000002 [(d.val, 21), (a.val, 16), (b.val, 11), (ty.code, 4)]
  | .amoMaxu d a b ty => word 0xE0000003 [(d.val, 21), (a.val, 16), (b.val, 11), (ty.code, 4)]
  | .amoMinu d a b ty => word 0xE0000004 [(d.val, 21), (a.val, 16), (b.val, 11), (ty.code, 4)]
  | .amoAnd d a b ty => word 0xE0000005 [(d.val, 21), (a.val, 16), (b.val, 11), (ty.code, 4)]
  | .amoOr d a b ty => word 0xE0000006 [(d.val, 21), (a.val, 16), (b.val, 11), (ty.code, 4)]
  | .amoXor d a b ty => word 0xE0000007 [(d.val, 21), (a.val, 16), (b.val, 11), (ty.code, 4)]
  | .amoSwap d a b ty => word 0xE0000008 [(d.val, 21), (a.val, 16), (b.val, 11), (ty.code, 4)]
  | .amoCas d a b e ty => word 0xE0000009 [(d.val, 21), (a.val, 16), (b.val, 11), (e.val, 6), (ty.code, 4)]
  | .amoFmax d a b => word 0xE000000A [(d.val, 21), (a.val, 16), (b.val, 11)]
  | .fence scope => word 0xE000000F [(scope.toNat, 6)]
  | .cpy d a b ch => word 0xE4000000 [(d.val, 21), (a.val, 16), (b.val, 11), (ch.val, 6)]
  | .cpyG d a b ch => word 0xE4000001 [(d.val, 21), (a.val, 16), (b.val, 11), (ch.val, 6)]
  | .cpyS d a b ch => word 0xE4000002 [(d.val, 21), (a.val, 16), (b.val, 11), (ch.val, 6)]
  | .cpyWp d ch => word 0xE4000003 [(d.val, 21), (ch.val, 6)]
  | .gput d a b ch => word 0xE4000004 [(d.val, 21), (a.val, 16), (b.val, 11), (ch.val, 6)]
  | .gget d a b ch => word 0xE4000005 [(d.val, 21), (a.val, 16), (b.val, 11), (ch.val, 6)]
  | .gtbl a b => word 0xE4000006 [(a.val, 16), (b.val, 11)]
  | .trapTrap a num => word 0xF0000000 [(a.val, 16), (num.toNat, 4)]
  | .tretResume a => word 0xF0000001 [(a.val, 16)]
  | .tretAbandon a => word 0xF0000001 [(a.val, 16)]
  | .tretForward a => word 0xF0000001 [(a.val, 16)]
  | .tretIsolate a => word 0xF0000001 [(a.val, 16)]
  | .sysrd d num => word 0xF0000002 [(d.val, 21), (num.toNat, 4)]
  | .syswr a num => word 0xF0000003 [(a.val, 16), (num.toNat, 4)]
  | .ifence => word 0xF0000004 []
  | .halt => word 0xF0000005 []
  | .hbeat a => word 0xF0000006 [(a.val, 16)]
  | .tlbW a imm => word 0xF0000007 [(a.val, 16), (imm.toNat, 4)]
  | .tlbInv a mode => word 0xF0000008 [(a.val, 16), (mode.toNat, 4)]
  | .crsOpen a => word 0xF4000000 [(a.val, 16)]
  | .crsStep d => word 0xF4000800 [(d.val, 21)]
  | .crsSend a => word 0xF4001000 [(a.val, 16)]
  | .crsChk a => word 0xF4001800 [(a.val, 16)]
  | .crsRel a => word 0xF4002000 [(a.val, 16)]
  | .crsClose => word 0xF4002800 []
  | .holdExpiry _ _ _ | .mmaComplete _ | .imageTransferComplete _ | .catchFlitTake _ | .putPerform _ _
  | .putAnswer _ _ | .amoPerform _ _ | .amoAnswer _ _ | .channelCommandStart _ _ | .engineElementAtHome _ _
  | .engineRefusalArrival _ _ | .deadlineReplyArrival _ _ | .deferredDeliveryWrite _ _
  | .reductionCombinedArrival _ _ | .ggetWordArrival _ _ | .heartbeat _ _ | .carouselDataFlit _ _
  | .carouselReleaseFlit _ _ | .pendingEffectDue _ | .flitHop _ _ | .missedSlot _ _ | .turnstile _
  | .powerStepRequest _ _ | .thermalTrip _ | .thermalTripEnd | .bankAct _ _ | .bankRd _ _ | .bankWr _ _
  | .bankPre _ _ | .hbmReadData _ _ | .bankRefresh _ _ | .looseTileArrival _ | .looseHbmAccess _
  | .hubAccessAnswer _ _ _ | .trapMessage _ | .chainExhaustion _ | .restart _ | .intermissionFreeze _
  | .writeOutComplete _ | .restoredPartitionStart _ | .troupeIntermissionFreeze _ | .troupeRestart _
  | .frzctlFreeze _ | .frzctlEndRequest _ | .frzctlIntermission _ | .frzctlRetire _ | .journalScan | .launchSlot
  | .imageStaged _ | .partitionStart _ | .launch _ | .restore _ | .harvest _ | .signLog _ | .trapAnswer _
  | .spareSwap _ | .attest _ | .spareSwapExecute _ | .spareMapWrite _ _ _ _ | .correctedError _ | .logAppend _
  | .lostEventsRecord | .logSignatureDone _ | .noticeFlush | .tmsgRead _ _ _ | .xmsgRead _ _ _ | .xdoneWrite _ _ _
  | .dlogWrite _ _ _ | .agenWrite _ _ | .windowRegisterWrite _ _ _ | .jtailWrite _ | .bootstatWrite _
  | .firmwareVerifyDone _ | .powerOnReset | .slackminRead _ | .personalitySwitchRequest _ _ _ | .drainBegin _
  | .drainEnd _ | .retrainComplete _ _ | .widthReduction _ | .imodeChange _ _ | .linkFlitSend _
  | .linkSlotDataFlit _ _ | .linkRequestFlit _ _ | .linkResponseFlit _ _ | .linkIdleFlit _ _ | .tagVerify _ _
  | .edgeQuadRelease _ _ _ | .mgmtIntermissionProposal _ _ | .mgmtAccept _ _ | .mgmtReject _ _
  | .mgmtResyncReport _ _ | .mgmtRestart _ _ | .mgmtStepProposal _ _ | .mgmtResyncNotice _ _ | .mgmtDrained _ _
  | .registerWrite _ _ | .illegal _ | .portLoss _ | .remapDone _ _ => none

/-- The word of an instruction. -/
def encode (i : Instr) : Option Word := (encodeNat i).map (BitVec.ofNat 32)

/-! ### What the encoding fixes -/

/-- How an instruction uses its D field (R70, R112). -/
inductive DUse where
  | dest
  | source
  | merge
  deriving DecidableEq, Repr

/-- The positions of an instruction that are c-register fields (R61, R72). -/
structure RegUse where
  d : Option RegNo := none
  a : Option RegNo := none
  b : Option RegNo := none
  e : Option RegNo := none
  dUse : DUse := .dest
  deriving DecidableEq, Repr

/-- The c-register fields of each instruction. -/
def regUse : Instr → RegUse
  | .add d a b | .sub d a b | .and d a b | .or d a b | .xor d a b | .andn d a b | .sll d a b | .srl d a b
  | .sra d a b | .rol d a b | .slt d a b | .sltu d a b | .min d a b | .max d a b | .minu d a b | .maxu d a b
  | .mul d a b | .mulh d a b | .mulhu d a b | .div d a b | .divu d a b | .rem d a b | .remu d a b | .cbnd d a b
  | .cperm d a b | .cinc d a b | .cset d a b | .cseal d a b | .cunseal d a b | .fadd d a b _ | .fsub d a b _
  | .fmul d a b _ | .fmin d a b _ | .fmax d a b _ | .fcmpEq d a b _ | .fcmpLt d a b _ | .fcmpLe d a b _
  | .vadd d a b _ | .vsub d a b _ | .vmul d a b _ | .vmin d a b _ | .vmax d a b _ | .vand d a b _ | .vor d a b _
  | .vxor d a b _ | .vshl d a b _ | .vsra d a b _ | .vperm d a b _ | .amaxb d a b _ | .amoAdd d a b _
  | .amoMax d a b _ | .amoMin d a b _ | .amoMaxu d a b _ | .amoMinu d a b _ | .amoAnd d a b _ | .amoOr d a b _
  | .amoXor d a b _ | .amoSwap d a b _ | .amoFmax d a b => { d := some d, a := some a, b := some b }
  | .clz d a | .ctz d a | .pop d a | .sext d a _ | .zext d a _ | .addi d a _ | .andi d a _ | .ori d a _ | .xori d a _
  | .slti d a _ | .sltui d a _ | .slli d a _ | .srli d a _ | .srai d a _ | .cgetBase d a | .cgetLen d a
  | .cgetPerm d a | .cgetTag d a | .cgetCur d a | .cincImm d a _ | .ldB d a _ | .ldBu d a _ | .ldH d a _
  | .ldHu d a _ | .ldW d a _ | .ldD d a _ | .ldQ d a _ | .ldC d a _ | .ldFe d a _ | .ldbQ d a _ | .fabs d a _
  | .fneg d a _ | .vsum d a _ | .vmaxr d a _ | .vminr d a _ | .frcp d a _ | .frsq d a _ | .fsqrt d a _ | .fex2 d a _
  | .flg2 d a _ | .fsin d a _ | .fcos d a _ | .vbcast d a _ _ | .cvtWide d a _ _ _ _ | .cvtWideb d a _ _ _ _
  | .cvtB2f d a _ _ _ _ | .cvtF2i d a _ _ _ _ | .cvtI2f d a _ _ _ _ | .mgeo d a _ => { d := some d, a := some a }
  | .lhi d _ | .mzRd d _ _ _ _ _ _ | .mzOvf d _ _ | .trn d | .rmt d _ | .cpyWp d _ | .sysrd d _ | .crsStep d => { d := some d }
  | .beq a b _ | .bne a b _ | .blt a b _ | .bge a b _ | .bltu a b _ | .bgeu a b _ | .mma _ a b _ _ _ _ | .gtbl a b => { a := some a, b := some b }
  | .loop a _ | .jr a | .hold a | .ldLq a _ | .stSq a _ | .scl _ a _ _ | .mzAnc a _ | .mzRaw a _ | .mzAdd a _
  | .mgeoSub a _ | .msk a _ | .xmit a | .xmitM a _ | .catchOne a _ | .catchM a _ | .chkFe a _ | .chkWp a _ | .semUp a _
  | .semChk a _ | .mark a _ | .trapTrap a _ | .tretResume a | .tretAbandon a | .tretForward a | .tretIsolate a
  | .syswr a _ | .hbeat a | .tlbW a _ | .tlbInv a _ | .crsOpen a | .crsSend a | .crsChk a | .crsRel a => { a := some a }
  | .j _ | .jl _ | .nop | .rep _ _ _ _ _ _ | .mzClr _ | .sealOp | .chkLq _ | .resync | .stop | .fence _ | .ifence
  | .halt | .crsClose => { }
  | .stB d a _ | .stH d a _ | .stW d a _ | .stD d a _ | .stQ d a _ | .stC d a _ | .stFe d a _ | .stbQ d a _
  | .put d a _ | .start d a _ => { d := some d, a := some a, dUse := .source }
  | .fma d a b e _ | .fms d a b e _ | .fsel d a b e _ | .amoCas d a b e _ => { d := some d, a := some a, b := some b, e := some e }
  | .cvtPack d a _ _ _ _ | .cvtPackb d a _ _ _ _ | .cvtF2b d a _ _ _ _ => { d := some d, a := some a, dUse := .merge }
  | .cpy d a b _ | .cpyG d a b _ | .cpyS d a b _ | .gput d a b _ | .gget d a b _ => { d := some d, a := some a, b := some b, dUse := .source }
  | .holdExpiry _ _ _ | .mmaComplete _ | .imageTransferComplete _ | .catchFlitTake _ | .putPerform _ _
  | .putAnswer _ _ | .amoPerform _ _ | .amoAnswer _ _ | .channelCommandStart _ _ | .engineElementAtHome _ _
  | .engineRefusalArrival _ _ | .deadlineReplyArrival _ _ | .deferredDeliveryWrite _ _
  | .reductionCombinedArrival _ _ | .ggetWordArrival _ _ | .heartbeat _ _ | .carouselDataFlit _ _
  | .carouselReleaseFlit _ _ | .pendingEffectDue _ | .flitHop _ _ | .missedSlot _ _ | .turnstile _
  | .powerStepRequest _ _ | .thermalTrip _ | .thermalTripEnd | .bankAct _ _ | .bankRd _ _ | .bankWr _ _
  | .bankPre _ _ | .hbmReadData _ _ | .bankRefresh _ _ | .looseTileArrival _ | .looseHbmAccess _
  | .hubAccessAnswer _ _ _ | .trapMessage _ | .chainExhaustion _ | .restart _ | .intermissionFreeze _
  | .writeOutComplete _ | .restoredPartitionStart _ | .troupeIntermissionFreeze _ | .troupeRestart _
  | .frzctlFreeze _ | .frzctlEndRequest _ | .frzctlIntermission _ | .frzctlRetire _ | .journalScan | .launchSlot
  | .imageStaged _ | .partitionStart _ | .launch _ | .restore _ | .harvest _ | .signLog _ | .trapAnswer _
  | .spareSwap _ | .attest _ | .spareSwapExecute _ | .spareMapWrite _ _ _ _ | .correctedError _ | .logAppend _
  | .lostEventsRecord | .logSignatureDone _ | .noticeFlush | .tmsgRead _ _ _ | .xmsgRead _ _ _ | .xdoneWrite _ _ _
  | .dlogWrite _ _ _ | .agenWrite _ _ | .windowRegisterWrite _ _ _ | .jtailWrite _ | .bootstatWrite _
  | .firmwareVerifyDone _ | .powerOnReset | .slackminRead _ | .personalitySwitchRequest _ _ _ | .drainBegin _
  | .drainEnd _ | .retrainComplete _ _ | .widthReduction _ | .imodeChange _ _ | .linkFlitSend _
  | .linkSlotDataFlit _ _ | .linkRequestFlit _ _ | .linkResponseFlit _ _ | .linkIdleFlit _ _ | .tagVerify _ _
  | .edgeQuadRelease _ _ _ | .mgmtIntermissionProposal _ _ | .mgmtAccept _ _ | .mgmtReject _ _
  | .mgmtResyncReport _ _ | .mgmtRestart _ _ | .mgmtStepProposal _ _ | .mgmtResyncNotice _ _ | .mgmtDrained _ _
  | .registerWrite _ _ | .illegal _ | .portLoss _ | .remapDone _ _ => { }

/-- The destination register of an instruction, if it writes one through D. -/
def RegUse.dst (u : RegUse) : Option RegNo :=
  match u.dUse with
  | .source => none
  | _ => u.d

/-- The source registers of an instruction. -/
def RegUse.srcs (u : RegUse) : List RegNo :=
  (match u.dUse with | .dest => [] | _ => u.d.toList) ++ u.a.toList ++ u.b.toList ++ u.e.toList

/-- Every register an instruction's fields name. -/
def RegUse.all (u : RegUse) : List RegNo := u.d.toList ++ u.a.toList ++ u.b.toList ++ u.e.toList

/-- The Cores column of R63, R65 and R69. -/
inductive Cores where
  | allCores
  | tileCores
  | accessOnly
  | executeOnly
  | accessHub
  | hubOnly
  | noCore
  deriving DecidableEq, Repr

/-- The kinds of core (R3). -/
inductive CoreKind where
  | access
  | execute
  | hub
  deriving DecidableEq, Repr

/-- Whether a kind of core is listed. -/
def Cores.lists : Cores → CoreKind → Bool
  | .allCores, _ => true
  | .tileCores, k => k != .hub
  | .accessOnly, k => k == .access
  | .executeOnly, k => k == .execute
  | .accessHub, k => k != .execute
  | .hubOnly, k => k == .hub
  | .noCore, _ => false

/-- The cores that may issue each instruction. -/
def coresOf : Instr → Cores
  | .add .. | .sub .. | .and .. | .or .. | .xor .. | .andn .. | .sll .. | .srl .. | .sra .. | .rol .. | .slt ..
  | .sltu .. | .min .. | .max .. | .minu .. | .maxu .. | .mul .. | .mulh .. | .mulhu .. | .div .. | .divu ..
  | .rem .. | .remu .. | .clz .. | .ctz .. | .pop .. | .sext .. | .zext .. | .addi .. | .andi .. | .ori .. | .xori ..
  | .slti .. | .sltui .. | .slli .. | .srli .. | .srai .. | .lhi .. | .cbnd .. | .cperm .. | .cinc .. | .cset ..
  | .cgetBase .. | .cgetLen .. | .cgetPerm .. | .cgetTag .. | .cgetCur .. | .cseal .. | .cunseal .. | .cincImm ..
  | .beq .. | .bne .. | .blt .. | .bge .. | .bltu .. | .bgeu .. | .loop .. | .j .. | .jl .. | .nop | .jr .. | .ldB ..
  | .ldBu .. | .ldH .. | .ldHu .. | .ldW .. | .ldD .. | .ldQ .. | .ldC .. | .stB .. | .stH .. | .stW .. | .stD ..
  | .stQ .. | .stC .. | .rmt .. | .fence .. | .trapTrap .. | .sysrd .. | .syswr .. | .ifence | .halt => .allCores
  | .hold .. | .ldFe .. | .ldbQ .. | .stFe .. | .stbQ .. | .rep .. | .trn .. | .chkFe .. | .chkWp .. | .semUp ..
  | .semChk .. | .resync | .start .. | .stop | .mark .. | .hbeat .. | .crsChk .. => .tileCores
  | .ldLq .. | .stSq .. | .xmit .. | .xmitM .. | .catchOne .. | .catchM .. | .put .. | .sealOp | .crsOpen .. | .crsStep ..
  | .crsSend .. | .crsRel .. | .crsClose => .accessOnly
  | .fadd .. | .fsub .. | .fmul .. | .fma .. | .fms .. | .fmin .. | .fmax .. | .fabs .. | .fneg .. | .fcmpEq ..
  | .fcmpLt .. | .fcmpLe .. | .fsel .. | .vsum .. | .vmaxr .. | .vminr .. | .frcp .. | .frsq .. | .fsqrt ..
  | .fex2 .. | .flg2 .. | .fsin .. | .fcos .. | .vadd .. | .vsub .. | .vmul .. | .vmin .. | .vmax .. | .vand ..
  | .vor .. | .vxor .. | .vshl .. | .vsra .. | .vperm .. | .vbcast .. | .cvtWide .. | .cvtWideb .. | .cvtPack ..
  | .cvtPackb .. | .cvtF2b .. | .cvtB2f .. | .cvtF2i .. | .cvtI2f .. | .amaxb .. | .scl .. | .mma .. | .mzClr ..
  | .mzAnc .. | .mzRd .. | .mzRaw .. | .mzAdd .. | .mzOvf .. | .mgeo .. | .mgeoSub .. | .msk .. | .chkLq .. => .executeOnly
  | .amoAdd .. | .amoMax .. | .amoMin .. | .amoMaxu .. | .amoMinu .. | .amoAnd .. | .amoOr .. | .amoXor ..
  | .amoSwap .. | .amoCas .. | .amoFmax .. | .cpy .. | .cpyG .. | .cpyS .. | .cpyWp .. | .gput .. | .gget ..
  | .gtbl .. => .accessHub
  | .tretResume .. | .tretAbandon .. | .tretForward .. | .tretIsolate .. | .tlbW .. | .tlbInv .. => .hubOnly
  | .holdExpiry .. | .mmaComplete .. | .imageTransferComplete .. | .catchFlitTake .. | .putPerform .. | .putAnswer ..
  | .amoPerform .. | .amoAnswer .. | .channelCommandStart .. | .engineElementAtHome .. | .engineRefusalArrival ..
  | .deadlineReplyArrival .. | .deferredDeliveryWrite .. | .reductionCombinedArrival .. | .ggetWordArrival ..
  | .heartbeat .. | .carouselDataFlit .. | .carouselReleaseFlit .. | .pendingEffectDue .. | .flitHop ..
  | .missedSlot .. | .turnstile .. | .powerStepRequest .. | .thermalTrip .. | .thermalTripEnd | .bankAct ..
  | .bankRd .. | .bankWr .. | .bankPre .. | .hbmReadData .. | .bankRefresh .. | .looseTileArrival ..
  | .looseHbmAccess .. | .hubAccessAnswer .. | .trapMessage .. | .chainExhaustion .. | .restart ..
  | .intermissionFreeze .. | .writeOutComplete .. | .restoredPartitionStart .. | .troupeIntermissionFreeze ..
  | .troupeRestart .. | .frzctlFreeze .. | .frzctlEndRequest .. | .frzctlIntermission .. | .frzctlRetire ..
  | .journalScan | .launchSlot | .imageStaged .. | .partitionStart .. | .launch .. | .restore .. | .harvest ..
  | .signLog .. | .trapAnswer .. | .spareSwap .. | .attest .. | .spareSwapExecute .. | .spareMapWrite ..
  | .correctedError .. | .logAppend .. | .lostEventsRecord | .logSignatureDone .. | .noticeFlush | .tmsgRead ..
  | .xmsgRead .. | .xdoneWrite .. | .dlogWrite .. | .agenWrite .. | .windowRegisterWrite .. | .jtailWrite ..
  | .bootstatWrite .. | .firmwareVerifyDone .. | .powerOnReset | .slackminRead .. | .personalitySwitchRequest ..
  | .drainBegin .. | .drainEnd .. | .retrainComplete .. | .widthReduction .. | .imodeChange .. | .linkFlitSend ..
  | .linkSlotDataFlit .. | .linkRequestFlit .. | .linkResponseFlit .. | .linkIdleFlit .. | .tagVerify ..
  | .edgeQuadRelease .. | .mgmtIntermissionProposal .. | .mgmtAccept .. | .mgmtReject .. | .mgmtResyncReport ..
  | .mgmtRestart .. | .mgmtStepProposal .. | .mgmtResyncNotice .. | .mgmtDrained .. | .registerWrite .. | .illegal ..
  | .portLoss .. | .remapDone .. => .noCore

/-- The instructions a repeat frame may capture (R63, R71). -/
def frameClass : Instr → Bool
  | .add .. | .sub .. | .and .. | .or .. | .xor .. | .andn .. | .sll .. | .srl .. | .sra .. | .rol .. | .slt ..
  | .sltu .. | .min .. | .max .. | .minu .. | .maxu .. | .mul .. | .mulh .. | .mulhu .. | .div .. | .divu ..
  | .rem .. | .remu .. | .clz .. | .ctz .. | .pop .. | .sext .. | .zext .. | .addi .. | .andi .. | .ori .. | .xori ..
  | .slti .. | .sltui .. | .slli .. | .srli .. | .srai .. | .lhi .. | .fadd .. | .fsub .. | .fmul .. | .fma ..
  | .fms .. | .fmin .. | .fmax .. | .fabs .. | .fneg .. | .fcmpEq .. | .fcmpLt .. | .fcmpLe .. | .fsel .. | .vsum ..
  | .vmaxr .. | .vminr .. | .frcp .. | .frsq .. | .fsqrt .. | .fex2 .. | .flg2 .. | .fsin .. | .fcos .. | .vadd ..
  | .vsub .. | .vmul .. | .vmin .. | .vmax .. | .vand .. | .vor .. | .vxor .. | .vshl .. | .vsra .. | .vperm ..
  | .vbcast .. | .cvtWide .. | .cvtWideb .. | .cvtPack .. | .cvtPackb .. | .cvtF2b .. | .cvtB2f .. | .cvtF2i ..
  | .cvtI2f .. | .amaxb .. | .scl .. | .mma .. | .mzClr .. | .mzAnc .. | .mzRd .. | .mzRaw .. | .mzAdd .. | .mzOvf ..
  | .mgeo .. | .mgeoSub .. | .msk .. => true
  | _ => false

/-- Hub level: tret, tlb.w, tlb.inv, and sysrd and syswr of 0x800 and above (R70). -/
def hubLevel : Instr → Bool
  | .tretResume _ | .tretAbandon _ | .tretForward _ | .tretIsolate _ | .tlbW _ _ | .tlbInv _ _ => true
  | .sysrd _ num => decide (0x800 ≤ num.toNat)
  | .syswr _ num => decide (0x800 ≤ num.toNat)
  | _ => false

/-- The exchange-class instructions (R153, R180, R380). -/
def exchangeClass : Instr → Bool
  | .xmit _ | .xmitM _ _ | .catchOne _ _ | .catchM _ _ | .put _ _ _ | .sealOp | .trn _ | .crsSend _ => true
  | _ => false

/-- The replay of one register field: c0 and c28 to c31 are unchanged, c1 to c27 advance by the stride modulo 27
(R72). -/
def renameReg (r i s : Nat) : Nat := if r = 0 ∨ 28 ≤ r then r else 1 + (r - 1 + i * s) % 27

/-- The word of a captured instruction in iteration `i` of its frame, with strides `ds` `as` `bs` `es` (R72). -/
def renameWord (w : Word) (i ds as bs es : Nat) : Word :=
  match decode w with
  | .error _ => w
  | .ok ins =>
    let u := regUse ins
    let f (r : Option RegNo) (lo s : Nat) : Nat :=
      match r with
      | none => bits w.toNat (lo + 4) lo * 2 ^ lo
      | some r => renameReg r.val i s * 2 ^ lo
    BitVec.ofNat 32 (w.toNat / 2 ^ 26 * 2 ^ 26 + f u.d 21 ds + f u.a 16 as + f u.b 11 bs + f u.e 6 es + w.toNat % 2 ^ 6)

end Sys2Proof
end

