-- ==== Sys2Proof/Machine/Scalar.lean ====
section
/-! DEFINITION. What the integer instructions compute (R83 to R86) and the branch conditions (R92), on the 128 data bits. -/

namespace Sys2Proof.Machine

/-- The integer functions of R84. -/
inductive IntFn where
  | add | sub | and | or | xor | andn | sll | srl | sra | rol | slt | sltu | min | max | minu | maxu
  | mul | mulh | mulhu | div | divu | rem | remu
  deriving DecidableEq, Repr

/-- A truth value as a register value. -/
def boolQ (b : Bool) : Quad := if b then 1#128 else 0#128

/-- int_op for the two-source functions (R84). -/
def intOp (f : IntFn) (x y : Quad) : Quad :=
  let sh := y.toNat % 128
  match f with
  | .add => x + y
  | .sub => x - y
  | .and => x &&& y
  | .or => x ||| y
  | .xor => x ^^^ y
  | .andn => x &&& ~~~y
  | .sll => x <<< sh
  | .srl => x >>> sh
  | .sra => x.sshiftRight sh
  | .rol => x <<< sh ||| x >>> (128 - sh)
  | .slt => boolQ (x.slt y)
  | .sltu => boolQ (x.ult y)
  | .min => if x.sle y then x else y
  | .max => if x.sle y then y else x
  | .minu => if x.ule y then x else y
  | .maxu => if x.ule y then y else x
  | .mul => x * y
  | .mulh => BitVec.ofInt 128 (x.toInt * y.toInt / 2 ^ 128)
  | .mulhu => BitVec.ofNat 128 (x.toNat * y.toNat / 2 ^ 128)
  | .div => if y = 0 then BitVec.allOnes 128 else BitVec.ofInt 128 (x.toInt.tdiv y.toInt)
  | .divu => if y = 0 then BitVec.allOnes 128 else x / y
  | .rem => if y = 0 then x else BitVec.ofInt 128 (x.toInt - x.toInt.tdiv y.toInt * y.toInt)
  | .remu => if y = 0 then x else x % y

/-- clz: 128 when x = 0 (R84). -/
def clzQ (x : Quad) : Quad := if x = 0 then 128#128 else BitVec.ofNat 128 (127 - Nat.log2 x.toNat)

/-- The index of the lowest set bit at or above position `128 - n`, or 128. -/
def ctzFrom : Nat → Quad → Nat
  | 0, _ => 128
  | n + 1, x => if x.getLsbD (127 - n) then 127 - n else ctzFrom n x

/-- ctz: 128 when x = 0. -/
def ctzQ (x : Quad) : Quad := BitVec.ofNat 128 (ctzFrom 128 x)

/-- pop: the number of 1 bits. -/
def popQ (x : Quad) : Quad := BitVec.ofNat 128 ((List.range 128).countP fun i => x.getLsbD i)

/-- The bits of a width code (R64). -/
def widthBits : VTy → Nat
  | .b => 8
  | .h => 16
  | .w => 32
  | .d => 64

/-- sext of the low n bits (R84). -/
def sextQ (x : Quad) (n : Nat) : Quad := BitVec.ofInt 128 (sextNat x.toNat n)
/-- zext of the low n bits. -/
def zextQ (x : Quad) (n : Nat) : Quad := BitVec.ofNat 128 (x.toNat % 2 ^ n)

/-- A sign-extended 16-bit immediate (R63). -/
def immS (i : BitVec 16) : Quad := i.signExtend 128
/-- A zero-extended 16-bit immediate. -/
def immZ (i : BitVec 16) : Quad := i.setWidth 128
/-- A 7-bit shift immediate. -/
def immSh (i : BitVec 7) : Quad := i.setWidth 128
/-- The value of lhi (R86). -/
def lhiQ (i : BitVec 21) : Quad := i.signExtend 128 <<< 16

/-- The branch conditions of R92. -/
inductive BrCond where
  | eq | ne | lt | ge | ltu | geu
  deriving DecidableEq, Repr

/-- Whether a branch is taken; all 128 bits are compared. -/
def BrCond.taken (c : BrCond) (x y : Quad) : Bool :=
  match c with
  | .eq => x == y
  | .ne => x != y
  | .lt => x.slt y
  | .ge => !x.slt y
  | .ltu => x.ult y
  | .geu => !x.ult y

/-- A branch target: sext(offset, 16) times 4 from the branch (R61, R73). -/
def branchTarget (pc : DWord) (off : BitVec 16) : DWord := pc + off.signExtend 64 <<< 2
/-- A jump target: sext(off26, 26) times 4 from the jump. -/
def jumpTarget (pc : DWord) (off : BitVec 26) : DWord := pc + off.signExtend 64 <<< 2

end Sys2Proof.Machine
end

