-- ==== Sys2Proof/Machine/Capability.lean ====
section
/-! DEFINITION. Registers with tags, the capability layout, its bounds and the derivation of capabilities (R10, R13 to
R18, R87 to R91). -/

namespace Sys2Proof.Machine

/-- A c-register or a memory quad: 128 data bits and a tag (R10). -/
structure CReg where
  data : Quad
  tag : Bool
  deriving DecidableEq, Repr, Inhabited

/-- Zero with tag 0. -/
def CReg.zero : CReg := ⟨0, false⟩
/-- An untagged value. -/
def CReg.plain (v : Quad) : CReg := ⟨v, false⟩

/-- PERM [123:112] (R13). -/
def capPerm (c : Quad) : BitVec 12 := c.extractLsb' 112 12
/-- E [111:106]. -/
def capE (c : Quad) : Nat := bits c.toNat 111 106
/-- BM [105:85]. -/
def capBM (c : Quad) : Nat := bits c.toNat 105 85
/-- LM [84:64]. -/
def capLM (c : Quad) : Nat := bits c.toNat 84 64
/-- CUR [63:0]. -/
def capCur (c : Quad) : DWord := c.extractLsb' 0 64

/-- Permission bits, numbered within PERM (R14). -/
def pLD : BitVec 12 := 0x001
def pST : BitVec 12 := 0x002
def pX : BitVec 12 := 0x004
def pLDC : BitVec 12 := 0x008
def pSTC : BitVec 12 := 0x010
def pSEAL : BitVec 12 := 0x020
def pUNSEAL : BitVec 12 := 0x040
def pSLD : BitVec 12 := 0x080
def pFE : BitVec 12 := 0x100
def pGLB : BitVec 12 := 0x200
def pENG : BitVec 12 := 0x400
def pSYS : BitVec 12 := 0x800

/-- Whether a capability holds every permission of a mask. -/
def hasPerm (c : Quad) (need : BitVec 12) : Bool := capPerm c &&& need == need
/-- PERM bit 119: sealed. -/
def sealed (c : Quad) : Bool := c.getLsbD 119

/-- decode_bounds on the fields (R15). -/
def boundsOf (e bm lm cur : Nat) : Nat × Nat :=
  if e = 63 then (0, 2 ^ 64)
  else if e > 43 then (0, 0)
  else
    let off := bm * 2 ^ e
    let hi := (cur + 2 ^ 64 - off) % 2 ^ 64 / 2 ^ (e + 21)
    let base := hi * 2 ^ (e + 21) + off
    let top := base + lm * 2 ^ e
    if top > 2 ^ 64 then (0, 0) else (base, top)

/-- decode_bounds (R15). -/
def decodeBounds (c : Quad) : Nat × Nat := boundsOf (capE c) (capBM c) (capLM c) (capCur c).toNat

/-- The capability with another cursor. -/
def withCur (c : Quad) (cur : DWord) : Quad := BitVec.ofNat 128 (c.toNat / 2 ^ 64 * 2 ^ 64 + cur.toNat)

/-- Bits [127:124] of a derived capability are 0 (R87). -/
def clearTop (c : Quad) : Quad := BitVec.ofNat 128 (c.toNat % 2 ^ 124)

/-- Whether a cursor is representable (R16). -/
def representable (c : Quad) (cur : DWord) : Bool := decodeBounds (withCur c cur) == decodeBounds c

/-- The capability with another PERM. -/
def withPerm (c : Quad) (p : BitVec 12) : Quad :=
  BitVec.ofNat 128 (c.toNat / 2 ^ 124 * 2 ^ 124 + p.toNat * 2 ^ 112 + c.toNat % 2 ^ 112)

/-- The capability with other bounds fields. -/
def withBounds (c : Quad) (e bm lm : Nat) : Quad :=
  BitVec.ofNat 128 (c.toNat / 2 ^ 112 * 2 ^ 112 + e * 2 ^ 106 + bm * 2 ^ 85 + lm * 2 ^ 64 + c.toNat % 2 ^ 64)

/-- What encode_bounds gives: the fields and the bounds they stand for (R89). -/
structure Bounds where
  e : Nat
  bm : Nat
  lm : Nat
  base : Nat
  top : Nat
  deriving DecidableEq, Repr

/-- The encoding with exponent `e`, if it holds the bounds (R89). -/
def boundsAt (base top cur e : Nat) : Option Bounds :=
  let base2 := base / 2 ^ e * 2 ^ e
  let top2 := (top + 2 ^ e - 1) / 2 ^ e * 2 ^ e
  let lm := (top2 - base2) / 2 ^ e
  let bm := base2 / 2 ^ e % 2 ^ 21
  if lm ≤ 2 ^ 21 - 1 ∧ boundsOf e bm lm cur = (base2, top2) then some ⟨e, bm, lm, base2, top2⟩ else none

/-- encode_bounds (R89). -/
def encodeBounds (base top cur : Nat) : Bounds :=
  if base = 0 ∧ top = 2 ^ 64 then ⟨63, 0, 0, 0, 2 ^ 64⟩
  else ((List.range 44).findSome? (boundsAt base top cur)).getD ⟨63, 0, 0, 0, 2 ^ 64⟩

/-- A cursor move: the tag survives only a representable cursor, and bits [127:124] become 0 (R90). -/
def moveCursor (c : CReg) (cur : DWord) : CReg :=
  ⟨clearTop (withCur c.data cur), c.tag && representable c.data cur⟩

/-- An entry operand: a tagged, sealed capability with X is unsealed (R94, R190). -/
def enterCap (c : CReg) : CReg :=
  if c.tag && sealed c.data && hasPerm c.data pX then ⟨withPerm c.data (capPerm c.data &&& ~~~pSLD), true⟩ else c

/-- A capability with given bounds, cursor and permissions, as .cap forms it (R81). -/
def makeCap (base top : Nat) (cur : DWord) (perm : BitVec 12) : CReg :=
  let b := encodeBounds base top cur.toNat
  ⟨withBounds (withPerm (BitVec.ofNat 128 cur.toNat) perm) b.e b.bm b.lm, true⟩

end Sys2Proof.Machine
end

