-- ==== Sys2Proof/Machine/State.lean ====
section
/-! DEFINITION. The state of a module (LYT-16A): every piece the manual names, as plain data, and what it is after
power-on. Rules are cited at each field. Fields marked MODEL are the model's own (log entry 4). -/

namespace Sys2Proof.Machine

/-- Why a step stops the model with a fault. -/
inductive Fault where
  /-- A step is asked for in a context that the state does not hold (a slot of a tile in no partition). Raised by
  `runAct`; safe: the manual gives no such step. -/
  | noSuchContext
  deriving DecidableEq, Repr

/-- Why a step is refused. -/
inductive Refusal where
  /-- The instruction has no meaning in this model yet. Raised by arms of `exec`; safe. -/
  | notModelled (mnemonic : String)
  /-- An instruction word is asked to execute while no context issues. Raised by `issue`; safe: a word executes only
  when a context issues it. -/
  | noContext
  deriving DecidableEq, Repr

/-! ### Contexts and cores -/

/-- A word held ahead of issue, with its indication of an uncorrectable error (R30, R272). -/
structure FWord where
  w : Word
  bad : Bool := false
  deriving DecidableEq, Repr

/-- The fetch buffer: consecutive words from address `base` on (R30). -/
structure FetchBuf where
  base : DWord
  words : List FWord
  deriving DecidableEq, Repr

/-- The loop state LS, LE, LC and its active bit (R95). -/
structure LoopSt where
  ls : DWord
  le : DWord
  lc : BitVec 32
  active : Bool
  deriving DecidableEq, Repr

/-- A context: a slot of a core, or the one context of a hub core (R9 to R11, R19 to R24, R30, R95, R96, R144). -/
structure Slot where
  c : Vector CReg 32
  pcc : CReg
  s : Vector Quad 8
  fm : BitVec 32
  fl : BitVec 32
  sr : Quad
  live : Bool
  fbuf : FetchBuf
  loop : LoopSt
  /-- the hold target t (R96) -/
  hold : Option DWord
  deriving DecidableEq, Repr

/-- A slot as the launch clears it (R32). -/
def Slot.cleared : Slot :=
  { c := Vector.replicate 32 .zero, pcc := .zero, s := Vector.replicate 8 0, fm := 0, fl := 0, sr := 0, live := false,
    fbuf := ⟨0, []⟩, loop := ⟨0, 0, 0, false⟩, hold := none }

/-- The repeat-frame buffer of a core (R118 to R121): its owner, the address of its first word, the words captured so
far, n, len, the strides and the next (i, j). -/
structure Frame where
  owner : Fin 4
  base : DWord
  words : List FWord
  n : Nat
  len : Nat
  ds : Nat
  as : Nat
  bs : Nat
  es : Nat
  i : Nat
  j : Nat
  deriving DecidableEq, Repr

/-- A core: its slots, its frame buffer, its watchdog (R292) and its arrival at the Turnstile (R154). -/
structure Core where
  slots : Vector Slot 4
  frame : Option Frame
  armed : Bool
  hbd : Nat
  trn : Bool
  deriving DecidableEq, Repr

/-- A core as the launch clears it. -/
def Core.cleared : Core :=
  { slots := Vector.replicate 4 .cleared, frame := none, armed := false, hbd := 0, trn := false }

/-! ### The matrix unit -/

/-- An accumulator (R48, R122). -/
structure Acc where
  el : Vector (BitVec 96) 64
  anchor : BitVec 10
  ov : Bool
  iv : Bool
  mask : BitVec 64
  deriving DecidableEq, Repr

/-- An accumulator at launch. -/
def Acc.cleared : Acc := { el := Vector.replicate 64 0, anchor := 0, ov := false, iv := false, mask := BitVec.allOnes 64 }

/-- The geometry register mg (R123). -/
structure Mg where
  zarr : BitVec 2
  ndim : BitVec 32
  mdim : BitVec 32
  col0 : BitVec 32
  row0 : BitVec 32
  deriving DecidableEq, Repr

/-- The mma in flight (R128, R301): its accumulator, issue cycle and latency L in turns, the format codes, the anchor and live
mask as read at issue, the rows of A and columns of B as read, and the two scale registers with their HA and HB. -/
structure MmaOp where
  z : Fin 4
  issued : Nat
  lat : Nat
  fa : Nat
  fb : Nat
  anchor : BitVec 10
  live : BitVec 64
  rows : List (List Byte)
  cols : List (List Byte)
  sa : Quad
  sb : Quad
  ha : BitVec 1
  hb : BitVec 1
  deriving DecidableEq, Repr

/-- The cycle at whose end an mma completes: n + 4L - 1 (R128). -/
def MmaOp.due (op : MmaOp) : Nat := op.issued + 4 * op.lat - 1

/-- The image transfer in flight (R137): for mz.add the accumulator and the image's elements, OV and IV. -/
structure ImageOp where
  z : Fin 4
  due : Nat
  add : Bool
  addr : Nat
  slot : Fin 4
  anchor : BitVec 10
  ov : Bool
  iv : Bool
  el : List (BitVec 96)
  deriving DecidableEq, Repr

/-! ### Copy channels -/

/-- A shape record (R243): words per element, counts, strides, index list parameters and swizzle. -/
structure Shape where
  w : Nat
  n0 : Nat
  n1 : Nat
  n2 : Nat
  ss0 : Int
  ss1 : Int
  ss2 : Int
  ds0 : Int
  ds1 : Int
  ds2 : Int
  ioff : Int
  lim : Nat
  isz : Nat
  sws : Nat
  swb : Nat
  deriving DecidableEq, Repr

/-- The engine forms (R252). -/
inductive EngForm where
  | cpy | cpyG | cpyS | gput | gget
  deriving DecidableEq, Repr

/-- The path of a command (R247). -/
inductive Path where
  | localOnly
  | memberDst
  | memberSrc
  | pcSrc
  | pcDst
  | deadlineDst
  | deadlineSrc
  | reduce
  deriving DecidableEq, Repr

/-- A channel command (R240, R241): its form, shape, index list, cursors, path, the cycle it issued in, its start cycle
once known, the last cycle of its issue side once known, the stream number of its first word, its progress over bursts
(R248) or over the steps of a hub's walk, the translated addresses of its next element with the entries used (R317), and for reductions its
table entry and length. -/
structure Cmd where
  form : EngForm
  shape : Shape
  idx : List Nat
  src : CReg
  dst : CReg
  path : Path
  issued : Nat
  start : Option Nat
  last : Option Nat
  first : Nat
  burst : Nat
  tr : List (Nat × Nat)
  entry : Nat
  n : Nat
  deriving DecidableEq, Repr

/-- A copy channel (R240). `len` counts the words of the stream so far, `done` lists the completed words past the
prefix, `inflight` the words read or sent and not complete (R242, R254). -/
structure Chan where
  run : Option Cmd
  que : Option Cmd
  wp : DWord
  orc : BitVec 32
  err : BitVec 4
  len : Nat
  done : List Nat
  inflight : List Nat
  /-- a hub channel's translation request and its outcome (R318) -/
  xlate : Option (Nat × Option Nat)
  deriving DecidableEq, Repr

/-- A channel at launch. -/
def Chan.cleared : Chan :=
  { run := none, que := none, wp := 0, orc := 0, err := 0, len := 0, done := [], inflight := [], xlate := none }

/-! ### Exchange -/

/-- A posted-store journal entry (R275). -/
structure JEntry where
  addr : DWord
  data : DWord
  cmp : DWord
  ss : BitVec 32
  op : BitVec 8
  v : Bool
  wide : Bool
  slot : Fin 4
  dreg : RegNo
  deriving DecidableEq, Repr

/-- An unused journal entry at launch. -/
def JEntry.cleared : JEntry := ⟨0, 0, 0, 0, 0, false, false, 0, 0⟩

/-- A word on its way to an edge port (R350, R361): the port, the slot identifier and superstep (the step of a crs.send),
the destination device, the quads of the transfer, and its index j in the transfer. -/
structure PortWord where
  port : Nat
  slot : Nat
  ss : Nat
  peer : Nat
  quads : Nat
  j : Nat
  deriving DecidableEq, Repr

/-- An xmit.m in progress (R181): next quad k of n, from offset `off`, begun at cycle `n0`, to `dst` (a tile, or the
attachment tile of `port`'s edge port, with the step of a crs.send). -/
structure SendSt where
  n0 : Nat
  n : Nat
  off : Nat
  slot : Fin 4
  dst : Coord
  port : Option PortWord
  step : Option Nat
  deriving DecidableEq, Repr

/-- A catch or catch.m in progress (R182): begun at cycle `a` for n quads to offset `off`, with the low half of the
present quad if it has come; `many` marks catch.m. -/
structure CatchSt where
  a : Nat
  n : Nat
  off : Nat
  slot : Fin 4
  low : Option DWord
  ok : Bool
  many : Bool
  deriving DecidableEq, Repr

/-- A Carousel ring record (R375). -/
structure RingRec where
  n : Nat
  rport : Nat
  sport : Nat
  sbase : Nat
  sq : Nat
  pred : Nat
  succ : Nat
  deriving DecidableEq, Repr

/-- The state of a slot of a landing tile (R376). -/
inductive RState where
  | empty | filling | full
  deriving DecidableEq, Repr

/-- A receiver slot: its state, the step whose data it holds and the quads written (R376). -/
structure RSlot where
  state : RState
  tag : Nat
  count : Nat
  deriving DecidableEq, Repr

/-- The sender's view of a slot of the successor: LENT with its step, or OWNED (R376). -/
structure SView where
  lent : Bool
  tag : Nat
  deriving DecidableEq, Repr

/-- An accepted Carousel flit that waits to be written (R378): its slot, step, first quad and quads. -/
structure SlotFlit where
  slot : Nat
  ss : Nat
  q0 : Nat
  quads : List Quad
  deriving DecidableEq, Repr

/-- A Carousel binding (R373 to R387): the ring record, the SEQ of its partition, k, the slots and views, and the accepted flits
whose quads are still to be written. -/
structure Binding where
  ring : RingRec
  seq : Nat
  k : BitVec 32
  slots : Vector RSlot 4
  views : Vector SView 4
  deferred : List SlotFlit
  deriving DecidableEq, Repr

/-! ### Effects that are due -/

/-- Who writes a word: the writer of R226 and R271. `word` is the number of the word in its channel's stream. -/
structure Writer where
  kind : Nat
  core : Nat
  slot : Nat
  entry : Nat
  x : Nat
  y : Nat
  word : Option Nat
  deriving DecidableEq, Repr

/-- The changes of a Carousel binding that fall due at the end of an issue cycle (R376, R382 to R385). -/
inductive CrsAct where
  | opened (b : Binding)
  | step
  | sent (slot : Fin 4) (k : Nat)
  | released (slot : Fin 4) (j : Nat)
  | closed
  deriving DecidableEq, Repr

/-- An effect that falls due at the end of a cycle (R28, R302). Offsets are tile-local. -/
inductive Eff where
  | creg (k : Side) (slot : Fin 4) (r : RegNo) (v : CReg)
  | flOr (slot : Fin 4) (f : BitVec 6)
  | flSet (k : Side) (slot : Fin 4) (v : BitVec 32)
  | fmSet (k : Side) (slot : Fin 4) (v : BitVec 32)
  | srSet (k : Side) (slot : Fin 4) (v : Quad)
  | sSet (k : Side) (slot : Fin 4) (n : Fin 8) (v : Quad)
  | sByte (slot : Fin 4) (n : Fin 8) (pos : Nat) (v : BitVec 8)
  /-- bytes to local SRAM or the bonded slice; `tag` is the quad's new memory tag, `full` sets the full bits -/
  | store (off : Nat) (data : List Byte) (tag : Bool) (full : Bool) (w : Writer)
  /-- the bytes of `mask` of the quad at `off`, as a handler may have edited a saved store (R302) -/
  | storeMask (off : Nat) (mask : Nat) (v : Quad) (tag : Bool) (full : Bool) (w : Writer)
  /-- a space-0 or space-1 atomic at its home: function, width in bytes, operand and compare value -/
  | amo (off : Nat) (f : Nat) (size : Nat) (x e : DWord) (xact : Nat) (reg : Option (Fin 4 × RegNo × Nat)) (w : Writer)
  /-- a Carousel or deadline-path delivery of one word (R249); `order` is 0 for Carousel, 1 + channel otherwise -/
  | delivery (off : Nat) (data : DWord) (order : Nat) (ch : Option (Fin 4 × Nat)) (tag : Bool)
  | lqPush (slot : Fin 4) (v : Quad)
  | lqPop
  | sqPush (slot : Fin 4) (v : Quad)
  | sqPop
  | accClear (slot z : Fin 4) (anchor : Option (BitVec 10))
  | ovClear (slot z : Fin 4)
  | msk (slot z : Fin 4) (v : BitVec 64)
  | mg (slot : Fin 4) (v : Mg)
  | semAdd (k : Side) (slot : Fin 4) (n : Fin 16) (v : BitVec 32)
  | semSub (k : Side) (slot : Fin 4) (n : Fin 16) (v : BitVec 32)
  | fullClear (k : Side) (slot : Fin 4) (off : Nat)
  | mark (v : Quad)
  | gtab (n : Fin 64) (v : DWord)
  | orc (ch : Fin 4)
  | crs (a : CrsAct)
  /-- MODEL: the place in issue order of the result of a space-1 atomic, which its answer fills (R29, R236) -/
  | xreg (slot : Fin 4) (id : Nat)
  /-- a stream word that completes without a write (R242) -/
  | wordDone (ch : Fin 4) (n : Nat)
  /-- a started slot may issue after this cycle (R190) -/
  | ready (k : Side) (slot : Fin 4)
  deriving DecidableEq, Repr

/-- A pending effect with its due cycle (R302). -/
structure Pend where
  due : Nat
  eff : Eff
  deriving DecidableEq, Repr

/-- A damaged storage item of a tile (R272), by structure (REASON) and INFO. It is the environment's. -/
structure Damage where
  reason : Nat
  key : Nat
  deriving DecidableEq, Repr

/-- A logical tile (R3, R26, R122, R188, R193, R199, R204, R228, R240, R255, R275). -/
structure Tile where
  access : Core
  exec : Core
  lq : List Quad
  sq : List Quad
  z : Vector Acc 4
  mg : Mg
  mma : Option MmaOp
  image : Option ImageOp
  win : Vector DWord 4
  winShadow : Vector (Option DWord) 4
  sem : Vector (BitVec 32) 16
  marks : Vector Quad 4
  iss : BitVec 32
  ans : BitVec 32
  journal : Vector JEntry 32
  chans : Vector Chan 4
  gtab : Vector DWord 64
  gshadow : Vector DWord 64
  sends : List SendSt
  catches : List CatchSt
  binding : Option Binding
  pend : List Pend
  lost : Bool
  damage : List Damage
  deriving DecidableEq, Repr

/-- A tile at power-on, and between partitions (R199): every window is 0. -/
def Tile.powerOn : Tile :=
  { access := .cleared, exec := .cleared, lq := [], sq := [], z := Vector.replicate 4 .cleared, mg := ⟨0, 0, 0, 0, 0⟩,
    mma := none, image := none, win := Vector.replicate 4 0, winShadow := Vector.replicate 4 none,
    sem := Vector.replicate 16 0, marks := Vector.replicate 4 0, iss := 0, ans := 0,
    journal := Vector.replicate 32 .cleared, chans := Vector.replicate 4 .cleared, gtab := Vector.replicate 64 0,
    gshadow := Vector.replicate 64 0, sends := [], catches := [], binding := none, pend := [], lost := false,
    damage := [] }

/-! ### Faults and partitions -/

/-- A fault record (R273). -/
structure FRec where
  code : Nat
  reason : Nat
  who : Nat
  kind : Nat
  x : Nat
  y : Nat
  cyc : Nat
  pc : Nat
  word : Nat
  info : Nat
  /-- MODEL: the channel that raised it, by which the records of one tile are ordered (R274) -/
  chan : Nat := 0
  deriving DecidableEq, Repr

/-- The kinds of route tag (R173); acknowledgements travel on their own wires (R184). -/
inductive FlitKind where
  | stream | putAddr | putData | engine | ack
  deriving DecidableEq, Repr

/-- A flit in the mesh (R173 to R175): injected at `src` in cycle `q`; `delay` counts the cycles lost to collisions;
`caught` is the cycle in which, having been caught, it has first claim on its output, with its slot in the safety net; `job`
names the transaction or element it serves. -/
structure Flit where
  id : Nat
  kind : FlitKind
  src : Coord
  dst : Coord
  q : Nat
  payload : DWord
  delay : Nat
  caught : Option (Nat × Nat)
  job : Nat
  port : Option PortWord
  /-- the input of its first router: 4 local, 1 east or 3 west from an edge port -/
  inp : Nat
  deriving DecidableEq, Repr

/-- A put or a space-1 atomic between its issue and its answer (R183, R184, R236). `op` is the journal's OP byte,
`perform` and `answer` the cycles at whose end it performs and is answered. -/
structure Xact where
  id : Nat
  src : Coord
  slot : Fin 4
  entry : Fin 32
  home : Coord
  addr : DWord
  data : DWord
  cmp : DWord
  op : Nat
  wide : Bool
  dreg : RegNo
  ss : Nat
  perform : Nat
  answer : Nat
  performed : Bool
  refused : Bool
  collided : Bool
  result : DWord
  deriving DecidableEq, Repr

/-- An element of a timetabled member-tile path at its home (R247, R250): `at'` is the cycle of its address or request
flit there. `homeOffs` are the home offsets of its words, `tileOffs` the channel tile's. `se` is the cycle s_e; `pc` is the
owned pseudo-channel whose attachment is the home (R248). -/
structure Element where
  id : Nat
  tile : Coord
  ch : Fin 4
  e : Nat
  home : Coord
  pc : Option Nat
  se : Nat
  arrive : Nat
  dst : Bool
  refusedAt : Option Nat
  first : Nat
  homeOffs : List Nat
  tileOffs : List Nat
  zero : Bool
  deriving DecidableEq, Repr

/-- A word of a contribution of an in-network reduction in the mesh, or a broadcast word on its way to one member (R257,
R396): `due` is the cycle in which it reaches the local output, `late` the outputs from which on it runs a cycle late, the
latest last, `caught` as for a flit, and `count` the contributions that it combines. -/
structure RedWord where
  id : Nat
  caught : Option (Nat × Nat)
  late : List (Coord × Nat)
  count : Nat
  key : RedKey
  tile : Coord
  ch : Fin 4
  data : DWord
  due : Nat
  deriving DecidableEq, Repr

/-- A member's expectation of a gget word, or the origin's of a combined word (R257, R259). -/
structure RedWait where
  key : RedKey
  tile : Coord
  ch : Fin 4
  dstOff : Nat
  due : Nat
  stream : Nat
  deriving DecidableEq, Repr

/-- A route entry (R176). -/
structure RouteEntry where
  px : Nat
  py : Nat
  pe : Nat
  form : Nat
  dx : Nat
  dy : Nat
  len : Nat
  off : Nat
  deriving DecidableEq, Repr

/-- A bank-command entry (R207). -/
structure BankEntry where
  pc : Nat
  pe : Nat
  cmd : Nat
  bank : Nat
  ch : Nat
  px : Nat
  py : Nat
  col : Nat
  row : Nat
  off : Nat
  deriving DecidableEq, Repr

/-- An edge entry (R360). -/
structure EdgeEntry where
  px : Nat
  py : Nat
  pe : Nat
  form : Nat
  port : Nat
  len : Nat
  slot : Nat
  off : Nat
  peer : Nat
  deriving DecidableEq, Repr

/-- A parsed timetable image (R152): phase entries (C, X, N) and its sections. -/
structure Timetable where
  phases : List (Nat × Nat × Nat)
  route : List RouteEntry
  owned : List Nat
  bank : List BankEntry
  edge : List EdgeEntry
  pins : List Quad
  deriving DecidableEq, Repr

/-- A timetable of one endless compute phase. -/
def Timetable.empty : Timetable := ⟨[], [], [], [], [], []⟩

/-- The fields of a launch record that the host writes, and those the device writes (R161). `slotAddr` is the HBM
address of the record in the journal ring. -/
structure Record where
  seq : Nat
  kind : Nat
  prio : Nat
  flg : Nat
  w : Nat
  h : Nat
  xr : Nat
  yr : Nat
  asid : Nat
  preds : List Nat
  image : Nat
  ttab : Nat
  save : Nat
  troupe : Nat
  tdt : Nat
  tstart : Nat
  tbase : Nat
  state : Nat
  pid : Nat
  xo : Nat
  yo : Nat
  code : Nat
  t0 : Nat
  tend : Nat
  body : List Byte
  slotAddr : Nat
  deriving DecidableEq, Repr

/-- The forms a partition can be in: admitted and waiting for partition cycle 0 (R166), running, frozen in place, written
out (R297), and placed again with its restart pending (R306). -/
inductive PForm where
  | launching | running | held | writtenOut | restoring
  deriving DecidableEq, Repr

/-- An outstanding deadline request of a channel word (R249, R261). -/
structure Request where
  id : Nat
  tile : Coord
  ch : Fin 4
  word : Nat
  off : Nat
  write : Bool
  deriving DecidableEq, Repr

/-- A translation request outstanding for a channel (R317). -/
structure XlateWait where
  num : Nat
  die : Nat
  tile : Coord
  ch : Fin 4
  va : Nat
  outcome : Option Nat
  deriving DecidableEq, Repr

/-- A read burst between RD and its delivery (R209, R248): its bytes, the cycle t + 96, the stream number of its first word
and the channel tile's offsets. -/
structure HbmRead where
  id : Nat
  pc : Nat
  addr : Nat
  at' : Nat
  tile : Coord
  ch : Fin 4
  burst : Nat
  data : List Byte
  first : Nat
  tileOffs : List Nat
  deriving DecidableEq, Repr

/-- A word standing in a pseudo-channel's staging buffer since the end of cycle `at'` (R248); `burst` numbers the bursts in the order
in which they began to arrive, so that two bursts of one address stay apart; `wr` is the cycle at whose end
a WR entry has it written (R242). -/
structure StageWord where
  pc : Nat
  tile : Coord
  ch : Fin 4
  addr : Nat
  data : DWord
  stream : Nat
  burst : Nat
  at' : Nat
  wr : Option Nat
  deriving DecidableEq, Repr

/-- A received edge quad that stands in a landing buffer (R361, R362): the entry, superstep, quad index and data, and the
partition cycle of its arrival. -/
structure EdgeQuad where
  entry : Nat
  ss : Nat
  quad : Nat
  v : Quad
  at' : Int
  deriving DecidableEq, Repr

/-- MODEL: the tiles of a partition with memory, full bits and memory tags, at one moment. -/
structure Snap where
  tiles : List (Nat × Tile)
  mem : List Host.Cell
  full : List Nat
  qtags : List Nat
  deriving DecidableEq, Repr

/-- MODEL: what a freeze with instructions to be re-offered keeps of its cycle p (R278): the state after the issues of p, the
state before the effects due at its end, the state that the freeze holds, and the superstep of p. -/
structure Undo where
  first : Snap
  late : Snap
  post : Snap
  ss : Nat
  deriving DecidableEq, Repr

/-- MODEL: what the re-issue step combines (R278): the state that the re-offered instructions see, the state before the effects of
cycle p with the handler's edits, and the state that the handler and the held arrivals left. -/
structure Redo where
  start : Snap
  late : Snap
  cur : Snap
  deriving DecidableEq, Repr

/-- MODEL: a re-issue step in progress (R278): the records of the freeze, the superstep that follows, what is combined, and the
channels whose lookups are repeated (R317). -/
structure Reissue where
  old : List FRec
  ss : Nat
  redo : Option Redo
  lookups : List (Coord × Fin 4)
  deriving DecidableEq, Repr

/-- A partition (R146 to R172, R294 to R306). -/
structure Part where
  pid : Nat
  lrec : Record
  x0 : Nat
  y0 : Nat
  tt : Timetable
  dt : Nat
  tb : Nat
  t0 : Nat
  form : PForm
  /-- the cycle p that is in progress or, while frozen, the last completed one; `none` before partition cycle 0 -/
  p : Option Nat
  /-- the tick counter c, the power step, the pending step, and for a troupe the superstep at whose Turnstile it takes
  effect (R171, R365) -/
  tick : Nat
  step : Nat
  pstep : Option Nat
  pstepAt : Option Nat
  ss : Nat
  resync : Bool
  /-- the superstep whose Turnstile a notice made a resync Turnstile (R365) -/
  resyncAt : Option Nat
  /-- FLAGS[1] of the save-area header (R299, R362) -/
  resyncFlag : Bool
  /-- the troupe instant at which the partition restarts, and an agreed intermission cycle (R308, R365) -/
  restartQ : Option Nat
  agreedQ : Option Nat
  /-- the freeze: causes in force (R294), whether a freeze takes effect at the end of this cycle, the records of the
  freeze, the contexts whose instructions are to be re-offered (R278) -/
  causes : List Nat
  /-- the latest cause, as the header gives it (R299) -/
  cause : Nat
  freezing : Bool
  faults : List FRec
  /-- MODEL: the records of earlier freezes of the same cycle p whose outcomes stand (R278) -/
  stood : List FRec
  reoffer : List (Coord × Side × Fin 4)
  turnDue : Bool
  message : Option Nat
  /-- the device RMT at which the last cause ended, and at which the partition restarts (R305) -/
  restartAt : Option Nat
  /-- whether its state stands in the save area and not in its tiles (R297, R306) -/
  written : Bool
  /-- whether a restore has brought its state back since its last freeze (R299) -/
  restored : Bool
  /-- MODEL: what of a core block's records its 640 places do not hold, by twice the member's key plus 1 for the execute core, and what of
  a tile's flit records its 128 places do not hold (R300, R302; log entry 16) -/
  overRecs : List (Nat × List Byte)
  overFlits : List (Nat × List Byte)
  /-- MODEL: the windows of before the Turnstile of the cycle in progress, by tile, where it changed them (R201) -/
  winWas : List (Nat × Vector DWord 4)
  halted : Option Nat
  flits : List Flit
  xacts : List Xact
  elems : List Element
  redWords : List RedWord
  redWaits : List RedWait
  reads : List HbmRead
  staging : List StageWord
  requests : List Request
  /-- loose accesses that wait at their homes, in arrival order (R166, R304) -/
  held : List Loose
  /-- records of the held area in use, and whether one found it full (R299, R304) -/
  nheld : Nat
  heldOver : Bool
  xlate : List XlateWait
  edgeIn : List EdgeQuad
  /-- ports that went down, each with the superstep then present: a quad of that superstep or the next that had not arrived is lost
  with it (R362) -/
  linkDown : List (Nat × Nat)
  /-- MODEL: what the re-issue step needs of the faulting cycle (R278) -/
  undo : Option Undo
  reissue : Option Reissue
  /-- the device RMT at which write-out is complete (R307) -/
  outAt : Option Nat
  /-- the pinned translation entries of the partition, by die and index (R315) -/
  pins : List (Nat × Nat)
  /-- MODEL: the next transaction number -/
  next : Nat
  deriving DecidableEq, Repr

/-! ### Hubs -/

/-- What a hub core waits for (R145, R198, R288, R318). -/
inductive Wait where
  | answer (i : Instr)
  | mailbox
  | xmsg
  | channel
  | fence (scope : Nat)
  | translation (num : Nat)
  | remap (num : Nat)
  /-- tlb.inv: what used a cleared entry and has not been accepted at its home (R326): loose accesses in transit, requests that have
  left the device, by their tags, and channels whose present element was translated by one of the entries `sel` of the die -/
  | inval (ids tags : List Nat) (chans : List (Owner × Fin 4)) (sel : List Nat)
  deriving DecidableEq, Repr

/-- A trap message (R279 to R282). -/
structure Message where
  ticket : Nat
  origin : Bool
  pid : Nat
  loc : Nat
  code : Nat
  reason : Nat
  nrec : Nat
  trunc : Bool
  level : Nat
  /-- the die whose trap hub holds it at level 1 -/
  die : Nat
  /-- whether its hub has popped it; at level 3, whether its notice has been formed -/
  popped : Bool
  first : FRec
  posted : Nat
  deriving DecidableEq, Repr

/-- A hub core (R145, R281, R323). -/
structure Hub where
  ctx : Slot
  chans : Vector Chan 4
  hasid : BitVec 10
  hfr : FRec
  stopped : Bool
  failed : Bool
  wait : Option Wait
  /-- an answer that has come back and is taken at the next issue -/
  answer : Option Reply
  /-- loose stores accepted by homes of this device but not yet performed (R232, R238) -/
  unperformed : Nat
  /-- the device RMT at which each store that a home of another device has accepted is performed there (R232, R238) -/
  remote : List Nat
  /-- outstanding requests of the hub's copy channels (R249) -/
  requests : List Request
  damage : List Damage
  deriving DecidableEq, Repr

/-- No fault record. -/
def FRec.none : FRec := ⟨0, 0, 0, 0, 0, 0, 0, 0, 0, 0, 0⟩

/-- A hub core at power-on: its context runs once the firmware starts it (R341). -/
def Hub.powerOn : Hub :=
  { ctx := .cleared, chans := Vector.replicate 4 .cleared, hasid := 0, hfr := .none, stopped := false, failed := false,
    wait := none, answer := none, unperformed := 0, remote := [], requests := [], damage := [] }

/-- A hub's context at its firmware entry: the PCC that the firmware gives it is left open (log entry 13). -/
def Hub.entry (die hub : Nat) : Slot :=
  let v := Config.hubEntry (die * 64 + hub)
  { Slot.cleared with pcc := ⟨v.setWidth 128, v.getLsbD 128⟩, live := true }

/-- A hub core as the firmware starts it (R341 step 4). -/
def Hub.started (die hub : Nat) : Hub := { Hub.powerOn with ctx := Hub.entry die hub }

/-! ### The model's bookkeeping -/

/-- A context that issues. -/
inductive Ctx where
  | tile (t : Coord) (k : Side) (slot : Fin 4)
  | hub (die hub : Nat)
  deriving DecidableEq, Repr

/-- MODEL: the instruction that is issuing: its context, its word and address, and whether it is word j of a frame. -/
structure Cur where
  ctx : Ctx
  word : Word
  pc : DWord
  frame : Bool
  deriving DecidableEq, Repr

/-- MODEL: the stages at which the agenda of a cycle is extended. -/
inductive Stage where
  | start | mid | late | close | held | finish | resumed
  deriving DecidableEq, Repr

/-- MODEL: a step of the present device cycle. -/
inductive Act where
  | issue (c : Ctx)
  | event (i : Instr)
  | plan (st : Stage) (pid : Nat)
  /-- a loose access reaches its home -/
  | deliver (id : Nat)
  /-- a Carousel release that is applied at the end of the cycle (R376) -/
  | release (port : Nat) (f : LinkFlit)
  deriving DecidableEq, Repr

/-- MODEL: a loose access on its way to its home, with the device RMT of its arrival (R231). -/
structure Flight where
  id : Nat
  at' : Nat
  a : Loose
  /-- the die and index of each translation entry it used -/
  via : List (Nat × Nat)
  deriving DecidableEq, Repr

/-- MODEL: an answer on its way to a loose source. -/
structure Returning where
  at' : Nat
  src : LooseSrc
  r : Reply
  deriving DecidableEq, Repr

/-- A pseudo-channel controller (R205 to R212, R220): owner, open row per bank, the rows recorded while its owner is frozen (R211),
counts, held loose accesses. -/
structure PChan where
  owner : Option Nat
  rows : List (Nat × Nat)
  recorded : List (Nat × Nat)
  corr : Nat
  unc : Nat
  held : List Loose
  deriving DecidableEq, Repr

/-- A pseudo-channel at power-on. -/
def PChan.powerOn : PChan := ⟨none, [], [], 0, 0, []⟩

/-- A translation request at a die's translation hub (R323, R324). -/
structure XReq where
  num : Nat
  src : Nat
  hub : Bool
  kind : Nat
  stamp : BitVec 32
  asid : Nat
  va : Nat
  popped : Bool
  /-- the miss is a write that found the dirty log full (R322) -/
  full : Bool
  deriving DecidableEq, Repr

/-- The translation state of a die: TLB entries that are not 0, the dirty log with the ring index of its oldest record,
and the requests (R312, R322 to R324). -/
structure DieXlate where
  tlb : List (Nat × Quad)
  dirty : List Quad
  dirtyIdx : Nat
  reqs : List XReq
  nextNum : Nat
  deriving DecidableEq, Repr

/-- A die's translation state at power-on. -/
def DieXlate.powerOn : DieXlate := ⟨[], [], 0, [], 0⟩

/-! ### The Ringmaster -/

/-- A scanned journal record (R162, R164, R169): the record, its index, its timetable as scanned, whether its image is in hub staging SRAM
and the device RMT at which it will be, the bytes of that copy by their HBM places, and its skip count. -/
structure Entry where
  lrec : Record
  index : Nat
  tt : Timetable
  staged : Bool
  stagedAt : Nat
  image : List Host.Cell
  skips : Nat
  deriving DecidableEq, Repr

/-- An error-log record before its PREV is formed (R333). -/
structure LogRec where
  rmt : Nat
  kind : Nat
  reason : Nat
  die : Nat
  loc : Nat
  info : Nat
  deriving DecidableEq, Repr

/-- The history of a structure (R336): its corrected events' times, latest first, and whether it is lasting. -/
structure Health where
  /-- whether the structure is a hub's -/
  hub : Bool
  reason : Nat
  die : Nat
  loc : Nat
  times : List Nat
  lasting : Bool
  deriving DecidableEq, Repr

/-- A remap in progress (R337): die, spare-map register, the new value, who waits for it, and the swapped tile if it was
queued. -/
structure Remap where
  die : Nat
  num : Nat
  v : Quad
  src : Option LooseSrc
  tile : Option Coord
  /-- the device RMT at which it is done -/
  at' : Nat
  deriving DecidableEq, Repr

/-- A notice formed and not yet written (R331): its KIND, the message header and ticket, and bytes 32 to 63. -/
structure Notice where
  kind : Nat
  header : Quad
  ticket : Nat
  body : List Byte
  deriving DecidableEq, Repr

/-- A troupe agreement in progress (R308, R365): the troupe, the message type proposed or reported, its value, the tries,
and the devices that have accepted or reported; `own` marks the initiator's. -/
structure Agreement where
  troupe : Nat
  mtype : Nat
  value : Nat
  tries : Nat
  own : Bool
  devices : List Nat
  deriving DecidableEq, Repr

/-- The Ringmaster block (R161 to R172, R328 to R342). -/
structure Ring where
  bootstat : DWord
  devnum : DWord
  jbase : DWord
  jsize : DWord
  jtail : DWord
  jhead : DWord
  nbase : DWord
  nsize : DWord
  ntail : DWord
  nhead : DWord
  logbase : DWord
  logsize : DWord
  logtail : DWord
  loghead : DWord
  sigbase : DWord
  featReq : BitVec 256
  featNeg : BitVec 256
  /-- whether JTAIL has been written, which fixes the rings, DEVNUM and FEATNEG -/
  latched : Bool
  /-- journal records scanned so far, all of them in the order of their index -/
  scanned : Nat
  entries : List Entry
  /-- JTAIL as the writes before the present cycle left it -/
  published : Nat
  /-- the outstanding intermission request: its device RMT, the victims, and the candidate's SEQ (R170) -/
  request : Option (Nat × List Nat × Nat)
  /-- notices formed and not yet written (R331) -/
  notices : List Notice
  /-- log records formed before the first write of JTAIL, and events counted but not recorded (R333, R334) -/
  logHeld : List LogRec
  lost : Nat
  /-- PREV of the next log record (R333) -/
  prev : List Byte
  sigs : Nat
  /-- log records being signed: LSEQ, slot, the device RMT at which the signature is done, and the record's bytes (R335) -/
  signing : List (Nat × Nat × Nat × List Byte)
  health : List Health
  swaps : List Coord
  spare : List (Nat × Quad)
  remaps : List Remap
  agen : List (Nat × Nat)
  adesc : List (Nat × DWord)
  cxlBase : Vector DWord 16
  cxlCtl : Vector DWord 16
  agreements : List Agreement
  /-- harvest commands under way: SEQ, and per die the dirty-log records present at the start and not yet merged (R330) -/
  harvests : List (Nat × List (Nat × Nat))
  stretch : Option Stretch
  deriving DecidableEq, Repr

/-- The Ringmaster at power-on (R328, R341). -/
def Ring.powerOn : Ring :=
  { bootstat := 0, devnum := 0, jbase := 0, jsize := 0, jtail := 0, jhead := 0, nbase := 0, nsize := 0, ntail := 0,
    nhead := 0, logbase := 0, logsize := 0, logtail := 0, loghead := 0, sigbase := 0, featReq := 0, featNeg := 0,
    latched := false, scanned := 0, entries := [], published := 0, request := none, notices := [], logHeld := [],
    lost := 0, prev := [], sigs := 0, signing := [], health := [], swaps := [], spare := [], remaps := [], agen := [],
    adesc := [], cxlBase := Vector.replicate 16 0, cxlCtl := Vector.replicate 16 0, agreements := [], harvests := [],
    stretch := none }

/-! ### The edge -/

/-- The state of a personality group (R367). -/
inductive GState where
  | down | up | quiesce | drain | inval | retrain
  deriving DecidableEq, Repr

/-- A personality group's GCTL (R370) and the device RMT at which its present state reaches its limit. -/
structure Group where
  gen : BitVec 16
  state : GState
  pers : Fin 4
  res : Nat
  opt : BitVec 4
  next : Fin 4
  until' : Nat
  deriving DecidableEq, Repr

/-- A group at power-on. -/
def Group.powerOn : Group := ⟨0, .down, 0, 0, 0, 0, 0⟩

/-- An outstanding outbound request: its tag, the port it left on (a CXL window's group gives its first, the host port none), its source,
address, size, whether it stores, the translation entries it used, and the number that it had as a flight (R216, R326, R356). -/
structure Outbound where
  tag : Nat
  port : Option Nat
  src : LooseSrc
  addr : DWord
  size : Nat
  store : Bool
  via : List (Nat × Nat)
  flight : Nat
  deriving DecidableEq, Repr

/-- A received group of five flits that waits for its tag's verification (R363): the device RMT at which it ends, the mode of
its direction and the flits. -/
structure TagGroup where
  at' : Nat
  mode : Fin 3
  flits : List WireFlit
  deriving DecidableEq, Repr

/-- The partition and, from its corner, the tile that a slot flit's words were released to before their tag was verified; `num` numbers the
flit (R363). -/
structure Released where
  num : Nat
  seq : Nat
  x : Nat
  y : Nat
  deriving DecidableEq, Repr

/-- An edge port (R353 to R364, R369, R371). -/
structure Port where
  up : Bool
  /-- lanes in use to send and to receive (R364) -/
  width : Nat
  rxwidth : Nat
  /-- the modes of the two directions -/
  imode : Fin 3
  rxmode : Fin 3
  /-- IMODE as last written, and a new mode that both ends hold, which waits for a group boundary (R371) -/
  imodeNew : Fin 3
  /-- IMODE as the peer last wrote it -/
  peerMode : Fin 3
  agreed : Option (Fin 3)
  pport : Nat
  peer : Nat
  lat : Nat
  ofs : Int
  slackmin : BitVec 32
  txctr : DWord
  rxctr : DWord
  lid : BitVec 32
  ifail : Nat
  drop : Nat
  txkey : BitVec 256
  rxkey : BitVec 256
  /-- words of open transfers that have reached the transmit buffer -/
  words : List (PortWord × DWord)
  /-- flits ready to be sent -/
  queue : List LinkFlit
  /-- flits sent and received, counted from 0 (R363) -/
  sent : Nat
  received : Nat
  /-- the next flit time, in fifths of a module cycle (R354) -/
  nextAt : Nat
  /-- width reductions that wait for their boundaries (R364) -/
  reducing : Bool
  rxreducing : Bool
  /-- the received flits of the open tag group, and the groups whose verification goes on (R363) -/
  groupIn : List WireFlit
  verifying : List TagGroup
  /-- who took the slot flits of groups not yet verified, in skid mode (R363) -/
  released : List Released
  /-- the flits of the open tag group sent -/
  groupOut : List WireFlit
  /-- the replay buffer: the last 64 flits sent, oldest first (R354) -/
  replay : List WireFlit
  deriving DecidableEq, Repr

/-- A port at power-on. -/
def Port.powerOn : Port :=
  { up := false, width := 0, rxwidth := 0, imode := 0, rxmode := 0, imodeNew := 0, peerMode := 0, agreed := none, pport := 0, peer := 0, lat := 0,
    ofs := 0, slackmin := 0x7FFFFFFF, txctr := 0, rxctr := 0, lid := 0, ifail := 0, drop := 0, txkey := 0, rxkey := 0, words := [],
    queue := [], sent := 0, received := 0, nextAt := 0, reducing := false, rxreducing := false, groupIn := [], verifying := [],
    released := [], groupOut := [], replay := [] }

/-- The edge: groups and ports that differ from power-on, edge windows, the link map's base, the clock source and the
outstanding outbound requests (R356 to R371). -/
structure Edge where
  groups : List (Nat × Group)
  ports : List (Nat × Port)
  ewin : List (Nat × Quad)
  lmapBase : DWord
  clkSrc : DWord
  outbound : List Outbound
  nextTag : Nat
  deriving DecidableEq, Repr

/-- The edge at power-on. -/
def Edge.powerOn : Edge := ⟨[], [], [], 0, 0, [], 0⟩

/-- The state of a module. -/
structure State where
  /-- device RMT (R149) -/
  rmt : Nat
  /-- every byte of tile SRAM and bonded slices, HBM and hub SRAM that differs from 0, by global address -/
  mem : List Host.Cell
  /-- the words of local SRAM whose full bit is 1, by space 1 address (R203) -/
  full : List Nat
  /-- the quads whose memory tag is 1, by global address (R18, R198) -/
  qtags : List Nat
  /-- HBM bursts with an uncorrectable error, by space 2 address (R212, R272). It is the environment's. -/
  hbmDamage : List Nat
  /-- MODEL: the words that partitions have written in the present cycle, by global address (R202) -/
  wrote : List Nat
  tiles : List (Nat × Tile)
  hubs : List (Nat × Hub)
  parts : List Part
  pcs : List (Nat × PChan)
  xlate : List (Nat × DieXlate)
  /-- trap messages not yet disposed of, oldest first, and the next ticket (R279) -/
  messages : List Message
  ticket : Nat
  ring : Ring
  edge : Edge
  flights : List Flight
  /-- space 4 arrivals that wait for a fill: die, request number and flight (R318) -/
  homeWait : List (Nat × Nat × Flight)
  returning : List Returning
  inputs : List (Nat × Instr)
  agenda : List Act
  cur : Option Cur
  freeCount : Nat
  deriving DecidableEq, Repr

/-- The machine after power-on (R149, R199, R341): device RMT 0, nothing in memory, every tile and hub at power-on. -/
def State.reset : State :=
  { rmt := 0, mem := [], full := [], qtags := [], hbmDamage := [], wrote := [], tiles := [], hubs := [],
    parts := [], pcs := [], xlate := [], messages := [], ticket := 1, ring := .powerOn, edge := .powerOn, flights := [],
    homeWait := [], returning := [], inputs := [], agenda := [], cur := none, freeCount := 0 }

end Sys2Proof.Machine
end

