-- ==== Sys2Proof/Machine/Flags.lean ====
section
/-! DEFINITION. The sticky flags of fl (R23) and how they combine. -/

namespace Sys2Proof.Machine

/-- The six flag bits of fl: NX, UF, OF, DZ, NV, SA from bit 0 up (R23). -/
abbrev FlagSet := BitVec 6

/-- Inexact. -/
def flNX : FlagSet := 1#6
/-- Underflow. -/
def flUF : FlagSet := 2#6
/-- Overflow. -/
def flOF : FlagSet := 4#6
/-- Division of a nonzero finite value by zero. -/
def flDZ : FlagSet := 8#6
/-- Invalid operation. -/
def flNV : FlagSet := 16#6
/-- A narrowing conversion saturated. -/
def flSA : FlagSet := 32#6
/-- No flag. -/
def flNone : FlagSet := 0#6

/-- The flags that an instruction raises in any of its lanes. -/
def orFlags (l : List FlagSet) : FlagSet := l.foldl (· ||| ·) 0#6

/-- fl with flags ORed in; its reserved bits stay 0 (R23). -/
def flOr (fl : BitVec 32) (f : FlagSet) : BitVec 32 := fl ||| f.setWidth 32

/-- The value a syswr leaves in fl: reserved bits read 0 (R23). -/
def flWrite (v : BitVec 32) : BitVec 32 := v &&& 0x3F#32

/-- The value a syswr leaves in fm: bits [31:25], [15:13] and [7:5] read 0 (R22). -/
def fmWrite (v : BitVec 32) : BitVec 32 := v &&& 0x01FF1F1F#32

/-- fm.FA (R22). -/
def fmFA (fm : BitVec 32) : Nat := bits fm.toNat 4 0
/-- fm.FB. -/
def fmFB (fm : BitVec 32) : Nat := bits fm.toNat 12 8
/-- fm.FC. -/
def fmFC (fm : BitVec 32) : Nat := bits fm.toNat 20 16
/-- fm.RM. -/
def fmRM (fm : BitVec 32) : Nat := bits fm.toNat 23 21
/-- fm.SAT. -/
def fmSAT (fm : BitVec 32) : Bool := bits fm.toNat 24 24 == 1

end Sys2Proof.Machine
end

