-- ==== Sys2Proof/Machine/Numbers.lean ====
section
/-! DEFINITION. Number formats, scales, exact values, the rounding function and the Calliope generator (R33 to R58). -/

namespace Sys2Proof.Machine

/-- The element types of R35 and R36, and the 32-bit signed integer of R115. -/
inductive Elem where
  | fp32 | bf16 | fp16 | e5m2 | e4m3 | e3m2 | e2m3 | e2m1
  | int8 | uint8 | int4 | mxint8 | mxint4 | bi16 | bi8 | int32
  deriving DecidableEq, Repr

/-- Element bits. -/
def Elem.width : Elem → Nat
  | .fp32 | .int32 => 32
  | .bf16 | .fp16 | .bi16 => 16
  | .e5m2 | .e4m3 | .int8 | .uint8 | .mxint8 | .bi8 => 8
  | .e3m2 | .e2m3 => 6
  | .e2m1 | .int4 | .mxint4 => 4

/-- Floating-point elements: exponent width, mantissa width, bias (R35). -/
def Elem.fpParams : Elem → Option (Nat × Nat × Nat)
  | .fp32 => some (8, 23, 127)
  | .bf16 => some (8, 7, 127)
  | .fp16 => some (5, 10, 15)
  | .e5m2 => some (5, 2, 15)
  | .e4m3 => some (4, 3, 7)
  | .e3m2 => some (3, 2, 3)
  | .e2m3 => some (2, 3, 1)
  | .e2m1 => some (2, 1, 1)
  | _ => none

/-- The elements whose all-ones exponent is infinity or NaN (R35). -/
def Elem.ieee : Elem → Bool
  | .fp32 | .bf16 | .fp16 | .e5m2 => true
  | _ => false

/-- The quantum of an integer element is 2^-k (R36, R45). -/
def Elem.quantumShift : Elem → Nat
  | .mxint8 => 6
  | .mxint4 => 2
  | _ => 0

/-- Whether an integer element is two's complement (R36). -/
def Elem.signed : Elem → Bool
  | .uint8 => false
  | _ => true

/-- The code of the largest finite magnitude of a floating element (R35). -/
def Elem.maxCode : Elem → Nat
  | .fp32 => 0x7F7FFFFF
  | .bf16 => 0x7F7F
  | .fp16 => 0x7BFF
  | .e5m2 => 0x7B
  | .e4m3 => 0x7E
  | .e3m2 => 0x1F
  | .e2m3 => 0x1F
  | .e2m1 => 0x7
  | _ => 0

/-- maxmag of an integer element in quanta (R45, R115). -/
def Elem.maxInt (f : Elem) (neg : Bool) : Nat :=
  match f with
  | .uint8 => if neg then 0 else 255
  | f => if neg then 2 ^ (f.width - 1) else 2 ^ (f.width - 1) - 1

/-- The canonical NaN (R37). -/
def Elem.nan : Elem → Option Nat
  | .fp32 => some 0x7FC00000
  | .bf16 => some 0x7FC0
  | .fp16 => some 0x7E00
  | .e5m2 => some 0x7E
  | .e4m3 => some 0x7F
  | _ => none

/-- A dyadic value or a special: the value of a code (R35, R36). The value of `fin` is (-1)^neg m 2^e. -/
inductive FVal where
  | nan
  | inf (neg : Bool)
  | fin (neg : Bool) (m : Nat) (e : Int)
  deriving DecidableEq, Repr

/-- decode_fp (R35) and the integer encodings (R36). -/
def Elem.decode (f : Elem) (code : Nat) : FVal :=
  let v := code % 2 ^ f.width
  match f.fpParams with
  | some (ew, mw, bias) =>
    let s := v / 2 ^ (ew + mw) % 2 == 1
    let e := v / 2 ^ mw % 2 ^ ew
    let m := v % 2 ^ mw
    if f.ieee && e == 2 ^ ew - 1 then (if m == 0 then .inf s else .nan)
    else if f == .e4m3 && e == 15 && m == 7 then .nan
    else if e == 0 then .fin s m (1 - (bias : Int) - mw)
    else .fin s (2 ^ mw + m) ((e : Int) - bias - mw)
  | none =>
    let i : Int := if f.signed then sextNat v f.width else v
    .fin (i < 0) i.natAbs (-(f.quantumShift : Int))

/-- An exact real value, or a special (R44). The value of `fin` is (-1)^neg num / den, with den positive; zero keeps
its sign. -/
inductive XVal where
  | nan
  | inf (neg : Bool)
  | fin (neg : Bool) (num den : Nat)
  deriving DecidableEq, Repr

/-- 2^e as a pair of factors of numerator and denominator. -/
def scalePow (num den : Nat) (e : Int) : Nat × Nat :=
  if 0 ≤ e then (num * 2 ^ e.toNat, den) else (num, den * 2 ^ (-e).toNat)

/-- The exact value of a dyadic value. -/
def FVal.exact : FVal → XVal
  | .nan => .nan
  | .inf s => .inf s
  | .fin s m e => .fin s (scalePow m 1 e).1 (scalePow m 1 e).2

/-- floor(log2 (num / den)) of a positive rational. -/
def floorLog2 (num den : Nat) : Int :=
  let d : Int := (Nat.log2 num : Int) - Nat.log2 den
  let p := scalePow den 1 d
  if p.1 ≤ num * p.2 then d else d - 1

/-- Rounding modes of R22: RNE, RTZ, RDN, RUP, SR. -/
inductive RMode where
  | rne | rtz | rdn | rup | sr
  deriving DecidableEq, Repr

/-- The mode of an RM field value; 5 to 7 are none (R22). -/
def rmode : Nat → Option RMode
  | 0 => some .rne
  | 1 => some .rtz
  | 2 => some .rdn
  | 3 => some .rup
  | 4 => some .sr
  | _ => none

/-- The sign bit of a floating element's code. -/
def Elem.signBit (f : Elem) (neg : Bool) : Nat := if neg then 2 ^ (f.width - 1) else 0

/-- The code of (-1)^neg n quanta of an integer element. -/
def Elem.intCode (f : Elem) (neg : Bool) (n : Nat) : Nat :=
  if neg then (2 ^ f.width - n) % 2 ^ f.width else n

/-- The code of ±maxmag. -/
def Elem.maxOf (f : Elem) (neg : Bool) : Nat :=
  match f.fpParams with
  | some _ => f.signBit neg + f.maxCode
  | none => f.intCode neg (f.maxInt neg)

/-- The overflow value (R37). -/
def Elem.ovf (f : Elem) (neg : Bool) : Nat :=
  match f with
  | .fp32 => f.signBit neg + 0x7F800000
  | .bf16 => f.signBit neg + 0x7F80
  | .fp16 => f.signBit neg + 0x7C00
  | .e5m2 => f.signBit neg + 0x7C
  | .e4m3 => 0x7F
  | f => f.maxOf neg

/-- The overflow table (R46). -/
def overflowResult (f : Elem) (neg : Bool) (rm : RMode) (sat : Bool) : Nat × FlagSet :=
  if sat then (f.maxOf neg, flNX ||| flSA)
  else
    let toMax :=
      match rm with
      | .rne | .sr => false
      | .rtz => true
      | .rdn => !neg
      | .rup => neg
    (if toMax then f.maxOf neg else f.ovf neg, flNX ||| flOF)

/-- The specials table, NaN row (R47). -/
def nanResult (f : Elem) : Nat × FlagSet :=
  match f.nan with
  | some c => (c, flNone)
  | none => (0, flNV)

/-- The specials table, infinity rows (R47). -/
def infResult (f : Elem) (neg sat : Bool) : Nat × FlagSet :=
  if f.ieee then (f.ovf neg, flNone)
  else if f == .e4m3 then (if sat then (f.maxOf neg, flSA) else (0x7F, flNV))
  else if sat then (f.maxOf neg, flSA) else (f.maxOf neg, flOF)

/-- The increment decision of R45: `t` the kept part, `r / d` the discarded fraction. -/
def roundInc (rm : RMode) (neg : Bool) (t r d lane : Nat) : Bool :=
  match rm with
  | .rne => 2 * r > d || (2 * r == d && t % 2 == 1)
  | .rtz => false
  | .rup => !neg && r > 0
  | .rdn => neg && r > 0
  | .sr => r * 2 ^ 32 / d + lane ≥ 2 ^ 32

/-- round_to_format (R45): the code of one element and the flags it raises. -/
def roundToFormat (x : XVal) (f : Elem) (rm : RMode) (sat : Bool) (lane : Nat) : Nat × FlagSet :=
  match x with
  | .nan => nanResult f
  | .inf s => infResult f s sat
  | .fin s num den =>
    match f.fpParams with
    | some (_, mw, bias) =>
      if num = 0 then (f.signBit s, flNone)
      else
        let emin : Int := 1 - bias
        let lg := floorLog2 num den
        let e := max lg emin
        let nd := scalePow num den ((mw : Int) - e)
        let t := nd.1 / nd.2
        let r := nd.1 % nd.2
        let m := t + (roundInc rm s t r nd.2 lane).toNat
        let code := (e - emin).toNat * 2 ^ mw + m
        if f.maxCode < code then overflowResult f s rm sat
        else
          (f.signBit s + code,
            if r = 0 then flNone else if lg < emin then flNX ||| flUF else flNX)
    | none =>
      if num = 0 then (0, flNone)
      else
        let n := num * 2 ^ f.quantumShift
        let t := n / den
        let r := n % den
        let m := t + (roundInc rm s t r den lane).toNat
        if f.maxInt s < m then overflowResult f s rm sat
        else (f.intCode s m, if r = 0 then flNone else flNX)

/-! ### Scales and format codes -/

/-- The scale types of R33. -/
inductive ScaleType where
  | none | e8m0 | e5m3
  deriving DecidableEq, Repr

/-- A format: its element, its block size (0 when it has none) and its scale type (R33). `tensor` marks the formats
whose scale is that of the whole tensor. -/
structure Fmt where
  elem : Elem
  block : Nat
  scale : ScaleType
  tensor : Bool
  deriving DecidableEq, Repr

/-- The format codes of R33; 0x1C to 0x1F are reserved (R22). -/
def fmtOf : Nat → Option Fmt
  | 0x00 => some ⟨.fp32, 0, .none, false⟩
  | 0x01 => some ⟨.bf16, 0, .none, false⟩
  | 0x02 => some ⟨.fp16, 0, .none, false⟩
  | 0x03 => some ⟨.e4m3, 0, .e8m0, true⟩
  | 0x04 => some ⟨.e5m2, 0, .e8m0, true⟩
  | 0x05 => some ⟨.int8, 0, .none, false⟩
  | 0x06 => some ⟨.uint8, 0, .none, false⟩
  | 0x07 => some ⟨.int4, 0, .none, false⟩
  | 0x08 => some ⟨.e4m3, 32, .e8m0, false⟩
  | 0x09 => some ⟨.e5m2, 32, .e8m0, false⟩
  | 0x0A => some ⟨.e3m2, 32, .e8m0, false⟩
  | 0x0B => some ⟨.e2m3, 32, .e8m0, false⟩
  | 0x0C => some ⟨.e2m1, 32, .e8m0, false⟩
  | 0x0D => some ⟨.mxint8, 32, .e8m0, false⟩
  | 0x0E => some ⟨.e4m3, 16, .e8m0, false⟩
  | 0x0F => some ⟨.e5m2, 16, .e8m0, false⟩
  | 0x10 => some ⟨.e3m2, 16, .e8m0, false⟩
  | 0x11 => some ⟨.e2m3, 16, .e8m0, false⟩
  | 0x12 => some ⟨.e2m1, 16, .e8m0, false⟩
  | 0x13 => some ⟨.mxint8, 16, .e8m0, false⟩
  | 0x14 => some ⟨.e4m3, 16, .e5m3, false⟩
  | 0x15 => some ⟨.e5m2, 16, .e5m3, false⟩
  | 0x16 => some ⟨.e3m2, 16, .e5m3, false⟩
  | 0x17 => some ⟨.e2m3, 16, .e5m3, false⟩
  | 0x18 => some ⟨.e2m1, 16, .e5m3, false⟩
  | 0x19 => some ⟨.mxint4, 32, .e8m0, false⟩
  | 0x1A => some ⟨.bi16, 32, .e8m0, false⟩
  | 0x1B => some ⟨.bi8, 32, .e8m0, false⟩
  | _ => none

/-- The value of a scale byte: none for the NaN code 0xFF, else m 2^e (R38, R39). -/
def scaleVal (t : ScaleType) (b : Nat) : Option (Nat × Int) :=
  match t with
  | .none => some (1, 0)
  | .e8m0 => if b = 0xFF then none else some (1, (b : Int) - 127)
  | .e5m3 =>
    if b = 0xFF then none
    else if b / 8 = 0 then some (b % 8, -17)
    else some (8 + b % 8, (b / 8 : Nat) - (18 : Int))

/-- The value of a scaled element, by the rows of R41 in order. -/
def scaledVal (x : FVal) (sc : Option (Nat × Int)) : FVal :=
  match x, sc with
  | .nan, _ => .nan
  | _, none => .nan
  | .inf s, some (0, _) => let _ := s; .nan
  | .inf s, some _ => .inf s
  | .fin s m e, some (sm, se) => .fin s (m * sm) (e + se)

/-- Integer elements have no signed zero: a zero product is +0 (R41). -/
def plusZero (f : Elem) (x : FVal) : FVal :=
  match x with
  | .fin s m e => if m = 0 ∧ f.fpParams.isNone then .fin false 0 e else .fin s m e
  | x => x

/-! ### Lanes of a register -/

/-- `n` fields of `w` bits from bit 0 up (R42, R103). -/
def lanesOf (v w n : Nat) : List Nat := (List.range n).map fun i => v / 2 ^ (w * i) % 2 ^ w

/-- Packs fields of `w` bits from bit 0 up. -/
def packLanes (w : Nat) (l : List Nat) : Nat := l.foldr (fun x acc => x % 2 ^ w + 2 ^ w * acc) 0

/-! ### Calliope -/

/-- rotl32 (R55). -/
def rotl32 (v : BitVec 32) (n : Nat) : BitVec 32 := v <<< n ||| v >>> (32 - n)

/-- The four state words of Calliope. -/
structure Calliope where
  x0 : BitVec 32
  x1 : BitVec 32
  x2 : BitVec 32
  x3 : BitVec 32
  deriving DecidableEq, Repr

/-- One round (R55). -/
def calliopeRound (k0 k1 : BitVec 32) (x : Calliope) (i : Nat) : Calliope :=
  let ra := if i % 2 = 0 then 16 else 8
  let rb := if i % 2 = 0 then 12 else 7
  let x0 := x.x0 + x.x1
  let x3 := rotl32 (x.x3 ^^^ x0) ra
  let x2 := x.x2 + x3
  let x1 := rotl32 (x.x1 ^^^ x2) rb
  if i = 2 then ⟨x0 ^^^ k1, x1, x2 ^^^ k0, x3⟩ else ⟨x0, x1, x2, x3⟩

/-- The row word W (R55). -/
def calliope (key : BitVec 64) (tid row cg step : BitVec 32) : BitVec 32 :=
  let k0 := key.extractLsb' 0 32
  let k1 := key.extractLsb' 32 32
  let x := (List.range 6).foldl (calliopeRound k0 k1) ⟨tid ^^^ k0, row ^^^ k1, cg ^^^ 0x9E3779B9#32, step⟩
  x.x0 ^^^ x.x1 ^^^ x.x2 ^^^ x.x3

/-- lane_word (R56). -/
def laneWord (w : BitVec 32) (j : Nat) : BitVec 32 :=
  rotl32 w (4 * j) ^^^ BitVec.ofNat 32 (j * 0x9E3779B9)

/-- The lane word of the element at tensor coordinates (row, col) under sr (R24, R54). -/
def elementLane (sr : Quad) (row col : Nat) : Nat :=
  (laneWord (calliope (sr.extractLsb' 64 64) (sr.extractLsb' 32 32) (BitVec.ofNat 32 row)
    (BitVec.ofNat 32 (col / 8)) (sr.extractLsb' 0 32)) (col % 8)).toNat

/-! ### Element-wise arithmetic on exact values -/

/-- The signed numerator of a finite value. -/
def signedNum (neg : Bool) (n : Nat) : Int := if neg then -(n : Int) else n

/-- A sum of two exact values, with the zero-sign rule of R106; `rdn` says that the mode is RDN. Opposite infinities
give none. -/
def XVal.add (x y : XVal) (rdn : Bool) : Option XVal :=
  match x, y with
  | .nan, _ | _, .nan => some .nan
  | .inf s, .inf t => if s = t then some (.inf s) else none
  | .inf s, _ => some (.inf s)
  | _, .inf t => some (.inf t)
  | .fin s a b, .fin t c d =>
    let n := signedNum s a * d + signedNum t c * b
    if n = 0 then
      if a = 0 ∧ c = 0 ∧ s = t then some (.fin s 0 1) else some (.fin rdn 0 1)
    else some (.fin (n < 0) n.natAbs (b * d))

/-- Negation. -/
def XVal.neg : XVal → XVal
  | .nan => .nan
  | .inf s => .inf !s
  | .fin s a b => .fin (!s) a b

/-- A product of two exact values; a zero times an infinity gives none (R106). -/
def XVal.mul (x y : XVal) : Option XVal :=
  match x, y with
  | .nan, _ | _, .nan => some .nan
  | .inf s, .inf t => some (.inf (s != t))
  | .inf s, .fin t c _ => if c = 0 then none else some (.inf (s != t))
  | .fin s a _, .inf t => if a = 0 then none else some (.inf (s != t))
  | .fin s a b, .fin t c d => some (.fin (s != t) (a * c) (b * d))

/-- The value comparison x < y, with -0 = +0; false on a NaN (R107). -/
def XVal.lt (x y : XVal) : Bool :=
  match x, y with
  | .nan, _ | _, .nan => false
  | .inf s, .inf t => s && !t
  | .inf s, .fin .. => s
  | .fin .., .inf t => !t
  | .fin s a b, .fin t c d => signedNum s a * d < signedNum t c * b

/-- Equality of values, with -0 = +0; false on a NaN. -/
def XVal.eq (x y : XVal) : Bool :=
  match x, y with
  | .nan, _ | _, .nan => false
  | .inf s, .inf t => s == t
  | .fin s a b, .fin t c d => signedNum s a * d == signedNum t c * b
  | _, _ => false

/-- Whether a value is a NaN. -/
def XVal.isNan : XVal → Bool
  | .nan => true
  | _ => false

/-- The sign of a value. -/
def XVal.sign : XVal → Bool
  | .nan => false
  | .inf s => s
  | .fin s _ _ => s

/-- The order of fmin and fmax, where -0 < +0 (R107). -/
def XVal.le0 (x y : XVal) : Bool := x.lt y || (x.eq y && (x.sign || !y.sign))

/-- The element of a floating lane type (R66). -/
def laneElem : FTy → Elem
  | .f32 => .fp32
  | .bf16 => .bf16

/-- The number of lanes of a floating lane type. -/
def laneCount : FTy → Nat
  | .f32 => 4
  | .bf16 => 8

end Sys2Proof.Machine
end

