-- ==== Sys2Proof/Machine/Special.lean ====
section
/-! DEFINITION. The special functions: correctly rounded reciprocal, roots, power and logarithm (R109), and the integer
procedure of sine and cosine (R110). Irrational results are formed as a truncated value with a sticky bit below it,
wide enough that no rounding boundary of FP32 or BF16 lies between it and the exact value (log entry 5). -/

namespace Sys2Proof.Machine

/-- Newton steps downward to the integer square root. -/
def isqrtFrom : Nat → Nat → Nat → Nat
  | 0, _, x => x
  | fuel + 1, n, x =>
    let y := (x + n / x) / 2
    if y < x then isqrtFrom fuel n y else x

/-- floor of the square root of n. -/
def isqrt (n : Nat) : Nat := if n = 0 then 0 else isqrtFrom (Nat.log2 n + 2) n (2 ^ (Nat.log2 n / 2 + 1))

/-- A truncated magnitude `v / 2^k` with a sticky bit when it is not exact. -/
def sticky (neg : Bool) (v k : Nat) (exact : Bool) : XVal := .fin neg (2 * v + (!exact).toNat) (2 ^ (k + 1))

/-- The square root of num / den. -/
def sqrtX (num den : Nat) : XVal :=
  let k := 200
  let n := num * 2 ^ (2 * k)
  let s := isqrt (n / den)
  sticky false s k (s * s * den == n)

/-- Fractional bits of the fixed-point numbers of exp2X and log2X. -/
def fixP : Nat := 400

/-- The product of 2^(2^-i) over the set bits of an `i`-bit fraction `f`, from the highest down: `r` is the last root
and `acc` the product so far, both with fixP fractional bits. -/
def exp2Frac : Nat → Nat → Nat → Nat → Nat
  | 0, _, _, acc => acc
  | i + 1, f, r, acc =>
    let r' := isqrt (r * 2 ^ fixP)
    exp2Frac i f r' (if f / 2 ^ i % 2 = 1 then acc * r' / 2 ^ fixP else acc)

/-- 2^a for a finite a = (-1)^neg m 2^e. -/
def exp2X (neg : Bool) (m : Nat) (e : Int) : XVal :=
  let nd := scalePow m 1 e
  if nd.1 ≥ 1024 * nd.2 then (if neg then .fin false 1 (2 ^ 1024) else .fin false (2 ^ 1024) 1)
  else
    let a := signedNum neg nd.1
    let k := a / (nd.2 : Int)
    let f := (a % (nd.2 : Int)).toNat
    let p := exp2Frac (-e).toNat f (2 * 2 ^ fixP) (2 ^ fixP)
    let v := if f = 0 then XVal.fin false 1 1 else sticky false p fixP false
    match v with
    | .fin _ n d => .fin false (scalePow n d k).1 (scalePow n d k).2
    | v => v

/-- Binary digits of log2 of a fixed-point x in [1, 2), by repeated squaring. -/
def log2Frac : Nat → Nat → Nat → Nat
  | 0, _, acc => acc
  | i + 1, x, acc =>
    let y := x * x / 2 ^ fixP
    if y ≥ 2 ^ (fixP + 1) then log2Frac i (y / 2) (2 * acc + 1) else log2Frac i y (2 * acc)

/-- log2 of a positive num / den. -/
def log2X (num den : Nat) : XVal :=
  let k := floorLog2 num den
  let nd := scalePow num den (-k)
  let x := nd.1 * 2 ^ fixP / nd.2
  let fr := log2Frac 200 x 0
  let exact := nd.1 == nd.2
  let v : Int := 2 * (k * 2 ^ 200 + fr) + (if exact then 0 else 1)
  .fin (v < 0) v.natAbs (2 ^ 201)

/-- The functions of R109. -/
inductive SpecialFn where
  | rcp | rsq | sqrt | ex2 | lg2
  deriving DecidableEq, Repr

/-- One lane of a VSF form other than fsin and fcos: the special-input table of R109, then one rounding. -/
def specialLane (fn : SpecialFn) (f : Elem) (rm : RMode) (x : FVal) : Nat × FlagSet :=
  let rnd (v : XVal) := roundToFormat v f rm false 0
  let inv : Nat × FlagSet := ((nanResult f).1, flNV)
  let infDZ (s : Bool) : Nat × FlagSet := (f.ovf s, flDZ)
  match x with
  | .nan => nanResult f
  | .inf s =>
    match fn with
    | .rcp => (f.signBit s, flNone)
    | .rsq => if s then inv else (0, flNone)
    | .sqrt => if s then inv else (f.ovf false, flNone)
    | .ex2 => if s then (0, flNone) else (f.ovf false, flNone)
    | .lg2 => if s then inv else (f.ovf false, flNone)
  | .fin s m e =>
    let nd := scalePow m 1 e
    if m = 0 then
      match fn with
      | .rcp | .rsq => infDZ s
      | .sqrt => (f.signBit s, flNone)
      | .ex2 => rnd (.fin false 1 1)
      | .lg2 => infDZ true
    else
      match fn with
      | .rcp => rnd (.fin s nd.2 nd.1)
      | .rsq => if s then inv else rnd (sqrtX nd.2 nd.1)
      | .sqrt => if s then inv else rnd (sqrtX nd.1 nd.2)
      | .ex2 => rnd (exp2X s m e)
      | .lg2 => if s then inv else rnd (log2X nd.1 nd.2)

/-! ### Sine and cosine (R110) -/

/-- The integer nearest to (32/pi) 2^120. -/
def trigIPI : Int := 13539405185619352255862778433820118492
/-- The integer nearest to (pi/32) 2^40. -/
def trigPI32 : Int := 107944301636
/-- TS[q], the integers nearest to sin(q pi/32) 2^40. -/
def trigTS : List Int :=
  [0, 107770985514, 214504077523, 319171378006, 420764883643, 518306193436, 610855931251, 697522792521] ++
   [777472127994, 849933981865, 914210506869, 969682684934, 1015816288660, 1052167026225, 1078384820155, 1094217178761] ++
   [1099511627776, 1094217178761, 1078384820155, 1052167026225, 1015816288660, 969682684934, 914210506869, 849933981865] ++
   [777472127994, 697522792521, 610855931251, 518306193436, 420764883643, 319171378006, 214504077523, 107770985514] ++
   [0, -107770985514, -214504077523, -319171378006, -420764883643, -518306193436, -610855931251, -697522792521] ++
   [-777472127994, -849933981865, -914210506869, -969682684934, -1015816288660, -1052167026225, -1078384820155, -1094217178761] ++
   [-1099511627776, -1094217178761, -1078384820155, -1052167026225, -1015816288660, -969682684934, -914210506869, -849933981865] ++
   [-777472127994, -697522792521, -610855931251, -518306193436, -420764883643, -319171378006, -214504077523, -107770985514]
/-- TC[q], the integers nearest to cos(q pi/32) 2^40. -/
def trigTC : List Int :=
  [1099511627776, 1094217178761, 1078384820155, 1052167026225, 1015816288660, 969682684934, 914210506869, 849933981865] ++
   [777472127994, 697522792521, 610855931251, 518306193436, 420764883643, 319171378006, 214504077523, 107770985514] ++
   [0, -107770985514, -214504077523, -319171378006, -420764883643, -518306193436, -610855931251, -697522792521] ++
   [-777472127994, -849933981865, -914210506869, -969682684934, -1015816288660, -1052167026225, -1078384820155, -1094217178761] ++
   [-1099511627776, -1094217178761, -1078384820155, -1052167026225, -1015816288660, -969682684934, -914210506869, -849933981865] ++
   [-777472127994, -697522792521, -610855931251, -518306193436, -420764883643, -319171378006, -214504077523, -107770985514] ++
   [0, 107770985514, 214504077523, 319171378006, 420764883643, 518306193436, 610855931251, 697522792521] ++
   [777472127994, 849933981865, 914210506869, 969682684934, 1015816288660, 1052167026225, 1078384820155, 1094217178761]

/-- The integer value v of trig, in units of 2^-40, of x = sn / den (R110). -/
def trigFixed (isSin : Bool) (sn : Int) (den : Nat) : Int :=
  let T := sn * trigIPI / ((den : Int) * 2 ^ 80)
  let k := (T + 2 ^ 39) / 2 ^ 40
  let F := T - k * 2 ^ 40
  let q := (k % 64).toNat
  let g1 := F * trigPI32 / 2 ^ 40
  let g2 := g1 * g1 / 2 ^ 40
  let g3 := g2 * g1 / 2 ^ 40
  let g4 := g2 * g2 / 2 ^ 40
  let g5 := g4 * g1 / 2 ^ 40
  let sp := g1 - g3 / 6 + g5 / 120
  let cp := 2 ^ 40 - g2 / 2 + g4 / 24
  let s := trigTS.getD q 0
  let c := trigTC.getD q 0
  if isSin then (s * cp + c * sp) / 2 ^ 40 else (c * cp - s * sp) / 2 ^ 40

/-- trig (R110). -/
def trigLane (isSin : Bool) (f : Elem) (rm : RMode) (x : FVal) : Nat × FlagSet :=
  match x with
  | .nan => nanResult f
  | .inf _ => ((nanResult f).1, flNV)
  | .fin s m e =>
    let nd := scalePow m 1 e
    if nd.1 ≥ 2 ^ 18 * nd.2 then ((nanResult f).1, flNV)
    else if isSin && nd.1 * 2 ^ 12 < nd.2 then roundToFormat (.fin s nd.1 nd.2) f rm false 0
    else
      let v := trigFixed isSin (signedNum s nd.1) nd.2
      roundToFormat (.fin (v < 0) v.natAbs (2 ^ 40)) f rm false 0

end Sys2Proof.Machine
end

