-- ==== Sys2Proof/Machine/VectorOps.lean ====
section
/-! DEFINITION. What the packed vector, conversion and block-scale forms compute from their operands (R103 to R117),
as functions of the register bits, the mode and the scales. -/

namespace Sys2Proof.Machine

/-- A register's bits from lanes of `w` bits, with the flags of all lanes. -/
def packResults (w : Nat) (l : List (Nat × FlagSet)) : Quad × FlagSet :=
  (BitVec.ofNat 128 (packLanes w (l.map Prod.fst)), orFlags (l.map Prod.snd))

/-- SR rounds the element-wise forms as RNE (R104). -/
def RMode.noSR : RMode → RMode
  | .sr => .rne
  | m => m

/-- The rounding of a VFP lane; an invalid operation gives the canonical NaN and NV (R106). -/
def rndLane (f : Elem) (rm : RMode) (x : Option XVal) : Nat × FlagSet :=
  match x with
  | none => ((nanResult f).1, flNV)
  | some v => roundToFormat v f rm.noSR false 0

/-- The exact value of a lane code. -/
def Elem.value (f : Elem) (c : Nat) : XVal := (f.decode c).exact

/-- fadd on codes (R106). -/
def addCodes (f : Elem) (rm : RMode) (a b : Nat) : Nat × FlagSet :=
  rndLane f rm ((f.value a).add (f.value b) (rm == .rdn))
/-- fsub on codes. -/
def subCodes (f : Elem) (rm : RMode) (a b : Nat) : Nat × FlagSet :=
  rndLane f rm ((f.value a).add (f.value b).neg (rm == .rdn))
/-- fmul on codes. -/
def mulCodes (f : Elem) (rm : RMode) (a b : Nat) : Nat × FlagSet := rndLane f rm ((f.value a).mul (f.value b))

/-- a b + e or a b - e, exact, NaN inputs first (R106). -/
def fusedX (x y z : XVal) (minus rdn : Bool) : Option XVal :=
  if x.isNan || y.isNan || z.isNan then some .nan
  else
    match x.mul y with
    | none => none
    | some p => p.add (if minus then z.neg else z) rdn

/-- fma and fms on codes. -/
def fusedCodes (minus : Bool) (f : Elem) (rm : RMode) (a b e : Nat) : Nat × FlagSet :=
  rndLane f rm (fusedX (f.value a) (f.value b) (f.value e) minus (rm == .rdn))

/-- fmin and fmax on codes (R107). -/
def minMaxCodes (isMax : Bool) (f : Elem) (a b : Nat) : Nat :=
  let x := f.value a
  let y := f.value b
  if x.isNan || y.isNan then (nanResult f).1
  else if x.le0 y then (if isMax then b else a) else (if isMax then a else b)

/-- fabs on a code. -/
def absCode (f : Elem) (a : Nat) : Nat :=
  if (f.value a).isNan then (nanResult f).1 else a % 2 ^ (f.width - 1)
/-- fneg on a code. -/
def negCode (f : Elem) (a : Nat) : Nat :=
  if (f.value a).isNan then (nanResult f).1 else (a + 2 ^ (f.width - 1)) % 2 ^ f.width
/-- A NaN lane is copied as the canonical NaN (R107). -/
def copyCode (f : Elem) (a : Nat) : Nat := if (f.value a).isNan then (nanResult f).1 else a

/-- The relations of fcmp. -/
inductive FRel where
  | eq | lt | le
  deriving DecidableEq, Repr

/-- fcmp on codes: the lane mask and the flag (R107). -/
def cmpCodes (r : FRel) (f : Elem) (a b : Nat) : Nat × FlagSet :=
  let x := f.value a
  let y := f.value b
  if x.isNan || y.isNan then (0, if r == .eq then flNone else flNV)
  else
    let c :=
      match r with
      | .eq => x.eq y
      | .lt => x.lt y
      | .le => x.lt y || x.eq y
    (if c then 2 ^ f.width - 1 else 0, flNone)

/-- Lanes of a register under a floating lane type. -/
def fLanes (ty : FTy) (v : Quad) : List Nat := lanesOf v.toNat (laneElem ty).width (laneCount ty)

/-- A one-source lane form. -/
def mapF (ty : FTy) (op : Nat → Nat × FlagSet) (a : Quad) : Quad × FlagSet :=
  packResults (laneElem ty).width ((fLanes ty a).map op)
/-- A two-source lane form. -/
def mapF2 (ty : FTy) (op : Nat → Nat → Nat × FlagSet) (a b : Quad) : Quad × FlagSet :=
  packResults (laneElem ty).width (List.zipWith op (fLanes ty a) (fLanes ty b))
/-- A three-source lane form. -/
def mapF3 (ty : FTy) (op : Nat → Nat → Nat → Nat × FlagSet) (a b e : Quad) : Quad × FlagSet :=
  packResults (laneElem ty).width
    (List.zipWith (fun p z => op p.1 p.2 z) (List.zip (fLanes ty a) (fLanes ty b)) (fLanes ty e))

/-- A value with no flag. -/
def pureLane (c : Nat) : Nat × FlagSet := (c, flNone)

/-- One level of the fixed adder tree of vsum: neighbours are added (R108). -/
def addPairs (f : Elem) (rm : RMode) : List (Nat × FlagSet) → List (Nat × FlagSet)
  | a :: b :: rest =>
    let r := addCodes f rm a.1 b.1
    (r.1, a.2 ||| b.2 ||| r.2) :: addPairs f rm rest
  | l => l

/-- vsum (R108). -/
def vsumQ (ty : FTy) (rm : RMode) (a : Quad) : Quad × FlagSet :=
  let f := laneElem ty
  let l0 := (fLanes ty a).map pureLane
  let l2 := addPairs f rm (addPairs f rm l0)
  let l3 := match ty with | .f32 => l2 | .bf16 => addPairs f rm l2
  match l3 with
  | r :: _ => (BitVec.ofNat 128 r.1, r.2)
  | [] => (0, flNone)

/-- vmaxr and vminr (R108). -/
def vfoldQ (isMax : Bool) (ty : FTy) (a : Quad) : Quad :=
  match fLanes ty a with
  | c :: rest => BitVec.ofNat 128 (rest.foldl (minMaxCodes isMax (laneElem ty)) (copyCode (laneElem ty) c))
  | [] => 0

/-! ### Packed integers (R111) -/

/-- Element bits of a VINT width. -/
def VTy.bits : VTy → Nat
  | .b => 8
  | .h => 16
  | .w => 32
  | .d => 64

/-- Lanes of a register under an integer width. -/
def vLanes (ty : VTy) (v : Quad) : List Nat := lanesOf v.toNat (VTy.bits ty) ty.lanes

/-- A lane-wise integer form; the result is taken modulo 2^w. -/
def mapV (ty : VTy) (op : Nat → Nat → Nat → Nat) (a b : Quad) : Quad :=
  BitVec.ofNat 128 (packLanes (VTy.bits ty) (List.zipWith (op (VTy.bits ty)) (vLanes ty a) (vLanes ty b)))

/-- vsub on lanes. -/
def laneSub (w x y : Nat) : Nat := x + (2 ^ w - y)
/-- vmin on lanes: the signed minimum. -/
def laneMin (w x y : Nat) : Nat := if sextNat x w ≤ sextNat y w then x else y
/-- vmax on lanes: the signed maximum. -/
def laneMax (w x y : Nat) : Nat := if sextNat x w ≤ sextNat y w then y else x
/-- vshl on lanes. -/
def laneShl (w x y : Nat) : Nat := x * 2 ^ (y % w)
/-- vsra on lanes. -/
def laneSra (w x y : Nat) : Nat := ((sextNat x w / 2 ^ (y % w)) % 2 ^ w).toNat

/-- vperm: lane (y mod L) of cA. -/
def vpermQ (ty : VTy) (a b : Quad) : Quad :=
  BitVec.ofNat 128 (packLanes (VTy.bits ty) ((vLanes ty b).map fun y => (vLanes ty a).getD (y % ty.lanes) 0))

/-- vbcast: lane idx of cA in every lane. -/
def vbcastQ (ty : VTy) (a : Quad) (idx : Nat) : Quad :=
  BitVec.ofNat 128 (packLanes (VTy.bits ty) (List.replicate ty.lanes ((vLanes ty a).getD idx 0)))

/-! ### Conversions (R112 to R115) -/

/-- Elements of a format per register (R42). -/
def regElems (f : Elem) : Nat :=
  match f.width with
  | 32 => 4
  | 16 => 8
  | 4 => 32
  | _ => 16

/-- The part count P of a cvt of K = 0 to 3 (R67). -/
def cvtParts (f : Elem) (l : Nat) : Nat := max 1 (regElems f / l)

/-- The scale of element e of a packed register (R40, R113). -/
def elemScale (fm : Fmt) (sc : Quad) (e : Nat) : Option (Nat × Int) :=
  if fm.scale == .none then some (1, 0)
  else if fm.tensor then scaleVal fm.scale (sc.toNat % 256)
  else scaleVal fm.scale (sc.toNat / 2 ^ (8 * (e / fm.block)) % 256)

/-- What a conversion takes from the context: its mode, its saturation choice, and the lane word of element i
(R113, R114). -/
structure CvtMode where
  rm : RMode
  sat : Bool
  sr : Quad
  c27 : Quad

/-- The lane word of element i of the part (R114). -/
def CvtMode.lane (m : CvtMode) (i : Nat) : Nat :=
  match m.rm with
  | .sr => elementLane m.sr (m.c27.toNat % 2 ^ 32) ((m.c27.toNat / 2 ^ 32 + i) % 2 ^ 32)
  | _ => 0

/-- cvt_lane (R114). -/
def CvtMode.round (m : CvtMode) (x : XVal) (f : Elem) (i : Nat) : Nat × FlagSet :=
  roundToFormat x f m.rm m.sat (m.lane i)

/-- cvt.wide and cvt.wideb: l elements of cA from element l·PT on, scaled and rounded to the lane type. -/
def cvtWiden (m : CvtMode) (fm : Fmt) (sc : Quad) (ty : FTy) (a : Quad) (pt : Nat) : Quad × FlagSet :=
  let l := laneCount ty
  let els := lanesOf a.toNat fm.elem.width (regElems fm.elem)
  packResults (laneElem ty).width ((List.range l).map fun i =>
    let e := l * pt + i
    if e < regElems fm.elem then
      m.round (plusZero fm.elem (scaledVal (fm.elem.decode (els.getD e 0)) (elemScale fm sc e))).exact (laneElem ty) i
    else (0, flNone))

/-- A value divided by its scale and rounded, with the NaN and zero scales of R47. -/
def packLane (m : CvtMode) (f : Elem) (sc : Option (Nat × Int)) (x : XVal) (i : Nat) : Nat × FlagSet :=
  match sc with
  | none => ((nanResult f).1, (nanResult f).2 ||| flNV)
  | some (0, _) =>
    match x with
    | .fin s n _ => (f.signBit s, if n = 0 then flNone else flNV)
    | _ => ((nanResult f).1, (nanResult f).2 ||| flNV)
  | some (sm, se) =>
    match x with
    | .fin s n d => m.round (.fin s (scalePow n (d * sm) (-se)).1 (scalePow n (d * sm) (-se)).2) f i
    | x => m.round x f i

/-- The elements of a list with those from position `k` on replaced by `new`. -/
def replaceFrom (l : List Nat) (k : Nat) (new : List Nat) : List Nat :=
  l.take k ++ new ++ l.drop (k + new.length)

/-- cvt.pack and cvt.packb: the lanes of cA into the elements of part PT of cD (R112). -/
def cvtNarrow (m : CvtMode) (fm : Fmt) (sc : Quad) (ty : FTy) (a d : Quad) (pt : Nat) : Quad × FlagSet :=
  let l := min (laneCount ty) (regElems fm.elem)
  let k := laneCount ty * pt
  let src := fLanes ty a
  let new := (List.range l).map fun i =>
    packLane m fm.elem (elemScale fm sc (k + i)) ((laneElem ty).value (src.getD i 0)) i
  let old := lanesOf d.toNat fm.elem.width (regElems fm.elem)
  (BitVec.ofNat 128 (packLanes fm.elem.width (replaceFrom old k (new.map Prod.fst))), orFlags (new.map Prod.snd))

/-- cvt.f2b: four FP32 lanes of cA into BF16 lanes 4·PT on of cD. -/
def cvtF2bQ (m : CvtMode) (a d : Quad) (pt : Nat) : Quad × FlagSet :=
  let src := fLanes .f32 a
  let new := (List.range 4).map fun i => m.round (Elem.fp32.value (src.getD i 0)) .bf16 i
  (BitVec.ofNat 128 (packLanes 16 (replaceFrom (fLanes .bf16 d) (4 * pt) (new.map Prod.fst))),
    orFlags (new.map Prod.snd))

/-- cvt.b2f: BF16 lanes 4·PT on of cA into four FP32 lanes. -/
def cvtB2fQ (m : CvtMode) (a : Quad) (pt : Nat) : Quad × FlagSet :=
  let src := fLanes .bf16 a
  packResults 32 ((List.range 4).map fun i => m.round (Elem.bf16.value (src.getD (4 * pt + i) 0)) .fp32 i)

/-- cvt.f2i and cvt.i2f (R115). -/
def cvtLanes32 (m : CvtMode) (src tgt : Elem) (a : Quad) : Quad × FlagSet :=
  let l := fLanes .f32 a
  packResults 32 ((List.range 4).map fun i => m.round (src.value (l.getD i 0)) tgt i)

/-! ### Block maximum and scale (R116, R117) -/

/-- amaxb (R116). -/
def amaxbQ (ty : FTy) (a b : Quad) : Quad :=
  let vs := (fLanes ty a).map (laneElem ty).value ++ [Elem.fp32.value (b.toNat % 2 ^ 32)]
  if vs.any XVal.isNan then BitVec.ofNat 128 0x7FC00000
  else
    let mag (x : XVal) : XVal := match x with | .fin _ n d => .fin false n d | .inf _ => .inf false | .nan => .nan
    let m := vs.foldl (fun acc x => if acc.lt (mag x) then mag x else acc) (.fin false 0 1)
    BitVec.ofNat 128 (roundToFormat m .fp32 .rne false 0).1

/-- emax of an element type (R117). -/
def Elem.emax : Elem → Int
  | .e4m3 => 8
  | .e5m2 => 15
  | .e3m2 => 4
  | .e2m3 => 2
  | .e2m1 => 2
  | .bi16 => 14
  | .bi8 => 6
  | _ => 0

/-- maxmag(element) for s = 0 as an exact value (R45). -/
def Elem.maxMag (f : Elem) : XVal := f.value f.maxCode

/-- The smallest E5M3 code from 0x01 to 0xFE whose value is at least num / den divided by maxmag (R117). -/
def e5m3Code (f : Elem) (num den : Nat) : Nat × FlagSet :=
  match f.maxMag with
  | .fin _ mn md =>
    let ok (c : Nat) : Bool :=
      match scaleVal .e5m3 c with
      | none => false
      | some (sm, se) =>
        let p := scalePow (sm * mn * den) (md * num) se
        p.2 ≤ p.1
    match (List.range 254).find? fun i => ok (i + 1) with
    | some i => (i + 1, flNone)
    | none => (0xFE, flSA)
  | _ => (0xFE, flSA)

/-- The scale code that scl writes for the amax in cA (R117). -/
def sclCode (fm : Fmt) (ty : FTy) (a : Quad) : Nat × FlagSet :=
  match fm.scale with
  | .none => (0x7F, flNone)
  | st =>
    match (laneElem ty).value (a.toNat % 2 ^ (laneElem ty).width) with
    | .nan | .inf _ => (0xFF, flNV)
    | .fin _ n d =>
      if n = 0 then (0, flNone)
      else if st == .e8m0 then
        ((max 0 (min 254 (floorLog2 n d - fm.elem.emax + 127))).toNat, flNone)
      else e5m3Code fm.elem n d

end Sys2Proof.Machine
end

