-- ==== Sys2Proof/Machine/Ops.lean ====
section
/-! DEFINITION. The shared operations: memory and its full bits and tags, tiles and contexts, capability checks, the issue
checks of a word, the completion of an issue (fetch buffer, loop-back, repeat frame), results with their latency, and
taking a fault. -/

namespace Sys2Proof.Machine

/-- The outcome of an instruction or a step. -/
abbrev Out := Host.Outcome State Fault Refusal

/-! ### Memory -/

/-- The byte at an address; an unlisted address reads 0 (log entry 3). -/
def Mem.get : List Host.Cell → Nat → Byte
  | [], _ => 0
  | (b, v) :: r, a => if a = b then v else if a < b then 0 else Mem.get r a

/-- A byte write that keeps the list strictly rising and without zeros. -/
def Mem.set : List Host.Cell → Nat → Byte → List Host.Cell
  | [], a, v => if v = 0 then [] else [(a, v)]
  | (b, u) :: r, a, v =>
    if a < b then (if v = 0 then (b, u) :: r else (a, v) :: (b, u) :: r)
    else if a = b then (if v = 0 then r else (a, v) :: r)
    else (b, u) :: Mem.set r a v

/-- The canonical form: addresses strictly rising and no zero byte listed. -/
def Mem.wf : List Host.Cell → Bool
  | [] => true
  | [(_, v)] => v != 0
  | (a, v) :: (b, w) :: r => v != 0 && decide (a < b) && Mem.wf ((b, w) :: r)

/-- Consecutive bytes from an address up. -/
def Mem.write : List Host.Cell → Nat → List Byte → List Host.Cell
  | m, _, [] => m
  | m, a, v :: vs => Mem.write (Mem.set m a v) (a + 1) vs

/-- `n` bytes from an address up. -/
def Mem.read (m : List Host.Cell) (a n : Nat) : List Byte := (List.range n).map fun i => Mem.get m (a + i)

/-- The little-endian value of bytes (R5). -/
def leNat : List Byte → Nat
  | [] => 0
  | b :: bs => b.toNat + 2 ^ 8 * leNat bs

/-- The `n` low bytes of a value, lowest first. -/
def leBytes : Nat → Nat → List Byte
  | 0, _ => []
  | n + 1, v => BitVec.ofNat 8 v :: leBytes n (v / 2 ^ 8)

/-- `n` bytes as a little-endian value. -/
def Mem.readLE (m : List Host.Cell) (a n : Nat) : Nat := leNat (Mem.read m a n)

/-- Membership in a sorted list of numbers, inserted. -/
def insertSorted : List Nat → Nat → List Nat
  | [], a => [a]
  | b :: r, a => if a < b then a :: b :: r else if a = b then b :: r else b :: insertSorted r a

/-- A number removed from a list. -/
def eraseAll (l : List Nat) (a : Nat) : List Nat := l.filter (· != a)

/-- A number set in or cleared from a sorted list. -/
def setMember (l : List Nat) (a : Nat) (b : Bool) : List Nat := if b then insertSorted l a else eraseAll l a

/-- The space 1 address of a tile offset (R195). -/
def tileAddr (t : Coord) (off : Nat) : Nat := 2 ^ 60 + t.y * 2 ^ 34 + t.x * 2 ^ 24 + off
/-- The space 7 KIND 0 address of a hub offset (R217). -/
def hubAddr (die hub off : Nat) : Nat := 7 * 2 ^ 60 + die * 2 ^ 48 + hub * 2 ^ 24 + off
/-- The space 2 address of a device-physical HBM address. -/
def hbmAddr (a : Nat) : Nat := 2 * 2 ^ 60 + a
/-- The die of a logical tile (R347). -/
def dieOf (t : Coord) : Nat := t.x / 125 + 8 * (t.y / 100)

/-! ### Association lists -/

/-- Lookup by key. -/
def assocGet {α : Type} : List (Nat × α) → Nat → Option α
  | [], _ => none
  | (k, v) :: r, a => if k = a then some v else assocGet r a

/-- Insertion by key, keys rising. -/
def assocSet {α : Type} : List (Nat × α) → Nat → α → List (Nat × α)
  | [], a, v => [(a, v)]
  | (k, u) :: r, a, v => if a < k then (a, v) :: (k, u) :: r else if a = k then (a, v) :: r else (k, u) :: assocSet r a v

/-- The key of a tile. -/
def tileKey (t : Coord) : Nat := t.y * 1024 + t.x
/-- The tile of a key. -/
def keyTile (k : Nat) : Coord := ⟨k % 1024, k / 1024⟩
/-- The key of a hub. -/
def hubKey (die hub : Nat) : Nat := die * 64 + hub

/-- A logical tile. -/
def State.tile (s : State) (t : Coord) : Tile := (assocGet s.tiles (tileKey t)).getD Tile.powerOn
/-- A tile replaced. -/
def State.setTile (s : State) (t : Coord) (v : Tile) : State := { s with tiles := assocSet s.tiles (tileKey t) v }
/-- A tile changed. -/
def State.modTile (s : State) (t : Coord) (f : Tile → Tile) : State := s.setTile t (f (s.tile t))
/-- Whether the firmware has started every hub and set SPOK: bring-up step 4 is over (R341). -/
def Ring.started (r : Ring) : Bool := r.bootstat == 2 || r.bootstat == 0x81
/-- A hub core: until something touches it, as the firmware started it, or as power-on left it (R341). -/
def State.hub (s : State) (die hub : Nat) : Hub :=
  (assocGet s.hubs (hubKey die hub)).getD (if s.ring.started then Hub.started die hub else Hub.powerOn)
/-- A hub core replaced. -/
def State.setHub (s : State) (die hub : Nat) (v : Hub) : State := { s with hubs := assocSet s.hubs (hubKey die hub) v }
/-- A hub core changed. -/
def State.modHub (s : State) (die hub : Nat) (f : Hub → Hub) : State := s.setHub die hub (f (s.hub die hub))
/-- A pseudo-channel. -/
def State.pc (s : State) (g : Nat) : PChan := (assocGet s.pcs g).getD PChan.powerOn
/-- A pseudo-channel changed. -/
def State.modPc (s : State) (g : Nat) (f : PChan → PChan) : State := { s with pcs := assocSet s.pcs g (f (s.pc g)) }
/-- The translation state of a die. -/
def State.dieX (s : State) (d : Nat) : DieXlate := (assocGet s.xlate d).getD DieXlate.powerOn
/-- The translation state of a die changed. -/
def State.modDieX (s : State) (d : Nat) (f : DieXlate → DieXlate) : State :=
  { s with xlate := assocSet s.xlate d (f (s.dieX d)) }

/-- A core of a tile. -/
def Tile.core (t : Tile) : Side → Core
  | .access => t.access
  | .execute => t.exec
/-- A core replaced. -/
def Tile.setCore (t : Tile) (k : Side) (c : Core) : Tile :=
  match k with
  | .access => { t with access := c }
  | .execute => { t with exec := c }
/-- A slot of a core replaced. -/
def Core.setSlot (c : Core) (k : Fin 4) (v : Slot) : Core := { c with slots := c.slots.set k v }
/-- A slot of a tile. -/
def Tile.slot (t : Tile) (k : Side) (j : Fin 4) : Slot := (t.core k).slots[j]
/-- A slot of a tile replaced. -/
def Tile.setSlot (t : Tile) (k : Side) (j : Fin 4) (v : Slot) : Tile := t.setCore k ((t.core k).setSlot j v)

/-- A tile's effects with one more due. -/
def Tile.push (t : Tile) (due : Nat) (e : Eff) : Tile := { t with pend := t.pend ++ [⟨due, e⟩] }

/-! ### Partitions -/

/-- Whether a slot has been started and may not issue yet (R190). -/
def Tile.starting (tl : Tile) (k : Side) (j : Fin 4) : Bool := tl.pend.any fun e => e.eff == .ready k j

/-- Whether a partition's rectangle holds a tile. -/
def Part.holds (q : Part) (t : Coord) : Bool :=
  decide (q.x0 ≤ t.x ∧ t.x < q.x0 + q.lrec.w ∧ q.y0 ≤ t.y ∧ t.y < q.y0 + q.lrec.h)
/-- Whether a partition holds tiles of the module (a written-out one does not, R297). -/
def Part.placed (q : Part) : Bool := q.form != .writtenOut
/-- The placed partition that holds a tile. -/
def State.partOf (s : State) (t : Coord) : Option Part := s.parts.find? fun q => q.placed && q.holds t
/-- The partition with a PID. -/
def State.part (s : State) (pid : Nat) : Option Part := s.parts.find? fun q => q.pid == pid
/-- A partition changed. -/
def State.modPart (s : State) (pid : Nat) (f : Part → Part) : State :=
  { s with parts := s.parts.map fun q => if q.pid == pid then f q else q }
/-- The members in the order y, then x. -/
def Part.members (q : Part) : List Coord :=
  (List.range q.lrec.h).flatMap fun j => (List.range q.lrec.w).map fun i => ⟨q.x0 + i, q.y0 + j⟩
/-- Whether a partition is a troupe member: TRP of its record (R148, R161). -/
def Part.inTroupe (q : Part) : Bool := q.lrec.flg.testBit 2
/-- The present partition cycle. -/
def Part.cyc (q : Part) : Nat := q.p.getD 0

/-- The table of power steps: whether a partition's clock ticks at counter value c (R171). -/
def ticks (step c : Nat) : Bool :=
  match step with
  | 0 => true
  | 1 => c % 6 != 5
  | 2 => c % 3 != 2
  | _ => c % 2 == 0

/-- The partition cycle of the present module cycle, before the partitions' clocks tick in it: the one that begins in it or the last
that began; before partition cycle 0, counted back from T0 (R149, R171). -/
def Part.cycleNow (q : Part) (rmt : Nat) : Int :=
  match q.form with
  | .running => if ticks q.step q.tick then (match q.p with | none => 0 | some p => p + 1) else q.cyc
  | .launching => (rmt : Int) - q.t0
  | _ => q.cyc

/-- Steps put before what is left of the present device cycle. -/
def State.first (s : State) (l : List Act) : State := { s with agenda := l ++ s.agenda }

/-- A superstep: its start B, C, X and the index of its phase entry (R152). -/
structure Super where
  b : Nat
  c : Nat
  x : Nat
  pe : Nat
  deriving DecidableEq, Repr

/-- Superstep k counted from a phase entry (R152); N = 0 repeats the last entry. -/
def superFrom : List (Nat × Nat × Nat) → Nat → Nat → Nat → Option Super
  | [], _, _, _ => none
  | (c, x, n) :: rest, pe, k, b =>
    if n = 0 ∨ k < n then some ⟨b + k * (c + x), c, x, pe⟩ else superFrom rest (pe + 1) (k - n) (b + n * (c + x))

/-- A superstep of a partition by its number; none in the last, endless compute phase. -/
def Part.superAt (q : Part) (ss : Nat) : Option Super := superFrom q.tt.phases 0 ss 0
/-- The present superstep of a partition. -/
def Part.super (q : Part) : Option Super := q.superAt q.ss
/-- Whether a cycle lies in the exchange phase of the present superstep. -/
def Part.exchange (q : Part) (p : Nat) : Bool :=
  match q.super with
  | none => false
  | some u => decide (u.b + u.c ≤ p ∧ p < u.b + u.c + u.x)

/-- A place of the timetable for a tile at a cycle: the entry's index, whether it is an edge entry, its form, its LEN and
its destination (R176, R177, R360). -/
structure Place where
  index : Nat
  edge : Bool
  form : Nat
  len : Nat
  dst : Coord
  deriving DecidableEq, Repr

/-- The place of a tile at cycle p, if an entry has one there. -/
def Part.place (q : Part) (t : Coord) (p : Nat) : Option Place :=
  match q.super with
  | none => none
  | some u =>
    let px := t.x - q.x0
    let py := t.y - q.y0
    let hit (x y pe off : Nat) : Bool := x == px && y == py && pe == u.pe && u.b + u.c + off == p
    match q.tt.route.zipIdx.find? fun e => hit e.1.px e.1.py e.1.pe e.1.off with
    | some (e, i) => some ⟨i, false, e.form, e.len, ⟨q.x0 + e.dx, q.y0 + e.dy⟩⟩
    | none =>
      match q.tt.edge.zipIdx.find? fun e => hit e.1.px e.1.py e.1.pe e.1.off with
      | some (e, i) => some ⟨i, true, e.form, e.len, ⟨0, 0⟩⟩
      | none => none

/-! ### Faults -/

/-- A fault as an instruction raises it: its code, reason and INFO (R270, R271). -/
structure Flt where
  code : Nat
  reason : Nat := 0
  info : Nat := 0
  deriving DecidableEq, Repr

/-- Fault codes (R270). -/
def fcIllegal : Nat := 0x01
def fcFormat : Nat := 0x02
def fcIllegalInFrame : Nat := 0x03
def fcCapTag : Nat := 0x04
def fcCapBounds : Nat := 0x05
def fcCapPerm : Nat := 0x06
def fcAlign : Nat := 0x07
def fcPriv : Nat := 0x08
def fcAddrSpace : Nat := 0x09
def fcSlipLate : Nat := 0x10
def fcSlipEmpty : Nat := 0x11
def fcCollision : Nat := 0x12
def fcLinkLate : Nat := 0x13
def fcCountMismatch : Nat := 0x18
def fcRemoteNack : Nat := 0x20
def fcWindow : Nat := 0x21
def fcXlateMiss : Nat := 0x28
def fcAtomicPath : Nat := 0x29
def fcPathDown : Nat := 0x2A
def fcEccLocal : Nat := 0x30
def fcEccBonded : Nat := 0x31
def fcEccHbm : Nat := 0x32
def fcHeartbeat : Nat := 0x38
def fcTrap : Nat := 0x3F

/-- Slip and collision reasons (R158, R179, R209, R260). -/
def rsHold : Nat := 0x01
def rsQueue : Nat := 0x02
def rsFull : Nat := 0x03
def rsPhase : Nat := 0x04
def rsTurnstile : Nat := 0x05
def rsCheck : Nat := 0x06
def rsUnit : Nat := 0x07
def rsWrite : Nat := 0x08
def rsRoute : Nat := 0x09
def rsSlack : Nat := 0x0A
def rsCount : Nat := 0x0B
def rsSlot : Nat := 0x0C
def rsStart : Nat := 0x0D
def rsBank : Nat := 0x0E
def rsGroup : Nat := 0x0F

/-- What a meaning's checks answer. -/
abbrev Chk (α : Type) := Except Flt α

/-- A condition that must hold, else a fault. -/
def require (c : Bool) (f : Flt) : Chk Unit := if c then .ok () else .error f

/-! ### Capability checks -/

/-- The address a dereference would reach (R17). -/
def reach (c : CReg) (off : Int) : DWord := capCur c.data + BitVec.ofInt 64 off

/-- check_cap up to natural alignment (R17). -/
def checkCap (c : CReg) (off : Int) (size : Nat) (need : BitVec 12) : Chk DWord :=
  let a := reach c off
  let b := decodeBounds c.data
  if !c.tag then .error { code := fcCapTag, info := a.toNat }
  else if sealed c.data then .error { code := fcCapPerm, info := a.toNat }
  else if !hasPerm c.data need then .error { code := fcCapPerm, info := a.toNat }
  else if a.toNat < b.1 ∨ b.2 < a.toNat + size then .error { code := fcCapBounds, info := a.toNat }
  else if a.toNat % size ≠ 0 then .error { code := fcAlign, info := a.toNat }
  else .ok a

/-- The space code of an address (R195). -/
def spaceOf (a : DWord) : Nat := a.toNat / 2 ^ 60

/-- The permission tests that check_space makes before its ranges (R196). -/
def checkSpacePerm (c : CReg) (a : DWord) : Chk Unit :=
  let sp := spaceOf a
  if 1 ≤ sp ∧ sp ≤ 6 ∧ !hasPerm c.data pGLB then .error { code := fcCapPerm, info := a.toNat }
  else if sp = 7 ∧ !hasPerm c.data pSYS then .error { code := fcCapPerm, info := a.toNat }
  else .ok ()

/-- check_cap of a tile access that must lie in a window of tile-local space (R17, R26, R196). -/
def checkLocal (c : CReg) (off : Int) (size : Nat) (need : BitVec 12) (lo hi : Nat) : Chk Nat :=
  match checkCap c off size need with
  | .error f => .error f
  | .ok a =>
    match checkSpacePerm c a with
    | .error f => .error f
    | .ok () =>
      if lo ≤ a.toNat ∧ a.toNat + size ≤ hi then .ok a.toNat else .error { code := fcAddrSpace, info := a.toNat }

/-- check_span (R125). -/
def checkSpan (c : CReg) (off : Int) (size : Nat) (need : BitVec 12) (al lo hi : Nat) : Chk Nat :=
  let a := reach c off
  let b := decodeBounds c.data
  if !c.tag then .error { code := fcCapTag, info := a.toNat }
  else if sealed c.data then .error { code := fcCapPerm, info := a.toNat }
  else if !hasPerm c.data need then .error { code := fcCapPerm, info := a.toNat }
  else if a.toNat < b.1 ∨ b.2 < a.toNat + size then .error { code := fcCapBounds, info := a.toNat }
  else if a.toNat % al ≠ 0 then .error { code := fcAlign, info := a.toNat }
  else if a.toNat < lo ∨ hi < a.toNat + size then .error { code := fcAddrSpace, info := a.toNat }
  else .ok a.toNat

/-! ### The issuing context -/

/-- Where an instruction issues: a slot of a core of a member tile, or a hub core. -/
inductive Place' where
  | tile (t : Coord) (k : Side) (j : Fin 4) (tile : Tile) (part : Part)
  | hub (die hub : Nat) (h : Hub)

/-- An issue: its place, the context's registers, the address and word of the instruction, whether it belongs to a repeat
frame, and the issue cycle n (the partition cycle; device RMT on a hub). -/
structure Cx where
  wh : Place'
  slot : Slot
  pc : DWord
  word : Word
  frame : Bool
  n : Nat

/-- The kind of core that issues. -/
def Cx.kind (cx : Cx) : CoreKind :=
  match cx.wh with
  | .tile _ .access .. => .access
  | .tile _ .execute .. => .execute
  | .hub .. => .hub

/-- The issue that the state's `cur` names, if that context exists. -/
def State.issuing (s : State) (cur : Cur) : Option Cx :=
  match cur.ctx with
  | .tile t k j =>
    match s.partOf t with
    | none => none
    | some q =>
      let tl := s.tile t
      some { wh := .tile t k j tl q, slot := tl.slot k j, pc := cur.pc, word := cur.word, frame := cur.frame, n := q.cyc }
  | .hub d h =>
    if d < 16 ∧ h < 64 then
      let hb := s.hub d h
      some { wh := .hub d h hb, slot := hb.ctx, pc := cur.pc, word := cur.word, frame := false, n := s.rmt }
    else none

/-- The issuing context's registers replaced. -/
def State.setCtx (s : State) (cx : Cx) (v : Slot) : State :=
  match cx.wh with
  | .tile t k j _ _ => s.modTile t fun tl => tl.setSlot k j v
  | .hub d h _ => s.modHub d h fun hb => { hb with ctx := v }

/-- The issuing context's registers as a state holds them. -/
def State.ctx (s : State) (cx : Cx) : Slot :=
  match cx.wh with
  | .tile t k j _ _ => (s.tile t).slot k j
  | .hub d h _ => (s.hub d h).ctx

/-- The issuing context's registers changed. -/
def State.modCtx (s : State) (cx : Cx) (f : Slot → Slot) : State := s.setCtx cx (f (s.ctx cx))

/-- A source register: c0 reads 0; c28 reads the oldest LQ entry with tag 0, popped once (R11, R12, R73). -/
def Cx.read (cx : Cx) (r : RegNo) : CReg :=
  if r = 0 then .zero
  else if r = 28 then
    match cx.wh with
    | .tile _ .execute _ tl _ => .plain (tl.lq.headD 0)
    | _ => cx.slot.c[r]
  else cx.slot.c[r]

/-- The data of a source register. -/
def Cx.data (cx : Cx) (r : RegNo) : Quad := (cx.read r).data

/-- An effect of the issuing tile, due at the end of a cycle; hubs have none (R145). -/
def State.due (s : State) (cx : Cx) (c : Nat) (e : Eff) : State :=
  match cx.wh with
  | .tile t .. => s.modTile t fun tl => tl.push c e
  | .hub .. => s

/-- A register written at once (R145), c0 discarded. -/
def Slot.write (sl : Slot) (r : RegNo) (v : CReg) : Slot := if r = 0 then sl else { sl with c := sl.c.set r v }

/-- Damaged items of one structure that are written again are damaged no more (R272). -/
def mend (reason : Nat) (keys : List Nat) (l : List Damage) : List Damage :=
  l.filter fun d => d.reason != reason || !keys.contains d.key

/-- A c-register of a hub written, whole again if it was damaged (R11, R272). -/
def Hub.writeReg (hb : Hub) (d : RegNo) (v : CReg) : Hub :=
  { hb with ctx := hb.ctx.write d v, damage := mend 0x21 [d.val] hb.damage }

/-- A result of latency L turns: written at the end of cycle n + 4L - 1 (R28), into the store queue when it names c29 of
an execute core (R12), discarded when it names c0; on a hub it is present at the next issue (R145). -/
def State.result (s : State) (cx : Cx) (d : RegNo) (lat : Nat) (v : CReg) : State :=
  match cx.wh with
  | .tile _ k j _ _ =>
    if d = 0 then s
    else if k = .execute ∧ d = 29 then s.due cx (cx.n + 4 * lat - 1) (.sqPush j v.data)
    else s.due cx (cx.n + 4 * lat - 1) (.creg k j d v)
  | .hub die h _ => s.modHub die h fun hb => hb.writeReg d v

/-- Flags ORed into fl at the end of the latency (R23). -/
def State.flags (s : State) (cx : Cx) (lat : Nat) (f : FlagSet) : State :=
  match cx.wh with
  | .tile _ _ j _ _ => if f = 0 then s else s.due cx (cx.n + 4 * lat - 1) (.flOr j f)
  | .hub .. => s

/-! ### Taking a fault -/

/-- A fault record of a core (R273). -/
def coreRecord (t : Coord) (k : Side) (j : Nat) (cyc kind pc word : Nat) (f : Flt) : FRec :=
  { code := f.code, reason := f.reason, who := (if k = .execute then 1 else 0) + 2 * j, kind := kind, x := t.x, y := t.y,
    cyc := cyc, pc := pc % 2 ^ 32, word := word, info := f.info % 2 ^ 64 }

/-- A fault record of a router, or of channel `ch` (R273). -/
def unitRecord (t : Coord) (k : Side) (cyc kind : Nat) (f : Flt) (ch : Nat := 0) : FRec :=
  { code := f.code, reason := f.reason, who := 8 + (if k = .execute then 1 else 0), kind := kind, x := t.x, y := t.y,
    cyc := cyc, pc := 0, word := 0, info := f.info % 2 ^ 64, chan := ch }

/-- A cause of a freeze comes into force; one that is new is the latest (R294, R299). -/
def Part.withCause (q : Part) (c : Nat) : Part := if q.causes.contains c then q else { q with causes := q.causes ++ [c], cause := c }

/-- A partition takes a fault: its record is kept and the partition freezes at the end of the cycle, for cause 1 (R159,
R277, R294, R295). -/
def Part.take (q : Part) (r : FRec) : Part := { q.withCause 1 with faults := q.faults ++ [r], freezing := true }

/-- The 32 bytes of a fault record (R273). -/
def FRec.bytes (r : FRec) : List Byte :=
  leBytes 1 r.code ++ leBytes 1 r.reason ++ leBytes 1 r.who ++ leBytes 1 r.kind ++ leBytes 2 r.x ++ leBytes 2 r.y ++
    leBytes 8 r.cyc ++ leBytes 4 r.pc ++ leBytes 4 r.word ++ leBytes 8 r.info

/-- The level of a hub (R279). -/
def hubLevelOf (die hub : Nat) : Nat := if die = 0 ∧ hub = 63 then 2 else if hub = 0 then 1 else 0

/-- The next ticket after `k` that is not 0 and not outstanding (R279). -/
def nextTicket (used : List Nat) : Nat → Nat → Nat
  | 0, k => k
  | fuel + 1, k => if k = 0 ∨ used.contains k then nextTicket used fuel ((k + 1) % 2 ^ 16) else k

/-- The level at which a message bound for `level` is held: a failed hub's duties pass to the next level (R285). -/
def State.heldLevel (s : State) (level die : Nat) : Nat :=
  if level = 1 ∧ !(s.hub die 0).failed then 1 else if level ≤ 2 ∧ !(s.hub 0 63).failed then 2 else 3

/-- A message posted: it takes the next ticket (R279). -/
def State.post (s : State) (m : Message) : State :=
  let t := nextTicket (s.messages.map Message.ticket) (s.messages.length + 2) s.ticket
  { s with messages := s.messages ++ [{ m with ticket := t, posted := s.rmt, level := s.heldLevel m.level m.die }],
           ticket := (t + 1) % 2 ^ 16 }

/-- The messages that a test selects go to the level above, behind those that are held there (R279, R282, R283). -/
def State.lift (s : State) (p : Message → Bool) : State :=
  { s with messages := s.messages.filter (fun m => !p m) ++
      (s.messages.filter p).map fun (m : Message) => { m with level := s.heldLevel (m.level + 1) m.die, popped := false } }

/-- Whether a message stands at a hub: in its mailbox or popped and not yet returned. -/
def Message.atHub (m : Message) (die hub : Nat) : Bool :=
  (m.level == 1 && hub == 0 && m.die == die) || (m.level == 2 && hub == 63 && die == 0)

/-- An uncorrectable error that a read has found is reported to the Ringmaster hub, which it reaches after a time that the
manual leaves open (R333, R336); `hub` says whether LOC names a hub. -/
def State.report (s : State) (hub : Bool) (reason die loc info : Nat) : State :=
  let e : ErrEvent := { kind := 2, reason := reason, die := die, loc := loc, info := info, micros := 0, hub := hub }
  { s with inputs := s.inputs ++ [(s.rmt + 1 + Config.looseDelay s.freeCount, .logAppend e)], freeCount := s.freeCount + 1 }

/-- The die of a pseudo-channel (R205, R347). -/
def pcDie (g : Nat) : Nat := g / 256

/-- A fault record's uncorrectable error reported: of a tile, a hub or a pseudo-channel (R272, R333). -/
def State.reportRecord (s : State) (r : FRec) : State :=
  if r.code != fcEccLocal && r.code != fcEccBonded && r.code != fcEccHbm then s
  else if r.who = 16 then s.report true r.reason r.y r.x r.info
  else if r.reason = 0x29 then
    let g := r.info % 2 ^ 60 / 0xC000000
    s.report false r.reason (pcDie g) g r.info
  else s.report false r.reason (dieOf ⟨r.x, r.y⟩) (r.x + 2 ^ 10 * r.y) r.info

/-- A hub takes a fault: its context stops, the record goes to HFRLO and HFRHI, its partition messages go up, and its own
message goes to the level above (R282). An uncorrectable error that an answer told it of has been reported at its home (R212, R336). -/
def State.hubFault (s : State) (die hub : Nat) (r : FRec) : State :=
  let s0 := s.modHub die hub fun hb => { hb with stopped := true, hfr := r, wait := none, answer := none }
  let s1 := if (s.hub die hub).answer = some (.uncorr r.reason r.info) then s0 else s0.reportRecord r
  let s2 := s1.lift fun (m : Message) => !m.origin && m.atHub die hub
  s2.post { ticket := 0, origin := true, pid := 0, loc := die + 16 * hub, code := r.code, reason := r.reason, nrec := 1,
            trunc := false, level := hubLevelOf die hub + 1, die := die, popped := false, first := r, posted := 0 }

/-- The record of a fault of the issuing hub (R273). -/
def hubRecord (die hub rmt kind pc word : Nat) (f : Flt) : FRec :=
  { code := f.code, reason := f.reason, who := 16, kind := kind, x := hub, y := die, cyc := rmt, pc := pc % 2 ^ 32,
    word := word, info := f.info % 2 ^ 64 }

/-- Taking an exact fault: the instruction stays unissued and changes no state. A tile context's partition keeps the
record and the context to be re-offered, and freezes at the end of the cycle (R159, R269, R278); a hub stops (R282). -/
def raiseExact (cx : Cx) (f : Flt) (s : State) : State :=
  let s0 := { s with cur := none }
  match cx.wh with
  | .tile t k j _ q =>
    s0.modPart q.pid fun q =>
      { q.take (coreRecord t k j.val cx.n 0 cx.pc.toNat cx.word.toNat f) with reoffer := q.reoffer ++ [(t, k, j)] }
  | .hub d h _ => s0.hubFault d h (hubRecord d h s.rmt 0 cx.pc.toNat cx.word.toNat f)

/-- A fault taken after the instruction has issued (R287, R291). -/
def raiseAfter (cx : Cx) (word : Nat) (f : Flt) (s : State) : State :=
  match cx.wh with
  | .tile t k j _ q => s.modPart q.pid fun q => q.take (coreRecord t k j.val cx.n 3 cx.pc.toNat word f)
  | .hub d h _ => s.hubFault d h (hubRecord d h s.rmt 3 cx.pc.toNat word f)

/-- A cycle fault of a partition (R269). -/
def State.cycleFault (s : State) (pid : Nat) (r : FRec) : State := s.modPart pid fun q => q.take r

/-! ### Fetch -/

/-- The address of a context's instruction memory offset. -/
def Cx.fetchAddr (cx : Cx) (off : Nat) : Nat :=
  match cx.wh with
  | .tile t .. => tileAddr t off
  | .hub d h _ => hubAddr d h off

/-- The bytes of instruction memory: 32 KiB of a tile, 256 KiB of a hub (R19, R198). -/
def Cx.fetchLimit (cx : Cx) : Nat :=
  match cx.wh with
  | .tile .. => 0x8000
  | .hub .. => 0x40000

/-- Whether a damaged item of a tile or hub is listed. -/
def damaged (l : List Damage) (reason key : Nat) : Bool := l.contains ⟨reason, key⟩

/-- A word of a slot's fetch buffer, or of the repeat-frame buffer that the slot owns, among damaged items: its address, the slot above
bit 31 and the core above that (R272; log entry 28). -/
def fetchKey (k : Side) (j : Fin 4) (frame : Bool) (a : Nat) : Nat :=
  a + 2 ^ 32 * j.val + (if k = .execute then 2 ^ 34 else 0) + if frame then 2 ^ 35 else 0

/-- The core and slot of a context in the INFO of its registers; a hub's one context stands as access slot 0. -/
def Cx.regPlace (cx : Cx) : Side × Fin 4 := match cx.wh with | .tile _ k j _ _ => (k, j) | .hub .. => (.access, 0)

/-- Words that a slot reads into its fetch buffer, and one that its core captures for a frame, are whole (R30, R272). -/
def mendFetch (k : Side) (j : Fin 4) (words : List DWord) (captured : Option DWord) (l : List Damage) : List Damage :=
  mend 0x24 (words.map (fun a => fetchKey k j false a.toNat) ++ captured.toList.map fun a => fetchKey k j true a.toNat) l

/-- The damaged items of the issuing tile or hub. -/
def Cx.damage (cx : Cx) : List Damage :=
  match cx.wh with
  | .tile _ _ _ tl _ => tl.damage
  | .hub _ _ h => h.damage

/-- The word at an address of instruction memory, as a read of a cycle finds it (R30, R272). -/
def Cx.fetchWord (cx : Cx) (m : List Host.Cell) (a : DWord) : FWord :=
  if a.toNat + 4 ≤ cx.fetchLimit then
    { w := BitVec.ofNat 32 (Mem.readLE m (cx.fetchAddr a.toNat) 4)
      bad := damaged cx.damage (match cx.wh with | .tile .. => 0x20 | .hub .. => 0x27) (a.toNat / 8 * 8) }
  else ⟨0, false⟩

/-- The four words at an address, read in one cycle (R30). -/
def Cx.refill (cx : Cx) (m : List Host.Cell) (b : DWord) : FetchBuf :=
  ⟨b, [cx.fetchWord m b, cx.fetchWord m (b + 4), cx.fetchWord m (b + 8), cx.fetchWord m (b + 12)]⟩

/-- The buffer after sequential issue of the word at `a`: the word at a + 16 has been read (R30). -/
def Cx.shift (cx : Cx) (m : List Host.Cell) (a : DWord) (f : FetchBuf) : FetchBuf :=
  ⟨a + 4, f.words.drop 1 ++ [cx.fetchWord m (a + 16)]⟩

/-- The frame that a context's core runs for it (R118). -/
def Cx.ownFrame (cx : Cx) : Option Frame :=
  match cx.wh with
  | .tile _ k j tl _ => (tl.core k).frame.filter fun f => f.owner == j
  | .hub .. => none

/-! ### Completion of an issue -/

/-- Where a context goes after an instruction. -/
inductive Next where
  /-- the sequential address, with its loop-back decision (R95) -/
  | seq
  /-- a redirect to a PCC (R30) -/
  | jump (pcc : CReg)
  /-- ifence: the sequential address, with the buffer read again (R290) -/
  | refetch
  /-- a loop instruction: the sequential address, with no loop-back decision -/
  | enter
  /-- the context keeps its address and issues the instruction again (a hub that blocks, R145) -/
  | stay

/-- A PCC with its cursor moved: an unrepresentable cursor leaves tag 0 (R16, R93). -/
def movePcc (c : CReg) (a : DWord) : CReg := ⟨withCur c.data a, c.tag && representable c.data a⟩

/-- The PCC with its cursor advanced for sequential issue (R19). -/
def stepPcc (c : CReg) (a : DWord) : CReg := ⟨withCur c.data a, c.tag⟩

/-- Whether an address lies inside a loop body LS … LE - 4 (R95). -/
def LoopSt.inside (l : LoopSt) (a : DWord) : Bool := decide (l.ls.toNat ≤ a.toNat ∧ a.toNat + 4 ≤ l.le.toNat)

/-- A context goes on at its sequential address `nx`: at LE the loop-back is decided, which is a redirect (R95). -/
def Slot.goSeq (sl : Slot) (cx : Cx) (m : List Host.Cell) (nx : DWord) (buf : FetchBuf) : Slot :=
  if sl.loop.active && nx == sl.loop.le then
    if 1 < sl.loop.lc.toNat then
      { sl with pcc := movePcc sl.pcc sl.loop.ls, fbuf := cx.refill m sl.loop.ls,
                loop := { sl.loop with lc := sl.loop.lc - 1 } }
    else { sl with pcc := stepPcc sl.pcc nx, fbuf := buf, loop := { sl.loop with active := false } }
  else { sl with pcc := stepPcc sl.pcc nx, fbuf := buf }

/-- A context goes on at a redirect's target; a target outside a loop body ends the loop (R95). -/
def Slot.goTo (sl : Slot) (cx : Cx) (m : List Host.Cell) (pcc : CReg) : Slot :=
  let a := capCur pcc.data
  { sl with pcc := pcc, fbuf := cx.refill m a,
            loop := if sl.loop.active && !sl.loop.inside a then { sl.loop with active := false } else sl.loop }

/-- The frame after the issue of its word (i, j): the next (i, j), or none when it ends (R118). -/
def Frame.next (f : Frame) (w : FWord) : Option Frame :=
  let f' := if f.i = 0 then { f with words := f.words ++ [w] } else f
  if f.j + 1 < f.len then some { f' with j := f.j + 1 }
  else if f.i + 1 < f.n then some { f' with i := f.i + 1, j := 0 }
  else none

/-- A tile's core after the issue of a frame word: the buffer moves on, and the slot's PCC cursor names the next word.
Leaving a frame with n ≥ 2 is a redirect (R118 to R121). -/
def Core.frameStep (c : Core) (cx : Cx) (m : List Host.Cell) (j : Fin 4) (f : Frame) : Core :=
  let sl := c.slots[j]
  let buf := if f.i = 0 then cx.shift m cx.pc sl.fbuf else sl.fbuf
  let w := sl.fbuf.words.headD ⟨cx.word, false⟩
  match f.next w with
  | some f' =>
    { c with frame := some f',
             slots := c.slots.set j { sl with fbuf := buf, pcc := stepPcc sl.pcc (f'.base + BitVec.ofNat 64 (4 * f'.j)) } }
  | none =>
    let nx := f.base + BitVec.ofNat 64 (4 * f.len)
    let buf' := if 2 ≤ f.n then cx.refill m nx else buf
    { c with frame := none, slots := c.slots.set j (sl.goSeq cx m nx buf') }

/-- A context after an instruction that is not a frame word. -/
def Slot.advance (sl : Slot) (cx : Cx) (m : List Host.Cell) (nx : Next) : Slot :=
  match nx with
  | .seq => sl.goSeq cx m (cx.pc + 4) (cx.shift m cx.pc sl.fbuf)
  | .jump pcc => sl.goTo cx m pcc
  | .refetch => sl.goSeq cx m (cx.pc + 4) (cx.refill m (cx.pc + 4))
  | .enter => { sl with pcc := stepPcc sl.pcc (cx.pc + 4), fbuf := cx.shift m cx.pc sl.fbuf }
  | .stay => sl

/-- Four words from an address. -/
def fourWords (a : DWord) : List DWord := [a, a + 4, a + 8, a + 12]

/-- The words that sequential progress to `nx` reads: those at the loop's start if the loop goes back, else `plain` (R30, R95). -/
def Slot.seqReads (sl : Slot) (nx : DWord) (plain : List DWord) : List DWord :=
  if sl.loop.active && nx == sl.loop.le && decide (1 < sl.loop.lc.toNat) then fourWords sl.loop.ls else plain

/-- The words that the buffer of an issuing context reads as it moves past its instruction (R30, R118). -/
def Cx.reads (cx : Cx) (nx : Next) : List DWord :=
  let shift := [cx.pc + 16]
  match cx.ownFrame with
  | some f =>
    let capture := if f.i = 0 then shift else []
    if f.j + 1 < f.len ∨ f.i + 1 < f.n then capture
    else
      let after := f.base + BitVec.ofNat 64 (4 * f.len)
      cx.slot.seqReads after (if 2 ≤ f.n then fourWords after else capture)
  | none =>
    match nx with
    | .seq => cx.slot.seqReads (cx.pc + 4) shift
    | .jump pcc => fourWords (capCur pcc.data)
    | .refetch => cx.slot.seqReads (cx.pc + 4) (fourWords (cx.pc + 4))
    | .enter => shift
    | .stay => []

/-- The damaged words that the issuing context has read again, and the one that its core has captured, are whole (R272). -/
def State.mendBuffer (s : State) (cx : Cx) (nx : Next) : State :=
  let captured := (cx.ownFrame.filter fun f => f.i == 0).map fun _ => cx.pc
  let f := mendFetch cx.regPlace.1 cx.regPlace.2 (cx.reads nx) captured
  if cx.damage.isEmpty then s
  else
    match cx.wh with
    | .tile t .. => s.modTile t fun tl => { tl with damage := f tl.damage }
    | .hub d h _ => s.modHub d h fun hb => { hb with damage := f hb.damage }

/-- The issuing context moves past its instruction: `m` is memory as the cycle's reads find it. -/
def State.complete (s : State) (cx : Cx) (m : List Host.Cell) (nx : Next) : State :=
  let s1 :=
    match cx.wh with
    | .tile t k j _ _ =>
      match (s.tile t |>.core k).frame, cx.frame with
      | some f, true => s.modTile t fun tl => tl.setCore k ((tl.core k).frameStep cx m j f)
      | _, _ => s.modCtx cx fun sl => sl.advance cx m nx
    | .hub .. => s.modCtx cx fun sl => sl.advance cx m nx
  { s1.mendBuffer cx nx with cur := none }

/-! ### The checks before an instruction's own -/

/-- The system register numbers of the scale, format, flag and Calliope registers that an instruction reads, in the
order of R397. -/
def stateReads (i : Instr) (fm : BitVec 32) : List Nat :=
  let sr (r : BitVec 3) := if r.toNat = 4 ∨ (r.toNat = 7 ∧ fmRM fm = 4) then [0x012] else []
  match i with
  | .mma _ _ _ x y _ _ =>
    (match fmtOf (fmFA fm) with | some f => if f.scale == .none then [] else [x.toNat] | none => []) ++
    (match fmtOf (fmFB fm) with | some f => if f.scale == .none then [] else [y.toNat] | none => []) ++ [0x010]
  | .cvtWide _ _ sc r _ _ | .cvtWideb _ _ sc r _ _ | .cvtPack _ _ sc r _ _ | .cvtPackb _ _ sc r _ _ =>
    (match fmtOf (fmFC fm) with | some f => if f.scale == .none then [] else [sc.toNat] | none => []) ++ [0x010] ++ sr r
  | .cvtF2b _ _ _ r x _ | .cvtB2f _ _ _ r x _ | .cvtF2i _ _ _ r x _ | .cvtI2f _ _ _ r x _ =>
    (if r.toNat = 7 ∨ x.toNat = 0 then [0x010] else []) ++ sr r
  | .mzRd _ x r _ _ _ _ => (if r.toNat = 7 ∨ x.toNat = 0 then [0x010] else []) ++ sr r
  | .fadd .. | .fsub .. | .fmul .. | .fma .. | .fms .. | .vsum .. | .frcp .. | .frsq .. | .fsqrt .. | .fex2 .. | .flg2 ..
  | .fsin .. | .fcos .. => [0x010]
  | .scl sd .. => [sd.toNat, 0x010]
  | .sysrd _ num => if num.toNat < 8 ∨ (0x010 ≤ num.toNat ∧ num.toNat ≤ 0x012) then [num.toNat] else []
  | _ => []

/-- The INFO of a damaged register (R272). -/
def regKey (k : Side) (j : Fin 4) (n : Nat) : Nat := n + 2 ^ 8 * j.val + (if k = .execute then 2 ^ 10 else 0)

/-- The damage keys of a slot's registers: c0 to c31, and s0 to s7, fm, fl and sr (R272; log entry 36). -/
def slotKeys (k : Side) (j : Fin 4) : List Nat :=
  (List.range 32).map (regKey k j) ++ (List.range 8 ++ [0x10, 0x11, 0x12]).map fun n => 2 ^ 11 + regKey k j n

/-- The channel state or group-table entry that an instruction reads, as the INFO of its damage: the channel in 1 of [9:8], the
entry in 2 (R272, R397; log entry 36). -/
def unitReads (cx : Cx) (i : Instr) : Option Nat :=
  match i with
  | .gput _ _ b _ | .gget _ _ b _ => some (2 ^ 9 + (cx.data b).toNat % 64)
  | .chkWp _ ch | .cpyWp _ ch => some (2 ^ 8 + ch.val)
  | _ => none

/-- Whether c28 is the load queue (R12). -/
def Cx.queued (cx : Cx) : Bool := match cx.wh with | .tile _ .execute .. => true | _ => false

/-- The first damaged register, channel or group-table entry that an instruction reads (R397). -/
def regDamage (cx : Cx) (i : Instr) : Option Flt :=
  if cx.damage.isEmpty then none
  else
    let key := regKey cx.regPlace.1 cx.regPlace.2
    let c27 := match i with
      | .cvtWide .. | .cvtWideb .. | .cvtPack .. | .cvtPackb .. | .cvtF2b .. | .cvtB2f .. | .cvtF2i .. | .cvtI2f .. =>
        if (stateReads i cx.slot.fm).contains 0x012 then [27] else []
      | _ => []
    let regs := ((regUse i).srcs.map (·.val)).filter (fun r => r != 0 && !(cx.queued && r == 28)) ++ c27
    match regs.find? fun r => damaged cx.damage 0x21 (key r) with
    | some r => some { code := fcEccLocal, reason := 0x21, info := key r }
    | none =>
      if cx.queued && (regUse i).srcs.contains 28 && damaged cx.damage 0x23 0 then some { code := fcEccLocal, reason := 0x23 }
      else
        match (stateReads i cx.slot.fm).find? fun r => damaged cx.damage 0x21 (2 ^ 11 + key r) with
        | some r => some { code := fcEccLocal, reason := 0x21, info := key r }
        | none =>
          match unitReads cx i with
          | some n => if damaged cx.damage 0x26 n then some { code := fcEccLocal, reason := 0x26, info := n } else none
          | none => none

/-- Entries of the store queue and places reserved in it (R12). -/
def Tile.sqUsed (tl : Tile) : Nat :=
  tl.sq.length + tl.pend.countP fun e => match e.eff with | .sqPush .. => true | _ => false

/-- The places of R70 that depend on the core, the frame and the level. -/
def coreChecks (cx : Cx) (i : Instr) : Chk Unit :=
  let u := regUse i
  let k := cx.kind
  if !(coresOf i).lists k && !hubLevel i then .error { code := fcIllegal }
  else if k != .execute && u.all.any (fun r => r == 28 || r == 29) then .error { code := fcIllegal }
  else if k == .execute && (u.dst == some 28 || u.srcs.contains 29) then .error { code := fcIllegal }
  else if cx.frame && !frameClass i then .error { code := fcIllegalInFrame }
  else if hubLevel i && k != .hub then .error { code := fcPriv }
  else .ok ()

/-- The form number and LEN that the slot check compares (R177, R386): 6 stands for crs.send. -/
def slotForm (cx : Cx) (i : Instr) : Option (Nat × Option Nat) :=
  match i with
  | .xmit _ => some (0, some 0)
  | .xmitM _ n => some (1, some n.toNat)
  | .catchOne _ _ => some (2, some 0)
  | .catchM _ n => some (3, some n.toNat)
  | .put _ _ _ => some (4, some 0)
  | .sealOp => some (5, some 0)
  | .crsSend _ =>
    match cx.wh with
    | .tile _ _ _ tl _ => some (6, tl.binding.map fun b => b.ring.sq)
    | .hub .. => none
  | _ => none

/-- Whether an instruction is the form that a place names (R177). -/
def Place.matches (pl : Place) (f : Option (Nat × Option Nat)) : Bool :=
  match f with
  | none => false
  | some (n, len) =>
    let want := if pl.edge && pl.form == 4 then 6 else pl.form
    n == want && (match len with | none => true | some l => l == pl.len)

/-- The phase and slot checks (R153, R177). -/
def timetableChecks (cx : Cx) (i : Instr) : Chk Unit :=
  match cx.wh with
  | .hub .. => .ok ()
  | .tile t k _ tl q =>
    if !q.exchange cx.n then
      require (!exchangeClass i) { code := fcSlipLate, reason := rsPhase }
    else if k != .access || tl.lost then .ok ()
    else
      match q.place t cx.n with
      | some pl => require (pl.matches (slotForm cx i)) { code := fcSlipLate, reason := rsSlot, info := pl.index }
      | none => require (slotForm cx i).isNone { code := fcSlipLate, reason := rsSlot, info := 2 ^ 64 - 1 }

/-- SLIP_EMPTY on a c28 source (R12). -/
def queueCheck (cx : Cx) (i : Instr) : Chk Unit :=
  match cx.wh with
  | .tile _ .execute _ tl _ =>
    require (!((regUse i).srcs.contains 28 && tl.lq.isEmpty)) { code := fcSlipEmpty, reason := rsQueue }
  | _ => .ok ()

/-- SLIP_LATE on a c29 destination with no free place (R12). R12, R70, R100 and R269 give the test no place among an
instruction's own checks; the model makes it before all of them but those of `pre` (log entry 31). -/
def roomCheck (cx : Cx) (i : Instr) : Chk Unit :=
  match cx.wh with
  | .tile _ .execute _ tl _ =>
    require (!((regUse i).dst == some 29 && 8 ≤ tl.sqUsed)) { code := fcSlipLate, reason := rsQueue }
  | _ => .ok ()

/-- The damaged registers of R397. -/
def damageCheck (cx : Cx) (i : Instr) : Chk Unit :=
  match regDamage cx i with
  | some f => .error f
  | none => .ok ()

/-- The forms whose rules put the phase and the slot directly after decode: the XCH forms and crs.send (R180, R380). -/
def slotFirst : Instr → Bool
  | .xmit _ | .xmitM _ _ | .catchOne _ _ | .catchM _ _ | .put _ _ _ | .sealOp | .trn _ | .crsSend _ | .chkLq _ | .chkFe _ _
  | .chkWp _ _ | .semUp _ _ | .semChk _ _ | .resync | .start _ _ _ | .stop | .rmt _ _ | .mark _ _ => true
  | _ => false

/-- The first failure of a list of checks. -/
def firstFailure : List (Chk Unit) → Chk Unit
  | [] => .ok ()
  | .error f :: _ => .error f
  | .ok () :: l => firstFailure l

/-- Every check before an instruction's own, in order: R70, the timetable of a form that names it there, `pre` (the checks that a
description places before SLIP_EMPTY), SLIP_EMPTY, damaged registers, the timetable of every other form (R397), the store
queue place of a c29 destination, which stands before the instruction's own checks by choice (DESIGN CHOICE, log entry 31). -/
def issueChecks (cx : Cx) (i : Instr) (pre : Cx → Chk Unit) : Chk Unit :=
  let slot := timetableChecks cx i
  let late := if slotFirst i then [] else [slot]
  firstFailure ([coreChecks cx i] ++ (if slotFirst i then [slot] else []) ++ [pre cx, queueCheck cx i, damageCheck cx i] ++ late ++
    [roomCheck cx i])

/-- The pop of the load queue by an instruction that names c28 as a source (R12). -/
def State.popLq (s : State) (cx : Cx) (i : Instr) : State :=
  match cx.wh with
  | .tile _ .execute .. => if (regUse i).srcs.contains 28 then s.due cx cx.n .lqPop else s
  | _ => s

/-- No check before SLIP_EMPTY. -/
def noPre : Cx → Chk Unit := fun _ => .ok ()

/-- The issue of an instruction: its checks, then its body on the state. A fault of either is taken exactly, on the state
before; otherwise the load queue is popped if c28 is a source, and the context moves on. -/
def issue (i : Instr) (pre : Cx → Chk Unit) (body : Cx → State → Chk (State × Next)) (s : State) : Out :=
  match s.cur with
  | none => .refused .noContext
  | some cur =>
    match s.issuing cur with
    | none => .fault .noSuchContext
    | some cx =>
      match issueChecks cx i pre with
      | .error f => .next (raiseExact cx f s)
      | .ok () =>
        match body cx s with
        | .error f => .next (raiseExact cx f s)
        | .ok (s', nx) => .next ((s'.popLq cx i).complete cx s.mem nx)

/-- An instruction that writes one result of latency L computed from its registers, and has no check of its own. -/
def issueResult (i : Instr) (d : RegNo) (lat : Nat) (f : Cx → CReg) (s : State) : Out :=
  issue i noPre (fun cx s => .ok (s.result cx d lat (f cx), .seq)) s

end Sys2Proof.Machine
end

