-- ==== Sys2Proof/Machine/Convert.lean ====
section
/-! DEFINITION. The conversion and block-scale instructions (R112 to R117). -/

namespace Sys2Proof.Machine

/-- The rounding mode of a form with an RMX field: RMX, or fm.RM when RMX is 7 (R113, R136). -/
def rmxMode (fm : BitVec 32) (rmx : BitVec 3) : Option RMode := rmode (if rmx.toNat = 7 then fmRM fm else rmx.toNat)
/-- The saturation choice of an SX field (R113, R136). -/
def sxSat (fm : BitVec 32) (sx : BitVec 2) : Bool :=
  match sx.toNat with
  | 0 => fmSAT fm
  | 1 => false
  | _ => true

/-- A scale register. -/
def Cx.scale (cx : Cx) (n : BitVec 3) : Quad := cx.slot.s[n.toFin]

/-- What a conversion needs from its context: the format, for K = 0 to 3, and the mode, or the FORMAT check it fails
(R113). `parts` is P of R67 under the format. -/
def cvtSetup (cx : Cx) (useFc : Bool) (parts : Fmt → Nat) (rmx : BitVec 3) (sx : BitVec 2) (pt : BitVec 3) :
    Chk (Fmt × CvtMode) :=
  let fc : Option Fmt := if useFc then fmtOf (fmFC cx.slot.fm) else some ⟨.fp32, 0, .none, false⟩
  match fc with
  | none => .error { code := fcFormat }
  | some f =>
    match rmxMode cx.slot.fm rmx with
    | none => .error { code := fcFormat }
    | some rm =>
      if parts f ≤ pt.toNat then .error { code := fcFormat }
      else .ok (f, { rm := rm, sat := sxSat cx.slot.fm sx, sr := cx.slot.sr, c27 := cx.slot.c[27].data })

/-- A conversion: the checks of R113 in order (a damaged register that it reads is found first, R397), then its result
and flags after two turns. -/
def cvtForm (i : Instr) (d : RegNo) (useFc : Bool) (parts : Fmt → Nat) (rmx : BitVec 3) (sx : BitVec 2) (pt : BitVec 3)
    (f : Cx → Fmt → CvtMode → Quad × FlagSet) (s : State) : Out :=
  issue i
    (fun cx =>
      if (regDamage cx i).isSome then .ok ()
      else match cvtSetup cx useFc parts rmx sx pt with
        | .error e => .error e
        | .ok _ => .ok ())
    (fun cx s =>
      match cvtSetup cx useFc parts rmx sx pt with
      | .error e => .error e
      | .ok (fm, m) =>
        let r := f cx fm m
        .ok ((s.result cx d 2 (.plain r.1)).flags cx 2 r.2, .seq)) s

/-- cvtWide (R112). -/
def execCvtWide (d a : RegNo) (sc rmx : BitVec 3) (sx : BitVec 2) (pt : BitVec 3) (s : State) : Out :=
  cvtForm (.cvtWide d a sc rmx sx pt) d true (fun f => cvtParts f.elem (laneCount .f32)) rmx sx pt
    (fun cx f m => cvtWiden m f (cx.scale sc) .f32 (cx.data a) pt.toNat) s
/-- cvtWideb (R112). -/
def execCvtWideb (d a : RegNo) (sc rmx : BitVec 3) (sx : BitVec 2) (pt : BitVec 3) (s : State) : Out :=
  cvtForm (.cvtWideb d a sc rmx sx pt) d true (fun f => cvtParts f.elem (laneCount .bf16)) rmx sx pt
    (fun cx f m => cvtWiden m f (cx.scale sc) .bf16 (cx.data a) pt.toNat) s
/-- cvtPack (R112). -/
def execCvtPack (d a : RegNo) (sc rmx : BitVec 3) (sx : BitVec 2) (pt : BitVec 3) (s : State) : Out :=
  cvtForm (.cvtPack d a sc rmx sx pt) d true (fun f => cvtParts f.elem (laneCount .f32)) rmx sx pt
    (fun cx f m => cvtNarrow m f (cx.scale sc) .f32 (cx.data a) (cx.data d) pt.toNat) s
/-- cvtPackb (R112). -/
def execCvtPackb (d a : RegNo) (sc rmx : BitVec 3) (sx : BitVec 2) (pt : BitVec 3) (s : State) : Out :=
  cvtForm (.cvtPackb d a sc rmx sx pt) d true (fun f => cvtParts f.elem (laneCount .bf16)) rmx sx pt
    (fun cx f m => cvtNarrow m f (cx.scale sc) .bf16 (cx.data a) (cx.data d) pt.toNat) s
/-- cvtF2b (R112). -/
def execCvtF2b (d a : RegNo) (sc rmx : BitVec 3) (sx : BitVec 2) (pt : BitVec 3) (s : State) : Out :=
  cvtForm (.cvtF2b d a sc rmx sx pt) d false (fun _ => 2) rmx sx pt
    (fun cx _ m => cvtF2bQ m (cx.data a) (cx.data d) pt.toNat) s
/-- cvtB2f (R112). -/
def execCvtB2f (d a : RegNo) (sc rmx : BitVec 3) (sx : BitVec 2) (pt : BitVec 3) (s : State) : Out :=
  cvtForm (.cvtB2f d a sc rmx sx pt) d false (fun _ => 2) rmx sx pt (fun cx _ m => cvtB2fQ m (cx.data a) pt.toNat) s
/-- cvtF2i (R115). -/
def execCvtF2i (d a : RegNo) (sc rmx : BitVec 3) (sx : BitVec 2) (pt : BitVec 3) (s : State) : Out :=
  cvtForm (.cvtF2i d a sc rmx sx pt) d false (fun _ => 1) rmx sx pt
    (fun cx _ m => cvtLanes32 m .fp32 .int32 (cx.data a)) s
/-- cvtI2f (R115). -/
def execCvtI2f (d a : RegNo) (sc rmx : BitVec 3) (sx : BitVec 2) (pt : BitVec 3) (s : State) : Out :=
  cvtForm (.cvtI2f d a sc rmx sx pt) d false (fun _ => 1) rmx sx pt
    (fun cx _ m => cvtLanes32 m .int32 .fp32 (cx.data a)) s
/-- amaxb (R116). -/
def execAmaxb (d a b : RegNo) (ty : FTy) (s : State) : Out :=
  issueResult (.amaxb d a b ty) d 2 (fun cx => .plain (amaxbQ ty (cx.data a) (cx.data b))) s
/-- scl: the scale code goes to one byte of sN after two turns (R117). -/
def execScl (sd : BitVec 3) (a : RegNo) (pos : BitVec 4) (ty : FTy) (s : State) : Out :=
  issue (.scl sd a pos ty) noPre (fun cx s =>
    match cx.wh, fmtOf (fmFC cx.slot.fm) with
    | .tile _ _ j _ _, some f =>
      let r := sclCode f ty (cx.data a)
      .ok ((s.due cx (cx.n + 7) (.sByte j sd.toFin pos.toNat (BitVec.ofNat 8 r.1))).flags cx 2 r.2, .seq)
    | _, _ => .error { code := fcFormat }) s

end Sys2Proof.Machine
end

