-- ==== Sys2Proof/Machine/Home.lean ====
section
/-! DEFINITION. The homes of memory and what accesses do there: the address map (R195), windows (R199, R200), loose
accesses at tiles and pseudo-channels (R202, R212, R231, R232) and the functions of atomics (R233, R235). -/

namespace Sys2Proof.Machine

/-! ### The address map -/

/-- The tile and offset that an address of space 1 names (R195). -/
def space1 (a : Nat) : Option (Coord × Nat) :=
  let t : Coord := ⟨bits a 33 24, bits a 41 34⟩
  let off := bits a 16 0
  if bits a 59 42 = 0 ∧ bits a 23 17 = 0 ∧ t.x ≤ 999 ∧ t.y ≤ 199 ∧ off < 0x18000 then some (t, off) else none

/-- The HBM address that an address of space 2 names. -/
def space2 (a : Nat) : Option Nat :=
  if bits a 59 40 = 0 ∧ bits a 39 0 < 0xC000000000 then some (bits a 39 0) else none

/-- The device, tile and offset that an address of space 5 names. -/
def space5 (a : Nat) : Option (Nat × Coord × Nat) :=
  let t : Coord := ⟨bits a 31 22, bits a 39 32⟩
  let off := bits a 16 0
  if bits a 21 17 = 0 ∧ t.x ≤ 999 ∧ t.y ≤ 199 ∧ off < 0x18000 then some (bits a 59 40, t, off) else none

/-- The pseudo-channel of an HBM address (R205). -/
def pcOf (a : Nat) : Nat := a / 0xC000000
/-- The offset of an HBM address within its pseudo-channel. -/
def pcOff (a : Nat) : Nat := a % 0xC000000
/-- Row, bank and burst of an HBM address. -/
def hbmPlace (a : Nat) : Nat × Nat × Nat := (bits (pcOff a) 26 14, bits (pcOff a) 13 10, bits (pcOff a) 9 6)

/-- Own device number: DEVNUM takes its value at the first write of JTAIL (R328). -/
def State.device (s : State) : Nat := if s.ring.latched then s.ring.devnum.toNat % 2 ^ 20 else 0

/-! ### Reading and writing words at home -/

/-- The numbers `k`, `k + step`, … that cover `n` bytes from `a` in blocks of `step`. -/
def blocks (a n step : Nat) : List Nat :=
  (List.range ((a + n + step - 1) / step - a / step)).map fun i => (a / step + i) * step

/-- The damaged words of a tile's memory that a write of `n` bytes renews (R272). -/
def State.mendTile (s : State) (t : Coord) (off n : Nat) : State :=
  s.modTile t fun tl => { tl with damage := mend 0x20 (blocks off n 8) (mend 0x28 (blocks off n 8) tl.damage) }

/-- Bytes stored at a tile: the memory tag of each quad touched becomes `tag`, and with `full` the full bits of the words
touched are set (R18, R203). The bonded slice has neither. -/
def State.storeTile (s : State) (t : Coord) (off : Nat) (data : List Byte) (tag full : Bool) : State :=
  let m := { s with mem := Mem.write s.mem (tileAddr t off) data }.mendTile t off data.length
  if off < 0x8000 then
    { m with
      qtags := (blocks off data.length 16).foldl (fun l q => setMember l (tileAddr t q) tag) m.qtags
      full := if full then (blocks off data.length 8).foldl (fun l w => insertSorted l (tileAddr t w)) m.full else m.full }
  else m

/-- Whether an uncorrectable error lies in a range of local SRAM or the bonded slice: the first damaged word's fault
(R272). -/
def Tile.eccAt (tl : Tile) (off n : Nat) : Option Flt :=
  (blocks off n 8).findSome? fun w =>
    if w < 0x8000 then (if damaged tl.damage 0x20 w then some { code := fcEccLocal, reason := 0x20, info := w } else none)
    else if damaged tl.damage 0x28 w then some { code := fcEccBonded, reason := 0x28, info := w }
    else none

/-- An uncorrectable word of a hub's SRAM (R272). -/
def Hub.eccAt (hb : Hub) (off n : Nat) : Option Flt :=
  (blocks off n 8).findSome? fun w =>
    if damaged hb.damage 0x27 w then some { code := fcEccLocal, reason := 0x27, info := w } else none

/-- A full bit (R203). -/
def State.isFull (s : State) (t : Coord) (off : Nat) : Bool := s.full.contains (tileAddr t (off / 8 * 8))

/-- Words noted as written by a partition in the present cycle (R202). -/
def State.noteWrites (s : State) (t : Coord) (off n : Nat) : State :=
  { s with wrote := s.wrote ++ (blocks off n 8).map (tileAddr t) }

/-- Whether a partition has written a word of a tile in the present cycle. -/
def State.wroteAt (s : State) (t : Coord) (off n : Nat) : Bool :=
  (blocks off n 8).any fun w => s.wrote.contains (tileAddr t w)

/-! ### Windows -/

/-- The class of an arriving access (R200). -/
inductive SrcClass where
  | part | troupe | loose
  deriving DecidableEq, Repr

/-- What an arriving access asks for (R200). -/
inductive Want where
  | wr | amo | rd
  deriving DecidableEq, Repr

/-- The bits of a window register that a write keeps: [56:34] and the low bits of LIMIT and BASE are 0 (R199). -/
def winWrite (v : DWord) : DWord := v &&& 0xFE000003FFF1FFF8#64

/-- A window's LIMIT. -/
def winLimit (w : DWord) : Nat := bits w.toNat 33 17
/-- A window's BASE. -/
def winBase (w : DWord) : Nat := bits w.toNat 16 0

/-- Whether a window admits an access (R200). -/
def winAdmits (w : DWord) (off size : Nat) (c : SrcClass) (k : Want) : Bool :=
  w.getLsbD 63 && decide (winBase w ≤ off) && decide (off + size ≤ winLimit w) &&
  (match c with | .loose => w.getLsbD 62 | .part => w.getLsbD 61 | .troupe => w.getLsbD 60) &&
  (match k with | .amo => w.getLsbD 59 | .wr => w.getLsbD 58 | .rd => w.getLsbD 57)

/-- Whether some window of a tile admits an access. -/
def Tile.admits (tl : Tile) (off size : Nat) (c : SrcClass) (k : Want) : Bool :=
  tl.win.toList.any fun w => winAdmits w off size c k

/-- WIN0 as the launch writes it: bytes 0x0000 to 0x7FFF for PART, AMO and WR (R199). -/
def win0Launch : DWord := BitVec.ofNat 64 (2 ^ 63 + 2 ^ 61 + 2 ^ 59 + 2 ^ 58 + 0x8000 * 2 ^ 17)

/-! ### Atomic functions -/

/-- The new value of a word of `wd` bits under atomic function F (R233). -/
def amoNew (f wd m x e : Nat) : Nat :=
  match f with
  | 0 => (m + x) % 2 ^ wd
  | 1 => if sextNat m wd ≤ sextNat x wd then x else m
  | 2 => if sextNat m wd ≤ sextNat x wd then m else x
  | 3 => max m x
  | 4 => min m x
  | 5 => Nat.land m x
  | 6 => Nat.lor m x
  | 7 => Nat.xor m x
  | 8 => x
  | 9 => if m = e then x else m
  | _ => minMaxCodes true .fp32 m x

/-- The class of path that an atomic needs: 1 INT, 2 FULL (R233, R237). -/
def amoNeeds (f : Nat) : Nat := if f = 10 then 2 else 1

/-- amo_perform on a word of memory: the memory after it and the old value (R235). -/
def amoMem (m : List Host.Cell) (ga f wd x e : Nat) : List Host.Cell × Nat :=
  let old := Mem.readLE m ga (wd / 8)
  (Mem.write m ga (leBytes (wd / 8) (amoNew f wd old (x % 2 ^ wd) (e % 2 ^ wd))), old)

/-! ### Personality groups and their ports -/

/-- A group. -/
def State.group (s : State) (g : Nat) : Group := (assocGet s.edge.groups g).getD .powerOn
/-- A port. -/
def State.port (s : State) (p : Nat) : Port := (assocGet s.edge.ports p).getD .powerOn
/-- A port changed. -/
def State.modPort (s : State) (p : Nat) (f : Port → Port) : State :=
  { s with edge := { s.edge with ports := assocSet s.edge.ports p (f (s.port p)) } }
/-- A group changed. -/
def State.modGroup (s : State) (g : Nat) (f : Group → Group) : State :=
  { s with edge := { s.edge with groups := assocSet s.edge.groups g (f (s.group g)) } }
/-- A flit queued on a port. -/
def State.queueFlit (s : State) (p : Nat) (f : LinkFlit) : State := s.modPort p fun q => { q with queue := q.queue ++ [f] }

/-! ### Loose accesses -/

/-- What an operation wants of a window. -/
def opWant : LooseOp → Want
  | .read | .readCap => .rd
  | .write | .writeCap _ => .wr
  | .amo .. => .amo

/-- Whether an operation stores without reading. -/
def opStores : LooseOp → Bool
  | .write | .writeCap _ => true
  | _ => false

/-- The group of an outstanding request; one that the host port took has none (R216). -/
def Outbound.group (o : Outbound) : Option Nat := o.port.map (· / 4)

/-- The least width of an atomic operation in bits. -/
def amoBits (wide : Bool) : Nat := if wide then 64 else 32

/-- An answer sent to the source of a loose access: hubs and channels receive it after a time that the manual leaves open,
a remote device as a response flit on its port while that is in the generation of the request and carries flits; over another
personality's protocol, and to the host and CXL requesters, it leaves the module at once (R231, R232, R351, R356, R368). -/
def State.respond (s : State) (src : LooseSrc) (r : Reply) : State :=
  match src with
  | .hub .. | .channel .. =>
    { s with
      returning := s.returning ++ [⟨s.rmt + 1 + Config.looseDelay s.freeCount, src, r⟩], freeCount := s.freeCount + 1 }
  | .device dev port tag gen =>
    let g := s.group (port / 4)
    if g.pers = 0 ∧ g.gen.toNat = gen ∧ (g.state = .up ∨ g.state = .quiesce ∨ g.state = .drain) then
      s.queueFlit port ⟨s.device, dev, .response tag r⟩
    else s
  | .host | .cxl _ => s

/-- A held access is accepted: a hub store is answered now and counts as unperformed, and so is a store of another device
answered, whose hub cannot be told from its channels (R232; log entry 6). -/
def State.accept (s : State) (a : Loose) : State :=
  match a.src, (opStores a.op) with
  | .hub d h, true => (s.modHub d h fun hb => { hb with unperformed := hb.unperformed + 1 }).respond a.src (.ok [] false)
  | .device .., true => s.respond a.src (.ok [] false)
  | _, _ => s

/-- A held access has been performed: its answer goes out, but for a store that has had it (R232). -/
def State.settle (s : State) (a : Loose) (r : Reply) : State :=
  match a.src, (opStores a.op) with
  | .hub d h, true => s.modHub d h fun hb => { hb with unperformed := hb.unperformed - 1 }
  | .device .., true => s
  | _, _ => s.respond a.src r

/-- A loose access performed on a tile's memory; one that reads an uncorrectable word changes nothing (R202, R235, R272). -/
def State.performTile (s : State) (t : Coord) (off : Nat) (a : Loose) : State × Reply :=
  let ga := tileAddr t off
  let bad (f : Flt) : State × Reply := (s.report false f.reason (dieOf t) (t.x + 2 ^ 10 * t.y) f.info, .uncorr f.reason f.info)
  match a.op, (s.tile t).eccAt off a.size with
  | .write, _ | .writeCap _, _ => (s.storeTile t off (a.data.take a.size) false true, .ok [] false)
  | .read, some f | .readCap, some f | .amo .., some f => bad f
  | .read, none => (s, .ok (Mem.read s.mem ga a.size) false)
  | .readCap, none => (s, .ok (Mem.read s.mem ga a.size) (s.qtags.contains (ga / 16 * 16)))
  | .amo f wide, none =>
    let r := amoMem s.mem ga f (amoBits wide) (leNat a.data) a.cmp.toNat
    ({ s with mem := r.1, qtags := eraseAll s.qtags (ga / 16 * 16) }.mendTile t off a.size, .ok (leBytes (amoBits wide / 8) r.2) false)

/-- The class of a loose access at a tile: PART when it comes from a channel of the tile's own partition (R199, R200). -/
def State.classAt (s : State) (t : Coord) (a : Loose) : SrcClass :=
  match a.src, s.partOf t with
  | .channel (.tile u) _ _, some q => if q.holds u then .part else .loose
  | _, _ => .loose

/-- The windows in force at a tile: to the end of the cycle of a Turnstile those of before it (R201). -/
def State.winAt (s : State) (t : Coord) : Vector DWord 4 :=
  ((s.partOf t).bind fun q => assocGet q.winWas (tileKey t)).getD (s.tile t).win

/-- Whether a tile's state admits a loose access: its windows, or SYS where R200 lets it pass. -/
def State.looseAdmitted (s : State) (t : Coord) (off : Nat) (a : Loose) : Bool :=
  let tl := s.tile t
  let free := match s.partOf t with
    | none => true
    | some q => q.form != .running || tl.lost
  (a.sys && free) || { tl with win := s.winAt t }.admits off a.size (s.classAt t a) (opWant a.op)

/-- A loose access performed at a tile, or refused there (R200, R202, R235). -/
def State.looseAtTile (s : State) (t : Coord) (off : Nat) (a : Loose) : State × Reply :=
  let changes := (opWant a.op) != .rd
  let running := match s.partOf t with | none => false | some q => q.form == .running
  if !s.looseAdmitted t off a then (s, .refused)
  else if changes && running &&
      ((blocks off a.size 8).any (fun w => decide (w < 0x8000) && s.isFull t w) || s.wroteAt t off a.size) then
    (s, .refused)
  else s.performTile t off a

/-- LOOSE_TILE_ARRIVAL: the access is performed, refused, or held at its home (R166, R202, R304). -/
def State.arriveTile (s : State) (a : Loose) (t : Coord) (off : Nat) : State :=
  let now := s.looseAtTile t off a
  match s.partOf t with
  | none => now.1.respond a.src now.2
  | some q =>
    match q.form with
    | .running => now.1.respond a.src now.2
    | .launching => (s.modPart q.pid fun q => { q with held := q.held ++ [a] }).accept a
    | .held | .restoring | .writtenOut =>
      if a.sys then now.1.respond a.src now.2
      else (s.modPart q.pid fun q => { q with held := q.held ++ [a] }).accept a

/-- An uncorrectable burst found by a loose access: it is counted and reported (R212, R272, R333). -/
def State.uncorrHbm (s : State) (hb : Nat) : State :=
  (s.modPc (pcOf hb) fun p => { p with unc := min (p.unc + 1) (2 ^ 32 - 1) }).report false 0x29 (pcDie (pcOf hb)) (pcOf hb)
    (hbmAddr (hb / 64 * 64))

/-- A loose access performed on HBM; an uncorrectable burst is reported (R212, R272). -/
def State.performHbm (s : State) (hb : Nat) (a : Loose) : State × Reply :=
  let ga := hbmAddr hb
  let bad := (blocks hb a.size 64).any fun b => s.hbmDamage.contains (hbmAddr b)
  match a.op with
  | .write | .writeCap _ =>
    ({ s with mem := Mem.write s.mem ga (a.data.take a.size),
              hbmDamage := (blocks ga a.size 64).foldl eraseAll s.hbmDamage }, .ok [] false)
  | .read | .readCap =>
    if bad then (s.uncorrHbm hb, .uncorr 0x29 (hbmAddr (hb / 64 * 64)))
    else (s, .ok (Mem.read s.mem ga a.size) false)
  | .amo f wide =>
    if bad then (s.uncorrHbm hb, .uncorr 0x29 (hbmAddr (hb / 64 * 64)))
    else
      let r := amoMem s.mem ga f (amoBits wide) (leNat a.data) a.cmp.toNat
      ({ s with mem := r.1 }, .ok (leBytes (amoBits wide / 8) r.2) false)

/-- Whether a pseudo-channel belongs to a partition that is not frozen: loose accesses to it are held (R212). An owner that is admitted
and has not begun counts as a running one (DESIGN CHOICE, log entry 97). -/
def State.pcBusy (s : State) (g : Nat) : Bool :=
  match (s.pc g).owner with
  | none => false
  | some pid => match s.part pid with
    | none => false
    | some q => q.form == .running || q.form == .launching

/-- LOOSE_HBM_ACCESS: performed in arrival order, or held for the owner (R212). -/
def State.arriveHbm (s : State) (a : Loose) (hb : Nat) : State :=
  if s.pcBusy (pcOf hb) then (s.modPc (pcOf hb) fun p => { p with held := p.held ++ [a] }).accept a
  else
    let r := s.performHbm hb a
    r.1.respond a.src r.2

/-- The accesses held at a pseudo-channel are performed in arrival order (R212). -/
def State.releasePc (s : State) (g : Nat) : State :=
  let l := (s.pc g).held
  l.foldl (fun s a =>
    match space2 a.addr.toNat with
    | none => s
    | some hb =>
      let r := s.performHbm hb a
      r.1.settle a r.2) (s.modPc g fun p => { p with held := [] })

/-- A loose access performed on hub SRAM (R217 KIND 0); one that reads an uncorrectable word changes nothing (R272). -/
def State.performSram (s : State) (die hub off : Nat) (a : Loose) : State × Reply :=
  let ga := hubAddr die hub off
  let bad (f : Flt) : State × Reply := (s.report true f.reason die hub f.info, .uncorr f.reason f.info)
  let new := s.modHub die hub fun hb => { hb with damage := mend 0x27 (blocks off a.size 8) hb.damage }
  match a.op, (s.hub die hub).eccAt off a.size with
  | .write, _ =>
    ({ new with mem := Mem.write s.mem ga (a.data.take a.size)
                qtags := (blocks ga a.size 16).foldl eraseAll s.qtags }, .ok [] false)
  | .writeCap tag, _ =>
    ({ new with mem := Mem.write s.mem ga (a.data.take a.size), qtags := setMember s.qtags (ga / 16 * 16) tag }, .ok [] false)
  | .read, some f | .readCap, some f | .amo .., some f => bad f
  | .read, none => (s, .ok (Mem.read s.mem ga a.size) false)
  | .readCap, none => (s, .ok (Mem.read s.mem ga a.size) (s.qtags.contains ga))
  | .amo f wide, none =>
    let r := amoMem s.mem ga f (amoBits wide) (leNat a.data) a.cmp.toNat
    ({ s with mem := r.1, qtags := eraseAll s.qtags (ga / 16 * 16) }, .ok (leBytes (amoBits wide / 8) r.2) false)

end Sys2Proof.Machine
end

