-- ==== Sys2Proof/Machine/Mesh.lean ====
section
/-! DEFINITION. The mesh: routes, the cycle in which a flit wants each router output, arbitration and the safety net
(R173 to R175, R184, R348, R350, R398). A flit's place follows from its injection cycle and the cycles it has lost. -/

namespace Sys2Proof.Machine

/-- One step from `a` toward `b`. -/
def stepTo (a b : Nat) : Nat := if a < b then a + 1 else a - 1

/-- The tiles along x from `a` to column `x`, without `a`. -/
def walkX : Nat → Coord → Nat → List Coord
  | 0, _, _ => []
  | n + 1, a, x => if a.x = x then [] else let b : Coord := ⟨stepTo a.x x, a.y⟩; b :: walkX n b x

/-- The tiles along y from `a` to row `y`, without `a`. -/
def walkY : Nat → Coord → Nat → List Coord
  | 0, _, _ => []
  | n + 1, a, y => if a.y = y then [] else let b : Coord := ⟨a.x, stepTo a.y y⟩; b :: walkY n b y

/-- The tiles of a route, x first and then y (R174). -/
def route (a b : Coord) : List Coord :=
  let xs := walkX 1000 a b.x
  a :: xs ++ walkY 200 ⟨b.x, a.y⟩ b.y

/-- Hop count. -/
def hops (a b : Coord) : Nat := (a.x - b.x) + (b.x - a.x) + ((a.y - b.y) + (b.y - a.y))
/-- Die edges between two tiles along a route (R174, R348). -/
def dieEdges (a b : Coord) : Nat :=
  (a.x / 125 - b.x / 125) + (b.x / 125 - a.x / 125) + ((a.y / 100 - b.y / 100) + (b.y / 100 - a.y / 100))
/-- T of a route (R174). -/
def routeT (a b : Coord) : Nat := 6 + hops a b + 12 * dieEdges a b

/-- The attachment tile of an edge port and the output that leads to it: 3 west, 1 east (R347). -/
def attach (p : Nat) : Coord × Nat :=
  let i := p / 16
  (⟨if i < 2 then 0 else 999, 100 * (i % 2) + 6 * (p % 16) + 2⟩, if i < 2 then 3 else 1)

/-- Tout and Tin between a tile and a port (R350). -/
def portT (t : Coord) (p : Nat) : Nat := 6 + hops t (attach p).1 + 12 * (dieEdges t (attach p).1 + 1)

/-- The tiles of a flit's route; an acknowledgement follows the reverse of the route it answers (R184). -/
def Flit.path (f : Flit) : List Coord := if f.kind = .ack then (route f.dst f.src).reverse else route f.src f.dst

/-- The direction from a tile to its neighbour: 0 N, 1 E, 2 S, 3 W. -/
def dirTo (a b : Coord) : Nat := if a.x < b.x then 1 else if b.x < a.x then 3 else if a.y < b.y then 2 else 0
/-- The input by which a flit that travels in a direction enters: the opposite side. -/
def inOf (d : Nat) : Nat := (d + 2) % 4

/-- A claim of a flit on a router output: the router, its output and the flit's input. -/
structure Claim where
  at' : Coord
  out : Nat
  inp : Nat
  deriving DecidableEq, Repr

/-- The claims along a route with the cycles after injection at which they fall (R174): `k` hops made, `c` die edges
crossed, `inp` the input. The last claim is the local output, or the edge output of a flit bound for a port. -/
def claimsAlong (last : Option Nat) : List Coord → Nat → Nat → Nat → List (Nat × Claim)
  | [], _, _, _ => []
  | [a], k, c, inp =>
    match last with
    | some o => [(3 + k + 12 * c, ⟨a, o, inp⟩)]
    | none => [(6 + k + 12 * c, ⟨a, 4, inp⟩)]
  | a :: b :: r, k, c, inp =>
    (3 + k + 12 * c, ⟨a, dirTo a b, inp⟩) :: claimsAlong last (b :: r) (k + 1) (c + dieEdges a b) (inOf (dirTo a b))

/-- The claims of a flit. -/
def Flit.claims (f : Flit) : List (Nat × Claim) :=
  claimsAlong (f.port.map fun w => (attach w.port).2) f.path 0 0 f.inp

/-- Whether something has been caught in cycle p: it has first claim in the next. -/
def caughtIn (c : Option (Nat × Nat)) (p : Nat) : Bool := match c with | some (n, _) => n == p + 1 | none => false

/-- The claim that a flit makes in cycle p; one that is caught in p made it before it lost its cycle. -/
def Flit.claim (f : Flit) (p : Nat) : Option Claim :=
  let d := if caughtIn f.caught p then f.delay - 1 else f.delay
  (f.claims.find? fun c => f.q + d + c.1 == p).map (·.2)

/-- The cycle in which a flit is on its destination's local output. -/
def Flit.arrives (f : Flit) : Nat := f.q + f.delay + routeT f.src f.dst

/-! ### Reduction words (R396) -/

/-- The vertical die edges between two columns, and the horizontal one between two rows. -/
def edgesX (a b : Nat) : Nat := (a / 125 - b / 125) + (b / 125 - a / 125)
/-- The horizontal die edges between two rows. -/
def edgesY (a b : Nat) : Nat := (a / 100 - b / 100) + (b / 100 - a / 100)

/-- R of a group whose origin has logical coordinates (x, y) (R257). -/
def redR (x y gw gh : Nat) : Nat := 6 + (gw - 1) + (gh - 1) + 12 * (edgesX x (x + gw - 1) + edgesY y (y + gh - 1))

/-- The outputs that a contribution of member (i, j) occupies on its way to the origin, with the cycles after s + k
(R396). `x` and `y` are the origin's logical coordinates. -/
def gputClaims (x y gw gh i j : Nat) : List (Nat × Claim) :=
  let c (i j : Nat) := edgesX (x + i) (x + gw - 1) + edgesY (y + j) (y + gh - 1)
  let west := ((List.range i).map fun d => i - d).map fun i' =>
    (3 + (gw - 1 - i') + (gh - 1 - j) + 12 * c i' j, (⟨⟨x + i', y + j⟩, 3, if i' + 1 < gw then 1 else 4⟩ : Claim))
  let north := ((List.range j).map fun d => j - d).map fun j' =>
    (3 + (gw - 1) + (gh - 1 - j') + 12 * c 0 j',
      (⟨⟨x, y + j'⟩, 0, if j' + 1 < gh then 2 else if 1 < gw then 1 else 4⟩ : Claim))
  west ++ north ++ [(redR x y gw gh, ⟨⟨x, y⟩, 4, if 1 < gh then 2 else if 1 < gw then 1 else 4⟩)]

/-- The outputs that a broadcast word occupies on its way to member (i, j). -/
def ggetClaims (x y gw gh i j : Nat) : List (Nat × Claim) :=
  let c (i j : Nat) := edgesX x (x + i) + edgesY y (y + j)
  let south := (List.range j).map fun j' =>
    (3 + j' + 12 * c 0 j', (⟨⟨x, y + j'⟩, 2, if j' = 0 then 4 else 0⟩ : Claim))
  let east := (List.range i).map fun i' =>
    (3 + j + i' + 12 * c i' j, (⟨⟨x + i', y + j⟩, 1, if 0 < i' then 3 else if 0 < j then 0 else 4⟩ : Claim))
  south ++ east ++ [(redR x y gw gh, ⟨⟨x + i, y + j⟩, 4, if 0 < i then 3 else if 0 < j then 0 else 4⟩)]

/-- The outputs that a reduction word occupies, with the cycles after s + k, when it runs a cycle late from each output of `late`
on. A broadcast word reaches its member's local output at R, or when it comes if that is later (R396). -/
def RedWord.claims (w : RedWord) (x0 y0 : Nat) (late : List (Coord × Nat)) : List (Nat × Claim) :=
  let k := w.key
  let x := x0 + k.gx
  let y := y0 + k.gy
  let i := w.tile.x - x
  let j := w.tile.y - y
  let l := (if k.get then ggetClaims else gputClaims) x y k.gw k.gh i j
  let here (c : Claim) : Nat := late.countP fun o => o.1 == c.at' && o.2 == c.out
  (l.zipIdx).map fun (c : (Nat × Claim) × Nat) =>
    let n := ((l.take (c.2 + 1)).map fun d => here d.2).sum
    let own := here c.1.2
    if k.get && c.2 + 1 == l.length then
      (max c.1.1 (6 + i + j + 12 * (edgesX x (x + i) + edgesY y (y + j)) + (n - own)) + own, c.1.2)
    else (c.1.1 + n, c.1.2)

/-- The claim of a reduction word in cycle p; one that is caught in p made it before it lost its cycle, and makes it again in p + 1. -/
def RedWord.claim (w : RedWord) (x0 y0 p : Nat) : Option Claim :=
  let n := if caughtIn w.caught p then p + 1 else p
  ((w.claims x0 y0 w.late).find? fun c => w.key.start + w.key.word + c.1 == n).map (·.2)

/-- The cycle in which a reduction word claims an output on its way. -/
def RedWord.claimAt (w : RedWord) (x0 y0 : Nat) (o : Coord × Nat) : Option Nat :=
  ((w.claims x0 y0 w.late).find? fun c => c.2.at' == o.1 && c.2.out == o.2).map fun c => w.key.start + w.key.word + c.1

/-- A reduction word that runs a cycle late from each output of `late` on: it reaches its local output when its last claim falls. -/
def RedWord.withLate (w : RedWord) (x0 y0 : Nat) (late : List (Coord × Nat)) : RedWord :=
  { w with late := late, due := w.key.start + w.key.word + ((w.claims x0 y0 late).getLastD (0, ⟨w.tile, 4, 4⟩)).1 }

/-- A reduction word that runs a cycle later from an output on. -/
def RedWord.delayed (w : RedWord) (x0 y0 : Nat) (o : Coord × Nat) : RedWord := w.withLate x0 y0 (w.late ++ [o])

/-! ### Arbitration (R175) -/

/-- What wants a router output in a cycle: a flit or a reduction word, with its claim. -/
structure Claimant where
  id : Nat
  /-- reduction words of one key at one output are one combined word -/
  key : Option RedKey
  ack : Bool
  /-- the slot of the safety net in which it waited, if it has first claim -/
  caught : Option Nat
  claim : Claim

/-- The slot of the safety net that something left in cycle p. -/
def slotAt (c : Option (Nat × Nat)) (p : Nat) : Option Nat := c.bind fun x => if x.1 = p then some x.2 else none

/-- All that want router outputs in cycle p. -/
def Part.claimants (q : Part) (p : Nat) : List Claimant :=
  q.flits.filterMap (fun f => (f.claim p).map fun c => ⟨f.id, none, f.kind == .ack, slotAt f.caught p, c⟩) ++
    q.redWords.filterMap (fun w => (w.claim q.x0 q.y0 p).map fun c => ⟨w.id, some w.key, false, slotAt w.caught p, c⟩)

/-- Whether g goes before f at an output that both want: a caught flit has first claim, then the input order decides, and of two
from one input, or both caught, the one that was put into the mesh first goes (log entry 46). Acknowledgements have wires of
their own (R175, R184). -/
def Claimant.before (g f : Claimant) : Bool :=
  g.id != f.id && g.ack == f.ack && g.claim.at' == f.claim.at' && g.claim.out == f.claim.out &&
    !(g.key.isSome && g.key == f.key) &&
    (if g.caught.isSome != f.caught.isSome then g.caught.isSome
     else decide (g.claim.inp < f.claim.inp) || (g.claim.inp == f.claim.inp && decide (g.id < f.id)))

/-- Whether a flit or reduction word with this number takes the output it wants in cycle p. -/
def Part.takes (q : Part) (id p : Nat) : Bool :=
  let l := q.claimants p
  match l.find? fun c => c.id == id with
  | none => false
  | some c => !(l.any fun g => g.before c)

/-- Whether a flit wins the output it wants in cycle p. -/
def Part.wins (q : Part) (f : Flit) (p : Nat) : Bool := q.takes f.id p

/-- The stream flit that takes the local output of a tile in cycle p (R182). -/
def Part.streamAt (q : Part) (t : Coord) (p : Nat) : Option Flit :=
  q.flits.find? fun f => f.kind == .stream && f.port.isNone && f.dst == t && f.arrives == p && q.wins f p

/-- The kind code of a route tag (R173); the manual gives an acknowledgement none, and the model gives it the engines' (log entry 46). -/
def FlitKind.code : FlitKind → Nat
  | .stream => 0
  | .putAddr => 1
  | .putData => 2
  | .engine | .ack => 3

/-- The record of a flit caught at a router (R175, R271): `dst` and `kind` are those of its route tag. -/
def caughtRecord (q : Part) (dst : Coord) (kind : Nat) (c : Claim) (slot p : Nat) : FRec :=
  let tag := (dst.x - q.x0) + (dst.y - q.y0) * 2 ^ 10 + kind * 2 ^ 18
  unitRecord c.at' .access p 1
    { code := fcCollision, reason := rsRoute, info := c.out + c.inp * 2 ^ 3 + tag * 2 ^ 6 + slot * 2 ^ 26 }

/-- A flit replaced. -/
def Part.setFlit (q : Part) (f : Flit) : Part := { q with flits := q.flits.map fun g => if g.id = f.id then f else g }

/-- What a lost cycle of a flit does to the transaction or element that it serves: its performance or arrival, and its
answer, come one cycle later if the flit is the last of its message (R175). -/
def Part.delayJob (q : Part) (f : Flit) : Part :=
  match f.kind with
  | .stream => q
  | .ack => { q with xacts := q.xacts.map fun (x : Xact) => if x.id = f.job then { x with answer := x.answer + 1 } else x }
  | .putAddr => q
  | .putData =>
    if q.flits.any fun g => g.job == f.job && g.kind == .putData && decide (f.q < g.q) then q
    else
      { q with xacts := q.xacts.map fun (x : Xact) =>
          if x.id = f.job then { x with perform := x.perform + 1, answer := x.answer + 1 } else x }
  | .engine =>
    { q with elems := q.elems.map fun (e : Element) =>
        if e.id = f.job ∧ e.arrive = f.arrives then { e with arrive := e.arrive + 1 } else e }

/-- Where a reduction word is bound: the origin, or the member that it is broadcast to. -/
def RedWord.dst (w : RedWord) (x0 y0 : Nat) : Coord := if w.key.get then w.tile else ⟨x0 + w.key.gx, y0 + w.key.gy⟩

/-- A damaged stage of the output that a flit takes in this cycle, or its damaged place in the safety net, is read: the
router's cycle fault; the flit goes on, and what comes there next is whole (R272; log entry 36). -/
def State.routerRead (s : State) (q : Part) (c : Claimant) : State :=
  let n := c.claim.out + c.caught.getD 0 * 2 ^ 3
  if damaged (s.tile c.claim.at').damage 0x25 n then
    (s.cycleFault q.pid (unitRecord c.claim.at' .access q.cyc 1 { code := fcEccLocal, reason := 0x25, info := n })).modTile c.claim.at' fun tl =>
      { tl with damage := mend 0x25 [n] tl.damage }
  else s

/-- The slot of a router's safety net that something caught in cycle p takes: the lowest that nothing caught there in this cycle has;
what was caught in the cycle before leaves its slot in this one (log entry 46). -/
def Part.freeSlot (q : Part) (id p : Nat) (c : Claim) : Nat :=
  let at' (x : Option (Nat × Nat)) (d : Option Claim) : Option Nat :=
    if (d.any fun d => d.at' == c.at') then x.bind fun y => if y.1 = p + 1 then some y.2 else none else none
  let used := (q.flits.filter fun f => f.id != id).filterMap (fun f => at' f.caught (f.claim p)) ++
    (q.redWords.filter fun w => w.id != id).filterMap fun w => at' w.caught (w.claim q.x0 q.y0 p)
  ((List.range 64).find? fun n => !used.contains n).getD 0

/-- Whether a contribution has reached an output by the end of cycle p. -/
def RedWord.reached (w : RedWord) (x0 y0 p : Nat) (o : Coord × Nat) : Bool := (w.claimAt x0 y0 o).any fun n => decide (n ≤ p)

/-- The contributions that meet at an output: each waits in its combining stage until the last of them reaches it (R396). -/
def waitAt (x0 y0 : Nat) (ws : List RedWord) (o : Coord × Nat) : List RedWord :=
  let t := (ws.filterMap fun w => w.claimAt x0 y0 o).foldl max 0
  ws.map fun w => match w.claimAt x0 y0 o with
    | none => w
    | some n => w.withLate x0 y0 (w.late ++ List.replicate (t - n) o)

/-- The contributions of one key after a catch, brought together at every output that is still to come, from the first on: only the
cycle lost at `o`, one lost at another output in the same cycle p and those lost before stand. -/
def waitAll (x0 y0 p : Nat) (o : Coord × Nat) (ws : List RedWord) : List RedWord :=
  let bare := ws.map fun w =>
    w.withLate x0 y0 (w.late.filter fun l => l == o || w.reached x0 y0 (if caughtIn w.caught p then p + 1 else p) l)
  let outs := (bare.flatMap fun w => (w.claims x0 y0 []).map fun c => (c.1, c.2.at', c.2.out)).eraseDups.mergeSort fun a b => decide (a.1 ≤ b.1)
  (outs.filter fun c => bare.all fun w => !w.reached x0 y0 p c.2).foldl (fun l c => waitAt x0 y0 l c.2) bare

/-- A combined or broadcast word that loses an output is caught there: all that it combines or serves lose the cycle, and the words that
it is still to meet, at the next output and at every later one, wait for it in their combining stages (R396). -/
def Part.catchWord (q : Part) (w : RedWord) (c : Claim) (slot p : Nat) : Part :=
  let o := (c.at', c.out)
  let hit := q.redWords.map fun (v : RedWord) =>
    if v.key = w.key ∧ v.claim q.x0 q.y0 p = some c then { v.delayed q.x0 q.y0 o with caught := some (p + 1, slot) } else v
  let mine := if w.key.get then [] else waitAll q.x0 q.y0 p o (hit.filter fun v => v.key == w.key)
  { q with redWords := hit.map fun v => (mine.find? fun x => x.id == v.id).getD v }

/-- FLIT_HOP: a flit or reduction word takes the output it wants in this cycle, or is caught and loses one cycle (R174,
R175, R396). -/
def execFlitHop (pid id : Nat) (s : State) : Out :=
  match s.part pid with
  | none => .next s
  | some q =>
    let l := q.claimants q.cyc
    match l.find? fun c => c.id == id with
    | none => .next s
    | some c =>
      -- a combined word is one flit: it hops with the first of the words that it combines (R396)
      if l.any fun g => g.key.isSome && g.key == c.key && g.claim.at' == c.claim.at' && g.claim.out == c.claim.out && decide (g.id < id) then
        .next s
      else if q.takes id q.cyc then .next (s.routerRead q c)
      else
        let slot := q.freeSlot id q.cyc c.claim
        match q.flits.find? fun f => f.id == id with
        | some f =>
          .next ((s.routerRead q c).modPart pid fun q =>
            ((q.delayJob f).setFlit { f with caught := some (q.cyc + 1, slot), delay := f.delay + 1 }).take
              (caughtRecord q f.dst f.kind.code c.claim slot q.cyc))
        | none =>
          match q.redWords.find? fun w => w.id == id with
          | none => .next s
          | some w =>
            .next ((s.routerRead q c).modPart pid fun q =>
              (q.catchWord w c.claim slot q.cyc).take (caughtRecord q (w.dst q.x0 q.y0) 3 c.claim slot q.cyc))

/-- A flit put into the mesh. -/
def Part.inject (q : Part) (kind : FlitKind) (src dst : Coord) (c : Nat) (v : DWord) (job : Nat) (port : Option PortWord) : Part :=
  { q with
    flits := q.flits ++ [{ id := q.next, kind := kind, src := src, dst := dst, q := c, payload := v, delay := 0,
                           caught := none, job := job, port := port, inp := 4 }]
    next := q.next + 1 }

/-- The two halves of a quad put into the mesh in cycles c and c + 1. -/
def Part.injectQuad (q : Part) (kind : FlitKind) (src dst : Coord) (c : Nat) (v : Quad) (port : Nat → Option PortWord) : Part :=
  ((q.inject kind src dst c (v.setWidth 64) 0 (port 0)).inject kind src dst (c + 1) ((v >>> 64).setWidth 64) 0 (port 1))

end Sys2Proof.Machine
end

