-- ==== Sys2Proof/Machine/Exchange.lean ====
section
/-! DEFINITION. The exchange forms: streams, puts, the Turnstile arrival, checks, semaphores, helpers, time and marks
(R180 to R193), and fence in a tile (R238). -/

namespace Sys2Proof.Machine

/-- A tile context of an issue. -/
structure TileCx where
  t : Coord
  k : Side
  j : Fin 4
  tile : Tile
  part : Part

/-- The tile context, or ILLEGAL on a hub (R70, R180). -/
def Cx.tile (cx : Cx) : Chk TileCx :=
  match cx.wh with
  | .tile t k j tl q => .ok ⟨t, k, j, tl, q⟩
  | .hub .. => .error { code := fcIllegal }

/-- An instruction that issues in tile contexts only. -/
def tileForm (i : Instr) (f : TileCx → Cx → State → Chk State) (s : State) : Out :=
  issue i noPre (fun cx s =>
    match cx.tile with
    | .error e => .error e
    | .ok tc =>
      match f tc cx s with
      | .error e => .error e
      | .ok s' => .ok (s', .seq)) s

/-- A quad of a tile's memory. -/
def State.tileQuad (s : State) (t : Coord) (off : Nat) : Quad := BitVec.ofNat 128 (Mem.readLE s.mem (tileAddr t off) 16)

/-- An S-format offset in units. -/
def sOff (off : BitVec 11) (unit : Nat) : Int := off.toInt * unit

/-! ### Streams (R181, R182) -/

/-- Where a send goes: the destination tile, or the attachment tile of its port with the words' place in the transfer. -/
structure SendDst where
  dst : Coord
  port : Nat → Option PortWord

/-- The destination that the matching entry gives a send of n quads (R177, R360). -/
def TileCx.sendDst (tc : TileCx) (p n : Nat) : SendDst :=
  match tc.part.place tc.t p with
  | none => ⟨tc.t, fun _ => none⟩
  | some pl =>
    if pl.edge then
      match tc.part.tt.edge.toArray[pl.index]? with
      | none => ⟨tc.t, fun _ => none⟩
      | some e =>
        ⟨(attach e.port).1, fun j => some { port := e.port, slot := e.slot, ss := tc.part.ss, peer := e.peer, quads := n, j := j }⟩
    else ⟨pl.dst, fun _ => none⟩

/-- A send in progress injects quad k, read in cycle n0 + 2k; a damaged quad is sent and raises its fault (R181, R272). -/
def State.sendQuad (s : State) (pid : Nat) (t : Coord) (d : SendSt) (k : Nat) : State :=
  let off := d.off + 16 * k
  let v := s.tileQuad t off
  let c := d.n0 + 2 * k
  let tl := s.tile t
  s.modPart pid fun q =>
    let q1 := q.injectQuad .stream t d.dst c v fun h => d.port.map fun w => { w with j := 2 * k + h }
    match tl.eccAt off 16 with
    | none => q1
    | some f => q1.take (coreRecord t .access d.slot.val c 1 0 0 f)

/-- The sends of a tile that read a quad in cycle p go on; those that have sent all are over (R181, R384). -/
def State.continueSends (s : State) (pid : Nat) (t : Coord) (p : Nat) : State :=
  let s1 := (s.tile t).sends.foldl (fun s d =>
    if d.n0 < p ∧ (p - d.n0) % 2 = 0 ∧ (p - d.n0) / 2 < d.n then s.sendQuad pid t d ((p - d.n0) / 2) else s) s
  s1.modTile t fun tl => { tl with sends := tl.sends.filter fun d => decide (p < d.n0 + 2 * d.n) }

/-- A send of n quads begins (R181). -/
def State.beginSend (s : State) (pid : Nat) (t : Coord) (d : SendSt) : State :=
  (s.modTile t fun tl => { tl with sends := tl.sends ++ [d] }).sendQuad pid t d 0

/-- xmit (R181). -/
def execXmit (a : RegNo) (s : State) : Out :=
  tileForm (.xmit a) (fun tc cx s =>
    let d := tc.sendDst cx.n 1
    .ok (s.modPart tc.part.pid fun q => q.injectQuad .stream tc.t d.dst cx.n (cx.data a) d.port)) s

/-- xmit.m (R181). -/
def execXmitM (a : RegNo) (cnt : BitVec 11) (s : State) : Out :=
  tileForm (.xmitM a cnt) (fun tc cx s =>
    let n := cnt.toNat + 1
    match checkSpan (cx.read a) 0 (16 * n) pLD 16 0 0x8000 with
    | .error e => .error e
    | .ok off =>
      let d := tc.sendDst cx.n n
      .ok (s.beginSend tc.part.pid tc.t { n0 := cx.n, n := n, off := off, slot := tc.j, dst := d.dst, port := d.port 0,
                                          step := none })) s

/-- A catch begins: the first flit is taken, or the form slips (R182). -/
def beginCatch (tc : TileCx) (cx : Cx) (off n : Nat) (many : Bool) (s : State) : Chk State :=
  match tc.part.streamAt tc.t cx.n with
  | none => .error { code := fcSlipEmpty, reason := rsCheck }
  | some f =>
    .ok (s.modTile tc.t fun tl =>
      { tl with catches := tl.catches ++ [⟨cx.n, n, off, tc.j, some f.payload, true, many⟩] })

/-- catch (R182). -/
def execCatch (a : RegNo) (off : BitVec 11) (s : State) : Out :=
  tileForm (.catchOne a off) (fun tc cx s =>
    match checkLocal (cx.read a) (sOff off 16) 16 pST 0 0x8000 with
    | .error e => .error e
    | .ok o => beginCatch tc cx o 1 false s) s

/-- catch.m (R182). -/
def execCatchM (a : RegNo) (cnt : BitVec 11) (s : State) : Out :=
  tileForm (.catchM a cnt) (fun tc cx s =>
    match checkSpan (cx.read a) 0 (16 * (cnt.toNat + 1)) pST 16 0 0x8000 with
    | .error e => .error e
    | .ok o => beginCatch tc cx o (cnt.toNat + 1) true s) s

/-- A quad written by a catch at the end of cycle c (R182). -/
def catchWrite (t : Coord) (cs : CatchSt) (k : Nat) (v : Quad) : Eff :=
  .store (cs.off + 16 * k) (leBytes 16 v.toNat) false true ⟨1, 0, cs.slot.val, 0, t.x, t.y, none⟩

/-- A catch in its cycle p after the first: the flit of that cycle is taken, a quad whose two halves came is written, and
an absent flit is a cycle fault (R182). -/
def State.catchTurn (s : State) (pid : Nat) (t : Coord) (p : Nat) (cs : CatchSt) : State × Option CatchSt :=
  let i := p - cs.a
  if p ≤ cs.a ∨ 2 * cs.n ≤ i then (s, if 2 * cs.n ≤ i then none else some cs)
  else
    let f := (s.part pid).bind fun q => q.streamAt t p
    let s1 := if f.isSome then s else s.modPart pid fun q =>
      q.take (coreRecord t .access cs.slot.val p 1 0 0 { code := fcSlipEmpty, reason := rsCheck, info := i / 2 })
    if i % 2 = 0 then (s1, some { cs with low := f.map Flit.payload })
    else
      let s2 := match cs.low, f with
        | some lo, some hi =>
          s1.modTile t fun tl => tl.push (p + 2) (catchWrite t cs (i / 2) (hi.payload ++ lo))
        | _, _ => s1
      (s2, if i + 1 = 2 * cs.n then none else some cs)

/-- CATCH_FLIT_TAKE: the catches of a tile take the flits of this cycle (R182). -/
def execCatchFlitTake (t : Coord) (s : State) : Out :=
  match s.partOf t with
  | none => .next s
  | some q =>
    let r := (s.tile t).catches.foldl (fun (acc : State × List CatchSt) cs =>
      let r := acc.1.catchTurn q.pid t q.cyc cs
      (r.1, acc.2 ++ r.2.toList)) (s, [])
    .next (r.1.modTile t fun tl => { tl with catches := r.2 })

/-! ### Puts, seal and fence -/

/-- The home of a put or space-1 atomic: its tile and offset below 0x8000, or ADDR_SPACE (R183, R234). -/
def homeOf (a : DWord) : Chk (Coord × Nat) :=
  match space1 a.toNat with
  | some (h, off) => if off < 0x8000 then .ok (h, off) else .error { code := fcAddrSpace, info := a.toNat }
  | none => .error { code := fcAddrSpace, info := a.toNat }

/-- The lowest free journal entry (R183). -/
def Tile.freeEntry (tl : Tile) : Option (Fin 32) := (List.finRange 32).find? fun e => !tl.journal[e].v

/-- A put or space-1 atomic issued: its journal entry, ISS, its flits and its performance and answer (R183, R184, R228,
R236). `flits` are the words after the address flit. -/
def State.sendPut (s : State) (tc : TileCx) (n : Nat) (e : Fin 32) (home : Coord) (a : DWord) (op : Nat) (wide : Bool)
    (data cmp : DWord) (dreg : RegNo) (flits : List DWord) : State :=
  let T := routeT tc.t home
  let extra := flits.length - 1
  let id := tc.part.next
  let x : Xact := { id := id, src := tc.t, slot := tc.j, entry := e, home := home, addr := a, data := data, cmp := cmp, op := op,
                    wide := wide, dreg := dreg, ss := tc.part.ss, perform := n + T + 3 + extra, answer := n + 2 * T + 4 + extra,
                    performed := false, refused := false, collided := false, result := 0 }
  let je : JEntry := { addr := a, data := data, cmp := cmp, ss := BitVec.ofNat 32 tc.part.ss, op := BitVec.ofNat 8 op, v := true,
                       wide := wide, slot := tc.j, dreg := dreg }
  let head : DWord := a ||| BitVec.ofNat 64 (op * 2 ^ 52) ||| (if op != 0 && wide then BitVec.ofNat 64 (2 ^ 50) else 0)
  let s1 := s.modTile tc.t fun tl =>
    let tl1 := { tl with journal := tl.journal.set e je, iss := tl.iss + 1, damage := mend 0x26 [e.val] tl.damage }
    if op = 0 ∨ dreg = 0 then tl1 else tl1.push (2 ^ 64) (.xreg tc.j id)
  s1.modPart tc.part.pid fun q =>
    let q1 := { q with next := q.next + 1, xacts := q.xacts ++ [x] }
    (flits.zipIdx.foldl (fun q p => q.inject .putData tc.t home (n + 1 + p.2) p.1 id none)
      (q1.inject .putAddr tc.t home n head id none))

/-- put (R183). -/
def execPut (d a : RegNo) (off : BitVec 11) (s : State) : Out :=
  tileForm (.put d a off) (fun tc cx s =>
    match checkCap (cx.read a) (sOff off 8) 8 (pST ||| pGLB) with
    | .error e => .error e
    | .ok ad =>
      match checkSpacePerm (cx.read a) ad with
      | .error e => .error e
      | .ok () =>
        match (if spaceOf ad = 1 then homeOf ad else .error { code := fcAddrSpace, info := ad.toNat }) with
        | .error e => .error e
        | .ok (home, _) =>
          if !tc.part.holds home then .error { code := fcWindow, info := ad.toNat }
          else
            match tc.tile.freeEntry with
            | none => .error { code := fcSlipLate, reason := rsQueue }
            | some e =>
              let v : DWord := (cx.data d).setWidth 64
              .ok (s.sendPut tc cx.n e home ad 0 true v 0 0 [v])) s

/-- The unanswered puts of a superstep (R185). -/
def Tile.openPuts (tl : Tile) (ss : Nat) : Nat :=
  tl.journal.toList.countP fun e => e.v && e.op == 0 && e.ss.toNat == ss

/-- seal (R185). -/
def execSeal (s : State) : Out :=
  tileForm .sealOp (fun tc _ s =>
    let n := tc.tile.openPuts tc.part.ss
    if n = 0 then .ok s else .error { code := fcSlipEmpty, reason := rsCheck, info := n }) s

/-! ### The Turnstile arrival and checks -/

/-- Dt (R155). -/
def Part.dieEdges (q : Part) : Nat :=
  (q.x0 + q.lrec.w - 1) / 125 - q.x0 / 125 + ((q.y0 + q.lrec.h - 1) / 100 - q.y0 / 100)

/-- trn: the arrival of the issuing core, at the latest at U_s - Dt and once a superstep (R154, R186). -/
def execTrn (d : RegNo) (s : State) : Out :=
  tileForm (.trn d) (fun tc cx s =>
    let late := match tc.part.super with
      | none => false
      | some u => decide (u.b + u.c + u.x < cx.n + tc.part.dt)
    if late || (tc.tile.core tc.k).trn then
      .error { code := fcSlipLate, reason := rsTurnstile, info := tc.part.ss }
    else
      .ok ((s.modTile tc.t fun tl => tl.setCore tc.k { tl.core tc.k with trn := true }).result cx d 1
        (.plain (BitVec.ofNat 128 (tc.part.ss % 2 ^ 32))))) s

/-- A failed check (R187). -/
def chkFlt (info : Nat) : Flt := { code := fcSlipEmpty, reason := rsCheck, info := info }

/-- chk.lq (R187). -/
def execChkLq (k : BitVec 4) (s : State) : Out :=
  tileForm (.chkLq k) (fun tc _ s => if k.toNat ≤ tc.tile.lq.length then .ok s else .error (chkFlt k.toNat)) s

/-- chk.fe (R187). -/
def execChkFe (a : RegNo) (off : BitVec 11) (s : State) : Out :=
  tileForm (.chkFe a off) (fun tc cx s =>
    match checkLocal (cx.read a) (sOff off 8) 8 (pLD ||| pFE) 0 0x8000 with
    | .error e => .error e
    | .ok o => if s.isFull tc.t o then .ok s else .error (chkFlt o)) s

/-- chk.wp (R187). -/
def execChkWp (a : RegNo) (ch : Fin 4) (s : State) : Out :=
  tileForm (.chkWp a ch) (fun tc cx s =>
    let th : DWord := (cx.data a).setWidth 64
    if th.toNat ≤ tc.tile.chans[ch].wp.toNat then .ok s else .error (chkFlt th.toNat)) s

/-! ### Semaphores, helpers, time, marks -/

/-- A semaphore number. -/
def semIx (k : BitVec 4) : Fin 16 := k.toFin

/-- sem.up (R188). -/
def execSemUp (a : RegNo) (k : BitVec 4) (s : State) : Out :=
  tileForm (.semUp a k) (fun tc cx s => .ok (s.due cx (cx.n + 3) (.semAdd tc.k tc.j (semIx k) ((cx.data a).setWidth 32)))) s

/-- What the access core's sem.chk of this cycle has taken from a semaphore, as the execute core's test sees it (R188). -/
def Tile.semTaken (tl : Tile) (k : Fin 16) (n : Nat) : BitVec 32 :=
  tl.pend.foldl (fun acc p => match p.eff with | .semSub _ _ j v => if j = k ∧ p.due = n then acc + v else acc | _ => acc) 0

/-- sem.chk (R188). -/
def execSemChk (a : RegNo) (k : BitVec 4) (s : State) : Out :=
  tileForm (.semChk a k) (fun tc cx s =>
    let v : BitVec 32 := (cx.data a).setWidth 32
    let have' := tc.tile.sem[semIx k] - (if tc.k = .execute then tc.tile.semTaken (semIx k) cx.n else 0)
    if v.toNat ≤ have'.toNat then .ok (s.due cx cx.n (.semSub tc.k tc.j (semIx k) v)) else .error (chkFlt v.toNat)) s

/-- resync: the Turnstile of this superstep becomes a resync Turnstile; without a troupe it has no effect (R189). -/
def execResync (s : State) : Out :=
  tileForm .resync (fun tc _ s =>
    if tc.part.inTroupe then .ok (s.modPart tc.part.pid fun q => { q with resync := true }) else .ok s) s

/-- A register result of a slot that is still due (R190). -/
def Eff.resultOf (e : Eff) (k : Side) (j : Fin 4) : Bool :=
  match e with
  | .creg k' j' _ _ => k' == k && j' == j
  | .flOr j' _ => k == .execute && j' == j
  | .flSet k' j' _ | .fmSet k' j' _ | .srSet k' j' _ | .sSet k' j' _ _ => k' == k && j' == j
  | .sByte j' _ _ _ => k == .execute && j' == j
  | .xreg j' _ => k == .access && j' == j
  | _ => false

/-- start: the slot's registers and its fetch buffer are written anew (R190, R272). -/
def execStart (d a : RegNo) (k : BitVec 2) (s : State) : Out :=
  tileForm (.start d a k) (fun tc cx s =>
    let slot : Fin 4 := k.toFin
    if (tc.tile.slot tc.k slot).live then .error { code := fcSlipLate, reason := rsStart, info := k.toNat }
    else
      let pcc := enterCap (cx.read a)
      let v := cx.read d
      let new : Slot :=
        { c := (Vector.replicate 32 .zero).set 1 v, pcc := pcc, s := cx.slot.s, fm := cx.slot.fm, fl := 0, sr := cx.slot.sr,
          live := true, fbuf := cx.refill s.mem (capCur pcc.data), loop := ⟨0, 0, 0, false⟩, hold := none }
      .ok (s.modTile tc.t fun tl =>
        { tl.setSlot tc.k slot new with
          damage := mendFetch tc.k slot (fourWords (capCur pcc.data)) none (mend 0x21 (slotKeys tc.k slot) tl.damage)
          pend := (tl.pend.filter fun p => !p.eff.resultOf tc.k slot) ++ [⟨cx.n + 3, .ready tc.k slot⟩] })) s

/-- stop (R191). -/
def execStop (s : State) : Out :=
  tileForm .stop (fun _ cx s =>
    .ok (s.modCtx cx fun sl => { sl with live := false, loop := { sl.loop with active := false } })) s

/-- rmt (R192). -/
def execRmt (d : RegNo) (sel : BitVec 3) (s : State) : Out :=
  issueResult (.rmt d sel) d 1 (fun cx =>
    .plain (BitVec.ofNat 128 (match cx.wh with
      | .hub .. => if sel = 0 then cx.n % 2 ^ 64 else 0
      | .tile t _ _ _ q =>
        match sel.toNat with
        | 0 => (q.tb + cx.n) % 2 ^ 64
        | 1 => cx.n % 2 ^ 64
        | 2 => q.ss % 2 ^ 32
        | 3 => (t.x - q.x0) + (t.y - q.y0) * 2 ^ 16
        | _ => t.x + t.y * 2 ^ 16))) s

/-- mark (R193). -/
def execMark (a : RegNo) (mtag : BitVec 11) (s : State) : Out :=
  tileForm (.mark a mtag) (fun tc cx s =>
    let time := (tc.part.tb + cx.n) % 2 ^ 64
    let who := (if tc.k = .execute then 1 else 0) + 2 * tc.j.val
    .ok (s.due cx cx.n (.mark (BitVec.ofNat 128
      (time + (cx.data a).toNat % 2 ^ 48 * 2 ^ 64 + (mtag.toNat + who * 2 ^ 11) * 2 ^ 112))))) s

end Sys2Proof.Machine
end

