-- ==== Sys2Proof/Machine/Matrix.lean ====
section
/-! DEFINITION. The matrix unit: mma, the accumulator forms and the geometry register (R122 to R139, R48 to R51). -/

namespace Sys2Proof.Machine

/-! ### Geometry and accumulators -/

/-- The offsets (dr, dc) of accumulator k under an arrangement (R130). -/
def zarrOffset (zarr k : Nat) : Nat × Nat :=
  match zarr with
  | 0 => (0, 0)
  | 1 => (0, 8 * k)
  | 2 => (8 * k, 0)
  | _ => (8 * (k / 2), 8 * (k % 2))

/-- The tensor coordinates of element e of accumulator k (R130). -/
def Mg.coords (g : Mg) (k e : Nat) : Nat × Nat :=
  let o := zarrOffset g.zarr.toNat k
  ((g.row0.toNat + o.1 + e / 8) % 2 ^ 32, (g.col0.toNat + o.2 + e % 8) % 2 ^ 32)

/-- Whether element e of accumulator k is live (R130). -/
def Mg.live (g : Mg) (mask : BitVec 64) (k e : Nat) : Bool :=
  let c := g.coords k e
  mask.getLsbD e && (g.mdim == 0 || decide (c.1 < g.mdim.toNat)) && (g.ndim == 0 || decide (c.2 < g.ndim.toNat))

/-- acc_add (R50). -/
def Acc.add (z : Acc) (e : Nat) (v : Int) : Acc :=
  if h : e < 64 then
    let t := z.el[e].toInt + v
    { z with el := z.el.set e (BitVec.ofInt 96 t), ov := z.ov || decide (t < -2 ^ 95 ∨ 2 ^ 95 - 1 < t) }
  else z

/-- Contributions added in order. -/
def Acc.addAll (z : Acc) (l : List (Nat × Int)) : Acc := l.foldl (fun z p => z.add p.1 p.2) z

/-- An accumulator cleared; with an anchor, at that anchor (R133). -/
def Acc.clear (z : Acc) (anchor : Option (BitVec 10)) : Acc :=
  { z with el := Vector.replicate 64 0, ov := false, iv := false, anchor := anchor.getD z.anchor }

/-- The fault of reading a damaged anchor or element of accumulator z (R272, R397; log entry 36). -/
def Tile.accEcc (tl : Tile) (z : Fin 4) (els : List Nat) : Option Flt :=
  if damaged tl.damage 0x22 (2 ^ 8 + z.val) then some { code := fcEccLocal, reason := 0x22, info := z.val }
  else
    (els.find? fun e => damaged tl.damage 0x22 (z.val + 4 * e)).map fun e =>
      { code := fcEccLocal, reason := 0x22, info := z.val + 4 * e }

/-! ### mma -/

/-- floor_to_anchor of an exact sum of terms m 2^e (R49). -/
def floorSum (anc : Int) (l : List (Int × Int)) : Int :=
  let e0 := l.foldl (fun a p => min a p.2) anc
  l.foldl (fun a p => a + p.1 * 2 ^ (p.2 - e0).toNat) 0 / 2 ^ (anc - e0).toNat

/-- The exact product of two scaled values as (m, e); none when either is not finite (R49). -/
def finTerm (x y : FVal) : Option (Int × Int) :=
  match x, y with
  | .fin s m e, .fin t n f => some (signedNum (s != t) (m * n), e + f)
  | _, _ => none

/-- The scale byte of element k of line i of an operand (R126). -/
def mmaScale (f : Fmt) (sc : Quad) (hi : BitVec 1) (i k : Nat) : Option (Nat × Int) :=
  if f.scale == .none then some (1, 0)
  else
    let byte := if f.tensor then 0 else if f.block = 16 then 2 * i + k / 16 else i + 8 * hi.toNat
    scaleVal f.scale (sc.toNat / 2 ^ (8 * byte) % 256)

/-- A line of 32 scaled elements from its bytes: row i of A or column i of B (R125, R126). -/
def mmaLine (l : List Byte) (f : Fmt) (sc : Quad) (hi : BitVec 1) (i : Nat) : List FVal :=
  (lanesOf (leNat l) f.elem.width 32).zipIdx.map fun p => scaledVal (f.elem.decode p.1) (mmaScale f sc hi i p.2)

/-- The contribution of one unit: its floored partial, or none when an input is not finite (R49). -/
def mmaUnit (anc : Int) (l : List (FVal × FVal)) : Option Int :=
  let t := l.map fun p => finTerm p.1 p.2
  if t.all Option.isSome then some (floorSum anc (t.filterMap id)) else none

/-- The contributions of one element, a unit after the other. -/
def mmaElement (anc : Int) (ul : Nat) (a b : List FVal) : List (Option Int) :=
  let l := a.zip b
  if ul = 16 then [mmaUnit anc (l.take 16), mmaUnit anc (l.drop 16)] else [mmaUnit anc l]

/-- The latency in turns of an mma of the wider element width (R127). -/
def mmaLatency (w : Nat) : Nat := if w ≤ 4 then 8 else if w ≤ 8 then 16 else if w ≤ 16 then 64 else 256

/-- check_span of the eight columns of B, in order; the answer is the first column's offset (R131). -/
def checkColumns (c : CReg) (rho : Nat) : Nat → Chk Unit
  | 0 => .ok ()
  | n + 1 =>
    let j := 7 - n
    match checkSpan c (0x2000 * j) rho pLD 8 (0x8000 + 0x2000 * j) (0xA000 + 0x2000 * j) with
    | .error e => .error e
    | .ok _ => checkColumns c rho n

/-- The operands' formats, or FORMAT (R131). -/
def mmaFormats (fm : BitVec 32) : Chk (Fmt × Fmt) :=
  match fmtOf (fmFA fm), fmtOf (fmFB fm) with
  | some fa, some fb => .ok (fa, fb)
  | _, _ => .error { code := fcFormat }

/-- The elements of accumulator z that are live. -/
def Tile.liveEls (tl : Tile) (z : Fin 4) : List Nat := (List.range 64).filter fun e => tl.mg.live tl.z[z].mask z.val e

/-- The mma in flight after the operands have been read (R128, R131). -/
def mmaForm (tc : TileCx) (cx : Cx) (m : List Host.Cell) (z : Fin 4) (fa fb : Fmt) (pa pb : Nat) (sa sb : Quad)
    (ha hb : BitVec 1) : MmaOp :=
  let ra := 4 * fa.elem.width
  let rb := 4 * fb.elem.width
  { z := z, issued := cx.n, lat := mmaLatency (max fa.elem.width fb.elem.width), fa := fmFA cx.slot.fm, fb := fmFB cx.slot.fm,
    anchor := tc.tile.z[z].anchor,
    live := BitVec.ofNat 64 ((tc.tile.liveEls z).map fun e => 2 ^ e).sum,
    rows := (List.range 8).map fun i => Mem.read m (tileAddr tc.t (pa + ra * i)) ra,
    cols := (List.range 8).map fun j => Mem.read m (tileAddr tc.t (pb + 0x2000 * j)) rb,
    sa := sa, sb := sb, ha := ha, hb := hb }

/-- The contributions of the live elements, one unit after the other, as R131 computes them from the operands as read; none
where an input is not finite. -/
def MmaOp.contributions (op : MmaOp) : List (Nat × List (Option Int)) :=
  match fmtOf op.fa, fmtOf op.fb with
  | some fa, some fb =>
    let rows := op.rows.zipIdx.map fun (p : List Byte × Nat) => mmaLine p.1 fa op.sa op.ha p.2
    let cols := op.cols.zipIdx.map fun (p : List Byte × Nat) => mmaLine p.1 fb op.sb op.hb p.2
    let ul := if fa.block = 16 ∨ fb.block = 16 then 16 else 32
    ((List.range 64).filter fun e => op.live.getLsbD e).map fun e =>
      (e, mmaElement op.anchor.toInt ul (rows.getD (e / 8) []) (cols.getD (e % 8) []))
  | _, _ => []

/-- An accumulator with an mma's contributions added; an input that is not finite sets IV (R49, R50). -/
def Acc.addMma (z : Acc) (op : MmaOp) : Acc :=
  let cs : List (Nat × List (Option Int)) := op.contributions
  let z1 : Acc := { z with iv := z.iv || cs.any fun p => p.2.any Option.isNone }
  z1.addAll (cs.flatMap fun p => p.2.map fun v => (p.1, v.getD 0))

/-- mma (R131). -/
def execMma (z : Fin 4) (a b : RegNo) (sca scb : BitVec 3) (ha hb : BitVec 1) (s : State) : Out :=
  let i : Instr := .mma z a b sca scb ha hb
  issue i
    (fun cx =>
      if (regDamage cx i).isSome then .ok ()
      else match mmaFormats cx.slot.fm with
        | .error e => .error e
        | .ok _ => .ok ())
    (fun cx s =>
      match cx.tile, mmaFormats cx.slot.fm with
      | .error e, _ => .error e
      | _, .error e => .error e
      | .ok tc, .ok (fa, fb) =>
        let ra := 4 * fa.elem.width
        let rb := 4 * fb.elem.width
        match checkSpan (cx.read a) 0 (8 * ra) pLD 16 0 0x8000 with
        | .error e => .error e
        | .ok pa =>
          match checkColumns (cx.read b) rb 8 with
          | .error e => .error e
          | .ok () =>
            let pb := (capCur (cx.data b)).toNat
            if tc.tile.mma.isSome then .error { code := fcCollision, reason := rsUnit }
            else
              match ((tc.tile.eccAt pa (8 * ra)).or
                  ((List.range 8).findSome? fun j => tc.tile.eccAt (pb + 0x2000 * j) rb)).or (tc.tile.accEcc z (tc.tile.liveEls z)) with
              | some e => .error e
              | none =>
                let op := mmaForm tc cx s.mem z fa fb pa pb (cx.scale sca) (cx.scale scb) ha hb
                .ok (s.modTile tc.t fun tl => { tl with mma := some op, damage := mend 0x22 [2 ^ 9] tl.damage }, .seq)) s

/-- At the end of the mma's last cycle its contributions are added; a damaged stage of the MXU that it reads then is a cycle
fault of the execute core that withholds nothing (R128, R131, R272; log entry 36). -/
def execMmaComplete (t : Coord) (s : State) : Out :=
  match s.partOf t, (s.tile t).mma with
  | some q, some op =>
    if op.due ≤ q.cyc then
      let s1 := s.modTile t fun tl => { tl with mma := none, z := tl.z.set op.z (tl.z[op.z].addMma op) }
      .next (if damaged (s.tile t).damage 0x22 (2 ^ 9) then
          s1.cycleFault q.pid (coreRecord t .execute 0 q.cyc 1 0 0 { code := fcEccLocal, reason := 0x22, info := op.z.val })
        else s1)
    else .next s
  | _, _ => .next s

/-! ### The other matrix forms -/

/-- A matrix form with an effect due at the end of its one turn. -/
def matForm (i : Instr) (f : Fin 4 → Cx → Eff) (s : State) : Out :=
  tileForm i (fun tc cx s => .ok (s.due cx (cx.n + 3) (f tc.j cx))) s

/-- mz.clr (R133). -/
def execMzClr (z : Fin 4) (s : State) : Out := matForm (.mzClr z) (fun j _ => .accClear j z none) s
/-- mz.anc (R133). -/
def execMzAnc (a : RegNo) (z : Fin 4) (s : State) : Out :=
  matForm (.mzAnc a z) (fun j cx => .accClear j z (some ((cx.data a).setWidth 10))) s

/-- One lane of mz.rd (R136). -/
def mzLane (g : Mg) (k : Nat) (acc : Acc) (f : Elem) (rm : RMode) (sat : Bool) (sr : Quad) (e : Nat) : Nat × FlagSet :=
  if !g.live acc.mask k e then (0, flNone)
  else
    let v := (acc.el.toList.getD e 0).toInt
    let nd := scalePow v.natAbs 1 acc.anchor.toInt
    let x : XVal := if acc.iv then .nan else .fin (v < 0) nd.1 nd.2
    let c := g.coords k e
    roundToFormat x f rm sat (match rm with | .sr => elementLane sr c.1 c.2 | _ => 0)

/-- mz.rd (R136). -/
def execMzRd (d : RegNo) (sx : BitVec 2) (rmx : BitVec 3) (ty half : BitVec 1) (z : Fin 4) (row : BitVec 3) (s : State) :
    Out :=
  tileForm (.mzRd d sx rmx ty half z row) (fun tc cx s =>
    match rmxMode cx.slot.fm rmx with
    | none => .error { code := fcFormat }
    | some rm =>
      let acc := tc.tile.z[z]
      let f : Elem := if ty = 0 then .fp32 else .bf16
      let els := (List.range (if ty = 0 then 4 else 8)).map fun l => 8 * row.toNat + 4 * half.toNat + l
      match tc.tile.accEcc z (els.filter fun e => tc.tile.mg.live acc.mask z.val e) with
      | some e => .error e
      | none =>
        let r := packResults f.width (els.map (mzLane tc.tile.mg z.val acc f rm (sxSat cx.slot.fm sx) cx.slot.sr))
        let fl := if acc.ov then r.2 ||| flOF else r.2
        .ok ((s.result cx d 4 (.plain r.1)).flags cx 4 fl)) s

/-- The bytes of a raw accumulator image (R137). -/
def Acc.image (z : Acc) : List Byte :=
  leBytes 16 (z.anchor.toNat + (if z.ov then 2 ^ 10 else 0) + (if z.iv then 2 ^ 11 else 0)) ++
    z.el.toList.flatMap fun v => leBytes 12 v.toNat

/-- mz.raw: the accumulator is read at issue and its image written at the end of n + 51 (R137). -/
def execMzRaw (a : RegNo) (z : Fin 4) (s : State) : Out :=
  tileForm (.mzRaw a z) (fun tc cx s =>
    match checkSpan (cx.read a) 0 784 pST 16 0 0x8000 with
    | .error e => .error e
    | .ok off =>
      if tc.tile.image.isSome then .error { code := fcCollision, reason := rsUnit }
      else
        match tc.tile.accEcc z (List.range 64) with
        | some e => .error e
        | none =>
          let acc := tc.tile.z[z]
          .ok (s.modTile tc.t fun tl =>
            { tl with image := some { z := z, due := cx.n + 51, add := false, addr := off, slot := tc.j,
                                      anchor := acc.anchor, ov := acc.ov, iv := acc.iv, el := acc.el.toList } })) s

/-- mz.add: the image is read at issue and added at the end of n + 51 (R137). DESIGN CHOICE: a damaged element of the accumulator is
found at issue, after COLLISION, a check that R137 does not list (R272; log entry 103). -/
def execMzAdd (a : RegNo) (z : Fin 4) (s : State) : Out :=
  tileForm (.mzAdd a z) (fun tc cx s =>
    match checkSpan (cx.read a) 0 784 pLD 16 0 0x8000 with
    | .error e => .error e
    | .ok off =>
      match (tc.tile.eccAt off 784).or (tc.tile.accEcc z []) with
      | some e => .error e
      | none =>
        let ga := tileAddr tc.t off
        let h := Mem.readLE s.mem ga 16
        let anc : BitVec 10 := BitVec.ofNat 10 h
        if anc ≠ tc.tile.z[z].anchor then .error { code := fcFormat }
        else if tc.tile.image.isSome then .error { code := fcCollision, reason := rsUnit }
        else
          match tc.tile.accEcc z (List.range 64) with
          | some e => .error e
          | none =>
            .ok (s.modTile tc.t fun tl =>
              { tl with image := some { z := z, due := cx.n + 51, add := true, addr := off, slot := tc.j, anchor := anc,
                                        ov := h.testBit 10, iv := h.testBit 11,
                                        el := (List.range 64).map fun e =>
                                          BitVec.ofNat 96 (Mem.readLE s.mem (ga + 16 + 12 * e) 12) } })) s

/-- An image addition (R129, R137). -/
def Acc.addImage (z : Acc) (op : ImageOp) : Acc :=
  let r := z.addAll (op.el.zipIdx.map fun (p : BitVec 96 × Nat) => (p.2, p.1.toInt))
  { r with ov := r.ov || op.ov, iv := r.iv || op.iv }

/-- At n + 51 the image of mz.raw falls due as a store of 49 quads, or the image of mz.add is added (R137). -/
def execImageTransferComplete (t : Coord) (s : State) : Out :=
  match s.partOf t, (s.tile t).image with
  | some q, some op =>
    if q.cyc < op.due then .next s
    else if op.add then
      .next (s.modTile t fun tl => { tl with image := none, z := tl.z.set op.z (tl.z[op.z].addImage op) })
    else
      let img : Acc := { el := Vector.ofFn fun e => op.el.getD e.val 0, anchor := op.anchor, ov := op.ov, iv := op.iv, mask := 0 }
      .next (s.modTile t fun tl =>
        { tl.push q.cyc (.store op.addr img.image false false ⟨6, 1, op.slot.val, 0, t.x, t.y, none⟩) with image := none })
  | _, _ => .next s

/-- mz.ovf (R138). -/
def execMzOvf (d : RegNo) (z : Fin 4) (clear : BitVec 1) (s : State) : Out :=
  tileForm (.mzOvf d z clear) (fun tc cx s =>
    let acc := tc.tile.z[z]
    let s1 := s.result cx d 1 (.plain (BitVec.ofNat 128 (acc.ov.toNat + 2 * acc.iv.toNat)))
    .ok (if clear = 1 then s1.due cx (cx.n + 3) (.ovClear tc.j z) else s1)) s

/-- The extent (RH, CW) of a tile's output under an arrangement (R135). -/
def zarrExtent (zarr : BitVec 2) : Nat × Nat :=
  match zarr.toNat with
  | 0 => (8, 8)
  | 1 => (8, 32)
  | 2 => (32, 8)
  | _ => (16, 16)

/-- mgeo (R135). -/
def execMgeo (d a : RegNo) (arr : BitVec 2) (s : State) : Out :=
  tileForm (.mgeo d a arr) (fun tc cx s =>
    let x := zarrExtent arr
    let row0 := BitVec.ofNat 32 ((tc.t.y - tc.part.y0) * x.1)
    let col0 := BitVec.ofNat 32 ((tc.t.x - tc.part.x0) * x.2)
    let v := cx.data a
    .ok ((s.due cx (cx.n + 3) (.mg tc.j ⟨arr, v.extractLsb' 32 32, v.extractLsb' 0 32, col0, row0⟩)).result cx d 1
      (.plain ((col0 ++ row0).setWidth 128)))) s

/-- mgeo.sub (R135). -/
def execMgeoSub (a : RegNo) (arr : BitVec 2) (s : State) : Out :=
  matForm (.mgeoSub a arr) (fun j cx =>
    let v := cx.data a
    .mg j ⟨arr, v.extractLsb' 96 32, v.extractLsb' 64 32, v.extractLsb' 32 32, v.extractLsb' 0 32⟩) s

/-- msk (R134). -/
def execMsk (a : RegNo) (z : Fin 4) (s : State) : Out := matForm (.msk a z) (fun j cx => .msk j z ((cx.data a).setWidth 64)) s

end Sys2Proof.Machine
end

