-- ==== Sys2Proof/Machine/Digest.lean ====
section
/-! DEFINITION. SHA-256, the digest of the error log's chain (R333), and AES-256-GMAC, the integrity tag of link flits (R363). The
manual names the functions; their definitions are those of FIPS 180-4, FIPS 197 and SP 800-38D (PRESUMED, log entries 15 and 93). -/

namespace Sys2Proof.Machine

/-- The round constants. -/
def shaK : List Word :=
  [0x428A2F98, 0x71374491, 0xB5C0FBCF, 0xE9B5DBA5, 0x3956C25B, 0x59F111F1, 0x923F82A4, 0xAB1C5ED5] ++
  [0xD807AA98, 0x12835B01, 0x243185BE, 0x550C7DC3, 0x72BE5D74, 0x80DEB1FE, 0x9BDC06A7, 0xC19BF174] ++
  [0xE49B69C1, 0xEFBE4786, 0x0FC19DC6, 0x240CA1CC, 0x2DE92C6F, 0x4A7484AA, 0x5CB0A9DC, 0x76F988DA] ++
  [0x983E5152, 0xA831C66D, 0xB00327C8, 0xBF597FC7, 0xC6E00BF3, 0xD5A79147, 0x06CA6351, 0x14292967] ++
  [0x27B70A85, 0x2E1B2138, 0x4D2C6DFC, 0x53380D13, 0x650A7354, 0x766A0ABB, 0x81C2C92E, 0x92722C85] ++
  [0xA2BFE8A1, 0xA81A664B, 0xC24B8B70, 0xC76C51A3, 0xD192E819, 0xD6990624, 0xF40E3585, 0x106AA070] ++
  [0x19A4C116, 0x1E376C08, 0x2748774C, 0x34B0BCB5, 0x391C0CB3, 0x4ED8AA4A, 0x5B9CCA4F, 0x682E6FF3] ++
  [0x748F82EE, 0x78A5636F, 0x84C87814, 0x8CC70208, 0x90BEFFFA, 0xA4506CEB, 0xBEF9A3F7, 0xC67178F2]

/-- The initial hash value. -/
def shaH : List Word :=
  [0x6A09E667, 0xBB67AE85, 0x3C6EF372, 0xA54FF53A, 0x510E527F, 0x9B05688C, 0x1F83D9AB, 0x5BE0CD19]

/-- Rotation to the right. -/
def rotr32 (x : Word) (n : Nat) : Word := x >>> n ||| x <<< (32 - n)

/-- Bytes as a big-endian number. -/
def beNat (l : List Byte) : Nat := l.foldl (fun n b => n * 256 + b.toNat) 0
/-- The `n` bytes of a number, highest first. -/
def beBytes (n v : Nat) : List Byte := (List.range n).map fun i => BitVec.ofNat 8 (v / 2 ^ (8 * (n - 1 - i)))

/-- A message padded to whole blocks of 64 bytes. -/
def shaPad (m : List Byte) : List Byte :=
  let z := (119 - m.length % 64) % 64
  m ++ 0x80#8 :: List.replicate z 0 ++ beBytes 8 (8 * m.length)

/-- The message schedule grown by `n` words; the latest word stands first. -/
def shaExpand : Nat → List Word → List Word
  | 0, w => w
  | n + 1, w =>
    let a := w.getD 1 0
    let b := w.getD 14 0
    let s1 := rotr32 a 17 ^^^ rotr32 a 19 ^^^ a >>> 10
    let s0 := rotr32 b 7 ^^^ rotr32 b 18 ^^^ b >>> 3
    shaExpand n ((s1 + w.getD 6 0 + s0 + w.getD 15 0) :: w)

/-- One round on the eight working words. -/
def shaRound (v : List Word) (kw : Word × Word) : List Word :=
  let x (i : Nat) : Word := v.getD i 0
  let e := x 4
  let t1 := x 7 + (rotr32 e 6 ^^^ rotr32 e 11 ^^^ rotr32 e 25) + ((e &&& x 5) ^^^ (~~~e &&& x 6)) + kw.1 + kw.2
  let a := x 0
  let t2 := (rotr32 a 2 ^^^ rotr32 a 13 ^^^ rotr32 a 22) + ((a &&& x 1) ^^^ (a &&& x 2) ^^^ (x 1 &&& x 2))
  [t1 + t2, a, x 1, x 2, x 3 + t1, e, x 5, x 6]

/-- The hash value after `n` blocks of a padded message. -/
def shaBlocks : Nat → List Byte → List Word → List Word
  | 0, _, h => h
  | n + 1, m, h =>
    let w := (List.range 16).map fun i => BitVec.ofNat 32 (beNat ((m.drop (4 * i)).take 4))
    let sch := (shaExpand 48 w.reverse).reverse
    let v := (shaK.zip sch).foldl shaRound h
    shaBlocks n (m.drop 64) (h.zipWith (· + ·) v)

/-- SHA-256: 32 bytes. -/
def sha256 (m : List Byte) : List Byte :=
  let p := shaPad m
  (shaBlocks (p.length / 64) p shaH).flatMap fun x => beBytes 4 x.toNat

/-! ### AES-256-GMAC, the tag of a group of link flits (R363; FIPS 197 and SP 800-38D, PRESUMED, log entry 93) -/

/-- Twice an element of the field of AES. -/
def xtime (b : Byte) : Byte := b <<< 1 ^^^ (if b.getLsbD 7 then 0x1B#8 else 0)

/-- The product of two elements of the field of AES, by the low `n` bits of the second. -/
def gfMul : Nat → Byte → Byte → Byte
  | 0, _, _ => 0
  | n + 1, a, b => (if b.getLsbD 0 then a else 0) ^^^ gfMul n (xtime a) (b >>> 1)

/-- The inverse in the field of AES, as the power 254. -/
def gfInv (b : Byte) : Byte :=
  ((List.range 7).foldl (fun (x : Byte × Byte) _ => let q := gfMul 8 x.2 x.2; (gfMul 8 x.1 q, q)) (1#8, b)).1

/-- The S-box: the inverse and an affine map. -/
def aesSub (b : Byte) : Byte :=
  let x := gfInv b
  x ^^^ x.rotateLeft 1 ^^^ x.rotateLeft 2 ^^^ x.rotateLeft 3 ^^^ x.rotateLeft 4 ^^^ 0x63#8

/-- Bytes added in the field. -/
def xorBytes (a b : List Byte) : List Byte := a.zipWith (· ^^^ ·) b

/-- The words of the key schedule from word `n` on, `k` of them; the words so far stand in front of them, in order. -/
def aesKeys : Nat → Nat → Byte → List (List Byte) → List (List Byte)
  | 0, _, _, ws => ws
  | k + 1, n, rcon, ws =>
    let t := ws.getD (n - 1) []
    let t' :=
      if n % 8 = 0 then xorBytes ((t.drop 1 ++ t.take 1).map aesSub) [rcon, 0, 0, 0]
      else if n % 8 = 4 then t.map aesSub
      else t
    aesKeys k (n + 1) (if n % 8 = 0 then xtime rcon else rcon) (ws ++ [xorBytes (ws.getD (n - 8) []) t'])

/-- The fifteen round keys of a 32-byte key. -/
def aesRoundKeys (key : List Byte) : List (List Byte) :=
  let ws := aesKeys 52 8 1 ((List.range 8).map fun i => (key.drop (4 * i)).take 4)
  (List.range 15).map fun r => ((ws.drop (4 * r)).take 4).flatten

/-- The byte substitution with the row shifts, on a block by columns. -/
def aesShift (b : List Byte) : List Byte := (List.range 16).map fun i => aesSub (b.getD ((i + 4 * (i % 4)) % 16) 0)

/-- The column mix. -/
def aesMix (b : List Byte) : List Byte :=
  (List.range 16).map fun i =>
    let x (k : Nat) : Byte := b.getD (i / 4 * 4 + (i + k) % 4) 0
    xtime (x 0) ^^^ xtime (x 1) ^^^ x 1 ^^^ x 2 ^^^ x 3

/-- The rounds after the first key. -/
def aesRounds : List (List Byte) → List Byte → List Byte
  | [], b => b
  | [k], b => xorBytes (aesShift b) k
  | k :: rest, b => aesRounds rest (xorBytes (aesMix (aesShift b)) k)

/-- AES-256 on one block of 16 bytes. -/
def aes256 (key b : List Byte) : List Byte :=
  match aesRoundKeys key with
  | [] => b
  | k :: rest => aesRounds rest (xorBytes b k)

/-- The product of two elements of the field of GHASH, bit 0 the highest; `n` bits of the first are left. -/
def ghashMul : Nat → Quad → Quad → Quad → Quad
  | 0, _, _, z => z
  | n + 1, x, v, z =>
    ghashMul n (x <<< 1) (v >>> 1 ^^^ (if v.getLsbD 0 then 0xE1000000000000000000000000000000#128 else 0))
      (if x.getLsbD 127 then z ^^^ v else z)

/-- GHASH of `n` blocks. -/
def ghash (h : Quad) : Nat → List Byte → Quad → Quad
  | 0, _, y => y
  | n + 1, l, y => ghash h n (l.drop 16) (ghashMul 128 (y ^^^ BitVec.ofNat 128 (beNat (l.take 16))) h 0)

/-- AES-256-GMAC of whole blocks under a 12-byte IV: 16 bytes. -/
def gmac (key iv l : List Byte) : List Byte :=
  let h : Quad := BitVec.ofNat 128 (beNat (aes256 key (List.replicate 16 0)))
  let m := l ++ beBytes 8 (8 * l.length) ++ List.replicate 8 0
  xorBytes (beBytes 16 (ghash h (m.length / 16) m 0).toNat) (aes256 key (iv ++ [0, 0, 0, 1]))

end Sys2Proof.Machine
end

