-- ==== Sys2Proof/Machine/Log.lean ====
section
/-! DEFINITION. The error log, its signatures, the notice ring, lasting faults and spare tiles (R331 to R338), and
bring-up (R341). -/

namespace Sys2Proof.Machine

/-- Bytes that the Ringmaster writes to HBM: a loose access in its home's order (R212, R231). -/
def State.hbmStore (s : State) (a : Nat) (data : List Byte) : State :=
  s.arriveHbm { src := .host, op := .write, addr := BitVec.ofNat 64 (hbmAddr a), size := data.length, data := data,
                cmp := 0, sys := true } a

/-- The Ringmaster block changed. -/
def State.modRing (s : State) (f : Ring → Ring) : State := { s with ring := f s.ring }

/-- Bytes written at a space 2 address of a ring, wherever its base puts it; an address outside HBM takes nothing (DESIGN CHOICE, log entry
119). -/
def State.ringStore (s : State) (base : DWord) (off : Nat) (data : List Byte) : State :=
  match space2 (base.toNat + off), spaceOf base with
  | some a, 2 => s.hbmStore a data
  | _, _ => s

/-! ### Notices -/

/-- Whether a write of `n` bytes at a ring's offset would be held at a running owner's pseudo-channel (R212). -/
def State.ringBusy (s : State) (base : DWord) (off n : Nat) : Bool :=
  match space2 (base.toNat + off), spaceOf base with
  | some a, 2 => s.pcBusy (pcOf a) || s.pcBusy (pcOf (a + n - 1))
  | _, _ => false

/-- The size of a ring whose size register holds a logarithm; one outside R328's range counts modulo 32 (DESIGN CHOICE, log entry 119). -/
def ringSize (v : DWord) : Nat := 2 ^ (v.toNat % 32)

/-- The bytes of notice j, written at device RMT `rmt` (R331). -/
def noticeBytes (j rmt : Nat) (n : Notice) : List Byte :=
  leBytes 8 j ++ leBytes 2 n.kind ++ leBytes 6 0 ++ leBytes 16 n.header.toNat ++ (n.body ++ leBytes 32 0).take 32 ++
    leBytes 8 rmt ++ leBytes 56 0

/-- Whether the next notice can be written: the ring is fixed and has space, and no running owner holds the write (R212, R331). -/
def State.noticeOpen (s : State) : Bool :=
  s.ring.latched && decide (s.ring.ntail.toNat - s.ring.nhead.toNat < ringSize s.ring.nsize) &&
    !s.ringBusy s.ring.nbase (128 * (s.ring.ntail.toNat % ringSize s.ring.nsize)) 128

/-- The oldest notices written as far as the ring has space and its memory takes them; NTAIL moves past each as it is written, and the
host's time for a message counts from then (R331). -/
def State.flushNotices : Nat → State → State
  | 0, s => s
  | fuel + 1, s =>
    match s.ring.notices with
    | [] => s
    | n :: rest =>
      if s.noticeOpen then
        let j := s.ring.ntail.toNat
        let s1 := s.ringStore s.ring.nbase (128 * (j % ringSize s.ring.nsize)) (noticeBytes j s.rmt n)
        let s2 := s1.modRing fun r => { r with ntail := r.ntail + 1, notices := rest }
        State.flushNotices fuel { s2 with
          messages := s2.messages.map fun (m : Message) => if m.ticket = n.ticket ∧ m.level = 3 then { m with posted := s.rmt } else m }
      else s

/-- NOTICE_POST: a notice is written, or kept in the Ringmaster hub's SRAM, which holds 2,048 (R331). -/
def State.postNotice (s : State) (n : Notice) : State :=
  let s1 := if s.ring.notices.length < 2048 then s.modRing fun r => { r with notices := r.notices ++ [n] } else s
  s1.flushNotices (s1.ring.notices.length)

/-- The header of a message (R280). -/
def Message.header (m : Message) : Quad :=
  BitVec.ofNat 128 (m.loc % 2 ^ 40 * 2 ^ 80 + m.reason % 2 ^ 8 * 2 ^ 72 + m.code % 2 ^ 8 * 2 ^ 64 +
    m.nrec % 2 ^ 32 * 2 ^ 32 + m.level % 4 * 2 ^ 26 + (if m.trunc then 2 ^ 25 else 0) +
    (if m.origin then 2 ^ 24 else 0) + m.pid % 64 * 2 ^ 16 + m.ticket)

/-- Notice 0x8001 for each message that has come to the host (R279, R331). -/
def State.hostNotices (s : State) : State :=
  let new := s.messages.filter fun (m : Message) => m.level == 3 && !m.popped
  let s1 := { s with messages := s.messages.map fun (m : Message) => if m.level = 3 then { m with popped := true } else m }
  new.foldl (fun s (m : Message) => s.postNotice ⟨0x8001, m.header, m.ticket, m.first.bytes⟩) s1

/-! ### The error log -/

/-- The log public key of this power-on (R342): free. -/
def logKey : List Byte := (List.range 48).map Config.logKeyByte

/-- A log record's 64 bytes (R333). -/
def logBytes (n : Nat) (r : LogRec) (prev : List Byte) : List Byte :=
  leBytes 8 n ++ leBytes 8 r.rmt ++ leBytes 1 r.kind ++ leBytes 1 r.reason ++ leBytes 1 r.die ++ leBytes 1 0 ++
    leBytes 4 r.loc ++ leBytes 8 r.info ++ prev

/-- Whether the log has space (R334). -/
def Ring.logRoom (r : Ring) : Bool := decide (r.logtail.toNat - r.loghead.toNat < ringSize r.logsize)

/-- A record appended: its bytes, LOGTAIL, and PREV of the next (R333). -/
def State.logWrite (s : State) (r : LogRec) : State × List Byte :=
  let n := s.ring.logtail.toNat
  let prev := if n = 0 then sha256 logKey else s.ring.prev
  let b := logBytes n r prev
  let s1 := s.ringStore s.ring.logbase (64 * (n % ringSize s.ring.logsize)) b
  (s1.modRing fun g => { g with logtail := g.logtail + 1, prev := sha256 b }, b)

/-- A signature record appended, and its signing begun (R335). -/
def State.logSign (s : State) : State :=
  let slot := s.ring.sigs % 64
  let n := s.ring.logtail.toNat
  let w := s.logWrite { rmt := s.rmt, kind := 6, reason := 0, die := 0, loc := 0, info := slot }
  let done := s.rmt + 1 + Config.looseDelay s.freeCount
  { w.1.modRing (fun g => { g with sigs := g.sigs + 1, signing := g.signing ++ [(n, slot, done, w.2)] }) with
    freeCount := s.freeCount + 1 }

/-- The signature record that must stand as every record with LSEQ mod 4,096 = 4,095, when its turn has come (R335). -/
def State.logTurn (s : State) : State :=
  if s.ring.logtail.toNat % 4096 = 4095 && s.ring.logRoom then s.logSign else s

/-- One record put at the end of the log with the signature records around it, or counted as lost (R334, R335). -/
def State.logPut (s : State) (r : LogRec) : State :=
  let s1 := s.logTurn
  if s1.ring.logRoom then (s1.logWrite r).1.logTurn else s1.modRing fun g => { g with lost := g.lost + 1 }

/-- The kind 5 record of the events lost, appended when space allows; a signature whose turn it is stands before it, and until there
is space for both the count is kept (R334, R335; log entry 94). -/
def State.logLost (s : State) : State :=
  if s.ring.latched && s.ring.lost != 0 && s.ring.logRoom then
    let s1 := s.logTurn
    if s1.ring.logRoom then
      ((s1.logWrite { rmt := s.rmt, kind := 5, reason := 0, die := 0, loc := 0, info := s1.ring.lost }).1.modRing fun g =>
        { g with lost := 0 }).logTurn
    else s1
  else s

/-- The records held and still to be held before the first write of JTAIL: the genesis record has its place (R333). -/
def Ring.heldCount (r : Ring) : Nat := r.logHeld.length + (if r.bootstat = 2 then 0 else 1)

/-- LOG_APPEND: before the first write of JTAIL a record is held, up to 2,048; then it is appended, after the record of
earlier losses; without space it is counted (R333, R334). -/
def State.log (s : State) (r : LogRec) : State :=
  if !s.ring.latched then
    if s.ring.heldCount < 2048 then s.modRing fun g => { g with logHeld := g.logHeld ++ [r] }
    else s.modRing fun g => { g with lost := g.lost + 1 }
  else s.logLost.logPut r

/-- LSEQ of a record that `log` is about to append or hold; one that will be counted as lost has none, and all ones stand for it
(R333, R334; log entry 94). -/
def State.nextLseq (s : State) : Nat :=
  if !s.ring.latched then (if s.ring.heldCount < 2048 then s.ring.heldCount else 2 ^ 64 - 1)
  else
    let s1 := s.logLost.logTurn
    if s1.ring.logRoom then s1.ring.logtail.toNat else 2 ^ 64 - 1

/-- The log record of an event. -/
def errRecord (e : ErrEvent) (rmt kind : Nat) : LogRec :=
  { rmt := rmt, kind := kind, reason := e.reason, die := e.die, loc := e.loc, info := e.info }

/-! ### Lasting faults (R336) -/

/-- Whether a structure of this REASON belongs to a tile. -/
def tileReason (r : Nat) : Bool := (decide (0x20 ≤ r) && decide (r ≤ 0x26)) || r == 0x28

/-- The tile of a log record's LOC (R333). -/
def locTile (loc : Nat) : Coord := ⟨bits loc 9 0, bits loc 17 10⟩

/-- Three corrected events, consecutive and rising, within 2^24 microseconds; the latest stands first (R336). -/
def threeClose : List Nat → Bool
  | t3 :: t2 :: t1 :: _ => decide (t1 < t2) && decide (t2 < t3) && decide (t3 - t1 < 2 ^ 24)
  | _ => false

/-- Whether an event's structure is a hub's (R272, R336). -/
def ErrEvent.ofHub (e : ErrEvent) : Bool := e.hub || e.reason == 0x27

/-- Whether an event's structure is a tile's, for which a swap is queued (R336). -/
def ErrEvent.ofTile (e : ErrEvent) : Bool := tileReason e.reason && !e.hub

/-- A structure that becomes lasting: a kind 3 record, notice 0x8002, and for a tile a queued swap (R336). -/
def State.makeLasting (s : State) (e : ErrEvent) : State :=
  let r := errRecord e s.rmt 3
  let s1 := (s.log r).postNotice { kind := 0x8002, header := 0, ticket := 0, body := (logBytes s.nextLseq r []).take 32 }
  if ErrEvent.ofTile e && !s1.ring.swaps.contains (locTile e.loc) then
    s1.modRing fun g => { g with swaps := g.swaps ++ [locTile e.loc] }
  else s1

/-- The history of a structure: a hub's is none of a tile with its number. -/
def Ring.healthOf (r : Ring) (e : ErrEvent) : Health :=
  (r.health.find? fun h => h.hub == ErrEvent.ofHub e && h.reason == e.reason && h.die == e.die && h.loc == e.loc).getD
    ⟨ErrEvent.ofHub e, e.reason, e.die, e.loc, [], false⟩

/-- The history of a structure replaced. -/
def Ring.setHealth (r : Ring) (h : Health) : Ring :=
  { r with health := h :: r.health.filter fun g => !(g.hub == h.hub && g.reason == h.reason && g.die == h.die && g.loc == h.loc) }

/-- CORRECTED_ERROR and uncorrectable events: the record, and the structure's history (R333, R336). -/
def State.storageEvent (s : State) (e : ErrEvent) : State :=
  let s1 := s.log (errRecord e s.rmt e.kind)
  let h := s1.ring.healthOf e
  let times := if e.kind = 1 then e.micros :: h.times else h.times
  let now := !h.lasting && ((e.kind = 1 && threeClose times) || e.kind == 2)
  let s2 := s1.modRing fun g => g.setHealth { h with times := times.take 3, lasting := h.lasting || now }
  let s3 := if e.reason = 0x29 && e.kind = 1 then
      s2.modPc (bits e.loc 11 0) fun p => { p with corr := min (p.corr + 1) (2 ^ 32 - 1) }
    else s2
  if now then s3.makeLasting e else s3

/-! ### Spare tiles (R337, R338) -/

/-- The spare-map register number of a tile. -/
def spareNum (t : Coord) : Nat := 0x900 + 100 * (t.x % 125 / 25) + t.y % 100
/-- The column of a tile in its strip. -/
def spareCol (t : Coord) : Nat := t.x % 25
/-- The tile of a column of a spare-map register. -/
def spareTile (die num col : Nat) : Coord :=
  ⟨125 * (die % 8) + 25 * ((num - 0x900) / 100) + col, 100 * (die / 8) + (num - 0x900) % 100⟩

/-- Whether the spare of a set passed its test; it reads 0 before bring-up ends. -/
def State.spok (s : State) (die num : Nat) : Bool := s.ring.started && Config.spok (die * 4096 + num)

/-- The writable bits of a spare-map register. -/
def spareBits (v : Quad) : Quad := v &&& 0x1FFFFFF011F#128

/-- A spare-map register as it reads. -/
def State.spareReg (s : State) (die num : Nat) : Quad :=
  spareBits ((assocGet s.ring.spare (die * 4096 + num)).getD 0) ||| (if s.spok die num then 0x200#128 else 0)

/-- Whether the spare stands in for a column. -/
def spareMaps (v : Quad) (c : Nat) : Bool := v.getLsbD 8 && bits v.toNat 4 0 == c
/-- Whether a column is unusable. -/
def spareUnuse (v : Quad) (c : Nat) : Bool := v.getLsbD (16 + c)

/-- The tiles whose mapping or UNUSE bit a write changes. -/
def spareChanged (die num : Nat) (old new : Quad) : List Coord :=
  ((List.range 25).filter fun c => spareMaps old c != spareMaps new c || spareUnuse old c != spareUnuse new c).map
    (spareTile die num)

/-- Whether a write of a spare-map register is refused (R337). -/
def State.spareIllegal (s : State) (die num : Nat) (v : Quad) : Bool :=
  decide (24 < bits v.toNat 4 0) || (v.getLsbD 8 && !s.spok die num) ||
    (spareChanged die num (s.spareReg die num) v).any fun t => (s.partOf t).isSome

/-- A spare-map register as the remaps in progress will leave it. -/
def State.spareNext (s : State) (die num : Nat) : Quad :=
  match (s.ring.remaps.filter fun m => m.die == die && m.num == num).getLast? with
  | some m => m.v ||| (if s.spok die num then 0x200#128 else 0)
  | none => s.spareReg die num

/-- A remap begins; it takes at most 65,536 cycles, and not less than an earlier one of its register (R337). -/
def State.startRemap (s : State) (die num : Nat) (v : Quad) (src : Option LooseSrc) (tile : Option Coord) : State :=
  let at' := ((s.ring.remaps.filter fun m => m.die == die && m.num == num).map Remap.at').foldl max
    (s.rmt + 1 + Config.looseDelay s.freeCount % 65536)
  { s.modRing (fun g => { g with remaps := g.remaps ++ [⟨die, num, spareBits v, src, tile, at'⟩] }) with
    freeCount := s.freeCount + 1 }

/-- A tile reset to the retired state: windows 0 and SRAM 0 (R337). -/
def State.clearTile (s : State) (t : Coord) : State :=
  let inTile (a : Nat) : Bool := decide (tileAddr t 0 ≤ a) && decide (a < tileAddr t 0x18000)
  { s with
    mem := s.mem.filter fun c => !inTile c.1
    full := s.full.filter fun a => !inTile a
    qtags := s.qtags.filter fun a => !inTile a
    tiles := s.tiles.filter fun e => e.1 != tileKey t }

/-- The register value by which a swap retires a tile: the spare stands in, or the tile becomes unusable (R338). -/
def State.swapValue (s : State) (t : Coord) : Quad :=
  let d := dieOf t
  let v := s.spareNext d (spareNum t)
  if !v.getLsbD 8 && s.spok d (spareNum t) then
    BitVec.ofNat 128 (v.toNat / 2 ^ 5 * 2 ^ 5 % 2 ^ 128 + 2 ^ 8 + spareCol t)
  else v ||| BitVec.ofNat 128 (2 ^ (16 + spareCol t))

/-- REMAP_DONE: the register, the reset of each tile newly mapped, the kind 4 record, and the hub that waited (R337). -/
def State.finishRemap (s : State) (m : Remap) : State :=
  let old := s.spareReg m.die m.num
  let tiles := ((List.range 25).filter fun c => spareMaps old c != spareMaps m.v c).map (spareTile m.die m.num)
  let s1 := tiles.foldl State.clearTile s
  let s2 := s1.modRing fun g =>
    { g with spare := assocSet g.spare (m.die * 4096 + m.num) m.v, remaps := g.remaps.filter (· != m)
             swaps := match m.tile with | none => g.swaps | some t => g.swaps.filter (· != t) }
  let t := (m.tile.orElse fun _ => (spareChanged m.die m.num old m.v).head?).getD (spareTile m.die m.num 0)
  let s3 := s2.log { rmt := s.rmt, kind := 4, reason := 0, die := m.die, info := 0
                     loc := t.x + t.y * 2 ^ 10 + (m.num - 0x900) / 100 * 2 ^ 18 + spareCol t * 2 ^ 21 }
  match m.src with
  | none => s3
  | some (.hub d h) =>
    if (s3.hub d h).wait = some (.remap m.num) then
      s3.modHub d h fun hb => { hb with wait := none, answer := some (.ok [] false) }
    else s3.respond (.hub d h) (.ok [] false)
  | some x => s3.respond x (.ok [] false)

/-! ### The events -/

/-- An item of storage takes an error that cannot be corrected: it is damaged until it is written, and whoever reads it finds out (R272;
log entry 28). -/
def State.damageItem (s : State) (e : ErrEvent) : State :=
  let add (l : List Damage) : List Damage := if l.contains ⟨e.reason, e.info⟩ then l else l ++ [⟨e.reason, e.info⟩]
  if ErrEvent.ofTile e then s.modTile (locTile e.loc) fun tl => { tl with damage := add tl.damage }
  else if ErrEvent.ofHub e then s.modHub e.die (e.loc % 64) fun hb => { hb with damage := add hb.damage }
  else if e.reason = 0x29 then { s with hbmDamage := insertSorted s.hbmDamage (e.info / 64 * 64) }
  else s

/-- CORRECTED_ERROR: a storage error that was corrected is an event of its structure; one of kind 2 could not be (R272, R336). -/
def execCorrectedError (e : ErrEvent) (s : State) : Out :=
  .next (if e.kind = 2 then s.damageItem e else s.storageEvent { e with kind := 1 })

/-- LOG_APPEND (R333). -/
def execLogAppend (e : ErrEvent) (s : State) : Out := .next (s.storageEvent e)

/-- LOST_EVENTS_RECORD (R334). -/
def execLostEventsRecord (s : State) : Out := .next s.logLost

/-- LOG_SIGNATURE_DONE: the signature is written to its slot and notice 0x8004 is posted (R335), once no running owner
holds the write (R212). -/
def execLogSignatureDone (lseq : Nat) (s : State) : Out :=
  match s.ring.signing.find? fun g => g.1 == lseq with
  | none => .next s
  | some (n, slot, _, b) =>
    if s.ringBusy s.ring.sigbase (16384 * slot) 16224 then .next s
    else
      let sig := (List.range 16224).map (Config.signatureByte b)
      let s1 := s.ringStore s.ring.sigbase (16384 * slot) sig
      let s2 := s1.modRing fun g => { g with signing := g.signing.filter fun e => e.1 != n }
      .next (s2.postNotice { kind := 0x8004, header := 0, ticket := 0, body := b.take 32 })

/-- NOTICE_FLUSH (R331). -/
def execNoticeFlush (s : State) : Out := .next (s.hostNotices.flushNotices s.hostNotices.ring.notices.length)

/-- SPARE_SWAP_EXECUTE: the queued swap of a tile in no placed partition begins (R336, R338). -/
def execSpareSwapExecute (t : Coord) (s : State) : Out :=
  if s.ring.swaps.contains t && (s.partOf t).isNone && !(s.ring.remaps.any fun m => m.tile == some t) then
    .next (s.startRemap (dieOf t) (spareNum t) (s.swapValue t) none (some t))
  else .next s

/-- REMAP_DONE (R337). -/
def execRemapDone (die num : Nat) (s : State) : Out :=
  match s.ring.remaps.find? fun m => m.die == die && m.num == num with
  | none => .next s
  | some m => .next (s.finishRemap m)

/-- The features the device offers: bit 0, the architecture itself (R339). -/
def featOff : BitVec 256 := 1

/-- What the first write of JTAIL fixes: the rings, DEVNUM and FEATNEG; the held log records are appended (R328, R333). -/
def State.latch (s : State) : State :=
  let held := s.ring.logHeld
  let lost := s.ring.lost
  let s1 := s.modRing fun g => { g with latched := true, featNeg := featOff &&& g.featReq, logHeld := [], lost := 0 }
  let s2 := held.foldl (fun s r => s.logPut r) s1
  let s3 := if lost = 0 then s2 else s2.logPut { rmt := s.rmt, kind := 5, reason := 0, die := 0, loc := 0, info := lost }
  s3.flushNotices s3.ring.notices.length

/-- JTAIL_WRITE; until bring-up ends with BOOTSTAT 2 nothing takes it (R329, R341). -/
def execJtailWrite (v : DWord) (s : State) : Out :=
  if s.ring.bootstat ≠ 2 ∨ v.toNat < s.ring.jtail.toNat ∨ s.ring.jhead.toNat + ringSize s.ring.jsize < v.toNat then .next s
  else
    let s1 := if s.ring.latched then s else s.latch
    .next (s1.modRing fun g => { g with jtail := v })

/-- BOOTSTAT_WRITE: a host write of 1 in state 0 starts verification (R328). -/
def execBootstatWrite (v : DWord) (s : State) : Out :=
  if v = 1 ∧ s.ring.bootstat = 0 then .next (s.modRing fun g => { g with bootstat := 1 }) else .next s

/-- FIRMWARE_VERIFY_DONE: the outcome of steps 3 and 4, and the genesis record of step 5. A failed tile needs its strip row's
spare to itself, which then stands in for it (R333, R341; log entry 94). -/
def execFirmwareVerifyDone (o : BootOutcome) (s : State) : Out :=
  if s.ring.bootstat != 1 then .next s
  else
    match o with
    | .signatureRefused => .next (s.modRing fun g => { g with bootstat := 0x80 })
    | .tested failed =>
      let rows := failed.map fun t => dieOf t * 4096 + spareNum t
      if rows.any fun r => decide (1 < rows.count r) || !Config.spok r then
        .next { s.modRing (fun g => { g with bootstat := 0x81 }) with hubs := [] }
      else
        let genesis : LogRec := { rmt := s.rmt, kind := 7, reason := 0, die := 0, loc := 0, info := 0 }
        .next { s.modRing (fun g =>
          { g with bootstat := 2, logHeld := genesis :: g.logHeld
                   spare := failed.foldl (fun l t => assocSet l (dieOf t * 4096 + spareNum t) (BitVec.ofNat 128 (2 ^ 8 + spareCol t))) g.spare })
          with hubs := [] }

/-- POWER_ON_RESET (R149, R341): the machine as power-on leaves it; the inputs still to come are the environment's. -/
def execPowerOnReset (s : State) : Out := .next { State.reset with inputs := s.inputs }

/-- SPARE_MAP_WRITE: the remap begins, or nothing for a value that the rule refuses (R337). -/
def execSpareMapWrite (die hub num : Nat) (v : Quad) (s : State) : Out :=
  if s.spareIllegal die num v then .next s
  else
    .next ((s.startRemap die num v (some (.hub die hub)) none).modHub die hub fun hb => { hb with wait := some (.remap num) })

end Sys2Proof.Machine
end

