-- ==== Sys2Proof/Machine/Translate.lean ====
section
/-! DEFINITION. Translation: the entries of a die's translation buffer (R312 to R316), lookups and the dirty log (R317,
R321, R322), the requests to the translation hub (R323, R324), tlb.w and tlb.inv (R325, R326). -/

namespace Sys2Proof.Machine

/-- A blocked hub instruction completes: its result is written and the hub goes on at pc + 4 (R145, R281). -/
def State.unblock (s : State) (die hub : Nat) (d : RegNo) (v : Quad) : State :=
  let s1 := s.modHub die hub fun hb => { hb.writeReg d (.plain v) with wait := none }
  match s1.issuing ⟨.hub die hub, 0, capCur (s1.hub die hub).ctx.pcc.data, false⟩ with
  | none => s1
  | some cx => s1.complete cx s.mem .seq

/-! ### Entries (R313) -/

def teV (e : Quad) : Bool := e.getLsbD 127
def teP (e : Quad) : Bool := e.getLsbD 126
def teDirty (e : Quad) : Bool := e.getLsbD 125
def teLD (e : Quad) : Bool := e.getLsbD 124
def teST (e : Quad) : Bool := e.getLsbD 123
def teClass (e : Quad) : Nat := bits e.toNat 122 121
def teSize (e : Quad) : Nat := bits e.toNat 120 119
def teAsid (e : Quad) : Nat := bits e.toNat 115 106
def teGen (e : Quad) : Nat := bits e.toNat 105 90
def teVpn (e : Quad) : Nat := bits e.toNat 89 54
def teTpn (e : Quad) : Nat := bits e.toNat 53 2

/-- log2 of the bytes of a page size. -/
def pageBits (size : Nat) : Nat :=
  match size with
  | 0 => 12
  | 1 => 16
  | 2 => 21
  | _ => 30

/-- An entry with V = 0. -/
def teClearV (e : Quad) : Quad := e &&& ~~~(1#128 <<< 127)
/-- An entry with DIRTY = 1. -/
def teSetDirty (e : Quad) : Quad := e ||| 1#128 <<< 125
/-- An entry as a launch pins it, with the record's ASID (R315). -/
def tePin (e : Quad) (asid : Nat) : Quad :=
  (e &&& ~~~((1023#128 <<< 106) ||| (1#128 <<< 126))) ||| (1#128 <<< 126) ||| (BitVec.ofNat 128 asid <<< 106)

/-- Whether an entry is malformed: a reserved bit, CLASS 3, page bits below the page size, or a target outside spaces 1, 2,
4, 5 and 6 (R313, R325). -/
def teMalformed (e : Quad) : Bool :=
  let pb := pageBits (teSize e)
  bits e.toNat 118 116 != 0 || bits e.toNat 1 0 != 0 || teClass e == 3 ||
    teVpn e % 2 ^ (pb - 12) != 0 || teTpn e % 2 ^ (pb - 12) != 0 ||
    !List.contains [1, 2, 4, 5, 6] (bits (teTpn e) 51 48)

/-- Whether a virtual address lies in an entry's page. -/
def teCovers (e : Quad) (va : Nat) : Bool := va / 2 ^ pageBits (teSize e) == teVpn e * 2 ^ 12 / 2 ^ pageBits (teSize e)

/-- What an access needs of an entry. -/
structure XNeed where
  rd : Bool
  wr : Bool
  deriving DecidableEq, Repr

/-- AGEN[a] (R316). -/
def Ring.agenOf (r : Ring) (a : Nat) : Nat := (assocGet r.agen a).getD 0

/-- Whether an access hits an entry (R314). -/
def teHits (e : Quad) (asid va gen : Nat) (need : XNeed) : Bool :=
  teV e && teAsid e == asid && teCovers e va && (!need.rd || teLD e) && (!need.wr || teST e) && (teP e || teGen e == gen % 2 ^ 16)

/-- The lowest-numbered entry of a die that an access hits (R314). -/
def State.lookup (s : State) (die asid va : Nat) (need : XNeed) : Option (Nat × Quad) :=
  (s.dieX die).tlb.find? fun e => teHits e.2 asid va (s.ring.agenOf asid) need

/-- The translated address (R314). -/
def teAddr (e : Quad) (va : Nat) : Nat := teTpn e * 2 ^ 12 + va % 2 ^ pageBits (teSize e)

/-- An entry written into a die's buffer. -/
def State.setTe (s : State) (die i : Nat) (e : Quad) : State :=
  s.modDieX die fun x => { x with tlb := if e = 0 then x.tlb.filter fun p => p.1 != i else assocSet x.tlb i e }

/-- A request put before a die's translation hub; its number is the next (R324). -/
def State.askXlate (s : State) (die src : Nat) (hub : Bool) (kind asid va : Nat) (full : Bool) : State × Nat :=
  let x := s.dieX die
  let r : XReq := { num := x.nextNum, src := src, hub := hub, kind := kind, stamp := BitVec.ofNat 32 (s.ring.agenOf asid),
                    asid := asid, va := va, popped := false, full := full }
  (s.modDieX die fun x => { x with reqs := x.reqs ++ [r], nextNum := (x.nextNum + 1) % 2 ^ 16 }, r.num)

/-- The dirty-log record of a write (R322). -/
def dirtyRecord (e : Quad) (va : Nat) (hub : Bool) : Quad :=
  let pb := pageBits (teSize e)
  BitVec.ofNat 128 (va / 2 ^ pb * 2 ^ pb % 2 ^ 48 + teAsid e * 2 ^ 48 + teSize e * 2 ^ 58 + hub.toNat * 2 ^ 60)

/-- A record appended to the dirty log, which lies in the translation hub's SRAM; at 2,048 a log notice enters XMSG
(R322). It has SRC 1, HUB 1, ASID 0 and with it STAMP AGEN[0] (R324 gives only VA; DESIGN CHOICE, log entry 115). -/
def State.logDirty (s : State) (die i : Nat) (e : Quad) (va : Nat) (hub : Bool) : State :=
  let x := s.dieX die
  let r := dirtyRecord e va hub
  let slot := (x.dirtyIdx + x.dirty.length) % 4096
  let off := 0x30000 + 16 * slot
  let s1 := { s with mem := Mem.write s.mem (hubAddr die 1 off) (leBytes 16 r.toNat), qtags := eraseAll s.qtags (hubAddr die 1 off) }.modHub
    die 1 fun hb => { hb with damage := mend 0x27 [off, off + 8] hb.damage }
  let s2 := s1.modDieX die fun x => { x with dirty := x.dirty ++ [r], tlb := assocSet x.tlb i (teSetDirty e) }
  if x.dirty.length + 1 = 2048 then (s2.askXlate die 1 true 3 0 0 false).1 else s2

/-- The outcome of a lookup with its dirty log (R314, R317, R322). -/
inductive XOut where
  | hit (s : State) (addr cls entry : Nat)
  | miss (full : Bool)

/-- A lookup. A write through an entry with DIRTY = 0 is logged; a full log counts as a miss. -/
def State.xlateAt (s : State) (die asid va : Nat) (need : XNeed) (hub : Bool) : XOut :=
  match s.lookup die asid va need with
  | none => .miss false
  | some (i, e) =>
    if need.wr && !teDirty e then
      if 4096 ≤ (s.dieX die).dirty.length then .miss true
      else .hit (s.logDirty die i e va hub) (teAddr e va) (teClass e) i
    else .hit s (teAddr e va) (teClass e) i

/-! ### The translation registers (R323) -/

/-- The XMSG layout (R324). -/
def xmsgQuad (r : XReq) : Quad :=
  BitVec.ofNat 128 (r.num * 2 ^ 104 + r.src * 2 ^ 98 + r.hub.toNat * 2 ^ 97 + r.kind * 2 ^ 95 + r.stamp.toNat * 2 ^ 58 +
    r.asid * 2 ^ 48 + r.va % 2 ^ 48)

/-- A read of XMSG: the oldest request not yet popped, if one is present. -/
def State.popXmsg (s : State) (die : Nat) : Option (State × Quad) :=
  match (s.dieX die).reqs.find? fun r => !r.popped with
  | none => none
  | some r =>
    some (s.modDieX die fun x => { x with reqs := x.reqs.map fun q => if q.num = r.num then { q with popped := true } else q },
      xmsgQuad r)

/-- Whether an access came by an edge port. -/
def fromLink (a : Loose) : Bool := match a.src with | .device .. => true | _ => false

/-- Space 4 arrivals that have waited at their home are looked up again at the end of the next cycle, in the order of their source:
one of this device's sources stands before all that it has sent since, one from a link behind those that came before it (R231, R318). -/
def State.again (s : State) (l : List Flight) : State :=
  let now : List Flight := l.map fun f => { f with at' := s.rmt }
  { s with flights := (now.filter fun f => !fromLink f.a) ++ s.flights ++ now.filter fun f => fromLink f.a }

/-- Whatever waits for a request goes on with its outcome: 0, or the reason of its failure (R317, R318). -/
def State.finishXlate (s : State) (die num reason : Nat) : State :=
  let s1 : State := { s with hubs := s.hubs.map fun (e : Nat × Hub) =>
    if e.1 / 64 = die ∧ e.2.wait = some (Wait.translation num) then
      (e.1, { e.2 with wait := none, answer := if reason = 0 then none else some (.xlate reason) })
    else if e.1 / 64 = die then
      (e.1, { e.2 with chans := e.2.chans.map fun (c : Chan) =>
        match c.xlate with
        | some (n, none) => if n = num then { c with xlate := some (n, some reason) } else c
        | _ => c })
    else e }
  let s2 : State := { s1 with parts := s1.parts.map fun (q : Part) =>
    { q with xlate := q.xlate.map fun (w : XlateWait) =>
        if w.num = num ∧ w.die = die then { w with outcome := some (w.outcome.getD reason) } else w } }
  let mine := (s2.homeWait.filter fun w => w.1 == die && w.2.1 == num).map fun w => w.2.2
  let s3 : State := { s2 with homeWait := s2.homeWait.filter fun v => !(v.1 == die && v.2.1 == num) }
  match mine with
  | [] => s3
  | f :: behind => if reason = 0 then s3.again mine else (s3.respond f.a.src (.xlate reason)).again behind

/-- A write of XDONE; an unknown number is refused (R323). -/
def State.xdone (s : State) (die : Nat) (v : Quad) : Option State :=
  let num := bits v.toNat 15 0
  let reason := bits v.toNat 23 16
  if (s.dieX die).reqs.any fun r => r.num == num then
    some ((s.modDieX die fun x => { x with reqs := x.reqs.filter fun r => r.num != num }).finishXlate die num reason)
  else none

/-- A read of DLOG. -/
def State.dlogRead (s : State) (die : Nat) : Quad :=
  BitVec.ofNat 128 ((s.dieX die).dirty.length + (s.dieX die).dirtyIdx * 2 ^ 16)

/-- A harvest's count for a die after `n` records of it are merged. -/
def harvestStep (die n : Nat) (h : Nat × List (Nat × Nat)) : Nat × List (Nat × Nat) :=
  (h.1, h.2.map fun p => if p.1 = die then (p.1, p.2 - n) else p)

/-- A write of DLOG: the n oldest records are removed; waits for space go on (R322, R323). -/
def State.dlog (s : State) (die : Nat) (v : Quad) : Option State :=
  let n := bits v.toNat 12 0
  let x := s.dieX die
  if x.dirty.length < n then none
  else
    let s1 := s.modDieX die fun x => { x with dirty := x.dirty.drop n, dirtyIdx := (x.dirtyIdx + n) % 4096 }
    let s2 := s1.modRing fun g => { g with harvests := g.harvests.map (harvestStep die n) }
    if x.dirty.length - n < 4096 then
      some ((x.reqs.filter fun r => r.full).foldl (fun s r => s.finishXlate die r.num 0) s2)
    else some s2

/-- A write of AGEN: the entries of the ASID that are not pinned and hold the new generation go, on every die (R316). -/
def State.writeAgen (s : State) (a : Nat) (v : DWord) : State :=
  let g := v.toNat % 2 ^ 32
  let s1 := s.modRing fun r => { r with agen := assocSet r.agen a g }
  { s1 with xlate := s1.xlate.map fun (x : Nat × DieXlate) =>
      (x.1, { x.2 with tlb := x.2.tlb.map fun (e : Nat × Quad) =>
                (e.1, if teAsid e.2 = a ∧ !teP e.2 ∧ teGen e.2 = g % 2 ^ 16 then teClearV e.2 else e.2) }) }

/-! ### The instructions and events -/

/-- A hub's instruction that answers at once, on its own die: ILLEGAL where the rule refuses it. -/
def hubForm (i : Instr) (f : Nat → Nat → Cx → State → Chk (State × Next)) (s : State) : Out :=
  issue i noPre (fun cx s =>
    match cx.wh with
    | .tile .. => .error { code := fcPriv }
    | .hub d h _ => f d h cx s) s

/-- tlb.w (R325). -/
def execTlbW (a : RegNo) (imm : BitVec 12) (s : State) : Out :=
  hubForm (.tlbW a imm) (fun d _ cx s =>
    let v := cx.data a
    if imm.toNat < 1024 then .error { code := fcIllegal }
    else if teV v && teMalformed v then .error { code := fcIllegal }
    else .ok (s.setTe d imm.toNat (v &&& ~~~(1#128 <<< 126)), .seq)) s

/-- Whether a mode of tlb.inv selects an entry (R326). -/
def invSelects (mode : Nat) (c : Quad) (i : Nat) (e : Quad) : Bool :=
  match mode with
  | 0 => i == bits c.toNat 11 0
  | 1 => !teP e && teAsid e == bits c.toNat 57 48
  | 2 => !teP e && teAsid e == bits c.toNat 57 48 && teCovers e (bits c.toNat 47 0)
  | _ => !teP e

/-- XDONE_WRITE (R323). -/
def execXdoneWrite (die _hub : Nat) (v : Quad) (s : State) : Out := .next ((s.xdone die v).getD s)
/-- DLOG_WRITE (R323). -/
def execDlogWrite (die _hub : Nat) (v : Quad) (s : State) : Out := .next ((s.dlog die v).getD s)
/-- AGEN_WRITE (R316). -/
def execAgenWrite (a : Nat) (v : DWord) (s : State) : Out := .next (s.writeAgen a v)
/-- XMSG_READ: a hub that waits for a request takes it when one is present (R323). -/
def execXmsgRead (die hub : Nat) (d : RegNo) (s : State) : Out :=
  if (s.hub die hub).wait != some .xmsg then .next s
  else
    match s.popXmsg die with
    | none => .next s
    | some (s1, q) => .next (s1.unblock die hub d q)

end Sys2Proof.Machine
end

