-- ==== Sys2Proof/Machine/HubAccess.lean ====
section
/-! DEFINITION. A hub core's accesses: its own SRAM at once, every other space by a loose access for whose answer the hub
blocks (R145, R195 to R198, R214 to R219, R231, R232, R237, R318, R321, R357, R359). -/

namespace Sys2Proof.Machine

/-! ### Personality groups -/


/-- The class of a personality: 0 NONE, 1 INT, 2 FULL (R237, R351). -/
def persClass (p : Fin 4) : Nat :=
  match p.val with
  | 0 => 2
  | 1 => 1
  | _ => 0

/-- The link-map entry of a device (R357). -/
def State.linkEntry (s : State) (n : Nat) : DWord :=
  BitVec.ofNat 64 (Mem.readLE s.mem (s.edge.lmapBase.toNat + 8 * n) 8)

/-- The group and port by which a device is reached, if the link map gives a path (R357). -/
def State.linkTo (s : State) (n : Nat) : Option (Nat × Nat) :=
  let e := (s.linkEntry n).toNat
  let g := bits e 62 59
  let gr := s.group g
  let p := 4 * g + bits e 58 57
  if bits e 63 63 = 1 ∧ bits e 47 32 = gr.gen.toNat ∧ gr.state = .up ∧ (gr.pers = 0 → (s.port p).peer = n) then some (g, p)
  else none

/-! ### Routing an access -/

/-- Where an access goes once its address is checked. -/
inductive Dest where
  /-- to a home on this device -/
  | here
  /-- to another device by a group and port -/
  | away (group port : Nat)
  /-- to the memory behind a CXL window, by a group or by the host port -/
  | cxl (group : Option Nat)
  deriving DecidableEq, Repr

/-- The offsets and sizes of system space (R217 to R220, R369): whether an access may reach them. -/
def sysAddrOk (a size : Nat) : Bool :=
  let reg8 := size == 8
  bits a 59 56 == 0 &&
    (match bits a 55 52 with
     | 0 => bits a 47 30 == 0 && bits a 23 18 == 0
     | 1 => bits a 47 30 == 0 && bits a 23 16 == 0 && bits a 3 0 == 0 && size == 16
     | 2 => bits a 51 42 == 0 && bits a 23 12 == 0 && decide (bits a 33 24 ≤ 999) && decide (bits a 41 34 ≤ 199) &&
        (if 0x80 ≤ bits a 11 0 ∧ bits a 11 0 < 0xC0 then size == 16 else reg8)
     | 3 => bits a 51 36 == 0 && bits a 23 12 == 0 && reg8
     | 4 => bits a 51 16 == 0 && reg8
     | 5 => bits a 51 42 == 0 && bits a 39 24 == 0 &&
        (if 0x100000 ≤ bits a 23 0 ∧ bits a 23 0 < 0x100400 then size == 16 else reg8)
     | _ => false)

/-- ADDR_SPACE for an address. -/
def addrFlt (a : Nat) : Flt := { code := fcAddrSpace, info := a }

/-- The route of an access of spaces 1, 2 and 4 to 7, and the atomic class of its path. R216 gives the host port, PATH = 0, no map
generation and no use of GRP: GEN is tested for PATH = 1 only (DESIGN CHOICE, log entry 96; R195, R196, R215, R216, R237, R357). -/
def State.routeAccess (s : State) (a size : Nat) : Chk (Dest × Nat) :=
  match a / 2 ^ 60 with
  | 1 => if (space1 a).isSome then .ok (.here, 2) else .error (addrFlt a)
  | 2 => if (space2 a).isSome then .ok (.here, 2) else .error (addrFlt a)
  | 4 | 5 =>
    if a / 2 ^ 60 = 5 ∧ (space5 a).isNone then .error (addrFlt a)
    else if bits a 59 40 = s.device then .ok (.here, 2)
    else
      match s.linkTo (bits a 59 40) with
      | none => .error { code := fcPathDown, info := a }
      | some (g, p) => .ok (.away g p, persClass (s.group g).pers)
  | 6 =>
    if bits a 59 52 != 0 then .error (addrFlt a)
    else
      let n : Fin 16 := (BitVec.ofNat 4 (a / 2 ^ 48)).toFin
      let c := s.ring.cxlCtl[n].toNat
      if bits c 63 63 = 0 ∨ bits c 47 16 * 2 ^ 16 < bits a 47 0 + size then .error { code := fcWindow, info := a }
      else
        let g := s.group (bits c 61 58)
        if bits c 62 62 = 0 then .ok (.cxl none, 0)
        else if bits c 15 0 != g.gen.toNat || g.state != .up || g.pers != 3 then .error { code := fcPathDown, info := a }
        else .ok (.cxl (some (bits c 61 58)), 0)
  | 7 => if sysAddrOk a size then .ok (.here, 0) else .error (addrFlt a)
  | _ => .error (addrFlt a)

/-! ### The blocked access -/

/-- The code of an uncorrectable word by its structure (R272). -/
def eccCode (reason : Nat) : Nat := if reason = 0x29 then fcEccHbm else if reason = 0x28 then fcEccBonded else fcEccLocal

/-- The fault that an answer raises at a hub's access; INFO of XLATE_MISS is the virtual address, and an uncorrectable word gives
its own place (R270, R272, R282, R359). -/
def replyFlt (a : Nat) : Reply → Option Flt
  | .ok .. => none
  | .refused => some { code := fcWindow, info := a }
  | .pathDown | .abort => some { code := fcPathDown, info := a }
  | .uncorr r w => some { code := eccCode r, reason := r, info := w }
  | .xlate r => some { code := 0x28, reason := r, info := a % 2 ^ 48 }
  | .unsup => some { code := fcAtomicPath, info := a }

/-- What an operation needs of a translation entry. -/
def opNeed : LooseOp → XNeed
  | .read | .readCap => ⟨true, false⟩
  | .write | .writeCap _ => ⟨false, true⟩
  | .amo .. => ⟨true, true⟩

/-- The KIND code of a translation request (R324). -/
def opKind : LooseOp → Nat
  | .read | .readCap => 0
  | .write | .writeCap _ => 1
  | .amo .. => 2

/-- The atomic class that an operation needs; 0 for loads and stores. -/
def opClass : LooseOp → Nat
  | .amo f _ => amoNeeds f
  | _ => 0

/-- Whether two accesses come from one loose source (R231). -/
def sameSource : LooseSrc → LooseSrc → Bool
  | .hub d h, .hub e k => d == e && h == k
  | .host, .host => true
  | .cxl g, .cxl k => g == k
  | .device d .., .device e .. => d == e
  | .channel o c _, .channel p e _ => o == p && c == e
  | _, _ => false

/-- The home that an address on this device names: a tile, a pseudo-channel, a place of system space, or the edge windows (R195,
R231). -/
def looseHome (a : Nat) : Nat × Nat :=
  match a / 2 ^ 60 with
  | 1 => (1, bits a 59 24)
  | 2 => (2, pcOf (bits a 39 0))
  | 7 => (7, bits a 59 24)
  | _ => (4, 0)

/-- When an access arrives at its home: after a time that the manual leaves open, and not before an earlier one of its source to
that home (R231). -/
def State.arrivalOf (s : State) (a : Loose) : Nat :=
  ((s.flights.filter fun f => sameSource f.a.src a.src && looseHome f.a.addr.toNat == looseHome a.addr.toNat).map Flight.at').foldl max
    (s.rmt + 1 + Config.looseDelay s.freeCount)

/-- A request that leaves this device noted as outstanding, under the next tag (R356). -/
def State.addOutbound (s : State) (p : Option Nat) (f : Flight) : State :=
  let o : Outbound := ⟨s.edge.nextTag % 2 ^ 16, p, f.a.src, f.a.addr, f.a.size, opStores f.a.op, f.via, f.id⟩
  { s with edge := { s.edge with outbound := s.edge.outbound ++ [o], nextTag := s.edge.nextTag % 2 ^ 16 + 1 } }

/-- An access leaves this device: by its port as a request flit, or through the personality's own protocol. -/
def State.leave (s : State) (f : Flight) (d : Dest) : State :=
  match d with
  | .here => s
  | .cxl g => s.addOutbound (g.map (4 * ·)) f
  | .away g p =>
    let a := f.a
    let s1 := s.addOutbound (some p) f
    if (s.group g).pers = 0 then
      s1.queueFlit p ⟨s.device, bits a.addr.toNat 59 40, .request (s.edge.nextTag % 2 ^ 16) a.addr a.op a.size a.data a.cmp⟩
    else s1

/-- Whether an access of a source is on its way whose home is not known yet, one to space 4 or 5 of this device: what its source sends
after it may have the same home, and does not leave the device before it (R231). -/
def State.homeOpen (s : State) (a : Loose) : Bool :=
  (s.flights.any fun f => sameSource f.a.src a.src && looseHome f.a.addr.toNat == (4, 0)) ||
    s.homeWait.any fun w => sameSource w.2.2.a.src a.src

/-- A loose access sent: on this device it arrives after a time that the manual leaves open; to another device it leaves at once, or
stands with the flights until it may leave. -/
def State.sendLoose (s : State) (a : Loose) (d : Dest) (via : List (Nat × Nat)) : State :=
  let s1 : State := { s with freeCount := s.freeCount + 1 }
  if d = .here ∨ s.homeOpen a = true then { s1 with flights := s.flights ++ [⟨s.freeCount, s.arrivalOf a, a, via⟩] }
  else s1.leave ⟨s.freeCount, s.rmt, a, via⟩ d

/-- A hub's access to a space other than its own SRAM. An answer that has come is taken: `fin` completes the instruction.
Otherwise the access is translated, checked and sent, and the hub blocks (R198, R232, R318, R321). -/
def hubRemote (cx : Cx) (d h : Nat) (i : Instr) (ad : DWord) (op : LooseOp) (size : Nat) (data : List Byte) (cmp : DWord)
    (sys : Bool) (fin : List Byte → Bool → State → State) (s : State) : Chk (State × Next) :=
  match (s.hub d h).answer with
  | some r =>
    match replyFlt ad.toNat r, r with
    | some f, _ => .error f
    | none, .ok b t => .ok (fin b t (s.modHub d h fun hb => { hb with answer := none }), .seq)
    | none, _ => .ok (s, .seq)
  | none =>
    let go (s : State) (addr cls : Nat) (via : List (Nat × Nat)) : Chk (State × Next) :=
      match s.routeAccess addr size with
      | .error f => .error { f with info := ad.toNat }
      | .ok (dest, path) =>
        if min path cls < opClass op then .error { code := fcAtomicPath, info := ad.toNat }
        else
          let a : Loose := { src := .hub d h, op := op, addr := BitVec.ofNat 64 addr, size := size, data := data, cmp := cmp,
                             sys := sys }
          .ok ((s.sendLoose a dest via).modHub d h fun hb => { hb with wait := some (.answer i) }, .stay)
    if spaceOf ad = 3 then
      if bits ad.toNat 59 48 != 0 then .error (addrFlt ad.toNat)
      else
        let va := bits ad.toNat 47 0
        let asid := (s.hub d h).hasid.toNat
        match s.xlateAt d asid va (opNeed op) true with
        | .hit s1 addr cls e => go s1 addr cls [(d, e)]
        | .miss full =>
          let r := s.askXlate d h true (opKind op) asid va full
          .ok (r.1.modHub d h fun hb => { hb with wait := some (.translation r.2) }, .stay)
    else go s ad.toNat 2 []

/-- A hub's own SRAM: offsets up to 0x3_FFFF (R198). -/
def sramOff (a : DWord) : Chk Nat := if a.toNat < 0x40000 then .ok a.toNat else .error (addrFlt a.toNat)

/-- An access of a hub, checked: its own SRAM at once, or a loose access (R196, R198). -/
def hubAccess (cx : Cx) (d h : Nat) (i : Instr) (c : CReg) (off : Int) (size : Nat) (need : BitVec 12) (op : LooseOp)
    (data : List Byte) (cmp : DWord) (fin : List Byte → Bool → State → State) (s : State) : Chk (State × Next) :=
  match checkCap c off size need with
  | .error f => .error f
  | .ok ad =>
    match checkSpacePerm c ad with
    | .error f => .error f
    | .ok () =>
      if spaceOf ad = 0 then
        match sramOff ad with
        | .error f => .error f
        | .ok o =>
          match (s.hub d h).eccAt o size, (opWant op) with
          | some f, .rd => .error f
          | some f, .amo => .error f
          | _, _ =>
            let a : Loose := { src := .hub d h, op := op, addr := ad, size := size, data := data, cmp := cmp, sys := false }
            let r := s.performSram d h o a
            match r.2 with
            | .ok b t => .ok (fin b t r.1, .seq)
            | _ => .ok (r.1, .seq)
      else
        match op, spaceOf ad with
        | .amo .., 7 => .error (addrFlt ad.toNat)
        | _, _ => hubRemote cx d h i ad op size data cmp (hasPerm c.data pSYS) fin s

end Sys2Proof.Machine
end

