-- ==== Sys2Proof/Machine/Local.lean ====
section
/-! DEFINITION. Loads and stores (R98 to R102): on tiles local SRAM and the bonded slice; on hubs their own SRAM and every
space (R198). -/

namespace Sys2Proof.Machine

/-- How a load extends what it reads (R99). -/
inductive LdKind where
  | sign | zero | quad | cap
  deriving DecidableEq, Repr

/-- A load form: bytes, permissions, whether it reads the bonded slice, latency in turns, and its result. -/
structure LdForm where
  size : Nat
  need : BitVec 12
  bonded : Bool
  lat : Nat
  kind : LdKind

/-- The register value of a load (R99). -/
def LdForm.value (f : LdForm) (v : Nat) (tag : Bool) : CReg :=
  match f.kind with
  | .sign => .plain (BitVec.ofInt 128 (sextNat v (8 * f.size)))
  | .zero | .quad => .plain (BitVec.ofNat 128 v)
  | .cap => ⟨BitVec.ofNat 128 v, tag⟩

/-- The window of a tile access: local SRAM or the bonded slice (R26). -/
def winLo (bonded : Bool) : Nat := if bonded then 0x8000 else 0
/-- The end of that window. -/
def winHi (bonded : Bool) : Nat := if bonded then 0x18000 else 0x8000

/-- A load in a tile: it reads in the issue cycle and writes at the end of its latency (R98, R99). -/
def tileLoad (f : LdForm) (d : RegNo) (c : CReg) (off : Int) (tc : TileCx) (cx : Cx) (s : State) : Chk State :=
  match checkLocal c off f.size f.need (winLo f.bonded) (winHi f.bonded) with
  | .error e => .error e
  | .ok o =>
    match tc.tile.eccAt o f.size with
    | some e => .error e
    | none =>
      let ga := tileAddr tc.t o
      .ok (s.result cx d f.lat (f.value (Mem.readLE s.mem ga f.size) (s.qtags.contains ga)))

/-- An instruction that addresses memory on a tile or on a hub. -/
def memForm (i : Instr) (tile : TileCx → Cx → State → Chk State) (hub : Nat → Nat → Cx → State → Chk (State × Next))
    (s : State) : Out :=
  issue i noPre (fun cx s =>
    match cx.wh with
    | .hub d h _ => hub d h cx s
    | .tile t k j tl q =>
      match tile ⟨t, k, j, tl, q⟩ cx s with
      | .error e => .error e
      | .ok s' => .ok (s', .seq)) s

/-- A load form (R99). -/
def loadForm (i : Instr) (f : LdForm) (d a : RegNo) (off : BitVec 12) (s : State) : Out :=
  memForm i (fun tc cx s => tileLoad f d (cx.read a) off.toInt tc cx s)
    (fun dd h cx s =>
      hubAccess cx dd h i (cx.read a) off.toInt f.size f.need (if f.kind = .cap then .readCap else .read) [] 0
        (fun b t s => s.result cx d 1 (f.value (leNat b) t)) s) s

/-- The writer of a local store (R271). -/
def storeWriter (tc : TileCx) : Writer :=
  ⟨0, if tc.k = .execute then 1 else 0, tc.j.val, 0, tc.t.x, tc.t.y, none⟩

/-- A store form: bytes, permissions, window, whether it writes the register's tag, and whether it sets the full bit. -/
structure StForm where
  size : Nat
  need : BitVec 12
  bonded : Bool
  cap : Bool
  full : Bool

/-- A store in a tile, due at the end of n + 3 (R98). -/
def tileStore (f : StForm) (v c : CReg) (off : Int) (tc : TileCx) (cx : Cx) (s : State) : Chk State :=
  match checkLocal c off f.size f.need (winLo f.bonded) (winHi f.bonded) with
  | .error e => .error e
  | .ok o =>
    .ok (s.due cx (cx.n + 3) (.store o (leBytes f.size v.data.toNat) (f.cap && v.tag) f.full (storeWriter tc)))

/-- A store form (R99). -/
def storeForm (i : Instr) (f : StForm) (d a : RegNo) (off : BitVec 12) (s : State) : Out :=
  memForm i (fun tc cx s => tileStore f (cx.read d) (cx.read a) off.toInt tc cx s)
    (fun dd h cx s =>
      hubAccess cx dd h i (cx.read a) off.toInt f.size f.need (if f.cap then .writeCap (cx.read d).tag else .write)
        (leBytes f.size (cx.data d).toNat) 0 (fun _ _ s => s) s) s

/-- ld.b (R99). -/
def execLdB (d a : RegNo) (off : BitVec 12) (s : State) : Out := loadForm (.ldB d a off) ⟨1, pLD, false, 2, .sign⟩ d a off s
/-- ld.bu (R99). -/
def execLdBu (d a : RegNo) (off : BitVec 12) (s : State) : Out := loadForm (.ldBu d a off) ⟨1, pLD, false, 2, .zero⟩ d a off s
/-- ld.h (R99). -/
def execLdH (d a : RegNo) (off : BitVec 12) (s : State) : Out := loadForm (.ldH d a off) ⟨2, pLD, false, 2, .sign⟩ d a off s
/-- ld.hu (R99). -/
def execLdHu (d a : RegNo) (off : BitVec 12) (s : State) : Out := loadForm (.ldHu d a off) ⟨2, pLD, false, 2, .zero⟩ d a off s
/-- ld.w (R99). -/
def execLdW (d a : RegNo) (off : BitVec 12) (s : State) : Out := loadForm (.ldW d a off) ⟨4, pLD, false, 2, .zero⟩ d a off s
/-- ld.d (R99). -/
def execLdD (d a : RegNo) (off : BitVec 12) (s : State) : Out := loadForm (.ldD d a off) ⟨8, pLD, false, 2, .zero⟩ d a off s
/-- ld.q (R99). -/
def execLdQ (d a : RegNo) (off : BitVec 12) (s : State) : Out := loadForm (.ldQ d a off) ⟨16, pLD, false, 2, .quad⟩ d a off s
/-- ld.c (R99). -/
def execLdC (d a : RegNo) (off : BitVec 12) (s : State) : Out :=
  loadForm (.ldC d a off) ⟨16, pLD ||| pLDC, false, 2, .cap⟩ d a off s
/-- ldb.q (R99). -/
def execLdbQ (d a : RegNo) (off : BitVec 12) (s : State) : Out := loadForm (.ldbQ d a off) ⟨16, pLD, true, 3, .quad⟩ d a off s

/-- Whether an access core's ld.fe of this cycle has cleared a word, as the execute core's test sees it (R225). -/
def Tile.clearedNow (tl : Tile) (off n : Nat) : Bool :=
  tl.pend.any fun p => p.due == n && (match p.eff with | .fullClear _ _ o => o == off | _ => false)

/-- ld.fe: an empty word slips; a full one is read and its bit cleared at the end of the cycle (R100, R203, R225). -/
def execLdFe (d a : RegNo) (off : BitVec 12) (s : State) : Out :=
  tileForm (.ldFe d a off) (fun tc cx s =>
    match checkLocal (cx.read a) off.toInt 8 (pLD ||| pFE) 0 0x8000 with
    | .error e => .error e
    | .ok o =>
      if !s.isFull tc.t o || (tc.k == .execute && tc.tile.clearedNow o cx.n) then
        .error { code := fcSlipEmpty, reason := rsFull, info := o }
      else
        match tc.tile.eccAt o 8 with
        | some e => .error e
        | none =>
          .ok ((s.due cx cx.n (.fullClear tc.k tc.j o)).result cx d 2
            (.plain (BitVec.ofNat 128 (Mem.readLE s.mem (tileAddr tc.t o) 8))))) s

/-- Pushes of the load queue not yet due (R101). -/
def Tile.lqPending (tl : Tile) : Nat := tl.pend.countP fun p => match p.eff with | .lqPush .. => true | _ => false

/-- ld.lq (R100, R101). -/
def execLdLq (a : RegNo) (off : BitVec 12) (s : State) : Out :=
  tileForm (.ldLq a off) (fun tc cx s =>
    match checkLocal (cx.read a) off.toInt 16 pLD 0 0x8000 with
    | .error e => .error e
    | .ok o =>
      if 8 ≤ tc.tile.lq.length + tc.tile.lqPending then .error { code := fcSlipLate, reason := rsQueue }
      else
        match tc.tile.eccAt o 16 with
        | some e => .error e
        | none => .ok (s.due cx (cx.n + 7) (.lqPush tc.j (s.tileQuad tc.t o)))) s

/-- st.b (R99). -/
def execStB (d a : RegNo) (off : BitVec 12) (s : State) : Out := storeForm (.stB d a off) ⟨1, pST, false, false, false⟩ d a off s
/-- st.h (R99). -/
def execStH (d a : RegNo) (off : BitVec 12) (s : State) : Out := storeForm (.stH d a off) ⟨2, pST, false, false, false⟩ d a off s
/-- st.w (R99). -/
def execStW (d a : RegNo) (off : BitVec 12) (s : State) : Out := storeForm (.stW d a off) ⟨4, pST, false, false, false⟩ d a off s
/-- st.d (R99). -/
def execStD (d a : RegNo) (off : BitVec 12) (s : State) : Out := storeForm (.stD d a off) ⟨8, pST, false, false, false⟩ d a off s
/-- st.q (R99). -/
def execStQ (d a : RegNo) (off : BitVec 12) (s : State) : Out := storeForm (.stQ d a off) ⟨16, pST, false, false, false⟩ d a off s
/-- st.c (R99). -/
def execStC (d a : RegNo) (off : BitVec 12) (s : State) : Out :=
  storeForm (.stC d a off) ⟨16, pST ||| pSTC, false, true, false⟩ d a off s
/-- st.fe (R100). -/
def execStFe (d a : RegNo) (off : BitVec 12) (s : State) : Out :=
  storeForm (.stFe d a off) ⟨8, pST ||| pFE, false, false, true⟩ d a off s
/-- stb.q (R99). -/
def execStbQ (d a : RegNo) (off : BitVec 12) (s : State) : Out := storeForm (.stbQ d a off) ⟨16, pST, true, false, false⟩ d a off s

/-- st.sq: the oldest store-queue entry is popped and stored (R100, R102). -/
def execStSq (a : RegNo) (off : BitVec 12) (s : State) : Out :=
  tileForm (.stSq a off) (fun tc cx s =>
    match checkLocal (cx.read a) off.toInt 16 pST 0 0x8000 with
    | .error e => .error e
    | .ok o =>
      match tc.tile.sq with
      | [] => .error { code := fcSlipEmpty, reason := rsQueue }
      | v :: _ =>
        if damaged tc.tile.damage 0x23 8 then .error { code := fcEccLocal, reason := 0x23, info := 8 }
        else .ok ((s.due cx cx.n .sqPop).due cx (cx.n + 3) (.store o (leBytes 16 v.toNat) false false (storeWriter tc)))) s

end Sys2Proof.Machine
end

