-- ==== Sys2Proof/Machine/Atomic.lean ====
section
/-! DEFINITION. Atomics and fence (R233 to R238). -/

namespace Sys2Proof.Machine

/-- The width of an atomic. -/
def ATy.wide : ATy → Bool
  | .w => false
  | .d => true

/-- An atomic in a tile: local SRAM in space 0, or a word of a member tile in space 1 (R234, R236). -/
def tileAtomic (f : Nat) (wide : Bool) (d : RegNo) (c : CReg) (x e : DWord) (tc : TileCx) (cx : Cx) (s : State) : Chk State :=
  let size := if wide then 8 else 4
  match checkCap c 0 size (pLD ||| pST) with
  | .error flt => .error flt
  | .ok ad =>
    match checkSpacePerm c ad with
    | .error flt => .error flt
    | .ok () =>
      if spaceOf ad = 0 then
        if ad.toNat + size ≤ 0x8000 then
          match tc.tile.eccAt ad.toNat size with
          | some flt => .error flt
          | none =>
            .ok (s.due cx (cx.n + 3) (.amo ad.toNat f size x e 0
              (if d = 0 then none else some (tc.j, d, cx.n + 7)) { storeWriter tc with kind := 3 }))
        else .error (addrFlt ad.toNat)
      else if spaceOf ad = 1 then
        match homeOf ad with
        | .error flt => .error flt
        | .ok (home, _) =>
          if !tc.part.exchange cx.n then .error { code := fcSlipLate, reason := rsPhase }
          else if !tc.part.holds home then .error { code := fcWindow, info := ad.toNat }
          else
            match tc.tile.freeEntry with
            | none => .error { code := fcSlipLate, reason := rsQueue }
            | some en => .ok (s.sendPut tc cx.n en home ad (f + 1) wide x e d (if f = 9 then [x, e] else [x]))
      else .error (addrFlt ad.toNat)

/-- The low bits of an operand at the width of an atomic. -/
def amoArg (wide : Bool) (v : Quad) : DWord := BitVec.ofNat 64 (v.toNat % 2 ^ (amoBits wide))

/-- An atomic (R233 to R237). -/
def atomic (i : Instr) (f : Nat) (wide : Bool) (d a b : RegNo) (e : Option RegNo) (s : State) : Out :=
  let cmp (cx : Cx) : DWord := match e with | none => 0 | some r => amoArg wide (cx.data r)
  memForm i (fun tc cx s => tileAtomic f wide d (cx.read a) (amoArg wide (cx.data b)) (cmp cx) tc cx s)
    (fun dd h cx s =>
      hubAccess cx dd h i (cx.read a) 0 (if wide then 8 else 4) (pLD ||| pST) (.amo f wide)
        (leBytes 8 (amoArg wide (cx.data b)).toNat) (cmp cx)
        (fun r _ s => s.result cx d 1 (.plain (BitVec.ofNat 128 (leNat r)))) s) s

/-- amo.add (R233). -/
def execAmoAdd (d a b : RegNo) (ty : ATy) (s : State) : Out := atomic (.amoAdd d a b ty) 0 (ATy.wide ty) d a b none s
/-- amo.max (R233). -/
def execAmoMax (d a b : RegNo) (ty : ATy) (s : State) : Out := atomic (.amoMax d a b ty) 1 (ATy.wide ty) d a b none s
/-- amo.min (R233). -/
def execAmoMin (d a b : RegNo) (ty : ATy) (s : State) : Out := atomic (.amoMin d a b ty) 2 (ATy.wide ty) d a b none s
/-- amo.maxu (R233). -/
def execAmoMaxu (d a b : RegNo) (ty : ATy) (s : State) : Out := atomic (.amoMaxu d a b ty) 3 (ATy.wide ty) d a b none s
/-- amo.minu (R233). -/
def execAmoMinu (d a b : RegNo) (ty : ATy) (s : State) : Out := atomic (.amoMinu d a b ty) 4 (ATy.wide ty) d a b none s
/-- amo.and (R233). -/
def execAmoAnd (d a b : RegNo) (ty : ATy) (s : State) : Out := atomic (.amoAnd d a b ty) 5 (ATy.wide ty) d a b none s
/-- amo.or (R233). -/
def execAmoOr (d a b : RegNo) (ty : ATy) (s : State) : Out := atomic (.amoOr d a b ty) 6 (ATy.wide ty) d a b none s
/-- amo.xor (R233). -/
def execAmoXor (d a b : RegNo) (ty : ATy) (s : State) : Out := atomic (.amoXor d a b ty) 7 (ATy.wide ty) d a b none s
/-- amo.swap (R233). -/
def execAmoSwap (d a b : RegNo) (ty : ATy) (s : State) : Out := atomic (.amoSwap d a b ty) 8 (ATy.wide ty) d a b none s
/-- amo.cas (R233). -/
def execAmoCas (d a b e : RegNo) (ty : ATy) (s : State) : Out := atomic (.amoCas d a b e ty) 9 (ATy.wide ty) d a b (some e) s
/-- amo.fmax (R233). -/
def execAmoFmax (d a b : RegNo) (s : State) : Out := atomic (.amoFmax d a b) 10 false d a b none s

/-- The entries of an access core's journal whose home a fence covers (R238). -/
def fenceOpen (tl : Tile) (t : Coord) (scope : Nat) : Nat :=
  tl.journal.toList.countP fun e =>
    e.v && (decide (scope != 0) || (match space1 e.addr.toNat with | some (h, _) => h == t | none => false))

/-- Whether every store and atomic that a hub issued earlier to a home that a fence covers has been performed (R238): its own SRAM
performs at once, homes of this device are counted, and scopes 4 and 5 reach other devices too. -/
def State.fenceDone (s : State) (hb : Hub) (scope : Nat) : Bool :=
  scope == 0 || (hb.unperformed == 0 && (decide (scope < 4) || hb.remote.all fun t => decide (t ≤ s.rmt)))

/-- fence: a check in a tile; a hub waits until its earlier stores and atomics to covered homes are performed (R238). -/
def execFence (scope : BitVec 5) (s : State) : Out :=
  memForm (.fence scope) (fun tc _ s =>
      if tc.k = .access ∧ fenceOpen tc.tile tc.t scope.toNat != 0 then
        .error (chkFlt (Config.fenceInfo (fenceOpen tc.tile tc.t scope.toNat)).toNat)
      else .ok s)
    (fun d h _ s =>
      if s.fenceDone (s.hub d h) scope.toNat then .ok (s, .seq)
      else .ok (s.modHub d h fun hb => { hb with wait := some (.fence scope.toNat) }, .stay)) s

end Sys2Proof.Machine
end

