-- ==== Sys2Proof/Machine/Channel.lean ====
section
/-! DEFINITION. Copy channels: shape records, the walk of a command, its hull and paths, and the instructions that queue
commands (R240 to R247, R252 to R257). -/

namespace Sys2Proof.Machine

/-! ### Streams and write pointers (R242) -/

/-- The prefix of completed words extended by the words done past it. -/
def drainDone : Nat → List Nat → Nat × List Nat
  | w, [] => (w, [])
  | w, n :: r => if n = w then drainDone (w + 1) r else if n < w then drainDone w r else (w, n :: r)

/-- A word of the stream completes: wp advances when the prefix grows (R242). -/
def Chan.finish (c : Chan) (n : Nat) : Chan :=
  let r := drainDone (c.wp.toNat / 8) (insertSorted c.done n)
  { c with wp := BitVec.ofNat 64 (8 * r.1), done := r.2, inflight := eraseAll c.inflight n }

/-- A word fails: the first error sets ERR, and the word never completes (R249). -/
def Chan.fail (c : Chan) (code : Nat) (n : Nat) : Chan :=
  { c with err := if c.err = 0 then BitVec.ofNat 4 code else c.err, inflight := eraseAll c.inflight n }

/-- A word is read or sent (R240, R254). -/
def Chan.pending (c : Chan) (n : Nat) : Chan := { c with inflight := insertSorted c.inflight n }
/-- An element out of range counted: ORC never decreases, so it stays at its greatest value (R240, R245). DESIGN CHOICE: the manual gives
ORC 32 bits and does not say what follows their end (log entry 107). -/
def Chan.outOfRange (c : Chan) : Chan := { c with orc := if c.orc = 2 ^ 32 - 1 then c.orc else c.orc + 1 }

/-- A channel of an owner. -/
def State.chan (s : State) (o : Owner) (ch : Fin 4) : Chan :=
  match o with
  | .tile t => (s.tile t).chans[ch]
  | .hub d h => (s.hub d h).chans[ch]

/-- A channel of an owner changed. -/
def State.modChan (s : State) (o : Owner) (ch : Fin 4) (f : Chan → Chan) : State :=
  match o with
  | .tile t => s.modTile t fun tl => { tl with chans := tl.chans.set ch (f tl.chans[ch]) }
  | .hub d h => s.modHub d h fun hb => { hb with chans := hb.chans.set ch (f hb.chans[ch]) }

/-! ### Shape records (R243) -/

/-- Bytes lo to hi of a record as an unsigned value. -/
def recNat (l : List Byte) (lo n : Nat) : Nat := leNat ((l.drop lo).take n)
/-- Four bytes of a record, signed. -/
def recInt (l : List Byte) (lo : Nat) : Int := sextNat (recNat l lo 4) 32

/-- The fields of a shape record; counts are stored plus 1. -/
def shapeOf (l : List Byte) : Shape :=
  { w := recNat l 0 2 % 2 ^ 9 + 1, n0 := recNat l 2 2 + 1, n1 := recNat l 4 2 + 1, n2 := recNat l 6 2 + 1,
    ss0 := recInt l 8, ss1 := recInt l 12, ss2 := recInt l 16, ds0 := recInt l 20, ds1 := recInt l 24, ds2 := recInt l 28,
    ioff := recInt l 32, lim := recNat l 36 4, isz := if recNat l 40 1 % 2 = 1 then 4 else 2,
    sws := recNat l 41 1 % 16, swb := recNat l 41 1 / 16 % 8 }

/-- Whether a form takes an index list. -/
def EngForm.indexed : EngForm → Bool
  | .cpyG | .cpyS => true
  | _ => false

/-- Whether a swizzle stays within its element: 2^(SWS + SWB) is at most ELEN, and no row of the walk moves a word past ELEN
(R243, R244, R253; log entry 20). -/
def swizzleOk (r : Shape) : Bool :=
  let n := 8 * r.w
  r.swb == 0 || (decide (2 ^ (r.sws + r.swb) ≤ n) && (n % 2 ^ (r.sws + r.swb) == 0 ||
    (List.range (min r.n1 (2 ^ r.swb))).all fun v => (List.range r.w).all fun k => decide (Nat.xor (8 * k) (v * 2 ^ r.sws) < n)))

/-- The FORMAT test of a shape record (R243, R253): reserved bits, strides, the index fields of each form, at most 512 index
entries, and a swizzle that stays within its element. -/
def shapeOk (form : EngForm) (l : List Byte) (r : Shape) : Bool :=
  recNat l 0 2 < 2 ^ 9 && [r.ss0, r.ss1, r.ss2, r.ds0, r.ds1, r.ds2].all (fun v => v % 8 == 0) &&
    recNat l 40 1 < 2 && recNat l 41 1 < 2 ^ 7 && recNat l 42 6 == 0 &&
    (if r.swb = 0 then r.sws == 0 else decide (3 ≤ r.sws)) && swizzleOk r &&
    (if form.indexed then r.ioff % r.isz == 0 && decide (r.n1 * r.n2 ≤ 512)
     else r.ioff == 0 && r.lim == 0 && recNat l 40 1 == 0)

/-! ### The walk (R244, R245) -/

/-- The number of elements of a command. -/
def Cmd.elements (c : Cmd) : Nat := c.shape.n0 * c.shape.n1 * c.shape.n2

/-- The (i2, i1, i0) of element e. -/
def Cmd.at' (c : Cmd) (e : Nat) : Nat × Nat × Nat :=
  (e / (c.shape.n0 * c.shape.n1), e / c.shape.n0 % c.shape.n1, e % c.shape.n0)

/-- The index of element e. -/
def Cmd.index (c : Cmd) (e : Nat) : Nat :=
  let p := c.at' e
  c.idx.getD (p.2.1 + c.shape.n1 * p.1) 0

/-- Whether element e is out of range. -/
def Cmd.skips (c : Cmd) (e : Nat) : Bool := c.form.indexed && decide (c.shape.lim ≤ c.index e)

/-- The source address of word k of element e. -/
def Cmd.srcAddr (c : Cmd) (e k : Nat) : Nat :=
  let p := c.at' e
  let r : Nat := if c.form = .cpyG then c.index e else p.2.1
  ((capCur c.src.data).toNat + (p.1 * c.shape.ss2 + r * c.shape.ss1 + p.2.2 * c.shape.ss0 + 8 * k) : Int) % 2 ^ 64 |>.toNat

/-- The destination address of word k of element e, swizzled. -/
def Cmd.dstAddr (c : Cmd) (e k : Nat) : Nat :=
  let p := c.at' e
  let r : Nat := if c.form = .cpyS then c.index e else p.2.1
  let sw := Nat.xor (8 * k) (p.2.1 % 2 ^ c.shape.swb * 2 ^ c.shape.sws)
  ((capCur c.dst.data).toNat + (p.1 * c.shape.ds2 + r * c.shape.ds1 + p.2.2 * c.shape.ds0 + sw) : Int) % 2 ^ 64 |>.toNat

/-! ### Hulls (R253) -/

/-- A side's hull: the cursor, counts and strides of the three dimensions from the outermost, words per element and the
swizzle. -/
structure Hull where
  cur : Nat
  n2 : Nat
  s2 : Int
  n1 : Nat
  s1 : Int
  n0 : Nat
  s0 : Int
  w : Nat
  sws : Nat
  swb : Nat

/-- The least of the offsets of n steps of stride st, and the greatest. -/
def spanLo (n : Nat) (st : Int) : Int := min 0 ((n - 1 : Nat) * st)
/-- The greatest offset of n steps. -/
def spanHi (n : Nat) (st : Int) : Int := max 0 ((n - 1 : Nat) * st)

/-- Whether every word between two integer addresses passes a test of ranges that do not wrap. -/
def rangeOk (ok : Nat → Nat → Bool) (lo hi : Int) : Bool :=
  let m := lo / 2 ^ 64
  decide (hi / 2 ^ 64 = m) && ok (lo - m * 2 ^ 64).toNat (hi - m * 2 ^ 64).toNat

/-- The first hull address in walk order that fails a test; boxes that pass as a whole are not searched. -/
def Hull.firstBad (h : Hull) (ok : Nat → Nat → Bool) : Option Nat :=
  let word (a : Int) : Option Nat := if rangeOk ok a a then none else some (a % 2 ^ 64).toNat
  let wHi : Int := 8 * (h.w - 1 : Nat)
  let lv1 (a : Int) (i1 : Nat) : Option Nat :=
    if rangeOk ok a (a + wHi) then none
    else (List.range h.w).findSome? fun k => word (a + Nat.xor (8 * k) (i1 % 2 ^ h.swb * 2 ^ h.sws))
  let lv2 (a : Int) (i1 : Nat) : Option Nat :=
    if rangeOk ok (a + spanLo h.n0 h.s0) (a + spanHi h.n0 h.s0 + wHi) then none
    else (List.range h.n0).findSome? fun (i : Nat) => lv1 (a + i * h.s0) i1
  let lv3 (a : Int) : Option Nat :=
    if rangeOk ok (a + spanLo h.n1 h.s1 + spanLo h.n0 h.s0) (a + spanHi h.n1 h.s1 + spanHi h.n0 h.s0 + wHi) then none
    else (List.range h.n1).findSome? fun (i : Nat) => lv2 (a + i * h.s1) i
  let a : Int := h.cur
  if h.n1 = 0 then none
  else if rangeOk ok (a + spanLo h.n2 h.s2 + spanLo h.n1 h.s1 + spanLo h.n0 h.s0)
      (a + spanHi h.n2 h.s2 + spanHi h.n1 h.s1 + spanHi h.n0 h.s0 + wHi) then none
  else (List.range h.n2).findSome? fun (i : Nat) => lv3 (a + i * h.s2)

/-- The first element address of the hull that is not a multiple of 64 (R248). -/
def Hull.firstUnaligned64 (h : Hull) : Option Nat :=
  let bad (n : Nat) (s : Int) : Bool := decide (2 ≤ n) && s % 64 != 0
  let at' (s : Int) : Option Nat := some (((h.cur : Int) + s) % 2 ^ 64).toNat
  if h.cur % 64 != 0 ∨ 8 * h.w % 64 != 0 then some h.cur
  else if bad h.n0 h.s0 then at' h.s0
  else if bad h.n1 h.s1 then at' h.s1
  else if bad h.n2 h.s2 then at' h.s2
  else none

/-- The hull of a side of a shape; the indexed side runs over 0 … LIM - 1 (R253). -/
def shapeHull (r : Shape) (c : CReg) (dst indexed : Bool) : Hull :=
  { cur := (capCur c.data).toNat, n2 := r.n2, s2 := if dst then r.ds2 else r.ss2,
    n1 := if indexed then r.lim else r.n1, s1 := if dst then r.ds1 else r.ss1, n0 := r.n0, s0 := if dst then r.ds0 else r.ss0,
    w := r.w, sws := if dst then r.sws else 0, swb := if dst && !indexed then r.swb else 0 }

/-! ### Paths (R247) -/

/-- What a side of a command lies in. -/
inductive SideAt where
  | own
  | member (t : Coord)
  | ownPc
  | loose
  deriving DecidableEq, Repr

/-- The partition of the issuing tile, and the limit of its own space 0 (R26, R198). -/
def Cx.partition (cx : Cx) : Option Part := match cx.wh with | .tile _ _ _ _ q => some q | .hub .. => none
/-- The end of the issuer's own space 0. -/
def Cx.ownLimit (cx : Cx) : Nat := match cx.wh with | .tile .. => 0x18000 | .hub .. => 0x40000

/-- Whether a partition owns every pseudo-channel from that of `lo` to that of `hi`, or none of them. -/
def pcsAll (q : Option Part) (own : Bool) (lo hi : Nat) : Bool :=
  match q with
  | none => !own
  | some q => (List.range (pcOf hi - pcOf lo + 1)).all fun i => q.tt.owned.contains (pcOf lo + i) == own

/-- Where the first word of a side lies, if its address is one that channels reach (R195, R196). -/
def Cx.sideAt (cx : Cx) (a : Nat) : Option SideAt :=
  match a / 2 ^ 60 with
  | 0 => if a + 8 ≤ cx.ownLimit then some .own else none
  | 1 =>
    match space1 a, cx.partition with
    | none, _ => none
    | some (t, _), some q => some (if q.holds t then .member t else .loose)
    | some _, none => some .loose
  | 2 =>
    match space2 a, cx.partition with
    | none, _ => none
    | some hb, some q => some (if q.tt.owned.contains (pcOf hb) then .ownPc else .loose)
    | some _, none => some .loose
  | 3 => if bits a 59 48 = 0 then some .loose else none
  | 4 => some .loose
  | 5 => if (space5 a).isSome then some .loose else none
  | 6 => if bits a 59 52 = 0 then some .loose else none
  | _ => none

/-- Whether the words from `lo` to `hi` lie in the space, the tile and the class of the side's first word (R253). -/
def Cx.sideOk (cx : Cx) (first : Nat) (sd : SideAt) (lo hi : Nat) : Bool :=
  lo / 2 ^ 60 == first / 2 ^ 60 && hi / 2 ^ 60 == first / 2 ^ 60 && match first / 2 ^ 60 with
  | 0 => decide (hi + 8 ≤ cx.ownLimit)
  | 1 => (match space1 first, space1 lo, space1 hi with
      | some (t, _), some (u, _), some (v, _) => u == t && v == t
      | _, _, _ => false)
  | 2 => (match space2 lo, space2 hi with
      | some l, some h => l ≤ h && pcsAll cx.partition (sd == .ownPc) l h
      | _, _ => false)
  | 3 => bits lo 59 48 == 0 && bits hi 59 48 == 0
  | 4 => true
  | 5 => (match space5 first, space5 lo, space5 hi with
      | some (d, t, _), some (e, u, _), some (f, v, _) => e == d && f == d && u == t && v == t
      | _, _, _ => false)
  | 6 => bits lo 59 52 == 0 && bits hi 59 52 == 0
  | _ => false

/-- The checks of one side, in order: tag, seal, permission, bounds, alignment, space (R253). -/
def Cx.checkSide (cx : Cx) (c : CReg) (need : BitVec 12) (h : Hull) (src indexed : Bool) : Chk SideAt :=
  let a := h.cur
  let b := decodeBounds c.data
  if !c.tag then .error { code := fcCapTag, info := a }
  else if sealed c.data then .error { code := fcCapPerm, info := a }
  else if !hasPerm c.data need then .error { code := fcCapPerm, info := a }
  else
    match h.firstBad fun lo hi => decide (b.1 ≤ lo ∧ hi + 8 ≤ b.2) with
    | some x => .error { code := fcCapBounds, info := x }
    | none =>
      let sd := cx.sideAt a
      let mis := if h.n1 = 0 then none else if a % 8 != 0 then some a
        else if src && sd == some .ownPc then h.firstUnaligned64 else none
      match mis with
      | some x => .error { code := fcAlign, info := x }
      | none =>
        match checkSpacePerm c (BitVec.ofNat 64 a), sd with
        | .error f, _ => .error f
        | .ok (), none => .error (addrFlt a)
        | .ok (), some sd =>
          if sd == .ownPc && indexed then .error (addrFlt a)
          else
            match h.firstBad (cx.sideOk a sd) with
            | some x => .error (addrFlt x)
            | none => .ok sd

/-- The path of a command from where its two sides lie: one of them must be the issuer's own space 0 (R247). -/
def pathOf (src dst : SideAt) (sa da : Nat) : Chk Path :=
  match src, dst with
  | .own, .own => .ok .localOnly
  | .own, .member _ => .ok .memberDst
  | .own, .ownPc => .ok .pcDst
  | .own, .loose => .ok .deadlineDst
  | .member _, .own => .ok .memberSrc
  | .ownPc, .own => .ok .pcSrc
  | .loose, .own => .ok .deadlineSrc
  | _, _ => .error (addrFlt (if spaceOf (BitVec.ofNat 64 sa) = 0 then da else sa))

/-- The member tile of a command's other side. -/
def Cmd.home (c : Cmd) : Coord :=
  let a := if c.path = .memberDst then (capCur c.dst.data).toNat else (capCur c.src.data).toNat
  ((space1 a).getD (⟨0, 0⟩, 0)).1

/-- The length of the issue side from its start cycle, where the schedule of the bank commands does not decide it (R247,
R248, R257). -/
def Cmd.span (c : Cmd) : Nat :=
  match c.path with
  | .pcDst => c.elements * c.shape.w
  | .reduce => c.n
  | _ => c.elements * (c.shape.w + 1)

/-- A command with its start cycle. -/
def Cmd.begin' (c : Cmd) (st : Nat) : Cmd :=
  { c with start := some st, last := if c.path = .pcSrc then none else some (st + c.span - 1) }

/-- The cycles of the RD entries that serve a channel from cycle `from'` on, over `fuel` supersteps from `ss` (R248). -/
def Part.rdCycles (q : Part) (t : Coord) (ch : Fin 4) (from' : Nat) : Nat → Nat → List Nat
  | 0, _ => []
  | fuel + 1, ss =>
    match superFrom q.tt.phases 0 ss 0 with
    | none => []
    | some u =>
      let here := (q.tt.bank.filter fun e =>
        e.pe == u.pe && e.cmd == 1 && e.ch == ch.val && q.x0 + e.px == t.x && q.y0 + e.py == t.y).map fun e => u.b + e.off
      (here.mergeSort (fun a b => decide (a ≤ b))).filter (fun c => decide (from' ≤ c)) ++ q.rdCycles t ch from' fuel (ss + 1)

/-- The end of a command's issue side as the schedule will have it; a command whose last burst no RD entry of the coming supersteps
takes has none (R248). -/
def Part.endOf (q : Part) (t : Coord) (ch : Fin 4) (c : Cmd) (n : Nat) : Option Nat :=
  match c.last with
  | some e => some e
  | none =>
    let left := c.elements * c.shape.w / 8 - c.burst
    let st := c.start.getD n
    (q.rdCycles t ch (max n st) (left + 64) q.ss)[left - 1]?.map (· + 107)

/-- The start cycle that a command issued in cycle n would have behind the commands that its channel holds (R241). -/
def Part.startFor (q : Part) (t : Coord) (ch : Fin 4) (c : Chan) (n : Nat) : Option Nat :=
  match c.run with
  | none => some (n + 4)
  | some r =>
    match q.endOf t ch r n, c.que with
    | none, _ => none
    | some e, none => some (max (n + 4) (e + 1))
    | some e, some r2 => (q.endOf t ch (r2.begin' (max (r2.issued + 4) (e + 1))) n).map fun e2 => max (n + 4) (e2 + 1)

/-- The last element that is not skipped. -/
def Cmd.lastKept (c : Cmd) : Option Nat :=
  let n := c.shape.n0
  ((List.range (if c.form.indexed then c.shape.n1 * c.shape.n2 else 1)).reverse.find? fun j => !c.skips (j * n)).map fun j =>
    if c.form.indexed then j * n + n - 1 else c.elements - 1

/-- The cycle at whose end the last write of a timetabled member-tile path that starts in cycle st falls; a skipped element is not
written by cpy.s, and by cpy.g as if it had been read from the channel's own tile (R245, R247, R253). -/
def Cmd.lastWrite (c : Cmd) (t : Coord) (st : Nat) : Nat :=
  let T := routeT t c.home
  let w := c.shape.w
  let se (e : Nat) : Nat := st + e * (w + 1)
  let kept (d : Nat) : Nat := match c.lastKept with | none => 0 | some e => se e + d
  let last := c.elements - 1
  if c.path = .memberDst then (if c.form = .cpyG then se last + w + T + 3 else kept (w + T + 3))
  else max (kept (2 * T + 3 + w)) (if c.form = .cpyG && c.skips last then se last + w + 3 else 0)

/-- The PHASE test of a command whose last write falls in cycle `last` (R253, R257). -/
def Part.phaseOk (q : Part) (n last : Nat) : Bool :=
  match q.super with
  | none => false
  | some u => decide (u.b + u.c ≤ n ∧ last < u.b + u.c + u.x)

/-- A command put into its channel; its words join the stream (R241, R242). -/
def Chan.put (c : Chan) (cmd : Cmd) (n words : Nat) : Chan :=
  let cmd' := { cmd with first := c.len }
  let c' := { c with len := c.len + words }
  match c.run with
  | none => { c' with run := some (cmd'.begin' (n + 4)) }
  | some _ => { c' with que := some cmd' }

/-- The words of a stream command. -/
def Cmd.words (c : Cmd) : Nat := c.elements * c.shape.w

/-- An uncorrectable word in what a channel instruction reads from the issuer's own memory. -/
def Cx.ownEcc (cx : Cx) (off n : Nat) : Option Flt :=
  match cx.wh with
  | .tile _ _ _ tl _ => tl.eccAt off n
  | .hub _ _ h => h.eccAt off n

/-- The checks of cpy, cpy.g and cpy.s before the phase and the queue, and the command they form (R253). -/
def copyCmd (form : EngForm) (cx : Cx) (m : List Host.Cell) (cd ca cb : CReg) : Chk Cmd :=
  match checkSpan cb 0 48 pLD 16 0 0x8000 with
  | .error f => .error f
  | .ok o =>
    match cx.ownEcc o 48 with
    | some f => .error f
    | none =>
      let bytes := Mem.read m (cx.fetchAddr o) 48
      let r := shapeOf bytes
      if !shapeOk form bytes r then .error { code := fcFormat }
      else
        let n := if form.indexed then r.n1 * r.n2 else 0
        match (if form.indexed then checkSpan cb r.ioff (r.isz * n) pLD r.isz 0 0x8000 else .ok 0) with
        | .error f => .error f
        | .ok io =>
          match (if form.indexed then cx.ownEcc io (r.isz * n) else none) with
          | some f => .error f
          | none =>
            let hs := shapeHull r ca false (form == .cpyG)
            let hd := shapeHull r cd true (form == .cpyS)
            match cx.checkSide ca (pLD ||| pENG) hs true (form == .cpyG) with
            | .error f => .error f
            | .ok ss =>
              match cx.checkSide cd (pST ||| pENG) hd false (form == .cpyS) with
              | .error f => .error f
              | .ok sd =>
                match pathOf ss sd hs.cur hd.cur with
                | .error f => .error f
                | .ok path =>
                  .ok { form := form, shape := r,
                        idx := (List.range n).map fun i => Mem.readLE m (cx.fetchAddr io + r.isz * i) r.isz,
                        src := ca, dst := cd, path := path, issued := cx.n, start := none, last := none, first := 0,
                        burst := 0, tr := [], entry := 0, n := 0 }

/-- A copy instruction: a tile's command is held or slips; a hub waits while the channel holds two (R241, R253). -/
def copyForm (i : Instr) (form : EngForm) (d a b : RegNo) (ch : Fin 4) (s : State) : Out :=
  issue i noPre (fun cx s =>
    match copyCmd form cx s.mem (cx.read d) (cx.read a) (cx.read b) with
    | .error f => .error f
    | .ok cmd =>
      match cx.wh with
      | .hub dd h _ =>
        let c := s.chan (.hub dd h) ch
        if c.run.isSome && c.que.isSome then
          .ok (s.modHub dd h fun hb => { hb with wait := some .channel }, .stay)
        else .ok (s.modChan (.hub dd h) ch fun c => c.put cmd cx.n cmd.words, .seq)
      | .tile t _ _ tl q =>
        let c := tl.chans[ch]
        let phase := match cmd.path with
          | .memberDst | .memberSrc => (q.startFor t ch c cx.n).any fun st => q.phaseOk cx.n (cmd.lastWrite t st)
          | _ => true
        if !phase then .error { code := fcSlipLate, reason := rsPhase }
        else if c.run.isSome && c.que.isSome then .error { code := fcSlipLate, reason := rsQueue }
        else .ok (s.modChan (.tile t) ch fun c => c.put cmd cx.n cmd.words, .seq)) s

/-- cpy (R253). -/
def execCpy (d a b : RegNo) (ch : Fin 4) (s : State) : Out := copyForm (.cpy d a b ch) .cpy d a b ch s
/-- cpy.g (R253). -/
def execCpyG (d a b : RegNo) (ch : Fin 4) (s : State) : Out := copyForm (.cpyG d a b ch) .cpyG d a b ch s
/-- cpy.s (R253). -/
def execCpyS (d a b : RegNo) (ch : Fin 4) (s : State) : Out := copyForm (.cpyS d a b ch) .cpyS d a b ch s

/-- The value of cpy.wp (R254). -/
def Chan.status (c : Chan) : Quad :=
  BitVec.ofNat 128 (c.wp.toNat + c.orc.toNat * 2 ^ 64 + (c.run.isSome || !c.inflight.isEmpty).toNat * 2 ^ 96 +
    c.que.isSome.toNat * 2 ^ 97 + c.err.toNat * 2 ^ 100)

/-- cpy.wp (R254). -/
def execCpyWp (d : RegNo) (ch : Fin 4) (s : State) : Out :=
  issueResult (.cpyWp d ch) d 1 (fun cx =>
    .plain (match cx.wh with
      | .tile _ _ _ tl _ => tl.chans[ch].status
      | .hub _ _ h => h.chans[ch].status)) s

/-! ### Groups (R147, R255 to R257) -/

/-- A group-table entry's fields (R255). -/
structure GroupEntry where
  v : Bool
  op : Nat
  lt : Nat
  gw : Nat
  gh : Nat
  gx : Nat
  gy : Nat
  deriving DecidableEq, Repr

/-- The fields of a group-table entry. -/
def groupEntry (e : DWord) : GroupEntry :=
  let v := e.toNat
  { v := e.getLsbD 63, op := bits v 61 59, lt := bits v 58 57, gw := 2 ^ bits v 56 53, gh := 2 ^ bits v 52 50, gx := bits v 49 40,
    gy := bits v 39 32 }

/-- Whether a group contains a tile of the partition. -/
def GroupEntry.holds (g : GroupEntry) (q : Part) (t : Coord) : Bool :=
  decide (q.x0 + g.gx ≤ t.x ∧ t.x < q.x0 + g.gx + g.gw ∧ q.y0 + g.gy ≤ t.y ∧ t.y < q.y0 + g.gy + g.gh)

/-- Whether a group obeys R147 in a partition. -/
def GroupEntry.legal (g : GroupEntry) (q : Part) : Bool :=
  g.gx % g.gw == 0 && g.gy % g.gh == 0 && decide (g.gx + g.gw ≤ q.lrec.w ∧ g.gy + g.gh ≤ q.lrec.h)

/-- The FORMAT test of gtbl (R256). -/
def gtblOk (q : Part) (t : Coord) (v : DWord) : Bool :=
  let g := groupEntry v
  !g.v || (!v.getLsbD 62 && v.toNat % 2 ^ 32 == 0 && g.lt != 3 && decide (bits v.toNat 56 53 ≤ 9) &&
    decide (bits v.toNat 52 50 ≤ 7) && g.legal q && g.holds q t)

/-- gtbl (R256). -/
def execGtbl (a b : RegNo) (s : State) : Out :=
  tileForm (.gtbl a b) (fun tc cx s =>
    let v : DWord := (cx.data b).setWidth 64
    if gtblOk tc.part tc.t v then
      .ok (s.due cx (cx.n + 3) (.gtab ((cx.data a).setWidth 6 : BitVec 6).toFin v))
    else .error { code := fcFormat }) s

/-- R of a group in a partition (R257). -/
def GroupEntry.latency (g : GroupEntry) (q : Part) : Nat := redR (q.x0 + g.gx) (q.y0 + g.gy) g.gw g.gh

/-- The origin of a group. -/
def GroupEntry.origin (g : GroupEntry) (q : Part) : Coord := ⟨q.x0 + g.gx, q.y0 + g.gy⟩

/-- gput and gget (R257): the checks in order, then the command. -/
def reduceForm (i : Instr) (form : EngForm) (d a b : RegNo) (ch : Fin 4) (s : State) : Out :=
  tileForm i (fun tc cx s =>
    let sel := (cx.data b).toNat
    let entry := sel % 64
    let n := bits sel 15 8 + 1
    let g := groupEntry (tc.tile.gtab.toList.getD entry 0)
    if !g.v || !g.holds tc.part tc.t then .error { code := fcFormat }
    else
      match checkSpan (cx.read a) 0 (8 * n) (pLD ||| pENG) 8 0 0x8000 with
      | .error f => .error f
      | .ok _ =>
        match checkSpan (cx.read d) 0 (8 * n) (pST ||| pENG) 8 0 0x8000 with
        | .error f => .error f
        | .ok _ =>
          let c := tc.tile.chans[ch]
          let ends (st : Nat) : Nat := st + (n - 1) + g.latency tc.part + 3
          if !((tc.part.startFor tc.t ch c cx.n).any fun st => tc.part.phaseOk cx.n (ends st)) then
            .error { code := fcSlipLate, reason := rsPhase }
          else if c.run.isSome && c.que.isSome then .error { code := fcSlipLate, reason := rsQueue }
          else
            let cmd : Cmd :=
              { form := form, shape := shapeOf [], idx := [], src := cx.read a, dst := cx.read d, path := .reduce,
                issued := cx.n, start := none, last := none, first := 0, burst := 0, tr := [], entry := entry, n := n }
            let words := if form = .gget ∨ g.origin tc.part = tc.t then n else 0
            .ok (s.modChan (.tile tc.t) ch fun c => c.put cmd cx.n words)) s

/-- gput (R257). -/
def execGput (d a b : RegNo) (ch : Fin 4) (s : State) : Out := reduceForm (.gput d a b ch) .gput d a b ch s
/-- gget (R257). -/
def execGget (d a b : RegNo) (ch : Fin 4) (s : State) : Out := reduceForm (.gget d a b ch) .gget d a b ch s

end Sys2Proof.Machine
end

