-- ==== Sys2Proof/Machine/Area.lean ====
section
/-! DEFINITION. The places of the save area (R298 to R300), its header (R299) and its held area (R303, R304). Where the manual
gives a region its contents and no layout, the layout is the model's (log entry 16). -/

namespace Sys2Proof.Machine

/-- The save area of a partition: the HBM address SAVE (R161). -/
def Part.saveAt (q : Part) : Nat := q.lrec.save % 2 ^ 40
/-- Owned pseudo-channels. -/
def Part.nb (q : Part) : Nat := q.tt.owned.length
/-- TILE0 of a partition that owns `nb` pseudo-channels (R298). -/
def tile0At (nb : Nat) : Nat := (0x21000 + nb * 0x800 + 0xFFFF) / 0x10000 * 0x10000
/-- TILE0. -/
def Part.tile0 (q : Part) : Nat := tile0At q.nb
/-- HELD (R298). -/
def Part.heldAt (q : Part) : Nat := q.tile0 + 0x40000 * q.lrec.w * q.lrec.h
/-- CRSL (R298). -/
def Part.crslAt (q : Part) : Nat := q.heldAt + 0x100000
/-- The tile block of a member (R298). -/
def Part.blockAt (q : Part) (t : Coord) : Nat := q.tile0 + 0x40000 * (q.lrec.w * (t.y - q.y0) + (t.x - q.x0))
/-- The bytes of a save area, by the owned pseudo-channels and the tiles; its 64 Carousel port blocks are the last of them (R298,
R387). -/
def areaSize (nb tiles : Nat) : Nat := tile0At nb + 0x40000 * tiles + 0x100000 + 64 * 0x11000

/-- Bytes written at an offset of a partition's save area. -/
def State.areaWrite (s : State) (q : Part) (off : Nat) (l : List Byte) : State :=
  { s with mem := Mem.write s.mem (hbmAddr (q.saveAt + off)) l }
/-- Bytes of a partition's save area set to 0. -/
def State.areaClear (s : State) (q : Part) (off n : Nat) : State :=
  let a := hbmAddr (q.saveAt + off)
  { s with mem := s.mem.filter fun c => !(decide (a ≤ c.1) && decide (c.1 < a + n)) }
/-- Bytes read at an offset of a partition's save area. -/
def State.areaRead (s : State) (q : Part) (off n : Nat) : List Byte := Mem.read s.mem (hbmAddr (q.saveAt + off)) n
/-- A value read at an offset of a partition's save area. -/
def State.areaNat (s : State) (q : Part) (off n : Nat) : Nat := Mem.readLE s.mem (hbmAddr (q.saveAt + off)) n

/-- Whether a partition is frozen or written out: what arrives for it goes to its save area (R303, R387). -/
def Part.frozen (q : Part) : Bool := q.form != .running && q.form != .launching

/-! ### The header (R299) -/

/-- The FORM byte of a form. -/
def PForm.code : PForm → Nat
  | .writtenOut => 1
  | .restoring => 2
  | _ => 0

/-- FORM: a partition that was restored is so until it freezes again. -/
def Part.formCode (q : Part) : Nat := if q.restored && q.form != .writtenOut then 2 else q.form.code

/-- FLAGS. -/
def Part.flags (q : Part) : Nat := bits q.lrec.flg 2 2 + 2 * q.resyncFlag.toNat + 4 * q.turnDue.toNat + 8 * q.heldOver.toNat

/-- The byte of the header with the step in force and a pending one (R299). -/
def Part.stepCode (q : Part) : Nat := q.step + 4 * q.pstep.getD 0 + 16 * q.pstep.isSome.toNat

/-- The header: its fields, and zeros up to byte 255. -/
def Part.header (q : Part) : List Byte :=
  leBytes 4 1 ++ leBytes 2 q.lrec.w ++ leBytes 2 q.lrec.h ++ leBytes 2 q.x0 ++ leBytes 2 q.y0 ++ leBytes 1 q.pid ++
    leBytes 1 q.formCode ++
    leBytes 1 q.stepCode ++ leBytes 1 q.cause ++
    leBytes 8 q.cyc ++ leBytes 4 q.ss ++ leBytes 4 q.faults.length ++ leBytes 8 q.tb ++ leBytes 8 q.lrec.seq ++
    leBytes 4 q.nb ++ leBytes 4 q.nheld ++ leBytes 8 q.tile0 ++ leBytes 8 q.heldAt ++ leBytes 8 q.crslAt ++ leBytes 4 q.flags ++
    List.replicate 172 0

/-- The fields of the header that change while a partition is frozen: FORM, CAUSE, NREC, NHELD and FLAGS. -/
def State.refreshHeader (s : State) (pid : Nat) : State :=
  match s.part pid with
  | none => s
  | some q =>
    let put (s : State) (p : Nat × List Byte) : State := s.areaWrite q p.1 p.2
    [(13, leBytes 1 q.formCode), (15, leBytes 1 q.cause), (28, leBytes 4 q.faults.length), (52, leBytes 4 q.nheld),
      (80, leBytes 4 q.flags)].foldl put s

/-- The steps of a frozen partition's header, after a request that comes in the freeze: it is pending at the restart (R171, R299). -/
def State.refreshStep (s : State) (pid : Nat) : State :=
  match s.part pid with
  | none => s
  | some q => if q.frozen then s.areaWrite q 14 (leBytes 1 q.stepCode) else s

/-! ### The held area (R304) -/

/-- A held record: the tile's place in the partition; the kind, 1 reply, 2 acknowledgement, 3 error, 4 edge flit; the channel with
an error's code above it, or the port; the edge slot; the word number, or the partition cycle due of an edge flit; eight data
bytes; and the tile-local offset of a reply's word, or the superstep, quad, slack and half of an edge flit. -/
structure HeldRec where
  px : Nat
  py : Nat
  kind : Nat
  who : Nat
  slot : Nat
  num : Nat
  data : DWord
  extra : Nat
  deriving DecidableEq, Repr

/-- The 32 bytes of a held record (log entry 16). -/
def HeldRec.bytes (r : HeldRec) : List Byte :=
  leBytes 2 r.px ++ leBytes 2 r.py ++ leBytes 1 r.kind ++ leBytes 1 r.who ++ leBytes 2 r.slot ++ leBytes 8 r.num ++
    leBytes 8 r.data.toNat ++ leBytes 8 r.extra

/-- A held record read from its bytes. -/
def heldRec (l : List Byte) : HeldRec :=
  { px := recNat l 0 2, py := recNat l 2 2, kind := recNat l 4 1, who := recNat l 5 1, slot := recNat l 6 2,
    num := recNat l 8 8, data := BitVec.ofNat 64 (recNat l 16 8), extra := recNat l 24 8 }

/-- The held records of a partition, in arrival order. -/
def State.heldRecs (s : State) (q : Part) : List HeldRec :=
  (List.range q.nheld).map fun i => heldRec (s.areaRead q (q.heldAt + 32 * i) 32)

/-- Records put into the held area together, or `none` where they do not fit: FLAGS[3] is set then (R303, R304). -/
def State.hold (s : State) (q : Part) (l : List HeldRec) : State × Bool :=
  if q.nheld + l.length ≤ 32768 then
    (((s.areaWrite q (q.heldAt + 32 * q.nheld) (l.flatMap HeldRec.bytes)).modPart q.pid fun q =>
      { q with nheld := q.nheld + l.length }).refreshHeader q.pid, true)
  else ((s.modPart q.pid fun q => { q with heldOver := true }).refreshHeader q.pid, false)

/-- A slack as the signed 32-bit register SLACKMIN can hold it (R369). -/
def slack32 (v : Int) : Int := max (-2 ^ 31) (min (2 ^ 31 - 1) v)

/-- A quad of a receive entry as the two held records of an edge flit, due at its release cycle; `at'` is the cycle of its arrival, and
each record has a half of the slack between them (R361, R366). -/
def edgeRecs (e : EdgeEntry) (ss quad : Nat) (due at' : Int) (v : Quad) : List HeldRec :=
  let slack := (slack32 (due - at') % 2 ^ 32).toNat
  (List.range 2).map fun h =>
    { px := e.px, py := e.py, kind := 4, who := e.port, slot := e.slot, num := (due % 2 ^ 64).toNat, data := v.extractLsb' (64 * h) 64,
      extra := ss % 2 ^ 32 + quad % 2 ^ 11 * 2 ^ 32 + slack / 2 ^ (16 * h) % 2 ^ 16 * 2 ^ 43 + h * 2 ^ 63 }

/-- Whether a record is the second half of the edge quad whose first is `r`. -/
def HeldRec.completes (x r : HeldRec) : Bool :=
  x.kind == 4 && x.extra.testBit 63 && x.extra % 2 ^ 43 == r.extra % 2 ^ 43 && x.who == r.who && x.slot == r.slot

/-- The quads of the edge flits among held records: the halves brought together, for their entries (R304). -/
def Part.heldQuads (q : Part) (l : List HeldRec) (inPhase : Nat → Nat → Bool) : List EdgeQuad :=
  (l.filter fun r => r.kind == 4 && !r.extra.testBit 63).filterMap fun r =>
    let ss := r.extra % 2 ^ 32
    let high := l.find? fun x => x.completes r
    let second (f : HeldRec → Nat) : Nat := (high.map f).getD 0
    let e := q.tt.edge.zipIdx.find? fun e =>
      (e.1.form == 2 || e.1.form == 3) && e.1.port == r.who && e.1.slot == r.slot && e.1.px == r.px && e.1.py == r.py && inPhase e.1.pe ss
    e.map fun e =>
      { entry := e.2, ss := ss, quad := bits r.extra 42 32
        at' := sextNat r.num 64 - sextNat (bits r.extra 58 43 + second (fun x => bits x.extra 58 43) * 2 ^ 16) 32
        v := BitVec.ofNat 128 (r.data.toNat + second (fun x => x.data.toNat) * 2 ^ 64) }

/-! ### The channel blocks of a tile (R300) -/

/-- The block of a copy channel of a member. -/
def Part.chanAt (q : Part) (t : Coord) (ch : Fin 4) : Nat := q.blockAt t + 0x19400 + 0x1000 * ch.val

/-- A word of a frozen partition's channel fails: the first error sets ERR, in the tile or in the save area (R249, R304). -/
def State.failFrozen (s : State) (q : Part) (t : Coord) (ch : Fin 4) (code n : Nat) : State :=
  if q.written then
    let a := q.chanAt t ch + 12
    if s.areaNat q a 1 = 0 then s.areaWrite q a (leBytes 1 code) else s
  else s.modChan (.tile t) ch fun c => c.fail code n

end Sys2Proof.Machine
end

