-- ==== Sys2Proof/Machine/Engine.lean ====
section
/-! DEFINITION. What copy channels, engine elements, deadline requests, bank commands and reductions do in a cycle
(R209 to R212, R241, R245, R247 to R251, R256 to R259, R317, R396). -/

namespace Sys2Proof.Machine

/-- A partition that is to freeze at the end of this cycle for a cause other than a fault (R294, R295). -/
def Part.stopFor (q : Part) (cause : Nat) : Part :=
  { q.withCause cause with freezing := true }

/-- A cycle fault of a channel or router at a tile (R273). -/
def State.unitFault (s : State) (pid : Nat) (t : Coord) (p kind : Nat) (f : Flt) (ch : Nat := 0) : State :=
  s.cycleFault pid (unitRecord t .access p kind f ch)

/-! ### The walk of a tile's channel -/

/-- What the walk of a tile channel works on: the partition, the tile, the channel, the cycle and the command. -/
structure WalkCx where
  pid : Nat
  t : Coord
  ch : Fin 4
  p : Nat
  cmd : Cmd

/-- The owner of the walk's channel. -/
def WalkCx.owner (w : WalkCx) : Owner := .tile w.t

/-- A word of the tile read by a channel; an uncorrectable word is a cycle fault that withholds nothing (R272). -/
def State.readOwn (s : State) (w : WalkCx) (t : Coord) (off : Nat) : State × DWord :=
  let v := BitVec.ofNat 64 (Mem.readLE s.mem (tileAddr t off) 8)
  match (s.tile t).eccAt off 8 with
  | none => (s, v)
  | some f => (s.unitFault w.pid t w.p 1 f w.ch.val, v)

/-- The writer of a channel's stream word (R271). -/
def WalkCx.writer (w : WalkCx) (kind n : Nat) : Writer := ⟨kind, 0, 0, w.ch.val, w.t.x, w.t.y, some n⟩

/-- A stream word that is to be written into a tile at the end of cycle c (R247, R251). -/
def State.writeAt (s : State) (w : WalkCx) (t : Coord) (off : Nat) (v : DWord) (kind n c : Nat) : State :=
  s.modTile t fun tl => tl.push c (.store off (leBytes 8 v.toNat) false true (w.writer kind n))

/-- The stream number of word k of element e. -/
def WalkCx.word (w : WalkCx) (e k : Nat) : Nat := w.cmd.first + e * w.cmd.shape.w + k

/-- Stream words noted as pending (R240). -/
def State.notePending (s : State) (w : WalkCx) (n : Nat) : State := s.modChan w.owner w.ch fun c => c.pending n

/-- An element out of range whose cycle s_e is `se`: ORC at its end, and for cpy.s its words complete without a write (R242,
R245). -/
def State.skipElement (s : State) (w : WalkCx) (e se : Nat) : State :=
  let s1 := s.modTile w.t fun tl => tl.push se (.orc w.ch)
  if w.cmd.form = .cpyS then
    (List.range w.cmd.shape.w).foldl (fun s k =>
      s.modTile w.t fun tl => tl.push (se + w.cmd.shape.w + 3) (.wordDone w.ch (w.word e k))) s1
  else s1

/-- The skipped elements of a command whose cycles s_e fall after p: the issue side of a path from an owned pseudo-channel can end
before them (R245, R248). -/
def State.skipRest (s : State) (w : WalkCx) (st : Nat) : State :=
  let se (e : Nat) : Nat := st + e * (w.cmd.shape.w + 1)
  ((List.range w.cmd.elements).filter fun e => w.cmd.skips e && decide (w.p < se e)).foldl (fun s e => s.skipElement w e (se e)) s

/-- The offset that an address of space 0, 1 or 2 names at its home. -/
def homeOffset (a : Nat) : Nat :=
  match a / 2 ^ 60 with
  | 2 => a % 2 ^ 40
  | _ => a % 2 ^ 17

/-- An element that is on its way to its home or back (R247). -/
def WalkCx.element (w : WalkCx) (id e : Nat) (home : Coord) (pc : Option Nat) (se arrive : Nat) (dst : Bool) : Element :=
  let ks := List.range w.cmd.shape.w
  { id := id, tile := w.t, ch := w.ch, e := e, home := home, pc := pc, se := se, arrive := arrive, dst := dst, refusedAt := none,
    first := w.word e 0, homeOffs := ks.map fun k => homeOffset (if dst then w.cmd.dstAddr e k else w.cmd.srcAddr e k),
    tileOffs := ks.map fun k => homeOffset (if dst then w.cmd.srcAddr e k else w.cmd.dstAddr e k), zero := false }

/-- The address or request flit of element e (R247). -/
def State.sendElement (s : State) (w : WalkCx) (e : Nat) (dst : Bool) : State :=
  s.modPart w.pid fun q =>
    let home := w.cmd.home
    let el := w.element q.next e home none w.p (w.p + routeT w.t home) dst
    let a := if dst then w.cmd.dstAddr e 0 else w.cmd.srcAddr e 0
    { q with next := q.next + 1, elems := q.elems ++ [el] }.inject .engine w.t home w.p (BitVec.ofNat 64 a) el.id none

/-- A data word of a destination element put into the mesh and noted as pending; of one that its home has refused no word follows
(R240, R247, R250). -/
def State.sendElementWord (s : State) (w : WalkCx) (e n : Nat) (v : DWord) : State :=
  match (s.part w.pid).bind fun q => q.elems.find? fun el => el.tile == w.t && el.ch == w.ch && el.e == e && el.dst && el.first == w.word e 0 with
  | none => s
  | some el => (s.notePending w n).modPart w.pid fun q => q.inject .engine w.t el.home w.p v el.id none

/-! ### Deadline requests (R249) -/

/-- The ERR code of a reply (R240, R359). -/
def replyErr : Reply → Nat
  | .ok .. => 0
  | .refused | .unsup => 1
  | .uncorr .. => 2
  | .pathDown | .abort => 3
  | .xlate _ => 4

/-- The ERR code of a request that cannot leave (R215, R216, R249). -/
def fltErr (f : Flt) : Nat := if f.code = fcPathDown then 3 else 1

/-- A request of a channel noted as outstanding (R261). -/
def State.addRequest (s : State) (o : Owner) (r : Request) : State :=
  match o with
  | .hub d h => s.modHub d h fun hb => { hb with requests := hb.requests ++ [r] }
  | .tile t =>
    match s.partOf t with
    | none => s
    | some q => s.modPart q.pid fun q => { q with requests := q.requests ++ [r] }

/-- A word of a deadline path sent to its home (R249). -/
def State.sendDeadline (s : State) (o : Owner) (ch : Fin 4) (n off addr : Nat) (write sys : Bool) (v : DWord)
    (via : List (Nat × Nat)) : State :=
  let s0 := s.modChan o ch fun c => c.pending n
  match s0.routeAccess addr 8 with
  | .error f => s0.modChan o ch fun c => c.fail (fltErr f) n
  | .ok (dest, _) =>
    let id := s0.freeCount
    let t : Coord := match o with | .tile t => t | .hub .. => ⟨0, 0⟩
    let a : Loose := { src := .channel o ch id, op := if write then .write else .read, addr := BitVec.ofNat 64 addr, size := 8,
                       data := if write then leBytes 8 v.toNat else [], cmp := 0, sys := sys }
    ({ s0 with freeCount := s0.freeCount + 1 }.addRequest o ⟨id, t, ch, n, off, write⟩).sendLoose a dest via

/-! ### Translation of a channel's elements (R317, R322) -/

/-- The other side's address of word k of element e on a deadline path. -/
def Cmd.farAddr (c : Cmd) (e k : Nat) : Nat := if c.path = .deadlineDst then c.dstAddr e k else c.srcAddr e k
/-- Whether a command's other side is translated. -/
def Cmd.virtual (c : Cmd) : Bool :=
  match c.path with
  | .deadlineDst => spaceOf (capCur c.dst.data) == 3
  | .deadlineSrc => spaceOf (capCur c.src.data) == 3
  | _ => false
/-- Whether element e makes no access to its other side. -/
def Cmd.farSkipped (c : Cmd) (e : Nat) : Bool :=
  c.skips e && !(c.form == .cpyG && c.path == .deadlineDst)

/-- The lookups of an element's words on a die under an ASID: the state with its dirty log, the translated addresses with the entries
used, in reverse, and the missed addresses, one a 4 KiB page, with whether the log is full. -/
def State.lookupWords (s : State) (die asid : Nat) (need : XNeed) (hub : Bool) (vas : List Nat) :
    State × List (Nat × Nat) × List (Nat × Bool) :=
  vas.foldl (fun (acc : State × List (Nat × Nat) × List (Nat × Bool)) a =>
    let va := a % 2 ^ 48
    match acc.1.xlateAt die asid va need hub with
    | .hit s1 addr _ e => (s1, (addr, e) :: acc.2.1, acc.2.2)
    | .miss full =>
      if acc.2.2.any fun m => m.1 / 4096 == va / 4096 then acc else (acc.1, acc.2.1, acc.2.2 ++ [(va, full)])) (s, [], [])

/-- The permissions that a command's other side needs. -/
def Cmd.need (c : Cmd) : XNeed := if c.path = .deadlineDst then ⟨false, true⟩ else ⟨true, false⟩

/-- In cycle s_e - 1 a partition channel looks up the pages of element e; a miss freezes the partition with cause 2 and asks
the translation hub (R317). -/
def State.lookAhead (s : State) (pid : Nat) (t : Coord) (ch : Fin 4) (p : Nat) : State :=
  match (s.tile t).chans[ch].run, s.part pid with
  | some cmd, some q =>
    match cmd.start with
    | none => s
    | some st =>
      let w := cmd.shape.w + 1
      let e := (p + 1 - st) / w
      let tr (s : State) (l : List (Nat × Nat)) : State := s.modChan (.tile t) ch fun c => { c with run := c.run.map fun m => { m with tr := l } }
      if !cmd.virtual ∨ p + 1 < st ∨ (p + 1 - st) % w ≠ 0 then s
      else if cmd.elements ≤ e ∨ cmd.farSkipped e then tr s []
      else
        let r := s.lookupWords (dieOf t) q.lrec.asid cmd.need false ((List.range cmd.shape.w).map (cmd.farAddr e))
        if r.2.2.isEmpty then
          tr r.1 r.2.1.reverse
        else
          r.2.2.foldl (fun s m =>
            let a := s.askXlate (dieOf t) pid false (if cmd.need.wr then 1 else 0) q.lrec.asid m.1 m.2
            a.1.modPart pid fun q =>
              { q.stopFor 2 with xlate := q.xlate ++ [⟨a.2, dieOf t, t, ch, m.1, none⟩] }) (tr r.1 [])
  | _, _ => s

/-! ### The walk -/

/-- The address of word k of element e on the other side of a deadline path, with the translation entry that gave it, if any. -/
def Cmd.farWord (c : Cmd) (die e k : Nat) : Nat × List (Nat × Nat) :=
  if c.virtual then let r := c.tr.getD k (0, 0); (r.1, [(die, r.2)]) else (c.farAddr e k, [])

/-- What an element's step j does on a member-tile, local or deadline path: j = 0 is cycle s_e, j = k + 1 its word k
(R245, R247, R249). A skipped element of cpy.s makes no access to its source either: the manual says of it only that nothing is
written (log entry 20). A skipped element of cpy.g writes zeros, and each of its words completes as any word for that destination does, not at
s_e + W + 3 (R242; DESIGN CHOICE, log entry 109). -/
def State.walkStep (s : State) (w : WalkCx) (e j : Nat) : State :=
  let c := w.cmd
  let skip := c.skips e
  if j = 0 then
    let s1 := if skip then s.skipElement w e w.p else s
    match c.path with
    | .memberDst => if skip && c.form == .cpyS then s1 else s1.sendElement w e true
    | .memberSrc =>
      if skip then s1
      else (List.range c.shape.w).foldl (fun s k => s.notePending w (w.word e k)) (s1.sendElement w e false)
    | .deadlineSrc =>
      if skip then s1
      else
        (List.range c.shape.w).foldl (fun s k =>
          let a := c.farWord (dieOf w.t) e k
          s.sendDeadline w.owner w.ch (w.word e k) (homeOffset (c.dstAddr e k)) a.1 false false 0 a.2) s1
    | _ => s1
  else
    let k := j - 1
    let n := w.word e k
    if skip && c.form == .cpyS then s
    else
      match c.path with
      | .localOnly | .memberSrc | .deadlineSrc =>
        if c.path != .localOnly && !skip then s
        else
          let r := if skip then (s, 0#64) else s.readOwn w w.t (homeOffset (c.srcAddr e k))
          (r.1.notePending w n).writeAt w w.t (homeOffset (c.dstAddr e k)) r.2 4 n (w.p + 3)
      | .memberDst =>
        let r := if skip then (s, 0#64) else s.readOwn w w.t (homeOffset (c.srcAddr e k))
        r.1.sendElementWord w e n r.2
      | .deadlineDst =>
        let r := if skip then (s, 0#64) else s.readOwn w w.t (homeOffset (c.srcAddr e k))
        let a := c.farWord (dieOf w.t) e k
        r.1.sendDeadline w.owner w.ch n 0 a.1 true false r.2 a.2
      | _ => s

/-- The attachment tile of a pseudo-channel (R248). -/
def pcTile (g : Nat) : Coord :=
  let st := g / 256
  ⟨125 * (st % 8) + 125 * (g % 256) / 256, if st < 8 then 0 else 199⟩

/-- Word r of a walk toward owned pseudo-channels: it is read and sent to the staging buffer of its pseudo-channel (R248). ORC counts
a skipped element in the cycle of its first word, this walk having no other cycle for it (log entry 20). -/
def State.walkStage (s : State) (w : WalkCx) (r : Nat) : State :=
  let c := w.cmd
  let e := r / c.shape.w
  let k := r % c.shape.w
  let skip := c.skips e
  let s1 := if skip && k == 0 then s.skipElement w e w.p else s
  let v := if skip then (s1, 0#64) else s1.readOwn w w.t (homeOffset (c.srcAddr e k))
  (v.1.notePending w (w.word e k)).modPart w.pid fun q =>
    let hb := homeOffset (c.dstAddr e k)
    let el := { w.element q.next e (pcTile (pcOf hb)) (some (pcOf hb)) w.p w.p true with
                  first := w.word e k, homeOffs := [hb], tileOffs := [] }
    { q with next := q.next + 1, elems := q.elems ++ [el] }.inject .engine w.t el.home w.p v.2 el.id none

/-- The group of a reduction command, and the key of its word k (R257, R259). -/
def redKey (g : GroupEntry) (c : Cmd) (st k : Nat) : RedKey :=
  { gw := g.gw, gh := g.gh, gx := g.gx, gy := g.gy, op := g.op, lane := g.lt, entry := c.entry, get := c.form == .gget,
    start := st, word := k }

/-- A reduction word put into the mesh. -/
def Part.injectRed (q : Part) (key : RedKey) (t : Coord) (ch : Fin 4) (v : DWord) (due : Nat) : Part :=
  { q with redWords := q.redWords ++ [{ id := q.next, caught := none, late := [], count := 1, key := key, tile := t,
                                        ch := ch, data := v, due := due }]
           next := q.next + 1 }

/-- The tiles of a group. -/
def GroupEntry.tiles (g : GroupEntry) (q : Part) : List Coord :=
  (List.range g.gh).flatMap fun j => (List.range g.gw).map fun i => ⟨q.x0 + g.gx + i, q.y0 + g.gy + j⟩

/-- Word k of a gput or gget in its cycle s + k (R257). A gput member other than the origin holds no pending word: its words are
no part of its stream, and what BUSY shows of them is left open (log entry 20). -/
def State.walkReduce (s : State) (w : WalkCx) (st k : Nat) : State :=
  match s.part w.pid with
  | none => s
  | some q =>
    let c := w.cmd
    let g := groupEntry ((s.tile w.t).gtab.toList.getD c.entry 0)
    let key := redKey g c st k
    let due := w.p + g.latency q
    let org := g.origin q
    let get := c.form == .gget
    let s1 :=
      if get && w.t != org then s
      else
        let r := s.readOwn w w.t (homeOffset ((capCur c.src.data).toNat + 8 * k))
        r.1.modPart w.pid fun q =>
          if get then (g.tiles q).foldl (fun q t => q.injectRed key t w.ch r.2 due) q else q.injectRed key w.t w.ch r.2 due
    if get || w.t == org then
      let n := c.first + k
      (s1.notePending w n).modPart w.pid fun q =>
        { q with redWaits := q.redWaits ++ [⟨key, w.t, w.ch, homeOffset ((capCur c.dst.data).toNat + 8 * k), due, n⟩] }
    else s1

/-- The running command of a channel ends with its issue side, and the queued one begins (R241). -/
def Chan.turnOver (c : Chan) (p : Nat) : Chan :=
  match c.run with
  | none => c
  | some r =>
    match r.last with
    | none => c
    | some l =>
      if p < l then c
      else { c with run := c.que.map fun m => m.begin' (max (m.issued + 4) (l + 1)), que := none }

/-- A damaged channel's state, read in a cycle in which its command works: a cycle fault; the walk of that cycle writes the state anew
(R272; log entry 36). -/
def State.channelRead (s : State) (pid : Nat) (t : Coord) (ch : Fin 4) (p : Nat) : State :=
  if damaged (s.tile t).damage 0x26 (2 ^ 8 + ch.val) then
    (s.cycleFault pid (unitRecord t .access p 1 { code := fcEccLocal, reason := 0x26, info := 2 ^ 8 + ch.val } ch.val)).modTile t fun tl =>
      { tl with damage := mend 0x26 [2 ^ 8 + ch.val] tl.damage }
  else s

/-- A tile's channel in cycle p: what its running command does, the change to the queued command, and the lookups for the
next element (R241, R245 to R249, R257, R317). -/
def State.walkTile (s : State) (pid : Nat) (t : Coord) (ch : Fin 4) (p : Nat) : State :=
  let s1 :=
    match (s.tile t).chans[ch].run with
    | none => s
    | some cmd =>
      match cmd.start with
      | none => s
      | some st =>
        if p < st then s
        else
          let w : WalkCx := ⟨pid, t, ch, p, cmd⟩
          let r := p - st
          let len := cmd.shape.w + 1
          let s1 :=
            match cmd.path with
            | .pcDst => if r < cmd.words then s.walkStage w r else s
            | .reduce => if r < cmd.n then s.walkReduce w st r else s
            | _ => if r < cmd.elements * len then s.walkStep w (r / len) (r % len) else s
          let done := match (s1.chan w.owner ch).run with | none => false | some m => m.last.any fun l => decide (l ≤ p)
          let s2 := if cmd.path = Path.pcSrc ∧ done then s1.skipRest w st else s1
          s2.channelRead pid t ch p
  (s1.modChan (.tile t) ch fun c => c.turnOver p).lookAhead pid t ch p

/-! ### A hub's channel -/

/-- A word of a hub's own SRAM written by its channel; it completes at once, its quad's tag is cleared, and damage of the word is
gone. -/
def State.hubWord (s : State) (d h off : Nat) (ch : Fin 4) (n : Nat) (v : DWord) : State :=
  let ga := hubAddr d h off
  let s1 := { s with mem := Mem.write s.mem ga (leBytes 8 v.toNat), qtags := eraseAll s.qtags (ga / 16 * 16) }
  (s1.modHub d h fun hb => { hb with damage := mend 0x27 [off] hb.damage }).modChan (.hub d h) ch fun c => c.finish n

/-- A word of a hub's own SRAM read by its channel: a damaged one is the hub's fault, which does not withhold the word; WHO names the
unit (R272, R273, R281). -/
def State.hubRead (s : State) (d h off : Nat) : State × DWord :=
  let v : DWord := BitVec.ofNat 64 (Mem.readLE s.mem (hubAddr d h off) 8)
  match (s.hub d h).eccAt off 8 with
  | none => (s, v)
  | some f => (s.hubFault d h { hubRecord d h s.rmt 1 0 0 f with who := 24 }, v)

/-- A step of a hub channel's walk, as a step of the member-tile rows on the loose network (R247, R249). -/
def State.hubStep (s : State) (d h : Nat) (ch : Fin 4) (c : Cmd) (e j : Nat) : State :=
  let o : Owner := .hub d h
  let skip := c.skips e
  let num (k : Nat) := c.first + e * c.shape.w + k
  let far (k : Nat) := c.farWord d e k
  let sys (r : CReg) := hasPerm r.data pSYS
  if j = 0 then
    let s1 := if skip then s.modChan o ch Chan.outOfRange else s
    if skip && c.form == .cpyS then (List.range c.shape.w).foldl (fun s k => s.modChan o ch fun c => c.finish (num k)) s1
    else if c.path == .deadlineSrc && !skip then
      (List.range c.shape.w).foldl (fun s k => s.sendDeadline o ch (num k) (c.dstAddr e k) (far k).1 false (sys c.src) 0 (far k).2) s1
    else s1
  else
    let k := j - 1
    if skip && c.form == .cpyS then s
    else
      let r := if skip ∨ c.path = .deadlineSrc then (s, 0#64) else s.hubRead d h (c.srcAddr e k)
      match c.path with
      | .deadlineDst => r.1.sendDeadline o ch (num k) 0 (far k).1 true (sys c.dst) r.2 (far k).2
      | .localOnly => r.1.hubWord d h (c.dstAddr e k) ch (num k) r.2
      | _ => if skip then s.hubWord d h (c.dstAddr e k) ch (num k) 0 else s

/-- A hub's channel in a device cycle: one step of its walk. A translation that is missing holds the walk; one that failed
sets ERR, and the element is passed over (R249, R318). -/
def State.walkHub (s : State) (d h : Nat) (ch : Fin 4) : State :=
  let o : Owner := .hub d h
  let chan := s.chan o ch
  match chan.run with
  | none => s
  | some c =>
    if s.rmt < c.start.getD 0 then s
    else
      let len := c.shape.w + 1
      let e := c.burst / len
      let j := c.burst % len
      let move (s : State) (by' : Nat) : State :=
        s.modChan o ch fun m =>
          if c.elements * len ≤ c.burst + by' then
            { m with run := m.que.map fun x => x.begin' (max (x.issued + 4) (s.rmt + 1)), que := none }
          else { m with run := m.run.map fun x => { x with burst := x.burst + by' } }
      if c.virtual && j == 0 && !c.farSkipped e then
        match chan.xlate with
        | some (_, none) => s
        | some (_, some r) =>
          let s1 := s.modChan o ch fun m => { m with xlate := none }
          if r = 0 then s1
          else move ((List.range c.shape.w).foldl (fun s k => s.modChan o ch fun m => m.fail 4 (c.first + e * c.shape.w + k)) s1) len
        | none =>
          let asid := (s.hub d h).hasid.toNat
          let r := s.lookupWords d asid c.need true ((List.range c.shape.w).map (c.farAddr e))
          match r.2.2 with
          | [] =>
            let c' := { c with tr := r.2.1.reverse }
            move ((r.1.modChan o ch fun m => { m with run := some c' }).hubStep d h ch c' e j) 1
          | m :: _ =>
            let a := s.askXlate d h true (if c.need.wr then 1 else 0) asid m.1 m.2
            a.1.modChan o ch fun x => { x with xlate := some (a.2, none) }
      else move (s.hubStep d h ch c e j) 1

/-- CHANNEL_COMMAND_START: a channel's command starts at its start cycle and walks its elements, one cycle at a time (R241,
R244). -/
def execChannelCommandStart (o : Owner) (ch : Fin 4) (s : State) : Out :=
  match o with
  | .hub d h => .next (s.walkHub d h ch)
  | .tile t =>
    match s.partOf t with
    | none => .next s
    | some q => .next (s.walkTile q.pid t ch q.cyc)

/-! ### Elements at their homes (R250) -/

/-- The flits of an element that take their destination's local output in cycle p. -/
def Part.elemFlits (q : Part) (el : Element) (dst : Coord) (p : Nat) : List Flit :=
  q.flits.filter fun f => f.kind == .engine && f.job == el.id && f.dst == dst && f.arrives == p && q.wins f p

/-- The window check of an element when its address or request flit arrives (R250). -/
def State.checkElement (s : State) (el : Element) : Bool :=
  let off := el.homeOffs.foldl min (el.homeOffs.headD 0)
  (s.tile el.home).admits off (8 * el.homeOffs.length) .part (if el.dst then .wr else .rd)

/-- An element changed. -/
def Part.setElem (q : Part) (el : Element) : Part := { q with elems := q.elems.map fun (x : Element) => if x.id = el.id then el else x }

/-- The burst of a staging buffer that a word joins: the latest one of its channel and 64 bytes, unless it holds that word already
(R248). -/
def Part.openBurst (q : Part) (el : Element) (g a : Nat) : Option Nat :=
  let mine := q.staging.filter fun w => w.pc == g && w.tile == el.tile && w.ch == el.ch && w.addr / 64 == a / 64
  match mine.getLast? with
  | none => none
  | some l => if mine.any fun w => w.burst == l.burst && w.addr == a then none else some l.burst

/-- A word that reaches the staging buffer of an owned pseudo-channel; a ninth burst slips, and the word that is lost
stays pending (R248, R254; DESIGN CHOICE, log entry 110). -/
def State.stage (s : State) (pid : Nat) (el : Element) (g : Nat) (v : DWord) (p : Nat) : State :=
  match s.part pid with
  | none => s
  | some q =>
    let a := el.homeOffs.headD 0
    let bursts := ((q.staging.filter fun w => w.pc == g).map StageWord.burst).eraseDups
    match q.openBurst el g a with
    | some b => s.modPart pid fun q => { q with staging := q.staging ++ [⟨g, el.tile, el.ch, a, v, el.first, b, p, none⟩] }
    | none =>
      if bursts.length ≥ 8 then s.unitFault pid el.tile p 1 { code := fcSlipLate, reason := rsQueue } el.ch.val
      else
        s.modPart pid fun q =>
          { q with staging := q.staging ++ [⟨g, el.tile, el.ch, a, v, el.first, q.next, p, none⟩], next := q.next + 1 }

/-- ENGINE_ELEMENT_AT_HOME: in cycle p the element's address or request flit is checked against the home's windows, an
admitted source sends its next word, and words that arrive are written; a lost tile, whose channels are gone, takes none for them (R247,
R248, R250, R284). -/
def execEngineElementAtHome (pid id : Nat) (s : State) : Out :=
  match s.part pid with
  | none => .next s
  | some q =>
    match q.elems.find? fun e => e.id == id with
    | none => .next s
    | some el0 =>
      let p := q.cyc
      let el := if el0.pc.isNone && el0.arrive == p && !s.checkElement el0 then
          { el0 with refusedAt := some (p + routeT el0.tile el0.home + 1) } else el0
      let s1 := s.modPart pid fun q => q.setElem el
      let w : WalkCx :=
        ⟨pid, el.tile, el.ch, p,
          { form := .cpy, shape := shapeOf [], idx := [], src := .zero, dst := .zero, path := .memberSrc, issued := 0, start := none,
            last := none, first := el.first, burst := 0, tr := [], entry := 0, n := 0 }⟩
      let k := p - el.arrive - 1
      let s2 :=
        if el.pc.isNone && !el.dst && el.refusedAt.isNone && decide (el.arrive < p) && decide (k < el.homeOffs.length) then
          let r := s1.readOwn w el.home (el.homeOffs.getD k 0)
          r.1.modPart pid fun q => q.inject .engine el.home el.tile p r.2 el.id none
        else s1
      if el.dst then
        .next ((q.elemFlits el el.home p).foldl (fun s f =>
          match el.pc with
          | some g => s.stage pid el g f.payload p
          | none =>
            if el.refusedAt.isSome ∨ f.q ≤ el.se then s
            else
              let k := f.q - el.se - 1
              s.writeAt w el.home (el.homeOffs.getD k 0) f.payload 4 (el.first + k) (p + 3)) s2)
      else if (s.tile el.tile).lost then .next s2
      else
        .next ((q.elemFlits el el.tile p).foldl (fun s f =>
          if f.q ≤ el.arrive then s
          else
            let k := f.q - el.arrive - 1
            match el.tileOffs[k]? with
            | none => s
            | some off => s.writeAt w el.tile off f.payload 4 (el.first + k) (p + 3)) s2)

/-- ENGINE_REFUSAL_ARRIVAL: a refused element raises REMOTE_NACK at the channel's tile (R250, R276). -/
def execEngineRefusalArrival (pid id : Nat) (s : State) : Out :=
  match s.part pid with
  | none => .next s
  | some q =>
    match q.elems.find? fun e => e.id == id with
    | none => .next s
    | some el =>
      if el.refusedAt != some q.cyc then .next s
      else
        let s1 := s.modPart pid fun q => { q with elems := q.elems.filter fun e => e.id != id }
        let s2 := s1.modChan (.tile el.tile) el.ch fun c =>
          { c with inflight := c.inflight.filter fun n => !(decide (el.first ≤ n ∧ n < el.first + el.homeOffs.length)) }
        .next (s2.unitFault pid el.tile q.cyc 2
          { code := fcRemoteNack, info := el.e % 2 ^ 32 + el.ch.val * 2 ^ 32 + 2 * 2 ^ 47 } el.ch.val)

/-! ### Replies and deliveries (R249, R303, R304) -/

/-- The outstanding request with a number and its partition. -/
def State.requestOf (s : State) (id : Nat) : Option (Part × Request) :=
  s.parts.findSome? fun q => (q.requests.find? fun r => r.id == id).map fun r => (q, r)

/-- A reply applied: data become a delivery due at the end of this cycle, an acknowledgement completes its word, and
anything else sets ERR (R249). -/
def State.applyReply (s : State) (pid p : Nat) (r : Request) (reply : Reply) : State :=
  let s1 := s.modPart pid fun q => { q with requests := q.requests.filter fun x => x.id != r.id }
  match reply with
  | .ok data _ =>
    if r.write then s1.modChan (.tile r.tile) r.ch fun c => c.finish r.word
    else
      s1.modTile r.tile fun tl =>
        tl.push p (.delivery r.off (BitVec.ofNat 64 (leNat data)) (1 + r.ch.val) (some (r.ch, r.word)) false)
  | e => s1.modChan (.tile r.tile) r.ch fun c => c.fail (replyErr e) r.word

/-- The held record of a reply to an outstanding request (R304). -/
def Request.heldRec (r : Request) (q : Part) (reply : Reply) : HeldRec :=
  let code := replyErr reply
  { px := r.tile.x - q.x0, py := r.tile.y - q.y0, kind := if code = 0 then (if r.write then 2 else 1) else 3,
    who := r.ch.val + 16 * code, slot := 0, num := r.word,
    data := match reply with | .ok b _ => BitVec.ofNat 64 (leNat b) | _ => 0, extra := r.off }

/-- A reply that a frozen partition's held area takes; one that finds it full sets its channel's ERR to 1 (R303, R304). -/
def State.holdReply (s : State) (q : Part) (r : Request) (reply : Reply) : State :=
  let s1 := s.modPart q.pid fun q => { q with requests := q.requests.filter fun x => x.id != r.id }
  let h := s1.hold q [r.heldRec q reply]
  if h.2 then h.1 else h.1.failFrozen q r.tile r.ch 1 r.word

/-- A hub channel's request and its hub. -/
def State.hubRequestOf (s : State) (id : Nat) : Option (Nat × Request) :=
  s.hubs.findSome? fun (e : Nat × Hub) => (e.2.requests.find? fun r => r.id == id).map fun r => (e.1, r)

/-- DEADLINE_REPLY_ARRIVAL: a reply reaches its channel, or the held area of its frozen partition (R249, R261, R303). -/
def execDeadlineReplyArrival (id : Nat) (reply : Reply) (s : State) : Out :=
  match s.requestOf id with
  | some (q, r) =>
    .next (if q.form = .running then s.applyReply q.pid q.cyc r reply else s.holdReply q r reply)
  | none =>
    match s.hubRequestOf id with
    | none => .next s
    | some (key, r) =>
      let d := key / 64
      let h := key % 64
      let s1 := s.modHub d h fun hb => { hb with requests := hb.requests.filter fun x => x.id != id }
      .next (match reply with
        | .ok data _ =>
          if r.write then s1.modChan (.hub d h) r.ch fun c => c.finish r.word
          else s1.hubWord d h r.off r.ch r.word (BitVec.ofNat 64 (leNat data))
        | e => s1.modChan (.hub d h) r.ch fun c => c.fail (replyErr e) r.word)

/-- A delivery waiting in a tile: its offset, data, order, stream word and tag. -/
def Pend.deliveryAt (e : Pend) (p : Nat) : Option (Nat × Nat) :=
  match e.eff with
  | .delivery off _ order _ _ => if e.due ≤ p then some (off, order) else none
  | _ => none

/-- One delivery takes effect (R249). -/
def State.deliver (s : State) (t : Coord) (e : Pend) : State :=
  match e.eff with
  | .delivery off data _ ch tag =>
    let s1 := (s.storeTile t off (leBytes 8 data.toNat) tag true).noteWrites t off 8
    match ch with
    | none => s1
    | some (c, n) => s1.modChan (.tile t) c fun x => x.finish n
  | _ => s

/-- The deliveries of a tile that fall due: on a word with no write of the partition in this cycle they take effect, the
Carousel's first and then the channels' in their order; on any other word all of them wait, and so they do on a word that a Carousel flit
waits for, which `late` says (R249, R378). -/
def State.deliverTile (s : State) (t : Coord) (p : Nat) (late : Nat → Bool) : State :=
  let tl := s.tile t
  let ready := tl.pend.filter fun e =>
    match e.deliveryAt p with
    | none => false
    | some (off, _) => !s.wroteAt t off 8 && !late off
  let ordered := (List.range 5).flatMap fun o => ready.filter fun e => (e.deliveryAt p).any fun d => d.2 == o
  let s1 := s.modTile t fun tl => { tl with pend := tl.pend.filter fun e => !ready.contains e }
  ordered.foldl (fun s e => s.deliver t e) s1

/-! ### Reductions (R258, R259) -/

/-- OP of two lanes of w bits (R255, R258). -/
def redLane (op w a b : Nat) : Nat :=
  match op with
  | 0 => (a + b) % 2 ^ w
  | 1 => laneMin w a b
  | 2 => laneMax w a b
  | 3 => min a b
  | 4 => max a b
  | 5 => Nat.land a b
  | 6 => Nat.lor a b
  | _ => Nat.xor a b

/-- OP of two words, lane by lane. -/
def redWord (op lt : Nat) (a b : DWord) : DWord :=
  let w := 16 * 2 ^ lt
  BitVec.ofNat 64 (packLanes w (List.zipWith (redLane op w) (lanesOf a.toNat w (64 / w)) (lanesOf b.toNat w (64 / w))))

/-- The fold of the contributions. -/
def redFold (op lt : Nat) : List DWord → DWord
  | [] => 0
  | v :: r => r.foldl (redWord op lt) v

/-- A GROUP slip at a tile (R259, R271). -/
def State.groupFault (s : State) (pid : Nat) (t : Coord) (key : RedKey) (p ch : Nat) : State :=
  s.unitFault pid t p 1 { code := fcSlipEmpty, reason := rsGroup, info := key.entry + key.word * 2 ^ 6 } ch

/-- A reduction word that arrives where it is expected is written; one that is missing, miscounted or unexpected slips, at a lost
tile too (R259, R284). -/
def State.redArrive (s : State) (pid : Nat) (t : Coord) (key : RedKey) (p : Nat) (ws : List RedWord) (count : Nat) : State :=
  match s.part pid with
  | none => s
  | some q =>
    let wait := q.redWaits.find? fun w => w.key == key && w.tile == t
    let s1 := s.modPart pid fun q =>
      { q with redWords := q.redWords.filter fun w => !ws.contains w
               redWaits := q.redWaits.filter fun w => !(w.key == key && w.tile == t) }
    match wait with
    | none => s1.groupFault pid t key p ((ws.head?.map fun w => w.ch.val).getD 0)
    | some r =>
      if (ws.map RedWord.count).sum = count then
        s1.modTile t fun tl =>
          tl.push (p + 3) (.store r.dstOff (leBytes 8 (redFold key.op key.lane (ws.map RedWord.data)).toNat) false true
            ⟨5, 0, 0, r.ch.val, t.x, t.y, some r.stream⟩)
      else (s1.modChan (.tile t) r.ch fun c => { c with inflight := eraseAll c.inflight r.stream }).groupFault pid t key p r.ch.val

/-- REDUCTION_COMBINED_ARRIVAL: word k of a gput reaches the origin's local output; its count must be gw gh (R259). -/
def execReductionCombinedArrival (pid : Nat) (key : RedKey) (s : State) : Out :=
  match s.part pid with
  | none => .next s
  | some q =>
    let ws := q.redWords.filter fun w => w.key == key && w.due == q.cyc
    if ws.isEmpty ∨ key.get then .next s
    else .next (s.redArrive pid ⟨q.x0 + key.gx, q.y0 + key.gy⟩ key q.cyc ws (key.gw * key.gh))

/-- GGET_WORD_ARRIVAL: a broadcast word reaches a member, or is missing there (R259). -/
def execGgetWordArrival (t : Coord) (key : RedKey) (s : State) : Out :=
  match s.partOf t with
  | none => .next s
  | some q =>
    let ws := q.redWords.filter fun w => w.key == key && w.tile == t && w.due == q.cyc
    let expected := q.redWaits.any fun w => w.key == key && w.tile == t && w.due == q.cyc
    if !key.get ∨ (ws.isEmpty ∧ !expected) then .next s else .next (s.redArrive q.pid t key q.cyc ws 1)

/-! ### Bank commands (R209 to R211, R248) -/

/-- A bank-command entry whose command falls in this cycle (R207). -/
def Part.bankNow (q : Part) (entry cmd : Nat) : Option BankEntry :=
  match q.super, q.tt.bank[entry]? with
  | some u, some e => if e.pe = u.pe ∧ u.b + e.off = q.cyc ∧ e.cmd = cmd then some e else none
  | _, _ => none

/-- The open row of a bank. -/
def PChan.row (p : PChan) (bank : Nat) : Option Nat := assocGet p.rows bank

/-- BANK_ACT: the bank's row is open (R209). -/
def execBankAct (pid entry : Nat) (s : State) : Out :=
  match (s.part pid).bind fun q => q.bankNow entry 0 with
  | none => .next s
  | some e => .next (s.modPc e.pc fun p => { p with rows := assocSet p.rows e.bank e.row })

/-- BANK_PRE: the bank is closed (R209). -/
def execBankPre (pid entry : Nat) (s : State) : Out :=
  match (s.part pid).bind fun q => q.bankNow entry 3 with
  | none => .next s
  | some e => .next (s.modPc e.pc fun p => { p with rows := p.rows.filter fun r => r.1 != e.bank })

/-- The channel tile of an entry. -/
def Part.bankTile (q : Part) (e : BankEntry) : Coord := ⟨q.x0 + e.px, q.y0 + e.py⟩

/-- Whether an HBM address lies in the burst that an entry names, under the open row (R209). -/
def State.burstIs (s : State) (e : BankEntry) (hb : Nat) : Bool :=
  let pl := hbmPlace hb
  pcOf hb == e.pc && (s.pc e.pc).row e.bank == some pl.1 && pl.2.1 == e.bank && pl.2.2 == e.col

/-- The BANK slip of an entry (R209). -/
def State.bankSlip (s : State) (q : Part) (e : BankEntry) (entry : Nat) : State :=
  s.unitFault q.pid (q.bankTile e) q.cyc 1 { code := fcSlipLate, reason := rsBank, info := entry } e.ch

/-- BANK_RD: the channel must be armed for this burst; its bytes come at t + 96. An entry of a lost tile is not issued
(R209, R248, R284). -/
def execBankRd (pid entry : Nat) (s : State) : Out :=
  match s.part pid with
  | none => .next s
  | some q =>
    match q.bankNow entry 1 with
    | none => .next s
    | some e =>
      let t := q.bankTile e
      let ch : Fin 4 := Fin.ofNat 4 e.ch
      if (s.tile t).lost then .next s
      else
        match (s.tile t).chans[ch].run with
        | none => .next (s.bankSlip q e entry)
        | some c =>
          let per := c.shape.w / 8
          let el := c.burst / per
          let k := c.burst % per * 8
          let hb := homeOffset (c.srcAddr el k)
          if c.path = .pcSrc ∧ c.start.getD 0 ≤ q.cyc ∧ c.burst < c.elements * per ∧ s.burstIs e hb then
            let skip := c.skips el
            let first := c.first + el * c.shape.w + k
            let rd : HbmRead :=
              { id := q.next, pc := e.pc, addr := hb, at' := q.cyc + 96, tile := t, ch := ch, burst := c.burst,
                data := Mem.read s.mem (hbmAddr hb) 64, first := first,
                tileOffs := if skip then [] else (List.range 8).map fun i => homeOffset (c.dstAddr el (k + i)) }
            let c' := { c with burst := c.burst + 1,
                               last := if c.burst + 1 = c.elements * per then some (q.cyc + 107) else none }
            let s1 := s.modChan (.tile t) ch fun m =>
              { (if skip then m else (List.range 8).foldl (fun m i => m.pending (first + i)) m) with run := some c' }
            .next (s1.modPart pid fun q => { q with next := q.next + 1, reads := q.reads ++ [rd] })
          else .next (s.bankSlip q e entry)

/-- The burst that a channel is to write next: that of its first word in stream order which no WR entry has taken, if that word
stands in staging (R209, R248). -/
def Part.nextBurst (q : Part) (t : Coord) (ch : Nat) : Option Nat :=
  let staged := (q.staging.filter fun w => w.tile == t && w.ch.val == ch && w.wr.isNone).map fun w => (w.stream, some w.burst)
  let coming := (q.elems.filter fun e => e.tile == t && e.ch.val == ch && e.dst && e.pc.isSome && q.flits.any fun f =>
    f.kind == .engine && f.job == e.id).map fun e => (e.first, none)
  ((staged ++ coming).foldl (fun (b : Option (Nat × Option Nat)) w =>
    match b with
    | none => some w
    | some x => if w.1 < x.1 then some w else b) none).bind (·.2)

/-- BANK_WR: the entry's burst must be the channel's next, and its eight words must stand in the staging buffer since an earlier
cycle; they are written at t + 35 (R209, R242, R248). -/
def execBankWr (pid entry : Nat) (s : State) : Out :=
  match s.part pid with
  | none => .next s
  | some q =>
    match q.bankNow entry 2 with
    | none => .next s
    | some e =>
      let t := q.bankTile e
      let mine (w : StageWord) : Bool :=
        w.pc == e.pc && w.tile == t && w.ch.val == e.ch && w.wr.isNone && some w.burst == q.nextBurst t e.ch &&
          decide (w.at' < q.cyc) && s.burstIs e w.addr
      if (s.tile t).lost then .next s
      else if (q.staging.filter mine).length = 8 then
        .next (s.modPart pid fun q =>
          { q with staging := q.staging.map fun (w : StageWord) => if mine w then { w with wr := some (q.cyc + 35) } else w })
      else .next (s.bankSlip q e entry)

/-- At the end of cycle p the bursts that WR entries took are written, and their words complete (R209, R242). -/
def State.stageWrites (s : State) (pid p : Nat) : State :=
  match s.part pid with
  | none => s
  | some q =>
    let now := q.staging.filter fun w => w.wr == some p
    let s1 := s.modPart pid fun q => { q with staging := q.staging.filter fun w => w.wr != some p }
    now.foldl (fun s w =>
      { s with mem := Mem.write s.mem (hbmAddr w.addr) (leBytes 8 w.data.toNat),
               hbmDamage := eraseAll s.hbmDamage (hbmAddr w.addr / 64 * 64) }.modChan (.tile w.tile) w.ch
        fun c => c.finish w.stream) s1

/-- HBM_READ_DATA: a burst reaches its port at t + 96; its words enter the mesh from t + 100 on, or an uncorrectable burst
raises ECC_HBM and is not delivered: its words stay pending (R209, R248, R254; DESIGN CHOICE, log entry 110). -/
def execHbmReadData (pid id : Nat) (s : State) : Out :=
  match s.part pid with
  | none => .next s
  | some q =>
    match q.reads.find? fun r => r.id == id with
    | none => .next s
    | some r =>
      if r.at' != q.cyc then .next s
      else
        let s1 := s.modPart pid fun q => { q with reads := q.reads.filter fun x => x.id != id }
        if s.hbmDamage.contains (hbmAddr r.addr) then
          .next ((s1.modPc r.pc fun c => { c with unc := min (c.unc + 1) (2 ^ 32 - 1) }).unitFault pid r.tile q.cyc 1
            { code := fcEccHbm, reason := 0x29, info := hbmAddr r.addr } r.ch.val)
        else if r.tileOffs.isEmpty then .next s1
        else
          let home := pcTile r.pc
          .next (s1.modPart pid fun q =>
            let el : Element :=
              { id := q.next, tile := r.tile, ch := r.ch, e := r.burst, home := home, pc := some r.pc, se := r.at', arrive := r.at' + 3,
                dst := false, refusedAt := none, first := r.first, homeOffs := [], tileOffs := r.tileOffs, zero := false }
            (List.range 8).foldl (fun q k =>
              q.inject .engine home r.tile (r.at' + 4 + k) (BitVec.ofNat 64 (leNat ((r.data.drop (8 * k)).take 8))) el.id none)
              { q with next := q.next + 1, elems := q.elems ++ [el] })

/-- BANK_REFRESH: the base die refreshes a bank in its window, when every row of it is closed; nothing a program can see
changes (R210, R211). -/
def execBankRefresh (_pc _bank : Nat) (s : State) : Out := .next s

end Sys2Proof.Machine
end

