-- ==== Sys2Proof/Machine/Pending.lean ====
section
/-! DEFINITION. The pending-effect records of a core block (R302), and the model's own records behind them: of effects that the
manual gives no KIND, and of what a tile, its router and its channels hold in flight (R296, R300, R301; log entry 16). -/

namespace Sys2Proof.Machine

/-- A pending-effect record: its fields, and the values of the continuation records that follow it. -/
structure Rec where
  due : Nat
  kind : Nat
  who : Nat
  sel : Nat
  off : Nat
  val : Nat
  ext : List Nat
  deriving DecidableEq, Repr

/-- Continuation records: KIND 0xFF, with up to three values each. -/
def extBytes : List Nat → List Byte
  | [] => []
  | [a] => leBytes 8 a ++ leBytes 8 (0xFF + 1 * 2 ^ 8) ++ leBytes 16 0
  | [a, b] => leBytes 8 a ++ leBytes 8 (0xFF + 2 * 2 ^ 8) ++ leBytes 16 b
  | a :: b :: c :: l => leBytes 8 a ++ leBytes 8 (0xFF + 3 * 2 ^ 8) ++ leBytes 8 b ++ leBytes 8 c ++ extBytes l

/-- The bytes of a record (R302) with its continuation. -/
def Rec.bytes (r : Rec) : List Byte :=
  leBytes 8 r.due ++ leBytes 1 r.kind ++ leBytes 1 r.who ++ leBytes 2 r.sel ++ leBytes 4 r.off ++ leBytes 16 r.val ++ extBytes r.ext

/-- The values of a continuation record. -/
def extNats (l : List Byte) : List Nat := [recNat l 0 8, recNat l 16 8, recNat l 24 8].take (recNat l 9 1)

/-- The records in a row of 32-byte places; a place of KIND 0 holds none. -/
def parseRecs (l : List (List Byte)) : List Rec :=
  (l.foldr (fun b (a : List Nat × List Rec) =>
    if recNat b 8 1 = 0xFF then (extNats b ++ a.1, a.2)
    else ([], ⟨recNat b 0 8, recNat b 8 1, recNat b 9 1, recNat b 10 2, recNat b 12 4, recNat b 16 16, a.1⟩ :: a.2)) ([], [])).2.filter
    fun r => r.kind != 0

/-! ### Effects -/

/-- A coordinate as one value. -/
def coordNat (t : Coord) : Nat := t.x + 2 ^ 10 * t.y
/-- The coordinate of a value. -/
def natCoord (n : Nat) : Coord := ⟨n % 2 ^ 10, n / 2 ^ 10 % 2 ^ 10⟩
/-- An optional value as one value. -/
def optNat (o : Option Nat) : Nat := match o with | none => 0 | some n => n + 1
/-- The optional value of a value. -/
def natOpt (n : Nat) : Option Nat := if n = 0 then none else some (n - 1)
/-- The value at a place of a list. -/
def natAt (l : List Nat) (i : Nat) : Nat := l.getD i 0

/-- A writer's fields. -/
def Writer.nats (w : Writer) : List Nat := [w.kind, w.core, w.slot, w.entry, coordNat ⟨w.x, w.y⟩, optNat w.word]
/-- The writer of a list of fields, if they are given. -/
def writerOf (l : List Nat) (dflt : Writer) : Writer :=
  match l with
  | k :: c :: s :: e :: t :: w :: _ => ⟨k, c, s, e, (natCoord t).x, (natCoord t).y, natOpt w⟩
  | _ => dflt

/-- The core block that holds an effect's record, and the record: KINDs 1 to 11 are R302's, the others the model's. A store gives
the byte mask of its quad in SEL, the quad's offset in OFF and its bytes at their places in VALUE; WHO[4] marks one that sets full
bits. A Carousel change falls due in its issue cycle and never waits over a freeze. -/
def Pend.toRec (p : Pend) : Side × Rec :=
  let core (k : Side) : Nat := if k = .execute then 8 else 0
  let who (k : Side) (j : Fin 4) (tag : Bool) : Nat := j.val + 4 * tag.toNat + core k
  let mk (k : Side) (kind who sel off val : Nat) (ext : List Nat) : Side × Rec := (k, ⟨p.due, kind, who, sel, off, val, ext⟩)
  match p.eff with
  | .creg k j r v => mk k 1 (who k j v.tag) r.val 0 v.data.toNat []
  | .flOr j f => mk .execute 2 (who .execute j false) 0x011 0 f.toNat []
  | .flSet k j v => mk k 3 (who k j false) 0x011 0 v.toNat []
  | .fmSet k j v => mk k 3 (who k j false) 0x010 0 v.toNat []
  | .srSet k j v => mk k 3 (who k j false) 0x012 0 v.toNat []
  | .sSet k j n v => mk k 3 (who k j false) n.val 0 v.toNat []
  | .sByte j n pos v => mk .execute 3 (who .execute j false) (0x100 + n.val) pos v.toNat []
  | .store off data tag full w =>
    mk (if w.core = 1 then .execute else .access) (if off < 0x8000 then 4 else 5) (w.slot % 4 + 4 * tag.toNat + 8 * (w.core % 2) + 16 * full.toNat)
      ((2 ^ data.length - 1) * 2 ^ (off % 16)) (off / 16 * 16) (leNat data * 2 ^ (8 * (off % 16))) w.nats
  | .storeMask off mask v tag full w =>
    mk (if w.core = 1 then .execute else .access) (if off < 0x8000 then 4 else 5) (w.slot % 4 + 4 * tag.toNat + 8 * (w.core % 2) + 16 * full.toNat)
      mask off v.toNat w.nats
  | .lqPush j v => mk .access 6 (who .access j false) 0 0 v.toNat []
  | .sqPush j v => mk .execute 7 (who .execute j false) 0 0 v.toNat []
  | .accClear j z a => mk .execute 8 (who .execute j false) (if a.isSome then 1 else 0) z.val ((a.map BitVec.toNat).getD 0) []
  | .ovClear j z => mk .execute 8 (who .execute j false) 2 z.val 0 []
  | .msk j z v => mk .execute 9 (who .execute j false) 0 z.val v.toNat []
  | .mg j v =>
    mk .execute 9 (who .execute j false) 1 v.zarr.toNat (v.ndim.toNat + v.mdim.toNat * 2 ^ 32 + v.col0.toNat * 2 ^ 64 + v.row0.toNat * 2 ^ 96) []
  | .semAdd k j n v => mk k 10 (who k j false) 0 n.val v.toNat []
  | .semSub k j n v => mk k 10 (who k j false) 1 n.val v.toNat []
  | .fullClear k j off => mk k 11 (who k j false) 0 off 0 []
  | .lqPop => mk .access 12 0 0 0 0 []
  | .sqPop => mk .access 12 0 1 0 0 []
  | .amo off f size x e xact reg w =>
    let r := match reg with | none => [0, 0, 0, 0] | some (j, r, n) => [1, j.val, r.val, n]
    mk .access 13 0 f off (x.toNat + e.toNat * 2 ^ 64) ([size, xact] ++ r ++ w.nats)
  | .delivery off data order ch tag =>
    mk .access 14 (4 * tag.toNat) order off data.toNat (match ch with | none => [] | some (c, n) => [c.val, n])
  | .mark v => mk .access 15 0 0 0 v.toNat []
  | .gtab n v => mk .access 16 0 0 n.val v.toNat []
  | .orc ch => mk .access 17 0 ch.val 0 0 []
  | .xreg j id => mk .access 18 j.val 0 0 id []
  | .wordDone ch n => mk .access 19 0 ch.val 0 n []
  | .ready k j => mk k 20 (who k j false) 0 0 0 []
  | .crs _ => mk .access 0 0 0 0 0 []

/-- The bytes that a mask selects: the number of the first and how many follow it. -/
def maskSpan (m : Nat) : Nat × Nat :=
  let l := (List.range 16).filter fun i => m.testBit i
  (l.headD 0, l.length)

/-- The effect of a record of a core at tile t, if its KIND is one of an effect. A byte mask that a handler has left with gaps selects its
bytes all the same. -/
def Rec.toPend (t : Coord) (side : Side) (r : Rec) : Option Pend :=
  let j : Fin 4 := Fin.ofNat 4 r.who
  let tag := r.who.testBit 2
  let k : Side := if r.kind ≤ 3 ∨ r.kind = 10 ∨ r.kind = 11 ∨ r.kind = 20 then (if r.who.testBit 3 then .execute else .access) else side
  let mk (e : Eff) : Option Pend := some ⟨r.due, e⟩
  let z : Fin 4 := Fin.ofNat 4 r.off
  match r.kind with
  | 1 => mk (.creg k j (Fin.ofNat 32 r.sel) ⟨BitVec.ofNat 128 r.val, tag⟩)
  | 2 => mk (.flOr j (BitVec.ofNat 6 r.val))
  | 3 =>
    if r.sel = 0x011 then mk (.flSet k j (BitVec.ofNat 32 r.val))
    else if r.sel = 0x010 then mk (.fmSet k j (BitVec.ofNat 32 r.val))
    else if r.sel = 0x012 then mk (.srSet k j (BitVec.ofNat 128 r.val))
    else if 0x100 ≤ r.sel then mk (.sByte j (Fin.ofNat 8 r.sel) r.off (BitVec.ofNat 8 r.val))
    else mk (.sSet k j (Fin.ofNat 8 r.sel) (BitVec.ofNat 128 r.val))
  | 4 | 5 =>
    let m := maskSpan r.sel
    let w := writerOf r.ext ⟨0, r.who / 8 % 2, j.val, 0, t.x, t.y, none⟩
    if r.sel = (2 ^ m.2 - 1) * 2 ^ m.1 then mk (.store (r.off + m.1) (leBytes m.2 (r.val / 2 ^ (8 * m.1))) tag (r.who.testBit 4) w)
    else mk (.storeMask (r.off / 16 * 16) r.sel (BitVec.ofNat 128 r.val) tag (r.who.testBit 4) w)
  | 6 => mk (.lqPush j (BitVec.ofNat 128 r.val))
  | 7 => mk (.sqPush j (BitVec.ofNat 128 r.val))
  | 8 =>
    match r.sel with
    | 0 => mk (.accClear j z none)
    | 1 => mk (.accClear j z (some (BitVec.ofNat 10 r.val)))
    | _ => mk (.ovClear j z)
  | 9 =>
    let w (i : Nat) : BitVec 32 := BitVec.ofNat 32 (r.val / 2 ^ (32 * i))
    if r.sel = 0 then mk (.msk j z (BitVec.ofNat 64 r.val)) else mk (.mg j ⟨BitVec.ofNat 2 r.off, w 0, w 1, w 2, w 3⟩)
  | 10 =>
    if r.sel = 0 then mk (.semAdd k j (Fin.ofNat 16 r.off) (BitVec.ofNat 32 r.val))
    else mk (.semSub k j (Fin.ofNat 16 r.off) (BitVec.ofNat 32 r.val))
  | 11 => mk (.fullClear k j r.off)
  | 12 => mk (if r.sel = 0 then .lqPop else .sqPop)
  | 13 =>
    let reg := if natAt r.ext 2 = 0 then none else some ((Fin.ofNat 4 (natAt r.ext 3) : Fin 4), (Fin.ofNat 32 (natAt r.ext 4) : RegNo), natAt r.ext 5)
    mk (.amo r.off r.sel (natAt r.ext 0) (BitVec.ofNat 64 r.val) (BitVec.ofNat 64 (r.val / 2 ^ 64)) (natAt r.ext 1) reg
      (writerOf (r.ext.drop 6) ⟨3, 0, 0, 0, t.x, t.y, none⟩))
  | 14 =>
    mk (.delivery r.off (BitVec.ofNat 64 r.val) r.sel
      (match r.ext with | c :: n :: _ => some (Fin.ofNat 4 c, n) | _ => none) tag)
  | 15 => mk (.mark (BitVec.ofNat 128 r.val))
  | 16 => mk (.gtab (Fin.ofNat 64 r.off) (BitVec.ofNat 64 r.val))
  | 17 => mk (.orc (Fin.ofNat 4 r.sel))
  | 18 => some ⟨2 ^ 64, .xreg j r.val⟩
  | 19 => mk (.wordDone (Fin.ofNat 4 r.sel) r.val)
  | 20 => mk (.ready k j)
  | _ => none

/-! ### What is in flight -/

/-- A port word's fields, after a mark that there are any. -/
def portNats (o : Option PortWord) : List Nat :=
  match o with
  | none => [0, 0, 0, 0, 0, 0, 0]
  | some w => [1, w.port, w.slot, w.ss, w.peer, w.quads, w.j]

/-- The port word of seven fields. -/
def natsPort (l : List Nat) : Option PortWord :=
  if natAt l 0 = 0 then none else some ⟨natAt l 1, natAt l 2, natAt l 3, natAt l 4, natAt l 5, natAt l 6⟩

/-- Numbers below 2^17 packed three to a value. -/
def packOffs : List Nat → List Nat
  | [] => []
  | [a] => [a]
  | [a, b] => [a + b * 2 ^ 20]
  | a :: b :: c :: l => (a + b * 2 ^ 20 + c * 2 ^ 40) :: packOffs l

/-- The first n numbers of a packed list. -/
def unpackOffs (n : Nat) (l : List Nat) : List Nat :=
  (l.flatMap fun v => [v % 2 ^ 20, v / 2 ^ 20 % 2 ^ 20, v / 2 ^ 40]).take n

/-- A put or atomic between its issue and its answer: KIND 0x30. -/
def Xact.toRec (x : Xact) : Rec :=
  ⟨x.perform, 0x30, x.slot.val, 0, 0, 0,
    [x.id, coordNat x.src, x.slot.val, x.entry.val, coordNat x.home, x.addr.toNat, x.data.toNat, x.cmp.toNat, x.op, x.wide.toNat,
     x.dreg.val, x.ss, x.perform, x.answer, x.performed.toNat + 2 * x.refused.toNat + 4 * x.collided.toNat, x.result.toNat]⟩

/-- A put or atomic read back. -/
def Rec.toXact (r : Rec) : Xact :=
  let n := natAt r.ext
  { id := n 0, src := natCoord (n 1), slot := Fin.ofNat 4 (n 2), entry := Fin.ofNat 32 (n 3), home := natCoord (n 4), addr := BitVec.ofNat 64 (n 5),
    data := BitVec.ofNat 64 (n 6), cmp := BitVec.ofNat 64 (n 7), op := n 8, wide := n 9 == 1, dreg := Fin.ofNat 32 (n 10), ss := n 11,
    perform := n 12, answer := n 13, performed := (n 14).testBit 0, refused := (n 14).testBit 1, collided := (n 14).testBit 2,
    result := BitVec.ofNat 64 (n 15) }

/-- An element at its home or on its way: KIND 0x31. An element of a pseudo-channel has one home offset, which is not packed. -/
def Element.toRec (e : Element) : Rec :=
  ⟨e.arrive, 0x31, e.ch.val, 0, 0, 0,
    [e.id, coordNat e.tile, e.ch.val, e.e, coordNat e.home, optNat e.pc, e.se, e.arrive, e.dst.toNat + 2 * e.zero.toNat, optNat e.refusedAt,
     e.first, e.homeOffs.length, e.tileOffs.length] ++
    (if e.pc.isSome then e.homeOffs else packOffs e.homeOffs) ++ packOffs e.tileOffs⟩

/-- An element read back. -/
def Rec.toElement (r : Rec) : Element :=
  let n := natAt r.ext
  let l := r.ext.drop 13
  let homes := if n 5 = 0 then (n 11 + 2) / 3 else n 11
  { id := n 0, tile := natCoord (n 1), ch := Fin.ofNat 4 (n 2), e := n 3, home := natCoord (n 4), pc := natOpt (n 5), se := n 6, arrive := n 7,
    dst := (n 8).testBit 0, zero := (n 8).testBit 1, refusedAt := natOpt (n 9), first := n 10,
    homeOffs := if n 5 = 0 then unpackOffs (n 11) (l.take homes) else l.take homes, tileOffs := unpackOffs (n 12) (l.drop homes) }

/-- The kinds of flit by number. -/
def FlitKind.no : FlitKind → Nat
  | .stream => 0 | .putAddr => 1 | .putData => 2 | .engine => 3 | .ack => 4
/-- The kind of a number. -/
def flitKind (n : Nat) : FlitKind := match n with | 0 => .stream | 1 => .putAddr | 2 => .putData | 3 => .engine | _ => .ack

/-- What a flit record does not hold, by the record's number: KIND 0x32. -/
def Flit.toRec (f : Flit) (i : Nat) : Rec :=
  ⟨f.arrives, 0x32, 0, i, 0, 0,
    [f.id, coordNat f.src, f.q, optNat (f.caught.map (·.1)), (f.caught.map (·.2)).getD 0, f.job, f.inp, coordNat f.dst, f.kind.no] ++
      portNats f.port ++ [f.delay]⟩

/-- The reduction words of a partial, by the number of its flit record: KIND 0x33. -/
def RedWord.toRec (w : RedWord) (i : Nat) : Rec :=
  let k := w.key
  ⟨w.due, 0x33, w.ch.val, i, 0, 0,
    [w.id, coordNat w.tile, w.ch.val, w.due, optNat (w.caught.map (·.1)), (w.caught.map (·.2)).getD 0, k.gw, k.gh, k.gx, k.gy, k.op, k.lane,
     k.entry, k.get.toNat, k.start, k.word] ++ w.late.flatMap fun l => [coordNat l.1, l.2]⟩

/-- Pairs of a router and an output. -/
def natsLate : List Nat → List (Coord × Nat)
  | a :: b :: l => (natCoord a, b) :: natsLate l
  | _ => []

/-- A reduction key of ten fields. -/
def natsKey (n : Nat → Nat) : RedKey :=
  { gw := n 0, gh := n 1, gx := n 2, gy := n 3, op := n 4, lane := n 5, entry := n 6, get := n 7 == 1, start := n 8, word := n 9 }

/-- A reduction word read back with the data and the count of its flit record. -/
def Rec.toRedWord (r : Rec) (v : DWord) (count : Nat) : RedWord :=
  let n := natAt r.ext
  { id := n 0, tile := natCoord (n 1), ch := Fin.ofNat 4 (n 2), due := n 3, caught := (natOpt (n 4)).map fun c => (c, n 5),
    key := natsKey fun i => n (6 + i), late := natsLate (r.ext.drop 16), data := v, count := count }

/-- The expectation of a reduction word: KIND 0x34. -/
def RedWait.toRec (w : RedWait) : Rec :=
  let k := w.key
  ⟨w.due, 0x34, w.ch.val, 0, w.dstOff, w.stream,
    [coordNat w.tile, k.gw, k.gh, k.gx, k.gy, k.op, k.lane, k.entry, k.get.toNat, k.start, k.word]⟩

/-- An expectation read back. -/
def Rec.toRedWait (r : Rec) : RedWait :=
  { key := natsKey fun i => natAt r.ext (1 + i), tile := natCoord (natAt r.ext 0), ch := Fin.ofNat 4 r.who, dstOff := r.off, due := r.due,
    stream := r.val }

/-- An xmit.m or crs.send in progress: KIND 0x35. -/
def SendSt.toRec (d : SendSt) : Rec := ⟨d.n0, 0x35, d.slot.val, 0, d.off, d.n, [coordNat d.dst, optNat d.step] ++ portNats d.port⟩

/-- A send read back. -/
def Rec.toSend (r : Rec) : SendSt :=
  { n0 := r.due, n := r.val, off := r.off, slot := Fin.ofNat 4 r.who, dst := natCoord (natAt r.ext 0), step := natOpt (natAt r.ext 1),
    port := natsPort (r.ext.drop 2) }

/-- A catch in progress: KIND 0x36. -/
def CatchSt.toRec (c : CatchSt) : Rec :=
  ⟨c.a, 0x36, c.slot.val, c.n, c.off, (c.low.getD 0).toNat, [c.low.isSome.toNat + 2 * c.ok.toNat + 4 * c.many.toNat]⟩

/-- A catch read back. -/
def Rec.toCatch (r : Rec) : CatchSt :=
  let f := natAt r.ext 0
  { a := r.due, n := r.sel, off := r.off, slot := Fin.ofNat 4 r.who, low := if f.testBit 0 then some (BitVec.ofNat 64 r.val) else none,
    ok := f.testBit 1, many := f.testBit 2 }

/-- Bytes as values of eight bytes. -/
def bytesNats (n : Nat) (l : List Byte) : List Nat := (List.range ((n + 7) / 8)).map fun i => recNat l (8 * i) 8

/-! ### Changes of a list

What a freeze keeps of the faulting cycle differs little from what it holds: of each list the entries that it has more, with their
places, and those that it has not (R278; log entry 16). -/

/-- The entries of one list without those of another, one for one. -/
def listMinus {α : Type} [DecidableEq α] (l m : List α) : List α := m.foldl (fun l a => l.erase a) l

/-- The entries of a list that another has not, with their places from `n` on. -/
def addedAt {α : Type} [DecidableEq α] : List α → List α → Nat → List (α × Nat)
  | [], _, _ => []
  | a :: l, m, n => if m.contains a then addedAt l (m.erase a) (n + 1) else (a, n) :: addedAt l m (n + 1)

/-- Entries put back at their places, which rise. -/
def insertAt {α : Type} (l : List α) (added : List (α × Nat)) : List α := added.foldl (fun l a => l.take a.2 ++ a.1 :: l.drop a.2) l

/-- A record inside another: after the number of the list, 1 if it is one that the list has not, and its place. -/
def Rec.within (r : Rec) (which : Nat) (gone : Bool) (place : Nat) (k : Side) : Rec :=
  ⟨0, 0x3C, 0, 0, 0, 0, [which, gone.toNat, place, if k = .execute then 1 else 0, r.due, r.kind, r.who, r.sel, r.off, r.val % 2 ^ 64,
    r.val / 2 ^ 64] ++ r.ext⟩

/-- The record inside another, with its side. -/
def Rec.inner (r : Rec) : Side × Rec :=
  let n := natAt r.ext
  (if n 3 = 1 then .execute else .access, ⟨n 4, n 5, n 6, n 7, n 8, n 9 + n 10 * 2 ^ 64, r.ext.drop 11⟩)

/-- The changes of a list as records. -/
def listRecs {α : Type} [DecidableEq α] (toRec : α → Side × Rec) (which : Nat) (post x : List α) : List Rec :=
  ((addedAt x post 0).map fun a => (toRec a.1).2.within which false a.2 (toRec a.1).1) ++
    (listMinus post x).map fun a => (toRec a).2.within which true 0 (toRec a).1

/-- A list with its changes. -/
def listOf {α : Type} [DecidableEq α] (ofRec : Side → Rec → Option α) (which : Nat) (l : List Rec) (cur : List α) : List α :=
  let mine (gone : Nat) := l.filter fun r => r.kind == 0x3C && natAt r.ext 0 == which && natAt r.ext 1 == gone
  let read (r : Rec) : Option α := ofRec r.inner.1 r.inner.2
  insertAt (listMinus cur ((mine 1).filterMap read)) ((mine 0).filterMap fun r => (read r).map fun a => (a, natAt r.ext 2))

/-! ### Copy channels (R240, R300) -/

/-- A copied shape record (R243). -/
def Shape.bytes (r : Shape) : List Byte :=
  let i (v : Int) : List Byte := leBytes 4 (v % 2 ^ 32).toNat
  leBytes 2 (r.w - 1) ++ leBytes 2 (r.n0 - 1) ++ leBytes 2 (r.n1 - 1) ++ leBytes 2 (r.n2 - 1) ++ i r.ss0 ++ i r.ss1 ++ i r.ss2 ++
    i r.ds0 ++ i r.ds1 ++ i r.ds2 ++ i r.ioff ++ leBytes 4 r.lim ++ leBytes 1 (if r.isz = 4 then 1 else 0) ++ leBytes 1 (r.sws + 16 * r.swb) ++
    leBytes 6 0

/-- The forms by number. -/
def EngForm.code : EngForm → Nat
  | .cpy => 0 | .cpyG => 1 | .cpyS => 2 | .gput => 3 | .gget => 4
/-- The form of a number. -/
def engForm (n : Nat) : EngForm := match n with | 0 => .cpy | 1 => .cpyG | 2 => .cpyS | 3 => .gput | _ => .gget
/-- The paths by number. -/
def Path.code : Path → Nat
  | .localOnly => 0 | .memberDst => 1 | .memberSrc => 2 | .pcSrc => 3 | .pcDst => 4 | .deadlineDst => 5 | .deadlineSrc => 6 | .reduce => 7
/-- The path of a number. -/
def pathNo (n : Nat) : Path :=
  match n with
  | 0 => .localOnly | 1 => .memberDst | 2 => .memberSrc | 3 => .pcSrc | 4 => .pcDst | 5 => .deadlineDst | 6 => .deadlineSrc | _ => .reduce

/-- A command: 136 bytes, its index list, and its translated addresses with their entries. -/
def Cmd.bytes (c : Cmd) : List Byte :=
  leBytes 1 c.form.code ++ leBytes 1 c.path.code ++ leBytes 1 (c.src.tag.toNat + 2 * c.dst.tag.toNat) ++ leBytes 1 c.entry ++ leBytes 4 c.n ++
    leBytes 8 c.issued ++ leBytes 8 (optNat c.start) ++ leBytes 8 (optNat c.last) ++ leBytes 8 c.first ++ leBytes 8 c.burst ++
    leBytes 16 c.src.data.toNat ++ leBytes 16 c.dst.data.toNat ++ c.shape.bytes ++ leBytes 4 c.idx.length ++ leBytes 4 c.tr.length ++
    c.idx.flatMap (leBytes 4) ++ c.tr.flatMap fun p => leBytes 8 p.1 ++ leBytes 2 p.2

/-- A command read back, and the bytes behind it. -/
def cmdOf (l : List Byte) : Cmd × List Byte :=
  let ni := recNat l 128 4
  let nt := recNat l 132 4
  let tags := recNat l 2 1
  ({ form := engForm (recNat l 0 1), path := pathNo (recNat l 1 1), entry := recNat l 3 1, n := recNat l 4 4, issued := recNat l 8 8,
     start := natOpt (recNat l 16 8), last := natOpt (recNat l 24 8), first := recNat l 32 8, burst := recNat l 40 8,
     src := ⟨BitVec.ofNat 128 (recNat l 48 16), tags.testBit 0⟩, dst := ⟨BitVec.ofNat 128 (recNat l 64 16), tags.testBit 1⟩,
     shape := shapeOf ((l.drop 80).take 48), idx := (List.range ni).map fun i => recNat l (136 + 4 * i) 4,
     tr := (List.range nt).map fun i => (recNat l (136 + 4 * ni + 10 * i) 8, recNat l (144 + 4 * ni + 10 * i) 2) },
   l.drop (136 + 4 * ni + 10 * nt))

/-- A channel: wp, ORC, ERR, the length of its stream, its commands, and the words pending and done past the prefix. -/
def Chan.bytes (c : Chan) : List Byte :=
  leBytes 8 c.wp.toNat ++ leBytes 4 c.orc.toNat ++ leBytes 1 c.err.toNat ++ leBytes 3 (c.run.isSome.toNat + 2 * c.que.isSome.toNat) ++
    leBytes 8 c.len ++ leBytes 4 c.inflight.length ++ leBytes 4 c.done.length ++ (c.run.map Cmd.bytes).getD [] ++
    (c.que.map Cmd.bytes).getD [] ++ c.inflight.flatMap (leBytes 8) ++ c.done.flatMap (leBytes 8)

/-- A channel read back. -/
def chanOf (l : List Byte) : Chan :=
  let f := recNat l 13 1
  let run := if f.testBit 0 then let r := cmdOf (l.drop 32); (some r.1, r.2) else (none, l.drop 32)
  let que := if f.testBit 1 then let r := cmdOf run.2; (some r.1, r.2) else (none, run.2)
  let ni := recNat l 24 4
  { run := run.1, que := que.1, wp := BitVec.ofNat 64 (recNat l 0 8), orc := BitVec.ofNat 32 (recNat l 8 4), err := BitVec.ofNat 4 (recNat l 12 1),
    len := recNat l 16 8, inflight := (List.range ni).map fun i => recNat que.2 (8 * i) 8,
    done := (List.range (recNat l 28 4)).map fun i => recNat que.2 (8 * ni + 8 * i) 8, xlate := none }

/-- What of a channel does not fit its 4 KiB block: KIND 0x37. -/
def Chan.overflow (c : Chan) (ch : Fin 4) : List Rec :=
  let l := c.bytes.drop 4096
  if l.isEmpty then [] else [⟨0, 0x37, ch.val, 0, 0, l.length, bytesNats l.length l⟩]

/-- The bytes that a channel's overflow record holds. -/
def overflowBytes (l : List Rec) (ch : Fin 4) : List Byte :=
  match l.find? fun r => r.kind == 0x37 && r.who == ch.val with
  | none => []
  | some r => (r.ext.flatMap (leBytes 8)).take r.val

end Sys2Proof.Machine
end

