-- ==== Sys2Proof/Machine/Save.lean ====
section
/-! DEFINITION. The save area: what a freeze and a write-out write to HBM, and what a restore reads back (R297 to R302,
R387). Offsets within a region that the manual does not lay out are the model's (log entry 16). -/

namespace Sys2Proof.Machine

/-- Bits of a list of truth values, lowest first, as bytes. -/
def bitBytes : Nat → List Bool → List Byte
  | 0, _ => []
  | n + 1, l =>
    BitVec.ofNat 8 (((l.take 8).zipIdx.map fun p => p.1.toNat * 2 ^ p.2).sum) :: bitBytes n (l.drop 8)

/-! ### Fault records (R273, R274) -/

/-- The place of a record in its freeze: y, x, then core records, router records, channel records, and the writers of
collisions (R274). -/
def FRec.rank (r : FRec) : List Nat :=
  let cls :=
    if r.code = fcCollision ∧ r.reason = rsWrite then
      [3, bits r.info 16 0, bits r.info 19 17, bits r.info 45 38, bits r.info 37 28, bits r.info 20 20, bits r.info 22 21,
        bits r.info 27 23]
    else if r.who / 8 % 2 = 1 then
      if (r.code = fcCollision ∧ r.reason = rsRoute) ∨ (r.code = fcEccLocal ∧ r.reason = 0x25) then [1]
      else [2, r.chan]
    else [0, r.who % 2, bits r.who 2 1]
  r.y :: r.x :: cls

/-- Whether one rank stands before another. -/
def rankLt : List Nat → List Nat → Bool
  | [], _ :: _ => true
  | _, [] => false
  | a :: l, b :: m => decide (a < b) || (a == b && rankLt l m)

/-- A record inserted after those of no greater rank. -/
def insertRec (r : FRec) : List FRec → List FRec
  | [] => [r]
  | a :: l => if rankLt r.rank a.rank then r :: a :: l else a :: insertRec r l

/-- The records of a freeze in their order (R274). -/
def Part.records (q : Part) : List FRec := q.faults.foldl (fun l r => insertRec r l) []

/-! ### The header (R299) and the record -/

/-- The record as it stands in the journal: host bytes, then the device's fields (R161). -/
def Record.bytes (r : Record) : List Byte :=
  (r.body ++ leBytes 104 0).take 104 ++ leBytes 1 r.state ++ leBytes 1 r.pid ++ leBytes 2 r.xo ++ leBytes 2 r.yo ++
    leBytes 1 r.code ++ leBytes 1 0 ++ leBytes 8 r.t0 ++ leBytes 8 r.tend

/-- A fault record read from its bytes. -/
def readRecord (l : List Byte) : FRec :=
  { code := recNat l 0 1, reason := recNat l 1 1, who := recNat l 2 1, kind := recNat l 3 1, x := recNat l 4 2, y := recNat l 6 2,
    cyc := recNat l 8 8, pc := recNat l 16 4, word := recNat l 20 4, info := recNat l 24 8 }

/-- What a freeze writes to the save area: header, record and fault list (R274, R298). -/
def State.saveHeader (s : State) (q : Part) : State :=
  let a := hbmAddr q.saveAt
  let m := Mem.write s.mem a q.header
  let m := Mem.write m (a + 0x100) q.lrec.bytes
  { s with mem := Mem.write m (a + 0x1000) ((q.records.take 4096).flatMap FRec.bytes) }

/-! ### Tile blocks (R300, R301) -/

/-- The cells of a range of memory. -/
def Mem.range (m : List Host.Cell) (a n : Nat) : List Host.Cell := m.filter fun c => decide (a ≤ c.1) && decide (c.1 < a + n)

/-- A range of a memory `from'` copied over a range of another. -/
def Mem.copyFrom (m from' : List Host.Cell) (src dst n : Nat) : List Host.Cell :=
  let kept := m.filter fun c => !(decide (dst ≤ c.1) && decide (c.1 < dst + n))
  (Mem.range from' src n).foldl (fun l c => Mem.set l (dst + (c.1 - src)) c.2) kept

/-- A range of memory copied over another. -/
def Mem.copy (m : List Host.Cell) (src dst n : Nat) : List Host.Cell := Mem.copyFrom m m src dst n

/-- A slot record (R301). -/
def Slot.bytes (sl : Slot) : List (Nat × List Byte) :=
  [(0x000, sl.c.toList.flatMap fun c => leBytes 16 c.data.toNat),
   (0x200, bitBytes 4 (sl.c.toList.map CReg.tag)),
   (0x204, bitBytes 1 [sl.live, sl.loop.active, sl.hold.isSome, sl.pcc.tag]),
   (0x208, leBytes 8 ((sl.hold.getD 0).toNat)),
   (0x210, leBytes 16 sl.pcc.data.toNat),
   (0x220, sl.s.toList.flatMap fun v => leBytes 16 v.toNat),
   (0x2A0, leBytes 4 sl.fm.toNat), (0x2A4, leBytes 4 sl.fl.toNat), (0x2B0, leBytes 16 sl.sr.toNat),
   (0x2C0, ((sl.fbuf.words.map FWord.w ++ List.replicate 4 0).take 4).flatMap fun (w : Word) => leBytes 4 w.toNat),
   (0x2D0, leBytes 8 sl.fbuf.base.toNat), (0x2D8, leBytes 1 sl.fbuf.words.length),
   (0x2E0, leBytes 8 sl.loop.ls.toNat), (0x2E8, leBytes 8 sl.loop.le.toNat), (0x2F0, leBytes 4 sl.loop.lc.toNat)]

/-- A journal entry's 32 bytes (R275). -/
def JEntry.bytes (e : JEntry) : List Byte :=
  leBytes 8 e.addr.toNat ++ leBytes 8 e.data.toNat ++ leBytes 8 e.cmp.toNat ++ leBytes 4 e.ss.toNat ++ leBytes 1 e.op.toNat ++
    leBytes 1 (e.v.toNat + 2 * e.wide.toNat + 4 * e.slot.val) ++ leBytes 1 e.dreg.val ++ leBytes 1 0

/-- A row of values from a list of offsets and bytes, written at an address. -/
def Mem.writeAll (m : List Host.Cell) (a : Nat) (l : List (Nat × List Byte)) : List Host.Cell :=
  l.foldl (fun m p => Mem.write m (a + p.1) p.2) m

/-- A core record: the watchdog, the trn arrival and the frame of either core; in the access core's also the queues, their counts,
lq_pending, the reserved SQ places with their due cycles, ISS, ANS and whether the tile is lost (R284, R301). -/
def Tile.coreBytes (tl : Tile) (k : Side) : List (Nat × List Byte) :=
  let c := tl.core k
  let flags := c.frame.isSome.toNat + 2 * c.armed.toNat + 4 * c.trn.toNat + 8 * tl.lost.toNat
  let lqp := tl.pend.countP fun e => match e.eff with | .lqPush .. => true | _ => false
  let places := tl.pend.filterMap fun e => match e.eff with | .sqPush .. => some e.due | _ => none
  [(0x1104, leBytes 4 flags), (0x1108, leBytes 8 c.hbd)] ++
  (match c.frame with
   | none => []
   | some f =>
     [(0x1120, leBytes 8 f.owner.val ++ leBytes 8 f.base.toNat ++
        [f.n, f.len, f.ds, f.as, f.bs, f.es, f.i, f.j, f.words.length].flatMap (leBytes 4)),
      (0x1200, f.words.flatMap fun w => leBytes 4 w.w.toNat)]) ++
  (match k with
   | .execute => []
   | .access =>
     [(0x1000, tl.lq.flatMap fun v => leBytes 16 v.toNat), (0x1080, tl.sq.flatMap fun v => leBytes 16 v.toNat),
      (0x1100, [tl.lq.length, tl.sq.length, lqp, places.length].flatMap (leBytes 1)), (0x1110, leBytes 4 tl.iss.toNat ++ leBytes 4 tl.ans.toNat),
      (0x1160, places.flatMap (leBytes 8))])

/-- An accumulator: its elements, its anchor, OV and IV, and its mask. -/
def Acc.bytes (z : Acc) : List (Nat × List Byte) :=
  [(0, z.el.toList.flatMap fun e => leBytes 12 e.toNat), (0x300, leBytes 2 z.anchor.toNat), (0x302, leBytes 1 (z.ov.toNat + 2 * z.iv.toNat)),
   (0x308, leBytes 8 z.mask.toNat)]

/-- The matrix record: z0 to z3, mg, the image transfer in flight and the mma record (R301). -/
def Tile.matrixBytes (tl : Tile) : List (Nat × List Byte) :=
  (tl.z.toList.zipIdx.flatMap fun p => p.1.bytes.map fun b => (0x1400 + 0x320 * p.2 + b.1, b.2)) ++
  [(0x2080, leBytes 4 tl.mg.zarr.toNat ++ leBytes 4 tl.mg.ndim.toNat ++ leBytes 4 tl.mg.mdim.toNat ++ leBytes 4 tl.mg.col0.toNat ++
      leBytes 4 tl.mg.row0.toNat)] ++
  (match tl.image with
   | none => []
   | some i =>
     [(0x20A0, leBytes 8 1 ++ leBytes 8 i.due ++ leBytes 8 i.addr ++
        [i.z.val, i.add.toNat, i.slot.val, i.ov.toNat, i.iv.toNat].flatMap (leBytes 1) ++ leBytes 2 i.anchor.toNat ++ leBytes 1 i.el.length),
      (0x2100, i.el.flatMap fun e => leBytes 12 e.toNat)]) ++
  (match tl.mma with
   | none => []
   | some o =>
     [(0x2400, leBytes 8 1 ++ leBytes 8 o.issued ++ leBytes 8 o.lat ++ [o.z.val, o.fa, o.fb, o.ha.toNat, o.hb.toNat, 0].flatMap (leBytes 1) ++
        leBytes 2 o.anchor.toNat ++ leBytes 8 o.live.toNat ++ leBytes 16 o.sa.toNat ++ leBytes 16 o.sb.toNat ++
        [(o.rows.headD []).length, (o.cols.headD []).length].flatMap (leBytes 2)),
      (0x2500, o.rows.flatten), (0x2900, o.cols.flatten)])

/-- The parts of a tile block beside its memory, its flits and its pending-effect records, by offset (R300, R301). -/
def Tile.blockBytes (tl : Tile) (fullBits tagBits : List Bool) : List (Nat × List Byte) :=
  let at' (o : Nat) (l : List (Nat × List Byte)) : List (Nat × List Byte) := l.map fun p => (o + p.1, p.2)
  [(0x18000, bitBytes 512 fullBits), (0x18200, bitBytes 256 tagBits),
   (0x18300, tl.win.toList.flatMap fun w => leBytes 8 w.toNat),
   (0x18320, tl.winShadow.toList.flatMap fun w => leBytes 8 ((w.getD 0).toNat)),
   (0x18340, bitBytes 1 (tl.winShadow.toList.map Option.isSome)),
   (0x18380, tl.sem.toList.flatMap fun v => leBytes 4 v.toNat),
   (0x183C0, tl.marks.toList.flatMap fun v => leBytes 16 v.toNat),
   (0x18400, tl.journal.toList.flatMap JEntry.bytes),
   (0x18800, tl.gtab.toList.flatMap fun v => leBytes 8 v.toNat),
   (0x18A00, tl.gshadow.toList.flatMap fun v => leBytes 8 v.toNat)] ++
  (tl.chans.toList.zipIdx.map fun p => (0x19400 + 0x1000 * p.2, p.1.bytes.take 4096)) ++
  (tl.access.slots.toList.zipIdx.flatMap fun p => at' (0x20000 + 0x400 * p.2) p.1.bytes) ++
  (tl.exec.slots.toList.zipIdx.flatMap fun p => at' (0x28000 + 0x400 * p.2) p.1.bytes) ++
  at' 0x20000 (tl.coreBytes .access) ++ at' 0x28000 (tl.coreBytes .execute ++ tl.matrixBytes)

/-! ### Flits (R175, R300) -/

/-- A flit's last claim: its destination's local output, or the output onto its port, with its cycle. -/
def Flit.lastClaim (f : Flit) : Nat × Claim :=
  let c := f.claims.getLastD (0, ⟨f.dst, 4, 4⟩)
  (f.q + f.delay + c.1, c.2)

/-- The next claim of a flit after cycle p, with its cycle. -/
def Flit.nextClaim (f : Flit) (p : Nat) : Nat × Claim :=
  match f.claims.find? fun c => decide (p < f.q + f.delay + c.1) with
  | some c => (f.q + f.delay + c.1, c.2)
  | none => f.lastClaim

/-- The next claim of a reduction word after cycle p, with its cycle. -/
def RedWord.nextClaim (w : RedWord) (x0 y0 p : Nat) : Nat × Claim :=
  match (w.claims x0 y0 w.late).find? fun c => decide (p < w.key.start + w.key.word + c.1) with
  | some c => (w.key.start + w.key.word + c.1, c.2)
  | none => (w.due, ⟨w.tile, 4, 4⟩)

/-- The 16 bytes of a flit record: payload; route tag; stage, the cycles until it claims its output, or 15 in the safety net;
output; remaining cycles; kind, 1 for an acknowledgement and 2 for a reduction partial, with its count above (R173, R300; log entry
88). -/
def flitRecord (v : DWord) (tag : Nat) (caught : Bool) (next last : Nat × Claim) (p kind count : Nat) : List Byte :=
  let stage := if caught then 15 else min (next.1 - p - 1) 14
  leBytes 8 v.toNat ++ leBytes 8 (tag + stage * 2 ^ 20 + next.2.out * 2 ^ 24 + (last.1 - p) % 2 ^ 10 * 2 ^ 32 + kind * 2 ^ 44 +
    count % 2 ^ 16 * 2 ^ 48)

/-- The route tag of a flit bound for a tile of the partition (R173). -/
def Part.tagOf (q : Part) (dst : Coord) (kind : Nat) : Nat :=
  (dst.x - q.x0) % 2 ^ 10 + (dst.y - q.y0) % 2 ^ 8 * 2 ^ 10 + kind * 2 ^ 18

/-- The reduction words that a tile's router holds, each partial with the words that it combines or serves. -/
def Part.partials (q : Part) (t : Coord) : List (List RedWord) :=
  let next (w : RedWord) : Nat × Claim := w.nextClaim q.x0 q.y0 q.cyc
  let mine := q.redWords.filter fun w => (next w).2.at' == t
  ((mine.map fun w => (w.key, next w)).eraseDups).map fun k => mine.filter fun w => (w.key, next w) == k

/-- The data and the count of a partial: the fold of the contributions that it combines, or the broadcast word. -/
def partialWord (l : List RedWord) : DWord × Nat :=
  match l with
  | [] => (0, 0)
  | w :: _ => if w.key.get then (w.data, 1) else (redFold w.key.op w.key.lane (l.map RedWord.data), (l.map RedWord.count).sum)

/-- The member whose block holds a flit: that of the router that it is to claim next; for one outside the rectangle, on its way from or
to a port or a pseudo-channel, that of the member at its end (R175, R248, R350; log entry 16). -/
def Part.flitBlock (q : Part) (f : Flit) : Coord :=
  ([(f.nextClaim q.cyc).2.at', f.src, f.dst].find? q.holds).getD ⟨q.x0, q.y0⟩

/-- The flit records of a tile's router, and what the model keeps beside each (R300). -/
def Part.flitRecs (q : Part) (t : Coord) : List (List Byte × (Nat → List Rec)) :=
  let p := q.cyc
  let flits := (q.flits.filter fun f => q.flitBlock f == t).map fun f =>
    (flitRecord f.payload (q.tagOf f.dst f.kind.code) (f.caught.any fun c => c.1 == p + 1) (f.nextClaim p) f.lastClaim p
      (if f.kind = .ack then 1 else 0) 0, fun i => [f.toRec i])
  let parts := (q.partials t).map fun l =>
    let w := l.head?
    let v := partialWord l
    let claim := (w.map fun w => w.nextClaim q.x0 q.y0 p).getD (p, ⟨t, 4, 4⟩)
    let last := (w.map fun w => (w.due, claim.2)).getD claim
    (flitRecord v.1 (q.tagOf ((w.map fun w => w.dst q.x0 q.y0).getD t) 3) (w.any fun w => w.caught.any fun c => c.1 == p + 1) claim last p 2 v.2,
      fun i => l.map fun w => w.toRec i)
  flits ++ parts

/-! ### Tiles as memory -/

/-- The member tiles of a partition with memory, full bits and tags. -/
def State.snap (s : State) (q : Part) : Snap :=
  ⟨q.members.map fun t => (tileKey t, s.tile t), s.mem, s.full, s.qtags⟩

/-- The full bits of a tile, or its memory tags, as a row of truth values. -/
def markBits (l : List Nat) (t : Coord) (n step : Nat) : List Bool := (List.range n).map fun i => l.contains (tileAddr t (step * i))
/-- The addresses of the marks of a row of bits in memory. -/
def bitMarks (m : List Host.Cell) (a : Nat) (t : Coord) (n step : Nat) : List Nat :=
  ((List.range n).filter fun i => (Mem.get m (a + i / 8)).getLsbD (i % 8)).map fun i => tileAddr t (step * i)

/-- A tile of a snapshot laid out from address 0 on: its block without its records, and its channels whole, each behind its length. -/
def Snap.view (n : Snap) (t : Coord) : List Host.Cell :=
  let tl := (assocGet n.tiles (tileKey t)).getD .powerOn
  Mem.writeAll (Mem.copyFrom [] n.mem (tileAddr t 0) 0 0x18000) 0 (tl.blockBytes (markBits n.full t 4096 8) (markBits n.qtags t 2048 16) ++
    tl.chans.toList.zipIdx.flatMap fun c => [(0x40000 + 8 * c.2, leBytes 8 c.1.bytes.length), (0x100000 * (c.2 + 1), c.1.bytes)])

/-- What a member's tile was in the faulting cycle, against what the freeze holds: KIND 0x3B gives a quad of the layout as the freeze,
the issues of the cycle and the moment before its end have it, KIND 0x3C a change of a list (R278; log entry 16). -/
def Undo.recs (u : Undo) (t : Coord) : List Rec :=
  let v := [u.post.view t, u.first.view t, u.late.view t]
  let quad (m : List Host.Cell) (a : Nat) : Nat := Mem.readLE m (16 * a) 16
  let lines := ((v.flatMap fun m => m.map fun c => c.1 / 16).eraseDups).filter fun a =>
    !(v.all fun m => quad m a == quad (u.post.view t) a)
  let tl (n : Snap) : Tile := (assocGet n.tiles (tileKey t)).getD .powerOn
  let lists (which : Nat) (x : Tile) : List Rec :=
    let post := tl u.post
    listRecs Pend.toRec which post.pend x.pend ++ listRecs (fun d => (.access, SendSt.toRec d)) which post.sends x.sends ++
      listRecs (fun c => (.access, CatchSt.toRec c)) which post.catches x.catches
  (lines.map fun a => ⟨0, 0x3B, 0, 0, 16 * a, 0, v.flatMap fun m => [quad m a % 2 ^ 64, quad m a / 2 ^ 64]⟩) ++ lists 0 (tl u.first) ++
    lists 1 (tl u.late)

/-! ### Pending-effect records (R302) -/

/-- The record of a pending effect; the place of a space-1 atomic's result falls due with the answer that fills it. -/
def Part.effRec (q : Part) (e : Pend) : Side × Rec :=
  match e.eff with
  | .xreg _ id => (e.toRec.1, { e.toRec.2 with due := ((q.xacts.find? fun x => x.id == id).map Xact.answer).getD 0 })
  | _ => e.toRec

/-- The records of a core's effects by DUE and then in issue order, with their places among all the effects of the tile. -/
def Part.effRecs (q : Part) (tl : Tile) (k : Side) : List (Rec × Nat) :=
  (tl.pend.zipIdx.filterMap fun e => if (q.effRec e.1).1 = k then some ((q.effRec e.1).2, e.2) else none).mergeSort
    fun a b => decide (a.1.due ≤ b.1.due)

/-- The issue order of a tile's effects, kept while a result has no due cycle of its own: KIND 0x38. -/
def Part.orderRecs (q : Part) (tl : Tile) : List Rec :=
  if tl.pend.any fun e => match e.eff with | .xreg .. => true | _ => false then
    [⟨0, 0x38, 0, 0, 0, tl.pend.length, packOffs ((q.effRecs tl .access ++ q.effRecs tl .execute).map (·.2))⟩]
  else []

/-- What the header has no field for: KIND 0x39, with the resync marks, the superstep of an agreed step, that of cycle p if the freeze
keeps it, and the channels whose lookups are repeated; and KIND 0x3A, one for each record whose outcome stands (R189, R278, R317). -/
def Part.markRecs (q : Part) : List Rec :=
  ⟨0, 0x39, 0, 0, 0, q.xlate.length, [q.resync.toNat, optNat q.resyncAt, optNat q.pstepAt, optNat (q.undo.map Undo.ss)] ++
    q.xlate.flatMap fun w => [coordNat w.tile, w.ch.val]⟩ ::
    q.stood.map fun r => ⟨0, 0x3A, 0, 0, 0, r.chan, bytesNats 32 r.bytes⟩

/-- The records of a core block, by DUE and then in issue order: effects, and beside the access core's what the tile's router and
channels hold, beside the execute core's the elements of its channels; the first member's have the partition's marks. -/
def Part.recs (q : Part) (t : Coord) (tl : Tile) (k : Side) : List Rec :=
  let rest := match k with
    | .execute => (q.elems.filter fun e => e.tile == t).map Element.toRec
    | .access =>
      tl.sends.map SendSt.toRec ++ tl.catches.map CatchSt.toRec ++ (q.xacts.filter fun x => x.src == t).map Xact.toRec ++
        (q.redWaits.filter fun w => w.tile == t).map RedWait.toRec ++ (q.flitRecs t).zipIdx.flatMap (fun f => f.1.2 f.2) ++
        ((List.finRange 4).flatMap fun ch => tl.chans[ch].overflow ch) ++ q.orderRecs tl ++
        (if t = ⟨q.x0, q.y0⟩ then q.markRecs else []) ++ ((q.undo.map fun u => u.recs t).getD [])
  ((q.effRecs tl k).map (·.1) ++ rest).mergeSort fun a b => decide (a.due ≤ b.due)

/-- The bytes of a core block's records. -/
def Part.recBytes (q : Part) (t : Coord) (tl : Tile) (k : Side) : List Byte := (q.recs t tl k).flatMap Rec.bytes

/-- The number of a core among those of a module. -/
def coreKey (t : Coord) (k : Side) : Nat := 2 * tileKey t + if k = .execute then 1 else 0

/-- Bytes kept under a number, if there are any. -/
def keepBytes (key : Nat) (l : List Byte) : List (Nat × List Byte) := if l.isEmpty then [] else [(key, l)]

/-- A partition with what of its records and flit records the places of the save area do not hold (log entry 16). -/
def State.withOver (s : State) (q : Part) : Part :=
  { q with
    overRecs := q.members.flatMap fun t => [Side.access, .execute].flatMap fun k =>
      keepBytes (coreKey t k) ((q.recBytes t (s.tile t) k).drop (640 * 32))
    overFlits := q.members.flatMap fun t => keepBytes (tileKey t) (((q.flitRecs t).drop 128).flatMap (·.1)) }

/-- A member's tile block written to the save area; bytes without contents are 0. 128 flit records fit a block and 640 records a core
block (R300 to R302). -/
def State.saveTile (s : State) (q : Part) (t : Coord) : State :=
  let tl := s.tile t
  let a := hbmAddr (q.saveAt + q.blockAt t)
  let m := (Mem.copy s.mem (tileAddr t 0) a 0x18000).filter fun c => !(decide (a + 0x18000 ≤ c.1) && decide (c.1 < a + 0x40000))
  let recs (k : Side) : List Byte := (q.recBytes t tl k).take (640 * 32)
  { s with mem := Mem.writeAll m a (tl.blockBytes (markBits s.full t 4096 8) (markBits s.qtags t 2048 16) ++
      [(0x18C00, ((q.flitRecs t).take 128).flatMap (·.1)), (0x23000, recs .access), (0x2B000, recs .execute)]) }

/-! ### Pseudo-channel blocks (R298) -/

/-- A read burst in flight: its due cycle, address, stream number, tile, channel, offsets and data (log entry 16). -/
def HbmRead.bytes (r : HbmRead) : List Byte :=
  leBytes 8 r.at' ++ leBytes 5 r.addr ++ leBytes 7 r.first ++ leBytes 3 (coordNat r.tile) ++ leBytes 1 (r.ch.val + 4 * r.tileOffs.length) ++
    leBytes 4 r.burst ++ leBytes 17 ((r.tileOffs.zipIdx.map fun o => o.1 * 2 ^ (17 * o.2)).sum) ++ (r.data ++ List.replicate 64 0).take 64 ++
    leBytes 11 0

/-- A read burst read back. -/
def hbmRead (pc id : Nat) (l : List Byte) : HbmRead :=
  let n := recNat l 23 1
  { id := id, pc := pc, at' := recNat l 0 8, addr := recNat l 8 5, first := recNat l 13 7, tile := natCoord (recNat l 20 3),
    ch := Fin.ofNat 4 n, burst := recNat l 24 4, tileOffs := (List.range (n / 4)).map fun i => recNat l 28 17 / 2 ^ (17 * i) % 2 ^ 17,
    data := (l.drop 45).take 64 }

/-- A staged burst: its words at their places, then address and mask, the WR cycle at whose end it is written, tile, channel and burst
number, and the stream numbers of its words (log entry 16). -/
def stageBytes (l : List StageWord) : List Byte :=
  match l with
  | [] => []
  | w :: _ =>
    let word (i : Nat) : Option StageWord := l.find? fun v => v.addr / 8 % 8 == i
    let base := l.foldl (fun b v => min b v.stream) w.stream
    (List.range 8).flatMap (fun i => leBytes 8 (((word i).map fun v => v.data.toNat).getD 0)) ++
      leBytes 8 (w.addr / 64 * 2 ^ 8 + ((List.range 8).map fun i => (word i).isSome.toNat * 2 ^ i).sum) ++ leBytes 8 (optNat w.wr) ++
      leBytes 3 (coordNat w.tile) ++ leBytes 1 w.ch.val ++ leBytes 4 w.burst ++ leBytes 8 base ++
      (List.range 8).flatMap fun i => leBytes 4 (((word i).map fun v => v.stream - base).getD 0)

/-- The words of a staged burst read back; they stand in staging since cycle p at the latest. -/
def stageWords (pc p : Nat) (l : List Byte) : List StageWord :=
  let am := recNat l 64 8
  ((List.range 8).filter fun i => am.testBit i).map fun i =>
    { pc := pc, tile := natCoord (recNat l 80 3), ch := Fin.ofNat 4 (recNat l 83 1), addr := am / 2 ^ 8 * 64 + 8 * i,
      data := BitVec.ofNat 64 (recNat l (8 * i) 8), stream := recNat l 88 8 + recNat l (96 + 4 * i) 4, burst := recNat l 84 4, at' := p,
      wr := natOpt (recNat l 72 8) }

/-- The offset of the block of an owned pseudo-channel, by its place in the list. -/
def pcBlockAt (i : Nat) : Nat := 0x21000 + 0x800 * i

/-- The pseudo-channel blocks: the open bit and row of each bank, as recorded when the owner froze, the read bursts in flight and the
staging buffer (R211, R298). -/
def State.savePcs (s : State) (q : Part) : State :=
  q.tt.owned.zipIdx.foldl (fun s p =>
    let rows := (s.pc p.1).recorded
    let v := (List.range 16).flatMap fun b => leBytes 4 (match assocGet rows b with | none => 0 | some r => 2 ^ 31 + r)
    let reads := (q.reads.filter fun r => r.pc == p.1).take 8
    let words := q.staging.filter fun w => w.pc == p.1
    let bursts := ((words.map StageWord.burst).eraseDups).take 8
    s.areaWrite q (pcBlockAt p.2) ((v ++ reads.flatMap HbmRead.bytes ++ List.replicate ((8 - reads.length) * 120) 0) ++
      bursts.flatMap (fun b => stageBytes (words.filter fun w => w.burst == b)) ++ List.replicate ((8 - bursts.length) * 128) 0)) s

/-! ### Carousel port blocks (R387) -/

/-- A slot after n more quads of a step (R376). -/
def Binding.fill (b : Binding) (i : Fin 4) (ss n : Nat) : Binding :=
  let c := b.slots[i].count + n
  { b with slots := b.slots.set i ⟨if b.ring.sq + 1 ≤ c then .full else .filling, ss, c⟩ }

/-- The offset of a port's block. -/
def Part.portBlockAt (q : Part) (port : Nat) : Nat := q.crslAt + 0x11000 * port

/-- The header of a Carousel port block; `was` gives the counts at the freeze. -/
def Binding.block (b : Binding) (t : Coord) (q : Part) (was : List Nat) : List (Nat × List Byte) :=
  [(0x00, leBytes 8 b.seq), (0x08, leBytes 1 1), (0x09, leBytes 1 b.ring.n), (0x0A, leBytes 1 b.ring.rport),
   (0x0B, leBytes 1 b.ring.sport), (0x0C, leBytes 4 b.ring.sbase), (0x10, leBytes 2 b.ring.sq),
   (0x12, leBytes 2 (t.x - q.x0)), (0x14, leBytes 2 (t.y - q.y0)), (0x18, leBytes 4 b.ring.pred),
   (0x1C, leBytes 4 b.ring.succ), (0x20, leBytes 4 b.k.toNat),
   (0x40, b.slots.toList.zipIdx.flatMap fun p =>
      leBytes 8 ((match p.1.state with | .empty => 0 | .filling => 1 | .full => 2) + p.1.count * 2 ^ 2 + was.getD p.2 0 * 2 ^ 13 +
        p.1.tag * 2 ^ 32)),
   (0x60, b.views.toList.flatMap fun v => leBytes 8 (v.lent.toNat + v.tag * 2 ^ 32))]

/-- A binding's header written to its port block. -/
def State.writeBlock (s : State) (q : Part) (t : Coord) (b : Binding) (was : List Nat) : State :=
  (b.block t q was).foldl (fun s p => s.areaWrite q (q.portBlockAt b.ring.rport + p.1) p.2) s

/-- The counts at the freeze that a port block holds. -/
def State.blockWas (s : State) (q : Part) (port : Nat) : List Nat :=
  (List.range 4).map fun i => bits (s.areaNat q (q.portBlockAt port + 0x40 + 8 * i) 8) 23 13

/-- The tile and the binding of a port block, if it is bound for the partition of the header's SEQ. -/
def State.readBlock (s : State) (q : Part) (port : Nat) : Option (Coord × Binding) :=
  let d (o n : Nat) : Nat := s.areaNat q (q.portBlockAt port + o) n
  if d 0x08 1 % 2 = 1 ∧ d 0 8 = s.areaNat q 40 8 then
    some (⟨q.x0 + d 0x12 2, q.y0 + d 0x14 2⟩,
      { ring := { n := d 0x09 1, rport := d 0x0A 1, sport := d 0x0B 1, sbase := d 0x0C 4, sq := d 0x10 2, pred := d 0x18 4, succ := d 0x1C 4 }
        seq := q.lrec.seq, k := BitVec.ofNat 32 (d 0x20 4)
        slots := Vector.ofFn fun i =>
          let v := d (0x40 + 8 * i.val) 8
          ⟨match v % 4 with | 0 => .empty | 1 => .filling | _ => .full, v / 2 ^ 32, bits v 12 2⟩
        views := Vector.ofFn fun i => let v := d (0x60 + 8 * i.val) 8; ⟨v.testBit 0, v / 2 ^ 32⟩
        deferred := [] })
  else none

/-- Accepted quads of a slot put into the data area of a port block, and the header's count grown (R387). -/
def State.blockQuads (s : State) (q : Part) (t : Coord) (b : Binding) (i : Fin 4) (f : SlotFlit) : State :=
  (s.areaWrite q (q.portBlockAt b.ring.rport + 0x1000 + 0x4000 * i.val + 16 * f.q0) (f.quads.flatMap fun v => leBytes 16 v.toNat)).writeBlock
    q t (b.fill i f.ss f.quads.length) (s.blockWas q b.ring.rport)

/-- A freeze writes each binding to its port block, with the crs.send in progress; flits that wait to be written go into the block's
data area, and blocks that belong to no binding are cleared (R387; log entry 16). -/
def State.saveCarousel (s : State) (q : Part) : State :=
  let s0 := (List.range 64).foldl (fun s b => s.areaClear q (q.portBlockAt b) 0x1000) s
  q.members.foldl (fun s t =>
    let tl := s.tile t
    match tl.binding with
    | none => s
    | some b =>
      let s1 := s.writeBlock q t { b with deferred := [] } (b.slots.toList.map RSlot.count)
      let s2 := match tl.sends.find? fun d => d.step.isSome with
        | none => s1
        | some d =>
          s1.areaWrite q (q.portBlockAt b.ring.rport + 0x80)
            (leBytes 8 d.n0 ++ leBytes 8 d.off ++ leBytes 8 ((q.cyc - d.n0) / 2 + 1) ++ leBytes 8 (d.step.getD 0))
      let s3 := b.deferred.foldl (fun s f =>
        match s.readBlock q b.ring.rport with
        | none => s
        | some r => s.blockQuads q t r.2 (Fin.ofNat 4 f.slot) f) s2
      s3.modTile t fun tl => { tl with binding := some { b with deferred := [] } }) s0

/-- The bindings reloaded from their port blocks, with the crs.send in progress, and the quads held since the freeze written into their
slots in index order (R278 step 1, R387). -/
def State.loadCarousel (s : State) (q : Part) : State :=
  (List.range 64).foldl (fun s port =>
    match s.readBlock q port with
    | none => s
    | some (t, b) =>
      if (s.tile t).lost then s
      else
        let d (o : Nat) : Nat := s.areaNat q (q.portBlockAt port + o) 8
        let s1 := s.modTile t fun tl =>
          { tl with binding := some b
                    sends := tl.sends.map fun x => if x.step.isSome then { x with n0 := d 0x80, off := d 0x88, step := some (d 0x98) } else x }
        (List.range 4).foldl (fun s i =>
          let n := (s.blockWas q port).getD i 0
          let m := bits (s.areaNat q (q.portBlockAt port + 0x40 + 8 * i) 8) 12 2
          ((List.range m).filter fun k => decide (n ≤ k)).foldl (fun s k =>
            s.storeTile t (b.ring.sbase + 16 * (b.ring.sq + 1) * i + 16 * k) (s.areaRead q (q.portBlockAt port + 0x1000 + 0x4000 * i + 16 * k) 16)
              false true) s) s1) s

/-- INFO of a damaged item of a tile (R272): the damage key but for what the model adds to it. An anchor stands as its accumulator's
element 0, and the MXU's stages as the accumulator of the mma that runs (log entry 36). -/
def Tile.damageInfo (tl : Tile) (d : Damage) : Nat :=
  if d.reason = 0x21 then d.key % 2 ^ 11
  else if d.reason = 0x24 then d.key % 2 ^ 32
  else if d.reason = 0x22 ∧ 2 ^ 9 ≤ d.key then ((tl.mma.map fun o => o.z.val).getD 0)
  else if d.reason = 0x22 then d.key % 2 ^ 8
  else d.key

/-- The record of a damaged item of a tile that a write-out reads (R272): a cycle fault of the slot that the item belongs to, of the
router, or of a channel; what belongs to no slot stands as access slot 0, the MXU's as execute slot 0 (DESIGN CHOICE, log entry 111). -/
def damageRecord (tl : Tile) (t : Coord) (p : Nat) (d : Damage) : FRec :=
  let f : Flt := { code := if d.reason = 0x28 then fcEccBonded else fcEccLocal, reason := d.reason, info := tl.damageInfo d }
  if d.reason = 0x25 then unitRecord t .access p 1 f
  else if d.reason = 0x26 ∧ 2 ^ 8 ≤ d.key then unitRecord t .access p 1 f (if d.key < 2 ^ 9 then d.key % 2 ^ 8 else 0)
  else if d.reason = 0x22 then coreRecord t .execute 0 p 1 0 0 f
  else if d.reason = 0x21 then
    coreRecord t (if d.key / 2 ^ 10 % 2 = 1 then .execute else .access) (d.key / 2 ^ 8 % 4) p 1 0 0 f
  else if d.reason = 0x24 then coreRecord t (if d.key.testBit 34 then .execute else .access) (bits d.key 33 32) p 1 0 0 f
  else coreRecord t .access 0 p 1 0 0 f

/-- A partition whose state stands in the save area: nothing of it is left in the tiles, the routers and the pseudo-channels. -/
def Part.emptied (q : Part) : Part :=
  { q with flits := [], xacts := [], elems := [], redWords := [], redWaits := [], reads := [], staging := [] }

/-- An intermission of a partition that is requested and has not come is withdrawn (R277). -/
def State.withdraw (s : State) (pid : Nat) : State :=
  match s.ring.request with
  | some (i, v, _) => if v.contains pid ∧ s.rmt < i then s.modRing fun g => { g with request := none } else s
  | none => s

/-- WRITE_OUT: the frozen state goes to the save area, every window of the members becomes 0 and the tiles are free (R297). A
partition that is placed again and not yet restored has its state there already. Damaged items that it reads are faults of the frozen
partition (R272, R277). -/
def State.writeOut (s : State) (pid : Nat) : State :=
  match s.part pid with
  | none => s
  | some q =>
    if q.form = .writtenOut then s
    else
      let free (s : State) : State := q.members.foldl (fun s t => s.modTile t fun _ => .powerOn) s
      if q.written then
        let q' := { q with form := .writtenOut, restartAt := none }
        ((free s).modPart pid fun _ => q').refreshHeader pid
      else
        let found := q.members.flatMap fun t => (s.tile t).damage.map (damageRecord (s.tile t) t q.cyc)
        let q0 := if found.isEmpty then q else q.withCause 1
        let q' := { (s.withOver q0).emptied with form := .writtenOut, written := true, restartAt := none, faults := q.faults ++ found }
        let s1 := q.members.foldl (fun s t => s.saveTile q t) (found.foldl State.reportRecord s)
        let s2 := (free ((s1.savePcs q).saveHeader q')).modPart pid fun _ => q'
        if found.isEmpty then s2 else (s2.withdraw pid).first [.event (.trapMessage pid)]

/-! ### Restoring (R306) -/

/-- A quad of memory. -/
def Mem.quad (m : List Host.Cell) (a : Nat) : Quad := BitVec.ofNat 128 (Mem.readLE m a 16)
/-- A bit of a string in memory. -/
def Mem.bit (m : List Host.Cell) (a i : Nat) : Bool := (Mem.get m (a + i / 8)).getLsbD (i % 8)

/-- A slot read back from its record; the indication of an uncorrectable word is not part of it (R301). -/
def Slot.restore (m : List Host.Cell) (a : Nat) : Slot :=
  let d (o n : Nat) : Nat := Mem.readLE m (a + o) n
  { c := Vector.ofFn fun i => ⟨Mem.quad m (a + 16 * i.val), Mem.bit m (a + 0x200) i.val⟩
    pcc := ⟨Mem.quad m (a + 0x210), Mem.bit m (a + 0x204) 3⟩
    s := Vector.ofFn fun i => Mem.quad m (a + 0x220 + 16 * i.val)
    fm := BitVec.ofNat 32 (d 0x2A0 4), fl := BitVec.ofNat 32 (d 0x2A4 4), sr := Mem.quad m (a + 0x2B0)
    live := Mem.bit m (a + 0x204) 0
    fbuf := ⟨BitVec.ofNat 64 (d 0x2D0 8), (List.range (d 0x2D8 1)).map fun i => ⟨BitVec.ofNat 32 (d (0x2C0 + 4 * i) 4), false⟩⟩
    loop := ⟨BitVec.ofNat 64 (d 0x2E0 8), BitVec.ofNat 64 (d 0x2E8 8), BitVec.ofNat 32 (d 0x2F0 4), Mem.bit m (a + 0x204) 1⟩
    hold := if Mem.bit m (a + 0x204) 2 then some (BitVec.ofNat 64 (d 0x208 8)) else none }

/-- A journal entry read back. -/
def JEntry.restore (m : List Host.Cell) (a : Nat) : JEntry :=
  let d (o n : Nat) : Nat := Mem.readLE m (a + o) n
  { addr := BitVec.ofNat 64 (d 0 8), data := BitVec.ofNat 64 (d 8 8), cmp := BitVec.ofNat 64 (d 16 8)
    ss := BitVec.ofNat 32 (d 24 4), op := BitVec.ofNat 8 (d 28 1), v := Mem.bit m (a + 29) 0, wide := Mem.bit m (a + 29) 1
    slot := ⟨d 29 1 / 4 % 4, Nat.mod_lt _ (by decide)⟩, dreg := ⟨d 30 1 % 32, Nat.mod_lt _ (by decide)⟩ }

/-- A core read back from its block. -/
def Core.restore (m : List Host.Cell) (a : Nat) : Core :=
  let d (o n : Nat) : Nat := Mem.readLE m (a + o) n
  { slots := Vector.ofFn fun j => Slot.restore m (a + 0x400 * j.val)
    armed := Mem.bit m (a + 0x1104) 1, trn := Mem.bit m (a + 0x1104) 2, hbd := d 0x1108 8
    frame :=
      if Mem.bit m (a + 0x1104) 0 then
        let v (i : Nat) : Nat := d (0x1130 + 4 * i) 4
        some { owner := Fin.ofNat 4 (d 0x1120 8), base := BitVec.ofNat 64 (d 0x1128 8), n := v 0, len := v 1, ds := v 2, as := v 3, bs := v 4,
               es := v 5, i := v 6, j := v 7, words := (List.range (v 8)).map fun i => ⟨BitVec.ofNat 32 (d (0x1200 + 4 * i) 4), false⟩ }
      else none }

/-- An accumulator read back. -/
def Acc.restore (m : List Host.Cell) (a : Nat) : Acc :=
  { el := Vector.ofFn fun i => BitVec.ofNat 96 (Mem.readLE m (a + 12 * i.val) 12), anchor := BitVec.ofNat 10 (Mem.readLE m (a + 0x300) 2)
    ov := Mem.bit m (a + 0x302) 0, iv := Mem.bit m (a + 0x302) 1, mask := BitVec.ofNat 64 (Mem.readLE m (a + 0x308) 8) }

/-- The image transfer of a matrix record. -/
def ImageOp.restore (m : List Host.Cell) (a : Nat) : Option ImageOp :=
  let d (o n : Nat) : Nat := Mem.readLE m (a + o) n
  if d 0x20A0 8 = 0 then none
  else
    some { z := Fin.ofNat 4 (d 0x20B8 1), due := d 0x20A8 8, add := d 0x20B9 1 == 1, addr := d 0x20B0 8, slot := Fin.ofNat 4 (d 0x20BA 1),
           anchor := BitVec.ofNat 10 (d 0x20BD 2), ov := d 0x20BB 1 == 1, iv := d 0x20BC 1 == 1,
           el := (List.range (d 0x20BF 1)).map fun i => BitVec.ofNat 96 (d (0x2100 + 12 * i) 12) }

/-- The mma record of a matrix record; its contributions follow from it (R131, R301). -/
def MmaOp.restore (m : List Host.Cell) (a : Nat) : Option MmaOp :=
  let d (o n : Nat) : Nat := Mem.readLE m (a + o) n
  if d 0x2400 8 = 0 then none
  else
    let ra := d 0x2448 2
    let rb := d 0x244A 2
    some { z := Fin.ofNat 4 (d 0x2418 1), issued := d 0x2408 8, lat := d 0x2410 8, fa := d 0x2419 1, fb := d 0x241A 1,
           anchor := BitVec.ofNat 10 (d 0x241E 2), live := BitVec.ofNat 64 (d 0x2420 8),
           rows := (List.range 8).map fun i => Mem.read m (a + 0x2500 + ra * i) ra,
           cols := (List.range 8).map fun i => Mem.read m (a + 0x2900 + rb * i) rb,
           sa := Mem.quad m (a + 0x2428), sb := Mem.quad m (a + 0x2438), ha := BitVec.ofNat 1 (d 0x241B 1), hb := BitVec.ofNat 1 (d 0x241C 1) }

/-- The records of a core block, with those that its places do not hold. -/
def readRecs (m : List Host.Cell) (a : Nat) (rest : List Byte) : List Rec :=
  parseRecs (((List.range 640).map fun i => Mem.read m (a + 0x3000 + 32 * i) 32) ++
    (List.range (rest.length / 32)).map fun i => (rest.drop (32 * i)).take 32)

/-- The records of a core block of a member. -/
def State.coreRecs (s : State) (q : Part) (t : Coord) (k : Side) : List Rec :=
  readRecs s.mem (hbmAddr (q.saveAt + q.blockAt t + if k = .execute then 0x28000 else 0x20000)) ((assocGet q.overRecs (coreKey t k)).getD [])

/-- The effects of a tile from its records, in their issue order if that is kept. -/
def readPend (t : Coord) (ra re : List Rec) : List Pend :=
  let l := ra.filterMap (Rec.toPend t .access) ++ re.filterMap (Rec.toPend t .execute)
  match ra.find? fun r => r.kind == 0x38 && r.val == l.length with
  | none => l
  | some r => ((l.zip (unpackOffs l.length r.ext)).mergeSort fun a b => decide (a.2 ≤ b.2)).map (·.1)

/-- A tile read back from its block (R300, R301, R306); the records of its two core blocks are given. -/
def Tile.restore (m : List Host.Cell) (a : Nat) (t : Coord) (ra re : List Rec) : Tile :=
  let d (o n : Nat) : Nat := Mem.readLE m (a + o) n
  let ac := a + 0x20000
  let ex := a + 0x28000
  { access := Core.restore m ac, exec := Core.restore m ex
    lq := (List.range (d 0x21100 1)).map fun i => Mem.quad m (ac + 0x1000 + 16 * i)
    sq := (List.range (d 0x21101 1)).map fun i => Mem.quad m (ac + 0x1080 + 16 * i)
    z := Vector.ofFn fun i => Acc.restore m (ex + 0x1400 + 0x320 * i.val)
    mg := ⟨BitVec.ofNat 2 (d 0x2A080 4), BitVec.ofNat 32 (d 0x2A084 4), BitVec.ofNat 32 (d 0x2A088 4), BitVec.ofNat 32 (d 0x2A08C 4),
           BitVec.ofNat 32 (d 0x2A090 4)⟩
    mma := MmaOp.restore m ex, image := ImageOp.restore m ex
    win := Vector.ofFn fun j => BitVec.ofNat 64 (d (0x18300 + 8 * j.val) 8)
    winShadow := Vector.ofFn fun j =>
      if Mem.bit m (a + 0x18340) j.val then some (BitVec.ofNat 64 (d (0x18320 + 8 * j.val) 8)) else none
    sem := Vector.ofFn fun j => BitVec.ofNat 32 (d (0x18380 + 4 * j.val) 4)
    marks := Vector.ofFn fun j => Mem.quad m (a + 0x183C0 + 16 * j.val)
    iss := BitVec.ofNat 32 (d 0x21110 4), ans := BitVec.ofNat 32 (d 0x21114 4)
    journal := Vector.ofFn fun j => JEntry.restore m (a + 0x18400 + 32 * j.val)
    chans := Vector.ofFn fun ch => chanOf (Mem.read m (a + 0x19400 + 0x1000 * ch.val) 4096 ++ overflowBytes ra ch)
    gtab := Vector.ofFn fun j => BitVec.ofNat 64 (d (0x18800 + 8 * j.val) 8)
    gshadow := Vector.ofFn fun j => BitVec.ofNat 64 (d (0x18A00 + 8 * j.val) 8)
    sends := (ra.filter fun r => r.kind == 0x35).map Rec.toSend, catches := (ra.filter fun r => r.kind == 0x36).map Rec.toCatch
    binding := none, pend := readPend t ra re
    lost := Mem.bit m (ac + 0x1104) 3, damage := [] }

/-- The flit of record i of a tile's router: with what the model keeps beside it, its way or its remaining cycles as a handler may have
edited them, or added by a handler. -/
def Part.flitOf (q : Part) (t : Coord) (p : Nat) (l : List Byte) (r : Option Rec) : Flit :=
  let v := recNat l 8 8
  let left := p + bits v 41 32
  let tagged : Coord := ⟨q.x0 + v % 2 ^ 10, q.y0 + bits v 17 10⟩
  let data : DWord := BitVec.ofNat 64 (recNat l 0 8)
  match r with
  | some r =>
    let n := natAt r.ext
    let port := natsPort (r.ext.drop 9)
    let f : Flit :=
      { id := n 0, kind := flitKind (n 8), src := natCoord (n 1), dst := natCoord (n 7), q := n 2, payload := data,
        delay := n 16, caught := (natOpt (n 3)).map fun c => (c, n 4), job := n 5, port := port, inp := n 6 }
    if v % 2 ^ 20 = q.tagOf f.dst f.kind.code ∧ bits v 41 32 = (f.lastClaim.1 - p) % 2 ^ 10 then f
    else
      let g : Flit := { f with dst := if port.isSome then f.dst else tagged, delay := 0 }
      { g with delay := left - g.lastClaim.1 }
  | none =>
    { id := 0, kind := if bits v 47 44 = 1 then .ack else flitKind (bits v 19 18), src := t, dst := tagged, q := left - routeT t tagged,
      payload := data, delay := 0, caught := none, job := 0, port := none, inp := 4 }

/-- Flit record i of a member's block, or of those that its places do not hold. -/
def State.flitBytes (s : State) (q : Part) (t : Coord) (i : Nat) : List Byte :=
  if i < 128 then s.areaRead q (q.blockAt t + 0x18C00 + 16 * i) 16
  else (((assocGet q.overFlits (tileKey t)).getD []).drop (16 * (i - 128))).take 16

/-- How many flit records a member's block has places for, with those beyond them. -/
def Part.flitPlaces (q : Part) (t : Coord) : Nat := 128 + ((assocGet q.overFlits (tileKey t)).getD []).length / 16

/-- A partition with the flits, transactions, elements and reduction words that a tile block holds (R175, R300). -/
def State.restoreRouter (s : State) (q : Part) (p : Nat) (t : Coord) (ra re : List Rec) : Part :=
  let rec' (i : Nat) : List Byte := s.flitBytes q t i
  let of' (kind i : Nat) : List Rec := ra.filter fun r => r.kind == kind && r.sel == i
  let held := (List.range (q.flitPlaces t)).filter fun i => leNat (rec' i) != 0
  let flits := (held.filter fun i => (of' 0x33 i).isEmpty && bits (recNat (rec' i) 8 8) 47 44 != 2).map fun i => q.flitOf t p (rec' i) (of' 0x32 i).head?
  let red := held.flatMap fun i =>
    let v := BitVec.ofNat 64 (recNat (rec' i) 0 8)
    let l := of' 0x33 i
    if l.any fun r => natAt r.ext 13 == 1 then l.map fun r => r.toRedWord v 1 else (l.take 1).map fun r => r.toRedWord v (recNat (rec' i) 14 2)
  { q with
    flits := q.flits ++ flits, redWords := q.redWords ++ red, redWaits := q.redWaits ++ (ra.filter fun r => r.kind == 0x34).map Rec.toRedWait
    elems := q.elems ++ (re.filter fun r => r.kind == 0x31).map Rec.toElement
    xacts := q.xacts ++ (ra.filter fun r => r.kind == 0x30).map Rec.toXact }

/-- The flits that a handler has removed from a member's router, by the transaction or element that they served and the cycle in which
they were put into the mesh (R272, R300). -/
def State.goneFlits (s : State) (q : Part) (t : Coord) : List (Nat × Nat) :=
  ((s.coreRecs q t .access).filter fun r => r.kind == 0x32 && leNat (s.flitBytes q t r.sel) == 0).map fun r => (natAt r.ext 5, natAt r.ext 2)

/-- The transactions and elements of a partition whose members are all restored: a transaction is gone with any of its flits, an element
with the flit of its cycle s_e, and the rest have the words that their flits carry. A transaction's flits are numbered from its own number
on: the address, then x, then for amo.cas e (R175, R183, R233). -/
def Part.settleXacts (q : Part) (gone : List (Nat × Nat)) : Part :=
  let word (id : Nat) (v : DWord) : DWord := ((q.flits.find? fun f => f.kind == .putData && f.id == id).map Flit.payload).getD v
  { q with
    elems := q.elems.filter fun e => !gone.contains (e.id, e.se)
    xacts := (q.xacts.filter fun x => !(gone.map (·.1)).contains x.id).map fun x =>
      { x with data := word (x.id + 2) x.data, cmp := word (x.id + 3) x.cmp } }

/-- A member restored from its block into the tile that its logical address maps to. -/
def State.restoreTile (s : State) (q : Part) (t : Coord) : State :=
  let a := hbmAddr (q.saveAt + q.blockAt t)
  let c := s.clearTile t
  let ra := s.coreRecs q t .access
  let re := s.coreRecs q t .execute
  let m := Mem.copy c.mem a (tileAddr t 0) 0x18000
  let s1 := { c.setTile t (Tile.restore s.mem a t ra re) with
    mem := m, full := (bitMarks m (a + 0x18000) t 4096 8).foldl insertSorted c.full
    qtags := (bitMarks m (a + 0x18200) t 2048 16).foldl insertSorted c.qtags }
  s1.modPart q.pid fun x => s.restoreRouter x x.cyc t ra re

/-! ### The faulting cycle read back (R278) -/

/-- The tile of a layout, its lists changed as its records say: 0 as after the issues of the faulting cycle, 1 as before its end; 2 is
what the freeze held. -/
def Tile.ofView (v : List Host.Cell) (t : Coord) (cur : Tile) (l : List Rec) (which : Nat) : Tile :=
  { Tile.restore v 0 t [] [] with
    chans := Vector.ofFn fun ch => chanOf (Mem.read v (0x100000 * (ch.val + 1)) (Mem.readLE v (0x40000 + 8 * ch.val) 8))
    pend := listOf (Rec.toPend t) which l cur.pend
    sends := listOf (fun _ r => if r.kind = 0x35 then some r.toSend else none) which l cur.sends
    catches := listOf (fun _ r => if r.kind = 0x36 then some r.toCatch else none) which l cur.catches
    binding := cur.binding, lost := cur.lost, damage := cur.damage }

/-- A snapshot of a restored partition as it was: `which` as above, and `i` the place of its quads in the records. -/
def State.wasSnap (s : State) (q : Part) (now : Snap) (which i : Nat) : Snap :=
  let views := q.members.map fun t =>
    let l := s.coreRecs q t .access
    (t, l, (l.filter fun r => r.kind == 0x3B).foldl
      (fun m r => Mem.write m r.off (leBytes 8 (natAt r.ext (2 * i)) ++ leBytes 8 (natAt r.ext (2 * i + 1)))) (now.view t))
  { tiles := views.map fun v => (tileKey v.1, Tile.ofView v.2.2 v.1 ((assocGet now.tiles (tileKey v.1)).getD .powerOn) v.2.1 which)
    mem := views.flatMap fun v => (Mem.range v.2.2 0 0x18000).map fun c => (tileAddr v.1 0 + c.1, c.2)
    full := views.flatMap fun v => bitMarks v.2.2 0x18000 v.1 4096 8
    qtags := views.flatMap fun v => bitMarks v.2.2 0x18200 v.1 2048 16 }

/-- The state of the faulting cycle as the records of a save area give it. -/
def State.readUndo (s : State) (q : Part) (ss : Nat) : Undo :=
  let now := s.snap q
  { post := s.wasSnap q now 2 0, first := s.wasSnap q now 0 1, late := s.wasSnap q now 1 2, ss := ss }

/-- What the first member's records say of the partition; what a written-out partition itself still has stands. -/
def State.readMarks (s : State) (q : Part) : Part :=
  let l := s.coreRecs q ⟨q.x0, q.y0⟩ .access
  match l.find? fun r => r.kind == 0x39 with
  | none => q
  | some r =>
    let n := natAt r.ext
    let waits : List XlateWait := (List.range r.val).map fun i =>
      { num := 0, die := 0, tile := natCoord (n (4 + 2 * i)), ch := Fin.ofNat 4 (n (5 + 2 * i)), va := 0, outcome := some 0 }
    { q with
      resync := n 0 == 1, resyncAt := natOpt (n 1), pstepAt := q.pstepAt.or (natOpt (n 2)), xlate := if q.xlate.isEmpty then waits else q.xlate
      undo := q.undo.or ((natOpt (n 3)).map (s.readUndo q))
      stood := if q.stood.isEmpty then
          (l.filter fun r => r.kind == 0x3A).map fun r => { readRecord (r.ext.flatMap (leBytes 8)) with chan := r.val }
        else q.stood }

/-- The pseudo-channel blocks read back: the recorded rows, the read bursts and the staging buffers (R211, R298, R306). -/
def State.restorePcs (s : State) (q : Part) : State :=
  q.tt.owned.zipIdx.foldl (fun s p =>
    let d (o n : Nat) : List Byte := s.areaRead q (pcBlockAt p.2 + o) n
    let rows := (List.range 16).filterMap fun b =>
      let v := leNat (d (4 * b) 4)
      if v / 2 ^ 31 = 1 then some (b, v % 2 ^ 31) else none
    let reads := (List.range 8).filterMap fun i =>
      let l := d (0x40 + 120 * i) 120
      if leNat l = 0 then none else some (i, l)
    let words (c : Nat) := (List.range 8).flatMap fun i => stageWords p.1 c (d (0x400 + 128 * i) 128)
    (s.modPc p.1 fun c => { c with recorded := rows }).modPart q.pid fun x =>
      { x with reads := x.reads ++ reads.map fun r => hbmRead p.1 (x.next + r.1) r.2, staging := x.staging ++ words x.cyc, next := x.next + 8 }) s

/-- The fields of the header that a restore takes: p, the superstep, the power steps, TB, NHELD and FLAGS (R299). -/
def State.restoreHeader (s : State) (q : Part) : Part :=
  let d (o n : Nat) : Nat := s.areaNat q o n
  let st := d 14 1
  let fl := d 80 4
  { q with
    p := some (d 16 8), ss := d 24 4, tb := d 32 8, step := st % 4, pstep := if st.testBit 4 then some (st / 4 % 4) else none, nheld := d 52 4,
    resyncFlag := fl.testBit 1, turnDue := fl.testBit 2, heldOver := fl.testBit 3, form := .restoring, written := false }

/-- The numbers in use among a partition's flits, transactions, elements, reduction words and staged bursts. -/
def Part.lastId (q : Part) : Nat :=
  (q.flits.map Flit.id ++ q.xacts.map Xact.id ++ q.elems.map Element.id ++ q.redWords.map RedWord.id ++ q.staging.map StageWord.burst).foldl
    max 0

/-- From L + 2,048 the tile blocks and pseudo-channel blocks of a partition placed again are restored; FORM is 2 (R306). A flit that a
handler added takes a number of its own. -/
def State.restorePart (s : State) (pid : Nat) : State :=
  match s.part pid with
  | none => s
  | some q0 =>
    let q := s.restoreHeader q0
    let s1 := q.members.foldl (fun s t => s.restoreTile q t) (s.modPart pid fun _ => q.emptied)
    let s2 := (s1.restorePcs q).modPart pid fun x => x.settleXacts (q.members.flatMap (s.goneFlits q))
    let s3 := s2.modPart pid fun x =>
      let n := max x.next (x.lastId + 1)
      { x with flits := x.flits.zipIdx.map fun f => if f.1.id = 0 then { f.1 with id := n + f.2 } else f.1, next := n + x.flits.length }
    (s3.modPart pid fun x => { s3.readMarks x with overRecs := [], overFlits := [], restored := true }).refreshHeader pid

end Sys2Proof.Machine
end

