-- ==== Sys2Proof/Machine/Carousel.lean ====
section
/-! DEFINITION. The Carousel: ring records and bindings, the crs instructions, and the flits and releases that arrive
(R373 to R388). -/

namespace Sys2Proof.Machine

/-- The Carousel slip reason (R381). -/
def rsRing : Nat := 0x12

/-- A RING slip of form F with operand v (R381). -/
def ringFlt (f v : Nat) : Flt := { code := fcSlipLate, reason := rsRing, info := v % 2 ^ 32 + f * 2 ^ 32 }

/-- The ring record in 32 bytes (R375). -/
def ringRec (l : List Byte) : RingRec :=
  { n := recNat l 0 2, rport := recNat l 2 1, sport := recNat l 3 1, sbase := recNat l 4 4, sq := recNat l 8 2,
    pred := recNat l 12 4, succ := recNat l 16 4 }

/-- The bytes of a slot (R375). -/
def RingRec.slotBytes (r : RingRec) : Nat := 16 * (r.sq + 1)
/-- The offset of slot i. -/
def RingRec.slotAt (r : RingRec) (i : Nat) : Nat := r.sbase + r.slotBytes * i

/-- Whether a record obeys R373 and R375. -/
def ringOk (l : List Byte) (r : RingRec) : Bool :=
  decide (2 ≤ r.n ∧ r.n ≤ 64 ∧ r.rport < 64 ∧ r.sport < 64 ∧ r.sbase % 16 = 0 ∧ r.sq < 1024) && recNat l 10 2 == 0 &&
    recNat l 20 12 == 0 && decide (r.pred < 2 ^ 20 ∧ r.succ < 2 ^ 20) &&
    decide (r.slotAt 4 ≤ 0x8000 ∨ (0x8000 ≤ r.sbase ∧ r.slotAt 4 ≤ 0x18000)) &&
    (r.rport != r.sport || (r.n == 2 && r.pred == r.succ))

/-- A binding right after crs.open (R376). -/
def Binding.fresh (r : RingRec) (seq : Nat) : Binding :=
  { ring := r, seq := seq, k := 0, slots := Vector.replicate 4 ⟨.empty, 0, 0⟩, views := Vector.replicate 4 ⟨false, 0⟩,
    deferred := [] }

/-- Every binding of the module with its tile and, if its partition is frozen, the partition (R387). -/
def State.bindings (s : State) : List (Coord × Option Part × Binding) :=
  s.tiles.filterMap (fun (e : Nat × Tile) =>
    if (s.partOf (keyTile e.1)).any Part.frozen then none else e.2.binding.map fun b => (keyTile e.1, none, b)) ++
    (s.parts.filter Part.frozen).flatMap fun q =>
      (List.range 64).filterMap fun port => (s.readBlock q port).map fun r => (r.1, some q, r.2)

/-- Whether a port belongs to a binding (R373). -/
def State.portBound (s : State) (p : Nat) : Bool := s.bindings.any fun b => b.2.2.ring.rport == p || b.2.2.ring.sport == p

/-- Whether the group of a port is UP in Lyder link. -/
def State.lyderGroup (s : State) (p : Nat) : Bool := (s.group (p / 4)).state == .up && (s.group (p / 4)).pers == 0

/-- Whether a port is UP in Lyder link. -/
def State.lyderUp (s : State) (p : Nat) : Bool := s.lyderGroup p && (s.port p).up

/-- crs.open (R382). -/
def execCrsOpen (a : RegNo) (s : State) : Out :=
  tileForm (.crsOpen a) (fun tc cx s =>
    match checkSpan (cx.read a) 0 32 pLD 16 0 0x8000 with
    | .error f => .error f
    | .ok o =>
      match tc.tile.eccAt o 32 with
      | some f => .error f
      | none =>
        let l := Mem.read s.mem (tileAddr tc.t o) 32
        let r := ringRec l
        if !tc.part.inTroupe || !ringOk l r || (attach r.rport).1 != tc.t then .error { code := fcFormat }
        else if tc.tile.binding.isSome || s.portBound r.rport || s.portBound r.sport then
          .error (ringFlt 0 ((tc.tile.binding.map fun b => b.k.toNat).getD 0))
        else if !s.lyderGroup r.rport || !s.lyderGroup r.sport || (s.port r.rport).peer != r.pred || (s.port r.sport).peer != r.succ then
          .error { code := fcPathDown, info := o }
        else .ok (s.due cx cx.n (.crs (.opened (.fresh r tc.part.lrec.seq))))) s

/-- A Carousel form on the tile's binding; none slips with RING (R383 to R385). -/
def crsForm (i : Instr) (f : Nat) (operand : Cx → Nat) (body : TileCx → Cx → Binding → State → Chk State) (s : State) : Out :=
  tileForm i (fun tc cx s =>
    match tc.tile.binding with
    | none => .error (ringFlt f (operand cx))
    | some b => body tc cx b s) s

/-- crs.step (R383). -/
def execCrsStep (d : RegNo) (s : State) : Out :=
  crsForm (.crsStep d) 1 (fun _ => 0) (fun _ cx b s =>
    .ok ((s.due cx cx.n (.crs .step)).result cx d 1 (.plain ((b.k + 1).setWidth 128)))) s

/-- crs.send: the words go toward SPORT and SUCC of the binding (R374, R377, R384). -/
def execCrsSend (a : RegNo) (s : State) : Out :=
  crsForm (.crsSend a) 2 (fun _ => 0) (fun tc cx b s =>
    let i : Fin 4 := Fin.ofNat 4 b.k.toNat
    let q := b.ring.sq + 1
    let cur := (capCur (cx.data a)).toNat
    if b.ring.n - 1 ≤ b.k.toNat then .error (ringFlt 2 b.k.toNat)
    else if !s.lyderUp b.ring.sport then .error { code := fcPathDown, info := cur }
    else
      match checkSpan (cx.read a) 0 (16 * q) pLD 16 (winLo (decide (0x8000 ≤ cur))) (winHi (decide (0x8000 ≤ cur))) with
      | .error f => .error f
      | .ok off =>
        if b.views[i].lent then .error { code := fcSlipEmpty, reason := rsCheck, info := b.k.toNat }
        else
          .ok ((s.due cx cx.n (.crs (.sent i b.k.toNat))).beginSend tc.part.pid tc.t
            { n0 := cx.n, n := q, off := off, slot := tc.j, dst := (attach b.ring.sport).1, step := some b.k.toNat,
              port := some { port := b.ring.sport, slot := 0x8000 + i.val, ss := b.k.toNat, peer := b.ring.succ, quads := q, j := 0 } })) s

/-- The state of a receiver slot as INFO holds it (R384). -/
def RSlot.info (x : RSlot) (j : Nat) : Nat :=
  j + (match x.state with | .empty => 0 | .filling => 1 | .full => 2) * 2 ^ 32 + x.count * 2 ^ 34

/-- Whether a slot is FULL with a tag. -/
def RSlot.holds (x : RSlot) (j : Nat) : Bool := x.state == .full && x.tag == j

/-- crs.chk (R384). -/
def execCrsChk (a : RegNo) (s : State) : Out :=
  crsForm (.crsChk a) 3 (fun cx => (cx.data a).toNat) (fun _ cx b s =>
    let j := (cx.data a).toNat % 2 ^ 32
    let x := b.slots[Fin.ofNat 4 j]
    if b.ring.n - 1 ≤ j then .error (ringFlt 3 j)
    else if x.holds j then .ok s else .error { code := fcSlipEmpty, reason := rsCheck, info := x.info j }) s

/-- Whether a crs.send of the tile reads a byte of a slot in cycle n or later (R385). -/
def Tile.sendReads (tl : Tile) (n lo hi : Nat) : Bool :=
  tl.sends.any fun d => d.step.isSome && (List.range d.n).any fun k =>
    decide (n ≤ d.n0 + 2 * k ∧ d.off + 16 * k < hi ∧ lo < d.off + 16 * k + 16)

/-- crs.rel (R385). -/
def execCrsRel (a : RegNo) (s : State) : Out :=
  crsForm (.crsRel a) 4 (fun cx => (cx.data a).toNat) (fun tc cx b s =>
    let j := (cx.data a).toNat % 2 ^ 32
    let i : Fin 4 := Fin.ofNat 4 j
    if b.ring.n - 1 ≤ j ∨ !(b.slots[i].holds j) ∨ tc.tile.sendReads cx.n (b.ring.slotAt i.val) (b.ring.slotAt (i.val + 1)) then
      .error (ringFlt 4 j)
    else .ok (s.due cx cx.n (.crs (.released i j)))) s

/-- crs.close (R385). -/
def execCrsClose (s : State) : Out :=
  crsForm .crsClose 5 (fun _ => 0) (fun tc cx b s =>
    let idle := b.slots.toList.all (fun x => x.state == .empty) && b.views.toList.all (fun v => !v.lent) &&
      !(tc.tile.sends.any fun d => d.step.isSome && decide (cx.n ≤ d.n0 + 2 * (d.n - 1)))
    if idle then .ok (s.due cx cx.n (.crs .closed)) else .error { code := fcSlipEmpty, reason := rsCheck }) s

/-- A change of the binding at the end of an issue cycle; a release is queued at RPORT (R376, R377, R382 to R385). -/
def State.crsEffect (s : State) (t : Coord) (a : CrsAct) : State :=
  match a, (s.tile t).binding with
  | .opened b, _ => s.modTile t fun tl => { tl with binding := some b }
  | .step, some b => s.modTile t fun tl => { tl with binding := some { b with k := b.k + 1 } }
  | .sent i k, some b => s.modTile t fun tl => { tl with binding := some { b with views := b.views.set i ⟨true, k⟩ } }
  | .released i j, some b =>
    let troupe := ((s.partOf t).map fun q => q.lrec.troupe).getD 0
    (s.modTile t fun tl => { tl with binding := some { b with slots := b.slots.set i ⟨.empty, 0, 0⟩ } }).queueFlit b.ring.rport
      ⟨s.device, b.ring.pred, .mgmt 9 troupe j 0⟩
  | .closed, _ => s.modTile t fun tl => { tl with binding := none }
  | _, none => s

/-! ### Arrivals (R378, R387) -/

/-- DROP adds 1 (R353, R378). -/
def State.drop (s : State) (p : Nat) : State := s.modPort p fun q => { q with drop := q.drop + 1 }

/-- The match test of a data flit: the slot it fills (R378). -/
def Binding.accepts (b : Binding) (slot ss q0 : Nat) : Option (Fin 4) :=
  let i : Fin 4 := Fin.ofNat 4 slot
  let x := b.slots[i]
  if slot % 2 ^ 15 / 4 = 0 ∧ ((x.state = .empty ∧ q0 = 0) ∨ (x.state = .filling ∧ x.tag = ss ∧ x.count = q0)) then some i
  else none

/-- A binding as the match test of a flit sees it: a group released in one event fills its slots one flit after the other, so each is
tested behind those that came `since`; flits that earlier cycles left deferred change no slot yet (R376, R378, R379; log entry 116). -/
def Binding.since (b : Binding) (n : Nat) : Binding :=
  (b.deferred.drop n).foldl (fun b f => b.fill (Fin.ofNat 4 f.slot) f.ss f.quads.length) b

/-- The binding, with its tile and, if its partition is frozen, the partition, that a port receives for (R373). -/
def State.boundAt (s : State) (port : Nat) : Option (Coord × Option Part × Binding) :=
  s.bindings.find? fun b => b.2.2.ring.rport == port

/-- A data flit at RPORT, behind the flits deferred since `n` of them stood, is accepted into its slot, put into the port block of a frozen
partition, or dropped (R378, R387). -/
def State.carouselTake (s : State) (port n : Nat) (f : LinkFlit) : State :=
  match f.body with
  | .slot slot ss q0 quads =>
    match s.boundAt port with
    | none => (s.drop port)
    | some (t, owner, b) =>
      match (b.since n).accepts slot ss q0, owner with
      | none, _ => s.drop port
      | some i, none => s.modTile t fun tl => { tl with binding := some { b with deferred := b.deferred ++ [⟨i.val, ss, q0, quads⟩] } }
      | some i, some q => s.blockQuads q t b i ⟨i.val, ss, q0, quads⟩
  | _ => s

/-- The flits that stand deferred at a port's binding. -/
def State.deferredAt (s : State) (port : Nat) : Nat := ((s.boundAt port).map fun b => b.2.2.deferred.length).getD 0

/-- A data flit that reaches RPORT alone (R378). -/
def State.carouselData (s : State) (port : Nat) (f : LinkFlit) : State := s.carouselTake port (s.deferredAt port) f

/-- A release at SPORT returns the view of slot j mod 4 to OWNED, in the port block while the partition is frozen, or is dropped (R376,
R378, R387). -/
def State.carouselRelease (s : State) (port : Nat) (f : LinkFlit) : State :=
  match f.body with
  | .mgmt 9 _ j _ =>
    match s.bindings.find? fun b => b.2.2.ring.sport == port with
    | none => (s.drop port)
    | some (t, owner, b) =>
      let i : Fin 4 := Fin.ofNat 4 j
      let b' := { b with views := b.views.set i ⟨false, 0⟩ }
      if b.views[i].lent ∧ b.views[i].tag = j then
        match owner with
        | none => s.modTile t fun tl => { tl with binding := some b' }
        | some q => s.writeBlock q t b' (s.blockWas q b.ring.rport)
      else s.drop port
  | _ => s

/-- A flit's quads written into their slot, with the slot's new state (R376, R378). -/
def State.writeSlotFlit (s : State) (t : Coord) (f : SlotFlit) : State :=
  match (s.tile t).binding with
  | none => s
  | some b =>
    let off := b.ring.slotAt f.slot + 16 * f.q0
    let s1 := f.quads.zipIdx.foldl (fun s v => s.storeTile t (off + 16 * v.2) (leBytes 16 v.1.toNat) false true) s
    s1.modTile t fun tl =>
      { tl with binding := some { b.fill (Fin.ofNat 4 f.slot) f.ss f.quads.length with deferred := b.deferred.filter (· != f) } }

/-- The offsets and bytes that a waiting flit writes. -/
def Binding.region (b : Binding) (f : SlotFlit) : Nat × Nat := (b.ring.slotAt f.slot + 16 * f.q0, 16 * f.quads.length)

/-- The deliveries of a tile at the end of a cycle: Carousel flits first, then the channels' deliveries in their order; what
meets a write of the partition waits, and what meets a waiting flit, or comes behind one for its slot, waits with it (R249, R378). -/
def State.deliverAll (s : State) (t : Coord) (p : Nat) : State :=
  match (s.tile t).binding with
  | none => s.deliverTile t p fun _ => false
  | some b =>
    let blocked (f : SlotFlit) : Bool := s.wroteAt t (b.region f).1 (b.region f).2
    let late := b.deferred.foldl (fun l f => if blocked f || l.any fun g => g.slot == f.slot then l ++ [f] else l) []
    let now := b.deferred.filter fun f => !late.contains f
    let lateWords := late.flatMap fun f => blocks (b.region f).1 (b.region f).2 8
    let ready := (now.foldl (fun s f => s.writeSlotFlit t f) s).deliverTile t p fun off => (blocks off 8 8).any lateWords.contains
    now.foldl (fun s f => s.noteWrites t (b.region f).1 (b.region f).2) ready

end Sys2Proof.Machine
end

