-- ==== Sys2Proof/Machine/Chain.lean ====
section
/-! DEFINITION. The handler chain: trap messages and their dispositions (R277 to R285), trap, tret, ifence, halt and hbeat
with its watchdog (R287, R288, R290 to R292). -/

namespace Sys2Proof.Machine

/-- A cause of a freeze ends; with the last one the time to the restart of a partition held in place begins (R295, R305). -/
def State.endCause (s : State) (pid c : Nat) : State :=
  State.refreshHeader (s.modPart pid fun q =>
    let cs := eraseAll q.causes c
    { q with causes := cs, restartAt := if cs.isEmpty && !q.causes.isEmpty && q.form == .held then some s.rmt else q.restartAt }) pid

/-- A victim's write-out begins; how long it takes is left open (R297, R307). -/
def State.beginOut (s : State) (pid : Nat) : State :=
  { s.modPart pid fun q => { q with outAt := some (s.rmt + 1 + Config.looseDelay s.freeCount) } with freeCount := s.freeCount + 1 }

/-- A cause that arises while a partition is frozen shares its freeze (R295); cause 3 has a partition held in place written out. -/
def State.addCause (s : State) (pid c : Nat) : State :=
  match s.part pid with
  | none => s
  | some q =>
    if q.causes.contains c then s
    else
      let s1 := (s.modPart pid fun q =>
        { q.withCause c with restartAt := if q.form = .restoring then q.restartAt else none }).refreshHeader pid
      if c = 3 ∧ q.form = .held then s1.beginOut pid else s1

/-- The message of a completed freeze with a fault: one for the freeze, to the trap hub of the die of its first record
(R277, R279). -/
def State.sendMessage (s : State) (q : Part) : State :=
  match q.records.head? with
  | none => s
  | some r =>
    let s1 := (s.saveHeader q).post
      { ticket := 0, origin := false, pid := q.pid, loc := q.lrec.save, code := r.code, reason := r.reason,
        nrec := q.faults.length, trunc := decide (4096 < q.faults.length), level := 1, die := dieOf ⟨r.x, r.y⟩,
        popped := false, first := r, posted := 0 }
    let t := (s1.messages.getLast?.map Message.ticket).getD 0
    s1.modPart q.pid fun q => { q with message := some t }

/-- TRAP_MESSAGE: the Ringmaster sends the message of a completed freeze of cause 1 (R277, R279). -/
def execTrapMessage (pid : Nat) (s : State) : Out :=
  match s.part pid with
  | none => .next s
  | some q =>
    if q.causes.contains 1 && !q.freezing && q.message.isNone && q.halted.isNone && q.form != .running then
      .next (s.sendMessage q)
    else .next s

/-- A fault that arises while a partition is frozen: its records join the saved list, cause 1 is in force, and a message goes out if
none is outstanding. An intermission of it that was requested is withdrawn (R277, R295, R317). -/
def State.faultFrozen (s : State) (pid : Nat) (l : List FRec) : State :=
  match s.part pid with
  | none => s
  | some q =>
    let q1 := { q.withCause 1 with faults := q.faults ++ l, restartAt := if q.form = .restoring then q.restartAt else none }
    (((s.withdraw pid).modPart pid fun _ => q1).saveHeader q1).first [.event (.trapMessage pid)]

/-- A partition that the chain halts: it is written out, and retires at the next launch slot with this code (R168, R283,
R285, R297). -/
def State.haltPart (s : State) (pid code : Nat) : State :=
  (s.writeOut pid).modPart pid fun q => { q with halted := some code, message := none }

/-- Whether an effect is a word that another tile has sent here: it is no result of this tile's slots or channels (R284). -/
def Eff.foreign (e : Eff) (t : Coord) : Bool :=
  match e with
  | .store _ _ _ _ w | .storeMask _ _ _ _ _ w | .amo _ _ _ _ _ _ _ w => w.x != t.x || w.y != t.y
  | _ => false

/-- A lost tile (R284): its cores, queues, matrix state, channels and pending results go, its windows are 0; its group
table, watchdogs, counts and damage stay, and so do the words of other tiles that its windows have admitted. Its journal, semaphores and
mark ring go too (DESIGN CHOICE, log entry 113). -/
def Tile.lose (tl : Tile) (t : Coord) : Tile :=
  { Tile.powerOn with
    pend := tl.pend.filter fun e => e.eff.foreign t
    access := { Core.cleared with armed := tl.access.armed, hbd := tl.access.hbd }
    exec := { Core.cleared with armed := tl.exec.armed, hbd := tl.exec.hbd }
    iss := tl.iss, ans := tl.ans, gtab := tl.gtab, gshadow := tl.gshadow, lost := true, damage := tl.damage }

/-- Whether a member tile is lost, as the module or the save area holds it. -/
def State.memberLost (s : State) (q : Part) (t : Coord) : Bool :=
  if q.written then (s.areaNat q (q.blockAt t + 0x21104) 1).testBit 3 else (s.tile t).lost

/-- Whether a record of a tile's core is of what stays when the tile is lost: what its router holds, the partition's own marks, and the
words that other tiles have sent. -/
def Rec.stays (r : Rec) (t : Coord) (k : Side) : Bool :=
  decide (0x30 ≤ r.kind ∧ r.kind ≤ 0x33) || r.kind == 0x39 || r.kind == 0x3A || (r.toPend t k).any fun e => e.eff.foreign t

/-- A tile of a written-out partition lost in its block of the save area: its memory and what its router holds stay (R284,
R297). -/
def State.loseSaved (s : State) (q : Part) (t : Coord) : State :=
  let a := hbmAddr (q.saveAt + q.blockAt t)
  let tl := (Tile.restore s.mem a t (s.coreRecs q t .access) (s.coreRecs q t .execute)).lose t
  let kept (k : Side) : List Byte := ((s.coreRecs q t k).filter fun r => r.stays t k).flatMap Rec.bytes
  let inside (c lo hi : Nat) : Bool := decide (a + lo ≤ c) && decide (c < a + hi)
  let m := s.mem.filter fun c => !(inside c.1 0x18300 0x18C00 || inside c.1 0x19400 0x40000)
  let marks := (tl.blockBytes [] []).filter fun p => decide (0x18300 ≤ p.1)
  let mine (n : Nat) : Bool := n == coreKey t .access || n == coreKey t .execute
  let rest := keepBytes (coreKey t .access) ((kept .access).drop (640 * 32)) ++ keepBytes (coreKey t .execute) ((kept .execute).drop (640 * 32))
  let s1 : State :=
    { s with mem := Mem.writeAll m a (marks ++ [(0x23000, (kept .access).take (640 * 32)), (0x2B000, (kept .execute).take (640 * 32))]) }
  s1.modPart q.pid fun x => { x with overRecs := (x.overRecs.filter fun e => !mine e.1) ++ rest }

/-- ISOLATE: one tile is lost, its re-offered instructions are dropped, and what its channels asked for or expected is theirs no more: a
reply finds no request, and a reduction word no expectation (R259, R284). -/
def State.isolate (s : State) (pid : Nat) (t : Coord) : State :=
  match s.part pid with
  | none => s
  | some q =>
    (if q.written then s.loseSaved q t else s.modTile t fun tl => tl.lose t).modPart pid fun q =>
      { q with reoffer := q.reoffer.filter fun r => r.1 != t, requests := q.requests.filter fun r => r.tile != t
               redWaits := q.redWaits.filter fun w => w.tile != t, xlate := q.xlate.filter fun w => w.tile != t }

/-- A message that has been disposed of. -/
def State.dropMessage (s : State) (m : Message) : State :=
  { s with messages := s.messages.filter fun n => n.ticket != m.ticket }

/-- The hub that a hub message is about: its die and number (R280). -/
def Message.hub (m : Message) : Nat × Nat := (m.loc % 16, m.loc / 16)

/-- The chain is exhausted: a partition is halted; a hub stays stopped and is failed, notice 0x8003 goes to the host, and
what it held goes to the next level (R285, R331). -/
def State.exhaust (s : State) (m : Message) : State :=
  let s1 := s.dropMessage m
  if m.origin then
    let (d, h) := m.hub
    let s2 := (s1.modHub d h fun hb => { hb with failed := true }).lift fun (n : Message) => n.atHub d h
    s2.postNotice ⟨0x8003, m.header, m.ticket, []⟩
  else s1.haltPart m.pid m.code

/-- A disposition applied to a message (R283): 0 RESUME, 1 ABANDON, 2 FORWARD, 3 ISOLATE of tile `t`. A hub that ABANDON restarts at its
firmware entry has the registers of bring-up (DESIGN CHOICE, log entry 112). -/
def State.dispose (s : State) (m : Message) (disp : Nat) (t : Coord) : State :=
  if disp = 2 then if m.level = 3 then s.exhaust m else s.lift fun (n : Message) => n.ticket == m.ticket
  else
    let s1 := s.dropMessage m
    if m.origin then
      let (d, h) := m.hub
      if disp = 0 then s1.modHub d h fun hb => { hb with stopped := false, ctx := { hb.ctx with fbuf := ⟨0, []⟩ } }
      else s1.modHub d h fun hb => { hb with stopped := false, ctx := Hub.entry d h, wait := none, answer := none }
    else if disp = 1 then s1.haltPart m.pid m.code
    else
      let s2 := if disp = 3 then s1.isolate m.pid t else s1
      (s2.modPart m.pid fun q => { q with message := none }).endCause m.pid 1

/-- Whether a disposition may be applied (R288). -/
def State.dispOk (s : State) (m : Message) (disp : Nat) (t : Coord) : Bool :=
  decide (disp ≤ 2) ||
    (disp == 3 && !m.origin &&
      match s.part m.pid with
      | none => false
      | some q => q.holds t && !s.memberLost q t)

/-- tret: the disposition of bits [19:16] of cA for a message that this hub has popped and not yet returned (R283, R288).
Acceptance falls in the issue cycle (log entry 17). -/
def tret (i : Instr) (a : RegNo) (s : State) : Out :=
  hubForm i (fun d h cx s =>
    let v := (cx.data a).toNat
    let t : Coord := ⟨bits v 29 20, bits v 37 30⟩
    match s.messages.find? fun (m : Message) => m.ticket == bits v 15 0 && m.atHub d h && m.popped with
    | none => .error { code := fcIllegal }
    | some m =>
      if s.dispOk m (bits v 19 16) t then .ok (s.dispose m (bits v 19 16) t, .seq) else .error { code := fcIllegal }) s

/-- tret, RESUME (R283). -/
def execTretResume (a : RegNo) (s : State) : Out := tret (.tretResume a) a s
/-- tret, ABANDON (R283). -/
def execTretAbandon (a : RegNo) (s : State) : Out := tret (.tretAbandon a) a s
/-- tret, FORWARD (R283). -/
def execTretForward (a : RegNo) (s : State) : Out := tret (.tretForward a) a s
/-- tret, ISOLATE (R284). -/
def execTretIsolate (a : RegNo) (s : State) : Out := tret (.tretIsolate a) a s

/-- CHAIN_EXHAUSTION: the host has not answered a message within 2^35 cycles of the writing of its notice (R285, R331). -/
def execChainExhaustion (ticket : Nat) (s : State) : Out :=
  match s.messages.find? fun (m : Message) => m.ticket == ticket && m.level == 3 && m.popped with
  | none => .next s
  | some m =>
    if (s.ring.notices.any fun n => n.ticket == ticket) || decide (s.rmt < m.posted + 2 ^ 35) then .next s
    else .next (s.exhaust m)

/-! ### trap, ifence, halt, hbeat -/

/-- trap: TRAP is raised after the issue, with the code as WORD and cA as INFO (R287). -/
def execTrapTrap (a : RegNo) (num : BitVec 12) (s : State) : Out :=
  issue (.trapTrap a num) noPre (fun cx s =>
    .ok (raiseAfter cx num.toNat { code := fcTrap, info := (cx.data a).toNat % 2 ^ 64 } s, .seq)) s

/-- ifence: the fetch buffer is read again from pc + 4 (R290). -/
def execIfence (s : State) : Out := issue .ifence noPre (fun _ s => .ok (s, .refetch)) s

/-- halt: every slot of a tile's core stops being live and its watchdog is disarmed; a hub stops with TRAP and REASON 0x30
(R291). -/
def execHalt (s : State) : Out :=
  issue .halt noPre (fun cx s =>
    match cx.wh with
    | .tile t k _ _ _ =>
      .ok (s.modTile t fun tl =>
        let c := tl.core k
        tl.setCore k { c with slots := c.slots.map fun (sl : Slot) => { sl with live := false }, armed := false }, .seq)
    | .hub .. => .ok (raiseAfter cx cx.word.toNat { code := fcTrap, reason := 0x30 } s, .seq)) s

/-- hbeat: the core's watchdog is armed for n + k, or disarmed (R292). -/
def execHbeat (a : RegNo) (s : State) : Out :=
  tileForm (.hbeat a) (fun tc cx s =>
    let k := (cx.data a).toNat % 2 ^ 32
    .ok (s.modTile tc.t fun tl =>
      let c := tl.core tc.k
      tl.setCore tc.k (if k = 0 then { c with armed := false } else { c with armed := true, hbd := cx.n + k }))) s

/-- HEARTBEAT: a watchdog still armed at the end of cycle HBD - 1 raises its fault and is disarmed (R292). -/
def execHeartbeat (t : Coord) (k : Side) (s : State) : Out :=
  match s.partOf t with
  | none => .next s
  | some q =>
    let c := (s.tile t).core k
    if q.form = .running ∧ c.armed ∧ c.hbd = q.cyc + 1 then
      .next ((s.modTile t fun tl => tl.setCore k { (tl.core k) with armed := false }).cycleFault q.pid
        (coreRecord t k 0 q.cyc 1 0 0 { code := 0x38, info := c.hbd }))
    else .next s

end Sys2Proof.Machine
end

