-- ==== Sys2Proof/Machine/Register.lean ====
section
/-! DEFINITION. Registers: the system registers and sysrd and syswr (R25, R281, R289, R323, R328, R337), the registers of
tiles, pseudo-channels, the Ringmaster and the edge (R199, R216, R218 to R220, R310, R369 to R371). -/

namespace Sys2Proof.Machine

/-- A word of a value, lowest first. -/
def wordOf (v n : Nat) : DWord := BitVec.ofNat 64 (v / 2 ^ (64 * n))
/-- A value with one 64-bit word replaced. -/
def setWord256 (v : BitVec 256) (n : Nat) (w : DWord) : BitVec 256 :=
  BitVec.ofNat 256 (v.toNat - bits v.toNat (64 * n + 63) (64 * n) * 2 ^ (64 * n) + w.toNat * 2 ^ (64 * n))

/-! ### The host port (R328) -/

/-- A host-port register; none where the block has no register. -/
def State.hostReg (s : State) (off : Nat) : Option DWord :=
  let g := s.ring
  match off with
  | 0x000 => some g.bootstat
  | 0x008 => some g.devnum
  | 0x010 => some g.jbase
  | 0x018 => some g.jsize
  | 0x020 => some g.jtail
  | 0x028 => some g.jhead
  | 0x030 => some g.nbase
  | 0x038 => some g.nsize
  | 0x040 => some g.ntail
  | 0x048 => some g.nhead
  | 0x050 => some g.logbase
  | 0x058 => some g.logsize
  | 0x060 => some g.logtail
  | 0x068 => some g.loghead
  | 0x070 => some g.sigbase
  | _ =>
    if off % 8 = 0 ∧ 0x80 ≤ off ∧ off < 0xA0 then some (wordOf featOff.toNat ((off - 0x80) / 8))
    else if off % 8 = 0 ∧ 0xA0 ≤ off ∧ off < 0xC0 then some (wordOf g.featReq.toNat ((off - 0xA0) / 8))
    else if off % 8 = 0 ∧ 0xC0 ≤ off ∧ off < 0xE0 then some (wordOf g.featNeg.toNat ((off - 0xC0) / 8))
    else none

/-- Whether a host-port register is read-only. -/
def hostReadOnly (off : Nat) : Bool :=
  off == 0x028 || off == 0x040 || off == 0x060 || (decide (0x80 ≤ off) && decide (off < 0xA0)) ||
    (decide (0xC0 ≤ off) && decide (off < 0xE0))

/-- The next state of an event that only answers one. -/
def nextOr (o : Out) (s : State) : State := match o with | .next s' => s' | _ => s

/-- A write of a host-port register; the base and size registers and DEVNUM hold from the first write of JTAIL on. -/
def State.hostWrite (s : State) (off : Nat) (v : DWord) : State :=
  let fixed (f : Ring → Ring) : State := if s.ring.latched then s else s.modRing f
  match off with
  | 0x000 => nextOr (execBootstatWrite v s) s
  | 0x008 => fixed fun g => { g with devnum := v &&& 0xFFFFF#64 }
  | 0x010 => fixed fun g => { g with jbase := v }
  | 0x018 => fixed fun g => { g with jsize := v &&& 0x1F#64 }
  | 0x020 => nextOr (execJtailWrite v s) s
  | 0x030 => fixed fun g => { g with nbase := v }
  | 0x038 => fixed fun g => { g with nsize := v &&& 0x1F#64 }
  | 0x048 => if s.ring.nhead.toNat ≤ v.toNat ∧ v.toNat ≤ s.ring.ntail.toNat then s.modRing fun g => { g with nhead := v } else s
  | 0x050 => fixed fun g => { g with logbase := v }
  | 0x058 => fixed fun g => { g with logsize := v &&& 0x1F#64 }
  | 0x068 =>
    if s.ring.loghead.toNat ≤ v.toNat ∧ v.toNat ≤ s.ring.logtail.toNat then s.modRing fun g => { g with loghead := v } else s
  | 0x070 => fixed fun g => { g with sigbase := v }
  | _ =>
    if off % 8 = 0 ∧ 0xA0 ≤ off ∧ off < 0xC0 then
      s.modRing fun g => { g with featReq := setWord256 g.featReq ((off - 0xA0) / 8) v }
    else s

/-! ### System registers -/

/-- The registers of a context that its own numbers name (R25). DEDUCED: a read of 0x013 copies the PCC with its bits [127:124], and is
no derivation, which would write them as 0 (R13, R87; log entry 102). -/
def ctxReg (sl : Slot) (pc : DWord) (num : Nat) : Option CReg :=
  if h : num < 8 then some (.plain sl.s[num])
  else
    match num with
    | 0x010 => some (.plain (sl.fm.setWidth 128))
    | 0x011 => some (.plain (sl.fl.setWidth 128))
    | 0x012 => some (.plain sl.sr)
    | 0x013 => some ⟨withCur sl.pcc.data pc, sl.pcc.tag⟩
    | _ => none

/-- A write of a context's register (R22, R23, R25). -/
def ctxWrite (sl : Slot) (num : Nat) (v : Quad) : Option Slot :=
  if h : num < 8 then some { sl with s := sl.s.set num v }
  else
    match num with
    | 0x010 => some { sl with fm := fmWrite (v.setWidth 32) }
    | 0x011 => some { sl with fl := flWrite (v.setWidth 32) }
    | 0x012 => some { sl with sr := v }
    | _ => none

/-- The oldest message of a hub's mailbox, popped (R281). -/
def State.popMessage (s : State) (d h : Nat) : Option (State × Quad) :=
  match s.messages.find? fun (m : Message) => m.atHub d h && !m.popped with
  | none => none
  | some m =>
    some ({ s with messages := s.messages.map fun (n : Message) => if n.ticket = m.ticket then { n with popped := true } else n },
      m.header)

/-- Whether a number is a spare-map register. -/
def isSpareNum (num : Nat) : Bool := decide (0x900 ≤ num) && decide (num ≤ 0xAF3)

/-- A hub-level register read without a pop; none raises ILLEGAL. -/
def State.hubReg (s : State) (d h num : Nat) : Option Quad :=
  match num with
  | 0x801 => some (BitVec.ofNat 128 (hubLevelOf d h))
  | 0x802 => some (BitVec.ofNat 128 (leNat ((s.hub d h).hfr.bytes.take 16)))
  | 0x803 => some (BitVec.ofNat 128 (leNat ((s.hub d h).hfr.bytes.drop 16)))
  | 0x810 => some ((s.hub d h).hasid.setWidth 128)
  | 0x813 => some (s.dlogRead d)
  | _ =>
    if d = 0 ∧ h = 63 ∧ 0x840 ≤ num ∧ num < 0x840 + 0x1C then (s.hostReg (8 * (num - 0x840))).map (·.setWidth 128)
    else if isSpareNum num then some (s.spareReg d num)
    else none

/-- A write of a hub-level register that does not block; none raises ILLEGAL. -/
def State.hubRegWrite (s : State) (d h num : Nat) (v : Quad) : Option State :=
  match num with
  | 0x810 => some (s.modHub d h fun hb => { hb with hasid := v.setWidth 10 })
  | 0x812 => s.xdone d v
  | 0x813 => s.dlog d v
  | _ =>
    let off := 8 * (num - 0x840)
    if d = 0 ∧ h = 63 ∧ 0x840 ≤ num ∧ num < 0x840 + 0x1C ∧ (s.hostReg off).isSome ∧ !hostReadOnly off then
      some (s.hostWrite off (v.setWidth 64))
    else none

/-- sysrd (R289). -/
def execSysrd (d : RegNo) (num : BitVec 12) (s : State) : Out :=
  issue (.sysrd d num) noPre (fun cx s =>
    match ctxReg cx.slot cx.pc num.toNat with
    | some v => .ok (s.result cx d 1 v, .seq)
    | none =>
      match cx.wh with
      | .tile .. => .error { code := fcIllegal }
      | .hub di h _ =>
        match num.toNat with
        | 0x800 =>
          match s.popMessage di h with
          | some (s1, q) => .ok (s1.result cx d 1 (.plain q), .seq)
          | none => .ok (s.modHub di h fun hb => { hb with wait := some .mailbox }, .stay)
        | 0x811 =>
          match s.popXmsg di with
          | some (s1, q) => .ok (s1.result cx d 1 (.plain q), .seq)
          | none => .ok (s.modHub di h fun hb => { hb with wait := some .xmsg }, .stay)
        | n =>
          match s.hubReg di h n with
          | some q => .ok (s.result cx d 1 (.plain q), .seq)
          | none => .error { code := fcIllegal }) s

/-- The effect of a syswr in a tile (R25, R289). -/
def ctxEffect (k : Side) (j : Fin 4) (num : Nat) (v : Quad) : Option Eff :=
  if h : num < 8 then some (.sSet k j ⟨num, h⟩ v)
  else
    match num with
    | 0x010 => some (.fmSet k j (fmWrite (v.setWidth 32)))
    | 0x011 => some (.flSet k j (flWrite (v.setWidth 32)))
    | 0x012 => some (.srSet k j v)
    | _ => none

/-- syswr: in a tile at the end of n + 3; a write of a spare-map register blocks the hub until the remap is done (R289,
R337). -/
def execSyswr (a : RegNo) (num : BitVec 12) (s : State) : Out :=
  issue (.syswr a num) noPre (fun cx s =>
    let v := cx.data a
    match cx.wh with
    | .tile _ k j _ _ =>
      match ctxEffect k j num.toNat v with
      | some e => .ok (s.due cx (cx.n + 3) e, .seq)
      | none => .error { code := fcIllegal }
    | .hub d h _ =>
      match ctxWrite cx.slot num.toNat v with
      | some sl => .ok (s.setCtx cx sl, .seq)
      | none =>
        if isSpareNum num.toNat then
          if (s.hub d h).answer.isSome then .ok (s.modHub d h fun hb => { hb with answer := none }, .seq)
          else if s.spareIllegal d num.toNat v then .error { code := fcIllegal }
          else
            .ok ((s.startRemap d num.toNat v (some (.hub d h)) none).modHub d h fun hb =>
              { hb with wait := some (.remap num.toNat) }, .stay)
        else
          match s.hubRegWrite d h num.toNat v with
          | some s1 => .ok (s1, .seq)
          | none => .error { code := fcIllegal }) s

/-- TMSG_READ: a hub that waits for a message takes it when one is present (R281). -/
def execTmsgRead (die hub : Nat) (d : RegNo) (s : State) : Out :=
  if (s.hub die hub).wait != some .mailbox then .next s
  else
    match s.popMessage die hub with
    | none => .next s
    | some (s1, q) => .next (s1.unblock die hub d q)

/-! ### Tile registers (R199, R201, R218) -/

/-- A write of a window register: into the shadow while the partition runs; otherwise at once, and an older shadow goes, the last write
standing (R201). DESIGN CHOICE: a write at a tile of a partition that is launching takes effect at once, of which R201 is silent
(log entry 106). -/
def State.writeWindow (s : State) (t : Coord) (n : Fin 4) (v : DWord) : State :=
  let running : Bool := match s.partOf t with | none => false | some q => q.form == .running
  s.modTile t fun tl =>
    if running then { tl with winShadow := tl.winShadow.set n (some (winWrite v)) } else { tl with win := tl.win.set n (winWrite v), winShadow := tl.winShadow.set n none }

/-- WINDOW_REGISTER_WRITE (R201). -/
def execWindowRegisterWrite (t : Coord) (n : Fin 4) (v : DWord) (s : State) : Out := .next (s.writeWindow t n v)

/-- The low two bits of a number. -/
def fin4 (n : Nat) : Fin 4 := (BitVec.ofNat 2 n).toFin
/-- The low four bits of a number. -/
def fin16 (n : Nat) : Fin 16 := (BitVec.ofNat 4 n).toFin

/-- A tile register as it reads (R218). -/
def State.tileReg (s : State) (t : Coord) (off : Nat) : Nat :=
  let tl := s.tile t
  if off % 8 = 0 ∧ off < 0x20 then (s.winAt t)[fin4 (off / 8)].toNat
  else if off % 8 = 0 ∧ 0x40 ≤ off ∧ off < 0x60 then tl.chans[fin4 (off / 8)].wp.toNat
  else if off % 16 = 0 ∧ 0x80 ≤ off ∧ off < 0xC0 then tl.marks[fin4 (off / 16)].toNat
  else 0

/-! ### Pseudo-channel registers (R220) -/

/-- A register of a pseudo-channel's controller. DESIGN CHOICE: PCBANK reads 0 while no owner runs, the commands that the
controller chooses itself being taken to leave every bank closed (R220; log entry 105). -/
def State.pcReg (s : State) (g off : Nat) : Nat :=
  let p := s.pc g
  match off with
  | 0x000 =>
    match p.owner with
    | none => 0
    | some pid =>
      2 ^ 63 + pid * 2 ^ 56 + (match s.part pid with
        | some q => if q.form = .running ∨ q.form = .launching then 0 else 2 ^ 62
        | none => 0)
  | 0x008 => leNat (bitBytes 2 ((List.range 16).map fun b => (assocGet p.rows b).isSome))
  | 0x010 => p.corr
  | 0x018 => p.unc
  | 0x020 => p.held.length % 2 ^ 16
  | _ => 0

/-! ### Ringmaster registers (R219) -/

/-- A register of the Ringmaster block. FRZCTL reads a partition that is launching as running and one that is being placed again as held
(R310 names neither; DESIGN CHOICE, log entry 118). -/
def State.ringReg (s : State) (off : Nat) : DWord :=
  if 0x100 ≤ off ∧ off < 0x200 then
    let n := fin16 ((off - 0x100) / 16)
    if off % 16 = 0 then s.ring.cxlBase[n] else if off % 16 = 8 then s.ring.cxlCtl[n] else 0
  else if 0x200 ≤ off ∧ off < 0x400 ∧ off % 8 = 0 then
    match s.part ((off - 0x200) / 8) with
    | none => 0
    | some q =>
      match q.form with
      | .running | .launching => 0
      | .held | .restoring => 1
      | .writtenOut => 2
  else if 0x4000 ≤ off ∧ off < 0x6000 ∧ off % 8 = 0 then BitVec.ofNat 64 (s.ring.agenOf ((off - 0x4000) / 8))
  else if 0x8000 ≤ off ∧ off % 8 = 0 then (assocGet s.ring.adesc ((off - 0x8000) / 8)).getD 0
  else 0

/-- The writable bits of a word of ADESC (R316). -/
def adescBits (word : Nat) (v : DWord) : DWord :=
  if word = 0 then v &&& 0xFFFFFFFFFFFFF000#64 else if word = 1 then v &&& 0xFFFFFFFFFFFFFFF8#64
  else if word = 2 then v &&& 0x1FF#64 else 0

/-! ### Edge registers (R369 to R371) -/

/-- The code of a group's state (R370). -/
def GState.code : GState → Nat
  | .down => 0
  | .up => 1
  | .quiesce => 2
  | .drain => 3
  | .inval => 4
  | .retrain => 5

/-- GCTL as it reads (R370). -/
def Group.reg (g : Group) : Nat :=
  g.gen.toNat * 2 ^ 48 + g.state.code * 2 ^ 37 + g.pers.val * 2 ^ 35 + g.res % 8 * 2 ^ 32 + g.opt.toNat * 2 ^ 4 + g.next.val

/-- A register of a port by its offset in the port's block; WIDTH is that of the narrower direction (R364, R369, R371). -/
def Port.reg (p : Port) (off : Nat) : Nat :=
  match off with
  | 0x00 => (if p.up then 2 ^ 63 else 0) + min p.width p.rxwidth % 4 * 2 ^ 61 + p.imodeNew.val * 2 ^ 58 + p.pport % 64 * 2 ^ 52 +
      p.peer % 2 ^ 20 * 2 ^ 32 + p.lat % 2 ^ 32
  | 0x08 => (BitVec.ofInt 64 p.ofs).toNat
  | 0x10 => p.slackmin.toNat
  | 0x18 => p.txctr.toNat
  | 0x20 => p.rxctr.toNat
  | 0x28 => p.lid.toNat
  | 0x30 => p.ifail % 2 ^ 32
  | 0x38 => p.drop % 2 ^ 32
  | _ => 0

/-- A port whose two ends hold one mode: it takes effect at group boundaries (R371). -/
def Port.agree (p : Port) : Port := if p.imodeNew = p.peerMode then { p with agreed := some p.peerMode } else p

/-- A write of a register of a port (R364, R369, R371). -/
def Port.write (p : Port) (off : Nat) (v : DWord) : Port :=
  if off = 0x00 then
    let p1 := if h : bits v.toNat 59 58 < 3 then Port.agree { p with imodeNew := ⟨bits v.toNat 59 58, h⟩ } else p
    if v.getLsbD 60 && p.width == 2 then { p1 with reducing := true } else p1
  else if p.up then p
  else if off = 0x18 then { p with txctr := v }
  else if off = 0x20 then { p with rxctr := v }
  else if off = 0x28 then { p with lid := v.setWidth 32 }
  else if 0x40 ≤ off ∧ off < 0x60 ∧ off % 8 = 0 then { p with txkey := setWord256 p.txkey ((off - 0x40) / 8) v }
  else if 0x60 ≤ off ∧ off < 0x80 ∧ off % 8 = 0 then { p with rxkey := setWord256 p.rxkey ((off - 0x60) / 8) v }
  else p

/-- The writable bits of an edge window (R358). -/
def ewinBits (v : Quad) : Quad := BitVec.ofNat 128 (bits v.toNat 127 68 * 2 ^ 68 + bits v.toNat 15 0)

/-- A read of SLACKMIN clears it (R369). -/
def State.clearSlackmin (s : State) (p : Nat) : State := s.modPort p fun q => { q with slackmin := 0x7FFFFFFF#32 }

/-- SLACKMIN_READ (R369). -/
def execSlackminRead (port : Nat) (s : State) : Out := .next (s.clearSlackmin port)

/-- What a register of I/O die `i` is: a group's GCTL, a port's register, or a die 0 register by its offset. -/
inductive EdgeReg where
  | gctl (g : Nat)
  | port (p off : Nat)
  | ewin (n : Nat)
  | lmap
  | clk
  | none
  deriving DecidableEq, Repr

/-- The register at an offset of an I/O die (R369). -/
def edgeReg (i off : Nat) : EdgeReg :=
  if off < 0x40000 then
    let g := 4 * i + off / 0x10000
    let o := off % 0x10000
    if o = 0 then .gctl g
    else if 0x1000 ≤ o ∧ o < 0x1400 then .port (4 * g + (o - 0x1000) / 0x100) (o % 0x100)
    else .none
  else if i = 0 ∧ 0x100000 ≤ off ∧ off < 0x100400 then .ewin ((off - 0x100000) / 16)
  else if i = 0 ∧ off = 0x200000 then .lmap
  else if i = 0 ∧ off = 0x200008 then .clk
  else .none

/-- An edge register read (R369). -/
def State.readEdge (s : State) (r : EdgeReg) : State × Nat :=
  match r with
  | .gctl g => (s, (s.group g).reg)
  | .port p 0x10 => (s.clearSlackmin p, (s.port p).slackmin.toNat)
  | .port p off => (s, (s.port p).reg off)
  | .ewin n => (s, ((assocGet s.edge.ewin n).getD 0).toNat)
  | .lmap => (s, s.edge.lmapBase.toNat)
  | .clk => (s, s.edge.clkSrc.toNat)
  | .none => (s, 0)

/-! ### Plain register writes -/

/-- A write of a register that has no behaviour of its own (R25, R216, R316, R328, R358, R369 to R371). -/
def State.writeReg (s : State) (r : DevReg) (v : Quad) : State :=
  let w : DWord := v.setWidth 64
  match r with
  | .hubReg d h num =>
    if num = 0x810 then s.modHub d h fun hb => { hb with hasid := v.setWidth 10 }
    else s.modHub d h fun hb =>
      { hb with ctx := (ctxWrite hb.ctx num v).getD hb.ctx, damage := mend 0x21 [2 ^ 11 + num] hb.damage }
  | .cxlBase n => s.modRing fun g => { g with cxlBase := g.cxlBase.set n (w &&& 0xFFFFFFFFFFFF0000#64) }
  | .cxlCtl n => s.modRing fun g => { g with cxlCtl := g.cxlCtl.set n (w &&& 0xFC00FFFFFFFFFFFF#64) }
  | .adesc a word => s.modRing fun g => { g with adesc := assocSet g.adesc (4 * a + word.val) (adescBits word.val w) }
  | .hostPort off => s.hostWrite off w
  | .ewin n => { s with edge := { s.edge with ewin := assocSet s.edge.ewin n (ewinBits v) } }
  | .lmapBase => { s with edge := { s.edge with lmapBase := w } }
  | .clkSrc => { s with edge := { s.edge with clkSrc := w &&& 0x7F#64 } }
  | .port p off => s.modPort p fun q => q.write off w
  | .gctl g => s.modGroup g fun q => { q with opt := BitVec.ofNat 4 (bits v.toNat 4 4), next := fin4 v.toNat }

/-- REGISTER_WRITE (R289). -/
def execRegisterWrite (r : DevReg) (v : Quad) (s : State) : Out := .next (s.writeReg r v)

/-- A word whose opcode or function code is reserved or unassigned raises ILLEGAL, exactly (R70). -/
def execIllegal (w : Word) (s : State) : Out := issue (.illegal w) noPre (fun _ _ => .error { code := fcIllegal }) s

end Sys2Proof.Machine
end

