-- ==== Sys2Proof/Machine/Wire.lean ====
section
/-! DEFINITION. Lyder link flits as bytes, and the integrity tag of a group (R353, R359, R363). -/

namespace Sys2Proof.Machine

/-- A list of exactly `n` bytes: cut, or filled with zeros. -/
def padTo (n : Nat) (l : List Byte) : List Byte := (l ++ List.replicate n 0).take n

/-! ### Codes (R353, R359) -/

/-- OP of a request. -/
def opWire : LooseOp → Nat
  | .read | .readCap => 0
  | .write | .writeCap _ => 1
  | .amo f _ => 2 + f

/-- The operation of OP and the size of a request, or none for an OP or size that is not listed; sizes of 1 and 2 bytes are used too
(log entry 92). -/
def wireOp (op lg : Nat) : Option (LooseOp × Nat) :=
  if 7 < lg then none
  else if op = 0 then some (.read, 2 ^ lg)
  else if op = 1 then some (.write, 2 ^ lg)
  else if op ≤ 12 ∧ (lg = 2 ∨ lg = 3) then some (.amo (op - 2) (lg == 3), 2 ^ lg)
  else none

/-- The status of a response. -/
def replyStatus : Reply → Nat
  | .ok .. => 0
  | .refused => 1
  | .pathDown => 2
  | .uncorr .. => 3
  | .xlate _ => 4
  | .unsup => 5
  | .abort => 6

/-- The answer of a status with its 128 data bytes; a status that is not listed counts as REFUSED (log entry 92). What a response does
not carry, its receiver fills in. -/
def wireReply (st : Nat) (data : List Byte) : Reply :=
  match st with
  | 0 => .ok data false
  | 2 => .pathDown
  | 3 => .uncorr 0x29 0
  | 4 => .xlate 0
  | 5 => .unsup
  | 6 => .abort
  | _ => .refused

/-! ### Flits (R353) -/

/-- Bytes 0 to 15 of a flit. -/
def flitHead (kind pcnt slot ss src dst q0 : Nat) : List Byte :=
  leBytes 1 kind ++ leBytes 1 pcnt ++ leBytes 2 slot ++ leBytes 4 ss ++ leBytes 3 (src % 2 ^ 20) ++ leBytes 3 (dst % 2 ^ 20) ++ leBytes 2 q0

/-- The 256 bytes of a flit, its trailer 0. -/
def flitBytes (f : LinkFlit) : WireFlit :=
  let whole (kind pcnt slot ss q0 : Nat) (payload : List Byte) : WireFlit :=
    flitHead kind pcnt slot ss f.src f.dst q0 ++ padTo 240 payload
  match f.body with
  | .idle => whole 0 0 0 0 0 []
  | .slot slot ss q0 quads => whole 1 quads.length slot ss q0 (quads.flatMap fun (v : Quad) => leBytes 16 v.toNat)
  | .request tag addr op size data cmp =>
    let x : List Byte := match op with
      | .amo .. => padTo 8 data ++ leBytes 8 cmp.toNat
      | _ => padTo 128 (data.take size)
    whole 2 0 tag 0 0 (leBytes 8 addr.toNat ++ leBytes 1 (opWire op) ++ leBytes 1 size.log2 ++ leBytes 6 0 ++ x)
  | .response tag r =>
    whole 3 0 tag 0 0 (leBytes 2 (replyStatus r) ++ leBytes 14 0 ++ (match r with | .ok b _ => b.take 128 | _ => []))
  | .mgmt m t a r => whole 4 0 0 0 0 (leBytes 2 m ++ leBytes 6 0 ++ leBytes 8 t ++ leBytes 8 a ++ leBytes 8 r)

/-- The body of a received flit by its KIND; none for a KIND that is not listed. A request of an unlisted OP or size has size 0. -/
def wireBody (w : WireFlit) : Option FlitBody :=
  let n (lo k : Nat) : Nat := recNat w lo k
  match n 0 1 with
  | 0 => some .idle
  | 1 => some (.slot (n 2 2) (n 4 4) (n 14 2) ((List.range (min 14 (n 1 1))).map fun i => BitVec.ofNat 128 (n (16 + 16 * i) 16)))
  | 2 =>
    let x := (wireOp (n 24 1) (n 25 1)).getD (.read, 0)
    let data := match x.1 with | .amo .. => (w.drop 32).take 8 | _ => (w.drop 32).take x.2
    some (.request (n 2 2) (BitVec.ofNat 64 (n 16 8)) x.1 x.2 (padTo (match x.1 with | .amo .. => 8 | _ => x.2) data)
      (BitVec.ofNat 64 (n 40 8)))
  | 3 => some (.response (n 2 2) (wireReply (n 16 2) (padTo 128 (w.drop 32))))
  | 4 => some (.mgmt (n 16 2) (n 24 8) (n 32 8) (n 40 8))
  | _ => none

/-- A received flit. -/
def wireFlit (w : WireFlit) : Option LinkFlit := (wireBody w).map fun b => ⟨recNat w 8 3 % 2 ^ 20, recNat w 11 3 % 2 ^ 20, b⟩

/-- Whether a flit carries slot data. -/
def isSlot (w : WireFlit) : Bool := recNat w 0 1 == 1

/-! ### Integrity tags (R363) -/

/-- The tag of a group: GMAC of bytes 0 to 239 of its flits. The key's bytes rise with their register offsets, and the IV is LID, then
CTR, highest byte first (log entry 93). -/
def groupTag (key : BitVec 256) (lid : BitVec 32) (ctr : DWord) (l : List WireFlit) : List Byte :=
  gmac (leBytes 32 key.toNat) (beBytes 4 lid.toNat ++ beBytes 8 ctr.toNat) (l.flatMap (padTo 240))

/-- A flit with a tag in its trailer. -/
def withTag (w : WireFlit) (tag : List Byte) : WireFlit := padTo 240 w ++ tag

/-- The trailer of a flit. -/
def trailer (w : WireFlit) : List Byte := padTo 16 (w.drop 240)

end Sys2Proof.Machine
end

