-- ==== Sys2Proof/Machine/Edge.lean ====
section
/-! DEFINITION. The edge: Lyder link ports and their flits, reserved slots, edge windows, width reduction, the personality switch and
the loss of a port (R350 to R371). -/

namespace Sys2Proof.Machine

/-! ### Answers of requests that have left the device (R356, R359, R368) -/

/-- An answer that reaches its source now: a hub or a channel of this device takes it at once. -/
def State.answerNow (s : State) (src : LooseSrc) (r : Reply) : State :=
  match src with
  | .hub d h => s.first [.event (.hubAccessAnswer d h r)]
  | .channel _ _ id => s.first [.event (.deadlineReplyArrival id r)]
  | _ => s.respond src r

/-- A store of a hub that a home on another device has accepted is performed there at a time that the manual leaves open (R232,
R238). -/
def State.noteRemote (s : State) (o : Outbound) (r : Reply) : State :=
  match o.src, o.store, r with
  | .hub d h, true, .ok .. =>
    { s.modHub d h fun hb => { hb with remote := hb.remote ++ [s.rmt + Config.remotePerform s.freeCount] } with freeCount := s.freeCount + 1 }
  | _, _, _ => s

/-- A request that is outstanding no more. -/
def State.dropOutbound (s : State) (o : Outbound) : State :=
  { s with edge := { s.edge with outbound := s.edge.outbound.erase o } }

/-- A response flit completes its outstanding request, or is discarded and counted. What the response does not carry is filled in: the
size of its data, the place of an uncorrectable word and the reason of a failed translation (R356, R359). -/
def State.response (s : State) (port : Nat) (f : LinkFlit) : State :=
  match f.body with
  | .response tag r =>
    match s.edge.outbound.find? fun o => o.tag == tag && o.port == some port with
    | none => s.drop port
    | some o =>
      let s1 := s.dropOutbound o
      match r with
      | .ok b _ => (s1.noteRemote o r).answerNow o.src (.ok (b.take o.size) false)
      | .uncorr .. => s1.answerNow o.src (.uncorr 0x29 o.addr.toNat)
      | .xlate _ =>
        State.answerNow { s1 with freeCount := s1.freeCount + 1 } o.src (.xlate (0x40 + (Config.remoteReason s1.freeCount).val))
      | _ => s1.answerNow o.src r
  | _ => s

/-- The outstanding requests of a group are answered (R368). -/
def State.answerGroup (s : State) (g : Nat) (r : Reply) : State :=
  let mine := s.edge.outbound.filter fun o => o.group == some g
  let s1 : State := { s with edge := { s.edge with outbound := s.edge.outbound.filter fun o => o.group != some g } }
  mine.reverse.foldl (fun s o => s.answerNow o.src r) s1

/-! ### The loss of a port (R354, R362, R363, R367) -/

/-- The ports of a group. -/
def groupPorts (g : Nat) : List Nat := [4 * g, 4 * g + 1, 4 * g + 2, 4 * g + 3]

/-- Every port of a group changed. -/
def State.modPorts (s : State) (g : Nat) (f : Port → Port) : State := (groupPorts g).foldl (fun s p => s.modPort p f) s

/-- A port that goes down: what it holds is lost (R388). -/
def Port.cut (p : Port) : Port :=
  { p with up := false, queue := [], words := [], groupIn := [], verifying := [], released := [], groupOut := [], replay := [] }

/-- The ports of a group that a partition's receive entries name are noted as down (R362). -/
def Part.noteDown (q : Part) (g : Nat) : Part :=
  let ports := ((q.tt.edge.filter fun e => (e.form == 2 || e.form == 3) && e.port / 4 == g).map EdgeEntry.port).eraseDups
  { q with linkDown := q.linkDown ++ ports.map fun p => (p, q.ss) }

/-- A port is lost: its group enters DOWN, and every request is answered PATH_DOWN (R367). -/
def State.portLost (s : State) (port : Nat) : State :=
  let g := port / 4
  let s1 := ((s.answerGroup g .pathDown).modPorts g Port.cut).modGroup g fun x => { x with state := .down }
  { s1 with parts := s1.parts.map fun q => q.noteDown g }

/-- PORT_LOSS (R367). -/
def execPortLoss (port : Nat) (s : State) : Out :=
  let st := (s.group (port / 4)).state
  if st = .down ∨ st = .retrain then .next s else .next (s.portLost port)

/-! ### Sending (R354, R361, R363, R364) -/

/-- The quads of a transfer from its words by index: quad k has words 2k and 2k + 1. -/
def quadsFrom (ws : List (PortWord × DWord)) (k n : Nat) : List Quad :=
  (List.range n).map fun i =>
    let w (j : Nat) : DWord := ((ws.find? fun x => x.1.j == j).map (·.2)).getD 0
    BitVec.ofNat 128 ((w (2 * (k + i))).toNat + (w (2 * (k + i) + 1)).toNat * 2 ^ 64)

/-- Whether two words belong to one transfer. -/
def PortWord.same (a b : PortWord) : Bool := a.port == b.port && a.slot == b.slot && a.ss == b.ss && a.peer == b.peer

/-- A word reaches its port's transmit buffer; with the last word of a flit's quads the flit is ready (R361). -/
def State.portWord (s : State) (w : PortWord) (v : DWord) : State :=
  let ws := ((s.port w.port).words.filter fun x => !(x.1.same w && x.1.j == w.j)) ++ [(w, v)]
  let f := w.j / 28
  let n := min 14 (w.quads - 14 * f)
  let mine := ws.filter fun x => x.1.same w && x.1.j / 28 == f
  if mine.length = 2 * n then
    let fl : LinkFlit := ⟨s.device, w.peer, .slot w.slot w.ss (14 * f) (quadsFrom mine (14 * f) n)⟩
    s.modPort w.port fun p =>
      { p with words := ws.filter fun x => !(x.1.same w && x.1.j / 28 == f), queue := p.queue ++ [fl] }
  else s.modPort w.port fun p => { p with words := ws }

/-- At the end of cycle p the words that have crossed into the I/O die reach their ports (R350). -/
def State.portArrivals (s : State) (pid p : Nat) : State :=
  match s.part pid with
  | none => s
  | some q =>
    let here (f : Flit) : Bool :=
      match f.port with
      | none => false
      | some w => f.q + f.delay + portT f.src w.port == p
    let s1 := s.modPart pid fun q => { q with flits := q.flits.filter fun f => !here f }
    (q.flits.filter here).foldl (fun s f => match f.port with | none => s | some w => s.portWord w f.payload) s1

/-- The rank of a flit's kind: slot data, management, responses, requests, idle (R354). -/
def flitRank : FlitBody → Nat
  | .slot .. => 0
  | .mgmt .. => 1
  | .response .. => 2
  | .request .. => 3
  | .idle => 4

/-- The flit that a port sends next: the first of the best kind (R354). -/
def bestFlit : List LinkFlit → Option LinkFlit
  | [] => none
  | f :: r =>
    match bestFlit r with
    | none => some f
    | some g => if flitRank f.body ≤ flitRank g.body then some f else some g

/-- A flit time of a port in fifths of a module cycle: 2.5 ns on two lanes and 5 ns on one, in wall time whatever the
stretch (R172, R354). -/
def flitTime (width : Nat) (st : Option Stretch) : Nat :=
  let full := match st with | none => 30 | some .x1_25 => 24 | some .x1_5 => 20 | some .x2 => 15
  if width = 2 then full else 2 * full

/-- Whether a Lyder link port's next flit time has come; it sends until DRAIN ends (R354, R368). -/
def State.flitDue (s : State) (p : Nat) : Bool :=
  let g := s.group (p / 4)
  g.pers == 0 && (s.port p).up && (g.state == .up || g.state == .quiesce || g.state == .drain) &&
    decide ((s.port p).nextAt ≤ 5 * s.rmt)

/-- Whether the flit sent next begins a group (R363, R364). -/
def Port.boundary (p : Port) : Bool := p.sent % 5 == 0

/-- A mode that both ends hold takes effect in a direction where its next flit begins a group (R371). -/
def Port.turnTx (p : Port) : Port := if p.boundary then { p with imode := p.agreed.getD p.imode } else p

/-- How often in a row, four times at most, a flit fails its CRC: the draws from `c` on (R354). -/
def crcRun : Nat → Nat → Nat
  | 0, _ => 0
  | n + 1, c => if Config.crcFails c then 1 + crcRun n (c + 1) else 0

/-- A flit put on the lanes with `fails` replays: the fifth of a group takes the tag, CTR adds 1 per group, and each replay costs
2 LAT + 24 cycles (R354, R363). -/
def Port.transmit (p : Port) (f : LinkFlit) (base fails : Nat) (st : Option Stretch) : Port :=
  let last := p.imode ≠ 0 ∧ p.sent % 5 = 4
  let w := if last then withTag (flitBytes f) (groupTag p.txkey p.lid p.txctr (p.groupOut ++ [flitBytes f])) else flitBytes f
  { p with
    queue := p.queue.erase f, sent := p.sent + 1, nextAt := base + flitTime p.width st + 5 * fails * (2 * p.lat + 24)
    groupOut := if p.imode = 0 ∨ last then [] else p.groupOut ++ [w], txctr := if last then p.txctr + 1 else p.txctr
    replay := (p.replay ++ [w]).drop ((p.replay.length + 1) - 64) }

/-- LINK_FLIT_SEND: at its flit time a port that has credit sends the best flit that is ready, or an idle one. A port whose CTR has
reached its end goes down, and so does one of whose flits three replays have failed; the credit and the CRC are the peer's and the
wire's (R354, R363; log entry 92). -/
def execLinkFlitSend (port : Nat) (s : State) : Out :=
  let p := (s.port port).turnTx
  let base := max p.nextAt (5 * s.rmt - 4)
  let drawn : State := { s with freeCount := s.freeCount + 5 }
  let fails := crcRun 4 (s.freeCount + 1)
  if !s.flitDue port || (p.reducing && p.boundary && p.width == 2) then .next s
  else if p.imode ≠ 0 ∧ p.txctr = BitVec.allOnes 64 then .next (s.portLost port)
  else if !Config.linkCredit s.freeCount then
    .next (drawn.modPort port fun _ => { p with nextAt := base + flitTime p.width s.ring.stretch })
  else if fails = 4 then .next (drawn.portLost port)
  else .next (drawn.modPort port fun _ =>
    p.transmit ((bestFlit p.queue).getD ⟨s.device, p.peer, .idle⟩) base fails s.ring.stretch)

/-- WIDTH_REDUCTION: the link layer orders a direction of a port down to one lane. The sending direction goes there at a flit number
≡ 0 mod 5, after 96 cycles of realignment; the receiving one with the first flit of a group (R364). -/
def execWidthReduction (dir : PortDir) (s : State) : Out :=
  let port := dir.port
  let p := s.port port
  if !p.up then .next s
  else if dir.rx then .next (s.modPort port fun p => if p.rxwidth = 2 then { p with rxreducing := true } else p)
  else if p.reducing ∧ p.boundary ∧ p.width = 2 ∧ s.flitDue port then
    .next (s.modPort port fun p =>
      { p with width := 1, reducing := false, nextAt := max p.nextAt (5 * s.rmt - 4) + 5 * 96 })
  else .next (s.modPort port fun p => if p.width = 2 then { p with reducing := true } else p)

/-- IMODE_CHANGE: the peer now holds a mode; once both ends hold it, by this change or by a later write here, it takes effect in each
direction at a group boundary (R371). -/
def execImodeChange (port : Nat) (mode : Fin 3) (s : State) : Out :=
  .next (s.modPort port fun p => Port.agree { p with peerMode := mode })

/-! ### Reserved slots: receiving (R360 to R362, R366) -/

/-- The first superstep of a phase entry and the number of its supersteps; 0 repeats without end (R152). -/
def phaseRange : List (Nat × Nat × Nat) → Nat → Nat → Option (Nat × Nat)
  | [], _, _ => none
  | (_, _, n) :: _, 0, s => some (s, n)
  | (_, _, n) :: rest, pe + 1, s => phaseRange rest pe (s + n)

/-- Whether superstep `ss` belongs to phase entry `pe`. -/
def Timetable.inPhase (t : Timetable) (pe ss : Nat) : Bool :=
  match phaseRange t.phases pe 0 with
  | none => false
  | some (b, n) => decide (b ≤ ss) && (n == 0 || decide (ss < b + n))

/-- Whether an entry receives. -/
def EdgeEntry.takes (e : EdgeEntry) : Bool := e.form == 2 || e.form == 3

/-- The tile of an edge entry. -/
def Part.edgeTile (q : Part) (e : EdgeEntry) : Coord := ⟨q.x0 + e.px, q.y0 + e.py⟩

/-- The receive entry of a partition that a slot-data flit matches: its port, PEER, SLOT and superstep (R361, R377). -/
def Part.receiveEntry (q : Part) (port src slot ss : Nat) : Option (EdgeEntry × Nat) :=
  q.tt.edge.zipIdx.find? fun e =>
    e.1.takes && e.1.port == port && e.1.peer == src && e.1.slot == slot && decide (slot < 2 ^ 15) && q.tt.inPhase e.1.pe ss

/-- The partitions and entries that a slot-data flit matches: a placed partition's before those of partitions that are written out,
whose reserved slots a placed one may use (R146, R297, R361). -/
def State.slotTargets (s : State) (port src slot ss : Nat) : List (Part × EdgeEntry × Nat) :=
  (s.parts.filter Part.placed ++ s.parts.filter fun q => !q.placed).filterMap fun q =>
    (q.receiveEntry port src slot ss).map fun e => (q, e)

/-- The partition and entry that a slot-data flit is for: the first that it matches whose superstep is still to come (R361). -/
def State.slotTarget (s : State) (port src slot ss : Nat) : Option (Part × EdgeEntry × Nat) :=
  let l := s.slotTargets port src slot ss
  (l.find? fun x => decide (x.1.ss ≤ ss)).or l.head?

/-- The release cycle of quad k of a receive entry in superstep `ss`: before partition cycle 0 if it is negative (R361). -/
def Part.releaseAt (q : Part) (e : EdgeEntry) (ss k : Nat) : Option Int :=
  match q.superAt ss with
  | none => none
  | some u =>
    if u.pe = e.pe ∧ e.takes ∧ k ≤ e.len then some (((u.b + u.c + e.off + 2 * k : Nat) : Int) - portT (q.edgeTile e) e.port) else none

/-- A slot-data flit that is released to its landing buffer, or put into the held area of its frozen partition; one that matches no
entry whose superstep is still to come is discarded (R303, R361, R366). -/
def State.slotData (s : State) (port : Nat) (f : LinkFlit) : State :=
  match f.body with
  | .slot slot ss q0 quads =>
    match s.slotTarget port f.src slot ss with
    | none => s.drop port
    | some (q, e, i) =>
      let now := q.cycleNow s.rmt
      if ss < q.ss then s.drop port
      else if q.frozen then
        quads.zipIdx.foldl (fun s v =>
          match s.part q.pid with
          | none => s
          | some x => (s.hold x (edgeRecs e ss (q0 + v.2) ((q.releaseAt e ss (q0 + v.2)).getD now) now v.1)).1) s
      else
        s.modPart q.pid fun q => { q with edgeIn := q.edgeIn ++ quads.zipIdx.map fun (v : Quad × Nat) => ⟨i, ss, q0 + v.2, v.1, now⟩ }
  | _ => s

/-- The two words of a released quad put into the mesh toward their tile (R350, R361). -/
def Part.releaseQuad (q : Part) (e : EdgeEntry) (r : Nat) (v : Quad) : Part :=
  let (t, out) := attach e.port
  let w (i : Nat) (x : DWord) : Flit :=
    { id := q.next + i, kind := .stream, src := t, dst := q.edgeTile e, q := r + 12 + i, payload := x, delay := 0,
      caught := none, job := 0, port := none, inp := out }
  { q with flits := q.flits ++ [w 0 (v.setWidth 64), w 1 ((v >>> 64).setWidth 64)], next := q.next + 2 }

/-- The smaller value as a signed 32-bit one; a slack below all of these is the least of them (R369; log entry 121). -/
def slackMin (a : BitVec 32) (v : Int) : BitVec 32 := if v < a.toInt then BitVec.ofInt 32 (slack32 v) else a

/-- INFO of LINK_LATE: the port, SLOT and quad (R362). -/
def lateFlt (port slot k reason : Nat) : Flt :=
  { code := fcLinkLate, reason := reason, info := port + slot % 2 ^ 16 * 2 ^ 6 + k * 2 ^ 22 }

/-- Why a quad of superstep `ss` is missing: its port is down, or went down when the quad was still to come (R362). -/
def State.lateReason (s : State) (q : Part) (port ss : Nat) : Nat :=
  if !(s.port port).up || q.linkDown.any fun d => d.1 == port && decide (ss ≤ d.2 + 1) then 0x11 else rsSlack

/-- A quad that is present is released at r_k; one that is missing raises LINK_LATE there (R361, R362). -/
def State.release (s : State) (q : Part) (entry : Nat) (e : EdgeEntry) (ss k r : Nat) : State :=
  match q.edgeIn.find? fun x => x.entry == entry && x.ss == ss && x.quad == k with
  | some x =>
    let s1 := s.modPort e.port fun p => { p with slackmin := slackMin p.slackmin ((r : Int) - x.at') }
    s1.modPart q.pid fun q => { (q.releaseQuad e r x.v) with edgeIn := q.edgeIn.filter (· != x) }
  | none => s.unitFault q.pid (q.edgeTile e) r 1 (lateFlt e.port e.slot k (s.lateReason q e.port ss))

/-- EDGE_QUAD_RELEASE (R362). -/
def execEdgeQuadRelease (pid entry : Nat) (quad : SlotQuad) (s : State) : Out :=
  match s.part pid with
  | none => .next s
  | some q =>
    match q.tt.edge[entry]? with
    | none => .next s
    | some e =>
      if q.form = .running ∧ q.releaseAt e quad.ss quad.k = some (q.cyc : Int) then .next (s.release q entry e quad.ss quad.k q.cyc) else .next s

/-- The quads that the ports release in cycle p: those of the supersteps from the present one on whose release cycles come before their
supersteps (R361). -/
def Part.releaseActs (q : Part) (p : Nat) : List Act :=
  if q.tt.edge.all fun e => !e.takes then []
  else
    let near := ((List.range 128).map (q.ss + ·)).takeWhile fun ss => match q.superAt ss with | none => false | some u => decide (u.b ≤ p + 2048)
    near.flatMap fun ss => q.tt.edge.zipIdx.flatMap fun e =>
      ((List.range (e.1.len + 1)).filter fun k => q.releaseAt e.1 ss k == some (p : Int)).map fun k => .event (.edgeQuadRelease q.pid e.2 ⟨ss, k⟩)

/-! ### Requests (R356, R358) -/

/-- Whether a window permits an operation in a space (R358). -/
def ewinPermits (w : Quad) (op : LooseOp) (space : Nat) : Bool :=
  (match opWant op with | .rd => w.getLsbD 126 | .wr => w.getLsbD 125 | .amo => w.getLsbD 124) &&
    (if space = 4 then w.getLsbD 123 else w.getLsbD 122)

/-- Whether an edge window covers a source device. -/
def ewinCovers (w : Quad) (dev : Nat) : Bool :=
  w.getLsbD 127 && decide (bits w.toNat 111 92 ≤ dev) && decide (dev ≤ bits w.toNat 91 72)

/-- The lowest-numbered edge window that admits a request; with `group` the arrival group and its generation are tested
(R358). -/
def State.edgeWindow (s : State) (group : Option Nat) (dev : Nat) (op : LooseOp) (space : Nat) : Option Quad :=
  (List.range 64).findSome? fun n =>
    let w := (assocGet s.edge.ewin n).getD 0
    let byGroup := match group with
      | none => true
      | some g => bits w.toNat 71 68 == g && bits w.toNat 15 0 == (s.group g).gen.toNat
    if ewinCovers w dev && byGroup && ewinPermits w op space then some w else none

/-- The compute die to which an I/O die attaches (R347, R367). -/
def ioDie (i : Nat) : Nat := match i with | 0 => 0 | 1 => 8 | 2 => 7 | _ => 15

/-- An access whose home is known goes there: one that has stood among the flights is performed in the place of its arrival, or keeps
its place before all that its source sent since; a request fresh from its port sets out (R215, R231). -/
def State.goHome (s : State) (f : Flight) (d : Dest) (sent : Bool) : State :=
  if !sent then s.sendLoose f.a d f.via
  else if d ≠ .here then s.leave f d
  else
    match spaceOf f.a.addr, space2 f.a.addr.toNat with
    | 1, _ => s.first [.event (.looseTileArrival f.a)]
    | 2, some hb => s.arriveHbm f.a hb
    | _, _ =>
      { s with flights := { f with at' := s.rmt + 1 + Config.looseDelay s.freeCount } :: s.flights, freeCount := s.freeCount + 1 }

/-- A request to space 4 or 5 of this device: admitted by an edge window, translated under its ASID, checked, and sent to its
home; or answered (R215, R318, R321, R358). `die` is the die whose translation buffer serves it, and `sent` says that it has come as a
flight. Behind one of the same source that waits for a translation it waits too (R231). SYS of a hub's capability carries through the
translation of a space 4 offset and not through space 5, which names its tile itself (DESIGN CHOICE, log entry 98). A fill request whose
requester is no hub of this device has SRC 0 (DESIGN CHOICE, log entry 114). -/
def State.admitRequest (s : State) (f : Flight) (die dev : Nat) (group : Option Nat) (sent : Bool) : State :=
  let a := f.a
  let ad := a.addr.toNat
  match s.edgeWindow group dev a.op (spaceOf a.addr), s.homeWait.find? fun w => sameSource w.2.2.a.src a.src with
  | none, _ => s.respond a.src .refused
  | some _, some (d, n, _) => { s with homeWait := s.homeWait ++ [(d, n, f)] }
  | some w, none =>
    if spaceOf a.addr = 4 then
      let va := bits ad 39 0
      let asid := bits w.toNat 121 112
      match s.xlateAt die asid va (opNeed a.op) true with
      | .hit s1 addr cls e =>
        match s1.routeAccess addr a.size with
        | .error f => s1.respond a.src (if f.code = fcPathDown then .pathDown else .refused)
        | .ok (dest, path) =>
          if min path cls < opClass a.op then s1.respond a.src .unsup
          else s1.goHome { f with a := { a with addr := BitVec.ofNat 64 addr }, via := f.via ++ [(die, e)] } dest sent
      | .miss full =>
        let r := s.askXlate die (match a.src with | .hub _ h => h | _ => 0) true (opKind a.op) asid va full
        { r.1 with homeWait := r.1.homeWait ++ [(die, r.2, f)] }
    else
      match space5 ad with
      | none => s.respond a.src .refused
      | some (_, t, off) => s.goHome { f with a := { a with addr := BitVec.ofNat 64 (tileAddr t off), sys := false } } .here sent

/-- A request flit that reaches its port (R356, R367). -/
def State.request (s : State) (port : Nat) (f : LinkFlit) : State :=
  match f.body with
  | .request tag addr op size data cmp =>
    let gr := s.group (port / 4)
    let a : Loose :=
      { src := .device f.src port tag gr.gen.toNat, op := op, addr := addr, size := size, data := data, cmp := cmp, sys := false }
    if f.dst ≠ s.device ∨ gr.state ≠ .up then s.respond a.src .pathDown
    else if size = 0 then s.respond a.src .unsup
    else
      State.admitRequest { s with freeCount := s.freeCount + 1 } ⟨s.freeCount, s.rmt, a, []⟩ (ioDie (port / 16)) f.src (some (port / 4)) false
  | _ => s

/-! ### The personality switch (R367, R368) -/

/-- Whether an edge entry of a placed or intermissioned partition, or a Carousel binding, names a port of a group (R367,
R373). -/
def State.groupReserved (s : State) (g : Nat) : Bool :=
  (s.parts.any fun q => q.tt.edge.any fun e => e.port / 4 == g) || (groupPorts g).any fun p => s.portBound p

/-- A request for a personality switch: refused, or accepted into QUIESCE, or from DOWN into RETRAIN (R367, R370). -/
def State.requestSwitch (s : State) (g : Nat) (next : Fin 4) (opt : BitVec 4) : State :=
  let opt' := opt &&& 1#4
  let gr := s.group g
  let set (f : Group → Group) : State := s.modGroup g fun x => f { x with next := next, opt := opt' }
  if gr.state ≠ .up ∧ gr.state ≠ .down then set fun x => { x with res := 3 }
  else if s.groupReserved g then set fun x => { x with res := 2 }
  else if gr.state = .down then set fun x => { x with state := .retrain, res := 0, until' := s.rmt + 4800000 }
  else
    let s1 := set fun x => { x with state := .quiesce, res := 0, until' := s.rmt + 1024 }
    if gr.pers = 0 then
      (groupPorts g).foldl (fun s p =>
        if (s.port p).up then s.queueFlit p ⟨s.device, (s.port p).peer, .mgmt 8 0 0 0⟩ else s) s1
    else s1

/-- PERSONALITY_SWITCH_REQUEST (R367). -/
def execPersonalitySwitchRequest (g : Nat) (next : Fin 4) (opt : BitVec 4) (s : State) : Out :=
  .next (s.requestSwitch g next opt)

/-- DRAIN_BEGIN: QUIESCE ends (R367). -/
def execDrainBegin (g : Nat) (s : State) : Out :=
  if (s.group g).state = .quiesce ∧ (s.group g).until' ≤ s.rmt then
    .next (s.modGroup g fun x => { x with state := .drain, until' := s.rmt + 240000 })
  else .next s

/-- Whether an access came in by a group in its present generation. -/
def State.cameBy (s : State) (g : Nat) (a : Loose) : Bool :=
  match a.src with
  | .device _ port _ gen => port / 4 == g && gen == (s.group g).gen.toNat
  | _ => false

/-- The accesses that stand between their arrival on this module and their performance. -/
def State.openLoose (s : State) : List Loose :=
  s.flights.map Flight.a ++ (s.homeWait.map fun w => w.2.2.a) ++ s.parts.flatMap Part.held ++ s.pcs.flatMap fun e => e.2.held

/-- Whether requests of a group are outstanding in either direction, or requests or responses are still to be sent (R367). -/
def State.groupBusy (s : State) (g : Nat) : Bool :=
  s.edge.outbound.any (fun o => o.group == some g) || s.openLoose.any (s.cameBy g) ||
    (groupPorts g).any fun p => (s.port p).queue.any fun f => match f.body with | .request .. | .response .. => true | _ => false

/-- Whether DRAIN of a group ends with the present cycle: nothing is outstanding, or its limit is reached (R367). -/
def State.drained (s : State) (g : Nat) : Bool :=
  (s.group g).state == .drain && (decide ((s.group g).until' ≤ s.rmt + 1) || !s.groupBusy g)

/-- DRAIN_END: at the end of its last cycle what is still outstanding is answered ABORT, and GEN advances in INVAL (R367, R368). -/
def execDrainEnd (g : Nat) (s : State) : Out :=
  if s.drained g then
    .next (((s.answerGroup g .abort).modPorts g Port.cut).modGroup g fun x =>
      { x with state := .inval, gen := x.gen + 1, until' := s.rmt + 2 })
  else .next s

/-- INVAL lasts one cycle, and a RETRAIN that reaches its limit fails (R367). -/
def State.groupLimits (s : State) : State :=
  { s with edge := { s.edge with groups := s.edge.groups.map fun (e : Nat × Group) =>
      let x := e.2
      (e.1, if x.state = .inval ∧ x.until' ≤ s.rmt then { x with state := .retrain, until' := s.rmt + 4800000 }
            else if x.state = .retrain ∧ x.until' ≤ s.rmt then { x with state := .down, res := 4 }
            else x) } }

/-- RETRAIN_COMPLETE: the group is UP under its new personality with what its ports learned, or DOWN (R355, R367, R371). -/
def execRetrainComplete (g : Nat) (r : TrainResult) (s : State) : Out :=
  if (s.group g).state ≠ .retrain then .next s
  else if !r.ok then .next (s.modGroup g fun x => { x with state := .down, res := 4 })
  else
    let s1 := s.modGroup g fun x => { x with state := .up, pers := x.next, res := 1 }
    .next ((r.ports.filter fun t => t.port / 4 == g).foldl (fun s t => s.modPort t.port fun p =>
      { p.cut with up := t.up, width := t.width, rxwidth := t.width, pport := t.pport, peer := t.peer, lat := t.lat, ofs := t.ofs,
                   sent := 0, received := 0, nextAt := 5 * s.rmt, reducing := false, rxreducing := false }) s1)

end Sys2Proof.Machine
end

