-- ==== Sys2Proof/Machine/Troupe.lean ====
section
/-! DEFINITION. Received link flits with their integrity groups, and the agreements of a troupe (R308, R353, R356, R363,
R365, R378). -/

namespace Sys2Proof.Machine

/-! ### Agreements (R308, R365) -/

/-- The partition of a troupe on this device. -/
def State.troupePart (s : State) (t : Nat) : Option Part := s.parts.find? fun q => q.inTroupe && q.lrec.troupe == t

/-- The lead of a troupe: its member with the lowest device number (R365). -/
def leadOf (t : Nat) : Nat := ((Config.troupeMembers t).mergeSort (· ≤ ·)).headD 0

/-- The other members of a troupe. -/
def State.others (s : State) (t : Nat) : List Nat := (Config.troupeMembers t).filter (· != s.device)

/-- A management flit sent toward a device, on the port at which the path to it begins (R365). -/
def State.sendMgmt (s : State) (dev mtype t arg rmt : Nat) : State :=
  s.queueFlit (Config.relayPort dev) ⟨s.device, dev, .mgmt mtype t arg rmt⟩

/-- A management flit sent to every other member. -/
def State.tellOthers (s : State) (mtype t arg rmt : Nat) : State :=
  (s.others t).foldl (fun s d => s.sendMgmt d mtype t arg rmt) s

/-- Whether two agreements are about one thing: a troupe has one proposal of a kind at a time, and reports by their superstep. -/
def Agreement.same (a b : Agreement) : Bool := a.troupe == b.troupe && a.mtype == b.mtype && (a.mtype != 4 || a.value == b.value)

/-- An agreement replaced, or added. -/
def Ring.setAgreement (r : Ring) (a : Agreement) : Ring := { r with agreements := r.agreements.filter (fun b => !b.same a) ++ [a] }

/-- An agreement ended. -/
def Ring.endAgreement (r : Ring) (a : Agreement) : Ring := { r with agreements := r.agreements.filter fun b => !b.same a }

/-! ### Resync (R189, R365) -/

/-- Whether a member has passed the Turnstile of superstep `k` without a freeze: this device's by its partition, another's by the lead's
poll (R189; log entry 8). -/
def State.memberPassed (s : State) (t k d : Nat) : Bool :=
  if d = s.device then (s.troupePart t).any fun p => decide (k < p.ss)
  else decide (k < Config.memberSuperstep d s.rmt)

/-- With every member's report of superstep `k`, or its passage, the lead chooses Q and sends the restart (R189, R365). -/
def State.settleResync (s : State) (a : Agreement) : State :=
  if a.mtype = 4 ∧ (Config.troupeMembers a.troupe).all fun d => a.devices.contains d || s.memberPassed a.troupe a.value d then
    let q := s.rmt + 24576
    let s1 := (s.modRing fun r => r.endAgreement a).tellOthers 5 a.troupe a.value q
    match s1.troupePart a.troupe with
    | none => s1
    | some p => s1.modPart p.pid fun p => if p.causes.contains 4 then { p with restartQ := some q } else p
  else s

/-- The lead's open reports are looked at again in every device cycle, as members pass. -/
def State.settleResyncs (s : State) : State := s.ring.agreements.foldl State.settleResync s

/-- A report of resync superstep `k` reaches the lead (R365). -/
def State.reportAt (s : State) (t k dev : Nat) : State :=
  let a : Agreement := ⟨t, 4, k, 0, true, [dev]⟩
  let old := (s.ring.agreements.find? a.same).map Agreement.devices
  let a' := { a with devices := insertSorted (old.getD []) dev }
  (s.modRing fun r => r.setAgreement a').settleResync a'

/-- A member frozen at its resync Turnstile of superstep `k` reports to the lead (R365). -/
def State.reportResync (s : State) (t k : Nat) : State :=
  if leadOf t = s.device then s.reportAt t k s.device else s.sendMgmt (leadOf t) 4 t k s.rmt

/-- The lead answers a resync notice: it chooses s*, one more than the largest superstep number of the members (R365). -/
def State.chooseResync (s : State) (t : Nat) : State :=
  let own := ((s.troupePart t).map (·.ss)).getD 0
  let k := 1 + (s.others t).foldl (fun m d => max m (Config.memberSuperstep d s.rmt)) own
  let s1 := s.tellOthers 7 t k s.rmt
  match s1.troupePart t with
  | none => s1
  | some p => s1.modPart p.pid fun p => { p with resyncAt := some k }

/-- A resync notice sent by this member (R362, R365). -/
def State.sendNotice (s : State) (q : Part) : State :=
  let t := q.lrec.troupe
  if leadOf t = s.device then s.chooseResync t else s.sendMgmt (leadOf t) 7 t q.ss s.rmt

/-- A member's offset toward the lead (R365). -/
def State.leadOfs (s : State) (t : Nat) : Int := (s.port (Config.relayPort (leadOf t))).ofs + Config.relayOfs (leadOf t)

/-! ### Intermissions and power steps (R308, R365) -/

/-- Whether a member accepts an intermission at troupe cycle `c` (R308). -/
def Part.acceptsStop (q : Part) (c : Nat) : Bool := q.form == .running && decide (q.cyc + 4800 ≤ c)

/-- Whether a member accepts a power step at the Turnstile of superstep `k` (R365; log entry 19). -/
def Part.acceptsStep (q : Part) (k : Nat) : Bool := q.form == .running && decide (q.ss ≤ k)

/-- What every member has accepted is in force: the cycle of an intermission, or the power step of a superstep that has not passed
(R308, R365). -/
def Part.agree (q : Part) (a : Agreement) : Part :=
  if a.mtype = 1 then { q with agreedQ := some a.value }
  else if q.ss ≤ a.value then { q with pstep := some (a.tries % 4), pstepAt := some a.value }
  else q

/-- An agreement with what answers have come: once every member has accepted it is in force, and until then it stands open (R308). -/
def State.join (s : State) (a : Agreement) : State :=
  if (Config.troupeMembers a.troupe).all a.devices.contains then
    let s1 := s.modRing fun r => r.endAgreement a
    match s1.troupePart a.troupe with
    | none => s1
    | some q => (s1.modPart q.pid fun q => q.agree a).refreshStep q.pid
  else s.modRing fun r => r.setAgreement a

/-- The acceptances of a proposal that came before it. -/
def Ring.early (r : Ring) (t v : Nat) : List Nat :=
  ((r.agreements.find? fun a => a.troupe == t && a.mtype == 0 && a.value == v).map Agreement.devices).getD []

/-- A proposal of another member: accepted or rejected, with an answer to every other member (R308, R365; log entry 19). -/
def State.onProposal (s : State) (src : Nat) (a : Agreement) (accepts : Part → Bool) : State :=
  match s.troupePart a.troupe with
  | none => s.tellOthers 3 a.troupe a.value s.rmt
  | some q =>
    if accepts q then
      (s.join { a with devices := insertSorted (insertSorted (s.ring.early a.troupe a.value) src) s.device }).tellOthers 2 a.troupe a.value s.rmt
    else s.tellOthers 3 a.troupe a.value s.rmt

/-- An intermission proposed by this member at troupe cycle `c`, or 65,536 cycles on for each try that it must itself reject; after 8
rejections it is withdrawn (R308). -/
def State.propose (s : State) (t c tries : Nat) : State :=
  match s.troupePart t with
  | none => s
  | some q =>
    match (List.range (8 - tries)).find? fun i => q.acceptsStop (c + 65536 * i) with
    | none => s
    | some i =>
      let v := c + 65536 * i
      (s.tellOthers 1 t v s.rmt).join ⟨t, 1, v, tries + i, true, [s.device]⟩

/-- A power step proposed by this member for superstep `k` (R365). -/
def State.proposeStep (s : State) (q : Part) (k step : Nat) : State :=
  if q.acceptsStep k then
    (s.tellOthers 6 q.lrec.troupe k step).join ⟨q.lrec.troupe, 6, k, step, true, [s.device]⟩
  else s

/-- The proposal that an answer belongs to. -/
def State.agreementFor (s : State) (t v : Nat) : Option Agreement :=
  s.ring.agreements.find? fun a => a.troupe == t && a.value == v && (a.mtype == 1 || a.mtype == 6)

/-- MTYPE 2: a member has accepted; an acceptance that comes before its proposal is kept for it (R308). -/
def State.onAccept (s : State) (src t v : Nat) : State :=
  match s.agreementFor t v with
  | none => s.modRing fun r => r.setAgreement ⟨t, 0, v, 0, false, insertSorted (r.early t v) src⟩
  | some a => s.join { a with devices := insertSorted a.devices src }

/-- MTYPE 3: a rejection ends the proposal; its initiator proposes q + 65,536, and after 8 it withdraws (R308). -/
def State.onReject (s : State) (t v : Nat) : State :=
  match s.agreementFor t v with
  | none => s
  | some a =>
    let s1 := s.modRing fun r => r.endAgreement a
    if a.own && a.mtype == 1 then s1.propose t (v + 65536) (a.tries + 1) else s1

/-- MTYPE 5: the restart instant Q of the lead, at this member's device RMT (R365). -/
def State.onRestart (s : State) (t q : Nat) : State :=
  match s.troupePart t with
  | none => s
  | some p =>
    if p.causes.contains 4 then s.modPart p.pid fun p => { p with restartQ := some ((q : Int) - s.leadOfs t).toNat } else s

/-- MTYPE 7: a notice makes the lead choose, and the lead's choice reaches a member (R365). -/
def State.onNotice (s : State) (src t k : Nat) : State :=
  if leadOf t = s.device then s.chooseResync t
  else if src = leadOf t then
    match s.troupePart t with
    | none => s
    | some p => s.modPart p.pid fun p => { p with resyncAt := some k }
  else s

/-- A management flit: relayed toward another device, or taken by MTYPE (R353, R365, R367). MTYPE 8 changes nothing here. -/
def State.mgmt (s : State) (f : LinkFlit) : State :=
  match f.body with
  | .mgmt m t arg rmt =>
    if f.dst ≠ s.device then s.queueFlit (Config.relayPort f.dst) f
    else
      match m with
      | 1 => s.onProposal f.src ⟨t, 1, arg, 0, false, []⟩ fun q => q.acceptsStop arg
      | 2 => s.onAccept f.src t arg
      | 3 => s.onReject t arg
      | 4 => if leadOf t = s.device then s.reportAt t arg f.src else s
      | 5 => s.onRestart t rmt
      | 6 => s.onProposal f.src ⟨t, 6, arg, rmt, false, []⟩ fun q => q.acceptsStep arg
      | 7 => s.onNotice f.src t arg
      | _ => s
  | _ => s

/-! ### Receiving (R353, R363) -/

/-- The contents of a flit applied; a Carousel release is applied at the end of the device cycle (R353, R376, R377). -/
def State.applyFlit (s : State) (port : Nat) (f : LinkFlit) : State :=
  match f.body with
  | .idle => s
  | .slot slot .. => if 2 ^ 15 ≤ slot then s.carouselData port f else s.slotData port f
  | .request .. => s.request port f
  | .response .. => s.response port f
  | .mgmt m .. => if m = 9 then { s with agenda := s.agenda ++ [.release port f] } else s.mgmt f

/-- The contents of a flit as it came: one of an unlisted KIND is discarded and counted (R353). -/
def State.applyWire (s : State) (port : Nat) (w : WireFlit) : State :=
  match wireFlit w with
  | none => s.drop port
  | some f => s.applyFlit port f

/-- The contents of a flit of a verified group: a Carousel data flit behind the `n` that stood deferred before the group and those of
the group (R363, R378; log entry 116). -/
def State.applyVerified (s : State) (port n : Nat) (w : WireFlit) : State :=
  match wireFlit w with
  | some ⟨src, dst, .slot slot ss q0 quads⟩ =>
    if 2 ^ 15 ≤ slot then s.carouselTake port n ⟨src, dst, .slot slot ss q0 quads⟩ else s.applyWire port w
  | _ => s.applyWire port w

/-- What the receiving direction changes where a group begins: its mode and its width (R364, R371). -/
def Port.turnRx (p : Port) : Port :=
  if p.received % 5 = 0 then
    { p with rxmode := p.agreed.getD p.rxmode, rxwidth := if p.rxreducing then 1 else p.rxwidth, rxreducing := false }
  else p

/-- A flit taken by a port: on a protected one it joins its group, whose verification ends 8 cycles after the fifth has come
(R363). -/
def Port.accept (p : Port) (w : WireFlit) (rmt : Nat) : Port :=
  let g := p.groupIn ++ [w]
  let p1 := { p with received := p.received + 1 }
  if p.rxmode = 0 then { p1 with groupIn := [] }
  else if g.length = 5 then { p1 with groupIn := [], verifying := p.verifying ++ [⟨rmt + 8, p.rxmode, g⟩] }
  else { p1 with groupIn := g }

/-- The partition, and the tile from its corner, that take the words of a slot flit: none where the flit is dropped (R361, R366, R378). -/
def State.slotTaker (s : State) (port num : Nat) (w : WireFlit) : Option Released :=
  let of (q : Part) (t : Coord) : Released := ⟨num, q.lrec.seq, t.x - q.x0, t.y - q.y0⟩
  match wireFlit w with
  | some ⟨src, _, .slot slot ss q0 _⟩ =>
    if 2 ^ 15 ≤ slot then
      match s.boundAt port with
      | some (t, owner, b) =>
        if (b.accepts slot ss q0).isSome then (owner.or (s.partOf t)).map fun q => of q t else none
      | none => none
    else
      match s.slotTarget port src slot ss with
      | some (q, e, _) => if q.ss ≤ ss then some (of q (q.edgeTile e)) else none
      | none => none
  | _ => none

/-- A port that notes who took flit `num` until its group's verification ends (R363). -/
def Port.noteTaker (p : Port) (r : Option Released) : Port :=
  let open' := p.received - (5 * p.verifying.length + p.groupIn.length)
  { p with released := (p.released.filter fun x => decide (open' ≤ x.num)) ++ r.toList }

/-- A flit that a port receives, applied on arrival as far as the port's mode lets it (R363). -/
def State.receive (s : State) (port : Nat) (w : WireFlit) : State :=
  let p := (s.port port).turnRx
  if !p.up then s
  else
    let s1 := s.modPort port fun _ => p.accept w s.rmt
    if p.rxmode = 0 then s1.applyWire port w
    else if p.rxmode = 2 ∧ isSlot w then
      (s.modPort port fun _ => (p.accept w s.rmt).noteTaker (s.slotTaker port p.received w)).applyWire port w
    else s1

/-- A record for words of a partition that were released before their tag failed: in the present cycle, which the partition freezes
after; one for a frozen partition joins its list (R363, R388; log entry 93). -/
def State.integrityFault (s : State) (q : Part) (t : Coord) (flt : Flt) : State :=
  let r := unitRecord t .access (q.cycleNow s.rmt).toNat 1 flt
  if q.frozen then s.faultFrozen q.pid [r] else s.cycleFault q.pid r

/-- Slot words that a skid port released before their tag failed: a record in the partition that received them, and none for a flit that was
dropped (R363, R388). -/
def State.badSlot (s : State) (port : Nat) (took : List Released) (w : WireFlit) (num : Nat) : State :=
  match wireFlit w, took.find? (fun r => r.num == num) with
  | some ⟨_, _, .slot slot _ q0 _⟩, some r =>
    match s.parts.find? fun q => q.lrec.seq == r.seq with
    | none => s
    | some q => s.integrityFault q ⟨q.x0 + r.x, q.y0 + r.y⟩ (lateFlt port slot q0 0x10)
  | _, _ => s

/-- TAG_VERIFY: 8 cycles after its last flit the group of a CTR, if its tag agrees, is applied as far as it was not on arrival. One whose tag fails is
counted in IFAIL, logged and discarded with what came after it, for the sender replays it (R363). -/
def execTagVerify (port ctr : Nat) (s : State) : Out :=
  let p := s.port port
  match p.verifying with
  | [] => .next s
  | g :: rest =>
    if s.rmt < g.at' ∨ p.rxctr.toNat ≠ ctr then .next s
    else if groupTag p.rxkey p.lid p.rxctr g.flits = trailer (g.flits.getLastD []) then
      let s1 := s.modPort port fun p => { p with verifying := rest, rxctr := p.rxctr + 1 }
      let late := if g.mode = 2 then g.flits.filter (fun w => !isSlot w) else g.flits
      .next (late.foldl (fun s w => s.applyVerified port (s1.deferredAt port) w) s1)
    else
      let again := 5 * (rest.length + 1) + p.groupIn.length
      let s1 := s.modPort port fun p =>
        { p with verifying := [], groupIn := [], released := [], ifail := p.ifail + 1, received := p.received - again }
      let s2 := s1.storageEvent ⟨1, 0x2A, 0, port, 0, 0, false⟩
      .next (if g.mode = 2 then
        g.flits.zipIdx.foldl (fun s w => s.badSlot port p.released w.1 (p.received - again + w.2)) s2 else s2)

/-- A flit received by an event of its kind; one of an unlisted KIND is of every kind. -/
def State.receiveIf (s : State) (port : Nat) (w : WireFlit) (kind : FlitBody → Bool) : State :=
  match wireBody w with
  | none => s.receive port w
  | some b => if kind b then s.receive port w else s

/-- LINK_SLOT_DATA_FLIT (R361). -/
def execLinkSlotDataFlit (port : Nat) (f : WireFlit) (s : State) : Out :=
  .next (s.receiveIf port f fun b => match b with | .slot slot .. => decide (slot < 2 ^ 15) | _ => false)
/-- CAROUSEL_DATA_FLIT (R378). -/
def execCarouselDataFlit (port : Nat) (f : WireFlit) (s : State) : Out :=
  .next (s.receiveIf port f fun b => match b with | .slot slot .. => decide (2 ^ 15 ≤ slot) | _ => false)
/-- LINK_REQUEST_FLIT (R356). -/
def execLinkRequestFlit (port : Nat) (f : WireFlit) (s : State) : Out :=
  .next (s.receiveIf port f fun b => match b with | .request .. => true | _ => false)
/-- LINK_RESPONSE_FLIT (R356). -/
def execLinkResponseFlit (port : Nat) (f : WireFlit) (s : State) : Out :=
  .next (s.receiveIf port f fun b => match b with | .response .. => true | _ => false)
/-- LINK_IDLE_FLIT (R353). -/
def execLinkIdleFlit (port : Nat) (f : WireFlit) (s : State) : Out :=
  .next (s.receiveIf port f fun b => match b with | .idle => true | _ => false)

/-- A management flit of one MTYPE received; one of an unlisted MTYPE is of MTYPE 8, which changes nothing. -/
def State.receiveMgmt (s : State) (port : Nat) (f : WireFlit) (mtype : Nat) : State :=
  s.receiveIf port f fun b => match b with | .mgmt m .. => m == mtype || (mtype == 8 && !(1 ≤ m && m ≤ 9)) | _ => false

/-- CAROUSEL_RELEASE_FLIT (R378). -/
def execCarouselReleaseFlit (port : Nat) (f : WireFlit) (s : State) : Out := .next (s.receiveMgmt port f 9)
/-- MGMT_INTERMISSION_PROPOSAL (R308). -/
def execMgmtIntermissionProposal (port : Nat) (f : WireFlit) (s : State) : Out := .next (s.receiveMgmt port f 1)
/-- MGMT_ACCEPT (R365). -/
def execMgmtAccept (port : Nat) (f : WireFlit) (s : State) : Out := .next (s.receiveMgmt port f 2)
/-- MGMT_REJECT (R365). -/
def execMgmtReject (port : Nat) (f : WireFlit) (s : State) : Out := .next (s.receiveMgmt port f 3)
/-- MGMT_RESYNC_REPORT (R365). -/
def execMgmtResyncReport (port : Nat) (f : WireFlit) (s : State) : Out := .next (s.receiveMgmt port f 4)
/-- MGMT_RESTART (R365). -/
def execMgmtRestart (port : Nat) (f : WireFlit) (s : State) : Out := .next (s.receiveMgmt port f 5)
/-- MGMT_STEP_PROPOSAL (R365). -/
def execMgmtStepProposal (port : Nat) (f : WireFlit) (s : State) : Out := .next (s.receiveMgmt port f 6)
/-- MGMT_RESYNC_NOTICE (R365). -/
def execMgmtResyncNotice (port : Nat) (f : WireFlit) (s : State) : Out := .next (s.receiveMgmt port f 7)
/-- MGMT_DRAINED (R367). -/
def execMgmtDrained (port : Nat) (f : WireFlit) (s : State) : Out := .next (s.receiveMgmt port f 8)

/-! ### Power steps, thermal trips and the troupe's freeze -/

/-- POWER_STEP_REQUEST: the step is pending for the next Turnstile, also that of a partition which is frozen or written out; a troupe
agrees on that of the next superstep (R171, R299, R365). -/
def execPowerStepRequest (pid : Nat) (step : Fin 4) (s : State) : Out :=
  match s.part pid with
  | none => .next s
  | some q =>
    if q.inTroupe then .next (s.proposeStep q (q.ss + 1) step.val)
    else .next ((s.modPart pid fun q => { q with pstep := some step.val, pstepAt := none }).refreshStep pid)

/-- THERMAL_TRIP: every module cycle is stretched (R172). -/
def execThermalTrip (f : Stretch) (s : State) : Out := .next (s.modRing fun r => { r with stretch := some f })

/-- THERMAL_TRIP_END (R172). -/
def execThermalTripEnd (s : State) : Out := .next (s.modRing fun r => { r with stretch := none })

/-- TROUPE_INTERMISSION_FREEZE: a member that accepted freezes at the end of q - 1 (R308). -/
def execTroupeIntermissionFreeze (pid : Nat) (s : State) : Out :=
  match s.part pid with
  | none => .next s
  | some q =>
    if q.form = .running ∧ q.agreedQ = some (q.cyc + 1) then
      .next (s.modPart pid fun q => { q.stopFor 3 with agreedQ := none })
    else .next s

end Sys2Proof.Machine
end

