-- ==== Sys2Proof/Machine/Cycle.lean ====
section
/-! DEFINITION. What falls due in a partition cycle: register, memory, queue and flag effects in their order (R23, R29,
R129, R203, R225 to R227), puts and space-1 atomics at their home and their answers (R183, R184, R235, R236), missed slots
(R177) and the Turnstile (R154, R228 to R230). -/

namespace Sys2Proof.Machine

/-! ### Memory effects of one cycle (R202, R203, R225, R226) -/

/-- The bytes of a quad that a mask selects, with their offsets (R302). -/
def maskBytes (off mask : Nat) (v : Quad) : List (Nat × Byte) :=
  ((List.range 16).filter fun i => mask.testBit i).map fun i => (off + i, v.extractLsb' (8 * i) 8)

/-- The words that a memory effect touches and whether it is an atomic. -/
def Eff.touches : Eff → Option (List Nat × Bool)
  | .store off data _ _ _ => some (blocks off data.length 8, false)
  | .storeMask off mask v .. => some (((maskBytes off mask v).map fun b => b.1 / 8 * 8).eraseDups, false)
  | .amo off _ size _ _ _ _ _ => some (blocks off size 8, true)
  | _ => none

/-- Whether a word collides: two writes, or a write and an atomic, fall on it (R225). -/
def collides (due : List Eff) (w : Nat) : Bool :=
  let on := (due.filterMap Eff.touches).filter fun x => x.1.contains w
  let writes := on.countP fun x => !x.2
  decide (2 ≤ writes) || (writes == 1 && on.any fun x => x.2)

/-- The collided words of a cycle at a tile, rising. -/
def collidedWords (due : List Eff) : List Nat :=
  (((due.filterMap Eff.touches).flatMap (·.1)).foldl insertSorted []).filter (collides due)

/-- The record of one writer of a collided word (R226, R271). -/
def writerRecord (t : Coord) (cyc w : Nat) (wr : Writer) : FRec :=
  { code := fcCollision, reason := rsWrite, who := if wr.kind = 4 ∨ wr.kind = 5 then 8 else wr.core + 2 * wr.slot, kind := 1,
    x := t.x, y := t.y, cyc := cyc, pc := 0, word := 0,
    info := w + wr.kind * 2 ^ 17 + wr.core * 2 ^ 20 + wr.slot * 2 ^ 21 + wr.entry * 2 ^ 23 + wr.x * 2 ^ 28 + wr.y * 2 ^ 38 }

/-- The writer of a memory effect. -/
def Eff.writer : Eff → Option Writer
  | .store _ _ _ _ w | .storeMask _ _ _ _ _ w => some w
  | .amo _ _ _ _ _ _ _ w => some w
  | _ => none

/-- A space-1 atomic or put changed. -/
def State.modXact (s : State) (pid id : Nat) (f : Xact → Xact) : State :=
  s.modPart pid fun q => { q with xacts := q.xacts.map fun (x : Xact) => if x.id = id then f x else x }

/-- A store takes effect on its words that did not collide (R18, R203, R225); a channel's word that did stays pending (R254; DESIGN CHOICE,
log entry 110). -/
def State.storeDue (s : State) (t : Coord) (bad : List Nat) (off : Nat) (data : List Byte) (tag full : Bool) (w : Writer) : State :=
  let hit := (blocks off data.length 8).any fun x => bad.contains x
  let s1 :=
    if !hit then s.storeTile t off data tag full
    else
      (data.zipIdx.filter fun b => !bad.contains ((off + b.2) / 8 * 8)).foldl
        (fun s b => s.storeTile t (off + b.2) [b.1] false full) s
  let s2 := s1.noteWrites t off data.length
  match w.word with
  | some n => if hit then s2 else s2.modChan (.tile ⟨w.x, w.y⟩) (fin4 w.entry) fun c => c.finish n
  | none => s2

/-- The bytes of a mask take effect in the words that did not collide (R18, R203, R225, R302). -/
def State.storeMaskDue (s : State) (t : Coord) (bad : List Nat) (off mask : Nat) (v : Quad) (tag full : Bool) (w : Writer) : State :=
  let bytes := maskBytes off mask v
  let hit := bytes.any fun b => bad.contains (b.1 / 8 * 8)
  let s1 := (bytes.filter fun b => !bad.contains (b.1 / 8 * 8)).foldl (fun s b => s.storeTile t b.1 [b.2] (tag && !hit) full) s
  let s2 := bytes.foldl (fun s b => s.noteWrites t b.1 1) s1
  match w.word with
  | some n => if hit then s2 else s2.modChan (.tile ⟨w.x, w.y⟩) (fin4 w.entry) fun c => c.finish n
  | none => s2

/-- An atomic performs on a word that did not collide; on one that did it writes nothing, and a space-1 atomic is answered
as refused (R226, R235, R236). -/
def State.amoDue (s : State) (pid : Nat) (t : Coord) (bad : List Nat) (off f size : Nat) (x e : DWord) (xact : Nat)
    (reg : Option (Fin 4 × RegNo × Nat)) : State :=
  let s0 := s.noteWrites t off size
  if bad.contains (off / 8 * 8) then
    if xact = 0 then s0 else s0.modXact pid xact fun x => { x with refused := true, collided := true }
  else
    let ga := tileAddr t off
    let r := amoMem s0.mem ga f (8 * size) x.toNat e.toNat
    let s1 := { s0 with mem := r.1, qtags := if off < 0x8000 then eraseAll s0.qtags (ga / 16 * 16) else s0.qtags }.mendTile t off size
    let s2 := match reg with
      | none => s1
      | some (j, d, c) => s1.modTile t fun tl => tl.push c (.creg .access j d (.plain (BitVec.ofNat 128 r.2)))
    if xact = 0 then s2 else s2.modXact pid xact fun x => { x with performed := true, result := BitVec.ofNat 64 r.2 }

/-! ### The other effects -/

/-- The entries of a list of at most four, with a new one last: the mark ring, oldest first (R193). -/
def pushMark (v : Vector Quad 4) (q : Quad) : Vector Quad 4 := Vector.ofFn fun i => if i.val = 3 then q else v.toList.getD (i.val + 1) 0

/-- The rank of an effect among those of one cycle: full-bit clears before sets, syswr of fl before flags, and the order of
R129 for accumulators (R23, R129, R203). -/
def Eff.phase : Eff → Nat
  | .fullClear .. => 0
  | .flSet .. => 1
  | .accClear .. => 2
  | .ovClear .. => 3
  | .lqPop | .sqPop => 4
  | _ => 5

/-- The damaged entries of a queue after its oldest entry goes; `base` is 0 for LQ and 8 for SQ (R272). -/
def popQueue (base : Nat) (l : List Damage) : List Damage :=
  (l.filter fun d => d.reason != 0x23 || d.key != base).map fun d =>
    if d.reason = 0x23 ∧ base < d.key ∧ d.key < base + 8 then { d with key := d.key - 1 } else d

/-- One effect of a tile takes effect (R12, R23, R29, R100 to R102, R133 to R138, R188, R193, R240, R256). -/
def State.effectDue (s : State) (pid : Nat) (t : Coord) (bad : List Nat) (e : Eff) : State :=
  let slot (k : Side) (j : Fin 4) (f : Slot → Slot) : State := s.modTile t fun tl => tl.setSlot k j (f (tl.slot k j))
  let anew (k : Side) (j : Fin 4) (key : Nat) (f : Slot → Slot) : State :=
    s.modTile t fun tl => { tl.setSlot k j (f (tl.slot k j)) with damage := mend 0x21 [key] tl.damage }
  let special (k : Side) (j : Fin 4) (num : Nat) : Nat := 2 ^ 11 + regKey k j num
  match e with
  | .creg k j r v => anew k j (regKey k j r) fun sl => sl.write r v
  | .flOr j f => slot .execute j fun sl => { sl with fl := flOr sl.fl f }
  | .flSet k j v => anew k j (special k j 0x011) fun sl => { sl with fl := v }
  | .fmSet k j v => anew k j (special k j 0x010) fun sl => { sl with fm := v }
  | .srSet k j v => anew k j (special k j 0x012) fun sl => { sl with sr := v }
  | .sSet k j n v => anew k j (special k j n.val) fun sl => { sl with s := sl.s.set n v }
  | .sByte j n pos v =>
    anew .execute j (special .execute j n.val) fun sl =>
      let old := sl.s[n].toNat
      { sl with s := sl.s.set n (BitVec.ofNat 128 (old - bits old (8 * pos + 7) (8 * pos) * 2 ^ (8 * pos) + v.toNat * 2 ^ (8 * pos))) }
  | .store off data tag full w => s.storeDue t bad off data tag full w
  | .storeMask off mask v tag full w => s.storeMaskDue t bad off mask v tag full w
  | .amo off f size x y xact reg _ => s.amoDue pid t bad off f size x y xact reg
  | .delivery .. => s
  | .lqPush _ v => s.modTile t fun tl => { tl with lq := tl.lq ++ [v], damage := mend 0x23 [tl.lq.length] tl.damage }
  | .lqPop => s.modTile t fun tl => { tl with lq := tl.lq.drop 1, damage := popQueue 0 tl.damage }
  | .sqPush _ v => s.modTile t fun tl => { tl with sq := tl.sq ++ [v], damage := mend 0x23 [8 + tl.sq.length] tl.damage }
  | .sqPop => s.modTile t fun tl => { tl with sq := tl.sq.drop 1, damage := popQueue 8 tl.damage }
  | .accClear _ z a => s.modTile t fun tl =>
    { tl with z := tl.z.set z (tl.z[z].clear a), damage := mend 0x22 ((if a.isSome then [2 ^ 8 + z.val] else []) ++ (List.range 64).map fun e => z.val + 4 * e) tl.damage }
  | .ovClear _ z => s.modTile t fun tl => { tl with z := tl.z.set z { tl.z[z] with ov := false, iv := false } }
  | .msk _ z v => s.modTile t fun tl => { tl with z := tl.z.set z { tl.z[z] with mask := v } }
  | .mg _ v => s.modTile t fun tl => { tl with mg := v }
  | .semAdd _ _ n v => s.modTile t fun tl => { tl with sem := tl.sem.set n (tl.sem[n] + v) }
  | .semSub _ _ n v => s.modTile t fun tl => { tl with sem := tl.sem.set n (tl.sem[n] - v) }
  | .fullClear _ _ off => { s with full := eraseAll s.full (tileAddr t (off / 8 * 8)) }
  | .mark v => s.modTile t fun tl => { tl with marks := pushMark tl.marks v }
  | .gtab n v => s.modTile t fun tl => { tl with gshadow := tl.gshadow.set n v }
  | .orc ch => s.modChan (.tile t) ch Chan.outOfRange
  | .crs a => s.crsEffect t a
  | .xreg _ _ => s
  | .wordDone ch n => s.modChan (.tile t) ch fun c => c.finish n
  | .ready _ _ => s

/-- Whether a pending effect falls due at the end of cycle p; deliveries have a place of their own. -/
def Pend.dueAt (e : Pend) (p : Nat) : Bool :=
  e.due == p && (match e.eff with | .delivery .. => false | _ => true)

/-- The record of a space-1 atomic that finds its word at home damaged: it performs on the word as read (R272; log entry 36). WHO is the home
tile's unit (DESIGN CHOICE, log entry 111). -/
def Eff.ecc (e : Eff) (tl : Tile) (t : Coord) (p : Nat) (bad : List Nat) : Option FRec :=
  match e with
  | .amo off _ size _ _ xact _ _ =>
    if xact = 0 ∨ bad.contains (off / 8 * 8) then none else (tl.eccAt off size).map (unitRecord t .access p 1)
  | _ => none

/-- The effects of a tile that fall due at the end of cycle p, with the records of collided and of damaged words (R225, R226, R272). -/
def State.tileDue (s : State) (pid p : Nat) (t : Coord) : State × List FRec :=
  let all := ((s.tile t).pend.filter fun e => e.dueAt p).map Pend.eff
  if all.isEmpty then (s, [])
  else
    let bad := collidedWords all
    let recs := bad.flatMap fun w =>
      (all.filter fun e => (e.touches.map fun x => x.1.contains w).getD false).filterMap fun e => e.writer.map (writerRecord t p w)
    let damage := all.filterMap fun e => e.ecc (s.tile t) t p bad
    let s1 := s.modTile t fun tl => { tl with pend := tl.pend.filter fun e => !e.dueAt p }
    let ordered := (List.range 6).flatMap fun n => all.filter fun e => e.phase == n
    (ordered.foldl (fun s e => s.effectDue pid t bad e) s1, recs ++ damage)

/-- The effects of every member that fall due at the end of cycle p, and the records of collisions. -/
def State.allDue (s : State) (q : Part) (p : Nat) : State × List FRec :=
  let r := q.members.foldl (fun (acc : State × List FRec) t =>
    let r := acc.1.tileDue q.pid p t
    (r.1, acc.2 ++ r.2)) (s, [])
  (r.1.stageWrites q.pid p, r.2)

/-- PENDING_EFFECT_DUE: the effects due at the end of the present cycle; collisions are cycle faults, and the state before the
effects is kept while instructions wait to be re-offered (R28, R159, R226, R278). -/
def execPendingEffectDue (pid : Nat) (s : State) : Out :=
  match s.part pid with
  | none => .next s
  | some q =>
    if q.form != .running then .next s
    else
      let r := s.allDue q q.cyc
      let s1 := r.1.modPart pid fun q => { q with undo := q.undo.map fun u => { u with late := s.snap q } }
      .next (r.2.foldl (fun s x => s.cycleFault pid x) s1)

/-! ### Puts and space-1 atomics (R183, R184, R227, R235, R236) -/

/-- The transaction of a number. -/
def Part.xact (q : Part) (id : Nat) : Option Xact := q.xacts.find? fun x => x.id == id

/-- The window check of a put or atomic at its home (R200). -/
def State.xactAdmitted (s : State) (x : Xact) (off : Nat) : Bool :=
  (s.tile x.home).admits off (if x.op = 0 ∨ x.wide then 8 else 4) .part (if x.op = 0 then .wr else .amo)

/-- A put or atomic at its home in its performance cycle: its effect falls due at the end of the cycle or it is refused, and
the answer leaves on the acknowledgement wires (R183, R184, R235). -/
def State.performXact (s : State) (q : Part) (x : Xact) (e : Nat → Eff) : State :=
  let off := x.addr.toNat % 2 ^ 24
  let s1 :=
    if s.xactAdmitted x off then
      (s.modTile x.home fun tl => tl.push q.cyc (e off)).modXact q.pid x.id fun x => { x with performed := true }
    else s.modXact q.pid x.id fun x => { x with refused := true }
  s1.modPart q.pid fun q => q.inject .ack x.home x.src (q.cyc + 1) 0 x.id none

/-- The writer of a put or atomic (R271). -/
def Xact.writer (x : Xact) (kind : Nat) : Writer := ⟨kind, 0, x.slot.val, x.entry.val, x.src.x, x.src.y, none⟩

/-- PUT_PERFORM (R183). -/
def execPutPerform (pid id : Nat) (s : State) : Out :=
  match s.part pid with
  | none => .next s
  | some q =>
    match q.xact id with
    | none => .next s
    | some x =>
      if x.op != 0 || x.perform != q.cyc || x.performed || x.refused then .next s
      else .next (s.performXact q x fun off => .store off (leBytes 8 x.data.toNat) false true (x.writer 2))

/-- AMO_PERFORM (R227, R235). -/
def execAmoPerform (pid id : Nat) (s : State) : Out :=
  match s.part pid with
  | none => .next s
  | some q =>
    match q.xact id with
    | none => .next s
    | some x =>
      if x.op == 0 || x.perform != q.cyc || x.performed || x.refused then .next s
      else
        .next (s.performXact q x fun off =>
          .amo off (x.op - 1) (if x.wide then 8 else 4) x.data x.cmp x.id none (x.writer 3))

/-- INFO of REMOTE_NACK for a put or atomic (R276). -/
def Xact.nackInfo (x : Xact) : Nat :=
  x.addr.toNat % 2 ^ 42 + x.entry.val * 2 ^ 42 + (if x.op = 0 then 0 else if x.collided then 3 else 1) * 2 ^ 47

/-- A damaged journal entry, read when its answer arrives (R272; log entry 36). -/
def State.journalRead (s : State) (q : Part) (x : Xact) : State :=
  if damaged (s.tile x.src).damage 0x26 x.entry.val then
    s.cycleFault q.pid (coreRecord x.src .access x.slot.val q.cyc 1 0 0
      { code := fcEccLocal, reason := 0x26, info := x.entry.val })
  else s

/-- The answer of a put or atomic reaches its sender: the entry is free at the end of the cycle, ANS counts one of the
present superstep, and a refusal raises REMOTE_NACK (R184, R228, R276). -/
def State.answerXact (s : State) (q : Part) (x : Xact) : State :=
  let s1 := (s.journalRead q x).modTile x.src fun tl =>
    let tl1 := { tl with journal := tl.journal.set x.entry { tl.journal[x.entry] with v := false } }
    if tl.lost then tl else if x.ss = q.ss then { tl1 with ans := tl1.ans + 1 } else tl1
  let s2 := s1.modPart q.pid fun q => { q with xacts := q.xacts.filter fun y => y.id != x.id }
  if x.refused then
    s2.cycleFault q.pid { coreRecord x.src .access x.slot.val q.cyc 2 0 0 { code := fcRemoteNack, info := x.nackInfo } with kind := 2 }
  else s2

/-- PUT_ANSWER (R184). -/
def execPutAnswer (pid id : Nat) (s : State) : Out :=
  match s.part pid with
  | none => .next s
  | some q =>
    match q.xact id with
    | none => .next s
    | some x => if x.op == 0 && x.answer == q.cyc then .next (s.answerXact q x) else .next s

/-- AMO_ANSWER: cD is written at the end of this cycle, in the place of the atomic's issue among results due with it
(R29, R236). -/
def execAmoAnswer (pid id : Nat) (s : State) : Out :=
  match s.part pid with
  | none => .next s
  | some q =>
    match q.xact id with
    | none => .next s
    | some x =>
      if x.op == 0 || x.answer != q.cyc then .next s
      else
        let mine (e : Pend) : Bool := match e.eff with | .xreg _ n => n == id | _ => false
        let fill (e : Pend) : Pend :=
          if mine e then ⟨q.cyc, .creg .access x.slot x.dreg (.plain (x.result.setWidth 128))⟩ else e
        let s1 := s.modTile x.src fun tl =>
          { tl with pend := if x.refused then tl.pend.filter (fun e => !mine e) else tl.pend.map fill }
        .next (s1.answerXact q x)

/-! ### Missed slots and the Turnstile -/

/-- MISSED_SLOT: an entry places a form at this cycle and the access core offers no instruction (R177, R273). -/
def execMissedSlot (t : Coord) (entry : Nat) (s : State) : Out :=
  match s.partOf t with
  | none => .next s
  | some q =>
    match q.place t q.cyc with
    | none => .next s
    | some pl =>
      if pl.index = entry ∧ q.form = .running ∧ !(s.tile t).lost then
        .next (s.cycleFault q.pid (coreRecord t .access (q.cyc % 4) q.cyc 1 0 0
          { code := fcSlipLate, reason := rsSlot, info := entry }))
      else .next s

/-- Whether a core must have arrived and has not: some slot is live and no trn has issued (R144, R154). The manual leaves open whether a
core whose last slot stops in cycle U_s - 1 itself counts as arrived there; here it does (DESIGN CHOICE, log entry 95). -/
def Core.missing (c : Core) : Bool := (c.slots.toList.any fun (sl : Slot) => sl.live) && !c.trn

/-- The records of the cores that have not arrived (R154, R273). -/
def State.missingTrn (s : State) (q : Part) : List FRec :=
  q.members.flatMap fun t =>
    let tl := s.tile t
    if tl.lost then []
    else
      ([Side.access, Side.execute].filter fun k => (tl.core k).missing).map fun k =>
        coreRecord t k 0 q.cyc 1 0 0 { code := fcSlipLate, reason := rsTurnstile, info := q.ss }

/-- The records of the access cores whose counts differ (R229, R230). -/
def State.countFaults (s : State) (q : Part) : List FRec :=
  q.members.filterMap fun t =>
    let tl := s.tile t
    if tl.lost ∨ tl.iss = tl.ans then none
    else some (coreRecord t .access 0 q.cyc 1 0 0
      { code := fcCountMismatch, reason := rsCount, info := tl.iss.toNat + tl.ans.toNat * 2 ^ 32 })

/-- A tile at steps 3 and 4 of the Turnstile: arrivals and counts start afresh, and the shadows of windows and group tables
take effect (R154, R201, R228). -/
def Tile.turn (tl : Tile) : Tile :=
  { tl with
    access := { tl.access with trn := false }, exec := { tl.exec with trn := false }, iss := 0, ans := 0, gtab := tl.gshadow,
    win := Vector.ofFn fun i => (tl.winShadow[i]).getD tl.win[i], winShadow := Vector.replicate 4 none
    damage := mend 0x26 ((List.range 64).map (2 ^ 9 + ·)) tl.damage }

/-- Steps 3 to 6 of the Turnstile, and the freeze of a resync Turnstile (R154, R171, R189). DESIGN CHOICE: the last cycle of a superstep
below P0 ends with the module cycle of its tick, and the next superstep's pattern begins with the module cycle after it (R171; log
entry 104). -/
def State.turn (s : State) (pid : Nat) : State :=
  match s.part pid with
  | none => s
  | some q =>
    let was := (q.members.filter fun t => (s.tile t).winShadow.any Option.isSome).map fun t => (tileKey t, (s.tile t).win)
    let s1 := q.members.foldl (fun s t => s.modTile t Tile.turn) s
    let stepNow := q.pstep.isSome && (q.pstepAt.isNone || q.pstepAt == some q.ss)
    let sync := q.inTroupe && (q.resync || q.resyncAt == some q.ss)
    s1.modPart pid fun q =>
      let q1 := { q with ss := q.ss + 1, resync := false, turnDue := false, winWas := was,
                         resyncAt := if q.resyncAt == some q.ss then none else q.resyncAt }
      let q2 := if stepNow then { q1 with step := q1.pstep.getD q1.step, pstep := none, pstepAt := none, tick := 0 } else q1
      if sync then q2.stopFor 4 else q2

/-- Steps 2 to 6: the store counts, then the rest (R154, R230). -/
def State.turnFromCounts (s : State) (q : Part) : State :=
  match s.countFaults q with
  | [] => s.turn q.pid
  | l => (l.foldl (fun s x => s.cycleFault q.pid x) s).modPart q.pid fun q => { q with turnDue := true }

/-- TURNSTILE: decided at the end of cycle U_s - 1 (R154). -/
def execTurnstile (pid : Nat) (s : State) : Out :=
  match s.part pid with
  | none => .next s
  | some q =>
    match q.super with
    | none => .next s
    | some u =>
      if q.form != .running || q.cyc + 1 != u.b + u.c + u.x then .next s
      else
        match s.missingTrn q with
        | [] => .next (s.turnFromCounts q)
        | l => .next ((l.foldl (fun s x => s.cycleFault pid x) s).modPart pid fun q => { q with turnDue := true })

end Sys2Proof.Machine
end

