-- ==== Sys2Proof/Machine/Freeze.lean ====
section
/-! DEFINITION. Freezes and restarts: the close of a cycle, what a freeze does, the re-issue step (R277, R278, R294 to R297,
R303 to R310, R317, R362, R365), and FRZCTL (R310). -/

namespace Sys2Proof.Machine

/-- Whether a partition is to freeze at the end of its cycle. -/
def State.isFreezing (s : State) (pid : Nat) : Bool := match s.part pid with | none => false | some q => q.freezing

/-! ### Journal states (R161, R332) -/

/-- An entry of the journal changed. -/
def State.modEntry (s : State) (seq : Nat) (f : Entry → Entry) : State :=
  s.modRing fun g => { g with entries := g.entries.map fun e => if e.lrec.seq = seq ∧ e.lrec.state ≠ 4 then f e else e }

/-- The record of a sequence number that was not refused. -/
def Ring.entry (g : Ring) (seq : Nat) : Option Entry := g.entries.find? fun e => e.lrec.seq == seq && e.lrec.state != 4

/-- The device's bytes of a record as they stand in the journal. -/
def State.writeRecord (s : State) (r : Record) : State :=
  s.hbmStore (r.slotAddr + 104) (r.bytes.drop 104)

/-- A record takes new device fields, in the journal, in its entry and in its partition. -/
def State.setRecord (s : State) (seq : Nat) (f : Record → Record) : State :=
  match s.ring.entry seq with
  | none => s
  | some e =>
    let r := f e.lrec
    let s1 := (s.modEntry seq fun e => { e with lrec := r }).writeRecord r
    { s1 with parts := s1.parts.map fun q => if q.lrec.seq = seq then { q with lrec := r } else q }

/-! ### Freezing (R277, R294, R295, R297) -/

/-- The words that a partition's landing-buffer entries hold go to its held area (R366). -/
def State.holdEdges (s : State) (q : Part) : State :=
  q.edgeIn.foldl (fun s x =>
    match s.part q.pid, q.tt.edge[x.entry]? with
    | some y, some e => (s.hold y (edgeRecs e x.ss x.quad ((q.releaseAt e x.ss x.quad).getD x.at') x.at' x.v)).1
    | _, _ => s) s

/-- The open banks of a frozen partition's pseudo-channels are closed, their rows recorded (R211). -/
def State.closeBanks (s : State) (q : Part) : State :=
  q.tt.owned.foldl (fun s g => s.modPc g fun c => { c with recorded := c.rows, rows := [] }) s

/-- The recorded rows are opened again before the restart (R211). -/
def State.openBanks (s : State) (q : Part) : State :=
  q.tt.owned.foldl (fun s g => s.modPc g fun c => { c with rows := c.recorded, recorded := [] }) s

/-- Whether the present partition cycle is the last that begins before device RMT `i` (R277, R295). -/
def Part.lastBefore (q : Part) (rmt i : Nat) : Bool :=
  decide (rmt < i) && decide (i ≤ rmt + 8) && (List.range (i - rmt - 1)).all fun j => !ticks q.step (q.tick + j)

/-- A fault and an intermission that was requested: a fault in the last cycle before I freezes for both; an earlier one withdraws the
request (R277). -/
def State.faultMeets (s : State) (q : Part) : State :=
  match s.ring.request with
  | none => s
  | some (i, v, _) =>
    if !(v.contains q.pid && decide (s.rmt < i)) then s
    else if q.lastBefore s.rmt i then s.modPart q.pid fun x => x.withCause 3
    else s.withdraw q.pid

/-- A freeze takes effect: the state is held in place, bindings and landing-buffer words go to their areas, which the header's SEQ stands
before, the header is written, the pseudo-channels serve what they held, and each cause has its notice (R211, R212, R277, R294, R298, R307, R366, R387). -/
def State.freezeNow (s : State) (pid : Nat) : State :=
  match s.part pid with
  | none => s
  | some q =>
    let s1 := ((if q.causes.contains 1 then s.faultMeets q else s).saveHeader q).saveCarousel q
    let s2 := (s1.modPart pid fun x =>
      { x with form := .held, freezing := false, winWas := [], restored := false, edgeIn := [], undo := q.undo.map fun u => { u with post := s1.snap q } }).holdEdges q
    let s3 := (q.faults.foldl State.reportRecord s2).closeBanks q
    let s4 := match s3.part pid with | none => s3 | some x => s3.saveHeader x
    let s5 := q.tt.owned.foldl State.releasePc s4
    match s5.part pid with
    | none => s5
    | some x =>
      let s6 := if x.causes.contains 3 ∧ x.outAt.isNone then s5.beginOut pid else s5
      let s7 := if x.causes.contains 4 ∧ x.restartQ.isNone then s6.reportResync x.lrec.troupe (x.ss - 1) else s6
      let s8 := if x.halted.isSome then s7.writeOut pid else s7
      if x.causes.contains 1 ∧ x.message.isNone ∧ x.halted.isNone then s8.first [.event (.trapMessage pid)] else s8

/-- A loose access that was held for a partition is performed (R166, R202, R304). -/
def State.performHeld (s : State) (a : Loose) : State :=
  match space1 a.addr.toNat with
  | none => s
  | some (t, off) =>
    let r := s.looseAtTile t off a
    r.1.settle a r.2

/-- The accesses held since the launch slot are performed in cycle 0, in arrival order and before those that arrive in it (R166, R231). -/
def State.performLaunchHeld (s : State) (pid : Nat) : State :=
  match s.part pid with
  | none => s
  | some q => if q.cyc = 0 then q.held.foldl State.performHeld (s.modPart pid fun q => { q with held := [] }) else s

/-- The close of a partition cycle: the words that reach ports, and the freeze (R159, R350). -/
def State.closeCycle (s : State) (pid : Nat) : State :=
  match s.part pid with
  | none => s
  | some q =>
    let s1 := s.portArrivals pid q.cyc
    if s1.isFreezing pid then s1.freezeNow pid else s1

/-! ### Three-way merging (R278) -/

/-- Two changes of one value brought together: what `cur` left as `base` was takes `x`; what it changed is its own. -/
def pick {α : Type} [DecidableEq α] (base cur x : α) : α := if cur = base then x else cur

/-- Every entry of a vector merged. -/
def pickVec {α : Type} [DecidableEq α] {n : Nat} (base cur x : Vector α n) : Vector α n :=
  Vector.ofFn fun i => pick base[i] cur[i] x[i]

/-- What one change took out of a list and added to it, done to the other. -/
def pickList {α : Type} [DecidableEq α] (base cur x : List α) : List α :=
  listMinus x (listMinus base cur) ++ listMinus cur base

/-- A slot. -/
def pickSlot (base cur x : Slot) : Slot :=
  { c := pickVec base.c cur.c x.c, s := pickVec base.s cur.s x.s, fm := pick base.fm cur.fm x.fm, fl := pick base.fl cur.fl x.fl,
    sr := pick base.sr cur.sr x.sr, pcc := pick base.pcc cur.pcc x.pcc, live := pick base.live cur.live x.live,
    fbuf := pick base.fbuf cur.fbuf x.fbuf, loop := pick base.loop cur.loop x.loop, hold := pick base.hold cur.hold x.hold }

/-- A core. -/
def pickCore (base cur x : Core) : Core :=
  { slots := Vector.ofFn fun i => pickSlot base.slots[i] cur.slots[i] x.slots[i], frame := pick base.frame cur.frame x.frame,
    armed := pick base.armed cur.armed x.armed, hbd := pick base.hbd cur.hbd x.hbd, trn := pick base.trn cur.trn x.trn }

/-- A copy channel. -/
def pickChan (base cur x : Chan) : Chan :=
  { run := pick base.run cur.run x.run, que := pick base.que cur.que x.que, wp := pick base.wp cur.wp x.wp,
    orc := pick base.orc cur.orc x.orc, err := pick base.err cur.err x.err, len := pick base.len cur.len x.len,
    done := pickList base.done cur.done x.done, inflight := pickList base.inflight cur.inflight x.inflight,
    xlate := pick base.xlate cur.xlate x.xlate }

/-- A tile; a lost one is as `cur` has it, and a binding always is: the re-issue step reloads it from its port block (R278, R387). -/
def pickTile (base cur x : Tile) : Tile :=
  if cur.lost then cur
  else
    { access := pickCore base.access cur.access x.access, exec := pickCore base.exec cur.exec x.exec, lq := pick base.lq cur.lq x.lq,
      sq := pick base.sq cur.sq x.sq, z := pickVec base.z cur.z x.z, mg := pick base.mg cur.mg x.mg,
      mma := pick base.mma cur.mma x.mma, image := pick base.image cur.image x.image, win := pickVec base.win cur.win x.win,
      winShadow := pickVec base.winShadow cur.winShadow x.winShadow, sem := pickVec base.sem cur.sem x.sem,
      marks := pick base.marks cur.marks x.marks, iss := pick base.iss cur.iss x.iss, ans := pick base.ans cur.ans x.ans,
      journal := pickVec base.journal cur.journal x.journal,
      chans := Vector.ofFn fun i => pickChan base.chans[i] cur.chans[i] x.chans[i], gtab := pickVec base.gtab cur.gtab x.gtab,
      gshadow := pickVec base.gshadow cur.gshadow x.gshadow, sends := pickList base.sends cur.sends x.sends,
      catches := pickList base.catches cur.catches x.catches, binding := cur.binding,
      pend := pickList base.pend cur.pend x.pend, lost := x.lost, damage := pickList base.damage cur.damage x.damage }

/-- A tile of a snapshot. -/
def Snap.tile (n : Snap) (t : Coord) : Tile := (assocGet n.tiles (tileKey t)).getD .powerOn

/-- Every tile of a snapshot changed. -/
def Snap.mapTiles (n : Snap) (f : Tile → Tile) : Snap := { n with tiles := n.tiles.map fun e => (e.1, f e.2) }

/-- Whether an address lies in a member tile. -/
def Part.covers (q : Part) (a : Nat) : Bool := match space1 a with | none => false | some (t, _) => q.holds t

/-- Member memory merged byte by byte; `rest` stands for every other address. -/
def pickMem (q : Part) (rest base cur x : List Host.Cell) : List Host.Cell :=
  let addrs := ((base ++ cur ++ x).map fun (c : Host.Cell) => c.1).filter q.covers
  addrs.foldl (fun m a => Mem.set m a (pick (Mem.get base a) (Mem.get cur a) (Mem.get x a)))
    (rest.filter fun (c : Host.Cell) => !q.covers c.1)

/-- Members of a set of addresses merged; `rest` stands for every other address. -/
def pickSet (q : Part) (rest base cur x : List Nat) : List Nat :=
  ((base ++ cur ++ x).filter q.covers).foldl
    (fun l a => setMember l a (pick (base.contains a) (cur.contains a) (x.contains a))) (rest.filter fun a => !q.covers a)

/-- The state with the member tiles and memory of a partition merged from three snapshots. -/
def State.pickPart (s : State) (q : Part) (base cur x : Snap) : State :=
  let s1 := q.members.foldl (fun s t => s.setTile t (pickTile (base.tile t) (cur.tile t) (x.tile t))) s
  { s1 with mem := pickMem q s.mem base.mem cur.mem x.mem, full := pickSet q s.full base.full cur.full x.full,
            qtags := pickSet q s.qtags base.qtags cur.qtags x.qtags }

/-- The state with the member tiles and memory of a snapshot. -/
def State.withSnap (s : State) (q : Part) (n : Snap) : State := s.pickPart q n n n

/-- The transactions of a list by number, each merged with the other two (R278). -/
def pickXacts (base cur x : List Xact) : List Xact :=
  cur.map fun c => match base.find? (fun b => b.id == c.id), x.find? fun y => y.id == c.id with
    | some b, some y => pick b c y
    | _, _ => c

/-- A pending change of a Carousel binding: it has been taken in its own cycle. -/
def Pend.isCrs (e : Pend) : Bool := match e.eff with | .crs _ => true | _ => false

/-- The effects at the end of cycle p: what is due, then the image additions, then the mma contributions (R129). -/
def State.endEffects (s : State) (q : Part) : State × List FRec :=
  let r := s.allDue q q.cyc
  let added := q.members.foldl (fun s t => match (s.tile t).image with
    | some op => if op.add && op.due == q.cyc then nextOr (execImageTransferComplete t s) s else s
    | none => s) r.1
  (q.members.foldl (fun s t => match (s.tile t).mma with
    | some op => if op.due == q.cyc then nextOr (execMmaComplete t s) s else s
    | none => s) added, r.2)

/-! ### The re-issue step (R278, R304, R317, R362) -/

/-- The faults of a freeze whose RESUME asks for a resync: a late quad, or a failed crs.chk of a troupe member (R362, R388). -/
def FRec.wantsResync (r : FRec) : Bool :=
  (r.code == fcLinkLate && (r.reason == rsSlack || r.reason == 0x11)) ||
    (r.code == fcSlipEmpty && r.reason == rsCheck &&
      match decode (BitVec.ofNat 32 r.word) with
      | .ok (.crsChk _) => true
      | _ => false)

/-- The superstep of a record's late quad: the one whose release cycle is the record's (R362). -/
def Part.lateSuper (q : Part) (e : EdgeEntry) (r : FRec) : Option Nat :=
  ((List.range 128).map (q.ss + ·)).find? fun ss => q.releaseAt e ss (bits r.info 32 22) == some (r.cyc : Int)

/-- A late quad is released if it is present by now, as its release cycle would have; otherwise it is late again (R362). -/
def State.releaseLate (s : State) (pid : Nat) (r : FRec) : State :=
  match s.part pid with
  | none => s
  | some q =>
    if r.code = fcLinkLate ∧ (r.reason = rsSlack ∨ r.reason = 0x11) then
      match q.tt.edge.zipIdx.findSome? fun e =>
        if e.1.takes ∧ e.1.port = bits r.info 5 0 ∧ e.1.slot = bits r.info 21 6 then (q.lateSuper e.1 r).map fun ss => (e, ss) else none with
      | some ((e, i), ss) => s.release q i e ss (bits r.info 32 22) r.cyc
      | none => s
    else s

/-- One held reply, acknowledgement or error applied; a lost tile's channels are gone (R249, R284, R304). -/
def State.applyHeld (s : State) (q : Part) (h : HeldRec) : State :=
  let t : Coord := ⟨q.x0 + h.px, q.y0 + h.py⟩
  let ch := fin4 h.who
  if (s.tile t).lost then s
  else match h.kind with
  | 1 =>
    (s.modTile t fun tl => tl.push q.cyc (.delivery h.extra h.data (1 + ch.val) (some (ch, h.num)) false)).deliverAll t q.cyc
  | 2 => s.modChan (.tile t) ch fun c => c.finish h.num
  | 3 => s.modChan (.tile t) ch fun c => c.fail (h.who / 16) h.num
  | _ => s

/-- Step 1 of the re-issue step: the held loose accesses, the records of the held area in arrival order, and the bindings with the quads
held for them; the held edge flits go back to the landing buffers (R278, R304, R366, R387). -/
def State.applyArrivals (s : State) (q : Part) : State :=
  let recs := s.heldRecs q
  let s1 := q.held.foldl State.performHeld s
  let s2 := (recs.foldl (fun s h => s.applyHeld q h) s1).loadCarousel q
  s2.modPart q.pid fun x => { x with edgeIn := x.edgeIn ++ q.heldQuads recs q.tt.inPhase }

/-- A slot reads the four words at its saved PCC again, as a resume does (R30). -/
def Slot.reread (sl : Slot) (m : List Host.Cell) (t : Coord) (k : Side) (j : Fin 4) (tl : Tile) (q : Part) : Slot :=
  let cx : Cx := { wh := .tile t k j tl q, slot := sl, pc := 0, word := 0, frame := false, n := 0 }
  if sl.live then { sl with fbuf := cx.refill m (capCur sl.pcc.data) } else sl

/-- The damaged words that the live slots of a core read again are whole (R272). -/
def Core.mendBuffers (c : Core) (k : Side) (l : List Damage) : List Damage :=
  (List.finRange 4).foldl (fun l j =>
    if c.slots[j].live then mendFetch k j (fourWords (capCur c.slots[j].pcc.data)) none l else l) l

/-- Every live slot of a partition reads its words again (R30). -/
def State.reread (s : State) (q : Part) : State :=
  q.members.foldl (fun s t => s.modTile t fun tl =>
    { tl with
      access := { tl.access with slots := Vector.ofFn fun j => tl.access.slots[j].reread s.mem t .access j tl q }
      exec := { tl.exec with slots := Vector.ofFn fun j => tl.exec.slots[j].reread s.mem t .execute j tl q }
      damage := tl.exec.mendBuffers .execute (tl.access.mendBuffers .access tl.damage) }) s

/-- The state that the re-offered instructions see: as it stood when they were offered in cycle p, with the handler's edits and the
held arrivals (R278); and what the step combines at its end. -/
def State.setBack (s : State) (q : Part) (u : Undo) (r : Reissue) : State :=
  let cur := s.snap q
  let s1 := s.pickPart q u.post cur u.first
  let late := ((s.pickPart q u.post cur u.late).snap q).mapTiles fun tl => { tl with pend := tl.pend.filter fun e => !e.isCrs }
  s1.modPart q.pid fun x => { x with ss := u.ss, reissue := some { r with redo := some ⟨s1.snap q, late, cur⟩ } }

/-- The restart of a partition held in place begins with the re-issue step: held arrivals, the fetch buffers, the state of cycle p
with the handler's edits, and the re-offered instructions (R30, R278, R305). -/
def State.beginRestart (s : State) (pid : Nat) : State :=
  match s.part pid with
  | none => s
  | some q =>
    let notice := q.inTroupe && q.faults.any FRec.wantsResync
    let r : Reissue := ⟨q.faults ++ q.stood, q.ss, none, (q.xlate.map fun w => (w.tile, w.ch)).eraseDups⟩
    let s0 := s.modPart pid fun q =>
      { q with form := .running, freezing := false, faults := [], stood := q.faults ++ q.stood, reoffer := [], restartAt := none, restartQ := none, message := none,
               tick := 0, held := [], nheld := 0, heldOver := false, undo := none, written := false, xlate := [],
               resyncFlag := q.resyncFlag || notice, reissue := some r }
    let s3 := ((s0.openBanks q).applyArrivals q).reread q
    let s4 := match q.undo with | none => s3 | some u => s3.setBack q u r
    let s5 := q.faults.foldl (fun s r => s.releaseLate pid r) s4
    let s6 := if notice then s5.sendNotice q else s5
    s6.first ((q.reoffer.map fun r => .issue (.tile r.1 r.2.1 r.2.2)) ++ [.plan .resumed pid])

/-- The effects at the end of cycle p once more, with the records of faults that no earlier freeze of that cycle has: the outcomes of
those stand (R278). -/
def State.endEffectsPast (s : State) (q : Part) (old : List FRec) : State × List FRec :=
  let e := s.endEffects q
  let was := (s.part q.pid).getD q
  let now := (e.1.part q.pid).getD q
  (e.1.modPart q.pid fun x => { x with faults := was.faults, freezing := was.freezing, causes := was.causes, cause := was.cause },
    ((now.faults.drop was.faults.length) ++ e.2).filter fun x => !old.contains x)

/-- The effects at the end of p of re-offered instructions where the state of cycle p was not kept: only those are still due (R278). -/
def State.lateEffects (s : State) (q : Part) (old : List FRec) : State :=
  if q.members.any fun t => (s.tile t).pend.any fun e => e.dueAt q.cyc then
    let e := s.endEffectsPast q old
    e.2.foldl (fun s x => s.cycleFault q.pid x) e.1
  else s

/-- The effects of cycle p with those of the re-offered instructions: what these changed in the state before the effects, the
effects again, and the outcome brought together with what stood since, the transactions that have been performed among it (R278). The counts of a superstep that has ended stay. -/
def State.combine (s : State) (q : Part) (r : Reissue) (d : Redo) : State :=
  let offered := s.snap q
  let again := ((s.withSnap q d.late).endEffects q).1
  let s1 := s.pickPart q d.start offered d.late
  let e := s1.endEffectsPast q r.old
  let s2 := (e.1.pickPart q (again.snap q) (e.1.snap q) d.cur).modPart q.pid fun x =>
    { x with xacts := pickXacts ((again.part q.pid).getD q).xacts x.xacts ((s.part q.pid).getD q).xacts }
  let s3 := if r.ss = q.ss then s2
    else q.members.foldl (fun s t => s.modTile t fun tl => { tl with iss := (d.cur.tile t).iss, ans := (d.cur.tile t).ans }) s2
  let s4 := e.2.foldl (fun s x => s.cycleFault q.pid x) s3
  { s4.modPart q.pid fun x => { x with undo := if x.reoffer.isEmpty then none else some ⟨offered, s1.snap q, offered, q.ss⟩ } with
    wrote := s.wrote }

/-- A watchdog that a re-offered hbeat set to the end of cycle p (R292). -/
def State.reissueDogs (s : State) (q : Part) : State :=
  q.members.foldl (fun s t => [Side.access, .execute].foldl (fun s k => nextOr (execHeartbeat t k s) s) s) s

/-- The end of the re-issue step: the combined effects, the repeated lookups, the steps of a Turnstile that are due, and the next
partition cycle, or the freeze with the same p (R278, R317). -/
def State.endReissue (s : State) (pid : Nat) : State :=
  match s.part pid with
  | none => s
  | some q =>
    match q.reissue with
    | none => s
    | some r =>
      let s1 := match r.redo with | none => s.lateEffects q r.old | some d => (s.combine q r d).reissueDogs q
      let s2 := r.lookups.foldl (fun s w => s.lookAhead pid w.1 w.2 q.cyc) s1
      let s3 := s2.modPart pid fun q => { q with ss := r.ss, reissue := none }
      let s4 :=
        if q.turnDue && !s3.isFreezing pid then
          if r.old.any fun f => f.code == fcCountMismatch then s3.turn pid
          else match s3.part pid with
            | some q2 => s3.turnFromCounts q2
            | none => s3
        else s3
      if s4.isFreezing pid then s4.freezeNow pid else s4

/-- RESTART: at the first device RMT that is a multiple of 4 and at least 512 cycles after the last cause ended (R305). -/
def execRestart (pid : Nat) (s : State) : Out :=
  match s.part pid with
  | none => .next s
  | some q =>
    match q.restartAt with
    | none => .next s
    | some t =>
      if q.form = .held ∧ q.causes.isEmpty ∧ s.rmt % 4 = 0 ∧ t + 512 ≤ s.rmt ∧ q.halted.isNone then .next (s.beginRestart pid)
      else .next s

/-- TROUPE_RESTART: at the agreed instant cause 4 ends, and a partition with no other cause restarts there, without rounding
(R365). -/
def execTroupeRestart (pid : Nat) (s : State) : Out :=
  match s.part pid with
  | none => .next s
  | some q =>
    match q.restartQ with
    | none => .next s
    | some t =>
      if q.form = .held ∧ q.causes.contains 4 ∧ t ≤ s.rmt then
        let s1 := (s.endCause pid 4).modPart pid fun q => { q with restartQ := none }
        .next (if q.causes = [4] then s1.beginRestart pid else s1)
      else .next s

/-- The answers to a frozen partition's translation requests, wherever its state stands: each failed one is an XLATE_MISS record of its
channel when it has come, and once all have come cause 2 ends (R294, R317). -/
def State.settleXlate (s : State) (q : Part) : State :=
  if !(q.frozen && q.causes.contains 2) then s
  else
    let bad := q.xlate.filter fun w => w.outcome.any (· != 0)
    let recs := bad.map fun (w : XlateWait) =>
      unitRecord w.tile .access q.cyc 0 { code := fcXlateMiss, reason := w.outcome.getD 0,
                                          info := w.va % 2 ^ 48 + q.lrec.asid * 2 ^ 48 + w.ch.val * 2 ^ 58 } w.ch.val
    let s1 := if recs.isEmpty then s
      else
        (s.modPart q.pid fun q => { q with xlate := q.xlate.map fun w => { w with outcome := w.outcome.map fun _ => 0 } }).faultFrozen q.pid recs
    if q.xlate.all fun w => w.outcome.isSome then s1.endCause q.pid 2 else s1

/-! ### Intermission (R306, R307) -/

/-- A partition that is to freeze at once, between two of its cycles (R295). -/
def State.freezeBetween (s : State) (pid cause : Nat) : State := (s.modPart pid fun q => q.stopFor cause).freezeNow pid

/-- INTERMISSION_FREEZE: a victim freezes at device RMT I, after the last partition cycle that began before it; for one that another cause
has frozen cause 3 arises (R295, R307). -/
def execIntermissionFreeze (pid : Nat) (s : State) : Out :=
  match s.ring.request, s.part pid with
  | some (i, v, _), some q =>
    if v.contains pid ∧ i ≤ s.rmt then
      .next (match q.form with
        | .running => s.freezeBetween pid 3
        | .held => s.addCause pid 3
        | _ => s)
    else .next s
  | _, _ => .next s

/-- A frozen partition is written out and intermissioned: STATE 5 (R297, R307, R310). -/
def State.intermit (s : State) (pid : Nat) : State :=
  match s.part pid with
  | none => s
  | some q =>
    (((s.writeOut pid).modPart pid fun q => { q with outAt := none }).addCause pid 3).setRecord q.lrec.seq fun r => { r with state := 5 }

/-- WRITE_OUT_COMPLETE (R307). -/
def execWriteOutComplete (pid : Nat) (s : State) : Out :=
  match s.part pid with
  | none => .next s
  | some q =>
    match q.outAt with
    | none => .next s
    | some t => if q.form = .held ∧ t ≤ s.rmt then .next (s.intermit pid) else .next s

/-- How long before its restart the tiles of a partition placed again are restored (R306). -/
def Record.restoreLead (r : Record) : Nat := 6656 + 8 * r.w * r.h

/-- RESTORED_PARTITION_START: from L + 2,048 the save area is read back. At the restart STATE is 2 again, cause 3 ends, and the re-issue
step begins; a troupe member waits for the common instant (R306, R308). -/
def execRestoredPartitionStart (pid : Nat) (s : State) : Out :=
  match s.part pid with
  | none => .next s
  | some q =>
    if q.form = .restoring ∧ q.restartAt = some (s.rmt + q.lrec.restoreLead) then .next (s.restorePart pid)
    else if q.form = .restoring ∧ q.restartAt = some s.rmt then
      let q0 : Part := { q with form := .held, restored := true, restartAt := none, causes := eraseAll q.causes 3 }
      let q1 : Part := if q.inTroupe then q0.withCause 4 else q0
      let s1 := ((s.modPart pid fun _ => q1).setRecord q.lrec.seq fun r => { r with state := 2 }).refreshHeader pid
      let s2 := if q.inTroupe then s1.reportResync q.lrec.troupe q.ss else s1
      .next (if q1.causes.isEmpty then s2.beginRestart pid else s2)
    else .next s

/-! ### FRZCTL (R310) -/

/-- Command 1: a freeze of cause 5 at the end of the present partition cycle. -/
def execFrzctlFreeze (pid : Nat) (s : State) : Out :=
  match s.part pid with
  | none => .next s
  | some q =>
    if q.form = .running then .next (s.modPart pid fun q => q.stopFor 5)
    else if q.form = .launching then .next s
    else .next (s.addCause pid 5)

/-- Command 2: cause 5 ends. -/
def execFrzctlEndRequest (pid : Nat) (s : State) : Out :=
  match s.part pid with
  | none => .next s
  | some q => if q.form != .running ∧ q.causes.contains 5 then .next (s.endCause pid 5) else .next s

/-- Command 3: a frozen partition that is not written out is, and it is intermissioned. -/
def execFrzctlIntermission (pid : Nat) (s : State) : Out :=
  match s.part pid with
  | none => .next s
  | some q => if q.form = .held ∨ q.form = .restoring then .next (s.intermit pid) else .next s

/-- Command 4: the partition is written out, once frozen, and retires at the next launch slot. -/
def execFrzctlRetire (pid : Nat) (s : State) : Out :=
  match s.part pid with
  | none => .next s
  | some q =>
    if q.frozen then .next ((s.writeOut pid).modPart pid fun q => { q with halted := some 0 })
    else if q.form = .running then .next (s.modPart pid fun q => { q.stopFor 5 with halted := some 0 })
    else .next s

end Sys2Proof.Machine
end

