-- ==== Sys2Proof/Machine/Scan.lean ====
section
/-! DEFINITION. What the Ringmaster reads and tests at the journal scan: records, timetable images and launch images (R152,
R161 to R163, R176, R178, R207, R208, R315, R330, R360, R386), and the router tests of placement (R395). -/

namespace Sys2Proof.Machine

/-- A little-endian field of HBM. -/
def hbmField (m : List Host.Cell) (a n : Nat) : Nat := Mem.readLE m (hbmAddr a) n

/-- The bytes of HBM. -/
def hbmSize : Nat := 4096 * 0xC000000

/-! ### Records (R161, R329) -/

/-- The record at an HBM address. -/
def recordAt (m : List Host.Cell) (a : Nat) : Record :=
  let f (off n : Nat) : Nat := hbmField m (a + off) n
  { seq := f 0 8, kind := f 8 2, prio := f 10 1, flg := f 11 1, w := f 12 2, h := f 14 2, xr := f 16 2, yr := f 18 2,
    asid := f 20 2, preds := [f 24 8, f 32 8, f 40 8, f 48 8], image := f 56 8, ttab := f 64 8, save := f 72 8, troupe := f 80 4,
    tdt := f 84 4, tstart := f 88 8, tbase := f 96 8, state := 0, pid := 0, xo := 0, yo := 0, code := 0, t0 := 0, tend := 0,
    body := Mem.read m (hbmAddr a) 104, slotAddr := a }

/-- The HBM address of journal record i (R329); the space code of JBASE is not looked at (DESIGN CHOICE, log entry 119). -/
def State.journalSlot (s : State) (i : Nat) : Option Nat :=
  space2 (s.ring.jbase.toNat + 128 * (i % ringSize s.ring.jsize))

/-- A byte range of a record's body as a number. -/
def Record.field (r : Record) (off n : Nat) : Nat := leNat ((r.body.drop off).take n)

/-! ### Timetable images (R152, R176, R207, R360) -/

/-- Phase entries (R152). -/
def phasesAt (m : List Host.Cell) (tt : Nat) : List (Nat × Nat × Nat) :=
  (List.range (hbmField m tt 4)).map fun i =>
    (hbmField m (tt + 48 + 16 * i) 4, hbmField m (tt + 52 + 16 * i) 4, hbmField m (tt + 56 + 16 * i) 4)

/-- The address of a section, if it is present. -/
def sectionAt (m : List Host.Cell) (tt lo : Nat) : Option Nat :=
  let o := hbmField m (tt + lo) 8
  if o = 0 then none else some (tt + o)

/-- A route entry (R176). -/
def routeAt (m : List Host.Cell) (a : Nat) : RouteEntry :=
  let f (off n : Nat) : Nat := hbmField m (a + off) n
  ⟨f 0 2, f 2 2, f 4 1, f 5 1, f 6 2, f 8 2, f 10 2, f 12 4⟩

/-- A bank-command entry (R207). -/
def bankAt (m : List Host.Cell) (a : Nat) : BankEntry :=
  let f (off n : Nat) : Nat := hbmField m (a + off) n
  { pc := f 0 2, pe := f 2 1, cmd := f 3 1, bank := f 4 1, ch := f 5 1, px := f 6 2, py := f 8 2, col := f 10 2, row := f 12 4,
    off := f 16 4 }

/-- An edge entry (R360). -/
def edgeAt (m : List Host.Cell) (a : Nat) : EdgeEntry :=
  let f (off n : Nat) : Nat := hbmField m (a + off) n
  { px := f 0 2, py := f 2 2, pe := f 4 1, form := f 5 1, port := f 6 1, len := f 8 2, slot := f 10 2, off := f 12 4,
    peer := f 16 4 }

/-- The entries of a section of `n` entries of `size` bytes from `a`. -/
def entriesAt {α : Type} (read : List Host.Cell → Nat → α) (m : List Host.Cell) (a size n : Nat) : List α :=
  (List.range n).map fun i => read m (a + size * i)

/-- The bytes of the owned list, padded to a multiple of 16 (R207). -/
def ownedBytes (n : Nat) : Nat := (2 * n + 15) / 16 * 16

/-- A timetable image. -/
def timetableAt (m : List Host.Cell) (tt : Nat) : Timetable :=
  { phases := phasesAt m tt
    route := match sectionAt m tt 8 with | none => [] | some a => entriesAt routeAt m (a + 16) 16 (hbmField m a 4)
    owned := match sectionAt m tt 16 with
      | none => []
      | some a => (List.range (hbmField m a 2)).map fun i => hbmField m (a + 16 + 2 * i) 2
    bank := match sectionAt m tt 16 with
      | none => []
      | some a => entriesAt bankAt m (a + 16 + ownedBytes (hbmField m a 2)) 32 (hbmField m (a + 4) 4)
    edge := match sectionAt m tt 24 with | none => [] | some a => entriesAt edgeAt m (a + 16) 32 (hbmField m a 4)
    pins := match sectionAt m tt 32 with
      | none => []
      | some a => (List.range (hbmField m a 4)).map fun i => Mem.quad m (hbmAddr (a + 16 + 16 * i)) }

/-- The die phase at which a record's compiled times are tested: its own, or a corner of a die (R155, R165). -/
def Record.phase (r : Record) : Nat × Nat := if r.xr = 0xFFFF then (0, 0) else (r.xr, r.yr)

/-- E of a rectangle: one for each vertical die edge and one for the horizontal one between rows 99 and 100 (R155). -/
def rectEdges (x0 y0 w h : Nat) : Nat := edgesX x0 (x0 + w - 1) + if y0 < 100 ∧ 100 ≤ y0 + h - 1 then 1 else 0

/-- Whether a record is a troupe member's. -/
def Record.trp (r : Record) : Bool := r.flg.testBit 2

/-- Dt (R155). -/
def Record.dt (r : Record) (x0 y0 : Nat) : Nat :=
  (8 + (r.w - 1) + (r.h - 1) + 12 * rectEdges x0 y0 r.w r.h + 3) / 4 * 4 + (if r.trp then r.tdt else 0)

/-- The phase entries obey R152. -/
def phasesOk (l : List (Nat × Nat × Nat)) (dt : Nat) : Bool :=
  l.zipIdx.all fun e =>
    let (c, x, n) := e.1
    c % 4 == 0 && x % 4 == 0 && decide (4 ≤ c) && decide (dt ≤ x) && (n != 0 || e.2 + 1 == l.length)

/-- An issue that a route or edge entry places: its tile, phase entry, offset and length, and whether it sends or takes
flits. -/
structure Issue where
  px : Nat
  py : Nat
  pe : Nat
  off : Nat
  len : Nat
  sends : Bool
  takes : Bool
  deriving DecidableEq, Repr

/-- The issues of a timetable. -/
def Timetable.issues (t : Timetable) : List Issue :=
  (t.route.map fun e => ⟨e.px, e.py, e.pe, e.off, e.len, decide (e.form ≤ 1), e.form == 2 || e.form == 3⟩) ++
    t.edge.map fun e => ⟨e.px, e.py, e.pe, e.off, e.len, decide (e.form ≤ 1) || e.form == 4, e.form == 2 || e.form == 3⟩

/-- Whether two intervals of 2 LEN + 2 cycles meet. -/
def Issue.meets (a b : Issue) : Bool := decide (a.off < b.off + 2 * b.len + 2) && decide (b.off < a.off + 2 * a.len + 2)

/-- Whether two issues name one tile and phase entry. -/
def Issue.sameTile (a b : Issue) : Bool := a.px == b.px && a.py == b.py && a.pe == b.pe

/-- Every pair of a list passes a test. -/
def allPairs {α : Type} (ok : α → α → Bool) : List α → Bool
  | [] => true
  | a :: r => r.all (ok a) && allPairs ok r

/-- X of a phase entry. -/
def Timetable.xOf (t : Timetable) (pe : Nat) : Nat := match t.phases.toArray[pe]? with | some (_, x, _) => x | none => 0
/-- C of a phase entry. -/
def Timetable.cOf (t : Timetable) (pe : Nat) : Nat := match t.phases.toArray[pe]? with | some (c, _, _) => c | none => 0

/-- The common tests of route and edge entries (R178, R360). -/
def Timetable.issuesOk (t : Timetable) (r : Record) : Bool :=
  let l := t.issues
  l.all (fun i => decide (i.px < r.w) && decide (i.py < r.h) && decide (i.pe < t.phases.length) && decide (i.off < t.xOf i.pe) &&
    (!i.takes || decide (i.off + 2 * i.len + 3 + 1 ≤ t.xOf i.pe))) &&
  allPairs (fun a b => !(a.sameTile b) ||
    (a.off != b.off && !(a.sends && b.sends && a.meets b) && !(a.takes && b.takes && a.meets b))) l

/-- The router outputs that words use, by cycle. -/
def wordClaims (ws : List Flit) : List (Nat × Coord × Nat) := ws.flatMap fun w => w.claims.map fun c => (w.q + c.1, c.2.at', c.2.out)

/-- A word of a plan. -/
def planFlit (src dst : Coord) (q : Nat) (port : Option PortWord) (inp : Nat) : Flit :=
  { id := 0, kind := .stream, src := src, dst := dst, q := q, payload := 0, delay := 0, caught := none, job := 0, port := port, inp := inp }

/-- The words of the route section's sends of phase entry `pe` at an origin, in a superstep that starts at `b`. -/
def Timetable.routeWords (t : Timetable) (x0 y0 pe b : Nat) : List Flit :=
  (t.route.filter fun e => decide (e.form ≤ 1) && e.pe == pe).flatMap fun e =>
    (List.range (2 * e.len + 2)).map fun j =>
      planFlit ⟨x0 + e.px, y0 + e.py⟩ ⟨x0 + e.dx, y0 + e.dy⟩ (b + t.cOf pe + e.off + j) none 4

/-- The cycles in which the port of a receive entry releases its words at an origin, in a superstep that starts at `b` (R361). -/
def Timetable.releases (t : Timetable) (x0 y0 b : Nat) (e : EdgeEntry) : List Nat :=
  (List.range (2 * e.len + 2)).map fun j => b + t.cOf e.pe + e.off + j - portT ⟨x0 + e.px, y0 + e.py⟩ e.port

/-- The words of the edge section's entries of phase entry `pe` at an origin, in a superstep that starts at `b` (R350, R395). -/
def Timetable.edgeWords (t : Timetable) (x0 y0 pe b : Nat) : List Flit :=
  (t.edge.filter fun e => e.pe == pe).flatMap fun e =>
    let tile : Coord := ⟨x0 + e.px, y0 + e.py⟩
    let (a, out) := attach e.port
    if e.form = 2 ∨ e.form = 3 then (t.releases x0 y0 b e).map fun r => planFlit a tile (r + 12) none out
    else (List.range (2 * e.len + 2)).map fun j =>
      planFlit tile a (b + t.cOf pe + e.off + j) (some ⟨e.port, e.slot, 0, e.peer, e.len + 1, j⟩) 4

/-- The words of the RD entries' bursts of phase entry `pe` at an origin, in a superstep that starts at `b` (R248). -/
def Timetable.burstWords (t : Timetable) (x0 y0 pe b : Nat) : List Flit :=
  (t.bank.filter fun e => e.cmd == 1 && e.pe == pe).flatMap fun e =>
    (List.range 8).map fun k => planFlit (pcTile e.pc) ⟨x0 + e.px, y0 + e.py⟩ (b + e.off + 100 + k) none 4

/-- No two words use one router output in one cycle. -/
def disjoint (ws : List Flit) : Bool := decide (wordClaims ws).Nodup

/-- The route section obeys R176 and R178 at the die phase (x0, y0). -/
def Timetable.routeOk (t : Timetable) (r : Record) (x0 y0 : Nat) : Bool :=
  let e := rectEdges x0 y0 r.w r.h
  let tmax := 6 + (r.w - 1) + (r.h - 1) + 12 * e
  let match' (s c : RouteEntry) : Bool :=
    (c.form == 2 || c.form == 3) && c.px == s.dx && c.py == s.dy && c.pe == s.pe && c.len == s.len &&
      c.off == s.off + routeT ⟨x0 + s.px, y0 + s.py⟩ ⟨x0 + s.dx, y0 + s.dy⟩
  t.route.all (fun s =>
    decide (s.form ≤ 5) &&
    (if s.form ≤ 1 then decide (s.dx < r.w) && decide (s.dy < r.h) else s.dx == 0xFFFF && s.dy == 0xFFFF) &&
    (if s.form = 1 ∨ s.form = 3 then decide (s.len ≤ 2047) else s.len == 0) &&
    (if s.form ≤ 1 then (t.route.countP fun c => match' s c) == 1 else true) &&
    (if s.form = 2 ∨ s.form = 3 then (t.route.countP fun c => decide (c.form ≤ 1) && match' c s) == 1 else true) &&
    (s.form != 4 || decide (s.off + 2 * tmax + 4 + 1 ≤ t.xOf s.pe)) &&
    (s.form != 5 || !(t.route.any fun o =>
      (decide (o.form ≤ 1) || o.form == 4) && o.px == s.px && o.py == s.py && o.pe == s.pe && decide (s.off < o.off)))) &&
  (List.range t.phases.length).all fun pe => disjoint (t.routeWords x0 y0 pe 0)

/-- A bank command at a time: its kind and bank (R208). -/
structure BankCmd where
  at' : Nat
  cmd : Nat
  bank : Nat
  deriving DecidableEq, Repr

/-- The starts of the supersteps that are simulated: of a phase entry the first and the last ones, as many as its superstep's length
asks for; between them nothing new can meet. -/
def superStarts (lo hi : Nat → Nat) : List (Nat × Nat × Nat) → Nat → Nat → List (Nat × Nat)
  | [], _, _ => []
  | (c, x, n) :: rest, pe, b =>
    let l := lo (c + x)
    let h := hi (c + x)
    let ks := if n = 0 then List.range l else (List.range (min n l)) ++ ((List.range (min n h)).map fun i => n - min n h + i).filter (l ≤ ·)
    (ks.map fun k => (pe, b + k * (c + x))) ++ superStarts lo hi rest (pe + 1) (b + n * (c + x))

/-- The supersteps whose words can meet: of a phase entry as many of the first and the last as words can be on their way, and one more;
counted from a base that keeps release cycles above 0. -/
def Timetable.wordStarts (t : Timetable) : List (Nat × Nat) :=
  superStarts (fun l => 2 + 2048 / l) (fun l => 2 + 2048 / l) t.phases 0 4096

/-- Whether a timetable reads bursts. -/
def Timetable.hasBursts (t : Timetable) : Bool := t.bank.any fun e => e.cmd == 1

/-- Whether a record's rectangle and die phase allow an origin (R165). -/
def Record.mayStand (r : Record) (x0 y0 : Nat) : Bool :=
  decide (x0 + r.w ≤ 1000) && decide (y0 + r.h ≤ 200) &&
  (if r.xr = 0xFFFF then decide (x0 % 125 + r.w ≤ 125) && decide (y0 % 100 + r.h ≤ 100) else x0 % 125 == r.xr && y0 % 100 == r.yr)

/-- R178's router test of the burst flits with the route section's (R248). Their paths are fixed by the origin alone, so the scan refuses a
record of which no origin passes (log entry 94). -/
def Timetable.burstsOk (t : Timetable) (r : Record) : Bool :=
  !t.hasBursts || (List.range 200).any fun y => (List.range 1000).any fun x =>
    r.mayStand x y && disjoint (t.wordStarts.flatMap fun b => t.routeWords x y b.1 b.2 ++ t.burstWords x y b.1 b.2)

/-- Supersteps of one phase entry that the scan of bank commands simulates: N, or as many fewer as 512 divides, in which B_s modulo 2,048,
and with it every refresh window, comes round; what is left is longer than the entry takes to repeat itself (R208, R210). -/
def fewerSupersteps (n : Nat) : Nat := if n ≤ 1052 then n else 541 + (n - 541) % 512

/-- The supersteps that the scan of bank commands simulates, one after another; of an endless entry the first 525 (R208). -/
def Timetable.bankStarts (t : Timetable) : List (Nat × Nat) :=
  superStarts (fun _ => 525) (fun _ => 1052) (t.phases.map fun e => (e.1, e.2.1, fewerSupersteps e.2.2)) 0 0

/-- The end of the simulated supersteps: that of a program that ends, for banks that it leaves open. -/
def Timetable.bankEnd (t : Timetable) : Nat := (t.bankStarts.map fun b => b.2 + t.cOf b.1 + t.xOf b.1).foldl max 0

/-- The commands of one pseudo-channel over the simulated supersteps, in time order. -/
def Timetable.commands (t : Timetable) (pc : Nat) : List BankCmd :=
  let mine := t.bank.filter fun e => e.pc == pc
  (t.bankStarts.flatMap fun b =>
    (mine.filter fun e => e.pe == b.1).map fun e : BankEntry => (⟨b.2 + e.off, e.cmd, e.bank⟩ : BankCmd)).mergeSort
      fun a b => decide (a.at' ≤ b.at')

/-- The least separation of two commands of one pseudo-channel, the earlier first (R208). -/
def separation (a b : BankCmd) : Nat :=
  let same := a.bank == b.bank
  match a.cmd, b.cmd with
  | 0, 0 => if same then 112 else 8
  | 0, 1 => if same then 40 else 1
  | 0, 2 => if same then 40 else 1
  | 1, 3 => if same then 24 else 1
  | 2, 3 => if same then 48 else 1
  | 3, 0 => if same then 40 else 1
  | 1, 1 => 12
  | 2, 2 => 12
  | 1, 2 => 24
  | 2, 1 => 32
  | _, _ => 1

/-- Whether a bank's refresh window begins or runs between two cycles (R210). -/
def inWindow (bank a b : Nat) : Bool :=
  let w := a / 2048 * 2048 + 128 * bank
  let w' := if w + 128 ≤ a then w + 2048 else w
  decide (w' ≤ b)

/-- The commands of a pseudo-channel in time order against those before them (latest first, within 112 cycles), the banks
open since a cycle, and the last ACT times; the banks still open at the end of the supersteps are tested up to it (R208). -/
def commandsOk (last : Nat) : List BankCmd → List BankCmd → List (Nat × Nat) → List Nat → Bool
  | [], _, openAt, _ => openAt.all fun o => !inWindow o.1 o.2 (last - 1)
  | c :: rest, before, openAt, acts =>
    let near := before.filter fun b => c.at' < b.at' + 112
    let o := assocGet openAt c.bank
    near.all (fun b => decide (b.at' + separation b c ≤ c.at')) &&
    !inWindow c.bank c.at' c.at' &&
    (match c.cmd with
     | 0 => o.isNone && (match acts.toArray[3]? with | some a => decide (a + 96 ≤ c.at') | none => true)
     | 3 => (match o with | some a => !inWindow c.bank a c.at' | none => false)
     | _ => o.isSome) &&
    commandsOk last rest (c :: near)
      (match c.cmd with | 0 => assocSet openAt c.bank c.at' | 3 => openAt.filter (fun e => e.1 != c.bank) | _ => openAt)
      (if c.cmd = 0 then (c.at' :: acts).take 4 else acts)

/-- The bank-command section obeys R206 to R208. -/
def Timetable.bankOk (t : Timetable) (r : Record) : Bool :=
  decide (t.owned.length ≤ 4096) && t.owned.all (fun p => decide (p < 4096)) && allPairs (fun a b => decide (a < b)) t.owned &&
  t.bank.all (fun e =>
    t.owned.contains e.pc && decide (e.pe < t.phases.length) && decide (e.cmd < 4) && decide (e.bank < 16) && decide (e.ch < 4) &&
    (if e.cmd = 1 ∨ e.cmd = 2 then decide (e.px < r.w) && decide (e.py < r.h) && decide (e.col < 16)
     else e.px == 0 && e.py == 0 && e.col == 0) &&
    (if e.cmd = 0 then decide (e.row < 12288) else e.row == 0) && decide (e.off < t.cOf e.pe + t.xOf e.pe)) &&
  t.owned.all (fun p => commandsOk t.bankEnd (t.commands p) [] [] []) &&
  t.owned.all fun p => decide (p < pcOf r.save) || decide (pcOf (r.save + areaSize t.owned.length (r.w * r.h) - 1) < p)

/-- The edge section obeys R360 and R386; `s` holds the ports. -/
def State.edgeOk (s : State) (t : Timetable) (r : Record) : Bool :=
  (t.edge.isEmpty || r.trp) &&
  t.edge.all (fun e =>
    decide (e.form ≤ 4) && decide (e.port < 64) && decide (e.peer < 2 ^ 20) &&
    (if e.form = 1 ∨ e.form = 3 ∨ e.form = 4 then decide (e.len ≤ 2047) else e.len == 0) &&
    (e.form != 4 || decide (2 ^ 15 ≤ e.slot)) && s.lyderGroup e.port && (s.port e.port).peer == e.peer) &&
  allPairs (fun a b => !(a.port == b.port && a.slot == b.slot && a.pe == b.pe &&
    ((a.form == 2 || a.form == 3) == (b.form == 2 || b.form == 3)))) t.edge

/-- The pinned set obeys R315: each entry's fields are tested as R325 tests them, also of one with V = 0 (DESIGN CHOICE, log entry 117). -/
def Timetable.pinsOk (t : Timetable) : Bool := decide (t.pins.length ≤ 1024) && t.pins.all fun e => !teMalformed e

/-- The bytes of a section's header beside its counts, and the reserved bytes of its entries, are 0. -/
def reservedOk (m : List Host.Cell) (tt : Nat) (t : Timetable) : Bool :=
  hbmField m (tt + 4) 4 == 0 && hbmField m (tt + 40) 8 == 0 &&
  (List.range t.phases.length).all (fun i => hbmField m (tt + 60 + 16 * i) 4 == 0) &&
  (match sectionAt m tt 8 with | none => true | some a => hbmField m (a + 4) 12 == 0 && decide (hbmField m a 4 ≤ 16777216)) &&
  (match sectionAt m tt 16 with
   | none => true
   | some a =>
     hbmField m (a + 2) 2 == 0 && hbmField m (a + 8) 8 == 0 && decide (hbmField m (a + 4) 4 ≤ 16777216) &&
     hbmField m (a + 16 + 2 * t.owned.length) (ownedBytes t.owned.length - 2 * t.owned.length) == 0 &&
     (List.range t.bank.length).all fun i => hbmField m (a + 16 + ownedBytes t.owned.length + 32 * i + 20) 12 == 0) &&
  (match sectionAt m tt 24 with
   | none => true
   | some a => hbmField m (a + 4) 12 == 0 && (List.range t.edge.length).all fun i =>
       hbmField m (a + 16 + 32 * i + 7) 1 == 0 && hbmField m (a + 16 + 32 * i + 20) 12 == 0) &&
  (match sectionAt m tt 32 with | none => true | some a => hbmField m (a + 4) 12 == 0)

/-- The timetable image of a record passes the scan (R152, R178, R208, R248, R315, R360). The first conjunct bounds what is read. -/
def State.timetableOk (s : State) (r : Record) : Bool :=
  decide (hbmField s.mem r.ttab 4 ≤ 64) &&
  (let t := timetableAt s.mem r.ttab
   let (x0, y0) := r.phase
   reservedOk s.mem r.ttab t && phasesOk t.phases (r.dt x0 y0) && t.issuesOk r && t.routeOk r x0 y0 && t.bankOk r && t.burstsOk r &&
     s.edgeOk t r && t.pinsOk)

/-! ### Launch images (R163) -/

/-- A segment descriptor (R163). -/
structure Segment where
  off : Nat
  len : Nat
  data : Nat
  marks : Nat
  deriving DecidableEq, Repr

/-- The segments of a launch image. -/
def segmentsAt (m : List Host.Cell) (im : Nat) : List Segment :=
  (List.range (hbmField m (im + 68) 4)).map fun i =>
    let a := im + 80 + 16 * i
    ⟨hbmField m a 4, hbmField m (a + 4) 4, hbmField m (a + 8) 4, hbmField m (a + 12) 4⟩

/-- The bytes of a segment's marks. -/
def Segment.markBytes (g : Segment) : Nat := (g.len + 63) / 64 + (g.len + 127) / 128

/-- A segment obeys R163 in an image of `size` bytes. -/
def Segment.ok (g : Segment) (size : Nat) : Bool :=
  g.off % 16 == 0 && decide (16 ≤ g.len) && g.len % 16 == 0 && decide (g.off + g.len ≤ 0x18000) &&
  (decide (g.off + g.len ≤ 0x8000) || decide (0x8000 ≤ g.off)) && decide (g.data + g.len ≤ size) &&
  (g.marks == 0 || (decide (g.off < 0x8000) && decide (g.marks + g.markBytes ≤ size)))

/-- A launch image is well formed (R163). -/
def imageOk (m : List Host.Cell) (im : Nat) : Bool :=
  let n := hbmField m (im + 68) 4
  let size := hbmField m (im + 72) 8
  decide (hbmField m (im + 64) 1 < 16) && hbmField m (im + 65) 3 == 0 && decide (1 ≤ n) && decide (n ≤ 512) &&
  decide (80 + 16 * n ≤ size) && (segmentsAt m im).all fun g => g.ok size

/-! ### The tests of a record (R162, R330) -/

/-- A place of HBM that an image or area may have. -/
def hbmPlaced (a align : Nat) : Bool := a % align == 0 && decide (a < hbmSize)

/-- The fields of a launch; the fields that are for a troupe only are 0 without TRP (R161; log entry 94). -/
def Record.launchOk (r : Record) : Bool :=
  decide (r.flg < 8) && decide (1 ≤ r.w ∧ r.w ≤ 1000) && decide (1 ≤ r.h ∧ r.h ≤ 200) &&
  (if r.xr = 0xFFFF then r.yr == 0xFFFF && decide (r.w ≤ 125) && decide (r.h ≤ 100) else decide (r.xr ≤ 124) && decide (r.yr ≤ 99)) &&
  decide (r.asid < 1024) && r.field 22 2 == 0 && hbmPlaced r.image 64 && hbmPlaced r.ttab 64 && hbmPlaced r.save 65536 &&
  (if r.trp then r.troupe != 0 && r.tbase % 4 == 0 else r.troupe == 0 && r.tdt == 0 && r.tstart == 0 && r.tbase == 0)

/-- The payload fields of a command (R330). -/
def Record.commandOk (r : Record) : Bool :=
  decide (r.flg < 8) && r.field 12 12 == 0 &&
  (match r.kind with
   | 3 => r.field 58 46 == 0 && (decide (r.field 56 2 < 1024) || r.field 56 2 == 0xFFFF)
   | 4 => r.field 56 48 == 0
   | 5 => decide (r.field 58 1 ≤ 3) && r.field 59 1 == 0 && decide (r.field 60 2 < 1000) && decide (r.field 62 2 < 200) &&
       r.field 64 40 == 0
   | 6 => decide (r.field 56 2 < 1000) && decide (r.field 58 2 < 200) && r.field 60 44 == 0
   | 7 => r.field 96 8 == 0
   | _ => false)

/-- The fields of a restore record beside SAVE (R306, R330). -/
def Record.restoreOk (r : Record) : Bool :=
  decide (r.flg < 8) && r.field 12 12 == 0 && r.field 56 16 == 0 && r.field 80 24 == 0 && hbmPlaced r.save 65536

/-- The record whose compiled times a restore takes: the saved copy, under the restore's own SEQ, PRIO and predecessors
(R306). -/
def State.restored (s : State) (r : Record) : Record :=
  let c := recordAt s.mem (r.save + 0x100)
  { c with seq := r.seq, kind := 2, prio := r.prio, preds := r.preds, save := r.save, slotAddr := r.slotAddr, body := r.body }

/-- The CODE of the scan: 0 accepts (R162). -/
def State.scanCode (s : State) (r : Record) : Nat :=
  let earlier := s.ring.entries
  let size := ringSize s.ring.jsize
  let own :=
    r.seq != 0 && earlier.all (fun e => decide (e.lrec.seq < r.seq)) && decide (r.prio < 4) &&
    (match r.kind with
     | 1 => r.launchOk
     | 2 => r.restoreOk && hbmField s.mem r.save 4 == 1 && (s.restored r).launchOk
     | _ => decide (3 ≤ r.kind ∧ r.kind ≤ 7) && r.commandOk)
  let pred (p : Nat) : Bool :=
    p == 0 || (decide (p < r.seq) && earlier.any fun e => e.lrec.seq == p && decide (s.ring.scanned < e.index + size))
  let t := if r.kind = 2 then s.restored r else r
  if !own then 1
  else if !(r.preds.all pred) then 2
  else if r.kind ≤ 2 ∧ !s.timetableOk t then 1
  else if r.kind ≤ 2 ∧ !imageOk s.mem t.image then 4
  else 0

/-- Record `i` is read and accepted or refused. The timetable is kept as scanned, and so is the image, whose copying into hub staging SRAM
begins unless it is pre-staged (R162; log entry 62). -/
def State.scanOne (s : State) : State :=
  let i := s.ring.scanned
  let s0 := s.modRing fun g => { g with scanned := i + 1 }
  match s.journalSlot i with
  | none => s0
  | some a =>
    let r0 := recordAt s.mem a
    let code := s.scanCode r0
    let r1 := if r0.kind = 2 ∧ code = 0 then s.restored r0 else r0
    let r := { r1 with state := if code = 0 then 1 else 4, code := code }
    let size := hbmField s.mem (r.image + 72) 8
    let launch := r.kind == 1 && code == 0
    let e : Entry :=
      { lrec := r, index := i, tt := if code = 0 ∧ r.kind ≤ 2 then timetableAt s.mem r.ttab else .empty
        staged := r.flg.testBit 0 || r.kind != 1, stagedAt := s.rmt + 1024 + (size + 63) / 64
        image := if launch then Mem.range s.mem (hbmAddr r.image) size else [], skips := 0 }
    (s0.modRing fun g => { g with entries := g.entries ++ [e] }).writeRecord r

/-- Records read, `n` of them. -/
def State.scanMany : Nat → State → State
  | 0, s => s
  | n + 1, s => State.scanMany n s.scanOne

/-- JOURNAL_SCAN: at every multiple of 4,096 the records published before this cycle are accepted or refused (R162). -/
def execJournalScan (s : State) : Out :=
  if s.rmt % 4096 = 0 ∧ s.ring.latched ∧ s.ring.started then .next (s.scanMany (s.ring.published - s.ring.scanned)) else .next s

/-- IMAGE_STAGED (R162). -/
def execImageStaged (seq : Nat) (s : State) : Out :=
  match s.ring.entry seq with
  | none => .next s
  | some e => if !e.staged ∧ e.stagedAt ≤ s.rmt then .next (s.modEntry seq fun e => { e with staged := true }) else .next s

end Sys2Proof.Machine
end

