-- ==== Sys2Proof/Machine/Launch.lean ====
section
/-! DEFINITION. The launch slot (R164 to R170, R306, R315, R329, R330, R336, R338, R342): retirements, commands, queued swaps,
placement and admission, intermission requests; and the start of a partition (R166). -/

namespace Sys2Proof.Machine

/-! ### Retirement (R168) -/

/-- Whether some slot of a member core is live, in its tile or in its block of the save area. -/
def State.anyLive (s : State) (q : Part) : Bool :=
  q.members.any fun t =>
    if q.written then
      [0x20000, 0x28000].any fun c => (List.range 4).any fun j => (s.areaNat q (q.blockAt t + c + 0x400 * j + 0x204) 1).testBit 0
    else
      let tl := s.tile t
      (tl.access.slots.toList ++ tl.exec.slots.toList).any fun (sl : Slot) => sl.live

/-- Whether a partition retires at this launch slot (R168). After a RESUME that leaves no slot live it restarts first. -/
def State.retires (s : State) (q : Part) : Bool :=
  (q.halted.isSome && q.form == .writtenOut) ||
    (q.halted.isNone && q.form != .launching && q.form != .restoring && !s.anyLive q && !q.causes.contains 1 &&
      (q.form == .running || q.faults.isEmpty))

/-- A tile that its partition leaves: its windows and its shadows are 0, and nothing of it is on its way (R168, R199). -/
def Tile.leave (tl : Tile) : Tile :=
  { tl with win := Vector.replicate 4 0, winShadow := Vector.replicate 4 none, mma := none, image := none,
            chans := Vector.replicate 4 .cleared, sends := [], catches := [], binding := none, pend := [], lost := false }

/-- The pinned entries of a partition leave their dies (R315). -/
def State.clearPins (s : State) (q : Part) : State :=
  (q.pins.foldl (fun s p => s.setTe p.1 p.2 0) s).modPart q.pid fun q => { q with pins := [] }

/-- What a partition holds of the module is freed: tiles, pseudo-channels, pinned entries and its message (R168, R206, R315). A loose
access that it still holds is answered as refused, for its home has no window any more (DESIGN CHOICE, log entry 100; R199, R232). -/
def State.free (s : State) (q : Part) : State :=
  let s1 := if q.placed then q.members.foldl (fun s t => s.modTile t Tile.leave) s else s
  let s2 := s1.clearPins q
  let s3 := { s2 with parts := s2.parts.filter (fun (x : Part) => x.pid != q.pid)
                      messages := s2.messages.filter fun m => m.origin || m.pid != q.pid }
  let s4 := q.held.foldl (fun s a => s.settle a .refused) s3
  q.tt.owned.foldl (fun s g => (s.modPc g fun p => { p with owner := none, rows := [], recorded := [] }).releasePc g) s4

/-- A partition retires: STATE 3, TEND, and CODE if it was halted (R168). -/
def State.retire (s : State) (q : Part) : State :=
  (s.free q).setRecord q.lrec.seq fun r => { r with state := 3, tend := s.rmt, code := q.halted.getD 0 }

/-- Every retirement of a launch slot. -/
def State.retireAll (s : State) : State :=
  (s.parts.filter s.retires).foldl State.retire s

/-! ### Commands (R330) -/

/-- Whether a predecessor has retired; a refused one counts as retired (R162). -/
def Ring.predDone (g : Ring) (p : Nat) : Bool :=
  p == 0 || match g.entry p with | none => true | some e => e.lrec.state == 3

/-- Whether every predecessor of a record has retired. -/
def Ring.ready (g : Ring) (r : Record) : Bool := r.preds.all g.predDone

/-- A record refused at a launch slot. -/
def State.refuse (s : State) (seq code : Nat) : State := s.setRecord seq fun r => { r with state := 4, code := code }

/-- The dirty-log records of a die that a harvest waits for: those up to the last one of its ASID (R322, R330). -/
def harvestCount (asid : Nat) (l : List Quad) : Nat :=
  l.zipIdx.foldl (fun n e => if asid = 0xFFFF ∨ bits e.1.toNat 57 48 = asid then e.2 + 1 else n) 0

/-- The bytes of an attestation report before its signature (R342). -/
def State.reportFields (s : State) (nonce : List Byte) : List Byte :=
  nonce ++ (List.range 32).map Config.firmwareHashByte ++ leBytes 32 s.ring.featNeg.toNat ++ leBytes 8 s.ring.devnum.toNat ++ logKey ++
    leBytes 8 (s.ring.logtail.toNat - 1) ++ s.ring.prev

/-- The bytes of a signature (R335, R342). -/
def signatureBytes (l : List Byte) : List Byte := (List.range 16224).map (Config.signatureByte l)

/-- KIND 3: every dirty-log record present is to be merged (R330). -/
def State.startHarvest (s : State) (r : Record) : State :=
  let waits := s.xlate.map fun x => (x.1, harvestCount (r.field 56 2) x.2.dirty)
  (s.modRing fun g => { g with harvests := g.harvests ++ [(r.seq, waits)] }).setRecord r.seq fun r => { r with state := 2 }

/-- KIND 4: the signature record is appended, its LSEQ stands in bytes 112 to 119. It waits for space, and for the record of the events
lost meanwhile (R330, R334, R335). -/
def State.startSignLog (s : State) (r : Record) : State :=
  if s.ring.logRoom && s.ring.lost == 0 then
    let n := s.ring.logtail.toNat
    s.logSign.logTurn.setRecord r.seq fun r => { r with state := 3, t0 := n }
  else s.setRecord r.seq fun r => { r with state := 2 }

/-- KIND 5: the host's disposition of a message at level 3 (R283, R330). -/
def State.startTrapAnswer (s : State) (r : Record) : State :=
  let t : Coord := ⟨r.field 60 2, r.field 62 2⟩
  match s.messages.find? fun m => m.ticket == r.field 56 2 && m.level == 3 with
  | none => s.refuse r.seq 6
  | some m =>
    if s.dispOk m (r.field 58 1) t then (s.dispose m (r.field 58 1) t).setRecord r.seq fun r => { r with state := 3 }
    else s.refuse r.seq 6

/-- KIND 6: a tile's swap is queued, if its set has a good spare left (R330, R336). -/
def State.startSpareSwap (s : State) (r : Record) : State :=
  let t : Coord := ⟨r.field 56 2, r.field 58 2⟩
  let d := dieOf t
  if (s.spareNext d (spareNum t)).getLsbD 8 || !s.spok d (spareNum t) then s.refuse r.seq 7
  else
    (s.modRing fun g => { g with swaps := if g.swaps.contains t then g.swaps else g.swaps ++ [t] }).setRecord r.seq
      fun r => { r with state := 2 }

/-- The nonce of an attest command (R330). -/
def Record.nonce (r : Record) : List Byte := (r.body.drop 56).take 32

/-- Whether the report of a started attest command still waits at a running owner's pseudo-channel (R212). -/
def State.reportHeld (s : State) (r : Record) : Bool :=
  match space2 (r.field 88 8), r.field 88 8 / 2 ^ 60 with
  | some a, 2 => (s.pc (pcOf a)).held.any fun w =>
      w.src == .host && w.addr == BitVec.ofNat 64 (hbmAddr a) && w.data.take 32 == r.nonce
  | _, _ => false

/-- KIND 7: the report and its signature are written; the command retires when they stand in memory (R330, R342). -/
def State.startAttest (s : State) (r : Record) : State :=
  let fields := s.reportFields r.nonce
  let s1 := match space2 (r.field 88 8), r.field 88 8 / 2 ^ 60 with
    | some a, 2 => s.hbmStore a (fields ++ signatureBytes fields)
    | _, _ => s
  s1.setRecord r.seq fun x => { x with state := if s1.reportHeld r then 2 else 3 }

/-- A command starts by its KIND (R330). -/
def State.startCommand (s : State) (r : Record) : State :=
  match r.kind with
  | 3 => s.startHarvest r
  | 4 => s.startSignLog r
  | 5 => s.startTrapAnswer r
  | 6 => s.startSpareSwap r
  | 7 => s.startAttest r
  | _ => s

/-- A command that has started and is complete retires (R330). -/
def State.finishCommand (s : State) (r : Record) : State :=
  let done (s : State) : State := s.setRecord r.seq fun r => { r with state := 3 }
  match r.kind with
  | 3 =>
    if s.ring.harvests.any fun h => h.1 == r.seq && h.2.any fun p => p.2 != 0 then s
    else done (s.modRing fun g => { g with harvests := g.harvests.filter fun h => h.1 != r.seq })
  | 4 => s.startSignLog r
  | 6 => if s.ring.swaps.contains ⟨r.field 56 2, r.field 58 2⟩ then s else done s
  | 7 => if s.reportHeld r then s else done s
  | _ => s

/-- The commands that are complete retire. -/
def State.finishCommands (s : State) : State :=
  ((s.ring.entries.map Entry.lrec).filter fun r => decide (3 ≤ r.kind) && r.state == 2).foldl State.finishCommand s

/-- Every accepted command whose predecessors have retired starts, in SEQ order (R330). One whose predecessor retires as it starts
in a launch slot starts in that slot, too (DESIGN CHOICE, log entry 120). -/
def State.startCommands (s : State) : State :=
  ((s.ring.entries.map Entry.lrec).filter fun r => decide (3 ≤ r.kind) && r.state == 1).foldl
    (fun s r => if s.ring.ready r then s.startCommand r else s) s

/-- The accepted record of a KIND that a number names, if a launch slot may start it. -/
def State.commandAt (s : State) (seq kind : Nat) : Option Record :=
  match s.ring.entry seq with
  | none => none
  | some e =>
    if e.lrec.kind = kind ∧ e.lrec.state = 1 ∧ s.rmt % 1024 = 0 ∧ s.ring.ready e.lrec then some e.lrec else none

/-- A command of one KIND started at its launch slot. -/
def commandEvent (seq kind : Nat) (f : State → Record → State) (s : State) : Out :=
  match s.commandAt seq kind with
  | none => .next s
  | some r => .next (f s r)

/-- HARVEST (R330). -/
def execHarvest (seq : Nat) (s : State) : Out := commandEvent seq 3 State.startHarvest s
/-- SIGN_LOG (R335). -/
def execSignLog (seq : Nat) (s : State) : Out := commandEvent seq 4 State.startSignLog s
/-- TRAP_ANSWER (R330). -/
def execTrapAnswer (seq : Nat) (s : State) : Out := commandEvent seq 5 State.startTrapAnswer s
/-- SPARE_SWAP (R336). -/
def execSpareSwap (seq : Nat) (s : State) : Out := commandEvent seq 6 State.startSpareSwap s
/-- ATTEST (R342). -/
def execAttest (seq : Nat) (s : State) : Out := commandEvent seq 7 State.startAttest s

/-! ### Placement (R165, R206, R315, R338, R395) -/

/-- A rectangle of tiles. -/
structure Rect where
  x : Nat
  y : Nat
  w : Nat
  h : Nat
  deriving DecidableEq, Repr

/-- Whether two rectangles share a tile. -/
def Rect.meets (a b : Rect) : Bool :=
  decide (a.x < b.x + b.w) && decide (b.x < a.x + a.w) && decide (a.y < b.y + b.h) && decide (b.y < a.y + a.h)

/-- The rectangle of a partition. -/
def Part.rect (q : Part) : Rect := ⟨q.x0, q.y0, q.lrec.w, q.lrec.h⟩

/-- The unusable tiles of a die's strips (R338). -/
def Ring.unusable (g : Ring) : List Rect :=
  g.spare.flatMap fun e => ((List.range 25).filter (spareUnuse e.2)).map fun c =>
    let t := spareTile (e.1 / 4096) (e.1 % 4096) c
    ⟨t.x, t.y, 1, 1⟩

/-- The placed partitions but for those of `freed`, and the unusable tiles (R165, R338). -/
def State.solidRects (s : State) (freed : List Nat) : List Rect :=
  ((s.parts.filter fun q => q.placed && !freed.contains q.pid).map Part.rect) ++ s.ring.unusable

/-- The tiles whose swap is queued or in progress (R336). -/
def Ring.swapRects (g : Ring) : List Rect := g.swaps.map fun t => ⟨t.x, t.y, 1, 1⟩

/-- What placement counts as held: placed partitions, unusable tiles, and tiles with a swap to come (R165, R336, R338). -/
def State.heldRects (s : State) (freed : List Nat) : List Rect := s.solidRects freed ++ s.ring.swapRects

/-- The dies that a rectangle covers. -/
def Rect.dies (r : Rect) : List Nat :=
  (List.range 16).filter fun d => r.meets ⟨125 * (d % 8), 100 * (d / 8), 125, 100⟩

/-- The free places of a die's pinned region (R312). -/
def State.pinRoom (s : State) (d : Nat) : List Nat :=
  let taken := ((s.dieX d).tlb.filter fun e => teP e.2).map (·.1)
  (List.range 1024).filter fun i => !taken.contains i

/-- The router tests of an origin, over every superstep: those of R395, and R178's of the burst flits, whose paths only the origin fixes
too: the scan has found an origin that passes the latter (R248; log entry 94). -/
def Timetable.pathsFit (t : Timetable) (x0 y0 : Nat) : Bool :=
  (t.edge.isEmpty && !t.hasBursts) ||
    (disjoint (t.wordStarts.flatMap fun b => t.routeWords x0 y0 b.1 b.2 ++ t.edgeWords x0 y0 b.1 b.2 ++ t.burstWords x0 y0 b.1 b.2) &&
      decide (t.wordStarts.flatMap fun b => (t.edge.filter fun e => e.takes && e.pe == b.1).flatMap fun e =>
        (t.releases x0 y0 b.2 e).map fun r => (e.port, r)).Nodup)

/-- Whether a record can stand at an origin. -/
def State.originOk (s : State) (held : List Rect) (r : Record) (tt : Timetable) (x0 y0 : Nat) : Bool :=
  let me : Rect := ⟨x0, y0, r.w, r.h⟩
  r.mayStand x0 y0 && held.all (fun x => !x.meets me) && me.dies.all (fun d => decide (tt.pins.length ≤ (s.pinRoom d).length)) && tt.pathsFit x0 y0

/-- The first origin at which a record can be placed, by Y0 and then X0 (R165). -/
def State.firstOrigin (s : State) (held : List Rect) (r : Record) (tt : Timetable) : Option (Nat × Nat) :=
  (List.range 200).findSome? fun y =>
    ((List.range 1000).find? fun x => s.originOk held r tt x y).map fun x => (x, y)

/-- The origin at which a record is placed. A record whose die phase is fixed and whose first origin covers a tile with a swap to come
waits for the remap and is placed there, not at a later origin (R336, R345; DEDUCED, log entry 99). -/
def State.origin (s : State) (freed : List Nat) (r : Record) (tt : Timetable) : Option (Nat × Nat) :=
  if r.xr = 0xFFFF then s.firstOrigin (s.heldRects freed) r tt
  else
    (s.firstOrigin (s.solidRects freed) r tt).filter fun o => s.ring.swapRects.all fun x => !x.meets ⟨o.1, o.2, r.w, r.h⟩

/-- Whether every pseudo-channel that a timetable lists is free, or the partition's own (R206). -/
def State.pcsFree (s : State) (tt : Timetable) (own : Option Nat) : Bool :=
  tt.owned.all fun g => (s.pc g).owner.isNone || (s.pc g).owner == own

/-- Whether every reserved edge slot that a timetable uses is in no placed partition but those of `freed` (R146). R146 and R165 do not say
what becomes of a candidate that uses a slot of a placed partition: it stays unplaced, and a victim's slots count as free (DESIGN CHOICE,
log entry 97). -/
def State.slotsFree (s : State) (tt : Timetable) (freed : List Nat) : Bool :=
  (s.parts.filter fun q => q.placed && !freed.contains q.pid).all fun q =>
    q.tt.edge.all fun a => tt.edge.all fun b => !(a.port == b.port && a.slot == b.slot && a.takes == b.takes)

/-- A candidate: its record, and its partition if it is to be placed again. -/
structure Candidate where
  lrec : Record
  again : Option Part
  deriving DecidableEq, Repr

/-- The timetable of a record, as it was scanned (R162). -/
def Ring.table (g : Ring) (seq : Nat) : Timetable := ((g.entry seq).map Entry.tt).getD .empty

/-- The timetable of a candidate. -/
def State.candidateTable (s : State) (c : Candidate) : Timetable :=
  match c.again with
  | some q => q.tt
  | none => s.ring.table c.lrec.seq

/-- The saved origin of a restore record (R299, R306). -/
def State.savedOrigin (s : State) (r : Record) : Nat × Nat := (hbmField s.mem (r.save + 8) 2, hbmField s.mem (r.save + 10) 2)

/-- Where a candidate can be placed when the tiles of `freed` count as free: by the scan of origins, or at its saved origin
(R165, R306). -/
def State.placeAt (s : State) (freed : List Nat) (c : Candidate) : Option (Nat × Nat) :=
  let tt := s.candidateTable c
  let held := s.heldRects freed
  let at' (o : Nat × Nat) : Option (Nat × Nat) :=
    if held.all (fun x => !x.meets ⟨o.1, o.2, c.lrec.w, c.lrec.h⟩) then some o else none
  if !s.pcsFree tt (c.again.map Part.pid) || !s.slotsFree tt freed then none
  else
    match c.again with
    | some q => at' (q.x0, q.y0)
    | none =>
      if c.lrec.kind = 2 then
        let o := s.savedOrigin c.lrec
        if s.originOk held c.lrec tt o.1 o.2 then some o else none
      else s.origin freed c.lrec tt

/-! ### Admission (R166, R306) -/

/-- A partition right after admission. -/
def Part.admitted (r : Record) (pid : Nat) (o : Nat × Nat) (tt : Timetable) (tb t0 : Nat) : Part :=
  { pid := pid, lrec := r, x0 := o.1, y0 := o.2, tt := tt, dt := r.dt o.1 o.2, tb := tb, t0 := t0, form := .launching, p := none,
    tick := 0, step := 0, pstep := none, pstepAt := none, ss := 0, resync := false, resyncAt := none, resyncFlag := false,
    restartQ := none, agreedQ := none, causes := [], cause := 0, freezing := false, faults := [], stood := [], reoffer := [],
    turnDue := false, message := none, restartAt := none, written := false, restored := false, overRecs := [], overFlits := [], winWas := [], halted := none, flits := [], xacts := [], elems := [], redWords := [],
    redWaits := [], reads := [], staging := [], requests := [], held := [], nheld := 0, heldOver := false, xlate := [], edgeIn := [],
    linkDown := [], undo := none, reissue := none, outAt := none, pins := [], next := 1 }

/-- The pinned set of a partition loaded on every die that it covers (R315). -/
def State.loadPins (s : State) (q : Part) : State :=
  let s0 := s.clearPins q
  let places := q.rect.dies.flatMap fun d => (q.tt.pins.zip (s0.pinRoom d)).map fun e => (d, e.2, tePin e.1 q.lrec.asid)
  (places.foldl (fun s e => s.setTe e.1 e.2.1 e.2.2) s0).modPart q.pid fun q => { q with pins := places.map fun e => (e.1, e.2.1) }

/-- The pseudo-channels that a partition owns from its admission on, every bank closed (R206). -/
def State.ownPcs (s : State) (q : Part) : State :=
  q.tt.owned.foldl (fun s g => s.modPc g fun p => { p with owner := some q.pid, rows := [], recorded := [] }) s

/-- A new launch admitted: tiles assigned and reset, PID, XO and YO written (R32, R166). -/
def State.admitRecord (s : State) (r : Record) (pid : Nat) (o : Nat × Nat) : State :=
  let t0 := if r.trp then r.tstart else s.rmt + 8704
  let r1 := { r with pid := pid, xo := o.1, yo := o.2 }
  let q := Part.admitted r1 pid o (s.ring.table r.seq) (if r.trp then r.tbase else t0) t0
  let s1 := { s with parts := s.parts ++ [q] }
  let s2 := (q.members.foldl State.clearTile s1).ownPcs q
  (s2.loadPins q).setRecord r.seq fun _ => r1

/-- The device RMT at which a partition placed again at launch slot L restarts (R306). -/
def Record.restartTime (r : Record) (l : Nat) : Nat := l + 8704 + 8 * r.w * r.h

/-- A written-out partition placed again at its saved origin: its tiles are reset and its pinned set is loaded (R306). -/
def State.placeAgain (s : State) (q : Part) : State :=
  let q1 := { q with form := .restoring, written := true, restartAt := some (q.lrec.restartTime s.rmt) }
  (((q.members.foldl State.clearTile s).modPart q.pid fun _ => q1).loadPins q1).refreshHeader q.pid

/-- The context of an exact fault record of a tile, whose instruction a restore re-offers (R278). -/
def FRec.offered (r : FRec) : Option (Coord × Side × Fin 4) :=
  if r.kind = 0 ∧ r.who < 8 then some (⟨r.x, r.y⟩, if r.who.testBit 0 then .execute else .access, fin4 (r.who / 2)) else Option.none

/-- A restore record admitted: the partition that its save area describes; what the area does not hold is as a launch leaves it (R296,
R299, R306; log entry 16). -/
def State.admitRestore (s : State) (r : Record) (pid : Nat) (o : Nat × Nat) : State :=
  let f (off n : Nat) : Nat := hbmField s.mem (r.save + off) n
  let r1 := { r with pid := pid, xo := o.1, yo := o.2, t0 := f (0x100 + 112) 8 }
  let q0 := Part.admitted r1 pid o (s.ring.table r.seq) (f 32 8) r1.t0
  let recs := (List.range (min 4096 (f 28 4))).map fun i => readRecord (Mem.read s.mem (hbmAddr (r.save + 0x1000 + 32 * i)) 32)
  let q := { s.restoreHeader q0 with form := .writtenOut, causes := [3], cause := 3, faults := recs, reoffer := recs.filterMap FRec.offered }
  let s1 := ({ s with parts := s.parts ++ [q] }).ownPcs q
  (s1.setRecord r.seq fun _ => r1).placeAgain { q with lrec := r1 }

/-- The lowest-numbered free PID (R146, R164). -/
def State.freePid (s : State) : Option Nat := (List.range 64).find? fun p => !s.parts.any fun q => q.pid == p

/-- The outcome of examining a candidate. -/
inductive Examined where
  | admitted (s : State)
  | refused (s : State)
  | unplaced
  deriving DecidableEq, Repr

/-- A candidate examined: a written-out partition that covers an unusable tile is refused, its save area kept (R164, R306,
R338). -/
def State.examine (s : State) (c : Candidate) : Examined :=
  let lost := match c.again with
    | none => false
    | some q => s.ring.unusable.any fun x => x.meets q.rect
  match c.again, s.freePid with
  | some q, _ =>
    if lost then .refused ((s.free q).refuse c.lrec.seq 5)
    else if (s.placeAt [] c).isSome then .admitted (s.placeAgain q) else .unplaced
  | none, none => .unplaced
  | none, some pid =>
    if c.lrec.kind = 2 then
      let o := s.savedOrigin c.lrec
      if s.ring.unusable.any fun x => x.meets ⟨o.1, o.2, c.lrec.w, c.lrec.h⟩ then .refused (s.refuse c.lrec.seq 5)
      else if (s.placeAt [] c).isSome then .admitted (s.admitRestore c.lrec pid o) else .unplaced
    else
      match s.placeAt [] c with
      | none => .unplaced
      | some o => .admitted (s.admitRecord c.lrec pid o)

/-! ### The candidate list (R164, R169, R170) -/

/-- Whether an accepted record is a candidate. -/
def State.isCandidate (s : State) (e : Entry) : Bool :=
  (e.lrec.kind == 1 || e.lrec.kind == 2) && e.lrec.state == 1 && e.staged && s.ring.ready e.lrec &&
    !s.parts.any fun q => q.lrec.seq == e.lrec.seq

/-- Whether an intermissioned partition is a candidate (R277, R306). -/
def Part.isCandidate (q : Part) : Bool :=
  q.form == .writtenOut && q.lrec.state == 5 && q.halted.isNone && !q.causes.contains 1

/-- Whether the victims of a request are out of the way (R307). -/
def State.victimsOut (s : State) (victims : List Nat) : Bool :=
  victims.all fun p => match s.part p with
    | none => true
    | some q => q.form == .writtenOut

/-- The candidate that is first because its victims have made room (R307). -/
def State.requester (s : State) : Option Nat :=
  match s.ring.request with
  | some (i, v, seq) => if i ≤ s.rmt ∧ s.victimsOut v then some seq else none
  | none => none

/-- The candidates by PRIO and SEQ, a candidate whose request is fulfilled before them (R164, R307). -/
def State.candidates (s : State) : List Candidate :=
  let l := ((s.ring.entries.filter s.isCandidate).map fun e => (⟨e.lrec, none⟩ : Candidate)) ++
    (s.parts.filter Part.isCandidate).map fun q => ⟨q.lrec, some q⟩
  let first := s.requester
  let key (c : Candidate) : Nat := (if first = some c.lrec.seq then 0 else 1 + c.lrec.prio) * 2 ^ 64 + c.lrec.seq
  l.mergeSort fun a b => decide (key a ≤ key b)

/-- The placed partitions that a candidate may displace, those of greatest PRIO and SEQ first. One that is launching counts if it has a
partition cycle before the freeze (R170, R277, R295, R307; log entry 53). -/
def State.displaceable (s : State) (prio : Nat) : List Part :=
  (s.parts.filter fun q => (q.form == .running || (q.form == .launching && decide (q.t0 < s.rmt + 5120))) && q.lrec.flg.testBit 1 &&
      decide (prio < q.lrec.prio) && q.message.isNone && q.halted.isNone && !q.freezing && q.agreedQ.isNone).mergeSort
    fun a b => decide (b.lrec.prio * 2 ^ 64 + b.lrec.seq ≤ a.lrec.prio * 2 ^ 64 + a.lrec.seq)

/-- The possible victims of a candidate (R170). -/
def State.victims (s : State) (prio : Nat) : List Part := (s.displaceable prio).filter fun q => !q.inTroupe

/-- Whether a troupe intermission that this device proposed is under way. -/
def State.troupeStopping (s : State) : Bool :=
  (s.ring.agreements.any fun a => a.own && a.mtype == 1) || s.parts.any fun q => q.inTroupe && (q.agreedQ.isSome || q.outAt.isSome)

/-- The first candidate cannot be placed: an intermission is requested for 5,120 cycles ahead if victims, added in turn, make
room. If none do, this Ringmaster proposes the intermission of a troupe whose member here makes room (R170, R308; log entry 53). -/
def State.requestIntermission (s : State) (c : Candidate) : State :=
  if s.ring.request.isSome || s.troupeStopping then s
  else
    let v := (s.victims c.lrec.prio).map Part.pid
    match (List.range v.length).find? fun n => (s.placeAt (v.take (n + 1)) c).isSome with
    | some n => s.modRing fun g => { g with request := some (s.rmt + 5120, v.take (n + 1), c.lrec.seq) }
    | none =>
      match (s.displaceable c.lrec.prio).find? fun q => q.inTroupe && (s.placeAt [q.pid] c).isSome with
      | some q => s.propose q.lrec.troupe (q.cyc + 65536) 0
      | none => s

/-- A skip counted; a partition that becomes a candidate again keeps the count of its admission (R169; log entry 53). -/
def State.skip (s : State) (seq : Nat) : State := s.modEntry seq fun e => { e with skips := e.skips + 1 }

/-- Whether a candidate has become blocking (R169). -/
def State.blocking (s : State) (seq : Nat) : Bool :=
  match s.ring.entry seq with | none => false | some e => decide (16 ≤ e.skips)

/-- The candidates examined in order (R169); `first` tells the first of the list. -/
def State.examineAll : Bool → List Candidate → State → State
  | _, [], s => s
  | first, c :: rest, s =>
    match s.examine c with
    | .admitted s' => s'
    | .refused s' => s'.examineAll false rest
    | .unplaced =>
      let s1 := (if first then s.requestIntermission c else s).skip c.lrec.seq
      if s1.blocking c.lrec.seq then s1 else s1.examineAll false rest

/-- Troupe members that can no longer start by TSTART are refused (R166). -/
def State.refuseLate (s : State) : State :=
  (s.ring.entries.filter fun e => s.isCandidate e && e.lrec.kind == 1 && e.lrec.trp && decide (e.lrec.tstart < s.rmt + 8704)).foldl
    (fun s e => s.refuse e.lrec.seq 3) s

/-- JHEAD moves past the records that have ended (R329). -/
def State.moveHead (s : State) : State :=
  let open' := s.ring.entries.filter fun e => decide (s.ring.jhead.toNat ≤ e.index) && e.lrec.state != 3 && e.lrec.state != 4
  s.modRing fun g => { g with jhead := BitVec.ofNat 64 ((open'.head?.map Entry.index).getD g.scanned) }

/-- One admission at most (R164, R169). -/
def State.admissions (s : State) : State :=
  if s.freePid.isNone then s
  else
    let l := s.candidates
    let s1 := if s.requester.isSome then s.modRing fun g => { g with request := none } else s
    s1.examineAll true l

/-- LAUNCH_SLOT: at every multiple of 1,024, retirements, commands, queued swaps and one admission (R164, R330, R336). -/
def execLaunchSlot (s : State) : Out :=
  if s.rmt % 1024 != 0 || !s.ring.started then .next s
  else
    let s1 := s.retireAll.finishCommands.startCommands
    let s2 := s1.ring.swaps.foldl (fun s t => nextOr (execSpareSwapExecute t s) s) s1
    .next s2.refuseLate.admissions.moveHead

/-- A candidate admitted at its launch slot if it can be placed. -/
def admitEvent (seq kind : Nat) (s : State) : Out :=
  match s.ring.entry seq with
  | none => .next s
  | some e =>
    if e.lrec.kind = kind ∧ s.rmt % 1024 = 0 ∧ s.isCandidate e then
      match s.examine ⟨e.lrec, none⟩ with
      | .admitted s' => .next s'
      | .refused s' => .next s'
      | .unplaced => .next s
    else .next s

/-- LAUNCH (R161, R166). -/
def execLaunch (seq : Nat) (s : State) : Out := admitEvent seq 1 s
/-- RESTORE (R306). -/
def execRestore (seq : Nat) (s : State) : Out := admitEvent seq 2 s

/-! ### The start of a partition (R32, R163, R166) -/

/-- A segment of a staged image `from'` written into a tile with its marks (R163). -/
def State.loadSegment (s : State) (from' : List Host.Cell) (im : Nat) (t : Coord) (g : Segment) : State :=
  let m := Mem.copyFrom s.mem from' (hbmAddr (im + g.data)) (tileAddr t g.off) g.len
  let marked (a i : Nat) : Bool := g.marks != 0 && Mem.bit from' (hbmAddr (im + g.marks + a)) i
  if g.off < 0x8000 then
    { s with
      mem := m
      full := (List.range (g.len / 8)).foldl (fun l i => setMember l (tileAddr t (g.off + 8 * i)) (marked 0 i)) s.full
      qtags := (List.range (g.len / 16)).foldl
        (fun l i => setMember l (tileAddr t (g.off + 16 * i)) (marked ((g.len + 63) / 64) i)) s.qtags }
  else { s with mem := m }

/-- Slot 0 of a core as the launch image fills it: its entry capability, unsealed, if that is tagged, and c31 (R32, R163). -/
def Slot.launched (pcc stk : CReg) : Slot :=
  { Slot.cleared with
    pcc := if pcc.tag then enterCap pcc else .zero, live := pcc.tag, c := Slot.cleared.c.set 31 stk }

/-- The capability at an offset of a launch image, with its TAGS bit. -/
def imageCap (m : List Host.Cell) (im i : Nat) : CReg :=
  ⟨Mem.quad m (hbmAddr (im + 16 * i)), bits (hbmField m (im + 64) 1) i i == 1⟩

/-- A member tile as the staged image `from'` of place `im` fills it (R32, R163, R199). -/
def State.loadTile (s : State) (from' : List Host.Cell) (im : Nat) (t : Coord) : State :=
  let tl := Tile.powerOn
  let core (i : Nat) : Core := Core.cleared.setSlot 0 (Slot.launched (imageCap from' im i) (imageCap from' im (i + 1)))
  let s1 := s.setTile t { tl with access := core 0, exec := core 2, win := tl.win.set 0 win0Launch }
  (segmentsAt from' im).foldl (fun s g => s.loadSegment from' im t g) s1

/-- PARTITION_START: the staged image is resident, and at T0 partition cycle 0 begins. Nothing reaches the tiles between the writing of the
image and T0, so that it is written here (R162, R166; log entry 62). -/
def execPartitionStart (pid : Nat) (s : State) : Out :=
  match s.part pid with
  | none => .next s
  | some q =>
    if q.form = .launching ∧ q.t0 = s.rmt then
      let image := ((s.ring.entry q.lrec.seq).map Entry.image).getD []
      let s1 := (q.members.foldl (fun s t => s.loadTile image q.lrec.image t) s).modEntry q.lrec.seq fun e => { e with image := [] }
      let s2 := s1.modPart pid fun q => { q with form := .running, p := none, tick := 0 }
      .next (s2.setRecord q.lrec.seq fun r => { r with state := 2, t0 := s.rmt })
    else .next s

end Sys2Proof.Machine
end

