-- ==== Sys2Proof/Machine/Deliver.lean ====
section
/-! DEFINITION. Loose accesses at their homes and the answers that come back (R198, R202, R212, R215, R217 to R220, R231,
R232, R249, R281, R289, R310, R323, R369, R370). -/

namespace Sys2Proof.Machine

/-- Whether an operation only reads. -/
def isRead : LooseOp → Bool
  | .read | .readCap => true
  | _ => false

/-- What a home does with an access to system space: it answers now, or later. -/
inductive Served where
  | now (s : State) (r : Reply)
  | later (s : State)
  deriving DecidableEq, Repr

/-- The answer of a register read of `size` bytes. -/
def regReply (size v : Nat) : Reply := .ok (leBytes size v) false

/-- An access that finds nothing to pop waits at its home and asks again in the next cycle (R281, R323). -/
def State.askAgain (s : State) (a : Loose) : State :=
  { s with flights := s.flights ++ [⟨s.freeCount, s.rmt + 1, a, []⟩], freeCount := s.freeCount + 1 }

/-- A pop over system space. -/
def State.servePop (s : State) (a : Loose) (r : Option (State × Quad)) : Served :=
  match r with
  | some (s1, q) => .now s1 (regReply 16 q.toNat)
  | none => .later (s.askAgain a)

/-- KIND 1: a system register of a hub (R217, R281, R289, R323, R337). What would raise ILLEGAL is refused. -/
def State.serveHubReg (s : State) (a : Loose) (d h num : Nat) : Served :=
  let ctx := (s.hub d h).ctx
  let v : Quad := BitVec.ofNat 128 (leNat a.data)
  if isRead a.op then
    match ctxReg ctx (capCur ctx.pcc.data) num with
    | some r => .now s (regReply 16 r.data.toNat)
    | none =>
      if num = 0x800 then s.servePop a (s.popMessage d h)
      else if num = 0x811 then s.servePop a (s.popXmsg d)
      else match s.hubReg d h num with
        | some q => .now s (regReply 16 q.toNat)
        | none => .now s .refused
  else
    match ctxWrite ctx num v with
    | some sl => .now (s.modHub d h fun hb => { hb with ctx := sl }) (.ok [] false)
    | none =>
      if isSpareNum num then
        if s.spareIllegal d num v then .now s .refused else .later (s.startRemap d num v (some a.src) none)
      else match s.hubRegWrite d h num v with
        | some s1 => .now s1 (.ok [] false)
        | none => .now s .refused

/-- A write of FRZCTL (R310). -/
def State.writeFrzctl (s : State) (pid cmd : Nat) : State :=
  match cmd with
  | 1 => nextOr (execFrzctlFreeze pid s) s
  | 2 => nextOr (execFrzctlEndRequest pid s) s
  | 3 => nextOr (execFrzctlIntermission pid s) s
  | 4 => nextOr (execFrzctlRetire pid s) s
  | _ => s

/-- KIND 4 written: a register of the Ringmaster block (R216, R219, R310, R316). -/
def State.writeRingReg (s : State) (off : Nat) (v : DWord) : State :=
  if off % 8 != 0 then s
  else if 0x100 ≤ off ∧ off < 0x200 then
    let n := fin16 ((off - 0x100) / 16)
    s.writeReg (if off % 16 = 0 then .cxlBase n else .cxlCtl n) (v.setWidth 128)
  else if 0x200 ≤ off ∧ off < 0x400 then s.writeFrzctl ((off - 0x200) / 8) (v.toNat % 8)
  else if 0x4000 ≤ off ∧ off < 0x6000 then s.writeAgen ((off - 0x4000) / 8) v
  else if 0x8000 ≤ off then s.writeReg (.adesc ((off - 0x8000) / 32) (fin4 (off / 8))) (v.setWidth 128)
  else s

/-- KIND 5 written: an edge register; GO of GCTL requests a switch (R367, R369 to R371). -/
def State.writeEdge (s : State) (r : EdgeReg) (v : Quad) : State :=
  match r with
  | .gctl g =>
    if v.getLsbD 3 then s.requestSwitch g (fin4 v.toNat) (BitVec.ofNat 4 (bits v.toNat 7 4)) else s.writeReg (.gctl g) v
  | .port p off => s.writeReg (.port p off) v
  | .ewin n => s.writeReg (.ewin n) v
  | .lmap => s.writeReg .lmapBase v
  | .clk => s.writeReg .clkSrc v
  | .none => s

/-- A read of a register, or a write of it. -/
def serveReg (s : State) (a : Loose) (read : State × Nat) (write : State) : Served :=
  match a.op with
  | .read | .readCap => .now read.1 (regReply a.size read.2)
  | .write | .writeCap _ => .now write (.ok [] false)
  | .amo .. => .now s .refused

/-- An access to system space at its home (R217 to R220). -/
def State.serveSystem (s : State) (a : Loose) : Served :=
  let ad := a.addr.toNat
  let v := leNat a.data
  let w : DWord := BitVec.ofNat 64 v
  let t : Coord := ⟨bits ad 33 24, bits ad 41 34⟩
  let off := bits ad 11 0
  match bits ad 55 52 with
  | 0 =>
    let r := s.performSram (bits ad 51 48) (bits ad 29 24) (bits ad 17 0) a
    .now r.1 r.2
  | 1 => s.serveHubReg a (bits ad 51 48) (bits ad 29 24) (bits ad 15 4)
  | 2 =>
    serveReg s a (s, s.tileReg t off) (if off < 0x20 ∧ off % 8 = 0 then s.writeWindow t (fin4 (off / 8)) w else s)
  | 3 => serveReg s a (s, s.pcReg (bits ad 35 24) off) s
  | 4 => serveReg s a (s, (s.ringReg (bits ad 15 0)).toNat) (s.writeRingReg (bits ad 15 0) w)
  | _ =>
    let r := edgeReg (bits ad 41 40) (bits ad 23 0)
    serveReg s a (s.readEdge r) (s.writeEdge r (BitVec.ofNat 128 v))

/-- An access to system space answered. -/
def State.arriveSystem (s : State) (a : Loose) : State :=
  match s.serveSystem a with
  | .now s1 r => s1.respond a.src r
  | .later s1 => s1

/-- LOOSE_TILE_ARRIVAL (R202). -/
def execLooseTileArrival (a : Loose) (s : State) : Out :=
  match space1 a.addr.toNat with
  | some (t, off) => .next (s.arriveTile a t off)
  | none => .next s

/-- LOOSE_HBM_ACCESS (R212). -/
def execLooseHbmAccess (a : Loose) (s : State) : Out :=
  match space2 a.addr.toNat with
  | some hb => .next (s.arriveHbm a hb)
  | none => .next s

/-- An access to space 4 or 5 of this device, from this module or from a link (R215, R318). -/
def State.arriveDevice (s : State) (f : Flight) : State :=
  match f.a.src with
  | .device dev port _ _ => s.admitRequest f (ioDie (port / 16)) dev (some (port / 4)) true
  | .hub d _ | .channel (.hub d _) _ _ => s.admitRequest f d s.device none true
  | .channel (.tile t) _ _ => s.admitRequest f (dieOf t) s.device none true
  | .host | .cxl _ => s.admitRequest f 0 s.device none true

/-- Whether an access that stands among the flights leaves the device, and how; its path may have gone since (R215, R216). -/
def State.leaves (s : State) (a : Loose) : Bool :=
  let ad := a.addr.toNat
  ad / 2 ^ 60 == 6 || ((ad / 2 ^ 60 == 4 || ad / 2 ^ 60 == 5) && bits ad 59 40 != s.device)

/-- A loose access reaches its home (R231); a tile's arrival is an event of its own. -/
def State.arrive (s : State) (f : Flight) : State :=
  let a := f.a
  if s.leaves a then
    match s.routeAccess a.addr.toNat a.size with
    | .ok (d, _) => s.leave f d
    | .error e => s.respond a.src (if e.code = fcPathDown then .pathDown else .refused)
  else
    match spaceOf a.addr with
    | 1 => s.first [.event (.looseTileArrival a)]
    | 2 => nextOr (execLooseHbmAccess a s) s
    | 4 | 5 => s.arriveDevice f
    | 7 => s.arriveSystem a
    | _ => s.respond a.src .refused

/-- Whether a flight stands behind an access of its source that was sent before it: one to the same home, or one of which the home is not
known yet, or, for such a one, any (R231). -/
def State.behind (s : State) (f : Flight) : Bool :=
  let home (a : Loose) : Nat × Nat := looseHome a.addr.toNat
  ((s.flights.takeWhile fun g => g.id != f.id).any fun g =>
    sameSource g.a.src f.a.src && (home g.a == home f.a || home g.a == (4, 0) || home f.a == (4, 0))) ||
    ((home f.a != (4, 0) || s.leaves f.a) && s.homeWait.any fun w => sameSource w.2.2.a.src f.a.src)

/-- A flight that ends; one that stands behind another waits for it at its home. -/
def State.arriveFlight (s : State) (id : Nat) : State :=
  match s.flights.find? fun f => f.id == id with
  | none => s
  | some f => if s.behind f then s else State.arrive { s with flights := s.flights.filter fun f => f.id != id } f

/-- HUB_ACCESS_ANSWER: the blocked access has its answer and the hub goes on (R232). -/
def execHubAccessAnswer (die hub : Nat) (ans : Reply) (s : State) : Out :=
  match (s.hub die hub).wait with
  | some (.answer _) => .next (s.modHub die hub fun hb => { hb with wait := none, answer := some ans })
  | _ => .next s

/-- DEFERRED_DELIVERY_WRITE: the deliveries of tile `id` that find their words free of partition writes (R249). -/
def execDeferredDeliveryWrite (pid id : Nat) (s : State) : Out :=
  match s.part pid with
  | none => .next s
  | some q => .next (if q.form = .running ∧ q.holds (keyTile id) then s.deliverAll (keyTile id) q.cyc else s)

end Sys2Proof.Machine
end

