-- ==== Sys2Proof/Machine/Invalidate.lean ====
section
/-! DEFINITION. tlb.inv, and what it waits for: every access that used a cleared entry, wherever it stands (R326). -/

namespace Sys2Proof.Machine

/-- The channels of a member of a written-out partition, as its save area holds them (R300). -/
def State.savedChans (s : State) (q : Part) (t : Coord) : Vector Chan 4 :=
  Vector.ofFn fun ch => chanOf (s.areaRead q (q.chanAt t ch) 4096 ++ overflowBytes (s.coreRecs q t .access) ch)

/-- The channels that have still to send words of an element translated by one of a die's entries: a tile's from the lookup in
cycle s_e - 1 on, in the save area too while its partition is written out (R317, R326). -/
def State.chansUsing (s : State) (die : Nat) (sel : List Nat) : List (Owner × Fin 4) :=
  let of' (o : Owner) (v : Vector Chan 4) (within : Cmd → Bool) : List (Owner × Fin 4) :=
    ((List.finRange 4).filter fun ch => v[ch].run.any fun m => within m && m.tr.any fun p => sel.contains p.2).map fun ch => (o, ch)
  ((s.tiles.filter fun e => dieOf (keyTile e.1) == die).flatMap fun (e : Nat × Tile) =>
    match s.partOf (keyTile e.1) with
    | none => []
    | some _ => of' (.tile (keyTile e.1)) e.2.chans fun _ => true) ++
  ((s.parts.filter Part.written).flatMap fun q =>
    (q.members.filter fun t => dieOf t == die).flatMap fun t => of' (.tile t) (s.savedChans q t) fun _ => true) ++
  (s.hubs.filter fun e => e.1 / 64 == die).flatMap fun (e : Nat × Hub) =>
    of' (.hub die (e.1 % 64)) e.2.chans fun m => m.burst % (m.shape.w + 1) != 0

/-- The accesses of this device that no home has accepted: on their way, or waiting at a home for a fill (R231, R318). -/
def State.openFlights (s : State) : List Flight := s.flights ++ s.homeWait.map fun w => w.2.2

/-- Whether everything that a tlb.inv of a die waits for has been accepted at its home: the accesses by their numbers as flights or by
their tags, and what its channels still sent with the cleared entries (R326). -/
def State.invalidated (s : State) (die : Nat) (ids tags : List Nat) (chans : List (Owner × Fin 4)) (sel : List Nat) : Bool :=
  let now := s.chansUsing die sel
  let late (src : LooseSrc) (via : List (Nat × Nat)) : Bool :=
    match src with
    | .channel o ch _ => chans.contains (o, ch) && via.any fun v => v.1 == die && sel.contains v.2
    | _ => false
  !(s.openFlights.any fun f => ids.contains f.id || late f.a.src f.via) &&
    !(s.edge.outbound.any fun o => tags.contains o.tag || ids.contains o.flight || late o.src o.via) && !(chans.any fun c => now.contains c)

/-- tlb.inv: the selected entries lose V, and the hub waits for the accesses that used them (R326). -/
def execTlbInv (a : RegNo) (mode : BitVec 12) (s : State) : Out :=
  hubForm (.tlbInv a mode) (fun d h cx s =>
    let c := cx.data a
    match (s.hub d h).answer with
    | some _ => .ok (s.modHub d h fun hb => { hb with answer := none }, .seq)
    | none =>
      if 4 ≤ mode.toNat ∨ (mode = 0 ∧ bits c.toNat 11 0 < 1024) then .error { code := fcIllegal }
      else
        let sel := ((s.dieX d).tlb.filter fun e => invSelects mode.toNat c e.1 e.2).map (·.1)
        let s1 := s.modDieX d fun x => 
          { x with tlb := x.tlb.map fun (e : Nat × Quad) => (e.1, if sel.contains e.1 then teClearV e.2 else e.2) }
        let used (v : List (Nat × Nat)) : Bool := v.any fun e => e.1 == d && sel.contains e.2
        let ids := (s.openFlights.filter fun (f : Flight) => used f.via).map Flight.id
        let tags := (s.edge.outbound.filter fun o => used o.via).map Outbound.tag
        let chans := s.chansUsing d sel
        if ids.isEmpty && tags.isEmpty && chans.isEmpty then .ok (s1, .seq)
        else .ok (s1.modHub d h fun hb => { hb with wait := some (.inval ids tags chans sel) }, .stay)) s

end Sys2Proof.Machine
end

