-- ==== Sys2Proof/Machine/Agenda.lean ====
section
/-! DEFINITION. What happens in which order: the steps of a device cycle and of a partition cycle (R145, R149, R150, R159,
R171, R202, R227, R249), and the word that a context offers (R19, R30, R31, R72, R272). -/

namespace Sys2Proof.Machine

/-! ### The word that a context offers -/

/-- Whether a context offers nothing: it is not live, waits for a time, or its partition or hub does not run (R9, R96, R145,
R282). -/
def Cx.idle (cx : Cx) : Bool :=
  !cx.slot.live || cx.slot.hold.isSome ||
    match cx.wh with
    | .tile _ k j tl q => q.form != .running || tl.lost || tl.starting k j
    | .hub _ _ h => h.stopped || h.failed || h.wait.isSome

/-- The checks before the word at `a` issues: the PCC, the permission tests of check_space, the window of instruction memory,
and the indication of an uncorrectable word, or a damaged place of the buffer that it has not just been read into (R17, R19, R196, R272). -/
def Cx.fetchChecks (cx : Cx) (bad anew : Bool) : Chk Unit :=
  match checkCap cx.slot.pcc 0 4 pX with
  | .error f => .error f
  | .ok a =>
    match checkSpacePerm cx.slot.pcc a with
    | .error f => .error f
    | .ok () =>
      let reason := match cx.wh with | .tile .. => 0x20 | .hub .. => 0x27
      if cx.fetchLimit < a.toNat + 4 then .error (addrFlt a.toNat)
      else if bad then .error { code := fcEccLocal, reason := reason, info := a.toNat }
      else if !anew && damaged cx.damage 0x24 (fetchKey cx.regPlace.1 cx.regPlace.2 (cx.ownFrame.any fun f => f.i != 0) a.toNat) then
        .error { code := fcEccLocal, reason := 0x24, info := a.toNat }
      else .ok ()

/-- What a context offers in a cycle. -/
inductive Offer where
  | missing
  | nothing (s : State)
  | instr (i : Instr) (s : State)
  deriving DecidableEq, Repr

/-- The instruction of a word (R70). -/
def instrOf (w : Word) : Instr :=
  match decode w with
  | .ok i => i
  | .error _ => .illegal w

/-- The offer of a context: the word of its frame or of its fetch buffer, which is filled if it does not hold the word; a
failed check is taken exactly (R19, R30, R31, R72). -/
def State.offer (s : State) (c : Ctx) : Offer :=
  match s.issuing ⟨c, 0, 0, false⟩ with
  | none => .missing
  | some cx =>
    if cx.idle then .nothing s
    else
      let pc := capCur cx.slot.pcc.data
      let anew := cx.slot.fbuf.words.isEmpty || cx.slot.fbuf.base != pc
      let buf := if anew then cx.refill s.mem pc else cx.slot.fbuf
      let head := buf.words.headD ⟨0, false⟩
      let fr := cx.ownFrame
      let replay := fr.filter fun f => f.i != 0
      let fw : FWord := match replay with
        | some f =>
          let w := f.words.getD f.j ⟨0, false⟩
          { w with w := renameWord w.w f.i f.ds f.as f.bs f.es }
        | none => head
      let s1 := if replay.isSome then s else s.modCtx cx fun sl => { sl with fbuf := buf }
      let s2 := if anew && replay.isNone then s1.mendBuffer cx (.jump cx.slot.pcc) else s1
      let cx1 := { cx with pc := pc, word := fw.w, frame := fr.isSome }
      match cx1.fetchChecks fw.bad (anew && replay.isNone) with
      | .error f => .nothing (raiseExact cx1 f s)
      | .ok () => .instr (instrOf fw.w) { s2 with cur := some ⟨c, fw.w, pc, fr.isSome⟩ }

/-! ### A partition cycle -/

/-- Whether an element still has a part to play at cycle p. -/
def Part.elemLives (q : Part) (el : Element) (p : Nat) : Bool :=
  el.refusedAt.isSome || decide (p ≤ max el.arrive el.se + max el.homeOffs.length el.tileOffs.length + 1) ||
    q.flits.any fun f => f.kind == .engine && f.job == el.id

/-- A partition at the beginning of its cycle p; what has arrived is no longer on its way. -/
def Part.beginCycle (q : Part) (p : Nat) : Part :=
  let q1 := { q with p := some p, stood := [], winWas := [], flits := q.flits.filter fun f => f.port.isSome || decide (p ≤ f.arrives) }
  { q1 with elems := q1.elems.filter fun e => q1.elemLives e p, edgeIn := q1.edgeIn.filter fun x => decide (q1.ss ≤ x.ss)
            linkDown := q1.linkDown.filter fun d => decide (q1.ss ≤ d.2 + 1) }

/-- What a tile's cores do first in cycle p: a hold that expires, the issue of slot p mod 4 of each core, and a slot of the
timetable that finds no instruction (R96, R144, R177). The access core issues first, so of two marks of one cycle its record is written first
(R193 gives no order; DESIGN CHOICE, log entry 108). -/
def State.issueActs (s : State) (q : Part) (p : Nat) (t : Coord) : List Act :=
  let tl := s.tile t
  let j := fin4 p
  let expires (k : Side) : Bool := match (tl.slot k j).hold with
    | none => false
    | some target => decide (target.toNat ≤ (q.tb + p) % 2 ^ 64)
  let offers (k : Side) : Bool := (tl.slot k j).live && ((tl.slot k j).hold.isNone || expires k) && !tl.lost && !tl.starting k j
  let side (k : Side) : List Act :=
    (if expires k then [.event (.holdExpiry t k j)] else []) ++ (if offers k then [.issue (.tile t k j)] else [])
  let missed : List Act := match q.place t p with
    | some pl => if offers .access || tl.lost then [] else [.event (.missedSlot t pl.index)]
    | none => []
  side .access ++ side .execute ++ missed

/-- The Turnstile, if cycle p ends a superstep: after everything else of the cycle, the loose accesses to its tiles included (R154,
R201, R202). -/
def Part.turnActs (q : Part) (p : Nat) : List Act :=
  match q.super with
  | some u => if p + 1 = u.b + u.c + u.x then [.event (.turnstile q.pid)] else []
  | none => []

/-- The clock of a partition: if it ticks in this module cycle, its next cycle begins, and what it wrote in the cycle before is
behind it; if not, a freeze that has been asked for takes effect at the end of the cycle that goes on (R150, R171, R202, R295). -/
def State.planStart (s : State) (pid : Nat) : State :=
  match s.part pid with
  | none => s
  | some q =>
    if q.form != .running then s
    else
      let s1 := s.modPart pid fun q => { q with tick := q.tick + 1 }
      if !ticks q.step q.tick then
        if q.freezing then { s1 with agenda := s1.agenda ++ [.plan .finish pid] } else s1
      else
        let p := match q.p with | none => 0 | some p => p + 1
        let s2 := { s1 with wrote := s1.wrote.filter fun a => !q.covers a }.modPart pid fun q => q.beginCycle p
        match s2.part pid with
        | none => s2
        | some q2 =>
          { s2 with agenda := q2.members.flatMap (s2.issueActs q2 p) ++ q2.releaseActs p ++ [.plan .mid pid] ++ s2.agenda ++
              q2.turnActs p ++ [.plan .finish pid] }

/-- The state after the issues of a cycle is kept if instructions of it are to be re-offered (R278). -/
def State.keepUndo (s : State) (q : Part) : State :=
  let now := s.snap q
  s.modPart q.pid fun q => { q with undo := if q.reoffer.isEmpty then none else some ⟨now, now, now, q.ss⟩ }

/-- The sends go on, then flits take their outputs and catches take their flits (R174, R181, R182). -/
def State.planMid (s : State) (pid : Nat) : State :=
  match s.part pid with
  | none => s
  | some q =>
    let s1 := q.members.foldl (fun s t => s.continueSends pid t q.cyc) (s.keepUndo q)
    match s1.part pid with
    | none => s1
    | some q1 =>
      let hops : List Act := (q1.claimants q.cyc).map fun c => .event (.flitHop pid c.id)
      let takes : List Act := (q.members.filter fun t => !(s1.tile t).catches.isEmpty).map fun t => .event (.catchFlitTake t)
      s1.first (hops ++ takes ++ [.plan .late pid])

/-- Channels, elements and reductions in cycle p (R241, R250, R259). -/
def State.engineActs (s : State) (q : Part) (p : Nat) : List Act :=
  let chans : List Act := q.members.flatMap fun t =>
    ((List.finRange 4).filter fun ch => (s.tile t).chans[ch].run.isSome).map fun ch => .event (.channelCommandStart (.tile t) ch)
  let homes : List Act := q.elems.map fun e => .event (.engineElementAtHome q.pid e.id)
  let nacks : List Act := (q.elems.filter fun e => e.refusedAt == some p).map fun e => .event (.engineRefusalArrival q.pid e.id)
  let puts := ((q.redWords.filter fun w => w.due == p && !w.key.get).map RedWord.key).eraseDups
  let gets := ((q.redWords.filter fun w => w.due == p && w.key.get).map fun w => (w.tile, w.key)) ++
    (q.redWaits.filter fun w => w.due == p && w.key.get).map fun w => (w.tile, w.key)
  chans ++ homes ++ nacks ++ puts.map (fun k => .event (.reductionCombinedArrival q.pid k)) ++
    gets.eraseDups.map fun g => .event (.ggetWordArrival g.1 g.2)

/-- Bank commands and read data in cycle p (R207, R209). -/
def State.bankActs (q : Part) (p : Nat) : List Act :=
  let cmds : List Act := match q.super with
    | none => []
    | some u =>
      (q.tt.bank.zipIdx.filter fun e => e.1.pe == u.pe && u.b + e.1.off == p).map fun e =>
        match e.1.cmd with
        | 0 => .event (.bankAct q.pid e.2)
        | 1 => .event (.bankRd q.pid e.2)
        | 2 => .event (.bankWr q.pid e.2)
        | _ => .event (.bankPre q.pid e.2)
  cmds ++ (q.reads.filter fun r => r.at' == p).map fun r => .event (.hbmReadData q.pid r.id)

/-- The router input by which a put or atomic reaches its home: north, east, south, west, local (R175, R227). -/
def Xact.input (x : Xact) : Nat :=
  match (claimsAlong none (route x.src x.home) 0 0 4).getLast? with
  | some c => c.2.inp
  | none => 4

/-- Puts and space-1 atomics that perform or are answered in cycle p, atomics in the order of their inputs (R183, R184,
R227). -/
def Part.xactActs (q : Part) (p : Nat) : List Act :=
  let now (f : Xact → Bool) : List Xact := q.xacts.filter f
  let due (x : Xact) : Bool := x.perform == p && !x.performed && !x.refused
  let amos := (now fun x => x.op != 0 && due x).mergeSort fun a b => decide (a.input ≤ b.input)
  (now fun x => x.op == 0 && due x).map (fun x => .event (.putPerform q.pid x.id)) ++
    (now fun x => x.op == 0 && x.answer == p).map (fun x => .event (.putAnswer q.pid x.id)) ++
    amos.map (fun x => .event (.amoPerform q.pid x.id)) ++
    (now fun x => x.op != 0 && x.answer == p).map fun x => .event (.amoAnswer q.pid x.id)

/-- The image transfers of a partition that are complete in cycle p. -/
def State.imageActs (s : State) (q : Part) (p : Nat) (add : Bool) : List Act :=
  (q.members.filter fun t => match (s.tile t).image with
    | some op => op.due == p && op.add == add
    | none => false).map fun t => .event (.imageTransferComplete t)

/-- Everything else of cycle p up to the effects at its end (R28, R129). -/
def State.planLate (s : State) (pid : Nat) : State :=
  match s.part pid with
  | none => s
  | some q =>
    let p := q.cyc
    let mmas : List Act := (q.members.filter fun t => match (s.tile t).mma with
      | some op => op.due == p
      | none => false).map fun t => .event (.mmaComplete t)
    s.first (s.engineActs q p ++ State.bankActs q p ++ s.imageActs q p false ++ q.xactActs p ++ [.event (.pendingEffectDue pid)] ++
      s.imageActs q p true ++ mmas ++ [.plan .close pid])

/-- The deliveries of a tile that wait or fall due. -/
def Tile.hasDeliveries (tl : Tile) : Bool :=
  (tl.pend.any fun e => match e.eff with | .delivery .. => true | _ => false) ||
    match tl.binding with | some b => !b.deferred.isEmpty | none => false

/-- The end of cycle p: deliveries, watchdogs, a troupe's intermission, and in cycle 0 the accesses held since the launch slot (R166,
R249, R292, R308). -/
def State.planClose (s : State) (pid : Nat) : State :=
  match s.part pid with
  | none => s
  | some q =>
    let p := q.cyc
    let deliveries : List Act := (q.members.filter fun t => (s.tile t).hasDeliveries).map fun t =>
      .event (.deferredDeliveryWrite pid (tileKey t))
    let dogs : List Act := q.members.flatMap fun t =>
      ([Side.access, .execute].filter fun k => ((s.tile t).core k).armed && ((s.tile t).core k).hbd == p + 1).map fun k =>
        .event (.heartbeat t k)
    let stop : List Act := if q.agreedQ = some (p + 1) then [.event (.troupeIntermissionFreeze pid)] else []
    s.first (deliveries ++ dogs ++ stop ++ if p = 0 then [.plan .held pid] else [])

/-- One stage of a partition cycle. -/
def State.plan (s : State) (st : Stage) (pid : Nat) : State :=
  match st with
  | .start => s.planStart pid
  | .mid => s.planMid pid
  | .late => s.planLate pid
  | .close => s.planClose pid
  | .held => s.performLaunchHeld pid
  | .finish => s.closeCycle pid
  | .resumed => s.endReissue pid

/-! ### A device cycle -/

/-- The hubs that may act: every one after bring-up, before it those that something has touched (R341). -/
def State.hubKeys (s : State) : List Nat := if s.ring.started then List.range 1024 else s.hubs.map (·.1)

/-- The hub of a key. -/
def State.hubOf (s : State) (k : Nat) : Hub := s.hub (k / 64) (k % 64)

/-- A hub that waits for something other than an answer or a message goes on once it has come (R145, R238, R241, R326). -/
def State.wakeHub (s : State) (k : Nat) : State :=
  let hb := s.hubOf k
  let wake (hb : Hub) : State := s.setHub (k / 64) (k % 64) { hb with wait := none }
  match hb.wait with
  | some .channel => wake hb
  | some (.fence k) => if s.fenceDone hb k then wake hb else s
  | some (.inval ids tags chans sel) =>
    if s.invalidated (k / 64) ids tags chans sel then wake { hb with answer := some (.ok [] false) } else s
  | _ => s

/-- The destination register of the read that a hub waits on. -/
def Hub.waitReg (hb : Hub) : RegNo :=
  match decode ((hb.ctx.fbuf.words.headD ⟨0, false⟩).w) with
  | .ok (.sysrd d _) => d
  | _ => 0

/-- What a hub does in a device cycle. Whether it issues in it is open (R145). -/
def State.hubActs (s : State) (k : Nat) : List Act :=
  let hb := s.hubOf k
  let d := k / 64
  let h := k % 64
  let pop : List Act := match hb.wait with
    | some .mailbox =>
      if s.messages.any fun m => m.atHub d h && !m.popped then [.event (.tmsgRead d h hb.waitReg)] else []
    | some .xmsg => if (s.popXmsg d).isSome then [.event (.xmsgRead d h hb.waitReg)] else []
    | _ => []
  let issue : List Act :=
    if hb.ctx.live && !hb.stopped && !hb.failed && hb.wait.isNone && Config.hubIssues (s.rmt * 1024 + k) then [.issue (.hub d h)] else []
  pop ++ issue ++ ((List.finRange 4).filter fun ch => hb.chans[ch].run.isSome).map fun ch => .event (.channelCommandStart (.hub d h) ch)

/-- The Ringmaster's events of a device cycle (R162, R164, R331, R334, R335, R337, R285). -/
def State.ringActs (s : State) : List Act :=
  let g := s.ring
  (g.remaps.filter fun m => decide (m.at' ≤ s.rmt)).map (fun m => .event (.remapDone m.die m.num)) ++
  (g.signing.filter fun e => decide (e.2.2.1 ≤ s.rmt) && !s.ringBusy g.sigbase (16384 * e.2.1) 16224).map (fun e => .event (.logSignatureDone e.1)) ++
  (if (s.messages.any fun m => m.level == 3 && !m.popped) || (!g.notices.isEmpty && s.noticeOpen) then [.event .noticeFlush] else []) ++
  (if g.latched && g.lost != 0 && g.logRoom then [.event .lostEventsRecord] else []) ++
  (s.messages.filter fun m => m.level == 3 && m.popped && decide (m.posted + 2 ^ 35 ≤ s.rmt)).map
    (fun m => .event (.chainExhaustion m.ticket)) ++
  (g.entries.filter fun e => !e.staged && decide (e.stagedAt ≤ s.rmt)).map (fun e => .event (.imageStaged e.lrec.seq)) ++
  (if g.started && s.rmt % 4096 == 0 then [.event .journalScan] else []) ++ (if g.started && s.rmt % 1024 == 0 then [.event .launchSlot] else [])

/-- The edge's events of a device cycle: the ends of QUIESCE and of tag verifications, and the flits that ports send (R354, R363, R364,
R367). -/
def State.edgeActs (s : State) : List Act :=
  let quiet : List Act := (s.edge.groups.filter fun e => e.2.state == .quiesce && decide (e.2.until' ≤ s.rmt)).map fun e =>
    .event (.drainBegin e.1)
  let tags : List Act := s.edge.ports.flatMap fun e =>
    (e.2.verifying.filter fun g => decide (g.at' ≤ s.rmt)).zipIdx.map fun g => .event (.tagVerify e.1 (e.2.rxctr.toNat + g.2))
  let ports : List Act := (s.edge.ports.filter fun e => s.flitDue e.1).map fun e =>
    if e.2.reducing && e.2.boundary && e.2.width == 2 then .event (.widthReduction ⟨e.1, false⟩) else .event (.linkFlitSend e.1)
  quiet ++ tags ++ ports

/-- The ends of DRAIN that may fall at the end of a device cycle (R367, R368). -/
def State.drainActs (s : State) : List Act :=
  (s.edge.groups.filter fun e => e.2.state == .quiesce || e.2.state == .drain).map fun e => .event (.drainEnd e.1)

/-- The freezes, restarts and starts that fall at a device cycle (R166, R305 to R308, R365). -/
def State.partActs (s : State) (q : Part) : List Act :=
  let victim := match s.ring.request with | some (i, v, _) => v.contains q.pid && decide (i ≤ s.rmt) | none => false
  let reached (o : Option Nat) : Bool := match o with | some t => decide (t ≤ s.rmt) | none => false
  let stop : List Act := if victim && !q.causes.contains 3 then [.event (.intermissionFreeze q.pid)] else []
  match q.form with
  | .running => stop
  | .launching => if q.t0 = s.rmt then [.event (.partitionStart q.pid)] else []
  | .restoring =>
    if q.restartAt = some s.rmt ∨ q.restartAt = some (s.rmt + q.lrec.restoreLead) then [.event (.restoredPartitionStart q.pid)] else []
  | .held =>
    stop ++ (if reached q.outAt then [.event (.writeOutComplete q.pid)] else []) ++
    (if s.rmt % 4 = 0 && reached (q.restartAt.map (· + 512)) then [.event (.restart q.pid)] else []) ++
    (if reached q.restartQ && q.causes.contains 4 then [.event (.troupeRestart q.pid)] else [])
  | .writtenOut => []

/-- An answer that comes back to a hub or a channel (R232, R249). -/
def Returning.acts (r : Returning) : List Act :=
  match r.src with
  | .hub d h => [.event (.hubAccessAnswer d h r.r)]
  | .channel _ _ id => [.event (.deadlineReplyArrival id r.r)]
  | .host | .cxl _ | .device .. => []

/-- Whether an input takes effect after the partitions' own cycles: a loose access that reaches a tile (R202). -/
def lateInput : Instr → Bool
  | .looseTileArrival .. => true
  | _ => false

/-- Whether a request stands open over another personality's protocol, in which this module does not speak, or over the host
port (R216, R351). -/
def State.foreign (s : State) (o : Outbound) : Bool := match o.group with | none => true | some g => (s.group g).pers != 0

/-- An answer that comes from outside completes the open request of its source; one that no such request waits for is dropped (R216,
R232; log entry 6). -/
def State.admitAnswer (s : State) (src : LooseSrc) (r : Reply) : State :=
  match s.edge.outbound.find? fun o => o.src == src && s.foreign o with
  | none => s
  | some o => { (s.dropOutbound o).noteRemote o r with agenda := s.agenda ++ (Returning.mk 0 src r).acts }

/-- What an input puts into the present device cycle. -/
def State.admitInput (s : State) (i : Instr) : State :=
  match i with
  | .hubAccessAnswer d h r => s.admitAnswer (.hub d h) r
  | .deadlineReplyArrival id r =>
    match s.edge.outbound.find? fun o => s.foreign o && match o.src with | .channel _ _ n => n == id | _ => false with
    | none => s
    | some o => s.admitAnswer o.src r
  | i => { s with agenda := s.agenda ++ [.event i] }

/-- Whether a word lies in a tile of a running partition. -/
def State.writing (s : State) (a : Nat) : Bool := s.parts.any fun q => q.form == .running && q.covers a

/-- A new device cycle: RMT advances, and everything that falls in it is put in order. Loose accesses to tiles, those among
them that name this device included, come after the effects of the partitions' cycles and before their freezes (R149, R159, R202, R215). -/
def State.beginCycle (s : State) : State :=
  let s0 : State := { s with rmt := (s.rmt + 1) % 2 ^ 64, cur := none, wrote := s.wrote.filter s.writing }
  let s1 := (s0.modRing fun g => { g with published := g.jtail.toNat }).groupLimits.finishCommands
  let s2 := (s1.parts.foldl (fun s q => s.settleXlate q) s1).settleResyncs
  let awake := s2.hubKeys.foldl State.wakeHub s2
  let now := awake.inputs.filter fun e => decide (e.1 ≤ awake.rmt)
  let s3 := (now.filter fun e => !lateInput e.2).foldl (fun s e => s.admitInput e.2) awake
  let late : List Act := (now.filter fun e => lateInput e.2).map fun e => .event e.2
  let back := s3.returning.filter fun r => decide (r.at' ≤ s3.rmt)
  let arriving := s3.flights.filter fun f => decide (f.at' ≤ s3.rmt)
  let toTile (f : Flight) : Bool := List.contains [1, 4, 5] (spaceOf f.a.addr)
  { s3 with
    inputs := s3.inputs.filter fun e => decide (s3.rmt < e.1)
    returning := s3.returning.filter fun r => decide (s3.rmt < r.at')
    agenda := s3.agenda ++ s3.ringActs ++ s3.edgeActs ++ s3.parts.flatMap s3.partActs ++ back.flatMap Returning.acts ++
      (arriving.filter fun f => !toTile f).map (fun f => .deliver f.id) ++ s3.hubKeys.flatMap s3.hubActs ++
      s3.parts.map (fun q => .plan .start q.pid) ++ late ++
      (arriving.filter toTile).map (fun f => .deliver f.id) ++ s3.drainActs }

end Sys2Proof.Machine
end

