-- ==== Sys2Proof/Machine/CapOps.lean ====
section
/-! DEFINITION. The capability instructions (R87 to R91). -/

namespace Sys2Proof.Machine

/-- A fault of a CAP form: INFO is the cursor of cA (R88). -/
def capFlt (code : Nat) (c : CReg) : Flt := { code := code, info := (capCur c.data).toNat }

/-- A CAP form whose checks answer its result (R88). -/
def capForm (i : Instr) (d : RegNo) (f : Cx → Chk CReg) (s : State) : Out :=
  issue i noPre (fun cx s =>
    match f cx with
    | .error e => .error e
    | .ok v => .ok (s.result cx d 1 v, .seq)) s

/-- cbnd's result: the narrowed capability, or its fault (R88, R89). -/
def cbndOf (c : CReg) (len : Nat) : Chk CReg :=
  let base := (capCur c.data).toNat
  let b := decodeBounds c.data
  let n := encodeBounds base (base + len) base
  if !c.tag then .error (capFlt fcCapTag c)
  else if sealed c.data then .error (capFlt fcCapPerm c)
  else if base + len > 2 ^ 64 ∨ n.base < b.1 ∨ b.2 < n.top then .error (capFlt fcCapBounds c)
  else .ok ⟨clearTop (withBounds c.data n.e n.bm n.lm), true⟩

/-- cperm's result (R88). -/
def cpermOf (c : CReg) (m : BitVec 12) : Chk CReg :=
  if !c.tag then .error (capFlt fcCapTag c)
  else if sealed c.data then .error (capFlt fcCapPerm c)
  else .ok ⟨clearTop (withPerm c.data (capPerm c.data &&& m)), true⟩

/-- The result of cinc and cset: the cursor moved (R88, R90). -/
def moveOf (c : CReg) (cur : DWord) : Chk CReg :=
  if c.tag && sealed c.data then .error (capFlt fcCapPerm c) else .ok (moveCursor c cur)

/-- The checks and the result of cseal and cunseal (R91). -/
def sealOf (on : Bool) (c auth : CReg) : Chk CReg :=
  let b := decodeBounds c.data
  let ab := decodeBounds auth.data
  if !c.tag then .error (capFlt fcCapTag c)
  else if !auth.tag then .error (capFlt fcCapTag c)
  else if sealed auth.data then .error (capFlt fcCapPerm c)
  else if !hasPerm auth.data (if on then pSEAL else pUNSEAL) then .error (capFlt fcCapPerm c)
  else if sealed c.data == on then .error (capFlt fcCapPerm c)
  else if b.1 < ab.1 ∨ ab.2 < b.2 then .error (capFlt fcCapBounds c)
  else .ok ⟨clearTop (withPerm c.data (if on then capPerm c.data ||| pSLD else capPerm c.data &&& ~~~pSLD)), true⟩

/-- A cget form (R88). -/
def cgetForm (i : Instr) (d a : RegNo) (f : CReg → Quad) (s : State) : Out :=
  issueResult i d 1 (fun cx => .plain (f (cx.read a))) s

/-- cbnd (R89). -/
def execCbnd (d a b : RegNo) (s : State) : Out :=
  capForm (.cbnd d a b) d (fun cx => cbndOf (cx.read a) ((cx.data b).toNat % 2 ^ 64)) s
/-- cperm (R88). -/
def execCperm (d a b : RegNo) (s : State) : Out :=
  capForm (.cperm d a b) d (fun cx => cpermOf (cx.read a) ((cx.data b).setWidth 12)) s
/-- cinc (R90). -/
def execCinc (d a b : RegNo) (s : State) : Out :=
  capForm (.cinc d a b) d (fun cx => moveOf (cx.read a) (capCur (cx.data a) + (cx.data b).setWidth 64)) s
/-- cset (R90). -/
def execCset (d a b : RegNo) (s : State) : Out :=
  capForm (.cset d a b) d (fun cx => moveOf (cx.read a) ((cx.data b).setWidth 64)) s
/-- cinc with an immediate (R90). -/
def execCincImm (d a : RegNo) (imm : BitVec 16) (s : State) : Out :=
  capForm (.cincImm d a imm) d (fun cx => moveOf (cx.read a) (capCur (cx.data a) + imm.signExtend 64)) s
/-- cseal (R91). -/
def execCseal (d a b : RegNo) (s : State) : Out :=
  capForm (.cseal d a b) d (fun cx => sealOf true (cx.read a) (cx.read b)) s
/-- cunseal (R91). -/
def execCunseal (d a b : RegNo) (s : State) : Out :=
  capForm (.cunseal d a b) d (fun cx => sealOf false (cx.read a) (cx.read b)) s
/-- cget.base (R88). -/
def execCgetBase (d a : RegNo) (s : State) : Out :=
  cgetForm (.cgetBase d a) d a (fun c => BitVec.ofNat 128 ((decodeBounds c.data).1 % 2 ^ 64)) s
/-- cget.len (R88). -/
def execCgetLen (d a : RegNo) (s : State) : Out :=
  cgetForm (.cgetLen d a) d a (fun c => BitVec.ofNat 128 ((decodeBounds c.data).2 - (decodeBounds c.data).1)) s
/-- cget.perm (R88). -/
def execCgetPerm (d a : RegNo) (s : State) : Out := cgetForm (.cgetPerm d a) d a (fun c => (capPerm c.data).setWidth 128) s
/-- cget.tag (R88). -/
def execCgetTag (d a : RegNo) (s : State) : Out := cgetForm (.cgetTag d a) d a (fun c => boolQ c.tag) s
/-- cget.cur (R88). -/
def execCgetCur (d a : RegNo) (s : State) : Out := cgetForm (.cgetCur d a) d a (fun c => (capCur c.data).setWidth 128) s

end Sys2Proof.Machine
end

