-- ==== Sys2Proof/Machine/Control.lean ====
section
/-! DEFINITION. The control instructions and repeat frames (R92 to R97, R118 to R121). -/

namespace Sys2Proof.Machine

/-- A conditional branch (R92). -/
def branch (i : Instr) (c : BrCond) (a b : RegNo) (off : BitVec 16) (s : State) : Out :=
  issue i noPre (fun cx s =>
    .ok (s, if c.taken (cx.data a) (cx.data b) then .jump (movePcc cx.slot.pcc (branchTarget cx.pc off)) else .seq)) s

/-- Partition time of a cycle for the issuing context (R150, R151). -/
def Cx.time (cx : Cx) : Nat :=
  match cx.wh with
  | .tile _ _ _ _ q => (q.tb + cx.n) % 2 ^ 64
  | .hub .. => cx.n

/-- The issuing tile slot's loop state set. -/
def State.setLoop (s : State) (cx : Cx) (l : LoopSt) : State := s.modCtx cx fun sl => { sl with loop := l }

/-- beq (R92). -/
def execBeq (a b : RegNo) (off : BitVec 16) (s : State) : Out := branch (.beq a b off) .eq a b off s
/-- bne (R92). -/
def execBne (a b : RegNo) (off : BitVec 16) (s : State) : Out := branch (.bne a b off) .ne a b off s
/-- blt (R92). -/
def execBlt (a b : RegNo) (off : BitVec 16) (s : State) : Out := branch (.blt a b off) .lt a b off s
/-- bge (R92). -/
def execBge (a b : RegNo) (off : BitVec 16) (s : State) : Out := branch (.bge a b off) .ge a b off s
/-- bltu (R92). -/
def execBltu (a b : RegNo) (off : BitVec 16) (s : State) : Out := branch (.bltu a b off) .ltu a b off s
/-- bgeu (R92). -/
def execBgeu (a b : RegNo) (off : BitVec 16) (s : State) : Out := branch (.bgeu a b off) .geu a b off s
/-- loop: LS, LE and LC set, or a jump past an empty loop; a loop already active raises ILLEGAL (R95).
DESIGN CHOICE: an empty loop leaves LC 0, of which R95 is silent (log entry 101). -/
def execLoop (a : RegNo) (imm : BitVec 16) (s : State) : Out :=
  issue (.loop a imm) noPre (fun cx s =>
    let n := (cx.data a).setWidth 32
    let ls := cx.pc + 4
    let le := ls + BitVec.ofNat 64 (4 * imm.toNat)
    if cx.slot.loop.active then .error { code := fcIllegal }
    else if n = 0 then .ok (s.setLoop cx ⟨ls, le, 0, false⟩, .jump (movePcc cx.slot.pcc le))
    else .ok (s.setLoop cx ⟨ls, le, n, true⟩, .enter)) s
/-- j (R93). -/
def execJ (off : BitVec 26) (s : State) : Out :=
  issue (.j off) noPre (fun cx s => .ok (s, .jump (movePcc cx.slot.pcc (jumpTarget cx.pc off)))) s
/-- jl: the link capability goes to c30 at the end of the turn (R93). -/
def execJl (off : BitVec 26) (s : State) : Out :=
  issue (.jl off) noPre (fun cx s =>
    .ok (s.result cx 30 1 (moveCursor cx.slot.pcc (cx.pc + 4)), .jump (movePcc cx.slot.pcc (jumpTarget cx.pc off)))) s
/-- nop (R97). -/
def execNop (s : State) : Out := issue .nop noPre (fun _ s => .ok (s, .seq)) s
/-- jr (R94). -/
def execJr (a : RegNo) (s : State) : Out := issue (.jr a) noPre (fun cx s => .ok (s, .jump (enterCap (cx.read a)))) s
/-- hold: no issue before partition time t; t in the past raises SLIP_LATE (R96). -/
def execHold (a : RegNo) (s : State) : Out :=
  issue (.hold a) noPre (fun cx s =>
    let t : DWord := (cx.data a).setWidth 64
    if t.toNat < cx.time then .error { code := fcSlipLate, reason := rsHold, info := t.toNat }
    else .ok (s.modCtx cx fun sl => { sl with hold := some t }, .seq)) s

/-- The first turn of a held slot at or after its target ends the hold (R96). -/
def execHoldExpiry (t : Coord) (k : Side) (slot : Fin 4) (s : State) : Out :=
  match s.partOf t with
  | none => .next s
  | some q =>
    match ((s.tile t).slot k slot).hold with
    | none => .next s
    | some target =>
      if q.cyc % 4 = slot.val ∧ target.toNat ≤ (q.tb + q.cyc) % 2 ^ 64 then
        .next (s.modTile t fun tl => tl.setSlot k slot { tl.slot k slot with hold := none })
      else .next s

/-- rep: the frame buffer is taken for n iterations of len words (R118 to R121). A held frame buffer is found before a frame that reaches
past LE, an order that the manual leaves open (DESIGN CHOICE, log entry 31). -/
def execRep (n : BitVec 8) (len : BitVec 4) (ds as bs es : BitVec 3) (s : State) : Out :=
  issue (.rep n len ds as bs es) noPre (fun cx s =>
    match cx.wh with
    | .hub .. => .error { code := fcIllegal }
    | .tile t k j tl _ =>
      let ln := len.toNat + 1
      let last := cx.pc + BitVec.ofNat 64 (4 * ln)
      if (tl.core k).frame.isSome then .error { code := fcIllegalInFrame }
      else if cx.slot.loop.active && cx.slot.loop.inside cx.pc && decide (cx.slot.loop.le.toNat ≤ last.toNat) then
        .error { code := fcIllegal }
      else
        .ok (s.modTile t fun tl =>
          tl.setCore k { tl.core k with
            frame := some { owner := j, base := cx.pc + 4, words := [], n := n.toNat + 1, len := ln, ds := ds.toNat,
                            as := as.toNat, bs := bs.toNat, es := es.toNat, i := 0, j := 0 } }, .enter)) s

end Sys2Proof.Machine
end

