-- ==== Sys2Proof/Machine/Integer.lean ====
section
/-! DEFINITION. The integer instructions (R83 to R86). -/

namespace Sys2Proof.Machine

/-- An INT register form: int_op of two registers, tag 0 (R84). -/
def intReg (i : Instr) (f : IntFn) (lat : Nat) (d a b : RegNo) (s : State) : Out :=
  issueResult i d lat (fun cx => .plain (intOp f (cx.data a) (cx.data b))) s

/-- An INT form with one source register (R84). -/
def intUn (i : Instr) (f : Quad → Quad) (d a : RegNo) (s : State) : Out :=
  issueResult i d 1 (fun cx => .plain (f (cx.data a))) s

/-- An INT immediate form: int_op with the extended immediate (R85). -/
def intImm (i : Instr) (f : IntFn) (d a : RegNo) (y : Quad) (s : State) : Out :=
  issueResult i d 1 (fun cx => .plain (intOp f (cx.data a) y)) s

/-- add (R84). -/
def execAdd (d a b : RegNo) (s : State) : Out := intReg (.add d a b) .add 1 d a b s
/-- sub (R84). -/
def execSub (d a b : RegNo) (s : State) : Out := intReg (.sub d a b) .sub 1 d a b s
/-- and (R84). -/
def execAnd (d a b : RegNo) (s : State) : Out := intReg (.and d a b) .and 1 d a b s
/-- or (R84). -/
def execOr (d a b : RegNo) (s : State) : Out := intReg (.or d a b) .or 1 d a b s
/-- xor (R84). -/
def execXor (d a b : RegNo) (s : State) : Out := intReg (.xor d a b) .xor 1 d a b s
/-- andn (R84). -/
def execAndn (d a b : RegNo) (s : State) : Out := intReg (.andn d a b) .andn 1 d a b s
/-- sll (R84). -/
def execSll (d a b : RegNo) (s : State) : Out := intReg (.sll d a b) .sll 1 d a b s
/-- srl (R84). -/
def execSrl (d a b : RegNo) (s : State) : Out := intReg (.srl d a b) .srl 1 d a b s
/-- sra (R84). -/
def execSra (d a b : RegNo) (s : State) : Out := intReg (.sra d a b) .sra 1 d a b s
/-- rol (R84). -/
def execRol (d a b : RegNo) (s : State) : Out := intReg (.rol d a b) .rol 1 d a b s
/-- slt (R84). -/
def execSlt (d a b : RegNo) (s : State) : Out := intReg (.slt d a b) .slt 1 d a b s
/-- sltu (R84). -/
def execSltu (d a b : RegNo) (s : State) : Out := intReg (.sltu d a b) .sltu 1 d a b s
/-- min (R84). -/
def execMin (d a b : RegNo) (s : State) : Out := intReg (.min d a b) .min 1 d a b s
/-- max (R84). -/
def execMax (d a b : RegNo) (s : State) : Out := intReg (.max d a b) .max 1 d a b s
/-- minu (R84). -/
def execMinu (d a b : RegNo) (s : State) : Out := intReg (.minu d a b) .minu 1 d a b s
/-- maxu (R84). -/
def execMaxu (d a b : RegNo) (s : State) : Out := intReg (.maxu d a b) .maxu 1 d a b s
/-- mul (R84). -/
def execMul (d a b : RegNo) (s : State) : Out := intReg (.mul d a b) .mul 2 d a b s
/-- mulh (R84). -/
def execMulh (d a b : RegNo) (s : State) : Out := intReg (.mulh d a b) .mulh 2 d a b s
/-- mulhu (R84). -/
def execMulhu (d a b : RegNo) (s : State) : Out := intReg (.mulhu d a b) .mulhu 2 d a b s
/-- div (R84). -/
def execDiv (d a b : RegNo) (s : State) : Out := intReg (.div d a b) .div 8 d a b s
/-- divu (R84). -/
def execDivu (d a b : RegNo) (s : State) : Out := intReg (.divu d a b) .divu 8 d a b s
/-- rem (R84). -/
def execRem (d a b : RegNo) (s : State) : Out := intReg (.rem d a b) .rem 8 d a b s
/-- remu (R84). -/
def execRemu (d a b : RegNo) (s : State) : Out := intReg (.remu d a b) .remu 8 d a b s
/-- clz (R84). -/
def execClz (d a : RegNo) (s : State) : Out := intUn (.clz d a) clzQ d a s
/-- ctz (R84). -/
def execCtz (d a : RegNo) (s : State) : Out := intUn (.ctz d a) ctzQ d a s
/-- pop (R84). -/
def execPop (d a : RegNo) (s : State) : Out := intUn (.pop d a) popQ d a s
/-- sext (R84). -/
def execSext (d a : RegNo) (wd : VTy) (s : State) : Out :=
  intUn (.sext d a wd) (fun x => sextQ x (widthBits wd)) d a s
/-- zext (R84). -/
def execZext (d a : RegNo) (wd : VTy) (s : State) : Out :=
  intUn (.zext d a wd) (fun x => zextQ x (widthBits wd)) d a s
/-- addi (R85). -/
def execAddi (d a : RegNo) (imm : BitVec 16) (s : State) : Out := intImm (.addi d a imm) .add d a (immS imm) s
/-- andi (R85). -/
def execAndi (d a : RegNo) (imm : BitVec 16) (s : State) : Out := intImm (.andi d a imm) .and d a (immZ imm) s
/-- ori (R85). -/
def execOri (d a : RegNo) (imm : BitVec 16) (s : State) : Out := intImm (.ori d a imm) .or d a (immZ imm) s
/-- xori (R85). -/
def execXori (d a : RegNo) (imm : BitVec 16) (s : State) : Out := intImm (.xori d a imm) .xor d a (immZ imm) s
/-- slti (R85). -/
def execSlti (d a : RegNo) (imm : BitVec 16) (s : State) : Out := intImm (.slti d a imm) .slt d a (immS imm) s
/-- sltui (R85). -/
def execSltui (d a : RegNo) (imm : BitVec 16) (s : State) : Out := intImm (.sltui d a imm) .sltu d a (immS imm) s
/-- slli (R85). -/
def execSlli (d a : RegNo) (sh : BitVec 7) (s : State) : Out := intImm (.slli d a sh) .sll d a (immSh sh) s
/-- srli (R85). -/
def execSrli (d a : RegNo) (sh : BitVec 7) (s : State) : Out := intImm (.srli d a sh) .srl d a (immSh sh) s
/-- srai (R85). -/
def execSrai (d a : RegNo) (sh : BitVec 7) (s : State) : Out := intImm (.srai d a sh) .sra d a (immSh sh) s
/-- lhi (R86). -/
def execLhi (d : RegNo) (imm : BitVec 21) (s : State) : Out := issueResult (.lhi d imm) d 1 (fun _ => .plain (lhiQ imm)) s

end Sys2Proof.Machine
end

