-- ==== Sys2Proof/Machine/Vector.lean ====
section
/-! DEFINITION. The packed vector, special-function, conversion and block-scale instructions (R103 to R117). -/

namespace Sys2Proof.Machine

/-- A vector form with no check of its own: its result with tag 0 and its flags, after `lat` turns (R103). -/
def vecForm (i : Instr) (d : RegNo) (lat : Nat) (f : Cx → Quad × FlagSet) (s : State) : Out :=
  issue i noPre (fun cx s =>
    let r := f cx
    .ok ((s.result cx d lat (.plain r.1)).flags cx lat r.2, .seq)) s

/-- A rounding form: it reads fm.RM, and a reserved mode raises FORMAT (R104), after SLIP_LATE for a c29 destination without a place in
SQ, an order that the manual leaves open (DESIGN CHOICE, log entry 31). -/
def roundForm (i : Instr) (d : RegNo) (lat : Nat) (f : Cx → RMode → Quad × FlagSet) (s : State) : Out :=
  issue i noPre (fun cx s =>
    match rmode (fmRM cx.slot.fm) with
    | none => .error { code := fcFormat }
    | some rm =>
      let r := f cx rm
      .ok ((s.result cx d lat (.plain r.1)).flags cx lat r.2, .seq)) s

/-- Lane results that raise no flag. -/
def plainLane (f : Elem → Nat → Nat) (e : Elem) (a : Nat) : Nat × FlagSet := pureLane (f e a)

/-- fsel on codes (R107). -/
def selCodes (f : Elem) (a b e : Nat) : Nat × FlagSet :=
  pureLane (copyCode f (if e / 2 ^ (f.width - 1) % 2 = 1 then a else b))

/-- fadd (R106). -/
def execFadd (d a b : RegNo) (ty : FTy) (s : State) : Out :=
  roundForm (.fadd d a b ty) d 2 (fun cx rm => mapF2 ty (addCodes (laneElem ty) rm) (cx.data a) (cx.data b)) s
/-- fsub (R106). -/
def execFsub (d a b : RegNo) (ty : FTy) (s : State) : Out :=
  roundForm (.fsub d a b ty) d 2 (fun cx rm => mapF2 ty (subCodes (laneElem ty) rm) (cx.data a) (cx.data b)) s
/-- fmul (R106). -/
def execFmul (d a b : RegNo) (ty : FTy) (s : State) : Out :=
  roundForm (.fmul d a b ty) d 2 (fun cx rm => mapF2 ty (mulCodes (laneElem ty) rm) (cx.data a) (cx.data b)) s
/-- fma (R106). -/
def execFma (d a b e : RegNo) (ty : FTy) (s : State) : Out :=
  roundForm (.fma d a b e ty) d 2
    (fun cx rm => mapF3 ty (fusedCodes false (laneElem ty) rm) (cx.data a) (cx.data b) (cx.data e)) s
/-- fms (R106). -/
def execFms (d a b e : RegNo) (ty : FTy) (s : State) : Out :=
  roundForm (.fms d a b e ty) d 2
    (fun cx rm => mapF3 ty (fusedCodes true (laneElem ty) rm) (cx.data a) (cx.data b) (cx.data e)) s
/-- fmin (R107). -/
def execFmin (d a b : RegNo) (ty : FTy) (s : State) : Out :=
  vecForm (.fmin d a b ty) d 2
    (fun cx => mapF2 ty (fun x y => pureLane (minMaxCodes false (laneElem ty) x y)) (cx.data a) (cx.data b)) s
/-- fmax (R107). -/
def execFmax (d a b : RegNo) (ty : FTy) (s : State) : Out :=
  vecForm (.fmax d a b ty) d 2
    (fun cx => mapF2 ty (fun x y => pureLane (minMaxCodes true (laneElem ty) x y)) (cx.data a) (cx.data b)) s
/-- fabs (R107). -/
def execFabs (d a : RegNo) (ty : FTy) (s : State) : Out :=
  vecForm (.fabs d a ty) d 2 (fun cx => mapF ty (fun x => pureLane (absCode (laneElem ty) x)) (cx.data a)) s
/-- fneg (R107). -/
def execFneg (d a : RegNo) (ty : FTy) (s : State) : Out :=
  vecForm (.fneg d a ty) d 2 (fun cx => mapF ty (fun x => pureLane (negCode (laneElem ty) x)) (cx.data a)) s
/-- fcmpEq (R107). -/
def execFcmpEq (d a b : RegNo) (ty : FTy) (s : State) : Out :=
  vecForm (.fcmpEq d a b ty) d 2 (fun cx => mapF2 ty (cmpCodes .eq (laneElem ty)) (cx.data a) (cx.data b)) s
/-- fcmpLt (R107). -/
def execFcmpLt (d a b : RegNo) (ty : FTy) (s : State) : Out :=
  vecForm (.fcmpLt d a b ty) d 2 (fun cx => mapF2 ty (cmpCodes .lt (laneElem ty)) (cx.data a) (cx.data b)) s
/-- fcmpLe (R107). -/
def execFcmpLe (d a b : RegNo) (ty : FTy) (s : State) : Out :=
  vecForm (.fcmpLe d a b ty) d 2 (fun cx => mapF2 ty (cmpCodes .le (laneElem ty)) (cx.data a) (cx.data b)) s
/-- fsel (R107). -/
def execFsel (d a b e : RegNo) (ty : FTy) (s : State) : Out :=
  vecForm (.fsel d a b e ty) d 2 (fun cx => mapF3 ty (selCodes (laneElem ty)) (cx.data a) (cx.data b) (cx.data e)) s
/-- vsum (R108). -/
def execVsum (d a : RegNo) (ty : FTy) (s : State) : Out :=
  roundForm (.vsum d a ty) d 2 (fun cx rm => vsumQ ty rm (cx.data a)) s
/-- vmaxr (R108). -/
def execVmaxr (d a : RegNo) (ty : FTy) (s : State) : Out :=
  vecForm (.vmaxr d a ty) d 2 (fun cx => (vfoldQ true ty (cx.data a), flNone)) s
/-- vminr (R108). -/
def execVminr (d a : RegNo) (ty : FTy) (s : State) : Out :=
  vecForm (.vminr d a ty) d 2 (fun cx => (vfoldQ false ty (cx.data a), flNone)) s

/-- A VSF form: one function of each lane's value, SR rounding as RNE (R104, R109, R110). -/
def specialForm (i : Instr) (d a : RegNo) (ty : FTy) (f : Elem → RMode → FVal → Nat × FlagSet) (s : State) : Out :=
  roundForm i d 4 (fun cx rm => mapF ty (fun x => f (laneElem ty) rm.noSR ((laneElem ty).decode x)) (cx.data a)) s

/-- frcp (R109). -/
def execFrcp (d a : RegNo) (ty : FTy) (s : State) : Out := specialForm (.frcp d a ty) d a ty (specialLane .rcp) s
/-- frsq (R109). -/
def execFrsq (d a : RegNo) (ty : FTy) (s : State) : Out := specialForm (.frsq d a ty) d a ty (specialLane .rsq) s
/-- fsqrt (R109). -/
def execFsqrt (d a : RegNo) (ty : FTy) (s : State) : Out := specialForm (.fsqrt d a ty) d a ty (specialLane .sqrt) s
/-- fex2 (R109). -/
def execFex2 (d a : RegNo) (ty : FTy) (s : State) : Out := specialForm (.fex2 d a ty) d a ty (specialLane .ex2) s
/-- flg2 (R109). -/
def execFlg2 (d a : RegNo) (ty : FTy) (s : State) : Out := specialForm (.flg2 d a ty) d a ty (specialLane .lg2) s
/-- fsin (R110). -/
def execFsin (d a : RegNo) (ty : FTy) (s : State) : Out := specialForm (.fsin d a ty) d a ty (trigLane true) s
/-- fcos (R110). -/
def execFcos (d a : RegNo) (ty : FTy) (s : State) : Out := specialForm (.fcos d a ty) d a ty (trigLane false) s

/-- A VINT form: it raises no flag (R111). -/
def intVec (i : Instr) (d : RegNo) (lat : Nat) (f : Cx → Quad) (s : State) : Out :=
  issueResult i d lat (fun cx => .plain (f cx)) s

/-- vadd (R111). -/
def execVadd (d a b : RegNo) (ty : VTy) (s : State) : Out :=
  intVec (.vadd d a b ty) d 1 (fun cx => mapV ty (fun _ x y => x + y) (cx.data a) (cx.data b)) s
/-- vsub (R111). -/
def execVsub (d a b : RegNo) (ty : VTy) (s : State) : Out :=
  intVec (.vsub d a b ty) d 1 (fun cx => mapV ty laneSub (cx.data a) (cx.data b)) s
/-- vmul (R111). -/
def execVmul (d a b : RegNo) (ty : VTy) (s : State) : Out :=
  intVec (.vmul d a b ty) d 2 (fun cx => mapV ty (fun _ x y => x * y) (cx.data a) (cx.data b)) s
/-- vmin (R111). -/
def execVmin (d a b : RegNo) (ty : VTy) (s : State) : Out :=
  intVec (.vmin d a b ty) d 1 (fun cx => mapV ty laneMin (cx.data a) (cx.data b)) s
/-- vmax (R111). -/
def execVmax (d a b : RegNo) (ty : VTy) (s : State) : Out :=
  intVec (.vmax d a b ty) d 1 (fun cx => mapV ty laneMax (cx.data a) (cx.data b)) s
/-- vand (R111). -/
def execVand (d a b : RegNo) (ty : VTy) (s : State) : Out :=
  intVec (.vand d a b ty) d 1 (fun cx => mapV ty (fun _ x y => x &&& y) (cx.data a) (cx.data b)) s
/-- vor (R111). -/
def execVor (d a b : RegNo) (ty : VTy) (s : State) : Out :=
  intVec (.vor d a b ty) d 1 (fun cx => mapV ty (fun _ x y => x ||| y) (cx.data a) (cx.data b)) s
/-- vxor (R111). -/
def execVxor (d a b : RegNo) (ty : VTy) (s : State) : Out :=
  intVec (.vxor d a b ty) d 1 (fun cx => mapV ty (fun _ x y => x ^^^ y) (cx.data a) (cx.data b)) s
/-- vshl (R111). -/
def execVshl (d a b : RegNo) (ty : VTy) (s : State) : Out :=
  intVec (.vshl d a b ty) d 1 (fun cx => mapV ty laneShl (cx.data a) (cx.data b)) s
/-- vsra (R111). -/
def execVsra (d a b : RegNo) (ty : VTy) (s : State) : Out :=
  intVec (.vsra d a b ty) d 1 (fun cx => mapV ty laneSra (cx.data a) (cx.data b)) s
/-- vperm (R111). -/
def execVperm (d a b : RegNo) (ty : VTy) (s : State) : Out :=
  intVec (.vperm d a b ty) d 1 (fun cx => vpermQ ty (cx.data a) (cx.data b)) s
/-- vbcast (R111). -/
def execVbcast (d a : RegNo) (idx : BitVec 5) (ty : VTy) (s : State) : Out :=
  intVec (.vbcast d a idx ty) d 1 (fun cx => vbcastQ ty (cx.data a) idx.toNat) s

end Sys2Proof.Machine
end

