-- ==== Sys2Proof/Machine/Dispatch.lean ====
section
/-! DEFINITION. The dispatch: one arm per constructor of `Instr`. -/

namespace Sys2Proof.Machine

def exec (i : Instr) (s : State) : Host.Outcome State Fault Refusal :=
  match i with
  | .add d a b => Sys2Proof.Machine.execAdd d a b s
  | .sub d a b => Sys2Proof.Machine.execSub d a b s
  | .and d a b => Sys2Proof.Machine.execAnd d a b s
  | .or d a b => Sys2Proof.Machine.execOr d a b s
  | .xor d a b => Sys2Proof.Machine.execXor d a b s
  | .andn d a b => Sys2Proof.Machine.execAndn d a b s
  | .sll d a b => Sys2Proof.Machine.execSll d a b s
  | .srl d a b => Sys2Proof.Machine.execSrl d a b s
  | .sra d a b => Sys2Proof.Machine.execSra d a b s
  | .rol d a b => Sys2Proof.Machine.execRol d a b s
  | .slt d a b => Sys2Proof.Machine.execSlt d a b s
  | .sltu d a b => Sys2Proof.Machine.execSltu d a b s
  | .min d a b => Sys2Proof.Machine.execMin d a b s
  | .max d a b => Sys2Proof.Machine.execMax d a b s
  | .minu d a b => Sys2Proof.Machine.execMinu d a b s
  | .maxu d a b => Sys2Proof.Machine.execMaxu d a b s
  | .mul d a b => Sys2Proof.Machine.execMul d a b s
  | .mulh d a b => Sys2Proof.Machine.execMulh d a b s
  | .mulhu d a b => Sys2Proof.Machine.execMulhu d a b s
  | .div d a b => Sys2Proof.Machine.execDiv d a b s
  | .divu d a b => Sys2Proof.Machine.execDivu d a b s
  | .rem d a b => Sys2Proof.Machine.execRem d a b s
  | .remu d a b => Sys2Proof.Machine.execRemu d a b s
  | .clz d a => Sys2Proof.Machine.execClz d a s
  | .ctz d a => Sys2Proof.Machine.execCtz d a s
  | .pop d a => Sys2Proof.Machine.execPop d a s
  | .sext d a wd => Sys2Proof.Machine.execSext d a wd s
  | .zext d a wd => Sys2Proof.Machine.execZext d a wd s
  | .addi d a imm => Sys2Proof.Machine.execAddi d a imm s
  | .andi d a imm => Sys2Proof.Machine.execAndi d a imm s
  | .ori d a imm => Sys2Proof.Machine.execOri d a imm s
  | .xori d a imm => Sys2Proof.Machine.execXori d a imm s
  | .slti d a imm => Sys2Proof.Machine.execSlti d a imm s
  | .sltui d a imm => Sys2Proof.Machine.execSltui d a imm s
  | .slli d a sh => Sys2Proof.Machine.execSlli d a sh s
  | .srli d a sh => Sys2Proof.Machine.execSrli d a sh s
  | .srai d a sh => Sys2Proof.Machine.execSrai d a sh s
  | .lhi d imm => Sys2Proof.Machine.execLhi d imm s
  | .cbnd d a b => Sys2Proof.Machine.execCbnd d a b s
  | .cperm d a b => Sys2Proof.Machine.execCperm d a b s
  | .cinc d a b => Sys2Proof.Machine.execCinc d a b s
  | .cset d a b => Sys2Proof.Machine.execCset d a b s
  | .cgetBase d a => Sys2Proof.Machine.execCgetBase d a s
  | .cgetLen d a => Sys2Proof.Machine.execCgetLen d a s
  | .cgetPerm d a => Sys2Proof.Machine.execCgetPerm d a s
  | .cgetTag d a => Sys2Proof.Machine.execCgetTag d a s
  | .cgetCur d a => Sys2Proof.Machine.execCgetCur d a s
  | .cseal d a b => Sys2Proof.Machine.execCseal d a b s
  | .cunseal d a b => Sys2Proof.Machine.execCunseal d a b s
  | .cincImm d a imm => Sys2Proof.Machine.execCincImm d a imm s
  | .beq a b off => Sys2Proof.Machine.execBeq a b off s
  | .bne a b off => Sys2Proof.Machine.execBne a b off s
  | .blt a b off => Sys2Proof.Machine.execBlt a b off s
  | .bge a b off => Sys2Proof.Machine.execBge a b off s
  | .bltu a b off => Sys2Proof.Machine.execBltu a b off s
  | .bgeu a b off => Sys2Proof.Machine.execBgeu a b off s
  | .loop a imm => Sys2Proof.Machine.execLoop a imm s
  | .j off => Sys2Proof.Machine.execJ off s
  | .jl off => Sys2Proof.Machine.execJl off s
  | .nop => Sys2Proof.Machine.execNop s
  | .jr a => Sys2Proof.Machine.execJr a s
  | .hold a => Sys2Proof.Machine.execHold a s
  | .holdExpiry t k slot => Sys2Proof.Machine.execHoldExpiry t k slot s
  | .ldB d a off => Sys2Proof.Machine.execLdB d a off s
  | .ldBu d a off => Sys2Proof.Machine.execLdBu d a off s
  | .ldH d a off => Sys2Proof.Machine.execLdH d a off s
  | .ldHu d a off => Sys2Proof.Machine.execLdHu d a off s
  | .ldW d a off => Sys2Proof.Machine.execLdW d a off s
  | .ldD d a off => Sys2Proof.Machine.execLdD d a off s
  | .ldQ d a off => Sys2Proof.Machine.execLdQ d a off s
  | .ldC d a off => Sys2Proof.Machine.execLdC d a off s
  | .ldFe d a off => Sys2Proof.Machine.execLdFe d a off s
  | .ldbQ d a off => Sys2Proof.Machine.execLdbQ d a off s
  | .ldLq a off => Sys2Proof.Machine.execLdLq a off s
  | .stB d a off => Sys2Proof.Machine.execStB d a off s
  | .stH d a off => Sys2Proof.Machine.execStH d a off s
  | .stW d a off => Sys2Proof.Machine.execStW d a off s
  | .stD d a off => Sys2Proof.Machine.execStD d a off s
  | .stQ d a off => Sys2Proof.Machine.execStQ d a off s
  | .stC d a off => Sys2Proof.Machine.execStC d a off s
  | .stFe d a off => Sys2Proof.Machine.execStFe d a off s
  | .stbQ d a off => Sys2Proof.Machine.execStbQ d a off s
  | .stSq a off => Sys2Proof.Machine.execStSq a off s
  | .fadd d a b ty => Sys2Proof.Machine.execFadd d a b ty s
  | .fsub d a b ty => Sys2Proof.Machine.execFsub d a b ty s
  | .fmul d a b ty => Sys2Proof.Machine.execFmul d a b ty s
  | .fma d a b e ty => Sys2Proof.Machine.execFma d a b e ty s
  | .fms d a b e ty => Sys2Proof.Machine.execFms d a b e ty s
  | .fmin d a b ty => Sys2Proof.Machine.execFmin d a b ty s
  | .fmax d a b ty => Sys2Proof.Machine.execFmax d a b ty s
  | .fabs d a ty => Sys2Proof.Machine.execFabs d a ty s
  | .fneg d a ty => Sys2Proof.Machine.execFneg d a ty s
  | .fcmpEq d a b ty => Sys2Proof.Machine.execFcmpEq d a b ty s
  | .fcmpLt d a b ty => Sys2Proof.Machine.execFcmpLt d a b ty s
  | .fcmpLe d a b ty => Sys2Proof.Machine.execFcmpLe d a b ty s
  | .fsel d a b e ty => Sys2Proof.Machine.execFsel d a b e ty s
  | .vsum d a ty => Sys2Proof.Machine.execVsum d a ty s
  | .vmaxr d a ty => Sys2Proof.Machine.execVmaxr d a ty s
  | .vminr d a ty => Sys2Proof.Machine.execVminr d a ty s
  | .frcp d a ty => Sys2Proof.Machine.execFrcp d a ty s
  | .frsq d a ty => Sys2Proof.Machine.execFrsq d a ty s
  | .fsqrt d a ty => Sys2Proof.Machine.execFsqrt d a ty s
  | .fex2 d a ty => Sys2Proof.Machine.execFex2 d a ty s
  | .flg2 d a ty => Sys2Proof.Machine.execFlg2 d a ty s
  | .fsin d a ty => Sys2Proof.Machine.execFsin d a ty s
  | .fcos d a ty => Sys2Proof.Machine.execFcos d a ty s
  | .vadd d a b ty => Sys2Proof.Machine.execVadd d a b ty s
  | .vsub d a b ty => Sys2Proof.Machine.execVsub d a b ty s
  | .vmul d a b ty => Sys2Proof.Machine.execVmul d a b ty s
  | .vmin d a b ty => Sys2Proof.Machine.execVmin d a b ty s
  | .vmax d a b ty => Sys2Proof.Machine.execVmax d a b ty s
  | .vand d a b ty => Sys2Proof.Machine.execVand d a b ty s
  | .vor d a b ty => Sys2Proof.Machine.execVor d a b ty s
  | .vxor d a b ty => Sys2Proof.Machine.execVxor d a b ty s
  | .vshl d a b ty => Sys2Proof.Machine.execVshl d a b ty s
  | .vsra d a b ty => Sys2Proof.Machine.execVsra d a b ty s
  | .vperm d a b ty => Sys2Proof.Machine.execVperm d a b ty s
  | .vbcast d a idx ty => Sys2Proof.Machine.execVbcast d a idx ty s
  | .cvtWide d a sc rmx sx pt => Sys2Proof.Machine.execCvtWide d a sc rmx sx pt s
  | .cvtWideb d a sc rmx sx pt => Sys2Proof.Machine.execCvtWideb d a sc rmx sx pt s
  | .cvtPack d a sc rmx sx pt => Sys2Proof.Machine.execCvtPack d a sc rmx sx pt s
  | .cvtPackb d a sc rmx sx pt => Sys2Proof.Machine.execCvtPackb d a sc rmx sx pt s
  | .cvtF2b d a sc rmx sx pt => Sys2Proof.Machine.execCvtF2b d a sc rmx sx pt s
  | .cvtB2f d a sc rmx sx pt => Sys2Proof.Machine.execCvtB2f d a sc rmx sx pt s
  | .cvtF2i d a sc rmx sx pt => Sys2Proof.Machine.execCvtF2i d a sc rmx sx pt s
  | .cvtI2f d a sc rmx sx pt => Sys2Proof.Machine.execCvtI2f d a sc rmx sx pt s
  | .amaxb d a b ty => Sys2Proof.Machine.execAmaxb d a b ty s
  | .scl sd a pos ty => Sys2Proof.Machine.execScl sd a pos ty s
  | .rep n len ds as bs es => Sys2Proof.Machine.execRep n len ds as bs es s
  | .mma z a b sca scb ha hb => Sys2Proof.Machine.execMma z a b sca scb ha hb s
  | .mmaComplete t => Sys2Proof.Machine.execMmaComplete t s
  | .mzClr z => Sys2Proof.Machine.execMzClr z s
  | .mzAnc a z => Sys2Proof.Machine.execMzAnc a z s
  | .mzRd d sx rmx ty half z row => Sys2Proof.Machine.execMzRd d sx rmx ty half z row s
  | .mzRaw a z => Sys2Proof.Machine.execMzRaw a z s
  | .mzAdd a z => Sys2Proof.Machine.execMzAdd a z s
  | .imageTransferComplete t => Sys2Proof.Machine.execImageTransferComplete t s
  | .mzOvf d z clear => Sys2Proof.Machine.execMzOvf d z clear s
  | .mgeo d a arr => Sys2Proof.Machine.execMgeo d a arr s
  | .mgeoSub a arr => Sys2Proof.Machine.execMgeoSub a arr s
  | .msk a z => Sys2Proof.Machine.execMsk a z s
  | .xmit a => Sys2Proof.Machine.execXmit a s
  | .xmitM a cnt => Sys2Proof.Machine.execXmitM a cnt s
  | .catchOne a off => Sys2Proof.Machine.execCatch a off s
  | .catchM a cnt => Sys2Proof.Machine.execCatchM a cnt s
  | .catchFlitTake t => Sys2Proof.Machine.execCatchFlitTake t s
  | .put d a off => Sys2Proof.Machine.execPut d a off s
  | .putPerform pid id => Sys2Proof.Machine.execPutPerform pid id s
  | .putAnswer pid id => Sys2Proof.Machine.execPutAnswer pid id s
  | .sealOp => Sys2Proof.Machine.execSeal s
  | .trn d => Sys2Proof.Machine.execTrn d s
  | .chkLq k => Sys2Proof.Machine.execChkLq k s
  | .chkFe a off => Sys2Proof.Machine.execChkFe a off s
  | .chkWp a ch => Sys2Proof.Machine.execChkWp a ch s
  | .semUp a k => Sys2Proof.Machine.execSemUp a k s
  | .semChk a k => Sys2Proof.Machine.execSemChk a k s
  | .resync => Sys2Proof.Machine.execResync s
  | .start d a k => Sys2Proof.Machine.execStart d a k s
  | .stop => Sys2Proof.Machine.execStop s
  | .rmt d sel => Sys2Proof.Machine.execRmt d sel s
  | .mark a mtag => Sys2Proof.Machine.execMark a mtag s
  | .amoAdd d a b ty => Sys2Proof.Machine.execAmoAdd d a b ty s
  | .amoMax d a b ty => Sys2Proof.Machine.execAmoMax d a b ty s
  | .amoMin d a b ty => Sys2Proof.Machine.execAmoMin d a b ty s
  | .amoMaxu d a b ty => Sys2Proof.Machine.execAmoMaxu d a b ty s
  | .amoMinu d a b ty => Sys2Proof.Machine.execAmoMinu d a b ty s
  | .amoAnd d a b ty => Sys2Proof.Machine.execAmoAnd d a b ty s
  | .amoOr d a b ty => Sys2Proof.Machine.execAmoOr d a b ty s
  | .amoXor d a b ty => Sys2Proof.Machine.execAmoXor d a b ty s
  | .amoSwap d a b ty => Sys2Proof.Machine.execAmoSwap d a b ty s
  | .amoCas d a b e ty => Sys2Proof.Machine.execAmoCas d a b e ty s
  | .amoFmax d a b => Sys2Proof.Machine.execAmoFmax d a b s
  | .amoPerform pid id => Sys2Proof.Machine.execAmoPerform pid id s
  | .amoAnswer pid id => Sys2Proof.Machine.execAmoAnswer pid id s
  | .fence scope => Sys2Proof.Machine.execFence scope s
  | .cpy d a b ch => Sys2Proof.Machine.execCpy d a b ch s
  | .cpyG d a b ch => Sys2Proof.Machine.execCpyG d a b ch s
  | .cpyS d a b ch => Sys2Proof.Machine.execCpyS d a b ch s
  | .cpyWp d ch => Sys2Proof.Machine.execCpyWp d ch s
  | .gput d a b ch => Sys2Proof.Machine.execGput d a b ch s
  | .gget d a b ch => Sys2Proof.Machine.execGget d a b ch s
  | .gtbl a b => Sys2Proof.Machine.execGtbl a b s
  | .channelCommandStart o ch => Sys2Proof.Machine.execChannelCommandStart o ch s
  | .engineElementAtHome pid id => Sys2Proof.Machine.execEngineElementAtHome pid id s
  | .engineRefusalArrival pid id => Sys2Proof.Machine.execEngineRefusalArrival pid id s
  | .deadlineReplyArrival id reply => Sys2Proof.Machine.execDeadlineReplyArrival id reply s
  | .deferredDeliveryWrite pid id => Sys2Proof.Machine.execDeferredDeliveryWrite pid id s
  | .reductionCombinedArrival pid key => Sys2Proof.Machine.execReductionCombinedArrival pid key s
  | .ggetWordArrival t key => Sys2Proof.Machine.execGgetWordArrival t key s
  | .trapTrap a num => Sys2Proof.Machine.execTrapTrap a num s
  | .tretResume a => Sys2Proof.Machine.execTretResume a s
  | .tretAbandon a => Sys2Proof.Machine.execTretAbandon a s
  | .tretForward a => Sys2Proof.Machine.execTretForward a s
  | .tretIsolate a => Sys2Proof.Machine.execTretIsolate a s
  | .sysrd d num => Sys2Proof.Machine.execSysrd d num s
  | .syswr a num => Sys2Proof.Machine.execSyswr a num s
  | .ifence => Sys2Proof.Machine.execIfence s
  | .halt => Sys2Proof.Machine.execHalt s
  | .hbeat a => Sys2Proof.Machine.execHbeat a s
  | .heartbeat t k => Sys2Proof.Machine.execHeartbeat t k s
  | .tlbW a imm => Sys2Proof.Machine.execTlbW a imm s
  | .tlbInv a mode => Sys2Proof.Machine.execTlbInv a mode s
  | .crsOpen a => Sys2Proof.Machine.execCrsOpen a s
  | .crsStep d => Sys2Proof.Machine.execCrsStep d s
  | .crsSend a => Sys2Proof.Machine.execCrsSend a s
  | .crsChk a => Sys2Proof.Machine.execCrsChk a s
  | .crsRel a => Sys2Proof.Machine.execCrsRel a s
  | .crsClose => Sys2Proof.Machine.execCrsClose s
  | .pendingEffectDue pid => Sys2Proof.Machine.execPendingEffectDue pid s
  | .flitHop pid id => Sys2Proof.Machine.execFlitHop pid id s
  | .missedSlot t entry => Sys2Proof.Machine.execMissedSlot t entry s
  | .turnstile pid => Sys2Proof.Machine.execTurnstile pid s
  | .bankAct pid entry => Sys2Proof.Machine.execBankAct pid entry s
  | .bankRd pid entry => Sys2Proof.Machine.execBankRd pid entry s
  | .bankWr pid entry => Sys2Proof.Machine.execBankWr pid entry s
  | .bankPre pid entry => Sys2Proof.Machine.execBankPre pid entry s
  | .hbmReadData pid id => Sys2Proof.Machine.execHbmReadData pid id s
  | .looseTileArrival a => Sys2Proof.Machine.execLooseTileArrival a s
  | .hubAccessAnswer die hub ans => Sys2Proof.Machine.execHubAccessAnswer die hub ans s
  | .trapMessage pid => Sys2Proof.Machine.execTrapMessage pid s
  | .chainExhaustion ticket => Sys2Proof.Machine.execChainExhaustion ticket s
  | .restart pid => Sys2Proof.Machine.execRestart pid s
  | .intermissionFreeze pid => Sys2Proof.Machine.execIntermissionFreeze pid s
  | .writeOutComplete pid => Sys2Proof.Machine.execWriteOutComplete pid s
  | .restoredPartitionStart pid => Sys2Proof.Machine.execRestoredPartitionStart pid s
  | .troupeIntermissionFreeze pid => Sys2Proof.Machine.execTroupeIntermissionFreeze pid s
  | .troupeRestart pid => Sys2Proof.Machine.execTroupeRestart pid s
  | .imageStaged seq => Sys2Proof.Machine.execImageStaged seq s
  | .partitionStart pid => Sys2Proof.Machine.execPartitionStart pid s
  | .spareSwapExecute t => Sys2Proof.Machine.execSpareSwapExecute t s
  | .logSignatureDone lseq => Sys2Proof.Machine.execLogSignatureDone lseq s
  | .tmsgRead die hub d => Sys2Proof.Machine.execTmsgRead die hub d s
  | .xmsgRead die hub d => Sys2Proof.Machine.execXmsgRead die hub d s
  | .drainBegin g => Sys2Proof.Machine.execDrainBegin g s
  | .drainEnd g => Sys2Proof.Machine.execDrainEnd g s
  | .widthReduction dir => Sys2Proof.Machine.execWidthReduction dir s
  | .linkFlitSend port => Sys2Proof.Machine.execLinkFlitSend port s
  | .edgeQuadRelease pid entry quad => Sys2Proof.Machine.execEdgeQuadRelease pid entry quad s
  | .illegal w => Sys2Proof.Machine.execIllegal w s
  | .remapDone die num => Sys2Proof.Machine.execRemapDone die num s
  | .correctedError e => Sys2Proof.Machine.execCorrectedError e s
  | .logAppend e => Sys2Proof.Machine.execLogAppend e s
  | .jtailWrite v => Sys2Proof.Machine.execJtailWrite v s
  | .bootstatWrite v => Sys2Proof.Machine.execBootstatWrite v s
  | .firmwareVerifyDone o => Sys2Proof.Machine.execFirmwareVerifyDone o s
  | .powerOnReset => Sys2Proof.Machine.execPowerOnReset s
  | .slackminRead port => Sys2Proof.Machine.execSlackminRead port s
  | .personalitySwitchRequest g next opt => Sys2Proof.Machine.execPersonalitySwitchRequest g next opt s
  | .retrainComplete g r => Sys2Proof.Machine.execRetrainComplete g r s
  | .imodeChange port mode => Sys2Proof.Machine.execImodeChange port mode s
  | .linkSlotDataFlit port f => Sys2Proof.Machine.execLinkSlotDataFlit port f s
  | .linkRequestFlit port f => Sys2Proof.Machine.execLinkRequestFlit port f s
  | .linkResponseFlit port f => Sys2Proof.Machine.execLinkResponseFlit port f s
  | .linkIdleFlit port f => Sys2Proof.Machine.execLinkIdleFlit port f s
  | .tagVerify port ctr => Sys2Proof.Machine.execTagVerify port ctr s
  | .carouselDataFlit port f => Sys2Proof.Machine.execCarouselDataFlit port f s
  | .carouselReleaseFlit port f => Sys2Proof.Machine.execCarouselReleaseFlit port f s
  | .mgmtIntermissionProposal port f => Sys2Proof.Machine.execMgmtIntermissionProposal port f s
  | .mgmtAccept port f => Sys2Proof.Machine.execMgmtAccept port f s
  | .mgmtReject port f => Sys2Proof.Machine.execMgmtReject port f s
  | .mgmtResyncReport port f => Sys2Proof.Machine.execMgmtResyncReport port f s
  | .mgmtRestart port f => Sys2Proof.Machine.execMgmtRestart port f s
  | .mgmtStepProposal port f => Sys2Proof.Machine.execMgmtStepProposal port f s
  | .mgmtResyncNotice port f => Sys2Proof.Machine.execMgmtResyncNotice port f s
  | .mgmtDrained port f => Sys2Proof.Machine.execMgmtDrained port f s
  | .registerWrite r v => Sys2Proof.Machine.execRegisterWrite r v s
  | .portLoss port => Sys2Proof.Machine.execPortLoss port s
  | .powerStepRequest pid step => Sys2Proof.Machine.execPowerStepRequest pid step s
  | .thermalTrip f => Sys2Proof.Machine.execThermalTrip f s
  | .thermalTripEnd => Sys2Proof.Machine.execThermalTripEnd s
  | .frzctlFreeze pid => Sys2Proof.Machine.execFrzctlFreeze pid s
  | .frzctlEndRequest pid => Sys2Proof.Machine.execFrzctlEndRequest pid s
  | .frzctlIntermission pid => Sys2Proof.Machine.execFrzctlIntermission pid s
  | .frzctlRetire pid => Sys2Proof.Machine.execFrzctlRetire pid s
  | .windowRegisterWrite t n v => Sys2Proof.Machine.execWindowRegisterWrite t n v s
  | .xdoneWrite die hub v => Sys2Proof.Machine.execXdoneWrite die hub v s
  | .dlogWrite die hub v => Sys2Proof.Machine.execDlogWrite die hub v s
  | .agenWrite a v => Sys2Proof.Machine.execAgenWrite a v s
  | .spareMapWrite die hub num v => Sys2Proof.Machine.execSpareMapWrite die hub num v s
  | .bankRefresh pc bank => Sys2Proof.Machine.execBankRefresh pc bank s
  | .journalScan => Sys2Proof.Machine.execJournalScan s
  | .launchSlot => Sys2Proof.Machine.execLaunchSlot s
  | .noticeFlush => Sys2Proof.Machine.execNoticeFlush s
  | .lostEventsRecord => Sys2Proof.Machine.execLostEventsRecord s
  | .launch seq => Sys2Proof.Machine.execLaunch seq s
  | .restore seq => Sys2Proof.Machine.execRestore seq s
  | .harvest seq => Sys2Proof.Machine.execHarvest seq s
  | .signLog seq => Sys2Proof.Machine.execSignLog seq s
  | .trapAnswer seq => Sys2Proof.Machine.execTrapAnswer seq s
  | .spareSwap seq => Sys2Proof.Machine.execSpareSwap seq s
  | .attest seq => Sys2Proof.Machine.execAttest seq s
  | .looseHbmAccess a => Sys2Proof.Machine.execLooseHbmAccess a s

end Sys2Proof.Machine
end

