-- ==== Sys2Proof/Machine/Step.lean ====
section
/-! DEFINITION. The step: the next act of the present device cycle, or a new device cycle. And the placing of an instruction
where the next step fetches it. -/

namespace Sys2Proof.Machine

/-- One act of a device cycle. -/
def runAct (a : Act) (s : State) : Host.Outcome State Fault Refusal :=
  match a with
  | .issue c =>
    match s.offer c with
    | .missing => .fault .noSuchContext
    | .nothing s1 => .next s1
    | .instr i s1 => exec i s1
  | .event i => exec i s
  | .plan st pid => .next (s.plan st pid)
  | .deliver id => .next (s.arriveFlight id)
  | .release port f => .next (s.carouselRelease port f)

/-- The step function. -/
def step (s : State) : Host.Outcome State Fault Refusal :=
  match s.agenda with
  | [] => .next s.beginCycle
  | a :: rest => runAct a { s with agenda := rest }

/-- The record of the partition that `withFetchWord` places: one tile, every other field 0. -/
def probeRecord : Record :=
  { seq := 0, kind := 1, prio := 0, flg := 0, w := 1, h := 1, xr := 0, yr := 0, asid := 0, preds := [], image := 0, ttab := 0,
    save := 0, troupe := 0, tdt := 0, tstart := 0, tbase := 0, state := 2, pid := 0, xo := 0, yo := 0, code := 0, t0 := 0,
    tend := 0, body := [], slotAddr := 0 }

/-- The slot that fetches the placed word: its PCC covers instruction memory with X and LD, its cursor is 0x100. -/
def probeSlot : Slot := { Slot.cleared with pcc := makeCap 0 0x8000 0x100 (pX ||| pLD), live := true }

/-- Whether only a hub, or only an execute core, may run an instruction (R63, R70). -/
def onlyHub (i : Instr) : Bool := hubLevel i
/-- Whether the access core may not run an instruction. -/
def onlyExecute (i : Instr) : Bool := !(coresOf i).lists .access && (coresOf i).lists .execute

/-- The state with an instruction placed where the next step issues it: partition 0 runs on tile (0, 0) in its cycle 0, with
slot 0 of the core that may run it live at 0x100; a hub-level instruction stands in hub 0 of die 0. -/
def State.withFetchWord (s : State) (_nbits w : Nat) : State :=
  let i := instrOf (BitVec.ofNat 32 w)
  let bytes := leBytes 4 (w % 2 ^ 32)
  let t : Coord := ⟨0, 0⟩
  if onlyHub i then
    { s.setHub 0 0 { Hub.powerOn with ctx := probeSlot } with
      mem := Mem.write s.mem (hubAddr 0 0 0x100) bytes, agenda := [.issue (.hub 0 0)], cur := none }
  else
    let q := { Part.admitted probeRecord 0 (0, 0) Timetable.empty 0 0 with form := .running, p := some 0 }
    let k : Side := if onlyExecute i then .execute else .access
    { s.setTile t (Tile.powerOn.setSlot k 0 probeSlot) with
      mem := Mem.write s.mem (tileAddr t 0x100) bytes, parts := [q], agenda := [.issue (.tile t k 0)], cur := none }

end Sys2Proof.Machine
end

