-- ==== Sys2Proof/Safety.lean ====
section
/-! DEFINITION. What counts as a safe run, and the terms in which claims speak of an issue: where the state issues, the
checks that stand before an instruction's own, and what the state is after it. -/

namespace Sys2Proof

/-- A state from which the next step goes on. -/
def Goes (s : Machine.State) : Prop := ∃ t, Machine.step s = .next t

/-- One step of the machine. -/
def Steps (s t : Machine.State) : Prop := Machine.step s = .next t

/-- The states that a run of any number of steps leads to. -/
inductive Reaches : Machine.State → Machine.State → Prop where
  | refl (s : Machine.State) : Reaches s s
  | tail {s t u : Machine.State} : Reaches s t → Steps t u → Reaches s u

/-- A state every run from which goes on: no step faults or is refused. -/
def Safe (s : Machine.State) : Prop := ∀ t, Reaches s t → Goes t

namespace Machine

/-- The state issues at `cx`: its `cur` names a context that exists. -/
def At (s : State) (cx : Cx) : Prop := ∃ cur, s.cur = some cur ∧ s.issuing cur = some cx

/-- The checks before an instruction's own pass: core, queue registers, frame class and level (R70), phase and slot (R153,
R177), an LQ entry for a c28 source (R12), no damaged register (R397), an SQ place for a c29 destination (R12). -/
structure Clear (i : Instr) (cx : Cx) : Prop where
  legal : coreChecks cx i = .ok ()
  timed : timetableChecks cx i = .ok ()
  filled : queueCheck cx i = .ok ()
  sound : damageCheck cx i = .ok ()
  room : roomCheck cx i = .ok ()

/-- The state after an issue at `cx` in state `s` whose own effects left `t`: the load queue is popped for a c28 source,
and the context goes on. -/
def leave (i : Instr) (cx : Cx) (s t : State) (nx : Next) : State := (t.popLq cx i).complete cx s.mem nx

/-- The instruction issues and its own effects leave `t`. -/
def Completes (i : Instr) (cx : Cx) (s t : State) (nx : Next) : Prop := exec i s = .next (leave i cx s t nx)

/-- The instruction raises a fault exactly: no effect but the fault's. -/
def Raises (i : Instr) (cx : Cx) (s : State) (f : Flt) : Prop := exec i s = .next (raiseExact cx f s)

/-- The instruction issues at `cx` with every check before its own passed. -/
def Ready (i : Instr) (s : State) (cx : Cx) : Prop := At s cx ∧ Clear i cx

/-- Wherever its checks pass, the instruction writes one result: `v` of the context to `d`, after `lat` turns. -/
def Writes (i : Instr) (d : RegNo) (lat : Nat) (v : Cx → CReg) : Prop :=
  ∀ s cx, Ready i s cx → Completes i cx s (s.result cx d lat (v cx)) .seq

/-- Wherever its checks pass in a tile, the instruction has one effect, due at the end of cycle n + c. -/
def Defers (i : Instr) (c : Nat) (e : TileCx → Cx → Eff) : Prop :=
  ∀ s cx tc, Ready i s cx → cx.tile = .ok tc → Completes i cx s (s.due cx (cx.n + c) (e tc cx)) .seq

/-- The exact value of a finite dyadic; 0 stands for a NaN and an infinity. -/
def FVal.rat : FVal → ℚ
  | .fin s m e => (if s then -1 else 1) * m * 2 ^ e
  | _ => 0

/-- What R45 gives for a value of sign `s` and magnitude a > 0: with q the weight of the last kept bit, t and fr the whole and the
discarded part of a / q, the mode decides whether the magnitude is t q or (t + 1) q. Past the largest magnitude the overflow table
holds; else the code has that sign and magnitude, and a discarded part raises NX, and UF below the least normal magnitude. -/
def RoundsTo (f : Elem) (rm : RMode) (sat : Bool) (lane : Nat) (s : Bool) (a : ℝ) (r : Nat × FlagSet) : Prop :=
  let emin : ℤ := match f.fpParams with | some (_, _, bias) => 1 - bias | none => 0
  let k : ℤ := match f.fpParams with | some (_, mw, _) => max (Int.log 2 a) emin - mw | none => -(f.quantumShift : ℤ)
  let q : ℝ := 2 ^ k
  let t : ℤ := ⌊a / q⌋
  let fr : ℝ := a / q - t
  let most : ℚ := match f.fpParams with | some _ => (f.decode f.maxCode).rat | none => f.maxInt s * 2 ^ k
  let up : Prop := match rm with
    | .rne => 1 / 2 < fr ∨ (fr = 1 / 2 ∧ t % 2 = 1)
    | .rtz => False
    | .rdn => s = true ∧ 0 < fr
    | .rup => s = false ∧ 0 < fr
    | .sr => 2 ^ 32 ≤ ⌊fr * 2 ^ 32⌋ + (lane : ℤ)
  ∃ n : ℤ, (up → n = t + 1) ∧ (¬up → n = t) ∧
    ((most : ℝ) < n * q → r = overflowResult f s rm sat) ∧
    (n * q ≤ (most : ℝ) → r.1 < 2 ^ f.width ∧ (∃ s' m e, f.decode r.1 = .fin s' m e ∧ (f.fpParams.isSome → s' = s)) ∧
      ((f.decode r.1).rat : ℝ) = (if s then -1 else 1) * (n * q) ∧ (fr = 0 → r.2 = flNone) ∧
      (0 < fr → (f.fpParams.isSome = true ∧ a < 2 ^ emin → r.2 = flNX ||| flUF) ∧
        (¬(f.fpParams.isSome = true ∧ a < 2 ^ emin) → r.2 = flNX)))

/-- The rows of the opcode table that are instruction words. -/
def isWord (i : Instr) : Bool := (encodeNat i).isSome

/-- The rows that are operations and events of the part: neither an instruction word nor a word that does not decode. -/
def isEvent (i : Instr) : Bool := !isWord i && (match i with | .illegal _ => false | _ => true)

/-- The instruction that the decoder reads from an instruction's word: four rows of the table share the word of tret, whose
disposition stands in cA (R288). -/
def spelled : Instr → Instr
  | .tretAbandon a => .tretResume a
  | .tretForward a => .tretResume a
  | .tretIsolate a => .tretResume a
  | i => i

end Machine

end Sys2Proof
end

