-- ==== Sys2Proof/Certificates/Slice0/Obligations.lean ====
section
/-! DEFINITION. The statements about the model. Each names the rules of the manual that it formalises. -/

open Sys2Proof Sys2Proof.Machine

/-! ### Encoding -/

/-- Decode and encode agree: the word of every well-formed instruction decodes to the instruction the word spells, with every
operand as it was (R60 to R70). -/
def Obligations.EncodedWordsDecode : Prop :=
  ∀ (i : Instr) (w : Word), i.wellFormed = true → encode i = some w → decode w = .ok (spelled i)

/-- Every word that decodes, decodes to a well-formed instruction whose encoding is that word: no two words mean the same
instruction, and no bit of a word is ignored (R61, R70). -/
def Obligations.DecodedWordsEncode : Prop :=
  ∀ (w : Word) (i : Instr), decode w = .ok i → i.wellFormed = true ∧ encode i = some w

/-- Words of R97, R94 to R96, R102 and R292 decode to the instructions they are printed beside. -/
def Obligations.PrintedWordsDecode : Prop :=
  decode 0x68000000#32 = .ok .nop ∧ decode 0x681E0001#32 = .ok (.jr 30) ∧ decode 0x68090002#32 = .ok (.hold 9) ∧
  decode 0x58070003#32 = .ok (.loop 7 3#16) ∧ decode 0x08200400#32 = .ok (.addi 1 0 0x400#16) ∧
  decode 0x305F0803#32 = .ok (.cset 2 31 1) ∧ decode 0x30422800#32 = .ok (.cbnd 2 2 5) ∧
  decode 0x30423001#32 = .ok (.cperm 2 2 6) ∧ decode 0x80626000#32 = .ok (.ldD 3 2 0#12) ∧
  decode 0x34420008#32 = .ok (.cincImm 2 2 8#16) ∧ decode 0x04841800#32 = .ok (.add 4 4 3) ∧
  decode 0x849F6FF0#32 = .ok (.stD 4 31 0xFF0#12) ∧ decode 0xF0000005#32 = .ok .halt ∧
  decode 0xD0074800#32 = .ok (.chkWp 7 0)

/-! ### The step -/

/-- A step runs the decoded instruction: where a live slot of a running partition comes to issue with an empty fetch buffer, the
four words at its PCC cursor are read from memory, and the step is `exec` of what the first of them decodes to, the context, the
word and its address standing in `cur` (R30, R70). -/
def Obligations.StepRunsTheWordInMemory : Prop :=
  ∀ (s : State) (t : Coord) (k : Side) (j : Fin 4) (rest : List Act) (q : Part) (i : Instr),
    s.agenda = .issue (.tile t k j) :: rest → s.partOf t = some q → q.form = .running →
    (s.tile t).lost = false → (s.tile t).starting k j = false → ((s.tile t).core k).frame = none → (s.tile t).damage = [] →
    let sl := (s.tile t).slot k j
    let pc := capCur sl.pcc.data
    let word (a : DWord) : Word := BitVec.ofNat 32 (Mem.readLE s.mem (tileAddr t a.toNat) 4)
    sl.live = true → sl.hold = none → sl.fbuf.words = [] → checkCap sl.pcc 0 4 pX = .ok pc → pc.toNat + 16 ≤ 0x8000 →
    decode (word pc) = .ok i →
    step s = exec i { (s.modTile t fun tl => tl.setSlot k j
        { sl with fbuf := ⟨pc, [⟨word pc, false⟩, ⟨word (pc + 4), false⟩, ⟨word (pc + 8), false⟩, ⟨word (pc + 12), false⟩]⟩ }) with
      agenda := rest, cur := some ⟨.tile t k j, word pc, pc, false⟩ }

/-- A slot whose fetch buffer holds the word at its PCC cursor issues the copy in the buffer, whatever memory holds by then
(R30). In iteration i ≥ 1 of a repeat frame the slot issues word j of the frame's buffer with its register fields renamed, and
the fetch buffer is left alone (R72, R118). -/
def Obligations.StepRunsTheBufferedWord : Prop :=
  (∀ (s : State) (t : Coord) (k : Side) (j : Fin 4) (rest : List Act) (q : Part) (w : Word) (ws : List FWord) (i : Instr),
    s.agenda = .issue (.tile t k j) :: rest → s.partOf t = some q → q.form = .running →
    (s.tile t).lost = false → (s.tile t).starting k j = false → ((s.tile t).core k).frame = none → (s.tile t).damage = [] →
    let sl := (s.tile t).slot k j
    let pc := capCur sl.pcc.data
    sl.live = true → sl.hold = none → sl.fbuf = ⟨pc, ⟨w, false⟩ :: ws⟩ → checkCap sl.pcc 0 4 pX = .ok pc →
    pc.toNat + 4 ≤ 0x8000 → decode w = .ok i →
    step s = exec i { (s.modTile t fun tl => tl.setSlot k j sl) with
      agenda := rest, cur := some ⟨.tile t k j, w, pc, false⟩ }) ∧
  ∀ (s : State) (t : Coord) (k : Side) (j : Fin 4) (rest : List Act) (q : Part) (f : Frame) (w : Word),
    s.agenda = .issue (.tile t k j) :: rest → s.partOf t = some q → q.form = .running →
    (s.tile t).lost = false → (s.tile t).starting k j = false → ((s.tile t).core k).frame = some f → (s.tile t).damage = [] →
    let sl := (s.tile t).slot k j
    let pc := capCur sl.pcc.data
    f.owner = j → f.i ≠ 0 → f.words[f.j]? = some ⟨w, false⟩ →
    sl.live = true → sl.hold = none → checkCap sl.pcc 0 4 pX = .ok pc → pc.toNat + 4 ≤ 0x8000 →
    let r := renameWord w f.i f.ds f.as f.bs f.es
    step s = exec (instrOf r) { s with agenda := rest, cur := some ⟨.tile t k j, r, pc, true⟩ }

/-- The other acts of a step: an event of the agenda is run by `exec`, a hub that runs issues the word of its fetch buffer, and
an empty agenda begins the next device cycle (R145, R149). -/
def Obligations.StepRunsTheAgenda : Prop :=
  (∀ (s : State) (i : Instr) (rest : List Act), s.agenda = .event i :: rest → step s = exec i { s with agenda := rest }) ∧
  (∀ (s : State), s.agenda = [] → step s = .next s.beginCycle ∧ s.beginCycle.rmt = (s.rmt + 1) % 2 ^ 64) ∧
  ∀ (s : State) (d h : Nat) (rest : List Act) (w : Word) (ws : List FWord) (i : Instr),
    s.agenda = .issue (.hub d h) :: rest → d < 16 → h < 64 → (s.hub d h).stopped = false → (s.hub d h).failed = false →
    (s.hub d h).wait = none → (s.hub d h).damage = [] →
    let sl := (s.hub d h).ctx
    let pc := capCur sl.pcc.data
    sl.live = true → sl.hold = none → sl.fbuf = ⟨pc, ⟨w, false⟩ :: ws⟩ → checkCap sl.pcc 0 4 pX = .ok pc →
    pc.toNat + 4 ≤ 0x40000 → decode w = .ok i →
    step s = exec i { (s.modHub d h fun hb => hb) with agenda := rest, cur := some ⟨.hub d h, w, pc, false⟩ }

/-! ### What stands before every instruction, and the machine as a whole -/

/-- The checks that stand before every instruction word in a tile, in their order: a core that the opcode table does not list, a queue
register outside an execute core, and c28 as a destination or c29 as a source raise ILLEGAL, also on a hub; an instruction that is not of
frame class ILLEGAL_IN_FRAME in a frame, a hub-level instruction PRIV (R12, R20, R70), and a word of the
exchange class in a compute phase SLIP_LATE with reason PHASE (R153). Of add, an empty load queue raises SLIP_EMPTY and a full
store queue SLIP_LATE, both with reason QUEUE (R12). A word that does not decode raises ILLEGAL wherever it issues, exactly
(R70). -/
def Obligations.ChecksBeforeAnInstruction : Prop :=
  (∀ (i : Instr) (s : State) (cx : Cx) (t : Coord) (k : Side) (j : Fin 4) (tl : Tile) (q : Part), At s cx → cx.wh = .tile t k j tl q →
    (isWord i = true →
      let core := (coresOf i).lists cx.kind = false ∧ hubLevel i = false
      let queue := (k = .access ∧ ∃ r ∈ (regUse i).all, r = 28 ∨ r = 29) ∨ (k = .execute ∧ ((regUse i).dst = some 28 ∨ 29 ∈ (regUse i).srcs))
      let frame := cx.frame = true ∧ frameClass i = false
      (core ∨ queue → Raises i cx s { code := 0x01 }) ∧
      (¬core → ¬queue → frame → Raises i cx s { code := 0x03 }) ∧
      (¬core → ¬queue → ¬frame → hubLevel i = true → Raises i cx s { code := 0x08 }) ∧
      (coreChecks cx i = .ok () → q.exchange cx.n = false → exchangeClass i = true → Raises i cx s { code := 0x10, reason := 0x04 })) ∧
    ∀ d b : RegNo, i = .add d 28 b → k = .execute → coreChecks cx i = .ok () → timetableChecks cx i = .ok () →
      (tl.lq = [] → Raises i cx s { code := 0x11, reason := 0x02 }) ∧
      (tl.lq ≠ [] → damageCheck cx i = .ok () → d = 29 → 8 ≤ tl.sqUsed → Raises i cx s { code := 0x10, reason := 0x02 })) ∧
  (∀ (i : Instr) (s : State) (cx : Cx) (die h : Nat) (hb : Hub), At s cx → cx.wh = .hub die h hb → isWord i = true →
    (((coresOf i).lists cx.kind = false ∧ hubLevel i = false) ∨ ∃ r ∈ (regUse i).all, r = 28 ∨ r = 29) → Raises i cx s { code := 0x01 }) ∧
  (∀ (w : Word) (e : Reject), decode w = .error e → instrOf w = .illegal w) ∧
  ∀ (w : Word) (s : State) (cx : Cx), At s cx → Raises (.illegal w) cx s { code := 0x01 }

/-- An exact fault has no effect but the fault's: in a tile the partition's record of the freeze gains one record with the
fault's code, reason and INFO, the place of the slot, the cycle, the PC and the word, the freeze is set with cause 1, and the
instruction is re-offered; the rest of that partition, every other partition, every byte of memory, every tile and hub, the ring,
the edge and everything else of the machine are as they were (R269, R273, R277, R278). On a hub the hub stops with the record and
posts its message, the messages of partitions that it holds go up, and an uncorrectable error is reported to the log; every other
hub, the partitions, the tiles, memory, the ring and the edge are as they were (R282, R333). -/
def Obligations.FaultsAreExact : Prop :=
  ∀ (s : State) (cx : Cx) (f : Flt),
    let u := raiseExact cx f s
    u.mem = s.mem ∧ u.full = s.full ∧ u.qtags = s.qtags ∧ u.tiles = s.tiles ∧
    (∀ t k j tl q, cx.wh = .tile t k j tl q → { u with parts := s.parts, cur := s.cur } = s ∧ u.hubs = s.hubs ∧
      (∀ n, n ≠ q.pid → u.part n = s.part n) ∧ ∀ p, s.part q.pid = some p →
      let r : FRec :=
        { code := f.code, reason := f.reason, who := (if k = .execute then 1 else 0) + 2 * j.val, kind := 0, x := t.x, y := t.y,
          cyc := cx.n, pc := cx.pc.toNat % 2 ^ 32, word := cx.word.toNat, info := f.info % 2 ^ 64 }
      ∃ p', u.part q.pid = some p' ∧ p'.faults = p.faults ++ [r] ∧ p'.freezing = true ∧ 1 ∈ p'.causes ∧
        p'.reoffer = p.reoffer ++ [(t, k, j)] ∧ p'.ss = p.ss ∧ p'.p = p.p ∧
        { p' with faults := p.faults, freezing := p.freezing, causes := p.causes, cause := p.cause, reoffer := p.reoffer } = p) ∧
    ∀ d h hb, cx.wh = .hub d h hb → u.parts = s.parts ∧ (u.hub d h).stopped = true ∧ (u.hub d h).hfr.code = f.code ∧
      (u.hub d h).hfr.pc = cx.pc.toNat % 2 ^ 32 ∧ (u.hub d h).ctx = (s.hub d h).ctx ∧
      { u with hubs := s.hubs, messages := s.messages, ticket := s.ticket, inputs := s.inputs, freeCount := s.freeCount,
               cur := s.cur } = s ∧
      (d < 16 → h < 64 → ∀ d' h', d' < 16 → h' < 64 → (d', h') ≠ (d, h) → u.hub d' h' = s.hub d' h') ∧
      ∃ m ∈ u.messages, m.origin = true ∧ m.loc = d + 16 * h ∧ m.code = f.code ∧ m.reason = f.reason ∧ m.first = (u.hub d h).hfr

/-- No instruction is refused and none stops the machine: in a state that issues, every instruction word and every word that
does not decode answers a next state, and so does every event in every state. Of an event whose occasion is absent the manual says nothing:
that it answers the same state is the model's choice (log entry 4). -/
def Obligations.EveryInstructionAnswers : Prop :=
  ∀ (i : Instr) (s : State), (isEvent i = true ∨ ∃ cx, At s cx) → ∃ t, exec i s = .next t

/-- In its issue cycle no instruction of a tile changes a byte of memory: stores and atomics fall due at the end of a later
cycle (R98, R203). -/
def Obligations.TileIssueKeepsMemory : Prop :=
  ∀ (i : Instr) (s t : State) (cx : Cx) (tc : TileCx), isWord i = true → At s cx → cx.tile = .ok tc → exec i s = .next t → t.mem = s.mem

/-- Every step keeps the memory in its one form: addresses strictly rising and no entry with the value an unlisted address reads
as. The form is the model's own (log entry 3). -/
def Obligations.StepKeepsMemory : Prop :=
  ∀ s t : State, Mem.wf s.mem = true → step s = .next t → Mem.wf t.mem = true

/-- The machine after power-on: RMT 0, BOOTSTAT 0, no partition, every tile and hub as power-on leaves it, every bank of every
pseudo-channel closed and owned by no partition, no message, and nothing due (R149, R341). Registers and memory that the rules
give no value read as 0 (log entries 2 and 3). -/
def Obligations.ResetState : Prop :=
  State.reset.rmt = 0 ∧ State.reset.ring.bootstat = 0 ∧ State.reset.parts = [] ∧ State.reset.agenda = [] ∧ State.reset.cur = none ∧
  State.reset.messages = [] ∧ Mem.wf State.reset.mem = true ∧ (∀ a, Mem.get State.reset.mem a = 0) ∧
  (∀ t k j, ((State.reset.tile t).slot k j).live = false ∧ ((State.reset.tile t).slot k j).c = Vector.replicate 32 ⟨0, false⟩) ∧
  (∀ t, State.reset.tile t = .powerOn) ∧
  (∀ d h, State.reset.hub d h = .powerOn ∧ (State.reset.hub d h).ctx.live = false ∧
    (State.reset.hub d h).ctx.c = Vector.replicate 32 ⟨0, false⟩) ∧
  (∀ g, (State.reset.pc g).owner = none ∧ (State.reset.pc g).rows = [] ∧ (State.reset.pc g).held = []) ∧
  ∀ p, (State.reset.port p).slackmin = 0x7FFFFFFF#32 ∧ (State.reset.port p).up = false

/-- The frame of an issue: past its own effects an instruction in a tile changes nothing but its context's PCC, fetch buffer and
loop state, the core's frame, the damage marks of buffer words that it has read again (R272) and, for a c28 source, the pop of the
load queue that falls due. Every other slot of its core keeps
its registers, PCC, fetch buffer and loop; the other core, the queues, accumulators, catches, sends, tables, marks, counts,
semaphores and every other field of the tile stay, as do every byte of memory, every other tile, the partitions and the hubs
(R28, R30). Outside a frame the context goes on as its instruction says, from memory as the cycle found it. On a hub likewise: the hub's
PCC, fetch buffer and loop state, its damage marks of words read again, and nothing else of it or of the machine (R145). -/
def Obligations.IssueLeavesTheRest : Prop :=
  (∀ (i : Instr) (cx : Cx) (s t : State) (nx : Next) (x : Coord) (k : Side) (j : Fin 4) (tl : Tile) (q : Part),
    cx.wh = .tile x k j tl q →
    let u := leave i cx s t nx
    let a := t.tile x
    let b := u.tile x
    { u with tiles := t.tiles, cur := t.cur } = t ∧ u.cur = none ∧
    (∀ y : Coord, x.x < 1024 → y.x < 1024 → y ≠ x → u.tile y = t.tile y) ∧
    { b with access := a.access, exec := a.exec, pend := a.pend, damage := a.damage } = a ∧
    (∀ m ∈ b.damage, m ∈ a.damage) ∧ (∀ m ∈ a.damage, m.reason ≠ 0x24 → m ∈ b.damage) ∧
    (∀ k', k' ≠ k → b.core k' = a.core k') ∧ (∀ j', j' ≠ j → b.slot k j' = a.slot k j') ∧
    { b.slot k j with pcc := (a.slot k j).pcc, fbuf := (a.slot k j).fbuf, loop := (a.slot k j).loop } = a.slot k j ∧
    { b.core k with slots := (a.core k).slots, frame := (a.core k).frame } = a.core k ∧
    b.pend = a.pend ++ (if k = .execute ∧ (28 : RegNo) ∈ (regUse i).srcs then [⟨cx.n, .lqPop⟩] else []) ∧
    (∀ k' j', b.starting k' j' = a.starting k' j') ∧
    (cx.frame = false → (b.core k).frame = (a.core k).frame ∧ b.slot k j = (a.slot k j).advance cx s.mem nx)) ∧
  ∀ (i : Instr) (cx : Cx) (s t : State) (nx : Next) (d h : Nat) (hb : Hub), cx.wh = .hub d h hb →
    let u := leave i cx s t nx
    let a := t.hub d h
    let b := u.hub d h
    { u with hubs := t.hubs, cur := t.cur } = t ∧ u.cur = none ∧
    (d < 16 → h < 64 → ∀ d' h', d' < 16 → h' < 64 → (d', h') ≠ (d, h) → u.hub d' h' = t.hub d' h') ∧
    { b with ctx := a.ctx, damage := a.damage } = a ∧ b.ctx = a.ctx.advance cx s.mem nx ∧
    { b.ctx with pcc := a.ctx.pcc, fbuf := a.ctx.fbuf, loop := a.ctx.loop } = a.ctx ∧
    (∀ m ∈ b.damage, m ∈ a.damage) ∧ ∀ m ∈ a.damage, m.reason ≠ 0x24 → m ∈ b.damage

/-- Where a result goes: in a tile it falls due at the end of cycle n + 4L - 1, one for c0 is discarded, and one for c29 of an
execute core is pushed into the store queue; on a hub it is written at once, c0 discarded (R11, R12, R28, R145). -/
def Obligations.ResultsLand : Prop :=
  ∀ (s : State) (cx : Cx) (d : RegNo) (lat : Nat) (v : CReg),
    (∀ t k j tl q, cx.wh = .tile t k j tl q →
      (d = 0 → s.result cx d lat v = s) ∧
      (d ≠ 0 → ¬(k = .execute ∧ d = 29) →
        s.result cx d lat v = s.modTile t fun x => { x with pend := x.pend ++ [⟨cx.n + 4 * lat - 1, .creg k j d v⟩] }) ∧
      (k = .execute → d = 29 →
        s.result cx d lat v = s.modTile t fun x => { x with pend := x.pend ++ [⟨cx.n + 4 * lat - 1, .sqPush j v.data⟩] })) ∧
    (∀ die h hb, cx.wh = .hub die h hb → s.result cx d lat v = s.setHub die h
      { s.hub die h with
        ctx := { (s.hub die h).ctx with c := if d = 0 then (s.hub die h).ctx.c else (s.hub die h).ctx.c.set d v }
        damage := mend 0x21 [d.val] (s.hub die h).damage })

/-- A store that falls due without a collision writes exactly its bytes: byte k of its data at its address plus k, and every
other byte of memory reads as before; it changes no tile's registers (R98, R203). In local SRAM it sets the full bits of the words
it touches if it is a store that sets them and leaves every other full bit as it was, and gives the quads it touches its own tag,
0 but for st.c (R18, R203); the bonded slice has neither. The registers that fall due: a c-register write changes that register
and no other, c0 stays as it is, and every byte of memory, every other context and the partitions are unchanged (R11, R28). Each
other effect changes its own place of the tile and nothing else: fl is ORed or written, fm, sr, an s-register or one byte of it
is written (R22 to R25, R117), a queue gains its newest or loses its oldest entry (R12, R101, R102), a semaphore is added to or
subtracted from (R188), the geometry register, a mark and a shadow table entry are written (R135, R193, R256), OV and IV are
cleared (R138), and the cleared full bit is the only one that changes (R203). A local atomic replaces its word by its function's
value, keeps its full bit, takes the quad's tag away, and has its old value fall due (R235). -/
def Obligations.EffectsFallDue : Prop :=
  (∀ (s : State) (pid : Nat) (t : Coord) (off : Nat) (data : List Byte) (tag full : Bool) (w : Writer),
    Mem.wf s.mem = true → w.word = none →
    let u := s.effectDue pid t [] (.store off data tag full w)
    (∀ k v, data[k]? = some v → Mem.get u.mem (tileAddr t off + k) = v) ∧
    (∀ a, (a < tileAddr t off ∨ tileAddr t off + data.length ≤ a) → Mem.get u.mem a = Mem.get s.mem a) ∧
    (∀ t' k j, (u.tile t').slot k j = (s.tile t').slot k j) ∧ u.parts = s.parts ∧ u.hubs = s.hubs ∧
    (data ≠ [] → off + data.length ≤ 0x8000 →
      (∀ o < 0x8000, u.isFull t o = (s.isFull t o || (full && decide (off / 8 ≤ o / 8 ∧ o / 8 ≤ (off + data.length - 1) / 8)))) ∧
      ∀ o < 0x800, u.qtags.contains (tileAddr t (16 * o)) =
        if off / 16 ≤ o ∧ o ≤ (off + data.length - 1) / 16 then tag else s.qtags.contains (tileAddr t (16 * o))) ∧
    (0x8000 ≤ off → u.full = s.full ∧ u.qtags = s.qtags)) ∧
  (∀ (s : State) (pid : Nat) (t : Coord) (bad : List Nat) (k : Side) (j : Fin 4) (n : Fin 8) (pos : Fin 16) (f : BitVec 6) (w v : BitVec 32)
    (x : Quad) (y : BitVec 8) (sm : Fin 16) (z : Fin 4) (mg : Mg) (g : Fin 64) (d : DWord),
    let puts (e : Eff) (h : Tile → Tile) : Prop := s.effectDue pid t bad e = s.modTile t h
    let whole (reason key : Nat) (l : List Damage) : List Damage := l.filter fun d => d.reason != reason || d.key != key
    let slot (e : Eff) (k : Side) (num : Nat) (h : Slot → Slot) : Prop :=
      puts e fun tl => { tl.setSlot k j (h (tl.slot k j)) with damage := whole 0x21 (2 ^ 11 + regKey k j num) tl.damage }
    puts (.flOr j f) (fun tl => tl.setSlot .execute j { tl.slot .execute j with fl := (tl.slot .execute j).fl ||| f.setWidth 32 }) ∧
    slot (.flSet k j v) k 0x011 (fun sl => { sl with fl := v }) ∧ slot (.fmSet k j v) k 0x010 (fun sl => { sl with fm := v }) ∧
    slot (.srSet k j x) k 0x012 (fun sl => { sl with sr := x }) ∧ slot (.sSet k j n x) k n.val (fun sl => { sl with s := sl.s.set n x }) ∧
    (let byte (q : Quad) : Quad := (q &&& ~~~(0xFF#128 <<< (8 * pos.val))) ||| (y.setWidth 128 <<< (8 * pos.val))
     slot (.sByte j n pos.val y) .execute n.val fun sl => { sl with s := sl.s.set n (byte sl.s[n]) }) ∧
    puts (.lqPush j x) (fun tl => { tl with lq := tl.lq ++ [x], damage := whole 0x23 tl.lq.length tl.damage }) ∧
    puts .lqPop (fun tl => { tl with lq := tl.lq.drop 1, damage := popQueue 0 tl.damage }) ∧
    puts (.sqPush j x) (fun tl => { tl with sq := tl.sq ++ [x], damage := whole 0x23 (8 + tl.sq.length) tl.damage }) ∧
    puts .sqPop (fun tl => { tl with sq := tl.sq.drop 1, damage := popQueue 8 tl.damage }) ∧
    puts (.semAdd k j sm w) (fun tl => { tl with sem := tl.sem.set sm (tl.sem[sm] + w) }) ∧
    puts (.semSub k j sm w) (fun tl => { tl with sem := tl.sem.set sm (tl.sem[sm] - w) }) ∧
    puts (.mg j mg) (fun tl => { tl with mg := mg }) ∧ puts (.gtab g d) (fun tl => { tl with gshadow := tl.gshadow.set g d }) ∧
    puts (.ovClear j z) (fun tl => { tl with z := tl.z.set z { tl.z[z] with ov := false, iv := false } }) ∧
    puts (.mark x) (fun tl => { tl with marks := pushMark tl.marks x }) ∧
    ∀ off : Nat, let u := s.effectDue pid t bad (.fullClear k j off)
      { u with full := s.full } = s ∧ u.isFull t off = false ∧
      ∀ o, o / 8 ≠ off / 8 → u.isFull t o = s.isFull t o) ∧
  (∀ (s : State) (pid : Nat) (t : Coord) (off fn : Nat) (wide : Bool) (x e : DWord) (reg : Option (Fin 4 × RegNo × Nat)) (w : Writer),
    let size := if wide then 8 else 4
    let ga := tileAddr t off
    let u := s.effectDue pid t [] (.amo off fn size x e 0 reg w)
    Mem.wf s.mem = true → off + size ≤ 0x8000 →
    Mem.readLE u.mem ga size = amoNew fn (8 * size) (Mem.readLE s.mem ga size) x.toNat e.toNat % 2 ^ (8 * size) ∧
    (∀ a, (a < ga ∨ ga + size ≤ a) → Mem.get u.mem a = Mem.get s.mem a) ∧ u.full = s.full ∧
    u.qtags.contains (tileAddr t (off / 16 * 16)) = false ∧
    (∀ k j, (u.tile t).slot k j = (s.tile t).slot k j) ∧
    (u.tile t).pend = (s.tile t).pend ++ (match reg with
      | none => []
      | some (j, d, c) => [⟨c, .creg .access j d ⟨BitVec.ofNat 128 (Mem.readLE s.mem ga size), false⟩⟩])) ∧
  ∀ (s : State) (pid : Nat) (t : Coord) (bad : List Nat) (k : Side) (j : Fin 4) (r : RegNo) (v : CReg),
    let u := s.effectDue pid t bad (.creg k j r v)
    u.mem = s.mem ∧ u.parts = s.parts ∧ u.hubs = s.hubs ∧
    ((u.tile t).slot k j).c[r] = (if r = 0 then ((s.tile t).slot k j).c[r] else v) ∧
    (∀ n : RegNo, n ≠ r → ((u.tile t).slot k j).c[n] = ((s.tile t).slot k j).c[n]) ∧
    (∀ t' k' j', t.x < 1024 → t'.x < 1024 → (t', k', j') ≠ (t, k, j) → (u.tile t').slot k' j' = (s.tile t').slot k' j') ∧
    ((u.tile t).slot k j).fm = ((s.tile t).slot k j).fm ∧ ((u.tile t).slot k j).fl = ((s.tile t).slot k j).fl ∧
    ((u.tile t).slot k j).sr = ((s.tile t).slot k j).sr ∧ ((u.tile t).slot k j).s = ((s.tile t).slot k j).s

/-! ### Integer and capability instructions -/

/-- The INT register forms write int_op of their operands, all 128 bits, with tag 0: after 1 turn, the multiplies after 2 and
the divisions after 8 (R83, R84). x and y are the values of cA and cB. The INT immediate forms compute int_op of cA and their
immediate, sign-extended for addi, slti and sltui, zero-extended for andi, ori and xori, and 0 to 127 for the shifts, after 1
turn with tag 0 (R63, R85). lhi writes (sext(imm21, 21) × 2^16) mod 2^128 with tag 0 (R86). -/
def Obligations.IntegerResults : Prop :=
  (∀ (d a b : RegNo),
    let w (i : Instr) (lat : Nat) (f : Quad → Quad → Quad) : Prop := Writes i d lat fun cx => ⟨f (cx.data a) (cx.data b), false⟩
    let u (i : Instr) (f : Quad → Quad) : Prop := Writes i d 1 fun cx => ⟨f (cx.data a), false⟩
    w (.add d a b) 1 (fun x y => BitVec.ofNat 128 (x.toNat + y.toNat)) ∧
    w (.sub d a b) 1 (fun x y => BitVec.ofInt 128 ((x.toNat : Int) - y.toNat)) ∧
    w (.and d a b) 1 (fun x y => x &&& y) ∧
    w (.or d a b) 1 (fun x y => x ||| y) ∧
    w (.xor d a b) 1 (fun x y => x ^^^ y) ∧
    w (.andn d a b) 1 (fun x y => x &&& ~~~y) ∧
    w (.sll d a b) 1 (fun x y => BitVec.ofNat 128 (x.toNat * 2 ^ (y.toNat % 128))) ∧
    w (.srl d a b) 1 (fun x y => BitVec.ofNat 128 (x.toNat / 2 ^ (y.toNat % 128))) ∧
    w (.sra d a b) 1 (fun x y => BitVec.ofInt 128 (x.toInt / 2 ^ (y.toNat % 128))) ∧
    w (.rol d a b) 1 (fun x y => BitVec.ofNat 128 (x.toNat * 2 ^ (y.toNat % 128) + x.toNat / 2 ^ (128 - y.toNat % 128))) ∧
    w (.slt d a b) 1 (fun x y => if x.toInt < y.toInt then 1 else 0) ∧
    w (.sltu d a b) 1 (fun x y => if x.toNat < y.toNat then 1 else 0) ∧
    w (.min d a b) 1 (fun x y => if x.toInt ≤ y.toInt then x else y) ∧
    w (.max d a b) 1 (fun x y => if y.toInt ≤ x.toInt then x else y) ∧
    w (.minu d a b) 1 (fun x y => if x.toNat ≤ y.toNat then x else y) ∧
    w (.maxu d a b) 1 (fun x y => if y.toNat ≤ x.toNat then x else y) ∧
    w (.mul d a b) 2 (fun x y => BitVec.ofNat 128 (x.toNat * y.toNat)) ∧
    w (.mulh d a b) 2 (fun x y => BitVec.ofInt 128 (x.toInt * y.toInt / 2 ^ 128)) ∧
    w (.mulhu d a b) 2 (fun x y => BitVec.ofNat 128 (x.toNat * y.toNat / 2 ^ 128)) ∧
    w (.div d a b) 8 (fun x y => if y.toInt = 0 then BitVec.ofNat 128 (2 ^ 128 - 1) else BitVec.ofInt 128 (x.toInt.tdiv y.toInt)) ∧
    w (.divu d a b) 8 (fun x y => if y.toNat = 0 then BitVec.ofNat 128 (2 ^ 128 - 1) else BitVec.ofNat 128 (x.toNat / y.toNat)) ∧
    w (.rem d a b) 8 (fun x y => if y.toInt = 0 then x else BitVec.ofInt 128 (x.toInt - x.toInt.tdiv y.toInt * y.toInt)) ∧
    w (.remu d a b) 8 (fun x y => if y.toNat = 0 then x else BitVec.ofNat 128 (x.toNat - x.toNat / y.toNat * y.toNat)) ∧
    u (.clz d a) (fun x => BitVec.ofNat 128 (128 - x.toNat.size)) ∧
    (∃ f : Quad → Quad, u (.ctz d a) f ∧ f 0 = 128 ∧
      ∀ (x : Quad) (n : Nat), x.getLsbD n = true → (∀ m < n, x.getLsbD m = false) → f x = BitVec.ofNat 128 n) ∧
    u (.pop d a) (fun x => BitVec.ofNat 128 ((List.range 128).filter fun n => x.getLsbD n).length) ∧
    ∀ (wd : VTy) (n : Nat), (wd, n) ∈ [(VTy.b, 8), (VTy.h, 16), (VTy.w, 32), (VTy.d, 64)] →
      u (.sext d a wd) (fun x => (x.setWidth n).signExtend 128) ∧ u (.zext d a wd) (fun x => (x.setWidth n).setWidth 128)) ∧
  (∀ (d a : RegNo) (m : BitVec 16) (sh : BitVec 7),
    let u (i : Instr) (f : Quad → Quad) : Prop := Writes i d 1 fun cx => ⟨f (cx.data a), false⟩
    u (.addi d a m) (fun x => BitVec.ofInt 128 (x.toInt + m.toInt)) ∧
    u (.andi d a m) (fun x => x &&& m.setWidth 128) ∧
    u (.ori d a m) (fun x => x ||| m.setWidth 128) ∧
    u (.xori d a m) (fun x => x ^^^ m.setWidth 128) ∧
    u (.slti d a m) (fun x => if x.toInt < m.toInt then 1 else 0) ∧
    u (.sltui d a m) (fun x => if x.toNat < (m.signExtend 128).toNat then 1 else 0) ∧
    u (.slli d a sh) (fun x => BitVec.ofNat 128 (x.toNat * 2 ^ sh.toNat)) ∧
    u (.srli d a sh) (fun x => BitVec.ofNat 128 (x.toNat / 2 ^ sh.toNat)) ∧
    u (.srai d a sh) (fun x => BitVec.ofInt 128 (x.toInt / 2 ^ sh.toNat))) ∧
  ∀ (d : RegNo) (m : BitVec 21), Writes (.lhi d m) d 1 fun _ => ⟨BitVec.ofInt 128 (m.toInt * 2 ^ 16), false⟩

/-- The cget forms decode the data bits of cA whatever the tag, and never fault of their own (R88). cinc and cset: a tagged,
sealed cA raises CAP_PERM with INFO its cursor; otherwise the cursor is moved, the tag survives only a representable cursor, and
bits [127:124] of the result are 0 (R88, R90). -/
def Obligations.CapabilityGetsAndCursors : Prop :=
  (∀ (d a : RegNo),
    let u (i : Instr) (f : CReg → Nat) : Prop := Writes i d 1 fun cx => ⟨BitVec.ofNat 128 (f (cx.read a)), false⟩
    u (.cgetBase d a) (fun c => (decodeBounds c.data).1 % 2 ^ 64) ∧
    u (.cgetLen d a) (fun c => (decodeBounds c.data).2 - (decodeBounds c.data).1) ∧
    u (.cgetPerm d a) (fun c => c.data.toNat / 2 ^ 112 % 2 ^ 12) ∧
    u (.cgetTag d a) (fun c => if c.tag then 1 else 0) ∧
    u (.cgetCur d a) (fun c => c.data.toNat % 2 ^ 64)) ∧
  ∀ (d a b : RegNo) (m : BitVec 16) (s : State) (cx : Cx),
    let c := cx.read a
    let done (i : Instr) (cur : DWord) : Prop := Ready i s cx →
      let data : Quad := BitVec.ofNat 128 (c.data.toNat % 2 ^ 124 / 2 ^ 64 * 2 ^ 64 + cur.toNat)
      (c.tag = true → c.data.getLsbD 119 = true → Raises i cx s { code := 0x06, info := c.data.toNat % 2 ^ 64 }) ∧
      (¬(c.tag = true ∧ c.data.getLsbD 119 = true) → ∃ tag,
        Completes i cx s (s.result cx d 1 ⟨data, tag⟩) .seq ∧
        (tag = true ↔ c.tag = true ∧ decodeBounds (withCur c.data cur) = decodeBounds c.data))
    done (.cinc d a b) (BitVec.ofNat 64 (c.data.toNat + (cx.data b).toNat)) ∧
    done (.cset d a b) (BitVec.ofNat 64 (cx.data b).toNat) ∧
    done (.cincImm d a m) (BitVec.ofInt 64 (c.data.toNat + m.toInt))

/-- cbnd narrows: an untagged cA raises CAP_TAG, a sealed one CAP_PERM, a top above 2^64 or encoded bounds outside cA's raise
CAP_BOUNDS, each with INFO the cursor of cA. Otherwise the result is tagged, its bounds are exactly the encoded ones, which
contain base … base + len and lie inside cA's, PERM and the cursor are cA's, and bits [127:124] are 0 (R15, R87, R88, R89); the encoding
takes the least exponent that holds the bounds. decode_bounds, representable cursors, check_cap, check_cap with the space test in a window,
and check_span are as their pseudocode says, the first failing test deciding, with INFO the address reached (R15 to R17, R125, R196). cperm, cseal and cunseal: their
faults in order, with INFO the cursor of cA, and the PERM of their tagged results (R88, R91). -/
def Obligations.CapabilityNarrowing : Prop :=
  (∀ (d a b : RegNo) (s : State) (cx : Cx), Ready (.cbnd d a b) s cx →
    let c := cx.read a
    let base := c.data.toNat % 2 ^ 64
    let top := base + (cx.data b).toNat % 2 ^ 64
    let n := encodeBounds base top base
    let own := decodeBounds c.data
    let fault (code : Nat) : Prop := Raises (.cbnd d a b) cx s { code := code, info := base }
    (c.tag = false → fault 0x04) ∧
    (c.tag = true → c.data.getLsbD 119 = true → fault 0x06) ∧
    (c.tag = true → c.data.getLsbD 119 = false → (2 ^ 64 < top ∨ n.base < own.1 ∨ own.2 < n.top) → fault 0x05) ∧
    (c.tag = true → c.data.getLsbD 119 = false → top ≤ 2 ^ 64 → own.1 ≤ n.base → n.top ≤ own.2 →
      ∃ r : Quad, Completes (.cbnd d a b) cx s (s.result cx d 1 ⟨r, true⟩) .seq ∧
        decodeBounds r = (n.base, n.top) ∧ n.base ≤ base ∧ top ≤ n.top ∧ capPerm r = capPerm c.data ∧ capCur r = capCur c.data ∧
        r.toNat / 2 ^ 124 = 0 ∧ r.toNat / 2 ^ 106 % 64 = n.e)) ∧
  (∀ (base top : Nat) (cur : DWord), top ≤ 2 ^ 64 →
    let n := encodeBounds base top cur.toNat
    let fits (e b t : Nat) : Prop := b = base / 2 ^ e * 2 ^ e ∧ t = (top + 2 ^ e - 1) / 2 ^ e * 2 ^ e ∧ (t - b) / 2 ^ e < 2 ^ 21 ∧
      decodeBounds (BitVec.ofNat 128 (e * 2 ^ 106 + b / 2 ^ e % 2 ^ 21 * 2 ^ 85 + (t - b) / 2 ^ e * 2 ^ 64 + cur.toNat)) = (b, t)
    (base = 0 → top = 2 ^ 64 → n = ⟨63, 0, 0, 0, 2 ^ 64⟩) ∧
    (¬(base = 0 ∧ top = 2 ^ 64) → (∀ e < 44, e < n.e → ∀ b t, ¬fits e b t) ∧
      ((n.e < 44 ∧ fits n.e n.base n.top ∧ n.bm = n.base / 2 ^ n.e % 2 ^ 21 ∧ n.lm = (n.top - n.base) / 2 ^ n.e) ∨ n = ⟨63, 0, 0, 0, 2 ^ 64⟩))) ∧
  (∀ (c : Quad) (cur : DWord),
    let e := c.toNat / 2 ^ 106 % 64
    let off : Nat := c.toNat / 2 ^ 85 % 2 ^ 21 * 2 ^ e
    let base : Nat := (((c.toNat : Int) % 2 ^ 64 - off) % 2 ^ 64).toNat / 2 ^ (e + 21) * 2 ^ (e + 21) + off
    let top := base + c.toNat / 2 ^ 64 % 2 ^ 21 * 2 ^ e
    decodeBounds c = (if e = 63 then (0, 2 ^ 64) else if 43 < e ∨ 2 ^ 64 < top then (0, 0) else (base, top)) ∧
    (representable c cur = true ↔ decodeBounds (BitVec.ofNat 128 (c.toNat / 2 ^ 64 * 2 ^ 64 + cur.toNat)) = decodeBounds c)) ∧
  (∀ (c : CReg) (off : Int) (size al : Nat) (need : BitVec 12) (lo hi : Nat),
    let a : DWord := BitVec.ofInt 64 (c.data.toNat + off)
    let b := decodeBounds c.data
    let held (p : BitVec 12) : Prop := c.data.extractLsb' 112 12 &&& p = p
    let first (l : List (Prop × Nat)) (run : Chk Nat) : Prop :=
      (∀ pre x post, l = pre ++ x :: post → x.1 → (∀ y ∈ pre, ¬y.1) → run = .error { code := x.2, info := a.toNat }) ∧
      ((∀ x ∈ l, ¬x.1) → run = .ok a.toNat)
    let outside := a.toNat < b.1 ∨ b.2 < a.toNat + size
    let cap : List (Prop × Nat) := [(c.tag = false, 0x04), (c.data.getLsbD 119 = true, 0x06), (¬held need, 0x06), (outside, 0x05)]
    let sp := a.toNat / 2 ^ 60
    first (cap ++ [(a.toNat % size ≠ 0, 0x07)]) ((checkCap c off size need).map BitVec.toNat) ∧
    first (cap ++ [(a.toNat % size ≠ 0, 0x07), (1 ≤ sp ∧ sp ≤ 6 ∧ ¬held 0x200, 0x06), (sp = 7 ∧ ¬held 0x800, 0x06),
      (a.toNat < lo ∨ hi < a.toNat + size, 0x09)]) (checkLocal c off size need lo hi) ∧
    first (cap ++ [(a.toNat % al ≠ 0, 0x07), (a.toNat < lo ∨ hi < a.toNat + size, 0x09)]) (checkSpan c off size need al lo hi)) ∧
  ∀ (d a b : RegNo) (s : State) (cx : Cx),
    let c := cx.read a
    let k := cx.read b
    let fault (i : Instr) (code : Nat) : Prop := Raises i cx s { code := code, info := c.data.toNat % 2 ^ 64 }
    let perm (i : Instr) (p : BitVec 12) : Prop :=
      Completes i cx s (s.result cx d 1 ⟨BitVec.ofNat 128 (p.toNat * 2 ^ 112 + c.data.toNat % 2 ^ 112), true⟩) .seq
    (Ready (.cperm d a b) s cx →
      (c.tag = false → fault (.cperm d a b) 0x04) ∧
      (c.tag = true → sealed c.data = true → fault (.cperm d a b) 0x06) ∧
      (c.tag = true → sealed c.data = false → perm (.cperm d a b) (capPerm c.data &&& (cx.data b).setWidth 12))) ∧
    ∀ (i : Instr) (need : BitVec 12) (was : Bool) (np : BitVec 12),
      (i = .cseal d a b ∧ need = pSEAL ∧ was = false ∧ np = capPerm c.data ||| pSLD) ∨
        (i = .cunseal d a b ∧ need = pUNSEAL ∧ was = true ∧ np = capPerm c.data &&& ~~~pSLD) →
      Ready i s cx →
      (c.tag = false ∨ k.tag = false → fault i 0x04) ∧
      (c.tag = true → k.tag = true → (sealed k.data = true ∨ hasPerm k.data need = false ∨ sealed c.data ≠ was) → fault i 0x06) ∧
      (c.tag = true → k.tag = true → sealed k.data = false → hasPerm k.data need = true → sealed c.data = was →
        ((decodeBounds c.data).1 < (decodeBounds k.data).1 ∨ (decodeBounds k.data).2 < (decodeBounds c.data).2 → fault i 0x05) ∧
        ((decodeBounds k.data).1 ≤ (decodeBounds c.data).1 → (decodeBounds c.data).2 ≤ (decodeBounds k.data).2 → perm i np))

/-! ### Control instructions -/

/-- The conditional branches compare all 128 bits; a taken one goes to pc + 4 × offset, its PCC with that cursor and tag 0 if it
is not representable, and one that is not taken to the sequential address (R73, R92). No register and no byte of memory changes.
j and jl go to pc + 4 × off26, jl writing c30 with the PCC at pc + 4, bits [127:124] 0; jr takes cA with its tag, unsealing a
tagged, sealed capability with X; nop goes on; ifence goes on with its fetch buffer read again (R93, R94, R97, R290). Where these
leave a slot that has no active loop: a redirect leaves its PCC as the target says and its fetch buffer with the four words at
the target's cursor; the sequential address leaves the cursor at pc + 4 and the buffer one word on, with the word at pc + 16 as
memory held it; ifence leaves the four words at pc + 4 as memory holds them; and nothing else of the slot changes, in a tile from its
32 KiB and on a hub from its 256 KiB (R19, R30, R198). That
every redirect reads the four words again, also one to a target whose word stands in the buffer (R31), is log entry 22. -/
def Obligations.BranchesAndJumps : Prop :=
  (∀ (a b : RegNo) (off : BitVec 16) (s : State) (cx : Cx),
    let x := cx.data a
    let y := cx.data b
    let dest : DWord := BitVec.ofInt 64 (cx.pc.toNat + 4 * off.toInt)
    let goes (i : Instr) (taken : Prop) : Prop := Ready i s cx →
      (taken → Completes i cx s s (.jump ⟨withCur cx.slot.pcc.data dest, cx.slot.pcc.tag && representable cx.slot.pcc.data dest⟩)) ∧
      (¬taken → Completes i cx s s .seq)
    goes (.beq a b off) (x = y) ∧ goes (.bne a b off) (x ≠ y) ∧ goes (.blt a b off) (x.toInt < y.toInt) ∧
    goes (.bge a b off) (y.toInt ≤ x.toInt) ∧ goes (.bltu a b off) (x.toNat < y.toNat) ∧ goes (.bgeu a b off) (y.toNat ≤ x.toNat)) ∧
  ∀ (a : RegNo) (off : BitVec 26) (s : State) (cx : Cx),
    let pcc := cx.slot.pcc
    let at' (t : DWord) : CReg := ⟨withCur pcc.data t, pcc.tag && representable pcc.data t⟩
    let dest : DWord := BitVec.ofInt 64 (cx.pc.toNat + 4 * off.toInt)
    let link : CReg := ⟨BitVec.ofNat 128 (pcc.data.toNat % 2 ^ 124 / 2 ^ 64 * 2 ^ 64 + (cx.pc + 4).toNat),
      pcc.tag && representable pcc.data (cx.pc + 4)⟩
    let v := cx.read a
    (Ready (.j off) s cx → Completes (.j off) cx s s (.jump (at' dest))) ∧
    (Ready (.jl off) s cx → Completes (.jl off) cx s (s.result cx 30 1 link) (.jump (at' dest))) ∧
    (Ready (.jr a) s cx →
      (v.tag = true → v.data.getLsbD 119 = true → v.data.getLsbD 114 = true →
        Completes (.jr a) cx s s (.jump ⟨v.data &&& ~~~(1#128 <<< 119), true⟩)) ∧
      (¬(v.tag = true ∧ v.data.getLsbD 119 = true ∧ v.data.getLsbD 114 = true) → Completes (.jr a) cx s s (.jump v))) ∧
    (Ready .nop s cx → Completes .nop cx s s .seq) ∧
    (Ready .ifence s cx → Completes .ifence cx s s .refetch) ∧
    ∀ (sl : Slot) (m : List Host.Cell) (dest : CReg) (ga : Nat → Nat) (size : Nat),
      sl.loop.active = false →
      ((∃ t k j tl q, cx.wh = .tile t k j tl q ∧ ga = tileAddr t ∧ size = 0x8000) ∨
        ∃ d h hb, cx.wh = .hub d h hb ∧ ga = hubAddr d h ∧ size = 0x40000) →
      let word (o : DWord) : Word := BitVec.ofNat 32 (Mem.readLE m (ga o.toNat) 4)
      let four (f : FetchBuf) (o : DWord) : Prop := f.base = o ∧
        (o.toNat + 16 ≤ size → f.words.map FWord.w = [word o, word (o + 4), word (o + 8), word (o + 12)])
      let rest (n : Slot) : Prop := { n with pcc := sl.pcc, fbuf := sl.fbuf } = sl
      let go := sl.advance cx m (.jump dest)
      let re := sl.advance cx m .refetch
      (go.pcc = dest ∧ four go.fbuf (capCur dest.data) ∧ rest go) ∧
      (re.pcc = ⟨withCur sl.pcc.data (cx.pc + 4), sl.pcc.tag⟩ ∧ four re.fbuf (cx.pc + 4) ∧ rest re) ∧
      (∀ nx, nx = .seq ∨ nx = .enter → let n := sl.advance cx m nx
        n.pcc = ⟨withCur sl.pcc.data (cx.pc + 4), sl.pcc.tag⟩ ∧ n.fbuf.base = cx.pc + 4 ∧ rest n ∧
        ∃ w : FWord, n.fbuf.words = sl.fbuf.words.drop 1 ++ [w] ∧ ((cx.pc + 16).toNat + 4 ≤ size → w.w = word (cx.pc + 16))) ∧
      sl.advance cx m .stay = sl

/-- loop: with a loop active it raises ILLEGAL; with a count of 0 the next turn issues at LE and no loop is active; otherwise LC
is the count, the loop is active with LS = pc + 4 and LE = pc + 4 + 4 × len, and the next turn issues at LS (R95). The
loop-back: a context whose sequential next address is LE of its active loop goes back to LS with LC one less while LC is above
1, and otherwise goes on at LE with the loop ended; a redirect outside LS … LE - 4 ends the loop, and one inside leaves it
active with LC unchanged (R95). The sequential address after a loop is pc + 4 with no loop-back decision, whatever LE is; and a
loop-back is a redirect, which reads the four words at LS (R30). The model's: LC is 0 after a loop with a count of 0 (log entry 101), and
a loop-back reads the words at LS again also where they stand in the buffer (log entry 22). -/
def Obligations.Loops : Prop :=
  (∀ (a : RegNo) (len : BitVec 16) (s : State) (cx : Cx), Ready (.loop a len) s cx →
    let n : BitVec 32 := (cx.data a).setWidth 32
    let ls := cx.pc + 4
    let le := cx.pc + 4 + BitVec.ofNat 64 (4 * len.toNat)
    let put (l : LoopSt) : State := s.modCtx cx fun sl => { sl with loop := l }
    (cx.slot.loop.active = true → Raises (.loop a len) cx s { code := 0x01 }) ∧
    (cx.slot.loop.active = false → n = 0 →
      Completes (.loop a len) cx s (put ⟨ls, le, 0, false⟩)
        (.jump ⟨withCur cx.slot.pcc.data le, cx.slot.pcc.tag && representable cx.slot.pcc.data le⟩)) ∧
    (cx.slot.loop.active = false → n ≠ 0 → Completes (.loop a len) cx s (put ⟨ls, le, n, true⟩) .enter)) ∧
  ∀ (sl : Slot) (cx : Cx) (m : List Host.Cell), sl.loop.active = true →
    let nxt := sl.advance cx m .seq
    (cx.pc + 4 = sl.loop.le → 1 < sl.loop.lc.toNat →
      nxt.loop = { sl.loop with lc := sl.loop.lc - 1 } ∧ capCur nxt.pcc.data = sl.loop.ls ∧ nxt.fbuf.base = sl.loop.ls) ∧
    (cx.pc + 4 = sl.loop.le → sl.loop.lc.toNat ≤ 1 → nxt.loop = { sl.loop with active := false } ∧ capCur nxt.pcc.data = cx.pc + 4) ∧
    (cx.pc + 4 ≠ sl.loop.le → nxt.loop = sl.loop ∧ capCur nxt.pcc.data = cx.pc + 4) ∧
    (cx.pc + 4 = sl.loop.le → 1 < sl.loop.lc.toNat → nxt.fbuf = cx.refill m sl.loop.ls ∧
      nxt.pcc = ⟨withCur sl.pcc.data sl.loop.ls, sl.pcc.tag && representable sl.pcc.data sl.loop.ls⟩) ∧
    ((cx.pc + 4 ≠ sl.loop.le ∨ sl.loop.lc.toNat ≤ 1) → nxt.fbuf = ⟨cx.pc + 4, sl.fbuf.words.drop 1 ++ [cx.fetchWord m (cx.pc + 16)]⟩ ∧
      nxt.pcc = ⟨withCur sl.pcc.data (cx.pc + 4), sl.pcc.tag⟩) ∧
    (let ent := sl.advance cx m .enter
     ent.loop = sl.loop ∧ ent.pcc = ⟨withCur sl.pcc.data (cx.pc + 4), sl.pcc.tag⟩ ∧ ent.fbuf.base = cx.pc + 4) ∧
    ∀ pcc : CReg,
      let a := capCur pcc.data
      let far := sl.advance cx m (.jump pcc)
      far.pcc = pcc ∧ far.fbuf.base = a ∧ (far.loop.active = true ↔ sl.loop.ls.toNat ≤ a.toNat ∧ a.toNat + 4 ≤ sl.loop.le.toNat) ∧
        far.loop.lc = sl.loop.lc

/-- hold in a tile: a target in the past raises SLIP_LATE with reason HOLD and INFO the target; otherwise the slot holds the
target, and its first turn at or after it lets it issue again (R96). rep in a tile takes the core's frame buffer for n
iterations of len words with its strides, from the word after it; where a frame holds the buffer it raises ILLEGAL_IN_FRAME, and
where its frame would capture a word at or past LE of the loop body it stands in, ILLEGAL (R95, R118, R119); that the first of the two
is raised where both hold is the model's choice (log entry 31). After word j of
iteration i the frame goes on with word j + 1, after the last word with word 0 of the next iteration, its owner, length, counts and strides
as they were and, in iteration 0, the word captured from the fetch buffer, and after the last word of the last iteration it is over and its
slot goes on behind it (R118). On a hub both raise ILLEGAL (R70, R96). -/
def Obligations.HoldAndRep : Prop :=
  (∀ (a : RegNo) (n : BitVec 8) (len : BitVec 4) (ds as bs es : BitVec 3) (s : State) (cx : Cx) (die h : Nat) (hb : Hub), At s cx →
    cx.wh = .hub die h hb → Raises (.hold a) cx s { code := 0x01 } ∧ Raises (.rep n len ds as bs es) cx s { code := 0x01 }) ∧
  ((∀ (a : RegNo) (s : State) (cx : Cx) (tc : TileCx), Ready (.hold a) s cx → cx.tile = .ok tc →
    let t := (cx.data a).toNat % 2 ^ 64
    (t < (tc.part.tb + cx.n) % 2 ^ 64 → Raises (.hold a) cx s { code := 0x10, reason := 0x01, info := t }) ∧
    ((tc.part.tb + cx.n) % 2 ^ 64 ≤ t →
      Completes (.hold a) cx s (s.modTile tc.t fun tl => tl.setSlot tc.k tc.j { tl.slot tc.k tc.j with hold := some (BitVec.ofNat 64 t) })
        .seq)) ∧
  ∀ (t : Coord) (k : Side) (j : Fin 4) (s : State) (q : Part) (target : DWord), s.partOf t = some q →
    ((s.tile t).slot k j).hold = some target → q.cyc % 4 = j.val → target.toNat ≤ (q.tb + q.cyc) % 2 ^ 64 →
    exec (.holdExpiry t k j) s = .next (s.modTile t fun tl => tl.setSlot k j { tl.slot k j with hold := none })) ∧
  ∀ (n : BitVec 8) (len : BitVec 4) (ds as bs es : BitVec 3) (s : State) (cx : Cx) (tc : TileCx),
    let i : Instr := .rep n len ds as bs es
    Ready i s cx → cx.tile = .ok tc →
    let l := cx.slot.loop
    let past := l.active = true ∧ l.ls.toNat ≤ cx.pc.toNat ∧ cx.pc.toNat + 4 ≤ l.le.toNat ∧
      l.le.toNat ≤ (cx.pc + BitVec.ofNat 64 (4 * (len.toNat + 1))).toNat
    ((tc.tile.core tc.k).frame ≠ none → Raises i cx s { code := 0x03 }) ∧
    ((tc.tile.core tc.k).frame = none → past → Raises i cx s { code := 0x01 }) ∧
    ((tc.tile.core tc.k).frame = none → ¬past →
      Completes i cx s (s.modTile tc.t fun tl => tl.setCore tc.k { tl.core tc.k with
        frame := some ⟨tc.j, cx.pc + 4, [], n.toNat + 1, len.toNat + 1, ds.toNat, as.toNat, bs.toNat, es.toNat, 0, 0⟩ }) .enter) ∧
    ∀ (c : Core) (f : Frame) (j : Fin 4), c.frame = some f →
      let u := c.frameStep cx s.mem j f
      let cur := capCur (u.slots[j]).pcc.data
      let words := if f.i = 0 then f.words ++ [(c.slots[j]).fbuf.words.headD ⟨cx.word, false⟩] else f.words
      (f.j + 1 < f.len → u.frame = some { f with j := f.j + 1, words := words } ∧ cur = f.base + BitVec.ofNat 64 (4 * (f.j + 1))) ∧
      (f.len ≤ f.j + 1 → f.i + 1 < f.n → u.frame = some { f with i := f.i + 1, j := 0, words := words } ∧ cur = f.base) ∧
      (f.len ≤ f.j + 1 → f.n ≤ f.i + 1 → u.frame = none ∧
        ((c.slots[j]).loop.active = false → cur = f.base + BitVec.ofNat 64 (4 * f.len))) ∧
      { u with frame := c.frame, slots := c.slots } = c ∧ ∀ j', j' ≠ j → u.slots[j'] = c.slots[j']

/-! ### Local memory -/

/-- The load forms of a tile read in the issue cycle: a failing check of the capability, the window or alignment raises its
fault; otherwise the bytes, extended as the form says, go to cD after 2 turns (ldb.q: 3), with tag 0 but for ld.c, which takes
the quad's memory tag (R17, R98 to R100). -/
def Obligations.TileLoads : Prop :=
  ∀ (d a : RegNo) (off : BitVec 12) (s : State) (cx : Cx) (tc : TileCx), cx.tile = .ok tc →
    let load (i : Instr) (size lat : Nat) (need : BitVec 12) (lo hi : Nat) (v : Nat → Nat → CReg) : Prop := Ready i s cx →
      (∀ f, checkLocal (cx.read a) off.toInt size need lo hi = .error f → Raises i cx s f) ∧
      (∀ o, checkLocal (cx.read a) off.toInt size need lo hi = .ok o →
        (∀ f, tc.tile.eccAt o size = some f → Raises i cx s f) ∧
        (tc.tile.eccAt o size = none →
          Completes i cx s (s.result cx d lat (v o (Mem.readLE s.mem (tileAddr tc.t o) size))) .seq))
    load (.ldB d a off) 1 2 0x001 0 0x8000 (fun _ m => ⟨(BitVec.ofNat 8 m).signExtend 128, false⟩) ∧
    load (.ldBu d a off) 1 2 0x001 0 0x8000 (fun _ m => ⟨BitVec.ofNat 128 m, false⟩) ∧
    load (.ldH d a off) 2 2 0x001 0 0x8000 (fun _ m => ⟨(BitVec.ofNat 16 m).signExtend 128, false⟩) ∧
    load (.ldHu d a off) 2 2 0x001 0 0x8000 (fun _ m => ⟨BitVec.ofNat 128 m, false⟩) ∧
    load (.ldW d a off) 4 2 0x001 0 0x8000 (fun _ m => ⟨BitVec.ofNat 128 m, false⟩) ∧
    load (.ldD d a off) 8 2 0x001 0 0x8000 (fun _ m => ⟨BitVec.ofNat 128 m, false⟩) ∧
    load (.ldQ d a off) 16 2 0x001 0 0x8000 (fun _ m => ⟨BitVec.ofNat 128 m, false⟩) ∧
    load (.ldC d a off) 16 2 0x009 0 0x8000 (fun o m => ⟨BitVec.ofNat 128 m, s.qtags.contains (tileAddr tc.t o)⟩) ∧
    load (.ldbQ d a off) 16 3 0x001 0x8000 0x18000 (fun _ m => ⟨BitVec.ofNat 128 m, false⟩)

/-- ld.fe: an empty word raises SLIP_EMPTY with reason FULL and INFO its address, and so does, for an execute core, one that the access
core's ld.fe clears in the same cycle; a full one is read after 2 turns and its full bit is cleared at the end of the issue cycle (R99, R100,
R203, R225). A damaged word, or a damaged oldest store-queue entry, raises its fault after these tests (R272, R397). ld.lq and st.sq: the queues move at their
cycles, and a full load queue (with the pushes still due) or an empty store queue slips with reason QUEUE (R100 to R102). -/
def Obligations.FullEmptyAndQueues : Prop :=
  (∀ (d a : RegNo) (off : BitVec 12) (s : State) (cx : Cx) (tc : TileCx) (o : Nat), Ready (.ldFe d a off) s cx →
    cx.tile = .ok tc → checkLocal (cx.read a) off.toInt 8 0x101 0 0x8000 = .ok o →
    let taken := tc.k = .execute ∧ ∃ p ∈ tc.tile.pend, p.due = cx.n ∧ ∃ k j, p.eff = .fullClear k j o
    (s.isFull tc.t o = false ∨ taken → Raises (.ldFe d a off) cx s { code := 0x11, reason := 0x03, info := o }) ∧
    (∀ f, s.isFull tc.t o = true → ¬taken → tc.tile.eccAt o 8 = some f → Raises (.ldFe d a off) cx s f) ∧
    (s.isFull tc.t o = true → ¬taken → tc.tile.eccAt o 8 = none →
      Completes (.ldFe d a off) cx s ((s.due cx cx.n (.fullClear tc.k tc.j o)).result cx d 2
        ⟨BitVec.ofNat 128 (Mem.readLE s.mem (tileAddr tc.t o) 8), false⟩) .seq)) ∧
  ∀ (a : RegNo) (off : BitVec 12) (s : State) (cx : Cx) (tc : TileCx) (o : Nat), cx.tile = .ok tc →
    (Ready (.ldLq a off) s cx → checkLocal (cx.read a) off.toInt 16 0x001 0 0x8000 = .ok o →
      (8 ≤ tc.tile.lq.length + tc.tile.lqPending → Raises (.ldLq a off) cx s { code := 0x10, reason := 0x02 }) ∧
      (∀ f, tc.tile.lq.length + tc.tile.lqPending < 8 → tc.tile.eccAt o 16 = some f → Raises (.ldLq a off) cx s f) ∧
      (tc.tile.lq.length + tc.tile.lqPending < 8 → tc.tile.eccAt o 16 = none →
        Completes (.ldLq a off) cx s
          (s.due cx (cx.n + 7) (.lqPush tc.j (BitVec.ofNat 128 (Mem.readLE s.mem (tileAddr tc.t o) 16)))) .seq)) ∧
    (Ready (.stSq a off) s cx → checkLocal (cx.read a) off.toInt 16 0x002 0 0x8000 = .ok o →
      (tc.tile.sq = [] → Raises (.stSq a off) cx s { code := 0x11, reason := 0x02 }) ∧
      (tc.tile.sq ≠ [] → damaged tc.tile.damage 0x23 8 = true → Raises (.stSq a off) cx s { code := 0x30, reason := 0x23, info := 8 }) ∧
      (∀ v l, tc.tile.sq = v :: l → damaged tc.tile.damage 0x23 8 = false →
        Completes (.stSq a off) cx s ((s.due cx cx.n .sqPop).due cx (cx.n + 3)
          (.store o (leBytes 16 v.toNat) false false (storeWriter tc))) .seq))

/-- The store forms of a tile: a failing check raises its fault; otherwise the low bytes of cD fall due as a store at the end of
cycle n + 3, st.c with the register's tag and st.fe with the full bit (R98 to R100). No byte changes in the issue cycle. -/
def Obligations.TileStores : Prop :=
  ∀ (d a : RegNo) (off : BitVec 12) (s : State) (cx : Cx) (tc : TileCx), cx.tile = .ok tc →
    let store (i : Instr) (size : Nat) (need : BitVec 12) (lo hi : Nat) (tag full : Bool) : Prop := Ready i s cx →
      (∀ f, checkLocal (cx.read a) off.toInt size need lo hi = .error f → Raises i cx s f) ∧
      (∀ o, checkLocal (cx.read a) off.toInt size need lo hi = .ok o →
        Completes i cx s (s.due cx (cx.n + 3) (.store o (leBytes size (cx.data d).toNat) tag full (storeWriter tc))) .seq)
    store (.stB d a off) 1 0x002 0 0x8000 false false ∧
    store (.stH d a off) 2 0x002 0 0x8000 false false ∧
    store (.stW d a off) 4 0x002 0 0x8000 false false ∧
    store (.stD d a off) 8 0x002 0 0x8000 false false ∧
    store (.stQ d a off) 16 0x002 0 0x8000 false false ∧
    store (.stC d a off) 16 0x012 0 0x8000 (cx.read d).tag false ∧
    store (.stFe d a off) 8 0x102 0 0x8000 false true ∧
    store (.stbQ d a off) 16 0x002 0x8000 0x18000 false false

/-- Loads and stores of a hub in its own SRAM act in their issue: the load's value is in cD, and the store's bytes are in
memory, at the next issue, every other byte of memory reads as before, and the quad's memory tag is the register's for st.c and else 0 (R18,
R198, R217). A hub's loads and stores of another space block: without an answer, the access is sent on its way and the hub waits, one of
virtual space after its translation by the hub's ASID, and a miss asks for a translation and waits for it; the answer, once it has come,
completes the instruction at its next issue, or raises its fault (R145, R198, R232, R318, R321). -/
def Obligations.HubAccesses : Prop :=
  (∀ (d a : RegNo) (off : BitVec 12) (s : State) (cx : Cx) (die h : Nat) (hb : Hub) (ad : DWord), cx.wh = .hub die h hb →
    ad.toNat < 0x40000 → (s.hub die h).damage = [] →
    let ga := hubAddr die h ad.toNat
    let load (i : Instr) (size : Nat) (need : BitVec 12) (v : Nat → CReg) : Prop := Ready i s cx →
      checkCap (cx.read a) off.toInt size need = .ok ad → Completes i cx s (s.result cx d 1 (v (Mem.readLE s.mem ga size))) .seq
    let store (i : Instr) (size : Nat) (need : BitVec 12) (tag : Bool) : Prop := Ready i s cx →
      checkCap (cx.read a) off.toInt size need = .ok ad → Mem.wf s.mem = true →
      ∃ u, Completes i cx s u .seq ∧ Mem.readLE u.mem ga size = (cx.data d).toNat % 2 ^ (8 * size) ∧
        (∀ b, (b < ga ∨ ga + size ≤ b) → Mem.get u.mem b = Mem.get s.mem b) ∧ u.tiles = s.tiles ∧ u.parts = s.parts ∧
        (u.hub die h).ctx = (s.hub die h).ctx ∧
        ∀ q, u.qtags.contains q = if q = ga / 16 * 16 then tag else s.qtags.contains q
    load (.ldB d a off) 1 0x001 (fun m => ⟨(BitVec.ofNat 8 m).signExtend 128, false⟩) ∧
    load (.ldBu d a off) 1 0x001 (fun m => ⟨BitVec.ofNat 128 m, false⟩) ∧
    load (.ldH d a off) 2 0x001 (fun m => ⟨(BitVec.ofNat 16 m).signExtend 128, false⟩) ∧
    load (.ldHu d a off) 2 0x001 (fun m => ⟨BitVec.ofNat 128 m, false⟩) ∧
    load (.ldW d a off) 4 0x001 (fun m => ⟨BitVec.ofNat 128 m, false⟩) ∧
    load (.ldD d a off) 8 0x001 (fun m => ⟨BitVec.ofNat 128 m, false⟩) ∧
    load (.ldQ d a off) 16 0x001 (fun m => ⟨BitVec.ofNat 128 m, false⟩) ∧
    load (.ldC d a off) 16 0x009 (fun m => ⟨BitVec.ofNat 128 m, s.qtags.contains ga⟩) ∧
    store (.stB d a off) 1 0x002 false ∧ store (.stH d a off) 2 0x002 false ∧ store (.stW d a off) 4 0x002 false ∧
    store (.stD d a off) 8 0x002 false ∧ store (.stQ d a off) 16 0x002 false ∧ store (.stC d a off) 16 0x012 (cx.read d).tag) ∧
  ∀ (d a : RegNo) (off : BitVec 12) (s : State) (cx : Cx) (die h : Nat) (hb : Hub) (ad : DWord), cx.wh = .hub die h hb → spaceOf ad ≠ 0 →
    let asid := (s.hub die h).hasid.toNat
    let waits (u : State) (w : Wait) : State := u.modHub die h fun x => { x with wait := some w }
    let form (i : Instr) (size : Nat) (need : BitVec 12) (op : LooseOp) (data : List Byte) (fits : List Byte → Prop)
        (fin : State → List Byte → Bool → State) : Prop := Ready i s cx →
      checkCap (cx.read a) off.toInt size need = .ok ad → checkSpacePerm (cx.read a) ad = .ok () →
      let sent (u : State) (n : Nat) (via : List (Nat × Nat)) : Prop :=
        (∀ f, u.routeAccess n size = .error f → Raises i cx s { f with info := ad.toNat }) ∧
        ∀ dest path, u.routeAccess n size = .ok (dest, path) → Completes i cx s
          (waits (u.sendLoose ⟨.hub die h, op, BitVec.ofNat 64 n, size, data, 0, hasPerm (cx.read a).data 0x800⟩ dest via) (.answer i)) .stay
      let va := ad.toNat % 2 ^ 48
      ((s.hub die h).answer = none → spaceOf ad ≠ 3 → sent s ad.toNat []) ∧
      ((s.hub die h).answer = none → spaceOf ad = 3 →
        (ad.toNat % 2 ^ 60 / 2 ^ 48 ≠ 0 → Raises i cx s { code := 0x09, info := ad.toNat }) ∧
        (ad.toNat % 2 ^ 60 / 2 ^ 48 = 0 →
          (∀ u n cls e, s.xlateAt die asid va (opNeed op) true = .hit u n cls e → sent u n [(die, e)]) ∧
          ∀ full, s.xlateAt die asid va (opNeed op) true = .miss full → Completes i cx s
            (waits (s.askXlate die h true (opKind op) asid va full).1 (.translation (s.askXlate die h true (opKind op) asid va full).2)) .stay)) ∧
      (∀ bytes tag, (s.hub die h).answer = some (.ok bytes tag) → fits bytes →
        Completes i cx s (fin (s.modHub die h fun x => { x with answer := none }) bytes tag) .seq) ∧
      ((s.hub die h).answer = some .refused → Raises i cx s { code := 0x21, info := ad.toNat }) ∧
      ((s.hub die h).answer = some .pathDown → Raises i cx s { code := 0x2A, info := ad.toNat })
    let load (i : Instr) (size : Nat) (v : Nat → CReg) : Prop :=
      form i size 0x001 .read [] (fun l => l.length = size) fun u l _ => u.result cx d 1 (v (leNat l))
    let store (i : Instr) (size : Nat) : Prop := form i size 0x002 .write (leBytes size (cx.data d).toNat) (fun _ => True) fun u _ _ => u
    load (.ldB d a off) 1 (fun m => ⟨(BitVec.ofNat 8 m).signExtend 128, false⟩) ∧ load (.ldBu d a off) 1 (fun m => ⟨BitVec.ofNat 128 m, false⟩) ∧
    load (.ldH d a off) 2 (fun m => ⟨(BitVec.ofNat 16 m).signExtend 128, false⟩) ∧ load (.ldHu d a off) 2 (fun m => ⟨BitVec.ofNat 128 m, false⟩) ∧
    load (.ldW d a off) 4 (fun m => ⟨BitVec.ofNat 128 m, false⟩) ∧ load (.ldD d a off) 8 (fun m => ⟨BitVec.ofNat 128 m, false⟩) ∧
    load (.ldQ d a off) 16 (fun m => ⟨BitVec.ofNat 128 m, false⟩) ∧
    form (.ldC d a off) 16 0x009 .readCap [] (fun _ => True) (fun u l tag => u.result cx d 1 ⟨BitVec.ofNat 128 (leNat l), tag⟩) ∧
    store (.stB d a off) 1 ∧ store (.stH d a off) 2 ∧ store (.stW d a off) 4 ∧ store (.stD d a off) 8 ∧ store (.stQ d a off) 16 ∧
    form (.stC d a off) 16 0x012 (.writeCap (cx.read d).tag) (leBytes 16 (cx.data d).toNat) (fun _ => True) fun u _ _ => u

/-! ### Vector instructions -/

/-- A floating form of one, two or three sources works lane by lane: lane k of its result is the lane function of lanes k of its
sources, and a flag is raised exactly when some lane raises it (R42, R103). vsum adds the lanes in its tree of fadd and ORs the flags of
all additions, and vmaxr and vminr give the greatest and least lane with -0 below +0, or the NaN (R108). The lane functions: round_to_format gives every element the code and the
flags of R45 for an exact value, a NaN and a zero as R45 and R47 say; fadd, fsub and fmul, and fma and fms are one
rounding of the exact sum or product, with the signs of zeros, the infinities and the invalid operations of R106, fsub being fadd with
the sign of its second lane inverted; frcp, frsq and fsqrt are one rounding of 1/a, 1/√a and √a, fex2 and flg2 of 2^a and log₂ a where
that is a power of two and an integer, and special inputs give the table of R109; fcmp and the order of fmin and fmax are those of the values (R107); fsin and fcos follow the
steps of trig (R110), / being the floor of a quotient. SR acts as RNE in these forms (R104). That fex2 and
flg2 are correctly rounded where their results are irrational as well is log entry 5. -/
def Obligations.LanesAreIndependent : Prop :=
  (∀ (ty : FTy) (op : Nat → Nat → Nat × FlagSet) (x y : Quad),
    let w := (laneElem ty).width
    let lane (v : Quad) (k : Nat) : Nat := v.toNat / 2 ^ (w * k) % 2 ^ w
    (∀ k < laneCount ty, lane (mapF2 ty op x y).1 k = (op (lane x k) (lane y k)).1 % 2 ^ w) ∧
    ∀ n, (mapF2 ty op x y).2.getLsbD n = true ↔ ∃ k < laneCount ty, (op (lane x k) (lane y k)).2.getLsbD n = true) ∧
  (∀ (ty : FTy) (op : Nat → Nat × FlagSet) (op3 : Nat → Nat → Nat → Nat × FlagSet) (x y z : Quad),
    let w := (laneElem ty).width
    let lane (v : Quad) (k : Nat) : Nat := v.toNat / 2 ^ (w * k) % 2 ^ w
    (∀ k < laneCount ty, lane (mapF ty op x).1 k = (op (lane x k)).1 % 2 ^ w ∧
      lane (mapF3 ty op3 x y z).1 k = (op3 (lane x k) (lane y k) (lane z k)).1 % 2 ^ w) ∧
    ∀ n, ((mapF ty op x).2.getLsbD n = true ↔ ∃ k < laneCount ty, (op (lane x k)).2.getLsbD n = true) ∧
      ((mapF3 ty op3 x y z).2.getLsbD n = true ↔ ∃ k < laneCount ty, (op3 (lane x k) (lane y k) (lane z k)).2.getLsbD n = true)) ∧
  (∀ (ty : FTy) (rm : RMode) (q : Quad),
    let f := laneElem ty
    let w := f.width
    let l (k : Nat) : Nat := q.toNat / 2 ^ (w * k) % 2 ^ w
    let add (a b : Nat × FlagSet) : Nat × FlagSet := ((addCodes f rm a.1 b.1).1, a.2 ||| b.2 ||| (addCodes f rm a.1 b.1).2)
    let four (k : Nat) : Nat × FlagSet :=
      add (add (l k, flNone) (l (k + 1), flNone)) (add (l (k + 2), flNone) (l (k + 3), flNone))
    let sum := if ty = .f32 then four 0 else add (four 0) (four 4)
    vsumQ ty rm q = (BitVec.ofNat 128 sum.1, sum.2) ∧ sum.1 < 2 ^ w ∧
    ∀ isMax,
      ((∃ k < laneCount ty, f.decode (l k) = .nan) → vfoldQ isMax ty q = if ty = .f32 then 0x7FC00000 else 0x7FC0) ∧
      ((∀ k < laneCount ty, f.decode (l k) ≠ .nan) → ∃ k < laneCount ty, vfoldQ isMax ty q = BitVec.ofNat 128 (l k) ∧
        ∀ j < laneCount ty, if isMax then (f.value (l j)).le0 (f.value (l k)) = true else (f.value (l k)).le0 (f.value (l j)) = true)) ∧
  (∀ (f : Elem) (rm : RMode) (sat s : Bool) (lane num den : Nat), 0 < den →
    (0 < num → RoundsTo f rm sat lane s ((num : ℝ) / den) (roundToFormat (.fin s num den) f rm sat lane)) ∧
    roundToFormat (.fin s 0 den) f rm sat lane = (if f.fpParams.isSome ∧ s = true then 2 ^ (f.width - 1) else 0, flNone) ∧
    roundToFormat .nan f rm sat lane = match f.nan with | some c => (c, flNone) | none => (0, flNV)) ∧
  (∀ (ty : FTy) (rm : RMode) (a b c : Nat),
    let f := laneElem ty
    let x := f.decode a
    let y := f.decode b
    let z := f.decode c
    let m : RMode := if rm = .sr then .rne else rm
    let nan : Nat := if ty = .f32 then 0x7FC00000 else 0x7FC0
    let inf (s : Bool) : Nat := (if ty = .f32 then 0x7F800000 else 0x7F80) + (if s then 2 ^ (f.width - 1) else 0)
    let zero (s : Bool) : Nat := if s then 2 ^ (f.width - 1) else 0
    let exact (v : ℚ) (s0 : Bool) (r : Nat × FlagSet) : Prop :=
      (v ≠ 0 → RoundsTo f m false 0 (decide (v < 0)) |(v : ℝ)| r) ∧ (v = 0 → r = (zero s0, flNone))
    (x = .nan ∨ y = .nan → addCodes f rm a b = (nan, flNone) ∧ mulCodes f rm a b = (nan, flNone)) ∧
    (x = .nan ∨ y = .nan ∨ z = .nan → ∀ minus, fusedCodes minus f rm a b c = (nan, flNone)) ∧
    (∀ s t, x = .inf s → y = .inf t →
      addCodes f rm a b = (if s = t then (inf s, flNone) else (nan, flNV)) ∧ mulCodes f rm a b = (inf (s != t), flNone)) ∧
    (∀ s t n e, x = .inf s → y = .fin t n e → addCodes f rm a b = (inf s, flNone) ∧ addCodes f rm b a = (inf s, flNone) ∧
      mulCodes f rm a b = (if n = 0 then (nan, flNV) else (inf (s != t), flNone)) ∧ mulCodes f rm b a = mulCodes f rm a b) ∧
    (∀ s t n k d e, x = .fin s n d → y = .fin t k e →
      exact (x.rat + y.rat) (if s = t then s else decide (rm = .rdn)) (addCodes f rm a b) ∧
      exact (x.rat * y.rat) (s != t) (mulCodes f rm a b) ∧
      ∀ u l g, z = .fin u l g →
        exact (x.rat * y.rat + z.rat) (if (s != t) = u then u else decide (rm = .rdn)) (fusedCodes false f rm a b c) ∧
        exact (x.rat * y.rat - z.rat) (if (s != t) = !u then !u else decide (rm = .rdn)) (fusedCodes true f rm a b c)) ∧
    (∀ minus s t n e, z ≠ .nan → n = 0 → ((x = .inf s ∧ y = .fin t n e) ∨ (x = .fin s n e ∧ y = .inf t)) →
      fusedCodes minus f rm a b c = (nan, flNV)) ∧
    (∀ minus s t u, (x = .inf s ∧ (y = .inf t ∨ ∃ n e, n ≠ 0 ∧ y = .fin t n e)) ∨ ((∃ n e, n ≠ 0 ∧ x = .fin s n e) ∧ y = .inf t) →
      (z = .inf u → fusedCodes minus f rm a b c = if (s != t) = (u != minus) then (inf (s != t), flNone) else (nan, flNV)) ∧
      ∀ l g, z = .fin u l g → fusedCodes minus f rm a b c = (inf (s != t), flNone)) ∧
    (∀ minus s t u n k d e, x = .fin s n d → y = .fin t k e → z = .inf u → fusedCodes minus f rm a b c = (inf (u != minus), flNone)) ∧
    (∀ s t n e k g,
      let all : Nat := 2 ^ f.width - 1
      let order (le lt eq : Bool) : Prop := x.exact.le0 y.exact = le ∧ cmpCodes .eq f a b = (if eq then all else 0, flNone) ∧
        cmpCodes .lt f a b = (if lt then all else 0, flNone) ∧ cmpCodes .le f a b = (if lt || eq then all else 0, flNone)
      (x = .inf s → y = .inf t → order (s || !t) (s && !t) (s == t)) ∧ (x = .inf s → y = .fin t k g → order s s false) ∧
      (x = .fin s n e → y = .inf t → order (!t) (!t) false) ∧
      (x = .fin s n e → y = .fin t k g → order (decide (x.rat < y.rat) || (decide (x.rat = y.rat) && (s || !t)))
        (decide (x.rat < y.rat)) (decide (x.rat = y.rat)))) ∧
    (x = .nan ∨ y = .nan → cmpCodes .eq f a b = (0, flNone) ∧ cmpCodes .lt f a b = (0, flNV) ∧ cmpCodes .le f a b = (0, flNV)) ∧
    subCodes f rm a b = addCodes f rm a ((b + 2 ^ (f.width - 1)) % 2 ^ f.width) ∧
    (rm ≠ .sr →
      let sp (fn : SpecialFn) : Nat × FlagSet := specialLane fn f rm x
      (x = .nan → ∀ fn, sp fn = (nan, flNone)) ∧
      (∀ s, x = .inf s → sp .rcp = (zero s, flNone) ∧ sp .rsq = (if s then (nan, flNV) else (0, flNone)) ∧
        sp .sqrt = (if s then (nan, flNV) else (inf false, flNone)) ∧ sp .ex2 = (if s then (0, flNone) else (inf false, flNone)) ∧
        sp .lg2 = (if s then (nan, flNV) else (inf false, flNone))) ∧
      (∀ s e, x = .fin s 0 e → sp .rcp = (inf s, flDZ) ∧ sp .rsq = (inf s, flDZ) ∧ sp .sqrt = (zero s, flNone) ∧
        sp .ex2 = (if ty = .f32 then 0x3F800000 else 0x3F80, flNone) ∧ sp .lg2 = (inf true, flDZ)) ∧
      ∀ s n e, x = .fin s n e → n ≠ 0 →
        let v : ℝ := |(x.rat : ℝ)|
        RoundsTo f rm false 0 s v⁻¹ (sp .rcp) ∧
        (s = true → sp .rsq = (nan, flNV) ∧ sp .sqrt = (nan, flNV) ∧ sp .lg2 = (nan, flNV)) ∧
        (s = false → RoundsTo f rm false 0 false (Real.sqrt v)⁻¹ (sp .rsq) ∧ RoundsTo f rm false 0 false (Real.sqrt v) (sp .sqrt)) ∧
        (∀ k : ℤ, x.rat = k → RoundsTo f rm false 0 false ((2 : ℝ) ^ k) (sp .ex2)) ∧
        ∀ k : ℤ, s = false → x.rat = (2 : ℚ) ^ k →
          (k ≠ 0 → RoundsTo f rm false 0 (decide (k < 0)) |(k : ℝ)| (sp .lg2)) ∧ (k = 0 → sp .lg2 = (0, flNone))) ∧
    (rm ≠ .sr → ∀ sine : Bool,
      let r := trigLane sine f rm x
      (x = .nan → r = (nan, flNone)) ∧ (∀ s, x = .inf s → r = (nan, flNV)) ∧
      ∀ s n e, x = .fin s n e →
        let v := x.rat
        let small : Prop := sine = true ∧ |v| < 1 / 2 ^ 12
        (2 ^ 18 ≤ |v| → r = (nan, flNV)) ∧
        (small → (n ≠ 0 → RoundsTo f rm false 0 s |(v : ℝ)| r) ∧ (n = 0 → r = (zero s, flNone))) ∧
        (|v| < 2 ^ 18 → ¬small →
          let T : ℤ := ⌊v * 13539405185619352255862778433820118492 / 2 ^ 80⌋
          let k : ℤ := (T + 2 ^ 39) / 2 ^ 40
          let F : ℤ := T - k * 2 ^ 40
          let g1 : ℤ := F * 107944301636 / 2 ^ 40
          let g2 : ℤ := g1 * g1 / 2 ^ 40
          let g3 : ℤ := g2 * g1 / 2 ^ 40
          let g5 : ℤ := (g2 * g2 / 2 ^ 40) * g1 / 2 ^ 40
          let sp : ℤ := g1 - g3 / 6 + g5 / 120
          let cp : ℤ := 2 ^ 40 - g2 / 2 + (g2 * g2 / 2 ^ 40) / 24
          let S : ℤ := trigTS.getD (k % 64).toNat 0
          let C : ℤ := trigTC.getD (k % 64).toNat 0
          exact (((if sine then (S * cp + C * sp) / 2 ^ 40 else (C * cp - S * sp) / 2 ^ 40 : ℤ) : ℚ) / 2 ^ 40) false r)))

/-- The rounding VFP and VSF forms: a reserved fm.RM raises FORMAT; otherwise the lanes are rounded in that mode, SR as RNE, the
result has tag 0 and the flags are ORed into fl, both after 2 turns (VSF: 4) (R103, R104, R106, R108 to R110). The other VFP
forms never read fm: fmin and fmax with -0 below +0, fabs and fneg on the sign bit, fcmp by value, fsel and the folds, each NaN
it writes the canonical one (R103, R107, R108). -/
def Obligations.FloatingForms : Prop :=
  (∀ (d a b e : RegNo) (ty : FTy) (s : State) (cx : Cx),
    let f := laneElem ty
    let x := cx.data a
    let form (i : Instr) (lat : Nat) (v : RMode → Quad × FlagSet) : Prop := Ready i s cx →
      (∀ rm, rmode (cx.slot.fm.toNat / 2 ^ 21 % 8) = some rm →
        Completes i cx s ((s.result cx d lat ⟨(v rm).1, false⟩).flags cx lat (v rm).2) .seq) ∧
      (5 ≤ cx.slot.fm.toNat / 2 ^ 21 % 8 → Raises i cx s { code := 0x02 })
    form (.fadd d a b ty) 2 (fun rm => mapF2 ty (addCodes f rm) x (cx.data b)) ∧
    form (.fsub d a b ty) 2 (fun rm => mapF2 ty (subCodes f rm) x (cx.data b)) ∧
    form (.fmul d a b ty) 2 (fun rm => mapF2 ty (mulCodes f rm) x (cx.data b)) ∧
    form (.fma d a b e ty) 2 (fun rm => mapF3 ty (fusedCodes false f rm) x (cx.data b) (cx.data e)) ∧
    form (.fms d a b e ty) 2 (fun rm => mapF3 ty (fusedCodes true f rm) x (cx.data b) (cx.data e)) ∧
    form (.vsum d a ty) 2 (fun rm => vsumQ ty rm x) ∧
    form (.frcp d a ty) 4 (fun rm => mapF ty (fun c => specialLane .rcp f rm.noSR (f.decode c)) x) ∧
    form (.frsq d a ty) 4 (fun rm => mapF ty (fun c => specialLane .rsq f rm.noSR (f.decode c)) x) ∧
    form (.fsqrt d a ty) 4 (fun rm => mapF ty (fun c => specialLane .sqrt f rm.noSR (f.decode c)) x) ∧
    form (.fex2 d a ty) 4 (fun rm => mapF ty (fun c => specialLane .ex2 f rm.noSR (f.decode c)) x) ∧
    form (.flg2 d a ty) 4 (fun rm => mapF ty (fun c => specialLane .lg2 f rm.noSR (f.decode c)) x) ∧
    form (.fsin d a ty) 4 (fun rm => mapF ty (fun c => trigLane true f rm.noSR (f.decode c)) x) ∧
    form (.fcos d a ty) 4 (fun rm => mapF ty (fun c => trigLane false f rm.noSR (f.decode c)) x)) ∧
  ∀ (d a b e : RegNo) (ty : FTy) (s : State) (cx : Cx),
    let f := laneElem ty
    let nan := (nanResult f).1
    let isNan (c : Nat) : Bool := (f.value c).isNan
    let x := cx.data a
    let y := cx.data b
    let form (i : Instr) (v : Quad × FlagSet) : Prop := Ready i s cx →
      Completes i cx s ((s.result cx d 2 ⟨v.1, false⟩).flags cx 2 v.2) .seq
    form (.fmin d a b ty) (mapF2 ty (fun p q => (if isNan p || isNan q then nan else if (f.value p).le0 (f.value q) then p else q, 0)) x y) ∧
    form (.fmax d a b ty) (mapF2 ty (fun p q => (if isNan p || isNan q then nan else if (f.value p).le0 (f.value q) then q else p, 0)) x y) ∧
    form (.fabs d a ty) (mapF ty (fun p => (if isNan p then nan else p % 2 ^ (f.width - 1), 0)) x) ∧
    form (.fneg d a ty) (mapF ty (fun p => (if isNan p then nan else (p + 2 ^ (f.width - 1)) % 2 ^ f.width, 0)) x) ∧
    form (.fcmpEq d a b ty) (mapF2 ty (cmpCodes .eq f) x y) ∧
    form (.fcmpLt d a b ty) (mapF2 ty (cmpCodes .lt f) x y) ∧
    form (.fcmpLe d a b ty) (mapF2 ty (cmpCodes .le f) x y) ∧
    form (.fsel d a b e ty) (mapF3 ty (fun p q r =>
      (let c := if r / 2 ^ (f.width - 1) % 2 = 1 then p else q
       if isNan c then nan else c, 0)) x y (cx.data e)) ∧
    form (.vmaxr d a ty) (vfoldQ true ty x, 0) ∧
    form (.vminr d a ty) (vfoldQ false ty x, 0)

/-- The VINT forms, lane by lane of w = 8, 16, 32 or 64 bits and modulo 2^w, with tag 0 and no flag, after 1 turn (vmul: 2)
(R103, R111). -/
def Obligations.PackedIntegerResults : Prop :=
  ∀ (d a b : RegNo) (ty : VTy) (idx : BitVec 5),
    let lanes (v : Quad) : List Nat := lanesOf v.toNat (VTy.bits ty) ty.lanes
    let pack (l : List Nat) : CReg := ⟨BitVec.ofNat 128 (packLanes (VTy.bits ty) l), false⟩
    let w := VTy.bits ty
    let form (i : Instr) (lat : Nat) (f : Nat → Nat → Nat) : Prop :=
      Writes i d lat fun cx => pack (List.zipWith f (lanes (cx.data a)) (lanes (cx.data b)))
    form (.vadd d a b ty) 1 (fun x y => x + y) ∧
    form (.vsub d a b ty) 1 (fun x y => x + (2 ^ w - y)) ∧
    form (.vmul d a b ty) 2 (fun x y => x * y) ∧
    form (.vmin d a b ty) 1 (fun x y => if sextNat x w ≤ sextNat y w then x else y) ∧
    form (.vmax d a b ty) 1 (fun x y => if sextNat x w ≤ sextNat y w then y else x) ∧
    form (.vand d a b ty) 1 (fun x y => x &&& y) ∧
    form (.vor d a b ty) 1 (fun x y => x ||| y) ∧
    form (.vxor d a b ty) 1 (fun x y => x ^^^ y) ∧
    form (.vshl d a b ty) 1 (fun x y => x * 2 ^ (y % w)) ∧
    form (.vsra d a b ty) 1 (fun x y => ((sextNat x w / 2 ^ (y % w)) % 2 ^ w).toNat) ∧
    Writes (.vperm d a b ty) d 1 (fun cx => pack ((lanes (cx.data b)).map fun y => (lanes (cx.data a)).getD (y % ty.lanes) 0)) ∧
    Writes (.vbcast d a idx ty) d 1 (fun cx => pack (List.replicate ty.lanes ((lanes (cx.data a)).getD idx.toNat 0)))

/-- The conversions: a reserved format, a reserved mode or a part that the register does not have raises FORMAT; otherwise the
converted elements have tag 0 and their flags are ORed into fl, both after 2 turns (R112 to R115). amaxb writes the largest
magnitude of the lanes of cA and of lane 0 of cB as an FP32 value, and scl writes one byte of a scale register and ORs its flags
into fl, after 2 turns; scl with a reserved fm.FC raises FORMAT (R116, R117). Each element of a conversion is one rounding, with the
lane word of R114 under SR: a widened element of its scaled value, a packed one of the lane divided by its scale, with the rows of R47
for a NaN scale and a zero scale, the other elements of cD staying and [127:96] of a 6-bit format becoming 0 (R112 to R115); scl
gives the codes of the table of R117. -/
def Obligations.ConversionsAndScales : Prop :=
  (∀ (d a : RegNo) (sc rmx : BitVec 3) (sx : BitVec 2) (pt : BitVec 3) (s : State) (cx : Cx),
    let scale := cx.slot.s[sc.toFin]
    let form (i : Instr) (fmt : Option Fmt) (parts : Fmt → Nat) (v : Fmt → CvtMode → Quad × FlagSet) : Prop := Ready i s cx →
      (∀ f rm, fmt = some f → rmode (if rmx.toNat = 7 then fmRM cx.slot.fm else rmx.toNat) = some rm → pt.toNat < parts f →
        let r := v f { rm := rm, sat := sxSat cx.slot.fm sx, sr := cx.slot.sr, c27 := cx.slot.c[27].data }
        Completes i cx s ((s.result cx d 2 ⟨r.1, false⟩).flags cx 2 r.2) .seq) ∧
      ((fmt = none ∨ rmode (if rmx.toNat = 7 then fmRM cx.slot.fm else rmx.toNat) = none ∨ (∀ f, fmt = some f → parts f ≤ pt.toNat)) →
        Raises i cx s { code := 0x02 })
    let fc := fmtOf (fmFC cx.slot.fm)
    let plain : Option Fmt := some ⟨.fp32, 0, .none, false⟩
    form (.cvtWide d a sc rmx sx pt) fc (fun f => cvtParts f.elem 4) (fun f m => cvtWiden m f scale .f32 (cx.data a) pt.toNat) ∧
    form (.cvtWideb d a sc rmx sx pt) fc (fun f => cvtParts f.elem 8) (fun f m => cvtWiden m f scale .bf16 (cx.data a) pt.toNat) ∧
    form (.cvtPack d a sc rmx sx pt) fc (fun f => cvtParts f.elem 4)
      (fun f m => cvtNarrow m f scale .f32 (cx.data a) (cx.data d) pt.toNat) ∧
    form (.cvtPackb d a sc rmx sx pt) fc (fun f => cvtParts f.elem 8)
      (fun f m => cvtNarrow m f scale .bf16 (cx.data a) (cx.data d) pt.toNat) ∧
    form (.cvtF2b d a sc rmx sx pt) plain (fun _ => 2) (fun _ m => cvtF2bQ m (cx.data a) (cx.data d) pt.toNat) ∧
    form (.cvtB2f d a sc rmx sx pt) plain (fun _ => 2) (fun _ m => cvtB2fQ m (cx.data a) pt.toNat) ∧
    form (.cvtF2i d a sc rmx sx pt) plain (fun _ => 1) (fun _ m => cvtLanes32 m .fp32 .int32 (cx.data a)) ∧
    form (.cvtI2f d a sc rmx sx pt) plain (fun _ => 1) (fun _ m => cvtLanes32 m .int32 .fp32 (cx.data a))) ∧
  (∀ (d a b : RegNo) (ty : FTy) (sd : BitVec 3) (pos : BitVec 4) (s : State) (cx : Cx),
    Writes (.amaxb d a b ty) d 2 (fun c => ⟨amaxbQ ty (c.data a) (c.data b), false⟩) ∧
    (Ready (.scl sd a pos ty) s cx → ∀ t k j tl q, cx.wh = .tile t k j tl q →
      (fmtOf (fmFC cx.slot.fm) = none → Raises (.scl sd a pos ty) cx s { code := 0x02 }) ∧
      ∀ f, fmtOf (fmFC cx.slot.fm) = some f →
        let r := sclCode f ty (cx.data a)
        Completes (.scl sd a pos ty) cx s
          ((s.due cx (cx.n + 7) (.sByte j sd.toFin pos.toNat (BitVec.ofNat 8 r.1))).flags cx 2 r.2) .seq)) ∧
  (∀ (m : CvtMode) (fm : Fmt) (sc a d : Quad) (ty : FTy) (pt : Nat),
    let field (w : Nat) (q : Quad) (k : Nat) : Nat := q.toNat / 2 ^ (w * k) % 2 ^ w
    let we := fm.elem.width
    let w := (laneElem ty).width
    let L := laneCount ty
    let n := if we = 32 then 4 else if we = 16 then 8 else if we = 4 then 32 else 16
    let lw (i : Nat) : Nat := if m.rm = .sr then
      elementLane m.sr (m.c27.toNat % 2 ^ 32) ((m.c27.toNat / 2 ^ 32 % 2 ^ 32 + i) % 2 ^ 32) else 0
    let round (x : XVal) (f : Elem) (i : Nat) : Nat × FlagSet := roundToFormat x f m.rm m.sat (lw i)
    let scale (e : Nat) : Option (Nat × Int) := if fm.scale = .none then some (1, 0)
      else scaleVal fm.scale (if fm.tensor then sc.toNat % 256 else sc.toNat / 2 ^ (8 * (e / fm.block)) % 256)
    let flags (fl : FlagSet) (k : Nat) (lane : Nat → Nat × FlagSet) : Prop := ∀ b, fl.getLsbD b = true ↔ ∃ i < k, (lane i).2.getLsbD b = true
    let four (r : Quad × FlagSet) (lane : Nat → Nat × FlagSet) : Prop :=
      (∀ i < 4, field 32 r.1 i = (lane i).1 % 2 ^ 32) ∧ flags r.2 4 lane
    four (cvtLanes32 m .fp32 .int32 a) (fun i => round (Elem.fp32.decode (field 32 a i)).exact .int32 i) ∧
    four (cvtLanes32 m .int32 .fp32 a) (fun i => round (Elem.int32.decode (field 32 a i)).exact .fp32 i) ∧
    (pt < 2 → four (cvtB2fQ m a pt) (fun i => round (Elem.bf16.decode (field 16 a (4 * pt + i))).exact .fp32 i) ∧
      let r := cvtF2bQ m a d pt
      let lane (i : Nat) : Nat × FlagSet := round (Elem.fp32.decode (field 32 a i)).exact .bf16 i
      (∀ k < 8, field 16 r.1 k = if 4 * pt ≤ k ∧ k < 4 * pt + 4 then (lane (k - 4 * pt)).1 % 2 ^ 16 else field 16 d k) ∧ flags r.2 4 lane) ∧
    (L * pt < n →
      (let lane (i : Nat) : Nat × FlagSet := if L * pt + i < n then
          round (plusZero fm.elem (scaledVal (fm.elem.decode (field we a (L * pt + i))) (scale (L * pt + i)))).exact (laneElem ty) i
        else (0, flNone)
       let r := cvtWiden m fm sc ty a pt
       (∀ i < L, field w r.1 i = (lane i).1 % 2 ^ w) ∧ flags r.2 L lane) ∧
      let k0 := min L n
      let lane (i : Nat) : Nat × FlagSet := packLane m fm.elem (scale (L * pt + i)) ((laneElem ty).decode (field w a i)).exact i
      let r := cvtNarrow m fm sc ty a d pt
      (∀ e < n, field we r.1 e =
        if L * pt ≤ e ∧ e < L * pt + k0 then (lane (e - L * pt)).1 % 2 ^ we else field we d e) ∧
      r.1.toNat < 2 ^ (we * n) ∧ flags r.2 k0 lane) ∧
    ∀ (f : Elem) (x : FVal) (i : Nat),
      let nan : Nat × FlagSet := match f.nan with | some c => (c, flNV) | none => (0, flNV)
      packLane m f none x.exact i = nan ∧
      (∀ se, packLane m f (some (0, se)) x.exact i = match x with
        | .fin s k _ => (if s then 2 ^ (f.width - 1) else 0, if k = 0 then flNone else flNV)
        | _ => nan) ∧
      ∀ sm se, sm ≠ 0 → 
        ((∀ s k e, x ≠ .fin s k e) → packLane m f (some (sm, se)) x.exact i = round x.exact f i) ∧
        ∀ s k e, x = .fin s k e → k ≠ 0 →
          RoundsTo f m.rm m.sat (lw i) s (|(x.rat : ℝ)| / (sm * 2 ^ se)) (packLane m f (some (sm, se)) x.exact i)) ∧
  ∀ (fm : Fmt) (ty : FTy) (a b : Quad),
    let f := laneElem ty
    let vs : List FVal := ((List.range (laneCount ty)).map fun k => f.decode (a.toNat / 2 ^ (f.width * k))) ++ [Elem.fp32.decode b.toNat]
    let r := amaxbQ ty a b
    let m := f.decode a.toNat
    let sc := sclCode fm ty a
    (.nan ∈ vs → r = 0x7FC00000) ∧
    (.nan ∉ vs → (∃ s, .inf s ∈ vs) → r = 0x7F800000) ∧
    (.nan ∉ vs → (∀ s, .inf s ∉ vs) → r.toNat < 2 ^ 31 ∧ (∃ v ∈ vs, (Elem.fp32.decode r.toNat).rat = |v.rat|) ∧
      (∃ k e, Elem.fp32.decode r.toNat = .fin false k e) ∧ ∀ v ∈ vs, |v.rat| ≤ (Elem.fp32.decode r.toNat).rat) ∧
    (fm.scale = .none → sc = (0x7F, flNone)) ∧
    (fm.scale ≠ .none → (m = .nan ∨ ∃ s, m = .inf s) → sc = (0xFF, flNV)) ∧
    (fm.scale ≠ .none → ∀ s e, m = .fin s 0 e → sc = (0, flNone)) ∧
    (∀ s k e, m = .fin s k e → k ≠ 0 →
      let emax : ℤ := match fm.elem with
        | .e4m3 => 8 | .e5m2 => 15 | .e3m2 => 4 | .e2m3 => 2 | .e2m1 => 2 | .bi16 => 14 | .bi8 => 6 | _ => 0
      (fm.scale = .e8m0 → sc = ((max 0 (min 254 (Int.log 2 |m.rat| - emax + 127))).toNat, flNone)) ∧
      (fm.scale = .e5m3 → fm.elem.fpParams.isSome = true →
        let value (c : Nat) : ℚ := match scaleVal .e5m3 c with | some p => p.1 * 2 ^ p.2 | none => 0
        let least : ℚ := |m.rat| / (fm.elem.decode fm.elem.maxCode).rat
        (∀ c, 1 ≤ c → c ≤ 0xFE → least ≤ value c → (∀ c', 1 ≤ c' → c' < c → value c' < least) → sc = (c, flNone)) ∧
        ((∀ c, 1 ≤ c → c ≤ 0xFE → value c < least) → sc = (0xFE, flSA))))

/-- The overflow table: every overflow sets NX, and SA when saturation is chosen, OF when not; the result is ±maxmag or the
format's overflow value by the mode and the sign (R46). -/
def Obligations.OverflowTable : Prop :=
  ∀ (f : Elem) (neg : Bool) (rm : RMode),
    overflowResult f neg rm true = (f.maxOf neg, flNX ||| flSA) ∧
    (overflowResult f neg rm false).2 = (flNX ||| flOF) ∧
    (rm = .rne ∨ rm = .sr → (overflowResult f neg rm false).1 = f.ovf neg) ∧
    (rm = .rtz → (overflowResult f neg rm false).1 = f.maxOf neg) ∧
    (rm = .rdn → (overflowResult f neg rm false).1 = if neg then f.ovf neg else f.maxOf neg) ∧
    (rm = .rup → (overflowResult f neg rm false).1 = if neg then f.maxOf neg else f.ovf neg)

/-! ### The matrix unit -/

/-- The matrix forms with one effect at the end of the issue cycle + 3: mz.clr clears the elements, OV and IV of zZ and keeps
its anchor, mz.anc also sets the anchor to cA[9:0], mgeo.sub loads the geometry register and msk the mask (R133, R134, R135).
What mz.clr, mz.anc and msk do to the accumulators when they fall due: elements 0, OV and IV 0, the anchor kept or set, the mask
kept or set, and every other accumulator, every register and all of memory as before (R133, R134). mz.ovf writes OV + 2 IV with
tag 0 after 1 turn, and with clear it clears both at the end of the issue cycle + 3 (R138). -/
def Obligations.MatrixEffects : Prop :=
  (∀ (a : RegNo) (z : Fin 4) (arr : BitVec 2),
    Defers (.mzClr z) 3 (fun tc _ => .accClear tc.j z none) ∧
    Defers (.mzAnc a z) 3 (fun tc cx => .accClear tc.j z (some ((cx.data a).setWidth 10))) ∧
    Defers (.msk a z) 3 (fun tc cx => .msk tc.j z ((cx.data a).setWidth 64)) ∧
    Defers (.mgeoSub a arr) 3 (fun tc cx => .mg tc.j ⟨arr, BitVec.ofNat 32 ((cx.data a).toNat / 2 ^ 96), BitVec.ofNat 32 ((cx.data a).toNat / 2 ^ 64),
      BitVec.ofNat 32 ((cx.data a).toNat / 2 ^ 32), BitVec.ofNat 32 (cx.data a).toNat⟩)) ∧
  (∀ (s : State) (pid : Nat) (t : Coord) (bad : List Nat) (j : Fin 4) (z : Fin 4) (anc : Option (BitVec 10)) (m : BitVec 64),
    let old := (s.tile t).z[z]
    let u := s.effectDue pid t bad (.accClear j z anc)
    let v := s.effectDue pid t bad (.msk j z m)
    (∀ e : Fin 64, ((u.tile t).z[z]).el[e] = 0) ∧ ((u.tile t).z[z]).ov = false ∧ ((u.tile t).z[z]).iv = false ∧
    ((u.tile t).z[z]).anchor = anc.getD old.anchor ∧ ((u.tile t).z[z]).mask = old.mask ∧
    (v.tile t).z[z] = { old with mask := m } ∧
    (∀ y : Fin 4, y ≠ z → (u.tile t).z[y] = (s.tile t).z[y] ∧ (v.tile t).z[y] = (s.tile t).z[y]) ∧
    u.mem = s.mem ∧ v.mem = s.mem ∧ ∀ t' k j, (u.tile t').slot k j = (s.tile t').slot k j ∧ (v.tile t').slot k j = (s.tile t').slot k j) ∧
  ∀ (d : RegNo) (z : Fin 4) (clear : BitVec 1) (s : State) (cx : Cx) (tc : TileCx), Ready (.mzOvf d z clear) s cx → cx.tile = .ok tc →
    let acc := tc.tile.z[z]
    let v : CReg := ⟨BitVec.ofNat 128 ((if acc.ov then 1 else 0) + 2 * (if acc.iv then 1 else 0)), false⟩
    (clear = 0 → Completes (.mzOvf d z clear) cx s (s.result cx d 1 v) .seq) ∧
    (clear = 1 → Completes (.mzOvf d z clear) cx s ((s.result cx d 1 v).due cx (cx.n + 3) (.ovClear tc.j z)) .seq)

/-- mz.rd rounds the live elements of half a row of zZ, with 0 in the masked lanes and OF raised while OV is set, after 4 turns;
a reserved mode raises FORMAT. An element is live where its mask bit is set and its coordinates lie within the geometry register's
dimensions; its lane is the canonical NaN while IV is set, else one rounding of the element times 2^anchor (R130, R136). mgeo writes the tile's corner and loads the geometry register (R130, R135, R136). -/
def Obligations.AccumulatorReadOut : Prop :=
  ∀ (d a : RegNo) (sx : BitVec 2) (rmx : BitVec 3) (ty half : BitVec 1) (z : Fin 4) (row : BitVec 3) (arr : BitVec 2) (s : State)
    (cx : Cx) (tc : TileCx), cx.tile = .ok tc → tc.tile.damage = [] →
    let i : Instr := .mzRd d sx rmx ty half z row
    let acc := tc.tile.z[z]
    let mode := rmode (if rmx.toNat = 7 then fmRM cx.slot.fm else rmx.toNat)
    let f : Elem := if ty = 0 then .fp32 else .bf16
    let els := (List.range (if ty = 0 then 4 else 8)).map fun l => 8 * row.toNat + 4 * half.toNat + l
    (Ready i s cx → (mode = none → Raises i cx s { code := 0x02 }) ∧
      ∀ rm, mode = some rm →
        let r := packResults f.width (els.map (mzLane tc.tile.mg z.val acc f rm (sxSat cx.slot.fm sx) cx.slot.sr))
        Completes i cx s ((s.result cx d 4 ⟨r.1, false⟩).flags cx 4 (if acc.ov then r.2 ||| flOF else r.2)) .seq) ∧
    (Ready (.mgeo d a arr) s cx →
      let rows := if arr.toNat = 2 then 32 else if arr.toNat = 3 then 16 else 8
      let cols := if arr.toNat = 1 then 32 else if arr.toNat = 3 then 16 else 8
      let row0 : BitVec 32 := BitVec.ofNat 32 ((tc.t.y - tc.part.y0) * rows)
      let col0 : BitVec 32 := BitVec.ofNat 32 ((tc.t.x - tc.part.x0) * cols)
      let v := (cx.data a).toNat
      Completes (.mgeo d a arr) cx s
        ((s.due cx (cx.n + 3) (.mg tc.j ⟨arr, BitVec.ofNat 32 (v / 2 ^ 32), BitVec.ofNat 32 v, col0, row0⟩)).result cx d 1
          ⟨BitVec.ofNat 128 (col0.toNat * 2 ^ 32 + row0.toNat), false⟩) .seq) ∧
    ∀ (g : Mg) (fp : FTy) (rm : RMode) (sat : Bool) (sr : Quad) (e : Fin 64),
      let f := laneElem fp
      let k := z.val
      let off : Nat × Nat := match g.zarr.toNat with
        | 0 => (0, 0) | 1 => (0, 8 * k) | 2 => (8 * k, 0) | _ => (8 * (k / 2), 8 * (k % 2))
      let row := (g.row0.toNat + off.1 + e.val / 8) % 2 ^ 32
      let col := (g.col0.toNat + off.2 + e.val % 8) % 2 ^ 32
      let live : Prop := acc.mask.getLsbD e = true ∧ (g.mdim = 0 ∨ row < g.mdim.toNat) ∧ (g.ndim = 0 ∨ col < g.ndim.toNat)
      let v := (acc.el[e]).toInt
      let r := mzLane g k acc f rm sat sr e.val
      (¬live → r = (0, flNone)) ∧ (live → acc.iv = true → r = (if fp = .f32 then 0x7FC00000 else 0x7FC0, flNone)) ∧
      (live → acc.iv = false → (v = 0 → r = (0, flNone)) ∧
        (v ≠ 0 → RoundsTo f rm sat (if rm = .sr then elementLane sr row col else 0) (decide (v < 0))
          (|(v : ℝ)| * 2 ^ acc.anchor.toInt) r))

/-- mma: a reserved format raises FORMAT, and a busy unit COLLISION with reason UNIT; otherwise, its spans in order, the operands,
the scales, the anchor and the live mask are read at issue, the eight rows of A from pa on and the eight columns of B from their
sub-slices, and the unit is taken up to the end of cycle n + 4L - 1, L being 8, 16, 64 or 256 by the wider format (R125, R127,
R128, R131). An mma that completes frees the unit and adds its contributions to its own accumulator, and every other accumulator,
register and byte stays (R128). Its contributions: one for each unit of each live element, the units in order, formed from the
elements of the row of A and the column of B that the operation holds, each times its scale: lane k of the line, scaled by byte 0
of a tensor-scaled format's register, by byte 2 i + k / 16 of a block-16 format's, by byte i, or i + 8 in the upper half, of a block-32
format's, and by nothing in an unscaled format (R125, R126); a unit whose inputs are all finite contributes the floor of its exact
sum over 2^anchor, and one with an input that is not finite contributes 0 and sets IV (R49). A contribution v added to element e of an accumulator: the element is its old signed value plus v modulo
2^96, OV becomes set when the exact sum leaves -2^95 … 2^95 - 1, and every other element, the anchor, IV and the mask stay
(R50). -/
def Obligations.MmaRuns : Prop :=
  ((∀ (z : Fin 4) (a b : RegNo) (sca scb : BitVec 3) (ha hb : BitVec 1) (s : State) (cx : Cx) (tc : TileCx),
    let i : Instr := .mma z a b sca scb ha hb
    Ready i s cx → cx.tile = .ok tc → tc.tile.damage = [] →
    ((fmtOf (fmFA cx.slot.fm) = none ∨ fmtOf (fmFB cx.slot.fm) = none) → Raises i cx s { code := 0x02 }) ∧
    ∀ fa fb pa, fmtOf (fmFA cx.slot.fm) = some fa → fmtOf (fmFB cx.slot.fm) = some fb →
      checkSpan (cx.read a) 0 (32 * fa.elem.width) 0x001 16 0 0x8000 = .ok pa →
      checkColumns (cx.read b) (4 * fb.elem.width) 8 = .ok () →
      (tc.tile.mma ≠ none → Raises i cx s { code := 0x12, reason := 0x07 }) ∧
      (tc.tile.mma = none → ∃ op : MmaOp, Completes i cx s (s.modTile tc.t fun x => { x with mma := some op }) .seq ∧
        let w := max fa.elem.width fb.elem.width
        let pb := (capCur (cx.data b)).toNat
        op.due = cx.n + 4 * (if w ≤ 4 then 8 else if w ≤ 8 then 16 else if w ≤ 16 then 64 else 256) - 1 ∧ op.z = z ∧
        fmtOf op.fa = some fa ∧ fmtOf op.fb = some fb ∧ op.anchor = tc.tile.z[z].anchor ∧
        op.rows = (List.range 8).map (fun r => Mem.read s.mem (tileAddr tc.t (pa + 4 * fa.elem.width * r)) (4 * fa.elem.width)) ∧
        op.cols = (List.range 8).map (fun c => Mem.read s.mem (tileAddr tc.t (pb + 0x2000 * c)) (4 * fb.elem.width)) ∧
        op.sa = cx.slot.s[sca.toFin] ∧ op.sb = cx.slot.s[scb.toFin] ∧ op.ha = ha ∧ op.hb = hb ∧
        ∀ e < 64, op.live.getLsbD e = tc.tile.mg.live tc.tile.z[z].mask z.val e)) ∧
  (∀ (t : Coord) (s : State) (q : Part) (op : MmaOp), s.partOf t = some q → (s.tile t).mma = some op → op.due ≤ q.cyc →
    (s.tile t).damage = [] → ∃ acc : Acc,
    exec (.mmaComplete t) s = .next (s.modTile t fun tl => { tl with mma := none, z := tl.z.set op.z acc }) ∧
      acc.anchor = (s.tile t).z[op.z].anchor ∧ acc.mask = (s.tile t).z[op.z].mask ∧
      (acc.iv = true ↔ (s.tile t).z[op.z].iv = true ∨ ∃ c ∈ op.contributions, none ∈ c.2) ∧
      (acc.ov = true ↔ (s.tile t).z[op.z].ov = true ∨ ∃ c ∈ op.contributions, ∃ e : Fin 64, c.1 = e.val ∧ ∃ k < c.2.length,
        let before := BitVec.ofInt 96 (((s.tile t).z[op.z].el[e]).toInt + ((c.2.take k).map fun v => v.getD 0).sum)
        let sum := before.toInt + (c.2.getD k none).getD 0
        sum < -2 ^ 95 ∨ 2 ^ 95 - 1 < sum) ∧
      ∀ e : Fin 64, acc.el[e] = BitVec.ofInt 96 (((s.tile t).z[op.z].el[e]).toInt +
        ((op.contributions.filter fun c => c.1 == e.val).flatMap fun c => c.2.map fun v => v.getD 0).sum)) ∧
  ∀ (fa fb : Fmt) (op : MmaOp), fmtOf op.fa = some fa → fmtOf op.fb = some fb →
    op.contributions.map Prod.fst = (List.range 64).filter (fun e => op.live.getLsbD e) ∧
    (∀ c ∈ op.contributions, c.2.length = if fa.block = 16 ∨ fb.block = 16 then 2 else 1) ∧
    (op.rows.length = 8 → op.cols.length = 8 →
      let scale (f : Fmt) (q : Quad) (h : BitVec 1) (i k : Nat) : Option (Nat × Int) :=
        if f.scale = .none then some (1, 0)
        else scaleVal f.scale (q.toNat / 2 ^ (8 * if f.tensor then 0 else if f.block = 16 then 2 * i + k / 16 else i + 8 * h.toNat) % 256)
      let value (f : Fmt) (l : List Byte) (q : Quad) (h : BitVec 1) (i k : Nat) : FVal :=
        scaledVal (f.elem.decode (leNat l / 2 ^ (f.elem.width * k) % 2 ^ f.elem.width)) (scale f q h i k)
      let a (r k : Nat) : FVal := value fa (op.rows.getD r []) op.sa op.ha r k
      let b (c k : Nat) : FVal := value fb (op.cols.getD c []) op.sb op.hb c k
      let unit (e lo n : Nat) : Option Int :=
        mmaUnit op.anchor.toInt ((List.range n).map fun k => (a (e / 8) (lo + k), b (e % 8) (lo + k)))
      op.contributions = ((List.range 64).filter fun e => op.live.getLsbD e).map fun e =>
        (e, if fa.block = 16 ∨ fb.block = 16 then [unit e 0 16, unit e 16 16] else [unit e 0 32]))) ∧
  (∀ (anc : Int) (l : List (FVal × FVal)),
    let terms := l.map fun p => finTerm p.1 p.2
    (none ∈ terms → mmaUnit anc l = none) ∧
    ∀ ts : List (Int × Int), terms = ts.map some →
      mmaUnit anc l = some ⌊(ts.map fun p => (p.1 : ℚ) * (2 : ℚ) ^ p.2).sum / (2 : ℚ) ^ anc⌋) ∧
  ∀ (z : Acc) (e : Fin 64) (v : Int),
    let t := (z.el[e]).toInt + v
    let r := z.add e.val v
    r.el[e] = BitVec.ofInt 96 t ∧ (r.ov = true ↔ z.ov = true ∨ t < -2 ^ 95 ∨ 2 ^ 95 - 1 < t) ∧
    (∀ k : Fin 64, k ≠ e → r.el[k] = z.el[k]) ∧ r.anchor = z.anchor ∧ r.iv = z.iv ∧ r.mask = z.mask

/-- The image forms: mz.raw reads zZ at issue and its 784 bytes fall due as a store at the end of n + 51; mz.add reads an image
with the anchor of zZ, else FORMAT, and it is added there at n + 51; a busy image unit raises COLLISION with reason UNIT (R137). The
addition adds every element modulo 2^96, sets OV where a sum leaves -2^95 … 2^95 - 1, and ORs the image's OV and IV in (R129, R137).
-/
def Obligations.ImageTransfers : Prop :=
  (∀ (a : RegNo) (z : Fin 4) (s : State) (cx : Cx) (tc : TileCx) (o : Nat), cx.tile = .ok tc → tc.tile.damage = [] →
    let acc := tc.tile.z[z]
    (Ready (.mzRaw a z) s cx → checkSpan (cx.read a) 0 784 0x002 16 0 0x8000 = .ok o →
      (tc.tile.image ≠ none → Raises (.mzRaw a z) cx s { code := 0x12, reason := 0x07 }) ∧
      (tc.tile.image = none → Completes (.mzRaw a z) cx s (s.modTile tc.t fun x => 
        { x with image := some ⟨z, cx.n + 51, false, o, tc.j, acc.anchor, acc.ov, acc.iv, acc.el.toList⟩ }) .seq)) ∧
    (Ready (.mzAdd a z) s cx → checkSpan (cx.read a) 0 784 0x001 16 0 0x8000 = .ok o →
      let h := Mem.readLE s.mem (tileAddr tc.t o) 16
      let el : List (BitVec 96) := (List.range 64).map fun e => BitVec.ofNat 96 (Mem.readLE s.mem (tileAddr tc.t o + 16 + 12 * e) 12)
      (BitVec.ofNat 10 h ≠ acc.anchor → Raises (.mzAdd a z) cx s { code := 0x02 }) ∧
      (BitVec.ofNat 10 h = acc.anchor → tc.tile.image ≠ none → Raises (.mzAdd a z) cx s { code := 0x12, reason := 0x07 }) ∧
      (BitVec.ofNat 10 h = acc.anchor → tc.tile.image = none → Completes (.mzAdd a z) cx s (s.modTile tc.t fun x => 
        { x with image := some ⟨z, cx.n + 51, true, o, tc.j, acc.anchor, h.testBit 10, h.testBit 11, el⟩ }) .seq))) ∧
  ∀ (t : Coord) (s : State) (q : Part) (op : ImageOp), s.partOf t = some q → (s.tile t).image = some op → op.due ≤ q.cyc →
    (op.add = true → exec (.imageTransferComplete t) s = .next (s.modTile t fun tl =>
      { tl with image := none, z := tl.z.set op.z (tl.z[op.z].addImage op) }) ∧
      (op.el.length = 64 →
        let old := (s.tile t).z[op.z]
        let sum (e : Fin 64) : Int := (old.el[e]).toInt + (op.el.getD e.val 0).toInt
        (∀ e : Fin 64, (old.addImage op).el[e] = BitVec.ofInt 96 (sum e)) ∧
        ((old.addImage op).ov = true ↔ old.ov = true ∨ op.ov = true ∨ ∃ e, sum e < -2 ^ 95 ∨ 2 ^ 95 - 1 < sum e) ∧
        ((old.addImage op).iv = true ↔ old.iv = true ∨ op.iv = true) ∧
        (old.addImage op).anchor = old.anchor ∧ (old.addImage op).mask = old.mask)) ∧
    (op.add = false → ∃ bytes : List Byte, bytes.length = 784 ∧
      bytes.take 16 = leBytes 16 (op.anchor.toNat + (if op.ov then 2 ^ 10 else 0) + (if op.iv then 2 ^ 11 else 0)) ∧
      (∀ e < 64, (bytes.drop (16 + 12 * e)).take 12 = leBytes 12 (op.el.getD e 0).toNat) ∧
      exec (.imageTransferComplete t) s = .next (s.modTile t fun tl =>
        { tl with
          image := none
          pend := tl.pend ++ [⟨q.cyc, .store op.addr bytes false false ⟨6, 1, op.slot.val, 0, t.x, t.y, none⟩⟩] }))

/-! ### Exchange instructions -/

/-- The sends: xmit puts the two halves of cA into the mesh in cycles n and n + 1, and xmit.m begins a send of its quads from
local SRAM, both to the destination of the matching timetable entry (R177, R181). Sending changes no byte of memory and no
register. The catches: a failed check of their bytes raises its fault; with no flit on the tile's local output in the issue cycle they raise SLIP_EMPTY with reason CHECK and
INFO 0; otherwise the flit is the low half of quad 0 and the catch goes on (R182). -/
def Obligations.SendsAndCatches : Prop :=
  (∀ (a : RegNo) (cnt : BitVec 11) (s : State) (cx : Cx) (tc : TileCx), cx.tile = .ok tc →
    (Ready (.xmit a) s cx →
      let d := tc.sendDst cx.n 1
      let v := cx.data a
      Completes (.xmit a) cx s (s.modPart tc.part.pid fun q =>
        (q.inject .stream tc.t d.dst cx.n (BitVec.ofNat 64 v.toNat) 0 (d.port 0)).inject .stream tc.t d.dst (cx.n + 1)
          (BitVec.ofNat 64 (v.toNat / 2 ^ 64)) 0 (d.port 1)) .seq) ∧
    (Ready (.xmitM a cnt) s cx →
      let n := cnt.toNat + 1
      (∀ f, checkSpan (cx.read a) 0 (16 * n) 0x001 16 0 0x8000 = .error f → Raises (.xmitM a cnt) cx s f) ∧
      ∀ o, checkSpan (cx.read a) 0 (16 * n) 0x001 16 0 0x8000 = .ok o →
        let d := tc.sendDst cx.n n
        Completes (.xmitM a cnt) cx s (s.beginSend tc.part.pid tc.t ⟨cx.n, n, o, tc.j, d.dst, d.port 0, none⟩) .seq)) ∧
  ∀ (a : RegNo) (off cnt : BitVec 11) (s : State) (cx : Cx) (tc : TileCx) (o : Nat), cx.tile = .ok tc →
    (∀ f, (Ready (.catchOne a off) s cx → checkLocal (cx.read a) (16 * off.toInt) 16 0x002 0 0x8000 = .error f →
        Raises (.catchOne a off) cx s f) ∧
      (Ready (.catchM a cnt) s cx → checkSpan (cx.read a) 0 (16 * (cnt.toNat + 1)) 0x002 16 0 0x8000 = .error f →
        Raises (.catchM a cnt) cx s f)) ∧
    let form (i : Instr) (n : Nat) (many : Bool) : Prop :=
      (tc.part.streamAt tc.t cx.n = none → Raises i cx s { code := 0x11, reason := 0x06 }) ∧
      ∀ f, tc.part.streamAt tc.t cx.n = some f → Completes i cx s (s.modTile tc.t fun x =>
        { x with catches := x.catches ++ [⟨cx.n, n, o, tc.j, some f.payload, true, many⟩] }) .seq
    (Ready (.catchOne a off) s cx → checkLocal (cx.read a) (16 * off.toInt) 16 0x002 0 0x8000 = .ok o → form (.catchOne a off) 1 false) ∧
    (Ready (.catchM a cnt) s cx → checkSpan (cx.read a) 0 (16 * (cnt.toNat + 1)) 0x002 16 0 0x8000 = .ok o →
      form (.catchM a cnt) (cnt.toNat + 1) true)

/-- put: a failed check_cap or permission raises its fault, an address that names no word of a tile below 0x8000 raises ADDR_SPACE, a
home outside the rectangle raises WINDOW and a full journal SLIP_LATE with reason QUEUE, in that order; otherwise the lowest free
journal entry holds the address, the data and the superstep, ISS counts it, the address and the data flit enter the mesh in cycles n
and n + 1, the put is to be performed at the end of n + T + 3 and answered in n + 2T + 4, and no byte of memory and no register changes
before its performance (R183, R184, R228). -/
def Obligations.PutTakesAJournalEntry : Prop :=
  ∀ (d a : RegNo) (off : BitVec 11) (s : State) (cx : Cx) (tc : TileCx) (ad : DWord) (home : Coord) (o : Nat),
    Ready (.put d a off) s cx → cx.tile = .ok tc →
    (∀ f, checkCap (cx.read a) (8 * off.toInt) 8 0x202 = .error f → Raises (.put d a off) cx s f) ∧
    (checkCap (cx.read a) (8 * off.toInt) 8 0x202 = .ok ad →
    (∀ f, checkSpacePerm (cx.read a) ad = .error f → Raises (.put d a off) cx s f) ∧
    (checkSpacePerm (cx.read a) ad = .ok () →
    let place : Coord := ⟨ad.toNat / 2 ^ 24 % 2 ^ 10, ad.toNat / 2 ^ 34 % 2 ^ 8⟩
    let exists' : Prop := spaceOf ad = 1 ∧ ad.toNat / 2 ^ 42 % 2 ^ 18 = 0 ∧ ad.toNat % 2 ^ 24 < 0x8000 ∧ place.x ≤ 999 ∧ place.y ≤ 199
    (¬exists' → Raises (.put d a off) cx s { code := 0x09, info := ad.toNat }) ∧
    (spaceOf ad = 1 → (homeOf ad = .ok (home, o) ↔ exists' ∧ home = place ∧ o = ad.toNat % 2 ^ 24)) ∧
    (spaceOf ad = 1 → homeOf ad = .ok (home, o) →
    (tc.part.holds home = false → Raises (.put d a off) cx s { code := 0x21, info := ad.toNat }) ∧
    (tc.part.holds home = true → tc.tile.freeEntry = none → Raises (.put d a off) cx s { code := 0x10, reason := 0x02 }) ∧
    (tc.part.holds home = true → ∀ e, tc.tile.freeEntry = some e → ∃ u, Completes (.put d a off) cx s u .seq ∧
      (u.tile tc.t).journal[e] = ⟨ad, (cx.data d).setWidth 64, 0, BitVec.ofNat 32 tc.part.ss, 0, true, true, tc.j, 0⟩ ∧
      (∀ e', e' ≠ e → (u.tile tc.t).journal[e'] = tc.tile.journal[e']) ∧
      (u.tile tc.t).iss = tc.tile.iss + 1 ∧ u.mem = s.mem ∧ (∀ t k j, (u.tile t).slot k j = (s.tile t).slot k j) ∧
      ∀ q, s.part tc.part.pid = some q → ∃ (q' : Part) (x : Xact) (f0 f1 : Flit), u.part tc.part.pid = some q' ∧ q'.xacts = q.xacts ++ [x] ∧
        q'.flits = q.flits ++ [f0, f1] ∧ x.entry = e ∧ x.src = tc.t ∧ x.home = home ∧ x.addr = ad ∧ x.data = (cx.data d).setWidth 64 ∧
        x.op = 0 ∧ x.perform = cx.n + routeT tc.t home + 3 ∧ x.answer = cx.n + 2 * routeT tc.t home + 4 ∧
        (f0.kind = .putAddr ∧ f0.q = cx.n ∧ f0.payload = ad) ∧ (f1.kind = .putData ∧ f1.q = cx.n + 1 ∧ f1.payload = x.data) ∧
        ∀ f ∈ [f0, f1], f.src = tc.t ∧ f.dst = home ∧ f.job = x.id))))

/-- seal raises SLIP_EMPTY with reason CHECK and the count of unanswered puts of the superstep, or passes and changes nothing
(R185). The checks pass and change nothing, or raise SLIP_EMPTY with reason CHECK and their operand as INFO: the entries of the
load queue, a full bit, a channel's write pointer (R187). Semaphores: sem.up adds at the end of n + 3; sem.chk, an execute core's after what the access
core's takes from the semaphore in the same cycle, subtracts at the end of n, or raises SLIP_EMPTY with reason CHECK and the amount as INFO (R188). -/
def Obligations.ChecksAndSemaphores : Prop :=
  (∀ (s : State) (cx : Cx) (tc : TileCx), Ready .sealOp s cx → cx.tile = .ok tc →
    let open' := (tc.tile.journal.toList.filter fun e => e.v && e.op == 0 && e.ss.toNat == tc.part.ss).length
    (open' ≠ 0 → Raises .sealOp cx s { code := 0x11, reason := 0x06, info := open' }) ∧
    (open' = 0 → Completes .sealOp cx s s .seq)) ∧
  (∀ (a : RegNo) (k : BitVec 4) (off : BitVec 11) (ch : Fin 4) (s : State) (cx : Cx) (tc : TileCx), cx.tile = .ok tc →
    let form (i : Instr) (holds : Prop) (info : Nat) : Prop := Ready i s cx →
      (holds → Completes i cx s s .seq) ∧ (¬holds → Raises i cx s { code := 0x11, reason := 0x06, info := info })
    form (.chkLq k) (k.toNat ≤ tc.tile.lq.length) k.toNat ∧
    (∀ o, checkLocal (cx.read a) (8 * off.toInt) 8 0x101 0 0x8000 = .ok o → form (.chkFe a off) (s.isFull tc.t o = true) o) ∧
    form (.chkWp a ch) ((cx.data a).toNat % 2 ^ 64 ≤ (tc.tile.chans[ch]).wp.toNat) ((cx.data a).toNat % 2 ^ 64)) ∧
  ∀ (a : RegNo) (k : BitVec 4),
    Defers (.semUp a k) 3 (fun tc cx => .semAdd tc.k tc.j k.toFin ((cx.data a).setWidth 32)) ∧
    ∀ (s : State) (cx : Cx) (tc : TileCx), Ready (.semChk a k) s cx → cx.tile = .ok tc →
      ∀ taken : BitVec 32, taken = (if tc.k = .access then 0 else (tc.tile.pend.map fun p => match p.eff with
        | .semSub _ _ k' v => if k' = k.toFin ∧ p.due = cx.n then v else 0
        | _ => 0).sum) →
      let have' := (tc.tile.sem[k.toFin] - taken).toNat
      let v : BitVec 32 := (cx.data a).setWidth 32
      (v.toNat ≤ have' → Completes (.semChk a k) cx s (s.due cx cx.n (.semSub tc.k tc.j k.toFin v)) .seq) ∧
      (have' < v.toNat → Raises (.semChk a k) cx s { code := 0x11, reason := 0x06, info := v.toNat })

/-- trn: after U_s - Dt, or a second time in the superstep, it raises SLIP_LATE with reason TURNSTILE and INFO s; otherwise the
core has arrived and s is written with tag 0 (R154, R186). resync marks the Turnstile of the superstep for a troupe member and
has no effect without a troupe (R189). stop ends the liveness of its slot and its loop (R191). start: a live slot raises
SLIP_LATE with reason START and INFO k; otherwise slot k of the core is live with the PCC that cA enters by, c1 from cD, every
other c-register 0 with tag 0, and the issuing slot's s0 to s7, fm and sr, with fl 0 and no loop, its fetch buffer read in the issue cycle and
its old register results discarded; a live slot that waits for nothing issues in its turn unless it is still starting, and slot k starts
until the end of cycle n + 3 (R190). -/
def Obligations.TurnstileStopAndStart : Prop :=
  (∀ (d : RegNo) (s : State) (cx : Cx) (tc : TileCx), Ready (.trn d) s cx → cx.tile = .ok tc →
    let late : Prop := ∃ u, tc.part.super = some u ∧ u.b + u.c + u.x < cx.n + tc.part.dt
    (late ∨ (tc.tile.core tc.k).trn = true → Raises (.trn d) cx s { code := 0x10, reason := 0x05, info := tc.part.ss }) ∧
    (¬late → (tc.tile.core tc.k).trn = false →
      Completes (.trn d) cx s ((s.modTile tc.t fun x => x.setCore tc.k { x.core tc.k with trn := true }).result cx d 1
        ⟨BitVec.ofNat 128 (tc.part.ss % 2 ^ 32), false⟩) .seq)) ∧
  (∀ (s : State) (cx : Cx) (tc : TileCx), cx.tile = .ok tc →
    (Ready .resync s cx →
      (tc.part.inTroupe = true → Completes .resync cx s (s.modPart tc.part.pid fun q => { q with resync := true }) .seq) ∧
      (tc.part.inTroupe = false → Completes .resync cx s s .seq)) ∧
    (Ready .stop s cx → Completes .stop cx s (s.modTile tc.t fun x => x.setSlot tc.k tc.j
      { x.slot tc.k tc.j with live := false, loop := { (x.slot tc.k tc.j).loop with active := false } }) .seq)) ∧
  ∀ (d a : RegNo) (k : BitVec 2) (s : State) (cx : Cx) (tc : TileCx), Ready (.start d a k) s cx → cx.tile = .ok tc →
    ((tc.tile.slot tc.k k.toFin).live = true → Raises (.start d a k) cx s { code := 0x10, reason := 0x0D, info := k.toNat }) ∧
    ((tc.tile.slot tc.k k.toFin).live = false → ∃ u, Completes (.start d a k) cx s u .seq ∧
      let n := (u.tile tc.t).slot tc.k k.toFin
      n.live = true ∧ n.pcc = enterCap (cx.read a) ∧ n.c[1] = cx.read d ∧ (∀ r : RegNo, r ≠ 1 → n.c[r] = ⟨0, false⟩) ∧
      n.s = cx.slot.s ∧ n.fm = cx.slot.fm ∧ n.sr = cx.slot.sr ∧ n.fl = 0 ∧ n.loop.active = false ∧
      (n.fbuf.base = capCur n.pcc.data ∧ n.fbuf.words.length = 4 ∧
        ∀ i < 4, n.fbuf.words[i]? = some (cx.fetchWord s.mem (capCur n.pcc.data + BitVec.ofNat 64 (4 * i)))) ∧
      (∀ p, p ∈ (u.tile tc.t).pend ↔ (p ∈ tc.tile.pend ∧ p.eff.resultOf tc.k k.toFin = false) ∨ p = ⟨cx.n + 3, .ready tc.k k.toFin⟩) ∧
      (u.tile tc.t).starting tc.k k.toFin = true ∧ u.mem = s.mem ∧
      ∀ t' k' j', t'.x < 1024 → tc.t.x < 1024 → (t', k', j') ≠ (tc.t, tc.k, k.toFin) → (u.tile t').slot k' j' = (s.tile t').slot k' j') ∧
    ∀ (q : Part) (p : Nat) (t : Coord) (k' : Side),
      let sl := (s.tile t).slot k' (fin4 p)
      sl.live = true → sl.hold = none → (s.tile t).lost = false →
        (Act.issue (.tile t k' (fin4 p)) ∈ s.issueActs q p t ↔ ∀ e ∈ (s.tile t).pend, e.eff ≠ .ready k' (fin4 p))

/-- rmt writes the time or place that its selector names, with tag 0, after 1 turn (R192). mark writes its record at the end of
the issue cycle: the partition time in bytes 0 to 7, cA[47:0] in bytes 8 to 13, and in bytes 14 and 15 the tag, the core and the
slot; the ring keeps the newest four (R193). -/
def Obligations.TimesAndMarks : Prop :=
  (∀ (d : RegNo) (s : State) (cx : Cx),
    let gives (sel : BitVec 3) (v : Nat) : Prop := Ready (.rmt d sel) s cx →
      Completes (.rmt d sel) cx s (s.result cx d 1 ⟨BitVec.ofNat 128 v, false⟩) .seq
    (∀ t k j tl q, cx.wh = .tile t k j tl q →
      gives 0 ((q.tb + cx.n) % 2 ^ 64) ∧ gives 1 (cx.n % 2 ^ 64) ∧ gives 2 (q.ss % 2 ^ 32) ∧
      gives 3 ((t.x - q.x0) + (t.y - q.y0) * 2 ^ 16) ∧ gives 4 (t.x + t.y * 2 ^ 16)) ∧
    (∀ die h hb, cx.wh = .hub die h hb → gives 0 (cx.n % 2 ^ 64) ∧ gives 1 0 ∧ gives 2 0 ∧ gives 3 0 ∧ gives 4 0)) ∧
  (∀ (a : RegNo) (g : BitVec 11), Defers (.mark a g) 0 fun tc cx => .mark (BitVec.ofNat 128
    ((tc.part.tb + cx.n) % 2 ^ 64 + (cx.data a).toNat % 2 ^ 48 * 2 ^ 64 +
      (g.toNat + (if tc.k = .execute then 2 ^ 11 else 0) + tc.j.val * 2 ^ 12) * 2 ^ 112))) ∧
  ∀ (v : Vector Quad 4) (q : Quad), (pushMark v q).toList = v.toList.drop 1 ++ [q]

/-! ### Atomics, fence, copies and reductions -/

/-- The functions of the atomics on the old value m and the operands x and e of width wd (R233, R235). The atomics in a tile: on
local SRAM the read-modify-write falls due at the end of n + 3 and cD at the end of n + 7; on a member's word they slip with
PHASE in a compute phase, raise WINDOW outside the rectangle and slip with QUEUE without a free journal entry, and otherwise
take the lowest one and count in ISS. That a damaged word raises its fault exactly when an atomic on local SRAM issues is the model's
reading (log entry 36). On a hub's own SRAM they act in their issue (R198, R233 to R236). fence in a tile is a
check: on an execute core, or when no put or atomic of the core to a covered home is unanswered, it passes and changes nothing,
and otherwise it raises SLIP_EMPTY with reason CHECK. A hub passes for its own SRAM, or when every earlier store and atomic to a
home of this device, and for scopes 4 and 5 of any device, has been performed, and otherwise waits (R238); when a store to another device
counts as performed is the model's (log entry 6). -/
def Obligations.AtomicsAndFence : Prop :=
  (∀ (wd m x e : Nat), (wd = 32 ∨ wd = 64) → m < 2 ^ wd → x < 2 ^ wd →
    amoNew 0 wd m x e = (m + x) % 2 ^ wd ∧
    sextNat (amoNew 1 wd m x e) wd = max (sextNat m wd) (sextNat x wd) ∧
    sextNat (amoNew 2 wd m x e) wd = min (sextNat m wd) (sextNat x wd) ∧
    amoNew 3 wd m x e = max m x ∧ amoNew 4 wd m x e = min m x ∧
    (∀ n, (amoNew 5 wd m x e).testBit n = (m.testBit n && x.testBit n)) ∧
    (∀ n, (amoNew 6 wd m x e).testBit n = (m.testBit n || x.testBit n)) ∧
    (∀ n, (amoNew 7 wd m x e).testBit n = (m.testBit n != x.testBit n)) ∧
    amoNew 8 wd m x e = x ∧ amoNew 9 wd m x e = (if m = e then x else m) ∧ amoNew 10 wd m x e = minMaxCodes true .fp32 m x) ∧
  (∀ (d a b e : RegNo) (ty : ATy) (s : State) (cx : Cx) (ad : DWord),
    let arg (wide : Bool) (r : RegNo) : Nat := (cx.data r).toNat % (if wide then 2 ^ 64 else 2 ^ 32)
    let form (i : Instr) (f : Nat) (wide : Bool) (cmp : Nat) : Prop := Ready i s cx →
      let size := if wide then 8 else 4
      checkCap (cx.read a) 0 size 0x003 = .ok ad → checkSpacePerm (cx.read a) ad = .ok () →
      let x : DWord := BitVec.ofNat 64 (arg wide b)
      let y : DWord := BitVec.ofNat 64 cmp
      (∀ tc, cx.tile = .ok tc →
        (spaceOf ad = 0 → ad.toNat + size ≤ 0x8000 → tc.tile.eccAt ad.toNat size = none →
          Completes i cx s (s.due cx (cx.n + 3) (.amo ad.toNat f size x y 0 (if d = 0 then none else some (tc.j, d, cx.n + 7))
            ⟨3, if tc.k = .execute then 1 else 0, tc.j.val, 0, tc.t.x, tc.t.y, none⟩)) .seq) ∧
        (spaceOf ad = 0 → ad.toNat + size ≤ 0x8000 → ∀ fl, tc.tile.eccAt ad.toNat size = some fl → Raises i cx s fl) ∧
        (spaceOf ad = 1 → ∀ home o, homeOf ad = .ok (home, o) →
          (tc.part.exchange cx.n = false → Raises i cx s { code := 0x10, reason := 0x04 }) ∧
          (tc.part.exchange cx.n = true → tc.part.holds home = false → Raises i cx s { code := 0x21, info := ad.toNat }) ∧
          (tc.part.exchange cx.n = true → tc.part.holds home = true → tc.tile.freeEntry = none →
            Raises i cx s { code := 0x10, reason := 0x02 }) ∧
          (tc.part.exchange cx.n = true → tc.part.holds home = true → ∀ en, tc.tile.freeEntry = some en →
            ∃ u, Completes i cx s u .seq ∧
              (u.tile tc.t).journal[en] =
                ⟨ad, x, y, BitVec.ofNat 32 tc.part.ss, BitVec.ofNat 8 (f + 1), true, wide, tc.j, d⟩ ∧
              (u.tile tc.t).iss = tc.tile.iss + 1 ∧ u.mem = s.mem))) ∧
      (∀ die h hb, cx.wh = .hub die h hb → ad.toNat < 0x40000 → (s.hub die h).damage = [] → Mem.wf s.mem = true →
        let ga := hubAddr die h ad.toNat
        ∃ u : State, Completes i cx s (u.result cx d 1 ⟨BitVec.ofNat 128 (Mem.readLE s.mem ga size), false⟩) .seq ∧
          Mem.readLE u.mem ga size = amoNew f (8 * size) (Mem.readLE s.mem ga size) x.toNat y.toNat % 2 ^ (8 * size) ∧
          (∀ p, (p < ga ∨ ga + size ≤ p) → Mem.get u.mem p = Mem.get s.mem p) ∧ (u.hub die h).ctx = (s.hub die h).ctx)
    let w := ATy.wide ty
    form (.amoAdd d a b ty) 0 w 0 ∧ form (.amoMax d a b ty) 1 w 0 ∧ form (.amoMin d a b ty) 2 w 0 ∧ form (.amoMaxu d a b ty) 3 w 0 ∧
    form (.amoMinu d a b ty) 4 w 0 ∧ form (.amoAnd d a b ty) 5 w 0 ∧ form (.amoOr d a b ty) 6 w 0 ∧ form (.amoXor d a b ty) 7 w 0 ∧
    form (.amoSwap d a b ty) 8 w 0 ∧ form (.amoCas d a b e ty) 9 w (arg w e) ∧ form (.amoFmax d a b) 10 false 0) ∧
  ∀ (scope : BitVec 5) (s : State) (cx : Cx), Ready (.fence scope) s cx →
    (∀ tc, cx.tile = .ok tc →
      let covered (e : JEntry) : Bool := e.v && (decide (scope ≠ 0) ||
        (match space1 e.addr.toNat with | some (h, _) => h == tc.t | none => false))
      (tc.k = .execute ∨ (∀ e ∈ tc.tile.journal.toList, covered e = false) → Completes (.fence scope) cx s s .seq) ∧
      (tc.k = .access → (∃ e ∈ tc.tile.journal.toList, covered e = true) →
        ∃ info, Raises (.fence scope) cx s { code := 0x11, reason := 0x06, info := info })) ∧
    (∀ die h hb, cx.wh = .hub die h hb →
      let own := (s.hub die h).unperformed = 0
      let far := ∀ t ∈ (s.hub die h).remote, t ≤ s.rmt
      ((scope = 0 ∨ (own ∧ (scope.toNat < 4 ∨ far))) → Completes (.fence scope) cx s s .seq) ∧
      (¬(scope = 0 ∨ (own ∧ (scope.toNat < 4 ∨ far))) →
        Completes (.fence scope) cx s (s.modHub die h fun x => { x with wait := some (.fence scope.toNat) }) .stay))

/-- The checks of cpy, cpy.g and cpy.s, in order (R243, R244, R253): the span of the record; FORMAT for a record outside R243, for
IOFF, LIM or IFMT in cpy, for an index list over 512 entries and for a swizzle past ELEN; the span of the index list; then the source
side with LD and ENG and after it the destination side with ST and ENG, each by tag, seal and permission, by the bounds of every word
of its hull, the first that lies outside in walk order being the INFO of CAP_BOUNDS (R270), and by alignment. A command that passes has the fields of its record and its index list; every word that it accesses, the
source of cpy.g and the destination of cpy.s at elements that are not skipped, lies inside the side's bounds, is a multiple of 8 and
lies in the space of the side's cursor, beyond space 0 by GLB; and one of its sides lies in space 0. A swizzle that moves no word of
the walk past ELEN though 2^(SWS + SWB) does not divide ELEN is accepted: log entry 20. The model's readings: the source side is tested
before the destination side (log entry 76), SWB = 0 asks for SWS = 0 and SWB > 0 for SWS of 3 or more (log entry 21), and every
pseudo-channel is of one class (log entry 77).
cpy, cpy.g and cpy.s: a failing check raises its fault; on a tile a channel that holds two commands raises SLIP_LATE with
reason QUEUE, and otherwise the command runs or is queued, its words joining the channel's stream; on a hub a channel that holds
two makes the hub wait (R241, R242, R253). gput and gget: the checks of the group and both spans, then PHASE, then QUEUE;
otherwise the command enters the channel (R241, R257). -/
def Obligations.CommandsEnterTheChannel : Prop :=
  (∀ (g : EngForm) (cx : Cx) (m : List Host.Cell) (cd ca cb : CReg), (g = .cpy ∨ g = .cpyG ∨ g = .cpyS) →
    let run := copyCmd g cx m cd ca cb
    (∀ f, checkSpan cb 0 48 0x001 16 0 0x8000 = .error f → run = .error f) ∧
    ∀ o, checkSpan cb 0 48 0x001 16 0 0x8000 = .ok o →
      let u (i n : Nat) : Nat := Mem.readLE m (cx.fetchAddr o + i) n
      let si (i : Nat) : Int := sextNat (u i 4) 32
      let r : Shape := ⟨u 0 2 % 512 + 1, u 2 2 + 1, u 4 2 + 1, u 6 2 + 1, si 8, si 12, si 16, si 20, si 24, si 28, si 32, u 36 4,
        if u 40 1 % 2 = 1 then 4 else 2, u 41 1 % 16, u 41 1 / 16 % 8⟩
      let malformed : Prop := 512 ≤ u 0 2 ∨ (∃ i ∈ [8, 12, 16, 20, 24, 28], si i % 8 ≠ 0) ∨ 2 ≤ u 40 1 ∨ 128 ≤ u 41 1 ∨ u 42 6 ≠ 0 ∨
        (r.swb = 0 ∧ r.sws ≠ 0) ∨ (r.swb ≠ 0 ∧ (r.sws < 3 ∨ 8 * r.w < 2 ^ (r.sws + r.swb))) ∨
        (g = .cpy ∧ (u 32 4 ≠ 0 ∨ u 36 4 ≠ 0 ∨ u 40 1 ≠ 0)) ∨ (g ≠ .cpy ∧ (r.ioff % r.isz ≠ 0 ∨ 512 < r.n1 * r.n2)) ∨
        ∃ i1 < r.n1, ∃ k < r.w, 8 * r.w ≤ Nat.xor (8 * k) (i1 % 2 ^ r.swb * 2 ^ r.sws)
      (∀ f, cx.ownEcc o 48 = some f → run = .error f) ∧
      (cx.ownEcc o 48 = none → malformed → run = .error { code := 0x02 }) ∧
      (cx.ownEcc o 48 = none → ¬malformed → g ≠ .cpy → ∀ f,
        checkSpan cb r.ioff (r.isz * (r.n1 * r.n2)) 0x001 r.isz 0 0x8000 = .error f → run = .error f) ∧
      ∀ io, (g ≠ .cpy → checkSpan cb r.ioff (r.isz * (r.n1 * r.n2)) 0x001 r.isz 0 0x8000 = .ok io ∧
          cx.ownEcc io (r.isz * (r.n1 * r.n2)) = none) → cx.ownEcc o 48 = none → ¬malformed →
        let cur (c : CReg) : Nat := (capCur c.data).toNat
        let inside (c : CReg) (x : Nat) : Prop := (decodeBounds c.data).1 ≤ x ∧ x + 8 ≤ (decodeBounds c.data).2
        let firstOut (c : CReg) (n1 : Nat) (s2 s1 s0 : Int) (swb : Nat) : Option Nat :=
          ((List.range r.n2).flatMap fun (i2 : Nat) => (List.range n1).flatMap fun (i1 : Nat) => (List.range r.n0).flatMap fun (i0 : Nat) =>
            (List.range r.w).map fun k =>
              ((cur c + i2 * s2 + i1 * s1 + i0 * s0 + Nat.xor (8 * k) (i1 % 2 ^ swb * 2 ^ r.sws) : Int) % 2 ^ 64).toNat).find? fun x =>
            !decide ((decodeBounds c.data).1 ≤ x ∧ x + 8 ≤ (decodeBounds c.data).2)
        let side (c : CReg) (need : BitVec 12) (n1 : Nat) (s2 s1 s0 : Int) (swb : Nat) : Prop :=
          let bare := sealed c.data = false ∧ hasPerm c.data need = true
          (c.tag = false → run = .error { code := 0x04, info := cur c }) ∧
          (c.tag = true → ¬bare → run = .error { code := 0x06, info := cur c }) ∧
          (∀ x, c.tag = true → bare → firstOut c n1 s2 s1 s0 swb = some x → run = .error { code := 0x05, info := x }) ∧
          (c.tag = true → bare → firstOut c n1 s2 s1 s0 swb = none → n1 ≠ 0 → cur c % 8 ≠ 0 → run = .error { code := 0x07, info := cur c })
        side ca 0x401 (if g = .cpyG then r.lim else r.n1) r.ss2 r.ss1 r.ss0 0 ∧
        (∀ ss, cx.checkSide ca 0x401 (shapeHull r ca false (g == .cpyG)) true (g == .cpyG) = .ok ss →
          side cd 0x402 (if g = .cpyS then r.lim else r.n1) r.ds2 r.ds1 r.ds0 (if g = .cpyS then 0 else r.swb)) ∧
        ∀ cmd, run = .ok cmd →
          let word (c : CReg) (x : Nat) : Prop := inside c x ∧ x % 8 = 0 ∧ x / 2 ^ 60 = cur c / 2 ^ 60
          let fit (c : CReg) (need : BitVec 12) : Prop := c.tag = true ∧ sealed c.data = false ∧ hasPerm c.data need = true ∧
            (cur c / 2 ^ 60 ≠ 0 → hasPerm c.data 0x200 = true)
          cmd.form = g ∧ cmd.shape = r ∧ cmd.src = ca ∧ cmd.dst = cd ∧ cmd.issued = cx.n ∧ cmd.start = none ∧
          cmd.idx = (if g = .cpy then [] else (List.range (r.n1 * r.n2)).map fun i => Mem.readLE m (cx.fetchAddr io + r.isz * i) r.isz) ∧
          fit ca 0x401 ∧ fit cd 0x402 ∧ (cur ca / 2 ^ 60 = 0 ∨ cur cd / 2 ^ 60 = 0) ∧
          ∀ e < cmd.elements, ∀ k < r.w,
            ((g = .cpyG ∧ cmd.skips e = true) ∨ word ca (cmd.srcAddr e k)) ∧ ((g = .cpyS ∧ cmd.skips e = true) ∨ word cd (cmd.dstAddr e k))) ∧
  (∀ (d a b : RegNo) (ch : Fin 4) (s : State) (cx : Cx),
    let form (i : Instr) (g : EngForm) : Prop := Ready i s cx →
      (∀ f, copyCmd g cx s.mem (cx.read d) (cx.read a) (cx.read b) = .error f → Raises i cx s f) ∧
      ∀ cmd, copyCmd g cx s.mem (cx.read d) (cx.read a) (cx.read b) = .ok cmd →
        (∀ tc, cx.tile = .ok tc →
          let timely := (tc.part.startFor tc.t ch (tc.tile.chans[ch]) cx.n).any fun st => tc.part.phaseOk cx.n (cmd.lastWrite tc.t st)
          let member := cmd.path = .memberDst ∨ cmd.path = .memberSrc
          (member → timely = false → Raises i cx s { code := 0x10, reason := 0x04 }) ∧
          ((member → timely = true) → (tc.tile.chans[ch]).run ≠ none → (tc.tile.chans[ch]).que ≠ none → Raises i cx s { code := 0x10, reason := 0x02 }) ∧
          ((member → timely = true) → ((tc.tile.chans[ch]).run = none ∨ (tc.tile.chans[ch]).que = none) →
            Completes i cx s (s.modTile tc.t fun x => { x with chans := x.chans.set ch ((x.chans[ch]).put cmd cx.n cmd.words) }) .seq)) ∧
        (∀ die h hb, cx.wh = .hub die h hb →
          (((s.hub die h).chans[ch]).run ≠ none → ((s.hub die h).chans[ch]).que ≠ none →
            Completes i cx s (s.modHub die h fun x => { x with wait := some .channel }) .stay) ∧
          (((s.hub die h).chans[ch]).run = none ∨ ((s.hub die h).chans[ch]).que = none →
            Completes i cx s (s.modHub die h fun x => { x with chans := x.chans.set ch ((x.chans[ch]).put cmd cx.n cmd.words) }) .seq))
    form (.cpy d a b ch) .cpy ∧ form (.cpyG d a b ch) .cpyG ∧ form (.cpyS d a b ch) .cpyS) ∧
  ∀ (d a b : RegNo) (ch : Fin 4) (s : State) (cx : Cx) (tc : TileCx), cx.tile = .ok tc →
    let sel := (cx.data b).toNat
    let n := sel / 2 ^ 8 % 2 ^ 8 + 1
    let g := groupEntry (tc.tile.gtab.toList.getD (sel % 64) 0)
    let c := tc.tile.chans[ch]
    let timely := (tc.part.startFor tc.t ch c cx.n).any fun st => tc.part.phaseOk cx.n (st + (n - 1) + g.latency tc.part + 3)
    let form (i : Instr) (f : EngForm) (words : Nat) : Prop := Ready i s cx →
      ((g.v = false ∨ g.holds tc.part tc.t = false) → Raises i cx s { code := 0x02 }) ∧
      (g.v = true → g.holds tc.part tc.t = true → ∀ o o', checkSpan (cx.read a) 0 (8 * n) 0x401 8 0 0x8000 = .ok o →
        checkSpan (cx.read d) 0 (8 * n) 0x402 8 0 0x8000 = .ok o' →
        (timely = false → Raises i cx s { code := 0x10, reason := 0x04 }) ∧
        (timely = true → c.run ≠ none → c.que ≠ none → Raises i cx s { code := 0x10, reason := 0x02 }) ∧
        (timely = true → (c.run = none ∨ c.que = none) → ∃ cmd : Cmd, cmd.form = f ∧ cmd.path = .reduce ∧ cmd.src = cx.read a ∧
          cmd.dst = cx.read d ∧ cmd.entry = sel % 64 ∧ cmd.n = n ∧ cmd.issued = cx.n ∧
          Completes i cx s (s.modTile tc.t fun x => { x with chans := x.chans.set ch ((x.chans[ch]).put cmd cx.n words) }) .seq))
    form (.gput d a b ch) .gput (if g.origin tc.part = tc.t then n else 0) ∧ form (.gget d a b ch) .gget n

/-- gtbl writes the shadow entry cA[5:0] at the end of n + 3, or raises FORMAT on a malformed entry; cpy.wp writes wp, ORC,
BUSY, QUEUED and ERR of a channel at their places (R254, R256). -/
def Obligations.GroupTableAndStatus : Prop :=
  (∀ (a b : RegNo) (s : State) (cx : Cx) (tc : TileCx), Ready (.gtbl a b) s cx → cx.tile = .ok tc →
    let v : DWord := (cx.data b).setWidth 64
    let g := groupEntry v
    let malformed := g.v = true ∧ (v.getLsbD 62 = true ∨ v.toNat % 2 ^ 32 ≠ 0 ∨ g.lt = 3 ∨ 9 < v.toNat / 2 ^ 53 % 16 ∨ 7 < v.toNat / 2 ^ 50 % 8 ∨
      g.legal tc.part = false ∨ g.holds tc.part tc.t = false)
    (malformed → Raises (.gtbl a b) cx s { code := 0x02 }) ∧
    (¬malformed → Completes (.gtbl a b) cx s (s.due cx (cx.n + 3) (.gtab ((cx.data a).setWidth 6 : BitVec 6).toFin v)) .seq)) ∧
  ∀ (d : RegNo) (ch : Fin 4), Writes (.cpyWp d ch) d 1 fun cx =>
    let c := match cx.wh with | .tile _ _ _ tl _ => tl.chans[ch] | .hub _ _ h => h.chans[ch]
    ⟨BitVec.ofNat 128 (c.wp.toNat + c.orc.toNat * 2 ^ 64 + (if c.run.isSome ∨ c.inflight ≠ [] then 2 ^ 96 else 0) +
      (if c.que.isSome then 2 ^ 97 else 0) + c.err.toNat * 2 ^ 100), false⟩

/-! ### System instructions -/

/-- trap in a tile keeps one record of TRAP, kind 3, with the code as WORD and cA[63:0] as INFO, freezes the partition at the
end of the cycle and goes on at pc + 4; on a hub it stops the hub with that record and posts its message (R282, R287). halt ends
every slot of a tile's core and disarms its watchdog; on a hub it stops the hub with TRAP and REASON 0x30, its message posted too. hbeat arms the
watchdog for n + k, or with k = 0 disarms it; a watchdog that is still armed at its deadline raises HEARTBEAT with INFO the
deadline and is disarmed (R291, R292). -/
def Obligations.TrapHaltAndWatchdog : Prop :=
  (∀ (a : RegNo) (num : BitVec 12) (s : State) (cx : Cx), Ready (.trapTrap a num) s cx →
    (∀ t k j tl q, cx.wh = .tile t k j tl q →
      Completes (.trapTrap a num) cx s (s.modPart q.pid fun q => q.take
        { code := 0x3F, reason := 0, who := (if k = .execute then 1 else 0) + 2 * j.val, kind := 3, x := t.x, y := t.y, cyc := cx.n,
          pc := cx.pc.toNat % 2 ^ 32, word := num.toNat, info := (cx.data a).toNat % 2 ^ 64 }) .seq) ∧
    (∀ die h hb, cx.wh = .hub die h hb → ∃ u, Completes (.trapTrap a num) cx s u .seq ∧ (u.hub die h).stopped = true ∧
      (u.hub die h).hfr =
        { code := 0x3F, reason := 0, who := 16, kind := 3, x := h, y := die, cyc := s.rmt,
          pc := cx.pc.toNat % 2 ^ 32, word := num.toNat, info := (cx.data a).toNat % 2 ^ 64 } ∧
      (∃ m ∈ u.messages, m.origin = true ∧ m.loc = die + 16 * h ∧ m.code = 0x3F ∧ m.reason = 0 ∧ m.first = (u.hub die h).hfr) ∧
      (u.hub die h).ctx = (s.hub die h).ctx ∧ u.mem = s.mem ∧ u.tiles = s.tiles ∧ u.parts = s.parts)) ∧
  (∀ (a : RegNo) (s : State) (cx : Cx) (tc : TileCx), cx.tile = .ok tc →
    (Ready .halt s cx → ∃ u, Completes .halt cx s u .seq ∧ (∀ j, ((u.tile tc.t).slot tc.k j).live = false) ∧
      ((u.tile tc.t).core tc.k).armed = false ∧ { u with tiles := s.tiles } = s ∧
      { (u.tile tc.t) with access := (s.tile tc.t).access, exec := (s.tile tc.t).exec } = s.tile tc.t ∧
      (∀ k', k' ≠ tc.k → (u.tile tc.t).core k' = (s.tile tc.t).core k') ∧
      (∀ j, { (u.tile tc.t).slot tc.k j with live := ((s.tile tc.t).slot tc.k j).live } = (s.tile tc.t).slot tc.k j) ∧
      ∀ t', t'.x < 1024 → tc.t.x < 1024 → t' ≠ tc.t → u.tile t' = s.tile t') ∧
    (Ready (.hbeat a) s cx →
      let k := (cx.data a).toNat % 2 ^ 32
      (k = 0 → Completes (.hbeat a) cx s (s.modTile tc.t fun x => x.setCore tc.k { x.core tc.k with armed := false }) .seq) ∧
      (k ≠ 0 → Completes (.hbeat a) cx s
        (s.modTile tc.t fun x => x.setCore tc.k { x.core tc.k with armed := true, hbd := cx.n + k }) .seq))) ∧
  (∀ (s : State) (cx : Cx) (die h : Nat) (hb : Hub), cx.wh = .hub die h hb → Ready .halt s cx →
    ∃ u, Completes .halt cx s u .seq ∧ (u.hub die h).stopped = true ∧ (u.hub die h).hfr =
        { code := 0x3F, reason := 0x30, who := 16, kind := 3, x := h, y := die, cyc := s.rmt, pc := cx.pc.toNat % 2 ^ 32,
          word := cx.word.toNat, info := 0 } ∧
      (∃ m ∈ u.messages, m.origin = true ∧ m.loc = die + 16 * h ∧ m.code = 0x3F ∧ m.reason = 0x30 ∧ m.first = (u.hub die h).hfr) ∧
      (u.hub die h).ctx = (s.hub die h).ctx ∧ u.mem = s.mem ∧ u.tiles = s.tiles ∧ u.parts = s.parts) ∧
  ∀ (t : Coord) (k : Side) (s : State) (q : Part), s.partOf t = some q → q.form = .running → ((s.tile t).core k).armed = true →
    ((s.tile t).core k).hbd = q.cyc + 1 →
    exec (.heartbeat t k) s = .next ((s.modTile t fun x => x.setCore k { x.core k with armed := false }).modPart q.pid fun p => p.take
      { code := 0x38, reason := 0, who := if k = .execute then 1 else 0, kind := 1, x := t.x, y := t.y, cyc := q.cyc, pc := 0, word := 0,
        info := (q.cyc + 1) % 2 ^ 64 })

/-- The dispositions: tret of a message that this hub has popped disposes of it, by the disposition in cA[19:16], and of any
other raises ILLEGAL (R288). RESUME of a partition's message ends it and the fault's cause, and a partition held in place that has no
other begins its restart; of a hub's, the hub goes on. ABANDON halts the partition with CODE of the message, or restarts the hub at its
firmware entry; FORWARD takes the message to the next level that is not failed, unpopped, and at the last one exhausts the chain: the
partition is halted, the hub failed. ISOLATE ends the message as RESUME does and loses the tile: no slot is live, its queues, matrix
state, channels and own pending results are gone, its windows 0 and its re-offered instructions dropped, its group table, counts and
watchdogs staying (R283 to R285). Of memory no more than the header of the save area changes. The registers of a restarted hub
are log entry 112. That a message is disposed of in the tret's own issue cycle is log entry 17, and that the four
rows of the table, which share one word, have one meaning is log entry 34. -/
def Obligations.DispositionsAreAccepted : Prop :=
  ∀ (a : RegNo) (s : State) (cx : Cx) (die h : Nat) (hb : Hub), cx.wh = .hub die h hb →
    let v := (cx.data a).toNat
    let disp := v / 2 ^ 16 % 16
    let t : Coord := ⟨v / 2 ^ 20 % 2 ^ 10, v / 2 ^ 30 % 2 ^ 8⟩
    let found := s.messages.find? fun (m : Message) => m.ticket == v % 2 ^ 16 && m.atHub die h && m.popped
    (∀ i ∈ [Instr.tretResume a, .tretAbandon a, .tretForward a, .tretIsolate a], Ready i s cx →
      (found = none → Raises i cx s { code := 0x01 }) ∧
      ∀ m, found = some m →
        (s.dispOk m disp t = true → Completes i cx s (s.dispose m disp t) .seq) ∧
        (s.dispOk m disp t = false → Raises i cx s { code := 0x01 })) ∧
    ∀ (m : Message),
      let gone (u : State) : Prop := ∀ n ∈ u.messages, n.ticket ≠ m.ticket
      let at' (u : State) : Hub := u.hub (m.loc % 16) (m.loc / 16)
      (∀ q, m.origin = false → s.part m.pid = some q →
        let header (u : State) : Prop := Mem.wf s.mem = true → ∀ x, x < hbmAddr q.saveAt ∨ hbmAddr q.saveAt + 0x100 ≤ x →
          Mem.get u.mem x = Mem.get s.mem x
        let resumes (q' : Part) : Prop := q'.message = none ∧ 1 ∉ q'.causes ∧
          (q.form = .held → (∀ c ∈ q.causes, c = 1) → q.causes ≠ [] → q'.restartAt = some s.rmt)
        let halted (u : State) : Prop := ∃ q', u.part m.pid = some q' ∧ q'.halted = some m.code ∧ q'.message = none ∧ q'.form = .writtenOut
        (let u := s.dispose m 0 t
         gone u ∧ header u ∧ u.tiles = s.tiles ∧ ∃ q', u.part m.pid = some q' ∧ resumes q' ∧ q'.reoffer = q.reoffer) ∧
        (let u := s.dispose m 1 t
         gone u ∧ halted u) ∧
        (m.level = 3 → let u := s.dispose m 2 t
          gone u ∧ halted u) ∧
        (q.written = false → let u := s.dispose m 3 t
          let old := s.tile t
          let tl := u.tile t
          gone u ∧ header u ∧ tl.lost = true ∧ (∀ k j, (tl.slot k j).live = false) ∧ tl.lq = [] ∧ tl.sq = [] ∧ tl.mma = none ∧ tl.image = none ∧
          (∀ i : Fin 4, tl.win[i] = 0 ∧ tl.chans[i] = .cleared ∧ tl.z[i] = .cleared) ∧
          (∀ p, p ∈ tl.pend ↔ p ∈ old.pend ∧ p.eff.foreign t = true) ∧ tl.gtab = old.gtab ∧ tl.iss = old.iss ∧ tl.ans = old.ans ∧
          (∀ k, (tl.core k).armed = (old.core k).armed ∧ (tl.core k).hbd = (old.core k).hbd) ∧
          (∀ t', t'.x < 1024 → t.x < 1024 → t' ≠ t → u.tile t' = s.tile t') ∧
          ∃ q', u.part m.pid = some q' ∧ resumes q' ∧ ∀ r, r ∈ q'.reoffer ↔ r ∈ q.reoffer ∧ r.1 ≠ t)) ∧
      (m.level ≠ 3 →
        let u := s.dispose m 2 t
        let up (l d : Nat) : Nat := if l = 1 ∧ (s.hub d 0).failed = false then 1 else if l ≤ 2 ∧ (s.hub 0 63).failed = false then 2 else 3
        u.mem = s.mem ∧ u.tiles = s.tiles ∧ u.parts = s.parts ∧ u.hubs = s.hubs ∧
        ∀ n, n ∈ u.messages ↔ (n ∈ s.messages ∧ n.ticket ≠ m.ticket) ∨
          ∃ n0 ∈ s.messages, n0.ticket = m.ticket ∧ n = { n0 with level := up (n0.level + 1) n0.die, popped := false }) ∧
      (m.origin = true →
        let b := at' s
        (let u := s.dispose m 0 t
         gone u ∧ at' u = { b with stopped := false, ctx := { b.ctx with fbuf := ⟨0, []⟩ } } ∧ u.mem = s.mem ∧ u.parts = s.parts) ∧
        (let u := s.dispose m 1 t
         gone u ∧ at' u = { b with stopped := false, ctx := Hub.entry (m.loc % 16) (m.loc / 16), wait := none, answer := none } ∧
         u.mem = s.mem ∧ u.parts = s.parts) ∧
        (m.level = 3 → at' (s.dispose m 2 t) = { b with failed := true }))

/-- sysrd and syswr of a context's own registers s0 to s7, fm, fl and sr, and sysrd of 0x013: read after 1 turn, written at the
end of n + 3 in a tile and at once on a hub, with the reserved bits of fm and fl 0. In a tile every other number below 0x800 raises
ILLEGAL, and so does syswr of 0x013; on a hub the numbers below 0x810 that name no register, and syswr of 0x013 and of 0x800 to 0x803
(R22, R23, R25, R281, R289). That sysrd of 0x013 copies bits [127:124] of the PCC is the model's, log entry 102. The mailbox: a hub's sysrd of
TMSG takes the oldest message that stands at its hub, marks it popped and writes its header, and with none it waits; TLEVEL, the fault
record and HASID read without waiting (R281, R289, R323). -/
def Obligations.SystemRegisters : Prop :=
  (∀ (d a : RegNo) (num : BitVec 12) (s : State) (cx : Cx),
    let sl := cx.slot
    let x := cx.data a
    let fm : BitVec 32 := x.setWidth 32 &&& 0x01FF1F1F#32
    let fl : BitVec 32 := x.setWidth 32 &&& 0x3F#32
    let reads (v : CReg) : Prop := Ready (.sysrd d num) s cx → Completes (.sysrd d num) cx s (s.result cx d 1 v) .seq
    let writes (e : Side → Fin 4 → Eff) (f : Slot → Slot) : Prop := Ready (.syswr a num) s cx →
      (∀ t k j tl q, cx.wh = .tile t k j tl q → Completes (.syswr a num) cx s (s.due cx (cx.n + 3) (e k j)) .seq) ∧
      (∀ die h hb, cx.wh = .hub die h hb → Completes (.syswr a num) cx s (s.modHub die h fun y => { y with ctx := f sl }) .seq)
    (∀ n : Fin 8, num.toNat = n.val →
      reads ⟨sl.s[n], false⟩ ∧ writes (fun k j => .sSet k j n x) (fun y => { y with s := y.s.set n x })) ∧
    (num = 0x010 → reads ⟨sl.fm.setWidth 128, false⟩ ∧ writes (fun k j => .fmSet k j fm) (fun y => { y with fm := fm })) ∧
    (num = 0x011 → reads ⟨sl.fl.setWidth 128, false⟩ ∧ writes (fun k j => .flSet k j fl) (fun y => { y with fl := fl })) ∧
    (num = 0x012 → reads ⟨sl.sr, false⟩ ∧ writes (fun k j => .srSet k j x) (fun y => { y with sr := x })) ∧
    (num = 0x013 → reads ⟨withCur sl.pcc.data cx.pc, sl.pcc.tag⟩) ∧
    let own : Prop := num.toNat < 8 ∨ (0x010 ≤ num.toNat ∧ num.toNat ≤ 0x012)
    let tile : Prop := ∃ t k j tl q, cx.wh = .tile t k j tl q
    let hub : Prop := ∃ die h hb, cx.wh = .hub die h hb
    ((tile ∧ num.toNat < 0x800 ∨ hub ∧ (num.toNat < 0x800 ∨ (0x804 ≤ num.toNat ∧ num.toNat < 0x810))) → ¬own → num ≠ 0x013 →
      Ready (.sysrd d num) s cx → Raises (.sysrd d num) cx s { code := 0x01 }) ∧
    ((tile ∧ num.toNat < 0x800 ∨ hub ∧ num.toNat < 0x810) → ¬own →
      Ready (.syswr a num) s cx → Raises (.syswr a num) cx s { code := 0x01 })) ∧
  ∀ (d : RegNo) (s : State) (cx : Cx) (die h : Nat) (hb : Hub), cx.wh = .hub die h hb →
    let first := s.messages.find? fun (m : Message) => m.atHub die h && !m.popped
    (Ready (.sysrd d 0x800) s cx →
      (first = none → Completes (.sysrd d 0x800) cx s (s.modHub die h fun x => { x with wait := some .mailbox }) .stay) ∧
      ∀ m, first = some m → Completes (.sysrd d 0x800) cx s
        (({ s with messages := s.messages.map fun n => if n.ticket = m.ticket then { n with popped := true } else n } : State).result
          cx d 1 ⟨m.header, false⟩) .seq) ∧
    (Ready (.sysrd d 0x801) s cx → Completes (.sysrd d 0x801) cx s (s.result cx d 1
      ⟨BitVec.ofNat 128 (if die = 0 ∧ h = 63 then 2 else if h = 0 then 1 else 0), false⟩) .seq) ∧
    (Ready (.sysrd d 0x802) s cx → Completes (.sysrd d 0x802) cx s (s.result cx d 1
      ⟨BitVec.ofNat 128 (leNat ((s.hub die h).hfr.bytes.take 16)), false⟩) .seq) ∧
    (Ready (.sysrd d 0x803) s cx → Completes (.sysrd d 0x803) cx s (s.result cx d 1
      ⟨BitVec.ofNat 128 (leNat ((s.hub die h).hfr.bytes.drop 16)), false⟩) .seq) ∧
    (Ready (.sysrd d 0x810) s cx → Completes (.sysrd d 0x810) cx s (s.result cx d 1
      ⟨(s.hub die h).hasid.setWidth 128, false⟩) .seq)

/-- tlb.w writes an unpinned entry of its die from cA, or raises ILLEGAL for a pinned index or a malformed entry; tlb.inv clears
V in the entries its mode selects, waiting while accesses that used them are in transit on the device, outstanding at a port, or
still to be sent by a channel that has used them, or raises ILLEGAL (R325, R326). -/
def Obligations.TranslationWrites : Prop :=
  ∀ (a : RegNo) (imm mode : BitVec 12) (s : State) (cx : Cx) (die h : Nat) (hb : Hub), cx.wh = .hub die h hb →
    let v := cx.data a
    (Ready (.tlbW a imm) s cx →
      (imm.toNat < 1024 ∨ (teV v = true ∧ teMalformed v = true) → Raises (.tlbW a imm) cx s { code := 0x01 }) ∧
      (1024 ≤ imm.toNat → (teV v = true → teMalformed v = false) →
        Completes (.tlbW a imm) cx s (s.setTe die imm.toNat (v &&& ~~~(1#128 <<< 126))) .seq)) ∧
    (Ready (.tlbInv a mode) s cx → (s.hub die h).answer = none →
      let sel := ((s.dieX die).tlb.filter fun e => invSelects mode.toNat v e.1 e.2).map (·.1)
      let u := s.modDieX die fun x => { x with tlb := x.tlb.map fun (e : Nat × Quad) => (e.1, if sel.contains e.1 then teClearV e.2 else e.2) }
      let used (v : List (Nat × Nat)) : Bool := v.any fun e => e.1 == die && sel.contains e.2
      let ids := (s.openFlights.filter fun (f : Flight) => used f.via).map Flight.id
      let tags := (s.edge.outbound.filter fun (o : Outbound) => used o.via).map Outbound.tag
      let chans := s.chansUsing die sel
      ((4 ≤ mode.toNat ∨ (mode = 0 ∧ v.toNat % 2 ^ 12 < 1024)) → Raises (.tlbInv a mode) cx s { code := 0x01 }) ∧
      (mode.toNat < 4 → (mode = 0 → 1024 ≤ v.toNat % 2 ^ 12) →
        ((ids = [] ∧ tags = [] ∧ chans = []) → Completes (.tlbInv a mode) cx s u .seq) ∧
        (¬(ids = [] ∧ tags = [] ∧ chans = []) →
          Completes (.tlbInv a mode) cx s (u.modHub die h fun x => { x with wait := some (.inval ids tags chans sel) }) .stay)))

/-- The Carousel forms need a binding: without one they raise SLIP_LATE with reason RING. crs.step moves k on and writes it;
crs.send lends the slot of the present step and begins its send toward SPORT and SUCC of the binding; crs.chk finds a full slot of
a step or slips; crs.rel empties it; crs.close ends an idle binding; and crs.open forms one from a well-formed ring record of the
tile's own attachment, over ports that are unbound, whose groups are UP in Lyder link and whose peers are the ring's (R374, R376,
R377, R381 to R385). At the end of the issue cycle k has moved on, the view is lent with its step, the released slot is empty with
its release queued at RPORT for PRED, the binding is gone, or the new one is there, and the tile's other fields stay (R376,
R377). The INFO of RING without a binding, with k = 0, and of PATH_DOWN in crs.open, the offset of the ring record, is log entry 43;
that a ring record with one port for both sides is malformed unless N is 2 and PRED is SUCC is log entry 44. -/
def Obligations.CarouselForms : Prop :=
  (∀ (d a : RegNo) (s : State) (cx : Cx) (tc : TileCx), cx.tile = .ok tc →
    let v := (cx.data a).toNat % 2 ^ 32
    let unbound (i : Instr) (f x : Nat) : Prop := Ready i s cx → tc.tile.binding = none →
      Raises i cx s { code := 0x10, reason := 0x12, info := x + f * 2 ^ 32 }
    (unbound (.crsStep d) 1 0 ∧ unbound (.crsSend a) 2 0 ∧ unbound (.crsChk a) 3 v ∧ unbound (.crsRel a) 4 v ∧ unbound .crsClose 5 0) ∧
    (∀ b, tc.tile.binding = some b →
      (Ready (.crsStep d) s cx → Completes (.crsStep d) cx s
        ((s.due cx cx.n (.crs .step)).result cx d 1 ⟨BitVec.ofNat 128 ((b.k.toNat + 1) % 2 ^ 32), false⟩) .seq) ∧
      (∀ o, Ready (.crsSend a) s cx → b.k.toNat < b.ring.n - 1 → s.lyderUp b.ring.sport = true →
        (let high := decide (0x8000 ≤ (cx.data a).toNat % 2 ^ 64)
         checkSpan (cx.read a) 0 (16 * (b.ring.sq + 1)) 0x001 16 (winLo high) (winHi high) = .ok o) →
        (b.views[Fin.ofNat 4 b.k.toNat]).lent = false →
        Completes (.crsSend a) cx s ((s.due cx cx.n (.crs (.sent (Fin.ofNat 4 b.k.toNat) b.k.toNat))).beginSend tc.part.pid tc.t
          ⟨cx.n, b.ring.sq + 1, o, tc.j, (attach b.ring.sport).1,
            some ⟨b.ring.sport, 0x8000 + b.k.toNat % 4, b.k.toNat, b.ring.succ, b.ring.sq + 1, 0⟩, some b.k.toNat⟩) .seq) ∧
      (Ready (.crsChk a) s cx →
        (b.ring.n - 1 ≤ v → Raises (.crsChk a) cx s { code := 0x10, reason := 0x12, info := v + 3 * 2 ^ 32 }) ∧
        (v < b.ring.n - 1 → (b.slots[Fin.ofNat 4 v]).state = .full → (b.slots[Fin.ofNat 4 v]).tag = v → Completes (.crsChk a) cx s s .seq) ∧
        (v < b.ring.n - 1 → ¬((b.slots[Fin.ofNat 4 v]).state = .full ∧ (b.slots[Fin.ofNat 4 v]).tag = v) →
          Raises (.crsChk a) cx s { code := 0x11, reason := 0x06, info := (b.slots[Fin.ofNat 4 v]).info v })) ∧
      (Ready (.crsRel a) s cx → v < b.ring.n - 1 → (b.slots[Fin.ofNat 4 v]).state = .full → (b.slots[Fin.ofNat 4 v]).tag = v →
        tc.tile.sendReads cx.n (b.ring.slotAt (v % 4)) (b.ring.slotAt (v % 4 + 1)) = false →
        Completes (.crsRel a) cx s (s.due cx cx.n (.crs (.released (Fin.ofNat 4 v) v))) .seq) ∧
      (Ready .crsClose s cx → (∀ x ∈ b.slots.toList, x.state = .empty) → (∀ y ∈ b.views.toList, y.lent = false) →
        (∀ x ∈ tc.tile.sends, x.step = none) → Completes .crsClose cx s (s.due cx cx.n (.crs .closed)) .seq)) ∧
    ∀ o, Ready (.crsOpen a) s cx → checkSpan (cx.read a) 0 32 0x001 16 0 0x8000 = .ok o → tc.tile.damage = [] →
      let l := Mem.read s.mem (tileAddr tc.t o) 32
      let r := ringRec l
      let up (p : Nat) : Prop := (s.group (p / 4)).state = .up ∧ (s.group (p / 4)).pers = 0
      let good : Prop := 2 ≤ r.n ∧ r.n ≤ 64 ∧ r.rport < 64 ∧ r.sport < 64 ∧ r.sbase % 16 = 0 ∧ r.sq < 1024 ∧ r.pred < 2 ^ 20 ∧ r.succ < 2 ^ 20 ∧
        leNat ((l.drop 10).take 2) = 0 ∧ leNat ((l.drop 20).take 12) = 0 ∧
        (r.sbase + 4 * (16 * (r.sq + 1)) ≤ 0x8000 ∨ (0x8000 ≤ r.sbase ∧ r.sbase + 4 * (16 * (r.sq + 1)) ≤ 0x18000)) ∧
        (r.rport = r.sport → r.n = 2 ∧ r.pred = r.succ)
      ((tc.part.inTroupe = false ∨ ¬good ∨ (attach r.rport).1 ≠ tc.t) → Raises (.crsOpen a) cx s { code := 0x02 }) ∧
      (tc.part.inTroupe = true → good → (attach r.rport).1 = tc.t →
        (∀ b, tc.tile.binding = some b → Raises (.crsOpen a) cx s { code := 0x10, reason := 0x12, info := b.k.toNat }) ∧
        (tc.tile.binding = none → (s.portBound r.rport = true ∨ s.portBound r.sport = true) →
          Raises (.crsOpen a) cx s { code := 0x10, reason := 0x12 }) ∧
        (tc.tile.binding = none → s.portBound r.rport = false → s.portBound r.sport = false →
          (¬up r.rport ∨ ¬up r.sport ∨ (s.port r.rport).peer ≠ r.pred ∨ (s.port r.sport).peer ≠ r.succ →
            Raises (.crsOpen a) cx s { code := 0x2A, info := o }) ∧
          (up r.rport → up r.sport → (s.port r.rport).peer = r.pred → (s.port r.sport).peer = r.succ →
            Completes (.crsOpen a) cx s (s.due cx cx.n (.crs (.opened
              ⟨r, tc.part.lrec.seq, 0, Vector.replicate 4 ⟨.empty, 0, 0⟩, Vector.replicate 4 ⟨false, 0⟩, []⟩))) .seq)))) ∧
  ∀ (s : State) (t : Coord) (q : Part) (b new : Binding) (pid : Nat) (bad : List Nat) (i : Fin 4) (n : Nat),
    s.partOf t = some q → (s.tile t).binding = some b →
    let does (e : CrsAct) (h : Tile → Tile) : Prop := s.effectDue pid t bad (.crs e) = s.modTile t h
    (does .step fun tl => { tl with binding := some { b with k := b.k + 1 } }) ∧
    (does (.sent i n) fun tl => { tl with binding := some { b with views := b.views.set i ⟨true, n⟩ } }) ∧
    (does .closed fun tl => { tl with binding := none }) ∧ (does (.opened new) fun tl => { tl with binding := some new }) ∧
    s.effectDue pid t bad (.crs (.released i n)) =
      (s.modTile t fun tl => { tl with binding := some { b with slots := b.slots.set i ⟨.empty, 0, 0⟩ } }).queueFlit b.ring.rport
        ⟨s.device, b.ring.pred, .mgmt 9 q.lrec.troupe n 0⟩

/-! ### The events of a partition's cycles -/

/-- The mesh and the Turnstile. A catch takes the flit of its cycle, the low half into the quad it forms, the high half
completing the quad, which falls due two cycles on, as does that of every other catch in progress, and a later flit that is missing is a
cycle fault with INFO the quad, whose quad is not written (R182); a flit that is granted the output it wants goes on, and one that is
not is caught and loses a cycle (R174, R175), as does a reduction word, with every word that is combined with it at that output (R396),
the contributions still to meet it waiting for it there, which is the model's (log entry 46); a timetable entry that no instruction meets raises SLIP_LATE with reason SLOT and
INFO its index (R177); and at the end of cycle U_s - 1 the superstep ends: with every core arrived and every count right the
partition enters the next one with the counts 0, a core that has not arrived freezes it (R154; that one without a live slot is not missing is
the model's, log entry 95), and with all arrived each member whose
ISS and ANS differ gives one record of COUNT_MISMATCH with both counts as INFO, and freezes it in the same superstep (R230). -/
def Obligations.MeshAndTurnstile : Prop :=
  ∀ (t : Coord) (s : State) (q : Part),
    (∀ (cs : CatchSt) (f : Flit), s.partOf t = some q → s.part q.pid = some q → (s.tile t).catches = [cs] → cs.a < q.cyc →
      q.cyc < cs.a + 2 * cs.n → q.streamAt t q.cyc = some f →
      ((q.cyc - cs.a) % 2 = 0 →
        exec (.catchFlitTake t) s = .next (s.modTile t fun tl => { tl with catches := [{ cs with low := some f.payload }] })) ∧
      ((q.cyc - cs.a) % 2 = 1 → ∀ lo, cs.low = some lo → ∃ u, exec (.catchFlitTake t) s = .next u ∧ u.mem = s.mem ∧
        (u.tile t).pend = (s.tile t).pend ++ [⟨q.cyc + 2, catchWrite t cs ((q.cyc - cs.a) / 2) (f.payload ++ lo)⟩])) ∧
    (∀ f : Flit, s.partOf t = some q → s.part q.pid = some q → q.streamAt t q.cyc = some f →
      ∃ u, exec (.catchFlitTake t) s = .next u ∧ u.mem = s.mem ∧ u.parts = s.parts ∧
        (u.tile t).pend = (s.tile t).pend ++ (s.tile t).catches.filterMap fun cs =>
          if cs.a < q.cyc ∧ q.cyc < cs.a + 2 * cs.n ∧ (q.cyc - cs.a) % 2 = 1
          then cs.low.map fun lo => ⟨q.cyc + 2, catchWrite t cs ((q.cyc - cs.a) / 2) (f.payload ++ lo)⟩ else none) ∧
    (∀ cs : CatchSt, s.partOf t = some q → s.part q.pid = some q → (s.tile t).catches = [cs] → cs.a < q.cyc →
      q.cyc < cs.a + 2 * cs.n → q.streamAt t q.cyc = none → ∃ u q' r, exec (.catchFlitTake t) s = .next u ∧ u.mem = s.mem ∧
        (u.tile t).pend = (s.tile t).pend ∧ u.part q.pid = some q' ∧ q'.freezing = true ∧ q'.faults = q.faults ++ [r] ∧ r.code = 0x11 ∧
        r.reason = 0x06 ∧ r.kind = 1 ∧ r.x = t.x ∧ r.y = t.y ∧ r.cyc = q.cyc ∧ r.info = (q.cyc - cs.a) / 2 % 2 ^ 64 ∧
        ∀ c ∈ (u.tile t).catches, (q.cyc - cs.a) % 2 = 0 ∧ c = { cs with low := none } ∨ (q.cyc - cs.a) % 2 = 1 ∧ c = cs) ∧
    (∀ pid id, s.part pid = some q →
      (q.takes id q.cyc = true → (∀ c ∈ q.claimants q.cyc, (s.tile c.claim.at').damage = []) → exec (.flitHop pid id) s = .next s) ∧
      (∀ f c, (q.claimants q.cyc).find? (fun g => g.id == id) = some c → q.flits.find? (fun g => g.id == id) = some f →
        c.key = none → q.takes id q.cyc = false → ∃ u q' r slot, exec (.flitHop pid id) s = .next u ∧ u.part pid = some q' ∧
          q'.freezing = true ∧ q'.faults.getLast? = some r ∧ r.code = 0x12 ∧ r.kind = 1 ∧ r.cyc = q.cyc ∧ r.x = c.claim.at'.x ∧
          r.y = c.claim.at'.y ∧
          (∃ g ∈ q'.flits, g.id = id ∧ g.caught = some (q.cyc + 1, slot) ∧ g.delay = f.delay + 1) ∧ u.mem = s.mem ∧
          ((s.tile c.claim.at').damage = [] → u.tiles = s.tiles)) ∧
      (∀ w c, (q.claimants q.cyc).find? (fun g => g.id == id) = some c → q.flits.find? (fun g => g.id == id) = none →
        q.redWords.find? (fun g => g.id == id) = some w → (q.redWords.map RedWord.id).Nodup → q.takes id q.cyc = false →
        (∀ g ∈ q.claimants q.cyc, g.key = some w.key → g.claim.at' = c.claim.at' → g.claim.out = c.claim.out → id ≤ g.id) →
        ∃ u q' r slot, exec (.flitHop pid id) s = .next u ∧ u.part pid = some q' ∧ q'.freezing = true ∧ q'.faults.getLast? = some r ∧
          r.code = 0x12 ∧ r.kind = 1 ∧ r.cyc = q.cyc ∧ r.x = c.claim.at'.x ∧ r.y = c.claim.at'.y ∧ u.mem = s.mem ∧
          ∀ v ∈ q.redWords, v.key = w.key → v.claim q.x0 q.y0 q.cyc = some c.claim →
            ∃ v' ∈ q'.redWords, v'.id = v.id ∧ v'.data = v.data ∧ v'.caught = some (q.cyc + 1, slot) ∧ (c.claim.at', c.claim.out) ∈ v'.late)) ∧
    (∀ entry pl, s.partOf t = some q → q.form = .running → (s.tile t).lost = false → q.place t q.cyc = some pl → pl.index = entry →
      exec (.missedSlot t entry) s = .next (s.modPart q.pid fun p => p.take
        { code := 0x10, reason := 0x0C, who := 2 * (q.cyc % 4), kind := 1, x := t.x, y := t.y, cyc := q.cyc, pc := 0, word := 0,
          info := entry % 2 ^ 64 })) ∧
    ∀ pid u, s.part pid = some q → q.super = some u → q.form = .running → q.cyc + 1 = u.b + u.c + u.x →
      (s.missingTrn q = [] → s.countFaults q = [] → ∃ v q', exec (.turnstile pid) s = .next v ∧ v.part pid = some q' ∧
        q'.ss = q.ss + 1 ∧ v.mem = s.mem ∧ ∀ m ∈ q.members, (v.tile m).iss = 0 ∧ (v.tile m).ans = 0 ∧ (v.tile m).access.trn = false ∧
          (v.tile m).exec.trn = false ∧ (v.tile m).gtab = (s.tile m).gshadow) ∧
      (s.missingTrn q ≠ [] → ∃ v q', exec (.turnstile pid) s = .next v ∧ v.part pid = some q' ∧ q'.freezing = true ∧
        q'.ss = q.ss ∧ q'.faults = q.faults ++ s.missingTrn q ∧ v.tiles = s.tiles) ∧
      (s.missingTrn q = [] → pid = q.pid → (∃ m ∈ q.members, (s.tile m).lost = false ∧ (s.tile m).iss ≠ (s.tile m).ans) →
        ∃ v q' l, exec (.turnstile pid) s = .next v ∧ v.part pid = some q' ∧ q'.freezing = true ∧ q'.turnDue = true ∧ q'.ss = q.ss ∧
          v.tiles = s.tiles ∧ v.mem = s.mem ∧ q'.faults = q.faults ++ l ∧
          (∀ r ∈ l, r.code = 0x18 ∧ r.kind = 1 ∧ r.cyc = q.cyc) ∧
          l.map (fun r => ((⟨r.x, r.y⟩ : Coord), r.info)) =
            (q.members.filter fun m => !(s.tile m).lost && (s.tile m).iss != (s.tile m).ans).map fun m =>
              (m, ((s.tile m).iss.toNat + (s.tile m).ans.toNat * 2 ^ 32) % 2 ^ 64))

/-- Puts and atomics at their homes. In its performance cycle an admitted put's 8 bytes, setting the full bit, and an admitted
atomic fall due at the end of the cycle at the home tile; one that the home's windows do not admit changes no tile (R183, R200,
R235). In its answer cycle the journal entry is free and, in the superstep of its issue, ANS counts it; an atomic's old value
falls due in cD; a refused one raises REMOTE_NACK (R184, R227, R236). -/
def Obligations.PutsAndAtomicsAtHome : Prop :=
  ∀ (pid id : Nat) (s : State) (q : Part) (x : Xact), s.part pid = some q → pid = q.pid → q.xact id = some x →
    let off := x.addr.toNat % 2 ^ 24
    let ev (put amo : Instr) : Instr := if x.op = 0 then put else amo
    let size := if x.op = 0 ∨ x.wide = true then 8 else 4
    let ok := (s.tile x.home).admits off size .part (if x.op = 0 then .wr else .amo)
    (x.perform = q.cyc → x.performed = false → x.refused = false →
      ∃ u, exec (ev (.putPerform pid id) (.amoPerform pid id)) s = .next u ∧ u.mem = s.mem ∧
        (ok = false → u.tiles = s.tiles) ∧
        (ok = true → x.op = 0 → (u.tile x.home).pend = (s.tile x.home).pend ++
          [⟨q.cyc, .store off (leBytes 8 x.data.toNat) false true ⟨2, 0, x.slot.val, x.entry.val, x.src.x, x.src.y, none⟩⟩]) ∧
        (ok = true → x.op ≠ 0 → (u.tile x.home).pend = (s.tile x.home).pend ++
          [⟨q.cyc, .amo off (x.op - 1) size x.data x.cmp x.id none ⟨3, 0, x.slot.val, x.entry.val, x.src.x, x.src.y, none⟩⟩])) ∧
    (x.answer = q.cyc → (s.tile x.src).lost = false → (s.tile x.src).damage = [] →
      ∃ u, exec (ev (.putAnswer pid id) (.amoAnswer pid id)) s = .next u ∧ u.mem = s.mem ∧
        ((u.tile x.src).journal[x.entry]).v = false ∧
        (u.tile x.src).ans = (s.tile x.src).ans + (if x.ss = q.ss then 1 else 0) ∧
        (x.op ≠ 0 → x.refused = false → ∀ e ∈ (s.tile x.src).pend, (∃ n, e.eff = .xreg n id) →
          ⟨q.cyc, .creg .access x.slot x.dreg ⟨x.result.setWidth 128, false⟩⟩ ∈ (u.tile x.src).pend) ∧
        (x.refused = true → ∃ q', u.part pid = some q' ∧ q'.freezing = true ∧ ∃ r, q'.faults = q.faults ++ [r] ∧ r.code = 0x20 ∧
          r.kind = 2 ∧ r.x = x.src.x ∧ r.y = x.src.y ∧ r.cyc = q.cyc))

/-- The channels and the reductions. A local copy's channel reads word k of element e in cycle s + e (w + 1) + 1 + k and its
write falls due three cycles on, with the full bit; a copy to or from a member tile puts the address of element e into the mesh in its
cycle, and one to a member each word in its own; one to an owned pseudo-channel sends word k of element e in cycle s + e w + k (R247,
R248); a member element reads its next word at its home and sends it,
and a refused one raises REMOTE_NACK at its tile (R247, R250); a reply completes its word, a read's data falling due as a
delivery, or becomes the next record of the held area while the partition is frozen (R249, R303, R304), its kind 1 or 2 as the model
numbers them (log entry 16); a tile's deliveries are written when their words are free (R249); and a combined word or a broadcast word
that reaches its place falls due there three cycles on (R257, R258). -/
def Obligations.EngineEvents : Prop :=
  (∀ (t : Coord) (ch : Fin 4) (s : State) (q : Part) (cmd : Cmd) (st e k : Nat), s.partOf t = some q → s.part q.pid = some q →
    (s.tile t).chans[ch].run = some cmd → cmd.start = some st → cmd.path = .localOnly → cmd.virtual = false → cmd.last = none →
    e < cmd.elements → k < cmd.shape.w → q.cyc = st + e * (cmd.shape.w + 1) + 1 + k → cmd.skips e = false →
    let src := homeOffset (cmd.srcAddr e k)
    (s.tile t).eccAt src 8 = none →
    ∃ u, exec (.channelCommandStart (.tile t) ch) s = .next u ∧ u.mem = s.mem ∧
      ∃ w : Writer, (u.tile t).pend = (s.tile t).pend ++
        [⟨q.cyc + 3, .store (homeOffset (cmd.dstAddr e k)) (leBytes 8 (Mem.readLE s.mem (tileAddr t src) 8)) false true w⟩]) ∧
  (∀ (t : Coord) (ch : Fin 4) (s : State) (q : Part) (cmd : Cmd) (st e k : Nat), s.partOf t = some q → s.part q.pid = some q →
    (s.tile t).chans[ch].run = some cmd → cmd.start = some st → cmd.virtual = false → cmd.last = none →
    e < cmd.elements → k < cmd.shape.w → cmd.skips e = false →
    let w := cmd.shape.w
    let src := homeOffset (cmd.srcAddr e k)
    let word : DWord := BitVec.ofNat 64 (Mem.readLE s.mem (tileAddr t src) 8)
    let injects (home : Coord) (v : DWord) (job : Part → Flit → Prop) : Prop := ∃ (u : State) (q' : Part) (f : Flit),
      exec (.channelCommandStart (.tile t) ch) s = .next u ∧ u.mem = s.mem ∧ u.part q.pid = some q' ∧ q'.flits = q.flits ++ [f] ∧
      f.kind = .engine ∧ f.src = t ∧ f.dst = home ∧ f.q = q.cyc ∧ f.payload = v ∧ job q' f
    let begins (pc : Option Nat) (dst : Bool) (home : Coord) (q' : Part) (f : Flit) : Prop := ∃ el : Element, q'.elems = q.elems ++ [el] ∧
      f.job = el.id ∧ el.tile = t ∧ el.ch = ch ∧ el.e = e ∧ el.pc = pc ∧ el.dst = dst ∧ el.home = home ∧ el.se = q.cyc
    (q.cyc = st + e * (w + 1) → (cmd.path = .memberDst → injects cmd.home (BitVec.ofNat 64 (cmd.dstAddr e 0)) (begins none true cmd.home)) ∧
      (cmd.path = .memberSrc → injects cmd.home (BitVec.ofNat 64 (cmd.srcAddr e 0)) (begins none false cmd.home))) ∧
    (q.cyc = st + e * (w + 1) + 1 + k → cmd.path = .memberDst → (s.tile t).eccAt src 8 = none →
      ∀ el, (q.elems.find? fun el => el.tile == t && el.ch == ch && el.e == e && el.dst && el.first == cmd.first + e * w) = some el →
        injects el.home word (fun q' f => q'.elems = q.elems ∧ f.job = el.id)) ∧
    (q.cyc = st + e * w + k → cmd.path = .pcDst → (s.tile t).eccAt src 8 = none →
      let g := pcOf (homeOffset (cmd.dstAddr e k))
      injects (pcTile g) word (begins (some g) true (pcTile g)))) ∧
  (∀ (d h : Nat) (ch : Fin 4) (s : State), (s.hub d h).chans[ch].run = none → exec (.channelCommandStart (.hub d h) ch) s = .next s) ∧
  (∀ (pid id : Nat) (s : State) (q : Part) (el : Element), s.part pid = some q → pid = q.pid → (q.elems.find? fun e => e.id == id) = some el →
    (∀ k, el.pc = none → el.dst = false → el.refusedAt = none → q.cyc = el.arrive + 1 + k → k < el.homeOffs.length →
      (s.tile el.home).eccAt (el.homeOffs.getD k 0) 8 = none → q.elemFlits el el.tile q.cyc = [] →
      exec (.engineElementAtHome pid id) s = .next ((s.modPart pid fun p => p.setElem el).modPart pid fun p =>
        p.inject .engine el.home el.tile q.cyc
          (BitVec.ofNat 64 (Mem.readLE s.mem (tileAddr el.home (el.homeOffs.getD k 0)) 8)) el.id none)) ∧
    (el.refusedAt = some q.cyc → ∃ u q', exec (.engineRefusalArrival pid id) s = .next u ∧ u.mem = s.mem ∧ u.part pid = some q' ∧
      q'.freezing = true ∧ (∀ e ∈ q'.elems, e.id ≠ id) ∧
      ∃ r, q'.faults = q.faults ++ [r] ∧ r.code = 0x20 ∧ r.kind = 2 ∧ r.x = el.tile.x ∧ r.y = el.tile.y)) ∧
  (∀ (id : Nat) (reply : Reply) (s : State) (q : Part) (r : Request), s.requestOf id = some (q, r) →
    (q.form = .running → ∀ data tag, reply = .ok data tag → ∃ u, exec (.deadlineReplyArrival id reply) s = .next u ∧ u.mem = s.mem ∧
      (r.write = false → (u.tile r.tile).pend = (s.tile r.tile).pend ++
        [⟨q.cyc, .delivery r.off (BitVec.ofNat 64 (leNat data)) (1 + r.ch.val) (some (r.ch, r.word)) false⟩]) ∧
      (r.write = true → (u.tile r.tile).chans[r.ch] = ((s.tile r.tile).chans[r.ch]).finish r.word)) ∧
    (q.form ≠ .running → s.part q.pid = some q → q.nheld < 32768 → Mem.wf s.mem = true → ∀ data tag, reply = .ok data tag →
      ∃ u q', exec (.deadlineReplyArrival id reply) s = .next u ∧ u.tiles = s.tiles ∧ u.part q.pid = some q' ∧ q'.nheld = q.nheld + 1 ∧
        (∀ x ∈ q'.requests, x.id ≠ id) ∧
        ∃ h, u.heldRecs q' = s.heldRecs q ++ [h] ∧ h.kind = (if r.write then 2 else 1) ∧ h.data = BitVec.ofNat 64 (leNat data))) ∧
  (∀ (pid id : Nat) (s : State) (q : Part), s.part pid = some q → q.form = .running → q.holds (keyTile id) = true →
    (s.tile (keyTile id)).binding = none → ∀ off v, (s.tile (keyTile id)).pend = [⟨q.cyc, .delivery off v 0 none false⟩] →
      s.wroteAt (keyTile id) off 8 = false → off + 8 ≤ 0x8000 → off % 8 = 0 →
      ∃ u, exec (.deferredDeliveryWrite pid id) s = .next u ∧ (u.tile (keyTile id)).pend = [] ∧
        u.mem = Mem.write s.mem (tileAddr (keyTile id) off) (leBytes 8 v.toNat)) ∧
  ∀ (t : Coord) (key : RedKey) (s : State) (q : Part) (r : RedWait) (w : RedWord), s.part q.pid = some q → s.partOf t = some q →
    (q.redWaits.find? fun x => x.key == key && x.tile == t) = some r →
    let due (v : DWord) : Pend := ⟨q.cyc + 3, .store r.dstOff (leBytes 8 v.toNat) false true ⟨5, 0, 0, r.ch.val, t.x, t.y, some r.stream⟩⟩
    (∀ ws, key.get = false → t = ⟨q.x0 + key.gx, q.y0 + key.gy⟩ → (q.redWords.filter fun x => x.key == key && x.due == q.cyc) = ws →
      ws ≠ [] → (ws.map RedWord.count).sum = key.gw * key.gh → ∃ u, exec (.reductionCombinedArrival q.pid key) s = .next u ∧ u.mem = s.mem ∧
        (u.tile t).pend = (s.tile t).pend ++ [due (redFold key.op key.lane (ws.map RedWord.data))]) ∧
    (key.get = true → (q.redWords.filter fun x => x.key == key && x.tile == t && x.due == q.cyc) = [w] → w.count = 1 →
      ∃ u, exec (.ggetWordArrival t key) s = .next u ∧ u.mem = s.mem ∧
        (u.tile t).pend = (s.tile t).pend ++ [due (redFold key.op key.lane [w.data])])

/-- The memory of a partition's own pseudo-channels, at the cycle its timetable gives a command: ACT opens the row, PRE closes
the bank, RD takes the burst of its channel's next element, with its data at t + 96, and WR arms the eight staged words of the
channel's next burst for t + 35; a RD or WR that finds none slips with reason BANK; a refresh changes nothing a program can see;
and read data enters the mesh at its port, or raises ECC_HBM and counts in PCUNC (R209, R210, R211, R220, R248). That a refresh changes
nothing is log entry 73; that RD takes its data in its own cycle, and WR the next burst in channel order, is log entry 74. -/
def Obligations.BankEvents : Prop :=
  ∀ (pid entry : Nat) (s : State) (q : Part) (e : BankEntry), s.part pid = some q → pid = q.pid →
    let slip : FRec :=
      { code := 0x10, reason := 0x0E, who := 8, kind := 1, x := (q.bankTile e).x, y := (q.bankTile e).y, cyc := q.cyc, pc := 0, word := 0,
        info := entry % 2 ^ 64, chan := e.ch }
    let mine (w : StageWord) : Bool :=
      w.pc == e.pc && w.tile == q.bankTile e && w.ch.val == e.ch && w.wr.isNone && some w.burst == q.nextBurst (q.bankTile e) e.ch &&
        decide (w.at' < q.cyc) && s.burstIs e w.addr
    (q.bankNow entry 0 = some e → exec (.bankAct pid entry) s =
      .next (s.modPc e.pc fun p => { p with rows := assocSet p.rows e.bank e.row })) ∧
    (q.bankNow entry 3 = some e → ∃ u, exec (.bankPre pid entry) s = .next u ∧ (u.pc e.pc).row e.bank = none ∧ u.mem = s.mem) ∧
    (q.bankNow entry 1 = some e → (s.tile (q.bankTile e)).lost = false →
      let c := (s.tile (q.bankTile e)).chans[(Fin.ofNat 4 e.ch : Fin 4)]
      (c.run = none → exec (.bankRd pid entry) s = .next (s.modPart pid fun p => p.take slip)) ∧
      ∀ cmd, c.run = some cmd →
        let per := cmd.shape.w / 8
        let hb := homeOffset (cmd.srcAddr (cmd.burst / per) (cmd.burst % per * 8))
        (¬(cmd.path = .pcSrc ∧ cmd.start.getD 0 ≤ q.cyc ∧ cmd.burst < cmd.elements * per ∧ s.burstIs e hb = true) →
          exec (.bankRd pid entry) s = .next (s.modPart pid fun p => p.take slip)) ∧
        (cmd.path = .pcSrc → cmd.start.getD 0 ≤ q.cyc → cmd.burst < cmd.elements * per → s.burstIs e hb = true →
        ∃ u q' rd, exec (.bankRd pid entry) s = .next u ∧ u.mem = s.mem ∧ u.part pid = some q' ∧ q'.reads = q.reads ++ [rd] ∧
          rd.pc = e.pc ∧ rd.addr = hb ∧ rd.at' = q.cyc + 96 ∧ rd.data = Mem.read s.mem (hbmAddr hb) 64)) ∧
    (q.bankNow entry 2 = some e → (s.tile (q.bankTile e)).lost = false →
      ((q.staging.filter mine).length = 8 → exec (.bankWr pid entry) s =
        .next (s.modPart pid fun p => { p with staging := p.staging.map fun (w : StageWord) => if mine w then { w with wr := some (q.cyc + 35) } else w })) ∧
      ((q.staging.filter mine).length ≠ 8 →
        exec (.bankWr pid entry) s = .next (s.modPart pid fun p => p.take slip))) ∧
    (∀ pc bank, exec (.bankRefresh pc bank) s = .next s) ∧
    ∀ id r, (q.reads.find? fun x => x.id == id) = some r → r.at' = q.cyc →
      (s.hbmDamage.contains (hbmAddr r.addr) = false → ∃ u q', exec (.hbmReadData pid id) s = .next u ∧ u.part pid = some q' ∧
        u.mem = s.mem ∧ (∀ x ∈ q'.reads, x.id ≠ id) ∧
        q'.flits.length = q.flits.length + (if r.tileOffs = [] then 0 else 8)) ∧
      (s.hbmDamage.contains (hbmAddr r.addr) = true → ∃ u q' f, exec (.hbmReadData pid id) s = .next u ∧ u.part pid = some q' ∧
        q'.freezing = true ∧ q'.faults = q.faults ++ [f] ∧ f.code = 0x32 ∧ f.reason = 0x29 ∧ f.info = hbmAddr r.addr % 2 ^ 64 ∧
        q'.flits = q.flits ∧ (u.pc r.pc).unc = min ((s.pc r.pc).unc + 1) (2 ^ 32 - 1))

/-- What falls due, and the accesses from outside a partition. The end of a cycle applies what is due in it and keeps the rest
(R28, R203): in any partition a c-register has the last of the writes due to it, or stays; a syswr of fl goes before the flags of
the same cycle (R23); a word that is cleared and set in one cycle is full (R203); a store alone on its words writes its bytes, and
two stores that meet on a word leave it as it was, and each gives one record of COLLISION with reason WRITE (R225, R226); a loose access to a tile or to HBM that no running partition owns is performed and answered, one that the windows
do not admit is refused, and one for a pseudo-channel of a running partition is held (R202, R212), as is, by log entry 97, one for a
pseudo-channel whose owner is launching; and a hub goes on with its
answer (R232), or with the message or the request that it waits for (R281, R323). -/
def Obligations.EffectsAndLooseAccesses : Prop :=
  (∀ (pid : Nat) (s : State) (q : Part), s.part pid = some q → pid = q.pid → q.form = .running → q.reissue = none → q.reoffer = [] → 
    (∀ t ∈ q.members, ∀ e ∈ (s.tile t).pend, q.cyc < e.due) → (∀ w ∈ q.staging, w.wr = none) → 
    ∃ u, exec (.pendingEffectDue pid) s = .next u ∧ u.mem = s.mem ∧ u.hubs = s.hubs ∧
      ∀ t ∈ q.members, (u.tile t).pend = (s.tile t).pend ∧ ∀ k j, (u.tile t).slot k j = (s.tile t).slot k j) ∧
  (∀ (pid : Nat) (s : State) (q : Part) (k : Side) (j : Fin 4) (r : RegNo) (v : CReg), s.part pid = some q → pid = q.pid →
    q.form = .running → q.lrec.w = 1 → q.lrec.h = 1 → q.reissue = none → q.reoffer = [] → q.staging = [] → r ≠ 0 →
    let t : Coord := ⟨q.x0, q.y0⟩
    (s.tile t).pend = [⟨q.cyc, .creg k j r v⟩] →
    ∃ u, exec (.pendingEffectDue pid) s = .next u ∧ u.mem = s.mem ∧ (u.tile t).pend = [] ∧ ((u.tile t).slot k j).c[r] = v) ∧
  (∀ (pid : Nat) (s : State) (q : Part), s.part pid = some q → pid = q.pid → q.form = .running → q.x0 + q.lrec.w ≤ 1024 →
    q.staging = [] → (∀ t ∈ q.members, ∀ e ∈ (s.tile t).pend, e.due = q.cyc → ∃ k j r v, e.eff = .creg k j r v) →
    ∃ u, exec (.pendingEffectDue pid) s = .next u ∧ u.mem = s.mem ∧ u.full = s.full ∧ u.qtags = s.qtags ∧ u.hubs = s.hubs ∧
      ∀ t ∈ q.members, (u.tile t).pend = (s.tile t).pend.filter (fun e => e.due != q.cyc) ∧ ∀ (k : Side) (j : Fin 4) (r : RegNo), r ≠ 0 →
        ((u.tile t).slot k j).c[r] = (((s.tile t).pend.filterMap fun (e : Pend) => match e.eff with
          | .creg k' j' r' v => if e.due = q.cyc ∧ k' = k ∧ j' = j ∧ r' = r then some v else none
          | _ => none).getLast?).getD ((s.tile t).slot k j).c[r]) ∧
  (∀ (pid : Nat) (s : State) (q : Part), s.part pid = some q → pid = q.pid → q.form = .running → q.lrec.w = 1 → q.lrec.h = 1 →
    q.staging = [] → q.undo = none → Mem.wf s.mem = true →
    let t : Coord := ⟨q.x0, q.y0⟩
    let at' (e : Eff) : Pend := ⟨q.cyc, e⟩
    let ends (l : List Eff) (goal : State → Prop) : Prop := (s.tile t).pend = l.map at' →
      ∃ u, exec (.pendingEffectDue pid) s = .next u ∧ (u.tile t).pend = [] ∧ goal u
    (∀ j f v, ends [.flOr j f, .flSet .execute j v] fun u => u.mem = s.mem ∧ ((u.tile t).slot .execute j).fl = v ||| f.setWidth 32) ∧
    (∀ k j off (data : List Byte) full w, w.word = none → data.length = 8 → off % 8 = 0 → off < 0x8000 →
      (ends [.store off data false full w] fun u => Mem.read u.mem (tileAddr t off) 8 = data ∧
        (∀ a, (a < tileAddr t off ∨ tileAddr t off + 8 ≤ a) → Mem.get u.mem a = Mem.get s.mem a) ∧
        u.isFull t off = (full || s.isFull t off) ∧ u.part pid = some q) ∧
      (ends [.store off data false true w, .fullClear k j off] fun u => u.isFull t off = true ∧ Mem.read u.mem (tileAddr t off) 8 = data) ∧
      (ends [.fullClear k j off] fun u => u.isFull t off = false ∧ u.mem = s.mem) ∧
      ∀ (data' : List Byte) full' w', data'.length = 8 →
        ends [.store off data false full w, .store off data' false full' w'] fun u =>
          (∀ a, Mem.get u.mem a = Mem.get s.mem a) ∧ u.full = s.full ∧ ∃ q' r r', u.part pid = some q' ∧ q'.freezing = true ∧
            q'.faults = q.faults ++ [r, r'] ∧ ∀ x ∈ [r, r'], x.code = 0x12 ∧ x.reason = 0x08 ∧ x.kind = 1 ∧ x.cyc = q.cyc)) ∧
  (∀ (a : Loose) (s : State) (t : Coord) (off : Nat), space1 a.addr.toNat = some (t, off) → s.partOf t = none →
    (s.looseAdmitted t off a = false → exec (.looseTileArrival a) s = .next (s.respond a.src .refused)) ∧
    (s.looseAdmitted t off a = true → a.op = .read → (s.tile t).eccAt off a.size = none → exec (.looseTileArrival a) s =
      .next (s.respond a.src (.ok (Mem.read s.mem (tileAddr t off) a.size) false))) ∧
    (s.looseAdmitted t off a = true → a.op = .write → Mem.wf s.mem = true → a.data.length = a.size →
      ∃ u, exec (.looseTileArrival a) s = .next u ∧ (∀ k v, a.data[k]? = some v → Mem.get u.mem (tileAddr t off + k) = v) ∧
        ∀ b, (b < tileAddr t off ∨ tileAddr t off + a.size ≤ b) → Mem.get u.mem b = Mem.get s.mem b)) ∧
  (∀ (a : Loose) (s : State) (hb : Nat), space2 a.addr.toNat = some hb →
    (s.pcBusy (pcOf hb) = true → opStores a.op = false →
      exec (.looseHbmAccess a) s = .next (s.modPc (pcOf hb) fun p => { p with held := p.held ++ [a] })) ∧
    (s.pcBusy (pcOf hb) = false → a.op = .read → (∀ b ∈ blocks hb a.size 64, s.hbmDamage.contains (hbmAddr b) = false) →
      exec (.looseHbmAccess a) s = .next (s.respond a.src (.ok (Mem.read s.mem (hbmAddr hb) a.size) false))) ∧
    (s.pcBusy (pcOf hb) = false → a.op = .write → Mem.wf s.mem = true → a.data.length = a.size →
      ∃ u, exec (.looseHbmAccess a) s = .next u ∧ (∀ k v, a.data[k]? = some v → Mem.get u.mem (hbmAddr hb + k) = v) ∧
        ∀ b, (b < hbmAddr hb ∨ hbmAddr hb + a.size ≤ b) → Mem.get u.mem b = Mem.get s.mem b)) ∧
  ∀ (die h : Nat) (ans : Reply) (d : RegNo) (s : State),
    (∀ i, (s.hub die h).wait = some (.answer i) → exec (.hubAccessAnswer die h ans) s =
      .next (s.modHub die h fun x => { x with wait := none, answer := some ans })) ∧
    (∀ m, (s.hub die h).wait = some .mailbox → (s.messages.find? fun (m : Message) => m.atHub die h && !m.popped) = some m →
      d ≠ 0 → ∃ u, exec (.tmsgRead die h d) s = .next u ∧ (u.hub die h).wait = none ∧ (u.hub die h).ctx.c[d] = ⟨m.header, false⟩ ∧
        (∀ n ∈ u.messages, n.ticket = m.ticket → n.popped = true) ∧ u.mem = s.mem) ∧
    ∀ r, (s.hub die h).wait = some .xmsg → ((s.dieX die).reqs.find? fun r => !r.popped) = some r → d ≠ 0 →
      ∃ u, exec (.xmsgRead die h d) s = .next u ∧ (u.hub die h).wait = none ∧ (u.hub die h).ctx.c[d] = ⟨xmsgQuad r, false⟩ ∧
        (∀ x ∈ (u.dieX die).reqs, x.num = r.num → x.popped = true) ∧ u.mem = s.mem

/-! ### Freezes, the Ringmaster and the edge -/

/-- Freezes and restarts. A completed freeze of cause 1 posts a message with the code and reason of its first record (R277,
R279); an unanswered one ends by halting its partition (R285); a restart begins 512 cycles after the last cause ended, on a
multiple of 4 (R305); a victim freezes at I with cause 3 and is written out when its write-out is complete (R295, R307); a
member of a troupe freezes at the agreed cycle with cause 3, and at the agreed instant its cause 4 ends and, with no other cause, it
restarts there, without rounding (R308, R365); and at the restart of a restored partition cause 3 ends, and with no other cause it
restarts (R294, R306). A restart offers the instructions that faulted again before anything else, and then ends the re-issue step; without records, held
words or open translations the partition then runs from the cycle at which it was frozen (R278). -/
def Obligations.FreezesAndRestarts : Prop :=
  ∀ (pid : Nat) (s : State) (q : Part), s.part pid = some q → pid = q.pid →
    let runs (r : State) : Prop := ∀ x, r.part pid = some x → x.faults = [] → x.reoffer = [] → x.held = [] → x.nheld = 0 →
      x.undo = none → x.xlate = [] → (∀ port, r.readBlock x port = none) →
      ∃ q', (r.beginRestart pid).part pid = some q' ∧ q'.form = .running ∧ q'.p = x.p ∧ q'.ss = x.ss ∧ q'.causes = x.causes ∧
        (r.beginRestart pid).mem = r.mem
    (∀ t, q.restartAt = some t → q.form = .held → q.causes = [] → s.rmt % 4 = 0 → t + 512 ≤ s.rmt → q.halted = none →
      ∃ u rest, exec (.restart pid) s = .next u ∧
        u.agenda = (q.reoffer.map fun r => Act.issue (.tile r.1 r.2.1 r.2.2)) ++ [.plan .resumed pid] ++ rest) ∧
    (∀ r, 1 ∈ q.causes → q.freezing = false → q.message = none → q.halted = none → q.form ≠ .running → q.records.head? = some r →
      ∃ u m, exec (.trapMessage pid) s = .next u ∧ m ∈ u.messages ∧ m.origin = false ∧ m.pid = pid ∧ m.code = r.code ∧
        m.reason = r.reason ∧ m.popped = false ∧ ∃ q', u.part pid = some q' ∧ q'.message = some m.ticket ∧ q'.form = q.form) ∧
    (∀ ticket m, (s.messages.find? fun (n : Message) => n.ticket == ticket && n.level == 3 && n.popped) = some m → m.pid = pid →
      m.origin = false → (∀ n ∈ s.ring.notices, n.ticket ≠ ticket) → m.posted + 2 ^ 35 ≤ s.rmt →
      ∃ u q', exec (.chainExhaustion ticket) s = .next u ∧ u.part pid = some q' ∧ q'.halted = some m.code ∧ q'.message = none ∧
        q'.form = .writtenOut ∧ ∀ n ∈ u.messages, n.ticket ≠ ticket) ∧
    (∀ t, q.restartAt = some t → q.form = .held → q.causes = [] → s.rmt % 4 = 0 → t + 512 ≤ s.rmt → q.halted = none →
      exec (.restart pid) s = .next (s.beginRestart pid) ∧ runs s) ∧
    (∀ i v c, s.ring.request = some (i, v, c) → pid ∈ v → i ≤ s.rmt → q.form = .running → q.causes = [] → q.halted = none → 
      ∃ u q', exec (.intermissionFreeze pid) s = .next u ∧ u.part pid = some q' ∧ q'.form = .held ∧ q'.freezing = false ∧
        q'.causes = [3] ∧ q'.ss = q.ss ∧ q'.p = q.p) ∧
    (∀ t, q.outAt = some t → q.form = .held → t ≤ s.rmt → ∃ u q', exec (.writeOutComplete pid) s = .next u ∧ u.part pid = some q' ∧
      q'.form = .writtenOut ∧ 3 ∈ q'.causes) ∧
    (q.form = .restoring → q.restartAt = some s.rmt → q.inTroupe = false → (∀ c ∈ q.causes, c = 3 ∨ c = 5) → 5 ∈ q.causes →
      ∃ u q', exec (.restoredPartitionStart pid) s = .next u ∧ u.part pid = some q' ∧ q'.form = .held ∧ q'.restartAt = none ∧
        3 ∉ q'.causes ∧ 5 ∈ q'.causes) ∧
    (q.form = .restoring → q.restartAt = some s.rmt → q.inTroupe = false → (∀ c ∈ q.causes, c = 3) →
      ∃ r x, exec (.restoredPartitionStart pid) s = .next (r.beginRestart pid) ∧ r.part pid = some x ∧ x.causes = [] ∧ x.p = q.p ∧
        x.ss = q.ss ∧ x.faults = q.faults ∧ x.reoffer = q.reoffer ∧ x.held = q.held ∧ x.nheld = q.nheld ∧ x.undo = q.undo ∧
        x.xlate = q.xlate ∧ r.tiles = s.tiles ∧ runs r) ∧
    (q.form = .running → q.agreedQ = some (q.cyc + 1) → ∃ u q', exec (.troupeIntermissionFreeze pid) s = .next u ∧
      u.part pid = some q' ∧ q'.freezing = true ∧ 3 ∈ q'.causes ∧ q'.agreedQ = none ∧ u.mem = s.mem ∧ u.tiles = s.tiles) ∧
    (∀ t, q.restartQ = some t → q.form = .held → t ≤ s.rmt → q.causes = [4] →
      ∃ r x, exec (.troupeRestart pid) s = .next (r.beginRestart pid) ∧ r.part pid = some x ∧ x.causes = [] ∧ x.p = q.p ∧
        x.ss = q.ss ∧ x.faults = q.faults ∧ x.reoffer = q.reoffer ∧ x.held = q.held ∧ x.nheld = q.nheld ∧ x.undo = q.undo ∧
        x.xlate = q.xlate ∧ r.tiles = s.tiles ∧ runs r) ∧
    ∀ t, q.restartQ = some t → q.form = .held → t ≤ s.rmt → (∀ c, c ∈ q.causes ↔ c = 4 ∨ c = 5) →
      ∃ u q', exec (.troupeRestart pid) s = .next u ∧ u.part pid = some q' ∧ q'.form = .held ∧ q'.restartQ = none ∧
        4 ∉ q'.causes ∧ 5 ∈ q'.causes ∧ u.tiles = s.tiles ∧
        (Mem.wf s.mem = true → ∀ a, (a < hbmAddr q.saveAt ∨ hbmAddr q.saveAt + 256 ≤ a) → Mem.get u.mem a = Mem.get s.mem a)

/-- FRZCTL and the power step. Command 1 freezes a running partition at the end of its cycle with cause 5 and command 2 ends
that cause; command 3 writes a frozen one out and command 4 retires it (R310); a power step is pending for the next Turnstile
(R171); and a thermal trip sets and ends the stretch of every clock (R172). -/
def Obligations.FreezeControlAndPower : Prop :=
  ∀ (pid : Nat) (s : State) (q : Part), s.part pid = some q → pid = q.pid →
    (q.form = .running → ∃ u q', exec (.frzctlFreeze pid) s = .next u ∧ u.part pid = some q' ∧ q'.freezing = true ∧
      5 ∈ q'.causes ∧ q'.form = .running ∧ u.mem = s.mem ∧ u.tiles = s.tiles) ∧
    (q.form = .held → q.causes = [5] → ∃ u q', exec (.frzctlEndRequest pid) s = .next u ∧ u.part pid = some q' ∧ q'.causes = [] ∧
      q'.restartAt = some s.rmt ∧ u.tiles = s.tiles ∧
      (Mem.wf s.mem = true → ∀ a, (a < hbmAddr q.saveAt ∨ hbmAddr q.saveAt + 256 ≤ a) → Mem.get u.mem a = Mem.get s.mem a)) ∧
    (q.form = .held → ∃ u q', exec (.frzctlIntermission pid) s = .next u ∧ u.part pid = some q' ∧ q'.form = .writtenOut ∧ 3 ∈ q'.causes) ∧
    (q.form = .held → ∃ u q', exec (.frzctlRetire pid) s = .next u ∧ u.part pid = some q' ∧ q'.form = .writtenOut ∧ q'.halted = some 0) ∧
    (∀ step, q.inTroupe = false → exec (.powerStepRequest pid step) s =
      .next ((s.modPart pid fun p => { p with pstep := some step.val, pstepAt := none }).refreshStep pid)) ∧
    (∀ f, ∃ u, exec (.thermalTrip f) s = .next u ∧ u.ring.stretch = some f ∧ u.parts = s.parts ∧ u.mem = s.mem) ∧
    ∃ u, exec .thermalTripEnd s = .next u ∧ u.ring.stretch = none ∧ u.parts = s.parts ∧ u.mem = s.mem

/-- The journal and the launch slots. A JTAIL in range is published and fixes the rings, and one out of range does nothing (R329), nor
does it fix the rings if it is the first (the model's choice, log entry 79), and so does one before bring-up has ended with BOOTSTAT 2,
which is inferred from R341; a scan takes every record published before it (R162); an image is staged at its time; at a launch slot a candidate whose
place is free is admitted, to start 8,704 cycles on or at the instant of its troupe record (R164, R166), a checkpoint as a
restored partition; at T0 its image is resident and it runs, the image being the one that was staged (log entry 62); and an idle launch
slot moves JHEAD to the first record not yet scanned (R329). -/
def Obligations.JournalAndLaunch : Prop :=
  ∀ (s : State),
    (∀ v : DWord, (s.ring.bootstat ≠ 2 ∨ v.toNat < s.ring.jtail.toNat ∨ s.ring.jhead.toNat + ringSize s.ring.jsize < v.toNat →
        exec (.jtailWrite v) s = .next s) ∧
      (s.ring.bootstat = 2 → s.ring.jtail.toNat ≤ v.toNat → v.toNat ≤ s.ring.jhead.toNat + ringSize s.ring.jsize →
        ∃ u, exec (.jtailWrite v) s = .next u ∧ u.ring.jtail = v ∧ u.ring.latched = true ∧ u.parts = s.parts ∧ u.tiles = s.tiles)) ∧
    (s.rmt % 4096 = 0 → s.ring.latched = true → s.ring.bootstat = 2 → s.ring.scanned ≤ s.ring.published →
      ∃ u, exec .journalScan s = .next u ∧ u.ring.scanned = s.ring.published ∧ u.parts = s.parts ∧ u.tiles = s.tiles) ∧
    (∀ seq e, s.ring.entry seq = some e → e.staged = false → e.stagedAt ≤ s.rmt →
      ∃ u e', exec (.imageStaged seq) s = .next u ∧ u.ring.entry seq = some e' ∧ e'.staged = true ∧ e'.lrec = e.lrec ∧ u.parts = s.parts) ∧
    (∀ seq e pid o, s.ring.entry seq = some e → s.rmt % 1024 = 0 → s.isCandidate e = true → s.freePid = some pid →
      s.placeAt [] ⟨e.lrec, none⟩ = some o →
      (e.lrec.kind = 1 → exec (.launch seq) s = .next (s.admitRecord e.lrec pid o) ∧ ∃ q ∈ (s.admitRecord e.lrec pid o).parts,
        q.pid = pid ∧ q.form = .launching ∧ q.x0 = o.1 ∧ q.y0 = o.2 ∧ q.t0 = if e.lrec.trp then e.lrec.tstart else s.rmt + 8704) ∧
      (e.lrec.kind = 2 → (∀ x ∈ s.ring.unusable, x.meets ⟨(s.savedOrigin e.lrec).1, (s.savedOrigin e.lrec).2, e.lrec.w, e.lrec.h⟩ = false) →
        exec (.restore seq) s = .next (s.admitRestore e.lrec pid (s.savedOrigin e.lrec)))) ∧
    (∀ pid q, s.part pid = some q → pid = q.pid → q.form = .launching → q.t0 = s.rmt →
      ∃ u q', exec (.partitionStart pid) s = .next u ∧ u.part pid = some q' ∧ q'.form = .running ∧ q'.p = none ∧ q'.tick = 0 ∧
        (q.lrec.w = 1 → q.lrec.h = 1 → (u.tile ⟨q.x0, q.y0⟩).slot .access 0 =
          let staged := ((s.ring.entry q.lrec.seq).map Entry.image).getD []
          Slot.launched (imageCap staged q.lrec.image 0) (imageCap staged q.lrec.image 1))) ∧
    (s.rmt % 1024 = 0 → s.ring.bootstat = 2 → s.parts = [] → s.ring.entries = [] → s.ring.swaps = [] →
      ∃ u, exec .launchSlot s = .next u ∧ u.ring.jhead = BitVec.ofNat 64 s.ring.scanned ∧ u.parts = [] ∧ u.mem = s.mem) ∧
    (s.rmt % 1024 ≠ 0 → exec .launchSlot s = .next s)

/-- The journal commands, at the launch slot at which their predecessors are done: a harvest counts the dirty logs from that
slot on and an unfinished command stands in STATE 2; SIGN_LOG adds its record where the log has room and no lost events wait to be
recorded before it (R334); an answer to a trap
disposes of its message or is refused with 0x06, a spare swap is queued or refused with 0x07, and an attestation writes the fields of R342 in their
order, and a signature over them, and retires where its report
is written, and stands in STATE 2 as long as the report waits at a running owner's pseudo-channel (R330, R335, R336). The model's own: 0x06 for a disposition that the message does not accept, and 0x07 (log entry 64); that SIGN_LOG
stands in STATE 2 until there is room (log entry 68); and the order without padding, and that an attestation needs no time beyond the writing (log entry 56). -/
def Obligations.JournalCommands : Prop :=
  ∀ (s : State) (seq : Nat) (r : Record),
    let stands (u : State) (state : Nat) : Prop := ∃ e, u.ring.entry r.seq = some e ∧ e.lrec.state = state
    (s.commandAt seq 3 = some r → ∃ u w, exec (.harvest seq) s = .next u ∧ u.ring.harvests = s.ring.harvests ++ [(r.seq, w)] ∧
      w.length = s.xlate.length ∧ stands u 2 ∧ u.parts = s.parts.map fun q => if q.lrec.seq = r.seq then { q with lrec := { r with state := 2 } } else q) ∧
    (s.commandAt seq 4 = some r →
      (s.ring.logRoom = false ∨ s.ring.lost ≠ 0 → ∃ u, exec (.signLog seq) s = .next u ∧ stands u 2 ∧ u.ring.logtail = s.ring.logtail) ∧
      (s.ring.logRoom = true → s.ring.lost = 0 → ∃ u, exec (.signLog seq) s = .next u ∧ stands u 3 ∧
        (∀ e, u.ring.entry r.seq = some e → e.lrec.t0 = s.ring.logtail.toNat) ∧
        ((s.ring.logtail + 1).toNat % 4096 ≠ 4095 → u.ring.sigs = s.ring.sigs + 1 ∧ u.ring.logtail = s.ring.logtail + 1))) ∧
    (s.commandAt seq 5 = some r → 
      (((s.messages.find? fun (m : Message) => m.ticket == r.field 56 2 && m.level == 3) = none) →
        exec (.trapAnswer seq) s = .next (s.refuse r.seq 0x06)) ∧
      ∀ m, (s.messages.find? fun (m : Message) => m.ticket == r.field 56 2 && m.level == 3) = some m →
        let t : Coord := ⟨r.field 60 2, r.field 62 2⟩
        (s.dispOk m (r.field 58 1) t = true → exec (.trapAnswer seq) s =
          .next ((s.dispose m (r.field 58 1) t).setRecord r.seq fun r => { r with state := 3 })) ∧
        (s.dispOk m (r.field 58 1) t = false → exec (.trapAnswer seq) s = .next (s.refuse r.seq 0x06))) ∧
    (s.commandAt seq 6 = some r →
      let t : Coord := ⟨r.field 56 2, r.field 58 2⟩
      let old := s.spareNext (dieOf t) (spareNum t)
      (old.getLsbD 8 = true → exec (.spareSwap seq) s = .next (s.refuse r.seq 0x07)) ∧
      (old.getLsbD 8 = false → ∃ u, exec (.spareSwap seq) s = .next u ∧
        if s.spok (dieOf t) (spareNum t) = true then t ∈ u.ring.swaps ∧ stands u 2 else u = s.refuse r.seq 0x07)) ∧
    (s.commandAt seq 7 = some r → ∃ u, exec (.attest seq) s = .next u ∧ stands u (if u.reportHeld r then 2 else 3) ∧
      u.tiles = s.tiles ∧
      let fields : List Byte := (r.body.drop 56).take 32 ++ (List.range 32).map Config.firmwareHashByte ++ leBytes 32 s.ring.featNeg.toNat ++
        leBytes 8 s.ring.devnum.toNat ++ (List.range 48).map Config.logKeyByte ++ leBytes 8 (s.ring.logtail.toNat - 1) ++ s.ring.prev
      let report : List Byte := fields ++ (List.range 16224).map (Config.signatureByte fields)
      ∀ a, space2 (r.field 88 8) = some a → r.field 88 8 / 2 ^ 60 = 2 →
        u = (s.hbmStore a report).setRecord r.seq (fun x => { x with state := if (s.hbmStore a report).reportHeld r then 2 else 3 }) ∧
        (s.pcBusy (pcOf a) = false → Mem.wf s.mem = true → Mem.read (s.hbmStore a report).mem (hbmAddr a) report.length = report))

/-- Bring-up, the health log and the spares. A host write of 1 to BOOTSTAT starts verification; its outcome is 0x80 for a refused
signature, 0x81 if a failed tile has no good spare of its strip row or two of them share one, else 2 with each failed tile's spare standing
in for it (R328, R341; that one spare serves one tile is log entry 94), and power-on leaves the reset state. A storage event is logged: held
before the rings are fixed, up to 2,048 records, then appended at LOGTAIL with its PREV, and counted as lost where there is no room (R333,
R334). An error that cannot be corrected damages its item, with nothing logged until a read finds it (R272; how such an event names its item
is the model's, log entry 28). The item stays damaged through a fault and through reads; a write of a register, or of any part of a word or
burst, mends exactly what it touches (log entries 27 and 28). A lost-events record clears its count (R334); a notice goes to the ring's next
slot where there is room and no running owner holds its write, and waits elsewhere (R212, R331); a signature completes, and waits likewise
(R335); a queued swap begins when its tile is free, and a remap that is done stands in its spare register (R336, R337). -/
def Obligations.BringUpLogAndSpares : Prop :=
  ∀ (s : State),
    (s.ring.bootstat = 0 → ∃ u, exec (.bootstatWrite 1) s = .next u ∧ u.ring.bootstat = 1 ∧ u.parts = s.parts ∧ u.mem = s.mem) ∧
    (s.ring.bootstat = 1 → (∃ u, exec (.firmwareVerifyDone .signatureRefused) s = .next u ∧ u.mem = s.mem ∧ u.ring.bootstat = 0x80) ∧
      ∀ failed : List Coord,
        let row (t : Coord) : Nat := dieOf t * 4096 + spareNum t
        ((∃ t ∈ failed, Config.spok (row t) = false ∨ ∃ t' ∈ failed, t' ≠ t ∧ row t' = row t) → ∃ u, exec (.firmwareVerifyDone (.tested failed)) s = .next u ∧ u.mem = s.mem ∧
          u.ring.bootstat = 0x81 ∧ u.parts = s.parts) ∧
        ((∀ t ∈ failed, Config.spok (row t) = true) → (failed.map row).Nodup →
          ∃ u, exec (.firmwareVerifyDone (.tested failed)) s = .next u ∧ u.mem = s.mem ∧ u.ring.bootstat = 2 ∧ u.parts = s.parts ∧
            ∀ t ∈ failed, spareMaps (u.spareReg (dieOf t) (spareNum t)) (spareCol t) = true)) ∧
    exec .powerOnReset s = .next { State.reset with inputs := s.inputs } ∧
    (∀ e : ErrEvent, s.ring.latched = false → s.ring.heldCount < 2048 →
      (∃ u l, exec (.logAppend e) s = .next u ∧ u.ring.logHeld = s.ring.logHeld ++
        (⟨s.rmt, e.kind, e.reason, e.die, e.loc, e.info⟩ : LogRec) :: l ∧ u.mem = s.mem) ∧
      (e.kind ≠ 2 → ∃ u l, exec (.correctedError e) s = .next u ∧ u.ring.logHeld = s.ring.logHeld ++
        (⟨s.rmt, 1, e.reason, e.die, e.loc, e.info⟩ : LogRec) :: l ∧ u.mem = s.mem)) ∧
    (∀ e : ErrEvent, (s.ring.healthOf e).lasting = true →
      let n := s.ring.logtail.toNat
      let off := 64 * (n % 2 ^ (s.ring.logsize.toNat % 32))
      let record := leBytes 8 n ++ leBytes 8 s.rmt ++ leBytes 1 e.kind ++ leBytes 1 e.reason ++ leBytes 1 e.die ++ leBytes 1 0 ++
        leBytes 4 e.loc ++ leBytes 8 e.info ++ (if n = 0 then sha256 logKey else s.ring.prev)
      (s.ring.latched = false → 2048 ≤ s.ring.heldCount → ∃ u, exec (.logAppend e) s = .next u ∧ u.ring.logHeld = s.ring.logHeld ∧
        u.ring.lost = s.ring.lost + 1 ∧ u.mem = s.mem) ∧
      (s.ring.latched = true → s.ring.lost = 0 → s.ring.logRoom = false → ∃ u, exec (.logAppend e) s = .next u ∧ u.ring.lost = 1 ∧
        u.ring.logtail = s.ring.logtail ∧ u.mem = s.mem) ∧
      (s.ring.latched = true → s.ring.lost = 0 → s.ring.logRoom = true → n % 4096 < 4094 → ∃ u, exec (.logAppend e) s = .next u ∧
        u.ring.logtail = s.ring.logtail + 1 ∧ u.ring.prev = sha256 record ∧ u.ring.lost = 0 ∧ u.parts = s.parts ∧
        (Mem.wf s.mem = true → spaceOf s.ring.logbase = 2 → ∀ a, space2 (s.ring.logbase.toNat + off) = some a → s.pcBusy (pcOf a) = false →
          Mem.read u.mem (hbmAddr a) record.length = record))) ∧
    (∀ e : ErrEvent, e.kind = 2 → ∃ u, exec (.correctedError e) s = .next u ∧ u.mem = s.mem ∧ u.ring = s.ring ∧ u.parts = s.parts ∧
      (e.hub = false → tileReason e.reason = true → ⟨e.reason, e.info⟩ ∈ (u.tile (locTile e.loc)).damage) ∧
      (e.hub = true ∨ e.reason = 0x27 → ⟨e.reason, e.info⟩ ∈ (u.hub e.die (e.loc % 64)).damage) ∧
      (e.hub = false → e.reason = 0x29 → u.hbmDamage.contains (e.info / 64 * 64) = true)) ∧
    (∀ (cx : Cx) (f : Flt), (raiseExact cx f s).tiles = s.tiles ∧ (raiseExact cx f s).hbmDamage = s.hbmDamage ∧
      ∀ die h, ((raiseExact cx f s).hub die h).damage = (s.hub die h).damage) ∧
    (∀ (pid : Nat) (t : Coord) (bad : List Nat) (k : Side) (j : Fin 4) (r : RegNo) (v : CReg),
      ((s.effectDue pid t bad (.creg k j r v)).tile t).damage =
        (s.tile t).damage.filter fun d => d.reason != 0x21 || d.key != regKey k j r.val) ∧
    (∀ (a : Loose) (t : Coord) (off : Nat), space1 a.addr.toNat = some (t, off) → s.partOf t = none → s.looseAdmitted t off a = true →
      (a.op = .read → ∃ u, exec (.looseTileArrival a) s = .next u ∧ u.tiles = s.tiles) ∧
      (a.op = .write → 0 < a.size → a.data.length = a.size → ∃ u, exec (.looseTileArrival a) s = .next u ∧
        ∀ d, d ∈ (u.tile t).damage ↔ d ∈ (s.tile t).damage ∧
          ¬((d.reason = 0x20 ∨ d.reason = 0x28) ∧ d.key % 8 = 0 ∧ off < d.key + 8 ∧ d.key < off + a.size))) ∧
    (∀ (a : Loose) (hb : Nat), space2 a.addr.toNat = some hb → s.pcBusy (pcOf hb) = false →
      (a.op = .read → ∃ u, exec (.looseHbmAccess a) s = .next u ∧ u.hbmDamage = s.hbmDamage) ∧
      (a.op = .write → 0 < a.size → a.data.length = a.size → ∃ u, exec (.looseHbmAccess a) s = .next u ∧
        ∀ x, x ∈ u.hbmDamage ↔ x ∈ s.hbmDamage ∧ ¬(x % 64 = 0 ∧ hbmAddr hb < x + 64 ∧ x < hbmAddr hb + a.size))) ∧
    (s.ring.latched = true → s.ring.lost ≠ 0 → s.ring.logRoom = true → s.ring.logtail.toNat % 4096 ≠ 4095 →
      ∃ u, exec .lostEventsRecord s = .next u ∧ u.ring.lost = 0 ∧ u.parts = s.parts) ∧
    (∀ n, s.messages = [] → s.ring.notices = [n] →
      let room := s.ring.ntail.toNat - s.ring.nhead.toNat < ringSize s.ring.nsize
      let busy := s.ringBusy s.ring.nbase (128 * (s.ring.ntail.toNat % ringSize s.ring.nsize)) 128
      (s.ring.latched = true → room → busy = false →
        ∃ u, exec .noticeFlush s = .next u ∧ u.ring.notices = [] ∧ u.ring.ntail = s.ring.ntail + 1 ∧ u.parts = s.parts) ∧
      ((s.ring.latched = false ∨ ¬room ∨ busy = true) →
        ∃ u, exec .noticeFlush s = .next u ∧ u.ring.notices = [n] ∧ u.ring.ntail = s.ring.ntail ∧ u.mem = s.mem)) ∧
    (∀ lseq g, (s.ring.signing.find? fun x => x.1 == lseq) = some g →
      (s.ringBusy s.ring.sigbase (16384 * g.2.1) 16224 = false →
        ∃ u, exec (.logSignatureDone lseq) s = .next u ∧ (∀ x ∈ u.ring.signing, x.1 ≠ lseq) ∧ u.parts = s.parts) ∧
      (s.ringBusy s.ring.sigbase (16384 * g.2.1) 16224 = true → exec (.logSignatureDone lseq) s = .next s)) ∧
    (∀ t : Coord, t ∈ s.ring.swaps → s.partOf t = none → (∀ m ∈ s.ring.remaps, m.tile ≠ some t) →
      ∃ u m, exec (.spareSwapExecute t) s = .next u ∧ u.ring.remaps = s.ring.remaps ++ [m] ∧ m.die = dieOf t ∧ m.num = spareNum t ∧
        m.tile = some t ∧ s.rmt < m.at') ∧
    ∀ die num m, (s.ring.remaps.find? fun x => x.die == die && x.num == num) = some m →
      ∃ u, exec (.remapDone die num) s = .next u ∧ assocGet u.ring.spare (die * 4096 + num) = some m.v ∧ m ∉ u.ring.remaps

/-- The device's registers that a program or the host writes: window registers at once, or at the next Turnstile of a running partition
(R200, R201), a write that still waits at a tile of a frozen partition going with it (log entry 82), and at once too, by log entry 106, at a
tile of a partition that is launching. Plain registers take their writable bits and leave every other field of the machine as it was:
LMAPBASE (R369), CLKSRC (R357), the edge and CXL windows (R358, R216), the descriptors (R316), OPT and NEXT of a group (R370), the counters
and the id of a port that is down (R369), the rings' bases and sizes and DEVNUM until they are fixed, NHEAD and LOGHEAD (R328), and HASID (R323); AGEN, whose write invalidates on every die the unpinned entries of its ASID with that generation and leaves every other
entry as it was (R316); XDONE and DLOG (R323), and a spare map, which begins a remap for which its hub waits (R337); a write of these that
the rules refuse does nothing here, its issuer being answered with ILLEGAL (log entry 4); a read of SLACKMIN clears it (R369). -/
def Obligations.DeviceRegisters : Prop :=
  ∀ (s : State),
    (∀ (t : Coord) (n : Fin 4) (v : DWord),
      (∀ q, s.partOf t = some q → q.form = .running → exec (.windowRegisterWrite t n v) s =
        .next (s.modTile t fun tl => { tl with winShadow := tl.winShadow.set n (some (winWrite v)) })) ∧
      ((∀ q, s.partOf t = some q → q.form ≠ .running) → exec (.windowRegisterWrite t n v) s =
        .next (s.modTile t fun tl => { tl with win := tl.win.set n (winWrite v), winShadow := tl.winShadow.set n none }))) ∧
    (∀ v : Quad,
      let w : DWord := v.setWidth 64
      let writes (r : DevReg) (u : State) : Prop := exec (.registerWrite r v) s = .next u
      let ring (r : DevReg) (h : Ring → Ring) : Prop := writes r { s with ring := h s.ring }
      let port (n off : Nat) (h : Port → Port) : Prop := writes (.port n off) (s.modPort n h)
      writes .lmapBase { s with edge := { s.edge with lmapBase := w } } ∧
      writes .clkSrc { s with edge := { s.edge with clkSrc := w &&& 0x7F#64 } } ∧
      (∀ n, writes (.ewin n) { s with edge := { s.edge with ewin := assocSet s.edge.ewin n (v &&& ~~~0xFFFFFFFFFFFFF0000#128) } }) ∧
      (∀ d h, writes (.hubReg d h 0x810) (s.modHub d h fun hb => { hb with hasid := v.setWidth 10 })) ∧
      (∀ n, ring (.cxlBase n) (fun g => { g with cxlBase := g.cxlBase.set n (w &&& ~~~0xFFFF#64) }) ∧
        ring (.cxlCtl n) (fun g => { g with cxlCtl := g.cxlCtl.set n (w &&& 0xFC00FFFFFFFFFFFF#64) })) ∧
      (∀ (a : Nat) (word : Fin 4),
        let kept : DWord := if word = 0 then ~~~0xFFF#64 else if word = 1 then ~~~7#64 else if word = 2 then 0x1FF#64 else 0
        ring (.adesc a word) fun g => { g with adesc := assocSet g.adesc (4 * a + word.val) (w &&& kept) }) ∧
      (∀ g, writes (.gctl g) (s.modGroup g fun x => { x with opt := if w.getLsbD 4 then 1 else 0, next := (w.setWidth 2 : BitVec 2).toFin })) ∧
      (∀ n, ((s.port n).up = true → ∀ off, off ≠ 0 → port n off id) ∧
        ((s.port n).up = false → port n 0x18 (fun p => { p with txctr := w }) ∧ port n 0x20 (fun p => { p with rxctr := w }) ∧
          port n 0x28 (fun p => { p with lid := w.setWidth 32 }))) ∧
      (s.ring.latched = false → ring (.hostPort 0x008) (fun g => { g with devnum := w &&& 0xFFFFF#64 }) ∧
        ring (.hostPort 0x010) (fun g => { g with jbase := w }) ∧ ring (.hostPort 0x030) (fun g => { g with nbase := w }) ∧
        ring (.hostPort 0x050) (fun g => { g with logbase := w }) ∧ ring (.hostPort 0x070) (fun g => { g with sigbase := w }) ∧
        ring (.hostPort 0x018) (fun g => { g with jsize := w &&& 0x1F#64 }) ∧ ring (.hostPort 0x038) (fun g => { g with nsize := w &&& 0x1F#64 }) ∧
        ring (.hostPort 0x058) (fun g => { g with logsize := w &&& 0x1F#64 })) ∧
      (s.ring.latched = true → ∀ off ∈ [0x008, 0x010, 0x018, 0x030, 0x038, 0x050, 0x058, 0x070], writes (.hostPort off) s) ∧
      (∀ off ∈ [0x028, 0x040, 0x060, 0x080, 0x098, 0x0C0, 0x0D8], writes (.hostPort off) s) ∧
      (s.ring.nhead.toNat ≤ w.toNat → w.toNat ≤ s.ring.ntail.toNat → ring (.hostPort 0x048) fun g => { g with nhead := w }) ∧
      (s.ring.loghead.toNat ≤ w.toNat → w.toNat ≤ s.ring.logtail.toNat → ring (.hostPort 0x068) fun g => { g with loghead := w })) ∧
    (∀ (a : Nat) (v : DWord), ∃ u, exec (.agenWrite a v) s = .next u ∧ u.ring.agen = assocSet s.ring.agen a (v.toNat % 2 ^ 32) ∧
      u.mem = s.mem ∧ u.parts = s.parts ∧ u.tiles = s.tiles ∧
      ∀ die, let goes (e : Quad) : Prop := teAsid e = a ∧ teP e = false ∧ teGen e = v.toNat % 2 ^ 16
        { u.dieX die with tlb := (s.dieX die).tlb } = s.dieX die ∧
        (u.dieX die).tlb.map Prod.fst = (s.dieX die).tlb.map Prod.fst ∧
        ∀ n : Nat, ∀ e, (s.dieX die).tlb[n]? = some e →
          ∃ e', (u.dieX die).tlb[n]? = some e' ∧ (goes e.2 → e'.2 = e.2 &&& ~~~(1#128 <<< 127)) ∧ (¬goes e.2 → e'.2 = e.2)) ∧
    (∀ (die hub : Nat) (v : Quad),
      ((∀ r ∈ (s.dieX die).reqs, r.num ≠ v.toNat % 2 ^ 16) → exec (.xdoneWrite die hub v) s = .next s) ∧
      (∀ r ∈ (s.dieX die).reqs, r.num = v.toNat % 2 ^ 16 → ∃ u, exec (.xdoneWrite die hub v) s = .next u ∧
        ∀ x ∈ (u.dieX die).reqs, x.num ≠ v.toNat % 2 ^ 16) ∧
      ((s.dieX die).dirty.length < v.toNat % 2 ^ 13 → exec (.dlogWrite die hub v) s = .next s) ∧
      (v.toNat % 2 ^ 13 ≤ (s.dieX die).dirty.length → (∀ r ∈ (s.dieX die).reqs, r.full = false) →
        ∃ u, exec (.dlogWrite die hub v) s = .next u ∧ (u.dieX die).dirty = (s.dieX die).dirty.drop (v.toNat % 2 ^ 13) ∧ u.mem = s.mem) ∧
      ∀ num, (s.spareIllegal die num v = true → exec (.spareMapWrite die hub num v) s = .next s) ∧
        (s.spareIllegal die num v = false → ∃ u m, exec (.spareMapWrite die hub num v) s = .next u ∧
          u.ring.remaps = s.ring.remaps ++ [m] ∧ m.die = die ∧ m.num = num ∧ (u.hub die hub).wait = some (.remap num))) ∧
    ∀ port, ∃ u, exec (.slackminRead port) s = .next u ∧ (u.port port).slackmin = 0x7FFFFFFF#32 ∧ u.parts = s.parts ∧ u.mem = s.mem

/-- The port groups. A personality switch quiesces an up group for 1,024 cycles and retrains one that is DOWN at once, one that a state forbids is
RES 3, and one of a group that a timetable or a binding uses RES 2; QUIESCE
ends in DRAIN for 240,000 cycles; the drain's end answers what is outstanding and advances GEN; retraining ends UP under the new
personality with RES 1, or DOWN with RES 4; a lost port takes its group DOWN, and the partitions' receive entries note it (R354, R355,
R362, R367, R368); a mode that both ends hold, whichever of them came to hold it last, waits for a group boundary (R371); a direction that is ordered to one lane goes there after
96 cycles (R364); and a port that has credit sends the best flit that is ready, counting it, and a group's fifth flit counts CTR (R354,
R363), and gives an edge entry its quad at its release cycle, or raises LINK_LATE (R361, R362). The model's own: that the loss of one
port takes the whole group down (log entry 49), the draw of the credit and of the CRC failures, four of which lose the port (log entry
92), and flit times in fifths of a cycle (log entry 55). -/
def Obligations.PortGroups : Prop :=
  ∀ (g port : Nat) (s : State),
    (∀ next opt, ((s.group g).state ≠ .up → (s.group g).state ≠ .down → ∃ u, exec (.personalitySwitchRequest g next opt) s = .next u ∧
        (u.group g).res = 3 ∧ (u.group g).state = (s.group g).state) ∧
      ((s.group g).state = .up → s.groupReserved g = false → ∃ u, exec (.personalitySwitchRequest g next opt) s = .next u ∧
        (u.group g).state = .quiesce ∧ (u.group g).until' = s.rmt + 1024 ∧ (u.group g).next = next ∧ u.mem = s.mem) ∧
      ((s.group g).state = .up ∨ (s.group g).state = .down → s.groupReserved g = true → ∃ u,
        exec (.personalitySwitchRequest g next opt) s = .next u ∧ (u.group g).res = 2 ∧ (u.group g).state = (s.group g).state) ∧
      ((s.group g).state = .down → s.groupReserved g = false → ∃ u, exec (.personalitySwitchRequest g next opt) s = .next u ∧
        (u.group g).state = .retrain ∧ (u.group g).until' = s.rmt + 4800000 ∧ (u.group g).next = next ∧ (u.group g).res = 0 ∧
        u.mem = s.mem ∧ u.parts = s.parts)) ∧
    ((s.group g).state = .quiesce → (s.group g).until' ≤ s.rmt → ∃ u, exec (.drainBegin g) s = .next u ∧
      (u.group g).state = .drain ∧ (u.group g).until' = s.rmt + 240000 ∧ u.parts = s.parts ∧ u.mem = s.mem) ∧
    ((s.group g).state = .drain → (s.group g).until' ≤ s.rmt + 1 ∨ s.groupBusy g = false → ∃ u, exec (.drainEnd g) s = .next u ∧
      (u.group g).state = .inval ∧ (u.group g).gen = (s.group g).gen + 1 ∧ (∀ p ∈ groupPorts g, (u.port p).up = false) ∧
      (∀ o ∈ u.edge.outbound, ∀ p, o.port = some p → p / 4 ≠ g) ∧ u.parts = s.parts ∧ u.mem = s.mem) ∧
    (∀ r, (s.group g).state = .retrain → (r.ok = false → ∃ u, exec (.retrainComplete g r) s = .next u ∧ (u.group g).state = .down ∧
        (u.group g).res = 4 ∧ u.edge.ports = s.edge.ports) ∧
      (r.ok = true → ∃ u, exec (.retrainComplete g r) s = .next u ∧ (u.group g).state = .up ∧ (u.group g).res = 1 ∧
        (u.group g).pers = (s.group g).next ∧ u.mem = s.mem)) ∧
    ((s.group (port / 4)).state = .up → ∃ u, exec (.portLoss port) s = .next u ∧ (u.group (port / 4)).state = .down ∧
      (u.port port).up = false ∧ u.parts = s.parts.map (fun q => q.noteDown (port / 4)) ∧ u.mem = s.mem) ∧
    (let p := s.port port
     (∀ mode, (p.imodeNew = mode → exec (.imodeChange port mode) s =
         .next (s.modPort port fun p => { p with peerMode := mode, agreed := some mode })) ∧
       (p.imodeNew ≠ mode → exec (.imodeChange port mode) s = .next (s.modPort port fun p => { p with peerMode := mode })) ∧
       ∀ v : DWord, v.toNat / 2 ^ 58 % 4 = mode.val → (p.write 0 v).imodeNew = mode ∧ (p.write 0 v).imode = p.imode ∧
         (p.write 0 v).agreed = if mode = p.peerMode then some mode else p.agreed) ∧
     (p.up = true →
       (p.rxwidth = 2 → exec (.widthReduction ⟨port, true⟩) s = .next (s.modPort port fun p => { p with rxreducing := true })) ∧
       (p.reducing = false → p.width = 2 → exec (.widthReduction ⟨port, false⟩) s = .next (s.modPort port fun p => { p with reducing := true })) ∧
       (p.reducing = true → p.boundary = true → p.width = 2 → s.flitDue port = true → ∃ u, exec (.widthReduction ⟨port, false⟩) s = .next u ∧
         (u.port port).width = 1 ∧ (u.port port).reducing = false ∧ (u.port port).nextAt = max p.nextAt (5 * s.rmt - 4) + 480 ∧
         (u.port port).rxwidth = p.rxwidth))) ∧
    (let p := (s.port port).turnTx
     let fails := crcRun 4 (s.freeCount + 1)
     s.flitDue port = true → (p.reducing && p.boundary && p.width == 2) = false →
     (p.imode ≠ 0 → p.txctr = BitVec.allOnes 64 → ∃ u, exec (.linkFlitSend port) s = .next u ∧ (u.group (port / 4)).state = .down) ∧
     ((p.imode = 0 ∨ p.txctr ≠ BitVec.allOnes 64) → ∃ u, exec (.linkFlitSend port) s = .next u ∧ u.mem = s.mem ∧
       (Config.linkCredit s.freeCount = true → fails < 4 → u.parts = s.parts ∧ (u.port port).sent = p.sent + 1 ∧
         (∀ f, bestFlit p.queue = some f → (u.port port).queue = p.queue.erase f) ∧
         (bestFlit p.queue = none → (u.port port).queue = p.queue) ∧ (u.port port).imode = p.imode ∧
         (u.port port).txctr = if p.imode ≠ 0 ∧ p.sent % 5 = 4 then p.txctr + 1 else p.txctr) ∧
       (Config.linkCredit s.freeCount = false → u.parts = s.parts ∧ (u.port port).sent = p.sent ∧ (u.port port).queue = p.queue) ∧
       (Config.linkCredit s.freeCount = true → fails = 4 → (u.group (port / 4)).state = .down ∧ (u.port port).up = false))) ∧
    ∀ pid q entry e (quad : SlotQuad), s.part pid = some q → pid = q.pid → q.tt.edge[entry]? = some e → q.form = .running →
      q.releaseAt e quad.ss quad.k = some (q.cyc : Int) →
      (∀ x, (q.edgeIn.find? fun x => x.entry == entry && x.ss == quad.ss && x.quad == quad.k) = some x →
        ∃ u q' a b, exec (.edgeQuadRelease pid entry quad) s = .next u ∧ u.part pid = some q' ∧ x ∉ q'.edgeIn ∧
          q'.flits = q.flits ++ [a, b] ∧ a.payload = x.v.setWidth 64 ∧ b.payload = (x.v >>> 64).setWidth 64 ∧
          a.dst = q.edgeTile e ∧ b.dst = q.edgeTile e ∧ u.mem = s.mem) ∧
      ((q.edgeIn.find? fun x => x.entry == entry && x.ss == quad.ss && x.quad == quad.k) = none →
        ∃ u q' f, exec (.edgeQuadRelease pid entry quad) s = .next u ∧ u.part pid = some q' ∧ q'.freezing = true ∧
          q'.faults = q.faults ++ [f] ∧ f.code = 0x13 ∧
          f.reason = if (s.port e.port).up = false ∨ ∃ d ∈ q.linkDown, d.1 = e.port ∧ quad.ss ≤ d.2 + 1 then 0x11 else 0x0A)

/-- A flit that reaches a port. On a port that is down it is lost (log entry 47); on one whose receiving mode is 0 it is counted and takes
its effect at once: an idle flit none, a slot flit its quads into the edge entry it matches or else the count of dropped flits, a request
its way to its home or PATH_DOWN, a response the end of its request, a Carousel flit its own, a Carousel release one at the end of the
cycle (log entry 48), a management message its own, MTYPE 8 and one of an unlisted MTYPE none (log entry 50), and a flit of an unlisted
KIND counts in DROP (R353, R354, R356, R361, R365, R376, R378). In mode 1 it joins its
group, whose verification ends 8 cycles after the fifth; in mode 2 slot data takes effect at once as well. A group whose tag agrees is
released in whole, and one whose tag fails is counted in IFAIL and discarded (R363); that what came after it is discarded too, and the
octet order of key and IV, are the model's (log entry 93), as is that a Carousel flit of a released group is tested by those that stood
deferred before the group (log entry 116). -/
def Obligations.ReceivedFlits : Prop :=
  ∀ (port : Nat) (s : State) (f : WireFlit),
    let pt := (s.port port).turnRx
    let took := s.modPort port fun _ => { pt with received := pt.received + 1, groupIn := [] }
    let open' := (s.port port).up = true ∧ pt.rxmode = 0
    let form (i : Instr) (kind : Prop) (u : State) : Prop :=
      (kind → (s.port port).up = false → exec i s = .next s) ∧ (kind → open' → exec i s = .next u)
    (∀ l : LinkFlit, wireFlit f = some l →
      let mgmt (m : Nat) : Prop := ∃ t arg rmt, l.body = .mgmt m t arg rmt
      form (.linkIdleFlit port f) (l.body = .idle) took ∧
      (∀ slot ss q0 v, l.body = .slot slot ss q0 v →
        form (.linkSlotDataFlit port f) (slot < 2 ^ 15) (took.slotData port l) ∧
        form (.carouselDataFlit port f) (2 ^ 15 ≤ slot) (took.carouselData port l) ∧
        (took.slotTarget port l.src slot ss = none → took.slotData port l = took.drop port) ∧
        (∀ q e i, took.slotTarget port l.src slot ss = some (q, e, i) → q.ss ≤ ss → q.form = .running → took.slotData port l =
          took.modPart q.pid fun p => { p with
            edgeIn := p.edgeIn ++ v.zipIdx.map fun (x : Quad × Nat) => ⟨i, ss, q0 + x.2, x.1, q.cycleNow s.rmt⟩ }) ∧
        (slot < 2 ^ 15 → (s.port port).up = true → pt.rxmode = 2 →
          exec (.linkSlotDataFlit port f) s =
            .next ((s.modPort port fun _ => (pt.accept f s.rmt).noteTaker (s.slotTaker port pt.received f)).slotData port l))) ∧
      (∀ tag addr op size data cmp, l.body = .request tag addr op size data cmp →
        form (.linkRequestFlit port f) True (took.request port l) ∧
        (l.dst ≠ s.device → took.request port l = took.respond (.device l.src port tag (s.group (port / 4)).gen.toNat) .pathDown)) ∧
      (∀ tag r, l.body = .response tag r → form (.linkResponseFlit port f) True (took.response port l) ∧
        ((s.edge.outbound.find? fun o => o.tag == tag && o.port == some port) = none → took.response port l = took.drop port)) ∧
      form (.carouselReleaseFlit port f) (mgmt 9) { took with agenda := s.agenda ++ [.release port l] } ∧
      form (.mgmtIntermissionProposal port f) (mgmt 1) (took.mgmt l) ∧ form (.mgmtAccept port f) (mgmt 2) (took.mgmt l) ∧
      form (.mgmtReject port f) (mgmt 3) (took.mgmt l) ∧ form (.mgmtResyncReport port f) (mgmt 4) (took.mgmt l) ∧
      form (.mgmtRestart port f) (mgmt 5) (took.mgmt l) ∧ form (.mgmtStepProposal port f) (mgmt 6) (took.mgmt l) ∧
      form (.mgmtResyncNotice port f) (mgmt 7) (took.mgmt l) ∧ form (.mgmtDrained port f) (∃ m, (m = 8 ∨ m = 0 ∨ 9 < m) ∧ mgmt m) (took.mgmt l) ∧
      ((∃ m, (m = 8 ∨ m = 0 ∨ 9 < m) ∧ mgmt m) → l.dst = s.device → took.mgmt l = took)) ∧
    (wireFlit f = none → ∀ i ∈ ([.linkIdleFlit port f, .linkSlotDataFlit port f, .carouselDataFlit port f, .linkRequestFlit port f,
        .linkResponseFlit port f, .carouselReleaseFlit port f, .mgmtIntermissionProposal port f, .mgmtAccept port f, .mgmtReject port f,
        .mgmtResyncReport port f, .mgmtRestart port f, .mgmtStepProposal port f, .mgmtResyncNotice port f, .mgmtDrained port f] : List Instr),
      form i True (took.drop port)) ∧
    ((s.port port).up = true → pt.rxmode = 1 → pt.groupIn.length = 4 → wireBody f = some .idle → ∃ u, exec (.linkIdleFlit port f) s = .next u ∧
      (u.port port).verifying = pt.verifying ++ [⟨s.rmt + 8, 1, pt.groupIn ++ [f]⟩] ∧ (u.port port).groupIn = [] ∧ u.parts = s.parts) ∧
    ∀ g rest, (s.port port).verifying = g :: rest → g.at' ≤ s.rmt →
      let p := s.port port
      let tag := groupTag p.rxkey p.lid p.rxctr g.flits
      let after := s.modPort port fun p => { p with verifying := rest, rxctr := p.rxctr + 1 }
      (tag = trailer (g.flits.getLastD []) → exec (.tagVerify port p.rxctr.toNat) s = .next
        ((if g.mode = 2 then g.flits.filter fun w => !isSlot w else g.flits).foldl
          (fun s w => s.applyVerified port (after.deferredAt port) w) after)) ∧
      (tag ≠ trailer (g.flits.getLastD []) → g.mode ≠ 2 → ∃ u, exec (.tagVerify port p.rxctr.toNat) s = .next u ∧
        (u.port port).verifying = [] ∧ (u.port port).groupIn = [] ∧ (u.port port).ifail = p.ifail + 1 ∧ (u.port port).rxctr = p.rxctr ∧
        u.parts = s.parts)
end

