-- ==== Sys2Proof/Laws/Memory.lean ====
section
/-! SUPPORT. Laws of memory (its canonical form, a read after a write, a write's frame) and of the association lists. -/

namespace Sys2Proof.Machine

/-- The tail of a canonical memory is canonical. -/
theorem Mem.wf_tail {c : Host.Cell} {m : List Host.Cell} (h : Mem.wf (c :: m) = true) : Mem.wf m = true := by
  cases m with
  | nil => rfl
  | cons d r => simp [Mem.wf] at h; exact h.2

/-- A cell in front of a canonical memory: its byte is not 0, and its address is below every address that follows. -/
theorem Mem.wf_cons {a : Nat} {v : Byte} {m : List Host.Cell} :
    Mem.wf ((a, v) :: m) = true ↔ v ≠ 0 ∧ (∀ c ∈ m, a < c.1) ∧ Mem.wf m = true := by
  induction m generalizing a v with
  | nil => simp [Mem.wf]
  | cons d r ih =>
    obtain ⟨b, w⟩ := d
    simp only [Mem.wf, Bool.and_eq_true, bne_iff_ne, decide_eq_true_eq, List.mem_cons, forall_eq_or_imp]
    constructor
    · rintro ⟨⟨hv, hab⟩, hr⟩
      exact ⟨hv, ⟨hab, fun c hc => Nat.lt_trans hab ((ih.1 hr).2.1 c hc)⟩, hr⟩
    · rintro ⟨hv, ⟨hab, _⟩, hr⟩
      exact ⟨⟨hv, hab⟩, hr⟩

/-- The addresses of a memory after a byte write are the old ones and the written one. -/
theorem Mem.mem_set {m : List Host.Cell} {a : Nat} {v : Byte} {c : Host.Cell} (h : c ∈ Mem.set m a v) :
    c.1 = a ∨ c ∈ m := by
  induction m with
  | nil => simp only [Mem.set] at h; split at h <;> simp_all
  | cons d r ih =>
    obtain ⟨b, u⟩ := d
    simp only [Mem.set] at h
    split at h
    · split at h
      · exact .inr h
      · rcases List.mem_cons.1 h with h | h
        · exact .inl (by simp [h])
        · exact .inr h
    · split at h
      · split at h
        · exact .inr (List.mem_cons_of_mem _ h)
        · rcases List.mem_cons.1 h with h | h
          · exact .inl (by simp [h])
          · exact .inr (List.mem_cons_of_mem _ h)
      · rcases List.mem_cons.1 h with h | h
        · exact .inr (by simp [h])
        · exact (ih h).imp id (List.mem_cons_of_mem _)

/-- A byte write keeps the canonical form. -/
theorem Mem.wf_set {m : List Host.Cell} (a : Nat) (v : Byte) (h : Mem.wf m = true) : Mem.wf (Mem.set m a v) = true := by
  induction m with
  | nil => simp only [Mem.set]; split <;> simp_all [Mem.wf]
  | cons d r ih =>
    obtain ⟨b, u⟩ := d
    obtain ⟨hu, hb, hr⟩ := Mem.wf_cons.1 h
    simp only [Mem.set]
    split
    · next hab =>
      split
      · exact h
      · next hv =>
        refine Mem.wf_cons.2 ⟨hv, fun c hc => ?_, h⟩
        rcases List.mem_cons.1 hc with rfl | hc
        · exact hab
        · exact Nat.lt_trans hab (hb c hc)
    · split
      · next hab =>
        split
        · exact hr
        · next hv => exact Mem.wf_cons.2 ⟨hv, fun c hc => hab ▸ hb c hc, hr⟩
      · next h1 h2 =>
        refine Mem.wf_cons.2 ⟨hu, fun c hc => ?_, ih hr⟩
        rcases Mem.mem_set hc with rfl | hc
        · omega
        · exact hb c hc

/-- An address below every listed one reads 0. -/
theorem Mem.get_below {m : List Host.Cell} {a : Nat} (h : ∀ c ∈ m, a < c.1) : Mem.get m a = 0 := by
  cases m with
  | nil => rfl
  | cons d r =>
    obtain ⟨b, u⟩ := d
    have : a < b := h _ (List.mem_cons_self ..)
    simp [Mem.get, Nat.ne_of_lt this, this]

/-- A read after a write of the same byte. -/
theorem Mem.get_set_self {m : List Host.Cell} (a : Nat) (v : Byte) (h : Mem.wf m = true) : Mem.get (Mem.set m a v) a = v := by
  induction m with
  | nil => simp only [Mem.set]; split <;> simp_all [Mem.get]
  | cons d r ih =>
    obtain ⟨b, u⟩ := d
    obtain ⟨_, hb, hr⟩ := Mem.wf_cons.1 h
    simp only [Mem.set]
    split
    · next hab =>
      split
      · next hv => simp [Mem.get, Nat.ne_of_lt hab, hab, hv]
      · simp [Mem.get]
    · split
      · next hab =>
        split
        · next hv => rw [hv]; exact Mem.get_below fun c hc => hab ▸ hb c hc
        · simp [Mem.get]
      · next h1 h2 => simp [Mem.get, h1, h2, ih hr]

/-- A read after a write of another byte. -/
theorem Mem.get_set_other {m : List Host.Cell} {a b : Nat} (v : Byte) (hab : b ≠ a) (h : Mem.wf m = true) :
    Mem.get (Mem.set m a v) b = Mem.get m b := by
  induction m with
  | nil => simp only [Mem.set]; split <;> simp [Mem.get, hab]
  | cons d r ih =>
    obtain ⟨c, u⟩ := d
    obtain ⟨_, hc, hr⟩ := Mem.wf_cons.1 h
    simp only [Mem.set]
    split
    · next hac =>
      split
      · rfl
      · simp only [Mem.get, if_neg hab]
        split
        · next hba => rw [if_neg (by omega), if_pos (by omega)]
        · rfl
    · split
      · next hac =>
        subst hac
        split
        · simp only [Mem.get, if_neg hab]
          split
          · next hba => exact Mem.get_below fun x hx => Nat.lt_trans hba (hc x hx)
          · rfl
        · simp [Mem.get, hab]
      · simp only [Mem.get, ih hr]

/-- Consecutive bytes written keep the canonical form. -/
theorem Mem.wf_write {m : List Host.Cell} (a : Nat) (l : List Byte) (h : Mem.wf m = true) : Mem.wf (Mem.write m a l) = true := by
  induction l generalizing m a with
  | nil => exact h
  | cons v r ih => exact ih _ (Mem.wf_set _ _ h)

/-- Bytes outside a write read as before. -/
theorem Mem.get_write_other {m : List Host.Cell} {a b : Nat} (l : List Byte) (hb : b < a ∨ a + l.length ≤ b)
    (h : Mem.wf m = true) : Mem.get (Mem.write m a l) b = Mem.get m b := by
  induction l generalizing m a with
  | nil => rfl
  | cons v r ih =>
    simp only [List.length_cons] at hb
    rw [Mem.write, ih (by omega) (Mem.wf_set _ _ h), Mem.get_set_other _ (by omega) h]

/-- Bytes inside a write read as written. -/
theorem Mem.get_write_self {m : List Host.Cell} {a i : Nat} (l : List Byte) (hi : i < l.length) (h : Mem.wf m = true) :
    Mem.get (Mem.write m a l) (a + i) = l[i] := by
  induction l generalizing m a i with
  | nil => simp at hi
  | cons v r ih =>
    cases i with
    | zero =>
      rw [Mem.write, Mem.get_write_other _ (by omega) (Mem.wf_set _ _ h)]
      simp [Mem.get_set_self _ _ h]
    | succ j =>
      have hj : j < r.length := by simpa using hi
      have := ih (m := Mem.set m a v) (a := a + 1) hj (Mem.wf_set _ _ h)
      rw [Mem.write, show a + (j + 1) = a + 1 + j by omega, this]
      simp

/-- The cells that a test keeps are canonical. -/
theorem Mem.wf_filter {m : List Host.Cell} (p : Host.Cell → Bool) (h : Mem.wf m = true) : Mem.wf (m.filter p) = true := by
  induction m with
  | nil => rfl
  | cons d r ih =>
    obtain ⟨b, u⟩ := d
    obtain ⟨hu, hb, hr⟩ := Mem.wf_cons.1 h
    simp only [List.filter_cons]
    split
    · exact Mem.wf_cons.2 ⟨hu, fun c hc => hb c (List.mem_filter.1 hc).1, ih hr⟩
    · exact ih hr

/-- A fold of byte writes keeps the canonical form. -/
theorem Mem.wf_foldl_set {α : Type} (l : List α) (f : α → Nat) (g : α → Byte) {m : List Host.Cell} (h : Mem.wf m = true) :
    Mem.wf (l.foldl (fun m x => Mem.set m (f x) (g x)) m) = true := by
  induction l generalizing m with
  | nil => exact h
  | cons x r ih => exact ih (Mem.wf_set _ _ h)

/-- What a key has after it is set. -/
theorem assocGet_assocSet_self {α : Type} (l : List (Nat × α)) (a : Nat) (v : α) : assocGet (assocSet l a v) a = some v := by
  induction l with
  | nil => simp [assocSet, assocGet]
  | cons d r ih =>
    obtain ⟨k, u⟩ := d
    simp only [assocSet]
    split
    · simp [assocGet]
    · split
      · simp [assocGet]
      · next h => simp [assocGet, Ne.symm h, ih]

/-- Setting one key leaves every other. -/
theorem assocGet_assocSet_other {α : Type} (l : List (Nat × α)) {a b : Nat} (v : α) (h : b ≠ a) :
    assocGet (assocSet l a v) b = assocGet l b := by
  induction l with
  | nil => simp [assocSet, assocGet, Ne.symm h]
  | cons d r ih =>
    obtain ⟨k, u⟩ := d
    simp only [assocSet]
    split
    · simp [assocGet, Ne.symm h]
    · split
      · next hk => subst hk; simp [assocGet, Ne.symm h]
      · simp [assocGet, ih]

/-- The key of a tile of the part names it. -/
theorem tileKey_inj {t u : Coord} (ht : t.x < 1024) (hu : u.x < 1024) (h : tileKey t = tileKey u) : t = u := by
  obtain ⟨x, y⟩ := t
  obtain ⟨x', y'⟩ := u
  simp only [tileKey] at *
  have : x = x' ∧ y = y' := by omega
  simp [this.1, this.2]

end Sys2Proof.Machine
end

