-- ==== Sys2Proof/Laws/State.lean ====
section
/-! SUPPORT. The state's updates, field by field, and what the shared reads find after them. -/

namespace Sys2Proof.Machine

/-! ### setTile -/

@[simp] theorem State.setTile_rmt (s : State) (t : Coord) (v : Tile) : (s.setTile t v).rmt = s.rmt := rfl
@[simp] theorem State.setTile_mem (s : State) (t : Coord) (v : Tile) : (s.setTile t v).mem = s.mem := rfl
@[simp] theorem State.setTile_full (s : State) (t : Coord) (v : Tile) : (s.setTile t v).full = s.full := rfl
@[simp] theorem State.setTile_qtags (s : State) (t : Coord) (v : Tile) : (s.setTile t v).qtags = s.qtags := rfl
@[simp] theorem State.setTile_hbmDamage (s : State) (t : Coord) (v : Tile) : (s.setTile t v).hbmDamage = s.hbmDamage := rfl
@[simp] theorem State.setTile_wrote (s : State) (t : Coord) (v : Tile) : (s.setTile t v).wrote = s.wrote := rfl
@[simp] theorem State.setTile_tiles (s : State) (t : Coord) (v : Tile) : (s.setTile t v).tiles = assocSet s.tiles (tileKey t) v := rfl
@[simp] theorem State.setTile_hubs (s : State) (t : Coord) (v : Tile) : (s.setTile t v).hubs = s.hubs := rfl
@[simp] theorem State.setTile_parts (s : State) (t : Coord) (v : Tile) : (s.setTile t v).parts = s.parts := rfl
@[simp] theorem State.setTile_pcs (s : State) (t : Coord) (v : Tile) : (s.setTile t v).pcs = s.pcs := rfl
@[simp] theorem State.setTile_xlate (s : State) (t : Coord) (v : Tile) : (s.setTile t v).xlate = s.xlate := rfl
@[simp] theorem State.setTile_messages (s : State) (t : Coord) (v : Tile) : (s.setTile t v).messages = s.messages := rfl
@[simp] theorem State.setTile_ticket (s : State) (t : Coord) (v : Tile) : (s.setTile t v).ticket = s.ticket := rfl
@[simp] theorem State.setTile_ring (s : State) (t : Coord) (v : Tile) : (s.setTile t v).ring = s.ring := rfl
@[simp] theorem State.setTile_edge (s : State) (t : Coord) (v : Tile) : (s.setTile t v).edge = s.edge := rfl
@[simp] theorem State.setTile_flights (s : State) (t : Coord) (v : Tile) : (s.setTile t v).flights = s.flights := rfl
@[simp] theorem State.setTile_homeWait (s : State) (t : Coord) (v : Tile) : (s.setTile t v).homeWait = s.homeWait := rfl
@[simp] theorem State.setTile_returning (s : State) (t : Coord) (v : Tile) : (s.setTile t v).returning = s.returning := rfl
@[simp] theorem State.setTile_inputs (s : State) (t : Coord) (v : Tile) : (s.setTile t v).inputs = s.inputs := rfl
@[simp] theorem State.setTile_agenda (s : State) (t : Coord) (v : Tile) : (s.setTile t v).agenda = s.agenda := rfl
@[simp] theorem State.setTile_cur (s : State) (t : Coord) (v : Tile) : (s.setTile t v).cur = s.cur := rfl
@[simp] theorem State.setTile_freeCount (s : State) (t : Coord) (v : Tile) : (s.setTile t v).freeCount = s.freeCount := rfl

/-! ### modTile -/

@[simp] theorem State.modTile_rmt (s : State) (t : Coord) (f : Tile → Tile) : (s.modTile t f).rmt = s.rmt := rfl
@[simp] theorem State.modTile_mem (s : State) (t : Coord) (f : Tile → Tile) : (s.modTile t f).mem = s.mem := rfl
@[simp] theorem State.modTile_full (s : State) (t : Coord) (f : Tile → Tile) : (s.modTile t f).full = s.full := rfl
@[simp] theorem State.modTile_qtags (s : State) (t : Coord) (f : Tile → Tile) : (s.modTile t f).qtags = s.qtags := rfl
@[simp] theorem State.modTile_hbmDamage (s : State) (t : Coord) (f : Tile → Tile) : (s.modTile t f).hbmDamage = s.hbmDamage := rfl
@[simp] theorem State.modTile_wrote (s : State) (t : Coord) (f : Tile → Tile) : (s.modTile t f).wrote = s.wrote := rfl
@[simp] theorem State.modTile_tiles (s : State) (t : Coord) (f : Tile → Tile) :
    (s.modTile t f).tiles = assocSet s.tiles (tileKey t) (f (s.tile t)) := rfl
@[simp] theorem State.modTile_hubs (s : State) (t : Coord) (f : Tile → Tile) : (s.modTile t f).hubs = s.hubs := rfl
@[simp] theorem State.modTile_parts (s : State) (t : Coord) (f : Tile → Tile) : (s.modTile t f).parts = s.parts := rfl
@[simp] theorem State.modTile_pcs (s : State) (t : Coord) (f : Tile → Tile) : (s.modTile t f).pcs = s.pcs := rfl
@[simp] theorem State.modTile_xlate (s : State) (t : Coord) (f : Tile → Tile) : (s.modTile t f).xlate = s.xlate := rfl
@[simp] theorem State.modTile_messages (s : State) (t : Coord) (f : Tile → Tile) : (s.modTile t f).messages = s.messages := rfl
@[simp] theorem State.modTile_ticket (s : State) (t : Coord) (f : Tile → Tile) : (s.modTile t f).ticket = s.ticket := rfl
@[simp] theorem State.modTile_ring (s : State) (t : Coord) (f : Tile → Tile) : (s.modTile t f).ring = s.ring := rfl
@[simp] theorem State.modTile_edge (s : State) (t : Coord) (f : Tile → Tile) : (s.modTile t f).edge = s.edge := rfl
@[simp] theorem State.modTile_flights (s : State) (t : Coord) (f : Tile → Tile) : (s.modTile t f).flights = s.flights := rfl
@[simp] theorem State.modTile_homeWait (s : State) (t : Coord) (f : Tile → Tile) : (s.modTile t f).homeWait = s.homeWait := rfl
@[simp] theorem State.modTile_returning (s : State) (t : Coord) (f : Tile → Tile) : (s.modTile t f).returning = s.returning := rfl
@[simp] theorem State.modTile_inputs (s : State) (t : Coord) (f : Tile → Tile) : (s.modTile t f).inputs = s.inputs := rfl
@[simp] theorem State.modTile_agenda (s : State) (t : Coord) (f : Tile → Tile) : (s.modTile t f).agenda = s.agenda := rfl
@[simp] theorem State.modTile_cur (s : State) (t : Coord) (f : Tile → Tile) : (s.modTile t f).cur = s.cur := rfl
@[simp] theorem State.modTile_freeCount (s : State) (t : Coord) (f : Tile → Tile) : (s.modTile t f).freeCount = s.freeCount := rfl

/-! ### setHub -/

@[simp] theorem State.setHub_rmt (s : State) (d h : Nat) (v : Hub) : (s.setHub d h v).rmt = s.rmt := rfl
@[simp] theorem State.setHub_mem (s : State) (d h : Nat) (v : Hub) : (s.setHub d h v).mem = s.mem := rfl
@[simp] theorem State.setHub_full (s : State) (d h : Nat) (v : Hub) : (s.setHub d h v).full = s.full := rfl
@[simp] theorem State.setHub_qtags (s : State) (d h : Nat) (v : Hub) : (s.setHub d h v).qtags = s.qtags := rfl
@[simp] theorem State.setHub_hbmDamage (s : State) (d h : Nat) (v : Hub) : (s.setHub d h v).hbmDamage = s.hbmDamage := rfl
@[simp] theorem State.setHub_wrote (s : State) (d h : Nat) (v : Hub) : (s.setHub d h v).wrote = s.wrote := rfl
@[simp] theorem State.setHub_tiles (s : State) (d h : Nat) (v : Hub) : (s.setHub d h v).tiles = s.tiles := rfl
@[simp] theorem State.setHub_hubs (s : State) (d h : Nat) (v : Hub) : (s.setHub d h v).hubs = assocSet s.hubs (hubKey d h) v := rfl
@[simp] theorem State.setHub_parts (s : State) (d h : Nat) (v : Hub) : (s.setHub d h v).parts = s.parts := rfl
@[simp] theorem State.setHub_pcs (s : State) (d h : Nat) (v : Hub) : (s.setHub d h v).pcs = s.pcs := rfl
@[simp] theorem State.setHub_xlate (s : State) (d h : Nat) (v : Hub) : (s.setHub d h v).xlate = s.xlate := rfl
@[simp] theorem State.setHub_messages (s : State) (d h : Nat) (v : Hub) : (s.setHub d h v).messages = s.messages := rfl
@[simp] theorem State.setHub_ticket (s : State) (d h : Nat) (v : Hub) : (s.setHub d h v).ticket = s.ticket := rfl
@[simp] theorem State.setHub_ring (s : State) (d h : Nat) (v : Hub) : (s.setHub d h v).ring = s.ring := rfl
@[simp] theorem State.setHub_edge (s : State) (d h : Nat) (v : Hub) : (s.setHub d h v).edge = s.edge := rfl
@[simp] theorem State.setHub_flights (s : State) (d h : Nat) (v : Hub) : (s.setHub d h v).flights = s.flights := rfl
@[simp] theorem State.setHub_homeWait (s : State) (d h : Nat) (v : Hub) : (s.setHub d h v).homeWait = s.homeWait := rfl
@[simp] theorem State.setHub_returning (s : State) (d h : Nat) (v : Hub) : (s.setHub d h v).returning = s.returning := rfl
@[simp] theorem State.setHub_inputs (s : State) (d h : Nat) (v : Hub) : (s.setHub d h v).inputs = s.inputs := rfl
@[simp] theorem State.setHub_agenda (s : State) (d h : Nat) (v : Hub) : (s.setHub d h v).agenda = s.agenda := rfl
@[simp] theorem State.setHub_cur (s : State) (d h : Nat) (v : Hub) : (s.setHub d h v).cur = s.cur := rfl
@[simp] theorem State.setHub_freeCount (s : State) (d h : Nat) (v : Hub) : (s.setHub d h v).freeCount = s.freeCount := rfl

/-! ### modHub -/

@[simp] theorem State.modHub_rmt (s : State) (d h : Nat) (f : Hub → Hub) : (s.modHub d h f).rmt = s.rmt := rfl
@[simp] theorem State.modHub_mem (s : State) (d h : Nat) (f : Hub → Hub) : (s.modHub d h f).mem = s.mem := rfl
@[simp] theorem State.modHub_full (s : State) (d h : Nat) (f : Hub → Hub) : (s.modHub d h f).full = s.full := rfl
@[simp] theorem State.modHub_qtags (s : State) (d h : Nat) (f : Hub → Hub) : (s.modHub d h f).qtags = s.qtags := rfl
@[simp] theorem State.modHub_hbmDamage (s : State) (d h : Nat) (f : Hub → Hub) : (s.modHub d h f).hbmDamage = s.hbmDamage := rfl
@[simp] theorem State.modHub_wrote (s : State) (d h : Nat) (f : Hub → Hub) : (s.modHub d h f).wrote = s.wrote := rfl
@[simp] theorem State.modHub_tiles (s : State) (d h : Nat) (f : Hub → Hub) : (s.modHub d h f).tiles = s.tiles := rfl
@[simp] theorem State.modHub_hubs (s : State) (d h : Nat) (f : Hub → Hub) :
    (s.modHub d h f).hubs = assocSet s.hubs (hubKey d h) (f (s.hub d h)) := rfl
@[simp] theorem State.modHub_parts (s : State) (d h : Nat) (f : Hub → Hub) : (s.modHub d h f).parts = s.parts := rfl
@[simp] theorem State.modHub_pcs (s : State) (d h : Nat) (f : Hub → Hub) : (s.modHub d h f).pcs = s.pcs := rfl
@[simp] theorem State.modHub_xlate (s : State) (d h : Nat) (f : Hub → Hub) : (s.modHub d h f).xlate = s.xlate := rfl
@[simp] theorem State.modHub_messages (s : State) (d h : Nat) (f : Hub → Hub) : (s.modHub d h f).messages = s.messages := rfl
@[simp] theorem State.modHub_ticket (s : State) (d h : Nat) (f : Hub → Hub) : (s.modHub d h f).ticket = s.ticket := rfl
@[simp] theorem State.modHub_ring (s : State) (d h : Nat) (f : Hub → Hub) : (s.modHub d h f).ring = s.ring := rfl
@[simp] theorem State.modHub_edge (s : State) (d h : Nat) (f : Hub → Hub) : (s.modHub d h f).edge = s.edge := rfl
@[simp] theorem State.modHub_flights (s : State) (d h : Nat) (f : Hub → Hub) : (s.modHub d h f).flights = s.flights := rfl
@[simp] theorem State.modHub_homeWait (s : State) (d h : Nat) (f : Hub → Hub) : (s.modHub d h f).homeWait = s.homeWait := rfl
@[simp] theorem State.modHub_returning (s : State) (d h : Nat) (f : Hub → Hub) : (s.modHub d h f).returning = s.returning := rfl
@[simp] theorem State.modHub_inputs (s : State) (d h : Nat) (f : Hub → Hub) : (s.modHub d h f).inputs = s.inputs := rfl
@[simp] theorem State.modHub_agenda (s : State) (d h : Nat) (f : Hub → Hub) : (s.modHub d h f).agenda = s.agenda := rfl
@[simp] theorem State.modHub_cur (s : State) (d h : Nat) (f : Hub → Hub) : (s.modHub d h f).cur = s.cur := rfl
@[simp] theorem State.modHub_freeCount (s : State) (d h : Nat) (f : Hub → Hub) : (s.modHub d h f).freeCount = s.freeCount := rfl

/-! ### modPart -/

@[simp] theorem State.modPart_rmt (s : State) (p : Nat) (f : Part → Part) : (s.modPart p f).rmt = s.rmt := rfl
@[simp] theorem State.modPart_mem (s : State) (p : Nat) (f : Part → Part) : (s.modPart p f).mem = s.mem := rfl
@[simp] theorem State.modPart_full (s : State) (p : Nat) (f : Part → Part) : (s.modPart p f).full = s.full := rfl
@[simp] theorem State.modPart_qtags (s : State) (p : Nat) (f : Part → Part) : (s.modPart p f).qtags = s.qtags := rfl
@[simp] theorem State.modPart_hbmDamage (s : State) (p : Nat) (f : Part → Part) : (s.modPart p f).hbmDamage = s.hbmDamage := rfl
@[simp] theorem State.modPart_wrote (s : State) (p : Nat) (f : Part → Part) : (s.modPart p f).wrote = s.wrote := rfl
@[simp] theorem State.modPart_tiles (s : State) (p : Nat) (f : Part → Part) : (s.modPart p f).tiles = s.tiles := rfl
@[simp] theorem State.modPart_hubs (s : State) (p : Nat) (f : Part → Part) : (s.modPart p f).hubs = s.hubs := rfl
@[simp] theorem State.modPart_parts (s : State) (p : Nat) (f : Part → Part) :
    (s.modPart p f).parts = s.parts.map fun q => if q.pid == p then f q else q := rfl
@[simp] theorem State.modPart_pcs (s : State) (p : Nat) (f : Part → Part) : (s.modPart p f).pcs = s.pcs := rfl
@[simp] theorem State.modPart_xlate (s : State) (p : Nat) (f : Part → Part) : (s.modPart p f).xlate = s.xlate := rfl
@[simp] theorem State.modPart_messages (s : State) (p : Nat) (f : Part → Part) : (s.modPart p f).messages = s.messages := rfl
@[simp] theorem State.modPart_ticket (s : State) (p : Nat) (f : Part → Part) : (s.modPart p f).ticket = s.ticket := rfl
@[simp] theorem State.modPart_ring (s : State) (p : Nat) (f : Part → Part) : (s.modPart p f).ring = s.ring := rfl
@[simp] theorem State.modPart_edge (s : State) (p : Nat) (f : Part → Part) : (s.modPart p f).edge = s.edge := rfl
@[simp] theorem State.modPart_flights (s : State) (p : Nat) (f : Part → Part) : (s.modPart p f).flights = s.flights := rfl
@[simp] theorem State.modPart_homeWait (s : State) (p : Nat) (f : Part → Part) : (s.modPart p f).homeWait = s.homeWait := rfl
@[simp] theorem State.modPart_returning (s : State) (p : Nat) (f : Part → Part) : (s.modPart p f).returning = s.returning := rfl
@[simp] theorem State.modPart_inputs (s : State) (p : Nat) (f : Part → Part) : (s.modPart p f).inputs = s.inputs := rfl
@[simp] theorem State.modPart_agenda (s : State) (p : Nat) (f : Part → Part) : (s.modPart p f).agenda = s.agenda := rfl
@[simp] theorem State.modPart_cur (s : State) (p : Nat) (f : Part → Part) : (s.modPart p f).cur = s.cur := rfl
@[simp] theorem State.modPart_freeCount (s : State) (p : Nat) (f : Part → Part) : (s.modPart p f).freeCount = s.freeCount := rfl

/-! ### modPc -/

@[simp] theorem State.modPc_rmt (s : State) (g : Nat) (f : PChan → PChan) : (s.modPc g f).rmt = s.rmt := rfl
@[simp] theorem State.modPc_mem (s : State) (g : Nat) (f : PChan → PChan) : (s.modPc g f).mem = s.mem := rfl
@[simp] theorem State.modPc_full (s : State) (g : Nat) (f : PChan → PChan) : (s.modPc g f).full = s.full := rfl
@[simp] theorem State.modPc_qtags (s : State) (g : Nat) (f : PChan → PChan) : (s.modPc g f).qtags = s.qtags := rfl
@[simp] theorem State.modPc_hbmDamage (s : State) (g : Nat) (f : PChan → PChan) : (s.modPc g f).hbmDamage = s.hbmDamage := rfl
@[simp] theorem State.modPc_wrote (s : State) (g : Nat) (f : PChan → PChan) : (s.modPc g f).wrote = s.wrote := rfl
@[simp] theorem State.modPc_tiles (s : State) (g : Nat) (f : PChan → PChan) : (s.modPc g f).tiles = s.tiles := rfl
@[simp] theorem State.modPc_hubs (s : State) (g : Nat) (f : PChan → PChan) : (s.modPc g f).hubs = s.hubs := rfl
@[simp] theorem State.modPc_parts (s : State) (g : Nat) (f : PChan → PChan) : (s.modPc g f).parts = s.parts := rfl
@[simp] theorem State.modPc_pcs (s : State) (g : Nat) (f : PChan → PChan) : (s.modPc g f).pcs = assocSet s.pcs g (f (s.pc g)) := rfl
@[simp] theorem State.modPc_xlate (s : State) (g : Nat) (f : PChan → PChan) : (s.modPc g f).xlate = s.xlate := rfl
@[simp] theorem State.modPc_messages (s : State) (g : Nat) (f : PChan → PChan) : (s.modPc g f).messages = s.messages := rfl
@[simp] theorem State.modPc_ticket (s : State) (g : Nat) (f : PChan → PChan) : (s.modPc g f).ticket = s.ticket := rfl
@[simp] theorem State.modPc_ring (s : State) (g : Nat) (f : PChan → PChan) : (s.modPc g f).ring = s.ring := rfl
@[simp] theorem State.modPc_edge (s : State) (g : Nat) (f : PChan → PChan) : (s.modPc g f).edge = s.edge := rfl
@[simp] theorem State.modPc_flights (s : State) (g : Nat) (f : PChan → PChan) : (s.modPc g f).flights = s.flights := rfl
@[simp] theorem State.modPc_homeWait (s : State) (g : Nat) (f : PChan → PChan) : (s.modPc g f).homeWait = s.homeWait := rfl
@[simp] theorem State.modPc_returning (s : State) (g : Nat) (f : PChan → PChan) : (s.modPc g f).returning = s.returning := rfl
@[simp] theorem State.modPc_inputs (s : State) (g : Nat) (f : PChan → PChan) : (s.modPc g f).inputs = s.inputs := rfl
@[simp] theorem State.modPc_agenda (s : State) (g : Nat) (f : PChan → PChan) : (s.modPc g f).agenda = s.agenda := rfl
@[simp] theorem State.modPc_cur (s : State) (g : Nat) (f : PChan → PChan) : (s.modPc g f).cur = s.cur := rfl
@[simp] theorem State.modPc_freeCount (s : State) (g : Nat) (f : PChan → PChan) : (s.modPc g f).freeCount = s.freeCount := rfl

/-! ### modDieX -/

@[simp] theorem State.modDieX_rmt (s : State) (d : Nat) (f : DieXlate → DieXlate) : (s.modDieX d f).rmt = s.rmt := rfl
@[simp] theorem State.modDieX_mem (s : State) (d : Nat) (f : DieXlate → DieXlate) : (s.modDieX d f).mem = s.mem := rfl
@[simp] theorem State.modDieX_full (s : State) (d : Nat) (f : DieXlate → DieXlate) : (s.modDieX d f).full = s.full := rfl
@[simp] theorem State.modDieX_qtags (s : State) (d : Nat) (f : DieXlate → DieXlate) : (s.modDieX d f).qtags = s.qtags := rfl
@[simp] theorem State.modDieX_hbmDamage (s : State) (d : Nat) (f : DieXlate → DieXlate) : (s.modDieX d f).hbmDamage = s.hbmDamage := rfl
@[simp] theorem State.modDieX_wrote (s : State) (d : Nat) (f : DieXlate → DieXlate) : (s.modDieX d f).wrote = s.wrote := rfl
@[simp] theorem State.modDieX_tiles (s : State) (d : Nat) (f : DieXlate → DieXlate) : (s.modDieX d f).tiles = s.tiles := rfl
@[simp] theorem State.modDieX_hubs (s : State) (d : Nat) (f : DieXlate → DieXlate) : (s.modDieX d f).hubs = s.hubs := rfl
@[simp] theorem State.modDieX_parts (s : State) (d : Nat) (f : DieXlate → DieXlate) : (s.modDieX d f).parts = s.parts := rfl
@[simp] theorem State.modDieX_pcs (s : State) (d : Nat) (f : DieXlate → DieXlate) : (s.modDieX d f).pcs = s.pcs := rfl
@[simp] theorem State.modDieX_xlate (s : State) (d : Nat) (f : DieXlate → DieXlate) :
    (s.modDieX d f).xlate = assocSet s.xlate d (f (s.dieX d)) := rfl
@[simp] theorem State.modDieX_messages (s : State) (d : Nat) (f : DieXlate → DieXlate) : (s.modDieX d f).messages = s.messages := rfl
@[simp] theorem State.modDieX_ticket (s : State) (d : Nat) (f : DieXlate → DieXlate) : (s.modDieX d f).ticket = s.ticket := rfl
@[simp] theorem State.modDieX_ring (s : State) (d : Nat) (f : DieXlate → DieXlate) : (s.modDieX d f).ring = s.ring := rfl
@[simp] theorem State.modDieX_edge (s : State) (d : Nat) (f : DieXlate → DieXlate) : (s.modDieX d f).edge = s.edge := rfl
@[simp] theorem State.modDieX_flights (s : State) (d : Nat) (f : DieXlate → DieXlate) : (s.modDieX d f).flights = s.flights := rfl
@[simp] theorem State.modDieX_homeWait (s : State) (d : Nat) (f : DieXlate → DieXlate) : (s.modDieX d f).homeWait = s.homeWait := rfl
@[simp] theorem State.modDieX_returning (s : State) (d : Nat) (f : DieXlate → DieXlate) : (s.modDieX d f).returning = s.returning := rfl
@[simp] theorem State.modDieX_inputs (s : State) (d : Nat) (f : DieXlate → DieXlate) : (s.modDieX d f).inputs = s.inputs := rfl
@[simp] theorem State.modDieX_agenda (s : State) (d : Nat) (f : DieXlate → DieXlate) : (s.modDieX d f).agenda = s.agenda := rfl
@[simp] theorem State.modDieX_cur (s : State) (d : Nat) (f : DieXlate → DieXlate) : (s.modDieX d f).cur = s.cur := rfl
@[simp] theorem State.modDieX_freeCount (s : State) (d : Nat) (f : DieXlate → DieXlate) : (s.modDieX d f).freeCount = s.freeCount := rfl

/-! ### modRing -/

@[simp] theorem State.modRing_rmt (s : State) (f : Ring → Ring) : (s.modRing f).rmt = s.rmt := rfl
@[simp] theorem State.modRing_mem (s : State) (f : Ring → Ring) : (s.modRing f).mem = s.mem := rfl
@[simp] theorem State.modRing_full (s : State) (f : Ring → Ring) : (s.modRing f).full = s.full := rfl
@[simp] theorem State.modRing_qtags (s : State) (f : Ring → Ring) : (s.modRing f).qtags = s.qtags := rfl
@[simp] theorem State.modRing_hbmDamage (s : State) (f : Ring → Ring) : (s.modRing f).hbmDamage = s.hbmDamage := rfl
@[simp] theorem State.modRing_wrote (s : State) (f : Ring → Ring) : (s.modRing f).wrote = s.wrote := rfl
@[simp] theorem State.modRing_tiles (s : State) (f : Ring → Ring) : (s.modRing f).tiles = s.tiles := rfl
@[simp] theorem State.modRing_hubs (s : State) (f : Ring → Ring) : (s.modRing f).hubs = s.hubs := rfl
@[simp] theorem State.modRing_parts (s : State) (f : Ring → Ring) : (s.modRing f).parts = s.parts := rfl
@[simp] theorem State.modRing_pcs (s : State) (f : Ring → Ring) : (s.modRing f).pcs = s.pcs := rfl
@[simp] theorem State.modRing_xlate (s : State) (f : Ring → Ring) : (s.modRing f).xlate = s.xlate := rfl
@[simp] theorem State.modRing_messages (s : State) (f : Ring → Ring) : (s.modRing f).messages = s.messages := rfl
@[simp] theorem State.modRing_ticket (s : State) (f : Ring → Ring) : (s.modRing f).ticket = s.ticket := rfl
@[simp] theorem State.modRing_ring (s : State) (f : Ring → Ring) : (s.modRing f).ring = f s.ring := rfl
@[simp] theorem State.modRing_edge (s : State) (f : Ring → Ring) : (s.modRing f).edge = s.edge := rfl
@[simp] theorem State.modRing_flights (s : State) (f : Ring → Ring) : (s.modRing f).flights = s.flights := rfl
@[simp] theorem State.modRing_homeWait (s : State) (f : Ring → Ring) : (s.modRing f).homeWait = s.homeWait := rfl
@[simp] theorem State.modRing_returning (s : State) (f : Ring → Ring) : (s.modRing f).returning = s.returning := rfl
@[simp] theorem State.modRing_inputs (s : State) (f : Ring → Ring) : (s.modRing f).inputs = s.inputs := rfl
@[simp] theorem State.modRing_agenda (s : State) (f : Ring → Ring) : (s.modRing f).agenda = s.agenda := rfl
@[simp] theorem State.modRing_cur (s : State) (f : Ring → Ring) : (s.modRing f).cur = s.cur := rfl
@[simp] theorem State.modRing_freeCount (s : State) (f : Ring → Ring) : (s.modRing f).freeCount = s.freeCount := rfl

/-! ### modPort -/

@[simp] theorem State.modPort_rmt (s : State) (p : Nat) (f : Port → Port) : (s.modPort p f).rmt = s.rmt := rfl
@[simp] theorem State.modPort_mem (s : State) (p : Nat) (f : Port → Port) : (s.modPort p f).mem = s.mem := rfl
@[simp] theorem State.modPort_full (s : State) (p : Nat) (f : Port → Port) : (s.modPort p f).full = s.full := rfl
@[simp] theorem State.modPort_qtags (s : State) (p : Nat) (f : Port → Port) : (s.modPort p f).qtags = s.qtags := rfl
@[simp] theorem State.modPort_hbmDamage (s : State) (p : Nat) (f : Port → Port) : (s.modPort p f).hbmDamage = s.hbmDamage := rfl
@[simp] theorem State.modPort_wrote (s : State) (p : Nat) (f : Port → Port) : (s.modPort p f).wrote = s.wrote := rfl
@[simp] theorem State.modPort_tiles (s : State) (p : Nat) (f : Port → Port) : (s.modPort p f).tiles = s.tiles := rfl
@[simp] theorem State.modPort_hubs (s : State) (p : Nat) (f : Port → Port) : (s.modPort p f).hubs = s.hubs := rfl
@[simp] theorem State.modPort_parts (s : State) (p : Nat) (f : Port → Port) : (s.modPort p f).parts = s.parts := rfl
@[simp] theorem State.modPort_pcs (s : State) (p : Nat) (f : Port → Port) : (s.modPort p f).pcs = s.pcs := rfl
@[simp] theorem State.modPort_xlate (s : State) (p : Nat) (f : Port → Port) : (s.modPort p f).xlate = s.xlate := rfl
@[simp] theorem State.modPort_messages (s : State) (p : Nat) (f : Port → Port) : (s.modPort p f).messages = s.messages := rfl
@[simp] theorem State.modPort_ticket (s : State) (p : Nat) (f : Port → Port) : (s.modPort p f).ticket = s.ticket := rfl
@[simp] theorem State.modPort_ring (s : State) (p : Nat) (f : Port → Port) : (s.modPort p f).ring = s.ring := rfl
@[simp] theorem State.modPort_edge (s : State) (p : Nat) (f : Port → Port) :
    (s.modPort p f).edge = { s.edge with ports := assocSet s.edge.ports p (f (s.port p)) } := rfl
@[simp] theorem State.modPort_flights (s : State) (p : Nat) (f : Port → Port) : (s.modPort p f).flights = s.flights := rfl
@[simp] theorem State.modPort_homeWait (s : State) (p : Nat) (f : Port → Port) : (s.modPort p f).homeWait = s.homeWait := rfl
@[simp] theorem State.modPort_returning (s : State) (p : Nat) (f : Port → Port) : (s.modPort p f).returning = s.returning := rfl
@[simp] theorem State.modPort_inputs (s : State) (p : Nat) (f : Port → Port) : (s.modPort p f).inputs = s.inputs := rfl
@[simp] theorem State.modPort_agenda (s : State) (p : Nat) (f : Port → Port) : (s.modPort p f).agenda = s.agenda := rfl
@[simp] theorem State.modPort_cur (s : State) (p : Nat) (f : Port → Port) : (s.modPort p f).cur = s.cur := rfl
@[simp] theorem State.modPort_freeCount (s : State) (p : Nat) (f : Port → Port) : (s.modPort p f).freeCount = s.freeCount := rfl

/-! ### modGroup -/

@[simp] theorem State.modGroup_rmt (s : State) (g : Nat) (f : Group → Group) : (s.modGroup g f).rmt = s.rmt := rfl
@[simp] theorem State.modGroup_mem (s : State) (g : Nat) (f : Group → Group) : (s.modGroup g f).mem = s.mem := rfl
@[simp] theorem State.modGroup_full (s : State) (g : Nat) (f : Group → Group) : (s.modGroup g f).full = s.full := rfl
@[simp] theorem State.modGroup_qtags (s : State) (g : Nat) (f : Group → Group) : (s.modGroup g f).qtags = s.qtags := rfl
@[simp] theorem State.modGroup_hbmDamage (s : State) (g : Nat) (f : Group → Group) : (s.modGroup g f).hbmDamage = s.hbmDamage := rfl
@[simp] theorem State.modGroup_wrote (s : State) (g : Nat) (f : Group → Group) : (s.modGroup g f).wrote = s.wrote := rfl
@[simp] theorem State.modGroup_tiles (s : State) (g : Nat) (f : Group → Group) : (s.modGroup g f).tiles = s.tiles := rfl
@[simp] theorem State.modGroup_hubs (s : State) (g : Nat) (f : Group → Group) : (s.modGroup g f).hubs = s.hubs := rfl
@[simp] theorem State.modGroup_parts (s : State) (g : Nat) (f : Group → Group) : (s.modGroup g f).parts = s.parts := rfl
@[simp] theorem State.modGroup_pcs (s : State) (g : Nat) (f : Group → Group) : (s.modGroup g f).pcs = s.pcs := rfl
@[simp] theorem State.modGroup_xlate (s : State) (g : Nat) (f : Group → Group) : (s.modGroup g f).xlate = s.xlate := rfl
@[simp] theorem State.modGroup_messages (s : State) (g : Nat) (f : Group → Group) : (s.modGroup g f).messages = s.messages := rfl
@[simp] theorem State.modGroup_ticket (s : State) (g : Nat) (f : Group → Group) : (s.modGroup g f).ticket = s.ticket := rfl
@[simp] theorem State.modGroup_ring (s : State) (g : Nat) (f : Group → Group) : (s.modGroup g f).ring = s.ring := rfl
@[simp] theorem State.modGroup_edge (s : State) (g : Nat) (f : Group → Group) :
    (s.modGroup g f).edge = { s.edge with groups := assocSet s.edge.groups g (f (s.group g)) } := rfl
@[simp] theorem State.modGroup_flights (s : State) (g : Nat) (f : Group → Group) : (s.modGroup g f).flights = s.flights := rfl
@[simp] theorem State.modGroup_homeWait (s : State) (g : Nat) (f : Group → Group) : (s.modGroup g f).homeWait = s.homeWait := rfl
@[simp] theorem State.modGroup_returning (s : State) (g : Nat) (f : Group → Group) : (s.modGroup g f).returning = s.returning := rfl
@[simp] theorem State.modGroup_inputs (s : State) (g : Nat) (f : Group → Group) : (s.modGroup g f).inputs = s.inputs := rfl
@[simp] theorem State.modGroup_agenda (s : State) (g : Nat) (f : Group → Group) : (s.modGroup g f).agenda = s.agenda := rfl
@[simp] theorem State.modGroup_cur (s : State) (g : Nat) (f : Group → Group) : (s.modGroup g f).cur = s.cur := rfl
@[simp] theorem State.modGroup_freeCount (s : State) (g : Nat) (f : Group → Group) : (s.modGroup g f).freeCount = s.freeCount := rfl

/-! ### Reads after updates -/

theorem State.tile_setTile_self (s : State) (t : Coord) (v : Tile) : (s.setTile t v).tile t = v := by
  simp [State.tile, assocGet_assocSet_self]

theorem State.tile_setTile_other (s : State) {t u : Coord} (v : Tile) (h : tileKey u ≠ tileKey t) :
    (s.setTile t v).tile u = s.tile u := by
  simp [State.tile, assocGet_assocSet_other _ _ h]

@[simp] theorem State.tile_modTile_self (s : State) (t : Coord) (f : Tile → Tile) : (s.modTile t f).tile t = f (s.tile t) :=
  State.tile_setTile_self ..

theorem State.tile_modTile_other (s : State) {t u : Coord} (f : Tile → Tile) (h : tileKey u ≠ tileKey t) :
    (s.modTile t f).tile u = s.tile u := State.tile_setTile_other _ _ h

/-- A property of every tile: of one that is changed, of the new value. -/
theorem State.tile_modTile (s : State) (t u : Coord) (f : Tile → Tile) :
    (s.modTile t f).tile u = if tileKey u = tileKey t then f (s.tile t) else s.tile u := by
  split
  · next h =>
    have : (s.modTile t f).tile u = (s.modTile t f).tile t := by simp only [State.tile, h]
    rw [this, State.tile_modTile_self]
  · next h => exact State.tile_modTile_other s f h

theorem State.hub_setHub_self (s : State) (d h : Nat) (v : Hub) : (s.setHub d h v).hub d h = v := by
  simp [State.hub, assocGet_assocSet_self]

@[simp] theorem State.hub_modHub_self (s : State) (d h : Nat) (f : Hub → Hub) : (s.modHub d h f).hub d h = f (s.hub d h) :=
  State.hub_setHub_self ..

theorem State.hub_modHub_other (s : State) {d h e k : Nat} (f : Hub → Hub) (hk : hubKey e k ≠ hubKey d h) :
    (s.modHub d h f).hub e k = s.hub e k := by
  show (assocGet (assocSet s.hubs _ _) _).getD _ = _
  rw [assocGet_assocSet_other _ _ hk]
  rfl

@[simp] theorem State.tile_modHub (s : State) (d h : Nat) (f : Hub → Hub) (u : Coord) :
    (s.modHub d h f).tile u = s.tile u := rfl
@[simp] theorem State.tile_modPart (s : State) (p : Nat) (f : Part → Part) (u : Coord) :
    (s.modPart p f).tile u = s.tile u := rfl
@[simp] theorem State.tile_modPc (s : State) (g : Nat) (f : PChan → PChan) (u : Coord) :
    (s.modPc g f).tile u = s.tile u := rfl
@[simp] theorem State.tile_modDieX (s : State) (d : Nat) (f : DieXlate → DieXlate) (u : Coord) :
    (s.modDieX d f).tile u = s.tile u := rfl
@[simp] theorem State.tile_modRing (s : State) (f : Ring → Ring) (u : Coord) :
    (s.modRing f).tile u = s.tile u := rfl
@[simp] theorem State.tile_modPort (s : State) (p : Nat) (f : Port → Port) (u : Coord) :
    (s.modPort p f).tile u = s.tile u := rfl
@[simp] theorem State.tile_modGroup (s : State) (g : Nat) (f : Group → Group) (u : Coord) :
    (s.modGroup g f).tile u = s.tile u := rfl
@[simp] theorem State.hub_modTile (s : State) (t : Coord) (f : Tile → Tile) (e k : Nat) :
    (s.modTile t f).hub e k = s.hub e k := rfl
@[simp] theorem State.hub_modPart (s : State) (p : Nat) (f : Part → Part) (e k : Nat) :
    (s.modPart p f).hub e k = s.hub e k := rfl
@[simp] theorem State.hub_modPc (s : State) (g : Nat) (f : PChan → PChan) (e k : Nat) :
    (s.modPc g f).hub e k = s.hub e k := rfl
@[simp] theorem State.hub_modDieX (s : State) (d : Nat) (f : DieXlate → DieXlate) (e k : Nat) :
    (s.modDieX d f).hub e k = s.hub e k := rfl
@[simp] theorem State.hub_modPort (s : State) (p : Nat) (f : Port → Port) (e k : Nat) :
    (s.modPort p f).hub e k = s.hub e k := rfl
@[simp] theorem State.hub_modGroup (s : State) (g : Nat) (f : Group → Group) (e k : Nat) :
    (s.modGroup g f).hub e k = s.hub e k := rfl
@[simp] theorem State.partOf_modTile (s : State) (t : Coord) (f : Tile → Tile) (u : Coord) :
    (s.modTile t f).partOf u = s.partOf u := rfl
@[simp] theorem State.partOf_modHub (s : State) (d h : Nat) (f : Hub → Hub) (u : Coord) :
    (s.modHub d h f).partOf u = s.partOf u := rfl
@[simp] theorem State.partOf_modPc (s : State) (g : Nat) (f : PChan → PChan) (u : Coord) :
    (s.modPc g f).partOf u = s.partOf u := rfl
@[simp] theorem State.partOf_modDieX (s : State) (d : Nat) (f : DieXlate → DieXlate) (u : Coord) :
    (s.modDieX d f).partOf u = s.partOf u := rfl
@[simp] theorem State.partOf_modRing (s : State) (f : Ring → Ring) (u : Coord) :
    (s.modRing f).partOf u = s.partOf u := rfl
@[simp] theorem State.partOf_modPort (s : State) (p : Nat) (f : Port → Port) (u : Coord) :
    (s.modPort p f).partOf u = s.partOf u := rfl
@[simp] theorem State.partOf_modGroup (s : State) (g : Nat) (f : Group → Group) (u : Coord) :
    (s.modGroup g f).partOf u = s.partOf u := rfl
@[simp] theorem State.part_modTile (s : State) (t : Coord) (f : Tile → Tile) (i : Nat) :
    (s.modTile t f).part i = s.part i := rfl
@[simp] theorem State.part_modHub (s : State) (d h : Nat) (f : Hub → Hub) (i : Nat) :
    (s.modHub d h f).part i = s.part i := rfl
@[simp] theorem State.part_modPc (s : State) (g : Nat) (f : PChan → PChan) (i : Nat) :
    (s.modPc g f).part i = s.part i := rfl
@[simp] theorem State.part_modDieX (s : State) (d : Nat) (f : DieXlate → DieXlate) (i : Nat) :
    (s.modDieX d f).part i = s.part i := rfl
@[simp] theorem State.part_modRing (s : State) (f : Ring → Ring) (i : Nat) :
    (s.modRing f).part i = s.part i := rfl
@[simp] theorem State.part_modPort (s : State) (p : Nat) (f : Port → Port) (i : Nat) :
    (s.modPort p f).part i = s.part i := rfl
@[simp] theorem State.part_modGroup (s : State) (g : Nat) (f : Group → Group) (i : Nat) :
    (s.modGroup g f).part i = s.part i := rfl

/-! ### Causes and records of a freeze -/

/-- A cause that comes into force changes nothing but the causes. -/
theorem Part.withCause_frame (q : Part) (c : Nat) : { q.withCause c with causes := q.causes, cause := q.cause } = q := by
  unfold Part.withCause; split <;> rfl
theorem Part.withCause_mem (q : Part) (c : Nat) : c ∈ (q.withCause c).causes := by
  unfold Part.withCause; split
  · next h => simpa using h
  · simp
/-- A record taken changes nothing but the records, the causes and the mark of the freeze. -/
theorem Part.take_frame (q : Part) (r : FRec) :
    { q.take r with faults := q.faults, freezing := q.freezing, causes := q.causes, cause := q.cause } = q := by
  unfold Part.take Part.withCause; split <;> rfl
@[simp] theorem Part.take_faults (q : Part) (r : FRec) : (q.take r).faults = q.faults ++ [r] := rfl
@[simp] theorem Part.take_freezing (q : Part) (r : FRec) : (q.take r).freezing = true := rfl
theorem Part.take_causes (q : Part) (r : FRec) : 1 ∈ (q.take r).causes := Part.withCause_mem q 1

/-! ### Tiles and slots -/

@[simp] theorem Tile.core_setCore_self (t : Tile) (k : Side) (c : Core) : (t.setCore k c).core k = c := by cases k <;> rfl
theorem Tile.core_setCore_other (t : Tile) {k l : Side} (c : Core) (h : l ≠ k) : (t.setCore k c).core l = t.core l := by
  cases k <;> cases l <;> simp_all [Tile.setCore, Tile.core]
@[simp] theorem Tile.slot_setSlot_self (t : Tile) (k : Side) (j : Fin 4) (v : Slot) : (t.setSlot k j v).slot k j = v := by
  simp [Tile.slot, Tile.setSlot, Core.setSlot]
@[simp] theorem Tile.push_pend (t : Tile) (d : Nat) (e : Eff) : (t.push d e).pend = t.pend ++ [⟨d, e⟩] := rfl
@[simp] theorem Tile.push_core (t : Tile) (d : Nat) (e : Eff) (k : Side) : (t.push d e).core k = t.core k := rfl
@[simp] theorem Tile.push_slot (t : Tile) (d : Nat) (e : Eff) (k : Side) (j : Fin 4) : (t.push d e).slot k j = t.slot k j := rfl
@[simp] theorem Tile.setCore_pend (t : Tile) (k : Side) (c : Core) : (t.setCore k c).pend = t.pend := by cases k <;> rfl
@[simp] theorem Tile.setSlot_pend (t : Tile) (k : Side) (j : Fin 4) (v : Slot) : (t.setSlot k j v).pend = t.pend := by
  simp [Tile.setSlot]

/-- A register write changes one register, and none for c0. -/
theorem Slot.write_c (sl : Slot) (r q : RegNo) (v : CReg) : (sl.write r v).c[q] = if q = r ∧ r ≠ 0 then v else sl.c[q] := by
  unfold Slot.write
  by_cases h0 : r = 0
  · simp [h0]
  · by_cases hq : q = r
    · subst hq; simp [h0]
    · have : (r : Nat) ≠ (q : Nat) := fun e => hq (Fin.ext e.symm)
      simp [h0, hq, this]

end Sys2Proof.Machine
end

