-- ==== Sys2Proof/Laws/Canonical.lean ====
section
/-! SUPPORT. What the operations on the state do to memory, one lemma for each. `<operation>_mem`: it changes no byte.
`<operation>_wf`: it writes memory, and a canonical memory stays canonical. An event's lemma speaks of the state it answers. -/

namespace Sys2Proof.Machine

theorem foldl_mem {α : Type} (f : State → α → State) (hf : ∀ s x, (f s x).mem = s.mem) (l : List α) (s : State) :
    (l.foldl f s).mem = s.mem := by
  induction l generalizing s with
  | nil => rfl
  | cons x r ih => simp [List.foldl, ih, hf]
theorem foldl_wf {α : Type} (f : State → α → State) (hf : ∀ s x, Mem.wf s.mem = true → Mem.wf (f s x).mem = true)
    (l : List α) (s : State) (hs : Mem.wf s.mem = true) : Mem.wf (l.foldl f s).mem = true := by
  induction l generalizing s with
  | nil => exact hs
  | cons x r ih => exact ih _ (hf s x hs)
theorem amoMem_wf {m : List Host.Cell} (a f wd x e : Nat) (h : Mem.wf m = true) : Mem.wf (amoMem m a f wd x e).1 =
    true := by
  simp [amoMem, Mem.wf_write, h]
theorem copy_wf {m : List Host.Cell} (a b n : Nat) (h : Mem.wf m = true) : Mem.wf (Mem.copy m a b n) = true := by
  unfold Mem.copy
  exact Mem.wf_foldl_set _ _ _ (Mem.wf_filter _ h)
theorem foldl_wfm {α : Type} (f : List Host.Cell → α → List Host.Cell) (hf : ∀ m x, Mem.wf m = true → Mem.wf (f m
    x) = true) (l : List α) (m : List Host.Cell) (hs : Mem.wf m = true) : Mem.wf (l.foldl f m) = true := by
  induction l generalizing m with
  | nil => exact hs
  | cons x r ih => exact ih _ (hf m x hs)
theorem foldl_acc_wf {α β : Type} (f : State × β → α → State × β) (hf : ∀ s x, Mem.wf s.1.mem = true → Mem.wf (f s
    x).1.mem = true) (l : List α) (s : State × β) (hs : Mem.wf s.1.mem = true) : Mem.wf (l.foldl f s).1.mem = true := by
  induction l generalizing s with
  | nil => exact hs
  | cons x r ih => exact ih _ (hf s x hs)
theorem foldl_acc_mem {α β : Type} (f : State × β → α → State × β) (hf : ∀ s x, (f s x).1.mem = s.1.mem) (l : List
    α) (s : State × β) : (l.foldl f s).1.mem = s.1.mem := by
  induction l generalizing s with
  | nil => rfl
  | cons x r ih => rw [List.foldl, ih, hf]
theorem nextOr_next (t s : State) : nextOr (.next t) s = t := rfl

@[simp] theorem State.first_mem (s : State) (l : List Act) : (State.first s l).mem = s.mem := by
  unfold State.first
  (try dsimp only) <;> (repeat' split) <;> try simp -implicitDefEqProofs [nextOr, foldl_mem, apply_ite State.mem]

@[simp] theorem State.setCtx_mem (s : State) (cx : Cx) (v : Slot) : (State.setCtx s cx v).mem = s.mem := by
  unfold State.setCtx
  (try dsimp only) <;> (repeat' split) <;> try simp -implicitDefEqProofs [nextOr, foldl_mem, apply_ite State.mem]

@[simp] theorem State.modCtx_mem (s : State) (cx : Cx) (f : Slot → Slot) : (State.modCtx s cx f).mem = s.mem := by
  unfold State.modCtx
  (try dsimp only) <;> (repeat' split) <;> try simp -implicitDefEqProofs [nextOr, foldl_mem, apply_ite State.mem]

@[simp] theorem State.due_mem (s : State) (cx : Cx) (c : Nat) (e : Eff) : (State.due s cx c e).mem = s.mem := by
  unfold State.due
  (try dsimp only) <;> (repeat' split) <;> try simp -implicitDefEqProofs [nextOr, foldl_mem, apply_ite State.mem]

@[simp] theorem State.result_mem (s : State) (cx : Cx) (d : RegNo) (lat : Nat) (v : CReg) : (State.result s cx d
    lat v).mem = s.mem := by
  unfold State.result
  (try dsimp only) <;> (repeat' split) <;> try simp -implicitDefEqProofs [nextOr, foldl_mem, apply_ite State.mem]

@[simp] theorem State.flags_mem (s : State) (cx : Cx) (lat : Nat) (f : FlagSet) : (State.flags s cx lat f).mem =
    s.mem := by
  unfold State.flags
  (try dsimp only) <;> (repeat' split) <;> try simp -implicitDefEqProofs [nextOr, foldl_mem, apply_ite State.mem]

@[simp] theorem State.post_mem (s : State) (m : Message) : (State.post s m).mem = s.mem := by
  unfold State.post
  (try dsimp only) <;> (repeat' split) <;> try simp -implicitDefEqProofs [nextOr, foldl_mem, apply_ite State.mem]

@[simp] theorem State.lift_mem (s : State) (p : Message → Bool) : (State.lift s p).mem = s.mem := by
  unfold State.lift
  (try dsimp only) <;> (repeat' split) <;> try simp -implicitDefEqProofs [nextOr, foldl_mem, apply_ite State.mem]

@[simp] theorem State.report_mem (s : State) (hub : Bool) (reason die loc info : Nat) : (State.report s hub reason die loc info).mem
    = s.mem := by
  unfold State.report
  (try dsimp only) <;> (repeat' split) <;> try simp -implicitDefEqProofs [nextOr, foldl_mem, apply_ite State.mem]

@[simp] theorem State.reportRecord_mem (s : State) (r : FRec) : (State.reportRecord s r).mem = s.mem := by
  unfold State.reportRecord
  (try dsimp only) <;> (repeat' split) <;> try simp -implicitDefEqProofs [nextOr, foldl_mem, apply_ite State.mem]

@[simp] theorem State.hubFault_mem (s : State) (die hub : Nat) (r : FRec) : (State.hubFault s die hub r).mem =
    s.mem := by
  unfold State.hubFault
  (try dsimp only) <;> (repeat' split) <;> try simp -implicitDefEqProofs [nextOr, foldl_mem, apply_ite State.mem]

@[simp] theorem raiseExact_mem (cx : Cx) (f : Flt) (s : State) : (raiseExact cx f s).mem = s.mem := by
  unfold raiseExact
  (try dsimp only) <;> (repeat' split) <;> try simp -implicitDefEqProofs [nextOr, foldl_mem, apply_ite State.mem]

@[simp] theorem raiseAfter_mem (cx : Cx) (word : Nat) (f : Flt) (s : State) : (raiseAfter cx word f s).mem = s.mem := by
  unfold raiseAfter
  (try dsimp only) <;> (repeat' split) <;> try simp -implicitDefEqProofs [nextOr, foldl_mem, apply_ite State.mem]

@[simp] theorem State.cycleFault_mem (s : State) (pid : Nat) (r : FRec) : (State.cycleFault s pid r).mem = s.mem := by
  unfold State.cycleFault
  (try dsimp only) <;> (repeat' split) <;> try simp -implicitDefEqProofs [nextOr, foldl_mem, apply_ite State.mem]

@[simp] theorem State.mendBuffer_mem (s : State) (cx : Cx) (nx : Next) : (State.mendBuffer s cx nx).mem = s.mem := by
  unfold State.mendBuffer
  (try dsimp only) <;> (repeat' split) <;> try simp -implicitDefEqProofs [nextOr, foldl_mem, apply_ite State.mem]

@[simp] theorem State.complete_mem (s : State) (cx : Cx) (m : List Host.Cell) (nx : Next) : (State.complete s cx m
    nx).mem = s.mem := by
  unfold State.complete
  (try dsimp only) <;> (repeat' split) <;> try simp -implicitDefEqProofs [nextOr, foldl_mem, apply_ite State.mem]

@[simp] theorem State.popLq_mem (s : State) (cx : Cx) (i : Instr) : (State.popLq s cx i).mem = s.mem := by
  unfold State.popLq
  (try dsimp only) <;> (repeat' split) <;> try simp -implicitDefEqProofs [nextOr, foldl_mem, apply_ite State.mem]

@[simp] theorem State.mendTile_mem (s : State) (t : Coord) (off n : Nat) : (State.mendTile s t off n).mem = s.mem := by
  unfold State.mendTile
  (try dsimp only) <;> (repeat' split) <;> try simp -implicitDefEqProofs [nextOr, foldl_mem, apply_ite State.mem]

@[simp] theorem State.storeTile_wf (s : State) (t : Coord) (off : Nat) (data : List Byte) (tag full : Bool) (hw :
    Mem.wf s.mem = true) : Mem.wf (State.storeTile s t off data tag full).mem = true := by
  unfold State.storeTile
  (try dsimp only) <;> (repeat' split) <;>
    try simp +contextual -implicitDefEqProofs (maxDischargeDepth := 20) [hw, nextOr,  Mem.wf_write, Mem.wf_set,
      Mem.wf_filter, Mem.wf_foldl_set, foldl_wf, apply_ite State.mem]

@[simp] theorem State.noteWrites_mem (s : State) (t : Coord) (off n : Nat) : (State.noteWrites s t off n).mem =
    s.mem := by
  unfold State.noteWrites
  (try dsimp only) <;> (repeat' split) <;> try simp -implicitDefEqProofs [nextOr, foldl_mem, apply_ite State.mem]

@[simp] theorem State.queueFlit_mem (s : State) (p : Nat) (f : LinkFlit) : (State.queueFlit s p f).mem = s.mem := by
  unfold State.queueFlit
  (try dsimp only) <;> (repeat' split) <;> try simp -implicitDefEqProofs [nextOr, foldl_mem, apply_ite State.mem]

@[simp] theorem State.respond_mem (s : State) (src : LooseSrc) (r : Reply) : (State.respond s src r).mem = s.mem := by
  unfold State.respond
  (try dsimp only) <;> (repeat' split) <;> try simp -implicitDefEqProofs [nextOr, foldl_mem, apply_ite State.mem]

@[simp] theorem State.accept_mem (s : State) (a : Loose) : (State.accept s a).mem = s.mem := by
  unfold State.accept
  (try dsimp only) <;> (repeat' split) <;> try simp -implicitDefEqProofs [nextOr, foldl_mem, apply_ite State.mem]

@[simp] theorem State.settle_mem (s : State) (a : Loose) (r : Reply) : (State.settle s a r).mem = s.mem := by
  unfold State.settle
  (try dsimp only) <;> (repeat' split) <;> try simp -implicitDefEqProofs [nextOr, foldl_mem, apply_ite State.mem]

@[simp] theorem State.performTile_wf (s : State) (t : Coord) (off : Nat) (a : Loose) (hw : Mem.wf s.mem = true) :
    Mem.wf (State.performTile s t off a).1.mem = true := by
  unfold State.performTile
  (try dsimp only) <;> (repeat' split) <;>
    try simp +contextual -implicitDefEqProofs (maxDischargeDepth := 20) [hw, nextOr, Mem.wf_write, Mem.wf_set,
      Mem.wf_filter, Mem.wf_foldl_set, foldl_wf, apply_ite State.mem, amoMem_wf, copy_wf]

@[simp] theorem State.looseAtTile_wf (s : State) (t : Coord) (off : Nat) (a : Loose) (hw : Mem.wf s.mem = true) :
    Mem.wf (State.looseAtTile s t off a).1.mem = true := by
  unfold State.looseAtTile
  (try dsimp only) <;> (repeat' split) <;>
    try simp +contextual -implicitDefEqProofs (maxDischargeDepth := 20) [hw, nextOr,  Mem.wf_write, Mem.wf_set,
      Mem.wf_filter, Mem.wf_foldl_set, foldl_wf, apply_ite State.mem]

@[simp] theorem State.arriveTile_wf (s : State) (a : Loose) (t : Coord) (off : Nat) (hw : Mem.wf s.mem = true) :
    Mem.wf (State.arriveTile s a t off).mem = true := by
  unfold State.arriveTile
  (try dsimp only) <;> (repeat' split) <;>
    try simp +contextual -implicitDefEqProofs (maxDischargeDepth := 20) [hw, nextOr,  Mem.wf_write, Mem.wf_set,
      Mem.wf_filter, Mem.wf_foldl_set, foldl_wf, apply_ite State.mem]

@[simp] theorem State.uncorrHbm_mem (s : State) (hb : Nat) : (State.uncorrHbm s hb).mem = s.mem := by
  unfold State.uncorrHbm
  (try dsimp only) <;> (repeat' split) <;> try simp -implicitDefEqProofs [nextOr, foldl_mem, apply_ite State.mem]

@[simp] theorem State.performHbm_wf (s : State) (hb : Nat) (a : Loose) (hw : Mem.wf s.mem = true) : Mem.wf
    (State.performHbm s hb a).1.mem = true := by
  unfold State.performHbm
  (try dsimp only) <;> (repeat' split) <;>
    try simp +contextual -implicitDefEqProofs (maxDischargeDepth := 20) [hw, nextOr, Mem.wf_write, Mem.wf_set,
      Mem.wf_filter, Mem.wf_foldl_set, foldl_wf, apply_ite State.mem, amoMem_wf, copy_wf]

@[simp] theorem State.arriveHbm_wf (s : State) (a : Loose) (hb : Nat) (hw : Mem.wf s.mem = true) : Mem.wf
    (State.arriveHbm s a hb).mem = true := by
  unfold State.arriveHbm
  (try dsimp only) <;> (repeat' split) <;>
    try simp +contextual -implicitDefEqProofs (maxDischargeDepth := 20) [hw, nextOr,  Mem.wf_write, Mem.wf_set,
      Mem.wf_filter, Mem.wf_foldl_set, foldl_wf, apply_ite State.mem]

@[simp] theorem State.releasePc_wf (s : State) (g : Nat) (hw : Mem.wf s.mem = true) : Mem.wf (State.releasePc s
    g).mem = true := by
  unfold State.releasePc
  refine foldl_wf _ (fun s a h => ?_) _ _ (by simpa using hw)
  dsimp only; split <;> simp [h]

@[simp] theorem State.performSram_wf (s : State) (die hub off : Nat) (a : Loose) (hw : Mem.wf s.mem = true) :
    Mem.wf (State.performSram s die hub off a).1.mem = true := by
  unfold State.performSram
  (try dsimp only) <;> (repeat' split) <;>
    try simp +contextual -implicitDefEqProofs (maxDischargeDepth := 20) [hw, nextOr, Mem.wf_write, Mem.wf_set,
      Mem.wf_filter, Mem.wf_foldl_set, foldl_wf, apply_ite State.mem, amoMem_wf, copy_wf]

@[simp] theorem State.routerRead_mem (s : State) (q : Part) (c : Claimant) : (State.routerRead s q c).mem = s.mem := by
  unfold State.routerRead
  (try dsimp only) <;> (repeat' split) <;> try simp -implicitDefEqProofs [nextOr, foldl_mem, apply_ite State.mem]

@[simp] theorem execFlitHop_mem (pid id : Nat) (s : State) : (nextOr (execFlitHop pid id s) s).mem = s.mem := by
  unfold execFlitHop
  (try dsimp only) <;> (repeat' split) <;> try simp -implicitDefEqProofs [nextOr, foldl_mem, apply_ite State.mem]

@[simp] theorem State.sendQuad_mem (s : State) (pid : Nat) (t : Coord) (d : SendSt) (k : Nat) : (State.sendQuad s
    pid t d k).mem = s.mem := by
  unfold State.sendQuad
  (try dsimp only) <;> (repeat' split) <;> try simp -implicitDefEqProofs [nextOr, foldl_mem, apply_ite State.mem]

@[simp] theorem State.continueSends_mem (s : State) (pid : Nat) (t : Coord) (p : Nat) : (State.continueSends s pid
    t p).mem = s.mem := by
  unfold State.continueSends
  (try dsimp only) <;> (repeat' split) <;> try simp -implicitDefEqProofs [nextOr, foldl_mem, apply_ite State.mem]

@[simp] theorem State.beginSend_mem (s : State) (pid : Nat) (t : Coord) (d : SendSt) : (State.beginSend s pid t
    d).mem = s.mem := by
  unfold State.beginSend
  (try dsimp only) <;> (repeat' split) <;> try simp -implicitDefEqProofs [nextOr, foldl_mem, apply_ite State.mem]

theorem beginCatch_mem (tc : TileCx) (cx : Cx) (off n : Nat) (many : Bool) (s : State) {t : State} (h : beginCatch
    tc cx off n many s = .ok t) : t.mem = s.mem := by
  unfold beginCatch at h
  try simp only [bind, Except.bind, pure, Except.pure, throw, throwThe, MonadExceptOf.throw] at h
  (repeat' split at h) <;> first | (cases h; done) | (cases h; simp_all; done) | (simp_all; done) | (simp at h; obtain ⟨rfl, _⟩ := h; simp_all)

@[simp] theorem State.catchTurn_mem (s : State) (pid : Nat) (t : Coord) (p : Nat) (cs : CatchSt) : (State.catchTurn
    s pid t p cs).1.mem = s.mem := by
  unfold State.catchTurn
  (try dsimp only) <;> (repeat' split) <;> try simp -implicitDefEqProofs [nextOr, foldl_mem, apply_ite State.mem]

@[simp] theorem execCatchFlitTake_mem (t : Coord) (s : State) : (nextOr (execCatchFlitTake t s) s).mem = s.mem := by
  unfold execCatchFlitTake
  split
  · rfl
  · simp only [nextOr, State.modTile_mem]
    exact foldl_acc_mem _ (fun s x => by simp) _ _

@[simp] theorem State.sendPut_mem (s : State) (tc : TileCx) (n : Nat) (e : Fin 32) (home : Coord) (a : DWord) (op :
    Nat) (wide : Bool) (data cmp : DWord) (dreg : RegNo) (flits : List DWord) : (State.sendPut s tc n e home a op
    wide data cmp dreg flits).mem = s.mem := by
  unfold State.sendPut
  (try dsimp only) <;> (repeat' split) <;> try simp -implicitDefEqProofs [nextOr, foldl_mem, apply_ite State.mem]

@[simp] theorem execMmaComplete_mem (t : Coord) (s : State) : (nextOr (execMmaComplete t s) s).mem = s.mem := by
  unfold execMmaComplete
  (try dsimp only) <;> (repeat' split) <;> try simp -implicitDefEqProofs [nextOr, foldl_mem, apply_ite State.mem]

@[simp] theorem execImageTransferComplete_mem (t : Coord) (s : State) : (nextOr (execImageTransferComplete t s)
    s).mem = s.mem := by
  unfold execImageTransferComplete
  (try dsimp only) <;> (repeat' split) <;> try simp -implicitDefEqProofs [nextOr, foldl_mem, apply_ite State.mem]

@[simp] theorem State.hbmStore_wf (s : State) (a : Nat) (data : List Byte) (hw : Mem.wf s.mem = true) : Mem.wf
    (State.hbmStore s a data).mem = true := by
  unfold State.hbmStore
  (try dsimp only) <;> (repeat' split) <;>
    try simp +contextual -implicitDefEqProofs (maxDischargeDepth := 20) [hw, nextOr,  Mem.wf_write, Mem.wf_set,
      Mem.wf_filter, Mem.wf_foldl_set, foldl_wf, apply_ite State.mem]

@[simp] theorem State.ringStore_wf (s : State) (base : DWord) (off : Nat) (data : List Byte) (hw : Mem.wf s.mem =
    true) : Mem.wf (State.ringStore s base off data).mem = true := by
  unfold State.ringStore
  (try dsimp only) <;> (repeat' split) <;>
    try simp +contextual -implicitDefEqProofs (maxDischargeDepth := 20) [hw, nextOr,  Mem.wf_write, Mem.wf_set,
      Mem.wf_filter, Mem.wf_foldl_set, foldl_wf, apply_ite State.mem]

theorem State.flushNotices_wf (n : Nat) (s : State) (hw : Mem.wf s.mem = true) : Mem.wf (State.flushNotices n
    s).mem = true := by
  induction n generalizing s with
  | zero => exact hw
  | succ n ih =>
    unfold State.flushNotices
    split
    · exact hw
    · split
      · exact ih _ (by simp [hw])
      · exact hw
@[simp] theorem State.postNotice_wf (s : State) (n : Notice) (hw : Mem.wf s.mem = true) : Mem.wf (State.postNotice
    s n).mem = true := by
  unfold State.postNotice
  (try dsimp only) <;> (repeat' split) <;> try (apply State.flushNotices_wf; simp [hw])

@[simp] theorem State.hostNotices_wf (s : State) (hw : Mem.wf s.mem = true) : Mem.wf (State.hostNotices s).mem =
    true := by
  unfold State.hostNotices
  (try dsimp only) <;> (repeat' split) <;>
    try simp +contextual -implicitDefEqProofs (maxDischargeDepth := 20) [hw, nextOr,  Mem.wf_write, Mem.wf_set,
      Mem.wf_filter, Mem.wf_foldl_set, foldl_wf, apply_ite State.mem]

@[simp] theorem State.logWrite_wf (s : State) (r : LogRec) (hw : Mem.wf s.mem = true) : Mem.wf (State.logWrite s
    r).1.mem = true := by
  unfold State.logWrite
  (try dsimp only) <;> (repeat' split) <;>
    try simp +contextual -implicitDefEqProofs (maxDischargeDepth := 20) [hw, nextOr,  Mem.wf_write, Mem.wf_set,
      Mem.wf_filter, Mem.wf_foldl_set, foldl_wf, apply_ite State.mem]

@[simp] theorem State.logSign_wf (s : State) (hw : Mem.wf s.mem = true) : Mem.wf (State.logSign s).mem = true := by
  unfold State.logSign
  (try dsimp only) <;> (repeat' split) <;>
    try simp +contextual -implicitDefEqProofs (maxDischargeDepth := 20) [hw, nextOr,  Mem.wf_write, Mem.wf_set,
      Mem.wf_filter, Mem.wf_foldl_set, foldl_wf, apply_ite State.mem]

@[simp] theorem State.logTurn_wf (s : State) (hw : Mem.wf s.mem = true) : Mem.wf (State.logTurn s).mem = true := by
  unfold State.logTurn
  (try dsimp only) <;> (repeat' split) <;>
    try simp +contextual -implicitDefEqProofs (maxDischargeDepth := 20) [hw, nextOr,  Mem.wf_write, Mem.wf_set,
      Mem.wf_filter, Mem.wf_foldl_set, foldl_wf, apply_ite State.mem]

@[simp] theorem State.logPut_wf (s : State) (r : LogRec) (hw : Mem.wf s.mem = true) : Mem.wf (State.logPut s r).mem
    = true := by
  unfold State.logPut
  have h1 : Mem.wf s.logTurn.mem = true := by simp [hw]
  generalize s.logTurn = s1 at h1
  dsimp only
  split
  · have h2 : Mem.wf (s1.logWrite r).1.mem = true := by simp [h1]
    generalize (s1.logWrite r).1 = s2 at h2
    simp [h2]
  · simp [h1]

@[simp] theorem State.logLost_wf (s : State) (hw : Mem.wf s.mem = true) : Mem.wf (State.logLost s).mem = true := by
  unfold State.logLost
  (try dsimp only) <;> (repeat' split) <;>
    try simp +contextual -implicitDefEqProofs (maxDischargeDepth := 20) [hw, nextOr,  Mem.wf_write, Mem.wf_set,
      Mem.wf_filter, Mem.wf_foldl_set, foldl_wf, apply_ite State.mem]

@[simp] theorem State.log_wf (s : State) (r : LogRec) (hw : Mem.wf s.mem = true) : Mem.wf (State.log s r).mem =
    true := by
  unfold State.log
  (try dsimp only) <;> (repeat' split) <;>
    try simp +contextual -implicitDefEqProofs (maxDischargeDepth := 20) [hw, nextOr,  Mem.wf_write, Mem.wf_set,
      Mem.wf_filter, Mem.wf_foldl_set, foldl_wf, apply_ite State.mem]

@[simp] theorem State.makeLasting_wf (s : State) (e : ErrEvent) (hw : Mem.wf s.mem = true) : Mem.wf
    (State.makeLasting s e).mem = true := by
  unfold State.makeLasting
  (try dsimp only) <;> (repeat' split) <;>
    try simp +contextual -implicitDefEqProofs (maxDischargeDepth := 20) [hw, nextOr,  Mem.wf_write, Mem.wf_set,
      Mem.wf_filter, Mem.wf_foldl_set, foldl_wf, apply_ite State.mem]

@[simp] theorem State.storageEvent_wf (s : State) (e : ErrEvent) (hw : Mem.wf s.mem = true) : Mem.wf
    (State.storageEvent s e).mem = true := by
  unfold State.storageEvent
  (try dsimp only) <;> (repeat' split) <;>
    try simp +contextual -implicitDefEqProofs (maxDischargeDepth := 20) [hw, nextOr,  Mem.wf_write, Mem.wf_set,
      Mem.wf_filter, Mem.wf_foldl_set, foldl_wf, apply_ite State.mem]

@[simp] theorem State.startRemap_mem (s : State) (die num : Nat) (v : Quad) (src : Option LooseSrc) (tile : Option
    Coord) : (State.startRemap s die num v src tile).mem = s.mem := by
  unfold State.startRemap
  (try dsimp only) <;> (repeat' split) <;> try simp -implicitDefEqProofs [nextOr, foldl_mem, apply_ite State.mem]

@[simp] theorem State.clearTile_wf (s : State) (t : Coord) (hw : Mem.wf s.mem = true) : Mem.wf (State.clearTile s
    t).mem = true := by
  unfold State.clearTile
  (try dsimp only) <;> (repeat' split) <;>
    try simp +contextual -implicitDefEqProofs (maxDischargeDepth := 20) [hw, nextOr,  Mem.wf_write, Mem.wf_set,
      Mem.wf_filter, Mem.wf_foldl_set, foldl_wf, apply_ite State.mem]

@[simp] theorem State.finishRemap_wf (s : State) (m : Remap) (hw : Mem.wf s.mem = true) : Mem.wf (State.finishRemap
    s m).mem = true := by
  unfold State.finishRemap
  dsimp only
  generalize hs : List.foldl _ _ _ = s1
  have h1 : Mem.wf s1.mem = true := by rw [← hs]; exact foldl_wf _ (fun s x h => by simp [h]) _ _ hw
  (repeat' split) <;> simp [h1]

@[simp] theorem State.damageItem_mem (s : State) (e : ErrEvent) : (State.damageItem s e).mem = s.mem := by
  unfold State.damageItem
  (try dsimp only) <;> (repeat' split) <;> try simp -implicitDefEqProofs [nextOr, foldl_mem, apply_ite State.mem]

@[simp] theorem execCorrectedError_wf (e : ErrEvent) (s : State) (hw : Mem.wf s.mem = true) : Mem.wf (nextOr
    (execCorrectedError e s) s).mem = true := by
  unfold execCorrectedError
  (try dsimp only) <;> (repeat' split) <;>
    try simp +contextual -implicitDefEqProofs (maxDischargeDepth := 20) [hw, nextOr,  Mem.wf_write, Mem.wf_set,
      Mem.wf_filter, Mem.wf_foldl_set, foldl_wf, apply_ite State.mem]

@[simp] theorem execLogAppend_wf (e : ErrEvent) (s : State) (hw : Mem.wf s.mem = true) : Mem.wf (nextOr
    (execLogAppend e s) s).mem = true := by
  unfold execLogAppend
  (try dsimp only) <;> (repeat' split) <;>
    try simp +contextual -implicitDefEqProofs (maxDischargeDepth := 20) [hw, nextOr,  Mem.wf_write, Mem.wf_set,
      Mem.wf_filter, Mem.wf_foldl_set, foldl_wf, apply_ite State.mem]

@[simp] theorem execLostEventsRecord_wf (s : State) (hw : Mem.wf s.mem = true) : Mem.wf (nextOr
    (execLostEventsRecord s) s).mem = true := by
  unfold execLostEventsRecord
  (try dsimp only) <;> (repeat' split) <;>
    try simp +contextual -implicitDefEqProofs (maxDischargeDepth := 20) [hw, nextOr,  Mem.wf_write, Mem.wf_set,
      Mem.wf_filter, Mem.wf_foldl_set, foldl_wf, apply_ite State.mem]

@[simp] theorem execLogSignatureDone_wf (lseq : Nat) (s : State) (hw : Mem.wf s.mem = true) : Mem.wf (nextOr
    (execLogSignatureDone lseq s) s).mem = true := by
  unfold execLogSignatureDone
  (try dsimp only) <;> (repeat' split) <;>
    try simp +contextual -implicitDefEqProofs (maxDischargeDepth := 20) [hw, nextOr,  Mem.wf_write, Mem.wf_set,
      Mem.wf_filter, Mem.wf_foldl_set, foldl_wf, apply_ite State.mem]

@[simp] theorem execNoticeFlush_wf (s : State) (hw : Mem.wf s.mem = true) : Mem.wf (nextOr (execNoticeFlush s)
    s).mem = true := by
  unfold execNoticeFlush
  simp only [nextOr]
  exact State.flushNotices_wf _ _ (by simp [hw])

@[simp] theorem execSpareSwapExecute_mem (t : Coord) (s : State) : (nextOr (execSpareSwapExecute t s) s).mem =
    s.mem := by
  unfold execSpareSwapExecute
  (try dsimp only) <;> (repeat' split) <;> try simp -implicitDefEqProofs [nextOr, foldl_mem, apply_ite State.mem]

@[simp] theorem execRemapDone_wf (die num : Nat) (s : State) (hw : Mem.wf s.mem = true) : Mem.wf (nextOr
    (execRemapDone die num s) s).mem = true := by
  unfold execRemapDone
  (try dsimp only) <;> (repeat' split) <;>
    try simp +contextual -implicitDefEqProofs (maxDischargeDepth := 20) [hw, nextOr,  Mem.wf_write, Mem.wf_set,
      Mem.wf_filter, Mem.wf_foldl_set, foldl_wf, apply_ite State.mem]

@[simp] theorem State.latch_wf (s : State) (hw : Mem.wf s.mem = true) : Mem.wf (State.latch s).mem = true := by
  unfold State.latch
  dsimp only
  generalize hs : List.foldl _ _ _ = s1
  have h1 : Mem.wf s1.mem = true := by rw [← hs]; exact foldl_wf _ (fun s x h => by simp [h]) _ _ (by simp [hw])
  apply State.flushNotices_wf
  split <;> simp [h1]

@[simp] theorem execJtailWrite_wf (v : DWord) (s : State) (hw : Mem.wf s.mem = true) : Mem.wf (nextOr
    (execJtailWrite v s) s).mem = true := by
  unfold execJtailWrite
  (try dsimp only) <;> (repeat' split) <;>
    try simp +contextual -implicitDefEqProofs (maxDischargeDepth := 20) [hw, nextOr,  Mem.wf_write, Mem.wf_set,
      Mem.wf_filter, Mem.wf_foldl_set, foldl_wf, apply_ite State.mem]

@[simp] theorem execBootstatWrite_mem (v : DWord) (s : State) : (nextOr (execBootstatWrite v s) s).mem = s.mem := by
  unfold execBootstatWrite
  (try dsimp only) <;> (repeat' split) <;> try simp -implicitDefEqProofs [nextOr, foldl_mem, apply_ite State.mem]

@[simp] theorem execFirmwareVerifyDone_mem (o : BootOutcome) (s : State) : (nextOr (execFirmwareVerifyDone o s)
    s).mem = s.mem := by
  unfold execFirmwareVerifyDone
  (try dsimp only) <;> (repeat' split) <;> try simp -implicitDefEqProofs [nextOr, foldl_mem, apply_ite State.mem]

@[simp] theorem execPowerOnReset_wf (s : State) (hw : Mem.wf s.mem = true) : Mem.wf (nextOr (execPowerOnReset s)
    s).mem = true := by
  rfl

@[simp] theorem execSpareMapWrite_mem (die hub num : Nat) (v : Quad) (s : State) : (nextOr (execSpareMapWrite die
    hub num v s) s).mem = s.mem := by
  unfold execSpareMapWrite
  (try dsimp only) <;> (repeat' split) <;> try simp -implicitDefEqProofs [nextOr, foldl_mem, apply_ite State.mem]

@[simp] theorem State.unblock_mem (s : State) (die hub : Nat) (d : RegNo) (v : Quad) : (State.unblock s die hub d
    v).mem = s.mem := by
  unfold State.unblock
  (try dsimp only) <;> (repeat' split) <;> try simp -implicitDefEqProofs [nextOr, foldl_mem, apply_ite State.mem]

@[simp] theorem State.setTe_mem (s : State) (die i : Nat) (e : Quad) : (State.setTe s die i e).mem = s.mem := by
  unfold State.setTe
  (try dsimp only) <;> (repeat' split) <;> try simp -implicitDefEqProofs [nextOr, foldl_mem, apply_ite State.mem]

@[simp] theorem State.askXlate_mem (s : State) (die src : Nat) (hub : Bool) (kind asid va : Nat) (full : Bool) :
    (State.askXlate s die src hub kind asid va full).1.mem = s.mem := by
  unfold State.askXlate
  (try dsimp only) <;> (repeat' split) <;> try simp -implicitDefEqProofs [nextOr, foldl_mem, apply_ite State.mem]

@[simp] theorem State.logDirty_wf (s : State) (die i : Nat) (e : Quad) (va : Nat) (hub : Bool) (hw : Mem.wf s.mem =
    true) : Mem.wf (State.logDirty s die i e va hub).mem = true := by
  unfold State.logDirty
  (try dsimp only) <;> (repeat' split) <;>
    try simp +contextual -implicitDefEqProofs (maxDischargeDepth := 20) [hw, nextOr,  Mem.wf_write, Mem.wf_set,
      Mem.wf_filter, Mem.wf_foldl_set, foldl_wf, apply_ite State.mem]

theorem State.popXmsg_mem (s : State) (die : Nat) {t : State} {r} (h : State.popXmsg s die = some (t, r)) : t.mem =
    s.mem := by
  unfold State.popXmsg at h
  try simp only [bind, Except.bind, pure, Except.pure, throw, throwThe, MonadExceptOf.throw] at h
  (repeat' split at h) <;> first | (cases h; done) | (cases h; simp_all; done) | (simp_all; done) | (simp at h; obtain ⟨rfl, _⟩ := h; simp_all)

@[simp] theorem State.again_mem (s : State) (l : List Flight) : (State.again s l).mem = s.mem := by
  unfold State.again
  (try dsimp only) <;> (repeat' split) <;> try simp -implicitDefEqProofs [nextOr, foldl_mem, apply_ite State.mem]

@[simp] theorem State.finishXlate_mem (s : State) (die num reason : Nat) : (State.finishXlate s die num reason).mem
    = s.mem := by
  unfold State.finishXlate
  (try dsimp only) <;> (repeat' split) <;> try simp -implicitDefEqProofs [nextOr, foldl_mem, apply_ite State.mem]

@[simp] theorem State.writeAgen_mem (s : State) (a : Nat) (v : DWord) : (State.writeAgen s a v).mem = s.mem := by
  unfold State.writeAgen
  (try dsimp only) <;> (repeat' split) <;> try simp -implicitDefEqProofs [nextOr, foldl_mem, apply_ite State.mem]

theorem State.xdone_wf {s t : State} {die : Nat} {v : Quad} (h : s.xdone die v = some t) (hw : Mem.wf s.mem = true) :
    Mem.wf t.mem = true := by
  unfold State.xdone at h
  dsimp only at h
  split at h
  · cases h; simp [hw]
  · cases h
@[simp] theorem execXdoneWrite_wf (die _hub : Nat) (v : Quad) (s : State) (hw : Mem.wf s.mem = true) : Mem.wf
    (nextOr (execXdoneWrite die _hub v s) s).mem = true := by
  unfold execXdoneWrite
  simp only [nextOr_next]
  cases h : s.xdone die v with
  | none => exact hw
  | some t => exact State.xdone_wf h hw

theorem State.dlog_wf {s t : State} {die : Nat} {v : Quad} (h : s.dlog die v = some t) (hw : Mem.wf s.mem = true) :
    Mem.wf t.mem = true := by
  unfold State.dlog at h
  dsimp only at h
  repeat' split at h
  · cases h
  · cases h
    exact foldl_wf _ (fun s x h => by simp [h]) _ _ (by simp [hw])
  · cases h; simp [hw]
@[simp] theorem execDlogWrite_wf (die _hub : Nat) (v : Quad) (s : State) (hw : Mem.wf s.mem = true) : Mem.wf
    (nextOr (execDlogWrite die _hub v s) s).mem = true := by
  unfold execDlogWrite
  simp only [nextOr_next]
  cases h : s.dlog die v with
  | none => exact hw
  | some t => exact State.dlog_wf h hw

@[simp] theorem execAgenWrite_mem (a : Nat) (v : DWord) (s : State) : (nextOr (execAgenWrite a v s) s).mem = s.mem := by
  unfold execAgenWrite
  (try dsimp only) <;> (repeat' split) <;> try simp -implicitDefEqProofs [nextOr, foldl_mem, apply_ite State.mem]

@[simp] theorem execXmsgRead_mem (die hub : Nat) (d : RegNo) (s : State) : (nextOr (execXmsgRead die hub d s)
    s).mem = s.mem := by
  unfold execXmsgRead
  repeat' split
  · rfl
  · rfl
  · next h => simpa [nextOr] using State.popXmsg_mem _ _ h

@[simp] theorem State.addOutbound_mem (s : State) (p : Option Nat) (f : Flight) :
    (State.addOutbound s p f).mem = s.mem := by
  unfold State.addOutbound
  (try dsimp only) <;> (repeat' split) <;> try simp -implicitDefEqProofs [nextOr, foldl_mem, apply_ite State.mem]

@[simp] theorem State.leave_mem (s : State) (f : Flight) (d : Dest) : (State.leave s f d).mem = s.mem := by
  unfold State.leave
  (try dsimp only) <;> (repeat' split) <;> try simp -implicitDefEqProofs [nextOr, foldl_mem, apply_ite State.mem]

@[simp] theorem State.sendLoose_mem (s : State) (a : Loose) (d : Dest) (via : List (Nat × Nat)) :
    (State.sendLoose s a d via).mem = s.mem := by
  unfold State.sendLoose
  (try dsimp only) <;> (repeat' split) <;> try simp -implicitDefEqProofs [nextOr, foldl_mem, apply_ite State.mem]

theorem tileLoad_mem (f : LdForm) (d : RegNo) (c : CReg) (off : Int) (tc : TileCx) (cx : Cx) (s : State) {t :
    State} (h : tileLoad f d c off tc cx s = .ok t) : t.mem = s.mem := by
  unfold tileLoad at h
  try simp only [bind, Except.bind, pure, Except.pure, throw, throwThe, MonadExceptOf.throw] at h
  (repeat' split at h) <;> first | (cases h; done) | (cases h; simp_all; done) | (simp_all; done) | (simp at h; obtain ⟨rfl, _⟩ := h; simp_all)

theorem tileStore_mem (f : StForm) (v c : CReg) (off : Int) (tc : TileCx) (cx : Cx) (s : State) {t : State} (h :
    tileStore f v c off tc cx s = .ok t) : t.mem = s.mem := by
  unfold tileStore at h
  try simp only [bind, Except.bind, pure, Except.pure, throw, throwThe, MonadExceptOf.throw] at h
  (repeat' split at h) <;> first | (cases h; done) | (cases h; simp_all; done) | (simp_all; done) | (simp at h; obtain ⟨rfl, _⟩ := h; simp_all)

theorem tileAtomic_mem (f : Nat) (wide : Bool) (d : RegNo) (c : CReg) (x e : DWord) (tc : TileCx) (cx : Cx) (s :
    State) {t : State} (h : tileAtomic f wide d c x e tc cx s = .ok t) : t.mem = s.mem := by
  unfold tileAtomic at h
  try simp only [bind, Except.bind, pure, Except.pure, throw, throwThe, MonadExceptOf.throw] at h
  (repeat' split at h) <;> first | (cases h; done) | (cases h; simp_all; done) | (simp_all; done) | (simp at h; obtain ⟨rfl, _⟩ := h; simp_all)

@[simp] theorem State.modChan_mem (s : State) (o : Owner) (ch : Fin 4) (f : Chan → Chan) : (State.modChan s o ch
    f).mem = s.mem := by
  unfold State.modChan
  (try dsimp only) <;> (repeat' split) <;> try simp -implicitDefEqProofs [nextOr, foldl_mem, apply_ite State.mem]

theorem copyFrom_wf {m : List Host.Cell} (n : List Host.Cell) (a b k : Nat) (h : Mem.wf m = true) :
    Mem.wf (Mem.copyFrom m n a b k) = true := by
  unfold Mem.copyFrom
  exact Mem.wf_foldl_set _ _ _ (Mem.wf_filter _ h)
theorem writeAll_wf {m : List Host.Cell} (a : Nat) (l : List (Nat × List Byte)) (h : Mem.wf m = true) :
    Mem.wf (Mem.writeAll m a l) = true := by
  unfold Mem.writeAll
  exact foldl_wfm _ (fun m x h => Mem.wf_write _ _ h) _ _ h
@[simp] theorem State.areaClear_wf (s : State) (q : Part) (off n : Nat) (hw : Mem.wf s.mem = true) :
    Mem.wf (State.areaClear s q off n).mem = true := by
  unfold State.areaClear
  (try dsimp only) <;> (repeat' split) <;>
    try simp +contextual -implicitDefEqProofs (maxDischargeDepth := 20) [hw, nextOr,  Mem.wf_write, Mem.wf_set,
      Mem.wf_filter, Mem.wf_foldl_set, foldl_wf, apply_ite State.mem]

@[simp] theorem State.areaWrite_wf (s : State) (q : Part) (off : Nat) (l : List Byte) (hw : Mem.wf s.mem = true) :
    Mem.wf (State.areaWrite s q off l).mem = true := by
  unfold State.areaWrite
  (try dsimp only) <;> (repeat' split) <;>
    try simp +contextual -implicitDefEqProofs (maxDischargeDepth := 20) [hw, nextOr,  Mem.wf_write, Mem.wf_set,
      Mem.wf_filter, Mem.wf_foldl_set, foldl_wf, apply_ite State.mem]

@[simp] theorem State.refreshHeader_wf (s : State) (pid : Nat) (hw : Mem.wf s.mem = true) : Mem.wf
    (State.refreshHeader s pid).mem = true := by
  unfold State.refreshHeader
  (try dsimp only) <;> (repeat' split) <;>
    try simp +contextual -implicitDefEqProofs (maxDischargeDepth := 20) [hw, nextOr,  Mem.wf_write, Mem.wf_set,
      Mem.wf_filter, Mem.wf_foldl_set, foldl_wf, apply_ite State.mem]

@[simp] theorem State.refreshStep_wf (s : State) (pid : Nat) (hw : Mem.wf s.mem = true) :
    Mem.wf (State.refreshStep s pid).mem = true := by
  unfold State.refreshStep
  (try dsimp only) <;> (repeat' split) <;>
    try simp +contextual -implicitDefEqProofs (maxDischargeDepth := 20) [hw, nextOr,  Mem.wf_write, Mem.wf_set,
      Mem.wf_filter, Mem.wf_foldl_set, foldl_wf, apply_ite State.mem]

@[simp] theorem State.hold_wf (s : State) (q : Part) (l : List HeldRec) (hw : Mem.wf s.mem = true) : Mem.wf
    (State.hold s q l).1.mem = true := by
  unfold State.hold
  (try dsimp only) <;> (repeat' split) <;>
    try simp +contextual -implicitDefEqProofs (maxDischargeDepth := 20) [hw, nextOr,  Mem.wf_write, Mem.wf_set,
      Mem.wf_filter, Mem.wf_foldl_set, foldl_wf, apply_ite State.mem]

@[simp] theorem State.failFrozen_wf (s : State) (q : Part) (t : Coord) (ch : Fin 4) (code n : Nat) (hw : Mem.wf
    s.mem = true) : Mem.wf (State.failFrozen s q t ch code n).mem = true := by
  unfold State.failFrozen
  (try dsimp only) <;> (repeat' split) <;>
    try simp +contextual -implicitDefEqProofs (maxDischargeDepth := 20) [hw, nextOr,  Mem.wf_write, Mem.wf_set,
      Mem.wf_filter, Mem.wf_foldl_set, foldl_wf, apply_ite State.mem]

@[simp] theorem State.unitFault_mem (s : State) (pid : Nat) (t : Coord) (p kind : Nat) (f : Flt) (ch : Nat) :
    (State.unitFault s pid t p kind f ch).mem = s.mem := by
  unfold State.unitFault
  (try dsimp only) <;> (repeat' split) <;> try simp -implicitDefEqProofs [nextOr, foldl_mem, apply_ite State.mem]

@[simp] theorem State.readOwn_mem (s : State) (w : WalkCx) (t : Coord) (off : Nat) : (State.readOwn s w t
    off).1.mem = s.mem := by
  unfold State.readOwn
  (try dsimp only) <;> (repeat' split) <;> try simp -implicitDefEqProofs [nextOr, foldl_mem, apply_ite State.mem]

@[simp] theorem State.writeAt_mem (s : State) (w : WalkCx) (t : Coord) (off : Nat) (v : DWord) (kind n c : Nat) :
    (State.writeAt s w t off v kind n c).mem = s.mem := by
  unfold State.writeAt
  (try dsimp only) <;> (repeat' split) <;> try simp -implicitDefEqProofs [nextOr, foldl_mem, apply_ite State.mem]

@[simp] theorem State.notePending_mem (s : State) (w : WalkCx) (n : Nat) : (State.notePending s w n).mem = s.mem := by
  unfold State.notePending
  (try dsimp only) <;> (repeat' split) <;> try simp -implicitDefEqProofs [nextOr, foldl_mem, apply_ite State.mem]

@[simp] theorem State.skipElement_mem (s : State) (w : WalkCx) (e se : Nat) : (State.skipElement s w e se).mem =
    s.mem := by
  unfold State.skipElement
  (try dsimp only) <;> (repeat' split) <;> try simp -implicitDefEqProofs [nextOr, foldl_mem, apply_ite State.mem]

@[simp] theorem State.skipRest_mem (s : State) (w : WalkCx) (st : Nat) : (State.skipRest s w st).mem = s.mem := by
  unfold State.skipRest
  (try dsimp only) <;> (repeat' split) <;> try simp -implicitDefEqProofs [nextOr, foldl_mem, apply_ite State.mem]

@[simp] theorem State.sendElement_mem (s : State) (w : WalkCx) (e : Nat) (dst : Bool) : (State.sendElement s w e
    dst).mem = s.mem := by
  unfold State.sendElement
  (try dsimp only) <;> (repeat' split) <;> try simp -implicitDefEqProofs [nextOr, foldl_mem, apply_ite State.mem]

@[simp] theorem State.sendElementWord_mem (s : State) (w : WalkCx) (e n : Nat) (v : DWord) : (State.sendElementWord s
    w e n v).mem = s.mem := by
  unfold State.sendElementWord
  (try dsimp only) <;> (repeat' split) <;> try simp -implicitDefEqProofs [nextOr, foldl_mem, apply_ite State.mem]

@[simp] theorem State.addRequest_mem (s : State) (o : Owner) (r : Request) : (State.addRequest s o r).mem = s.mem := by
  unfold State.addRequest
  (try dsimp only) <;> (repeat' split) <;> try simp -implicitDefEqProofs [nextOr, foldl_mem, apply_ite State.mem]

@[simp] theorem State.sendDeadline_mem (s : State) (o : Owner) (ch : Fin 4) (n off addr : Nat) (write sys : Bool)
    (v : DWord) (via : List (Nat × Nat)) : (State.sendDeadline s o ch n off addr write sys v via).mem = s.mem := by
  unfold State.sendDeadline
  (try dsimp only) <;> (repeat' split) <;> try simp -implicitDefEqProofs [nextOr, foldl_mem, apply_ite State.mem]

theorem State.xlateAt_wf {s t : State} {die asid va : Nat} {need : XNeed} {hub : Bool} {a c e : Nat} (h : s.xlateAt
    die asid va need hub = .hit t a c e) (hw : Mem.wf s.mem = true) : Mem.wf t.mem = true := by
  unfold State.xlateAt at h
  (repeat' split at h) <;> cases h <;> simp [hw]
theorem State.lookupWords_wf (s : State) (die asid : Nat) (need : XNeed) (hub : Bool) (vas : List Nat) (hw : Mem.wf
    s.mem = true) : Mem.wf (s.lookupWords die asid need hub vas).1.mem = true := by
  unfold State.lookupWords
  refine foldl_acc_wf _ (fun acc a h => ?_) _ _ hw
  dsimp only
  split
  · next hx => exact State.xlateAt_wf hx h
  · split <;> exact h
@[simp] theorem State.lookAhead_wf (s : State) (pid : Nat) (t : Coord) (ch : Fin 4) (p : Nat) (hw : Mem.wf s.mem =
    true) : Mem.wf (State.lookAhead s pid t ch p).mem = true := by
  unfold State.lookAhead
  split
  · split
    · exact hw
    · dsimp only
      split
      · exact hw
      · split
        · rw [State.modChan_mem]; exact hw
        · split
          · rw [State.modChan_mem]; exact State.lookupWords_wf _ _ _ _ _ _ hw
          · exact foldl_wf _ (fun s x h => by simp [h]) _ _ (by rw [State.modChan_mem]; exact State.lookupWords_wf _ _ _ _ _ _ hw)
  · exact hw

@[simp] theorem State.walkStep_mem (s : State) (w : WalkCx) (e j : Nat) : (State.walkStep s w e j).mem = s.mem := by
  unfold State.walkStep
  (try dsimp only) <;> (repeat' split) <;> try simp -implicitDefEqProofs [nextOr, foldl_mem, apply_ite State.mem]

@[simp] theorem State.walkStage_mem (s : State) (w : WalkCx) (r : Nat) : (State.walkStage s w r).mem = s.mem := by
  unfold State.walkStage
  (try dsimp only) <;> (repeat' split) <;> try simp -implicitDefEqProofs [nextOr, foldl_mem, apply_ite State.mem]

@[simp] theorem State.walkReduce_mem (s : State) (w : WalkCx) (st k : Nat) : (State.walkReduce s w st k).mem =
    s.mem := by
  unfold State.walkReduce
  (try dsimp only) <;> (repeat' split) <;> try simp -implicitDefEqProofs [nextOr, foldl_mem, apply_ite State.mem]

@[simp] theorem State.channelRead_mem (s : State) (pid : Nat) (t : Coord) (ch : Fin 4) (p : Nat) :
    (State.channelRead s pid t ch p).mem = s.mem := by
  unfold State.channelRead
  (try dsimp only) <;> (repeat' split) <;> try simp -implicitDefEqProofs [nextOr, foldl_mem, apply_ite State.mem]

@[simp] theorem State.walkTile_wf (s : State) (pid : Nat) (t : Coord) (ch : Fin 4) (p : Nat) (hw : Mem.wf s.mem =
    true) : Mem.wf (State.walkTile s pid t ch p).mem = true := by
  unfold State.walkTile
  (try dsimp only) <;> (repeat' split) <;>
    try simp +contextual -implicitDefEqProofs (maxDischargeDepth := 20) [hw, nextOr,  Mem.wf_write, Mem.wf_set,
      Mem.wf_filter, Mem.wf_foldl_set, foldl_wf, apply_ite State.mem]

@[simp] theorem State.hubWord_wf (s : State) (d h off : Nat) (ch : Fin 4) (n : Nat) (v : DWord) (hw : Mem.wf s.mem
    = true) : Mem.wf (State.hubWord s d h off ch n v).mem = true := by
  unfold State.hubWord
  (try dsimp only) <;> (repeat' split) <;>
    try simp +contextual -implicitDefEqProofs (maxDischargeDepth := 20) [hw, nextOr,  Mem.wf_write, Mem.wf_set,
      Mem.wf_filter, Mem.wf_foldl_set, foldl_wf, apply_ite State.mem]

@[simp] theorem State.hubRead_mem (s : State) (d h off : Nat) : (State.hubRead s d h off).1.mem = s.mem := by
  unfold State.hubRead
  (try dsimp only) <;> (repeat' split) <;> try simp -implicitDefEqProofs [nextOr, foldl_mem, apply_ite State.mem]

@[simp] theorem State.hubStep_wf (s : State) (d h : Nat) (ch : Fin 4) (c : Cmd) (e j : Nat) (hw : Mem.wf s.mem =
    true) : Mem.wf (State.hubStep s d h ch c e j).mem = true := by
  unfold State.hubStep
  (try dsimp only) <;> (repeat' split) <;>
    try simp +contextual -implicitDefEqProofs (maxDischargeDepth := 20) [hw, nextOr,  Mem.wf_write, Mem.wf_set,
      Mem.wf_filter, Mem.wf_foldl_set, foldl_wf, apply_ite State.mem]

@[simp] theorem State.walkHub_wf (s : State) (d h : Nat) (ch : Fin 4) (hw : Mem.wf s.mem = true) : Mem.wf
    (State.walkHub s d h ch).mem = true := by
  unfold State.walkHub
  dsimp only
  repeat' split
  all_goals first
    | exact hw
    | (simp only [State.modChan_mem]; exact hw)
    | (simp only [State.modChan_mem]; rw [foldl_mem _ (fun s x => by simp)]; simpa using hw)
    | (simp [State.lookupWords_wf, hw])

@[simp] theorem execChannelCommandStart_wf (o : Owner) (ch : Fin 4) (s : State) (hw : Mem.wf s.mem = true) : Mem.wf
    (nextOr (execChannelCommandStart o ch s) s).mem = true := by
  unfold execChannelCommandStart
  (try dsimp only) <;> (repeat' split) <;>
    try simp +contextual -implicitDefEqProofs (maxDischargeDepth := 20) [hw, nextOr,  Mem.wf_write, Mem.wf_set,
      Mem.wf_filter, Mem.wf_foldl_set, foldl_wf, apply_ite State.mem]

@[simp] theorem State.stage_mem (s : State) (pid : Nat) (el : Element) (g : Nat) (v : DWord) (p : Nat) :
    (State.stage s pid el g v p).mem = s.mem := by
  unfold State.stage
  (try dsimp only) <;> (repeat' split) <;> try simp -implicitDefEqProofs [nextOr, foldl_mem, apply_ite State.mem]

@[simp] theorem execEngineElementAtHome_wf (pid id : Nat) (s : State) (hw : Mem.wf s.mem = true) : Mem.wf (nextOr
    (execEngineElementAtHome pid id s) s).mem = true := by
  unfold execEngineElementAtHome
  split
  · exact hw
  · split
    · exact hw
    · dsimp only
      have key : ∀ s2 : State, Mem.wf s2.mem = true → ∀ (α : Type) (f : State → α → State) (l : List α),
          (∀ s x, (f s x).mem = s.mem) → Mem.wf (l.foldl f s2).mem = true := by
        intro s2 h α f l hf; rw [foldl_mem f hf]; exact h
      split <;> split <;> (try split) <;> rw [nextOr_next] <;> first
        | (apply key <;> first
            | (intro s x; (try dsimp only); (repeat' split) <;> first | rfl | simp)
            | (split <;> simp [hw]))
        | (split <;> simp [hw])
        | simp [hw]

@[simp] theorem execEngineRefusalArrival_mem (pid id : Nat) (s : State) : (nextOr (execEngineRefusalArrival pid id
    s) s).mem = s.mem := by
  unfold execEngineRefusalArrival
  (try dsimp only) <;> (repeat' split) <;> try simp -implicitDefEqProofs [nextOr, foldl_mem, apply_ite State.mem]

@[simp] theorem State.applyReply_mem (s : State) (pid p : Nat) (r : Request) (reply : Reply) : (State.applyReply s
    pid p r reply).mem = s.mem := by
  unfold State.applyReply
  (try dsimp only) <;> (repeat' split) <;> try simp -implicitDefEqProofs [nextOr, foldl_mem, apply_ite State.mem]

@[simp] theorem State.holdReply_wf (s : State) (q : Part) (r : Request) (reply : Reply) (hw : Mem.wf s.mem = true)
    : Mem.wf (State.holdReply s q r reply).mem = true := by
  unfold State.holdReply
  (try dsimp only) <;> (repeat' split) <;>
    try simp +contextual -implicitDefEqProofs (maxDischargeDepth := 20) [hw, nextOr,  Mem.wf_write, Mem.wf_set,
      Mem.wf_filter, Mem.wf_foldl_set, foldl_wf, apply_ite State.mem]

@[simp] theorem execDeadlineReplyArrival_wf (id : Nat) (reply : Reply) (s : State) (hw : Mem.wf s.mem = true) :
    Mem.wf (nextOr (execDeadlineReplyArrival id reply s) s).mem = true := by
  unfold execDeadlineReplyArrival
  (try dsimp only) <;> (repeat' split) <;>
    try simp +contextual -implicitDefEqProofs (maxDischargeDepth := 20) [hw, nextOr,  Mem.wf_write, Mem.wf_set,
      Mem.wf_filter, Mem.wf_foldl_set, foldl_wf, apply_ite State.mem]

@[simp] theorem State.deliver_wf (s : State) (t : Coord) (e : Pend) (hw : Mem.wf s.mem = true) : Mem.wf
    (State.deliver s t e).mem = true := by
  unfold State.deliver
  (try dsimp only) <;> (repeat' split) <;>
    try simp +contextual -implicitDefEqProofs (maxDischargeDepth := 20) [hw, nextOr,  Mem.wf_write, Mem.wf_set,
      Mem.wf_filter, Mem.wf_foldl_set, foldl_wf, apply_ite State.mem]

@[simp] theorem State.deliverTile_wf (s : State) (t : Coord) (p : Nat) (late : Nat → Bool) (hw : Mem.wf s.mem = true) : Mem.wf
    (State.deliverTile s t p late).mem = true := by
  unfold State.deliverTile
  (try dsimp only) <;> (repeat' split) <;>
    try simp +contextual -implicitDefEqProofs (maxDischargeDepth := 20) [hw, nextOr,  Mem.wf_write, Mem.wf_set,
      Mem.wf_filter, Mem.wf_foldl_set, foldl_wf, apply_ite State.mem]

@[simp] theorem State.groupFault_mem (s : State) (pid : Nat) (t : Coord) (key : RedKey) (p ch : Nat) :
    (State.groupFault s pid t key p ch).mem = s.mem := by
  unfold State.groupFault
  (try dsimp only) <;> (repeat' split) <;> try simp -implicitDefEqProofs [nextOr, foldl_mem, apply_ite State.mem]

@[simp] theorem State.redArrive_mem (s : State) (pid : Nat) (t : Coord) (key : RedKey) (p : Nat) (ws : List
    RedWord) (count : Nat) : (State.redArrive s pid t key p ws count).mem = s.mem := by
  unfold State.redArrive
  (try dsimp only) <;> (repeat' split) <;> try simp -implicitDefEqProofs [nextOr, foldl_mem, apply_ite State.mem]

@[simp] theorem execReductionCombinedArrival_mem (pid : Nat) (key : RedKey) (s : State) : (nextOr
    (execReductionCombinedArrival pid key s) s).mem = s.mem := by
  unfold execReductionCombinedArrival
  (try dsimp only) <;> (repeat' split) <;> try simp -implicitDefEqProofs [nextOr, foldl_mem, apply_ite State.mem]

@[simp] theorem execGgetWordArrival_mem (t : Coord) (key : RedKey) (s : State) : (nextOr (execGgetWordArrival t key
    s) s).mem = s.mem := by
  unfold execGgetWordArrival
  (try dsimp only) <;> (repeat' split) <;> try simp -implicitDefEqProofs [nextOr, foldl_mem, apply_ite State.mem]

@[simp] theorem execBankAct_mem (pid entry : Nat) (s : State) : (nextOr (execBankAct pid entry s) s).mem = s.mem := by
  unfold execBankAct
  (try dsimp only) <;> (repeat' split) <;> try simp -implicitDefEqProofs [nextOr, foldl_mem, apply_ite State.mem]

@[simp] theorem execBankPre_mem (pid entry : Nat) (s : State) : (nextOr (execBankPre pid entry s) s).mem = s.mem := by
  unfold execBankPre
  (try dsimp only) <;> (repeat' split) <;> try simp -implicitDefEqProofs [nextOr, foldl_mem, apply_ite State.mem]

@[simp] theorem State.bankSlip_mem (s : State) (q : Part) (e : BankEntry) (entry : Nat) : (State.bankSlip s q e
    entry).mem = s.mem := by
  unfold State.bankSlip
  (try dsimp only) <;> (repeat' split) <;> try simp -implicitDefEqProofs [nextOr, foldl_mem, apply_ite State.mem]

@[simp] theorem execBankRd_mem (pid entry : Nat) (s : State) : (nextOr (execBankRd pid entry s) s).mem = s.mem := by
  unfold execBankRd
  (try dsimp only) <;> (repeat' split) <;> try simp -implicitDefEqProofs [nextOr, foldl_mem, apply_ite State.mem]

@[simp] theorem execBankWr_mem (pid entry : Nat) (s : State) : (nextOr (execBankWr pid entry s) s).mem = s.mem := by
  unfold execBankWr
  (try dsimp only) <;> (repeat' split) <;> try simp -implicitDefEqProofs [nextOr, foldl_mem, apply_ite State.mem]

@[simp] theorem State.stageWrites_wf (s : State) (pid p : Nat) (hw : Mem.wf s.mem = true) : Mem.wf
    (State.stageWrites s pid p).mem = true := by
  unfold State.stageWrites
  (try dsimp only) <;> (repeat' split) <;>
    try simp +contextual -implicitDefEqProofs (maxDischargeDepth := 20) [hw, nextOr,  Mem.wf_write, Mem.wf_set,
      Mem.wf_filter, Mem.wf_foldl_set, foldl_wf, apply_ite State.mem]

@[simp] theorem execHbmReadData_mem (pid id : Nat) (s : State) : (nextOr (execHbmReadData pid id s) s).mem = s.mem := by
  unfold execHbmReadData
  (try dsimp only) <;> (repeat' split) <;> try simp -implicitDefEqProofs [nextOr, foldl_mem, apply_ite State.mem]

@[simp] theorem execBankRefresh_mem (_pc _bank : Nat) (s : State) : (nextOr (execBankRefresh _pc _bank s) s).mem =
    s.mem := by
  unfold execBankRefresh
  (try dsimp only) <;> (repeat' split) <;> try simp -implicitDefEqProofs [nextOr, foldl_mem, apply_ite State.mem]

@[simp] theorem State.saveHeader_wf (s : State) (q : Part) (hw : Mem.wf s.mem = true) : Mem.wf (State.saveHeader s
    q).mem = true := by
  unfold State.saveHeader
  exact Mem.wf_write _ _ (Mem.wf_write _ _ (Mem.wf_write _ _ hw))

@[simp] theorem State.saveTile_wf (s : State) (q : Part) (t : Coord) (hw : Mem.wf s.mem = true) : Mem.wf
    (State.saveTile s q t).mem = true := by
  unfold State.saveTile
  dsimp only
  refine writeAll_wf _ _ ?_
  refine Mem.wf_filter _ ?_
  refine copy_wf _ _ _ hw

@[simp] theorem State.savePcs_wf (s : State) (q : Part) (hw : Mem.wf s.mem = true) : Mem.wf (State.savePcs s q).mem
    = true := by
  unfold State.savePcs
  (try dsimp only) <;> (repeat' split) <;>
    try simp +contextual -implicitDefEqProofs (maxDischargeDepth := 20) [hw, nextOr,  Mem.wf_write, Mem.wf_set,
      Mem.wf_filter, Mem.wf_foldl_set, foldl_wf, apply_ite State.mem]

@[simp] theorem State.writeBlock_wf (s : State) (q : Part) (t : Coord) (b : Binding) (was : List Nat) (hw : Mem.wf
    s.mem = true) : Mem.wf (State.writeBlock s q t b was).mem = true := by
  unfold State.writeBlock
  (try dsimp only) <;> (repeat' split) <;>
    try simp +contextual -implicitDefEqProofs (maxDischargeDepth := 20) [hw, nextOr,  Mem.wf_write, Mem.wf_set,
      Mem.wf_filter, Mem.wf_foldl_set, foldl_wf, apply_ite State.mem]

@[simp] theorem State.blockQuads_wf (s : State) (q : Part) (t : Coord) (b : Binding) (i : Fin 4) (f : SlotFlit) (hw
    : Mem.wf s.mem = true) : Mem.wf (State.blockQuads s q t b i f).mem = true := by
  unfold State.blockQuads
  (try dsimp only) <;> (repeat' split) <;>
    try simp +contextual -implicitDefEqProofs (maxDischargeDepth := 20) [hw, nextOr,  Mem.wf_write, Mem.wf_set,
      Mem.wf_filter, Mem.wf_foldl_set, foldl_wf, apply_ite State.mem]

@[simp] theorem State.saveCarousel_wf (s : State) (q : Part) (hw : Mem.wf s.mem = true) : Mem.wf
    (State.saveCarousel s q).mem = true := by
  unfold State.saveCarousel
  refine foldl_wf _ (fun s t h => ?_) _ _ (foldl_wf _ (fun s b h => by simp [h]) _ _ hw)
  dsimp only
  split
  · exact h
  · rw [State.modTile_mem]
    refine foldl_wf _ (fun s f h => ?_) _ _ ?_
    · split
      · exact h
      · simp [h]
    · split <;> simp [h]

@[simp] theorem State.loadCarousel_wf (s : State) (q : Part) (hw : Mem.wf s.mem = true) : Mem.wf
    (State.loadCarousel s q).mem = true := by
  unfold State.loadCarousel
  refine foldl_wf _ (fun s port h => ?_) _ _ hw
  split
  · exact h
  · split
    · exact h
    · refine foldl_wf _ (fun s i h => ?_) _ _ (by simp [h])
      exact foldl_wf _ (fun s k h => by simp [h]) _ _ h

@[simp] theorem State.withdraw_mem (s : State) (pid : Nat) : (State.withdraw s pid).mem = s.mem := by
  unfold State.withdraw
  (try dsimp only) <;> (repeat' split) <;> try simp -implicitDefEqProofs [nextOr, foldl_mem, apply_ite State.mem]

@[simp] theorem State.writeOut_wf (s : State) (pid : Nat) (hw : Mem.wf s.mem = true) : Mem.wf (State.writeOut s
    pid).mem = true := by
  unfold State.writeOut
  split
  · exact hw
  · next q _ =>
    split
    · exact hw
    · dsimp only
      split
      · apply State.refreshHeader_wf
        rw [State.modPart_mem, foldl_mem _ (fun s t => by simp)]
        exact hw
      · have key : ∀ (b : Bool) (s2 : State), Mem.wf s2.mem = true →
            Mem.wf (if b then s2 else (s2.withdraw pid).first [.event (.trapMessage pid)]).mem = true := by
          intro b s2 h; split <;> simp [h]
        apply key
        rw [State.modPart_mem, foldl_mem _ (fun s t => by simp)]
        apply State.saveHeader_wf
        apply State.savePcs_wf
        exact foldl_wf _ (fun s t h => State.saveTile_wf _ _ _ h) _ _ (foldl_wf _ (fun s t h => by simp [h]) _ _ hw)

@[simp] theorem State.restoreTile_wf (s : State) (q : Part) (t : Coord) (hw : Mem.wf s.mem = true) : Mem.wf
    (State.restoreTile s q t).mem = true := by
  unfold State.restoreTile
  (try dsimp only) <;> (repeat' split) <;>
    try simp +contextual -implicitDefEqProofs (maxDischargeDepth := 20) [hw, nextOr, Mem.wf_write, Mem.wf_set,
      Mem.wf_filter, Mem.wf_foldl_set, foldl_wf, apply_ite State.mem, amoMem_wf, copy_wf]

@[simp] theorem State.restorePcs_mem (s : State) (q : Part) : (State.restorePcs s q).mem = s.mem := by
  unfold State.restorePcs
  (try dsimp only) <;> (repeat' split) <;> try simp -implicitDefEqProofs [nextOr, foldl_mem, apply_ite State.mem]

@[simp] theorem State.restorePart_wf (s : State) (pid : Nat) (hw : Mem.wf s.mem = true) : Mem.wf (State.restorePart
    s pid).mem = true := by
  unfold State.restorePart
  (try dsimp only) <;> (repeat' split) <;>
    try simp +contextual -implicitDefEqProofs (maxDischargeDepth := 20) [hw, nextOr,  Mem.wf_write, Mem.wf_set,
      Mem.wf_filter, Mem.wf_foldl_set, foldl_wf, apply_ite State.mem]

@[simp] theorem State.crsEffect_mem (s : State) (t : Coord) (a : CrsAct) : (State.crsEffect s t a).mem = s.mem := by
  unfold State.crsEffect
  (try dsimp only) <;> (repeat' split) <;> try simp -implicitDefEqProofs [nextOr, foldl_mem, apply_ite State.mem]

@[simp] theorem State.drop_mem (s : State) (p : Nat) : (State.drop s p).mem = s.mem := by
  unfold State.drop
  (try dsimp only) <;> (repeat' split) <;> try simp -implicitDefEqProofs [nextOr, foldl_mem, apply_ite State.mem]

@[simp] theorem State.carouselTake_wf (s : State) (port n : Nat) (f : LinkFlit) (hw : Mem.wf s.mem = true) : Mem.wf
    (State.carouselTake s port n f).mem = true := by
  unfold State.carouselTake
  (try dsimp only) <;> (repeat' split) <;>
    try simp +contextual -implicitDefEqProofs (maxDischargeDepth := 20) [hw, nextOr,  Mem.wf_write, Mem.wf_set,
      Mem.wf_filter, Mem.wf_foldl_set, foldl_wf, apply_ite State.mem]

@[simp] theorem State.carouselData_wf (s : State) (port : Nat) (f : LinkFlit) (hw : Mem.wf s.mem = true) : Mem.wf
    (State.carouselData s port f).mem = true := State.carouselTake_wf _ _ _ _ hw

@[simp] theorem State.carouselRelease_wf (s : State) (port : Nat) (f : LinkFlit) (hw : Mem.wf s.mem = true) :
    Mem.wf (State.carouselRelease s port f).mem = true := by
  unfold State.carouselRelease
  (try dsimp only) <;> (repeat' split) <;>
    try simp +contextual -implicitDefEqProofs (maxDischargeDepth := 20) [hw, nextOr,  Mem.wf_write, Mem.wf_set,
      Mem.wf_filter, Mem.wf_foldl_set, foldl_wf, apply_ite State.mem]

@[simp] theorem State.writeSlotFlit_wf (s : State) (t : Coord) (f : SlotFlit) (hw : Mem.wf s.mem = true) : Mem.wf
    (State.writeSlotFlit s t f).mem = true := by
  unfold State.writeSlotFlit
  (try dsimp only) <;> (repeat' split) <;>
    try simp +contextual -implicitDefEqProofs (maxDischargeDepth := 20) [hw, nextOr,  Mem.wf_write, Mem.wf_set,
      Mem.wf_filter, Mem.wf_foldl_set, foldl_wf, apply_ite State.mem]

@[simp] theorem State.deliverAll_wf (s : State) (t : Coord) (p : Nat) (hw : Mem.wf s.mem = true) : Mem.wf
    (State.deliverAll s t p).mem = true := by
  unfold State.deliverAll
  split
  · simp [hw]
  · dsimp only
    generalize hs : List.foldl (fun s f => State.writeSlotFlit s t f) _ _ = s1
    have h1 : Mem.wf s1.mem = true := by rw [← hs]; exact foldl_wf _ (fun s x h => by simp [h]) _ _ hw
    exact foldl_wf _ (fun s x h => by simp [h]) _ _ (State.deliverTile_wf _ _ _ _ h1)

@[simp] theorem State.endCause_wf (s : State) (pid c : Nat) (hw : Mem.wf s.mem = true) : Mem.wf (State.endCause s
    pid c).mem = true := by
  unfold State.endCause
  (try dsimp only) <;> (repeat' split) <;>
    try simp +contextual -implicitDefEqProofs (maxDischargeDepth := 20) [hw, nextOr,  Mem.wf_write, Mem.wf_set,
      Mem.wf_filter, Mem.wf_foldl_set, foldl_wf, apply_ite State.mem]

@[simp] theorem State.beginOut_mem (s : State) (pid : Nat) : (State.beginOut s pid).mem = s.mem := by
  unfold State.beginOut
  (try dsimp only) <;> (repeat' split) <;> try simp -implicitDefEqProofs [nextOr, foldl_mem, apply_ite State.mem]

@[simp] theorem State.addCause_wf (s : State) (pid c : Nat) (hw : Mem.wf s.mem = true) : Mem.wf (State.addCause s
    pid c).mem = true := by
  unfold State.addCause
  (try dsimp only) <;> (repeat' split) <;>
    try simp +contextual -implicitDefEqProofs (maxDischargeDepth := 20) [hw, nextOr,  Mem.wf_write, Mem.wf_set,
      Mem.wf_filter, Mem.wf_foldl_set, foldl_wf, apply_ite State.mem]

@[simp] theorem State.sendMessage_wf (s : State) (q : Part) (hw : Mem.wf s.mem = true) : Mem.wf (State.sendMessage
    s q).mem = true := by
  unfold State.sendMessage
  (try dsimp only) <;> (repeat' split) <;>
    try simp +contextual -implicitDefEqProofs (maxDischargeDepth := 20) [hw, nextOr,  Mem.wf_write, Mem.wf_set,
      Mem.wf_filter, Mem.wf_foldl_set, foldl_wf, apply_ite State.mem]

@[simp] theorem execTrapMessage_wf (pid : Nat) (s : State) (hw : Mem.wf s.mem = true) : Mem.wf (nextOr
    (execTrapMessage pid s) s).mem = true := by
  unfold execTrapMessage
  (try dsimp only) <;> (repeat' split) <;>
    try simp +contextual -implicitDefEqProofs (maxDischargeDepth := 20) [hw, nextOr,  Mem.wf_write, Mem.wf_set,
      Mem.wf_filter, Mem.wf_foldl_set, foldl_wf, apply_ite State.mem]

@[simp] theorem State.faultFrozen_wf (s : State) (pid : Nat) (l : List FRec) (hw : Mem.wf s.mem = true) : Mem.wf
    (State.faultFrozen s pid l).mem = true := by
  unfold State.faultFrozen
  (try dsimp only) <;> (repeat' split) <;>
    try simp +contextual -implicitDefEqProofs (maxDischargeDepth := 20) [hw, nextOr,  Mem.wf_write, Mem.wf_set,
      Mem.wf_filter, Mem.wf_foldl_set, foldl_wf, apply_ite State.mem]

@[simp] theorem State.haltPart_wf (s : State) (pid code : Nat) (hw : Mem.wf s.mem = true) : Mem.wf (State.haltPart
    s pid code).mem = true := by
  unfold State.haltPart
  (try dsimp only) <;> (repeat' split) <;>
    try simp +contextual -implicitDefEqProofs (maxDischargeDepth := 20) [hw, nextOr,  Mem.wf_write, Mem.wf_set,
      Mem.wf_filter, Mem.wf_foldl_set, foldl_wf, apply_ite State.mem]

@[simp] theorem State.loseSaved_wf (s : State) (q : Part) (t : Coord) (hw : Mem.wf s.mem = true) : Mem.wf
    (State.loseSaved s q t).mem = true := by
  unfold State.loseSaved
  generalize 640 * 32 = k
  dsimp only [State.modPart_mem]
  exact writeAll_wf _ _ (Mem.wf_filter _ hw)

@[simp] theorem State.isolate_wf (s : State) (pid : Nat) (t : Coord) (hw : Mem.wf s.mem = true) : Mem.wf
    (State.isolate s pid t).mem = true := by
  unfold State.isolate
  (try dsimp only) <;> (repeat' split) <;>
    try simp +contextual -implicitDefEqProofs (maxDischargeDepth := 20) [hw, nextOr,  Mem.wf_write, Mem.wf_set,
      Mem.wf_filter, Mem.wf_foldl_set, foldl_wf, apply_ite State.mem]

@[simp] theorem State.dropMessage_mem (s : State) (m : Message) : (State.dropMessage s m).mem = s.mem := by
  unfold State.dropMessage
  (try dsimp only) <;> (repeat' split) <;> try simp -implicitDefEqProofs [nextOr, foldl_mem, apply_ite State.mem]

@[simp] theorem State.exhaust_wf (s : State) (m : Message) (hw : Mem.wf s.mem = true) : Mem.wf (State.exhaust s
    m).mem = true := by
  unfold State.exhaust
  (try dsimp only) <;> (repeat' split) <;>
    try simp +contextual -implicitDefEqProofs (maxDischargeDepth := 20) [hw, nextOr,  Mem.wf_write, Mem.wf_set,
      Mem.wf_filter, Mem.wf_foldl_set, foldl_wf, apply_ite State.mem]

@[simp] theorem State.dispose_wf (s : State) (m : Message) (disp : Nat) (t : Coord) (hw : Mem.wf s.mem = true) :
    Mem.wf (State.dispose s m disp t).mem = true := by
  unfold State.dispose
  (try dsimp only) <;> (repeat' split) <;>
    try simp +contextual -implicitDefEqProofs (maxDischargeDepth := 20) [hw, nextOr,  Mem.wf_write, Mem.wf_set,
      Mem.wf_filter, Mem.wf_foldl_set, foldl_wf, apply_ite State.mem]

@[simp] theorem execChainExhaustion_wf (ticket : Nat) (s : State) (hw : Mem.wf s.mem = true) : Mem.wf (nextOr
    (execChainExhaustion ticket s) s).mem = true := by
  unfold execChainExhaustion
  (try dsimp only) <;> (repeat' split) <;>
    try simp +contextual -implicitDefEqProofs (maxDischargeDepth := 20) [hw, nextOr,  Mem.wf_write, Mem.wf_set,
      Mem.wf_filter, Mem.wf_foldl_set, foldl_wf, apply_ite State.mem]

@[simp] theorem execHeartbeat_mem (t : Coord) (k : Side) (s : State) : (nextOr (execHeartbeat t k s) s).mem = s.mem
    := by
  unfold execHeartbeat
  (try dsimp only) <;> (repeat' split) <;> try simp -implicitDefEqProofs [nextOr, foldl_mem, apply_ite State.mem]

@[simp] theorem State.hostWrite_wf (s : State) (off : Nat) (v : DWord) (hw : Mem.wf s.mem = true) : Mem.wf
    (State.hostWrite s off v).mem = true := by
  unfold State.hostWrite
  dsimp only
  repeat' split
  all_goals first | exact hw | simp [hw]

theorem State.popMessage_mem (s : State) (d h : Nat) {t : State} {r} (h : State.popMessage s d h = some (t, r)) :
    t.mem = s.mem := by
  unfold State.popMessage at h
  try simp only [bind, Except.bind, pure, Except.pure, throw, throwThe, MonadExceptOf.throw] at h
  (repeat' split at h) <;> first | (cases h; done) | (cases h; simp_all; done) | (simp_all; done) | (simp at h; obtain ⟨rfl, _⟩ := h; simp_all)

@[simp] theorem execTmsgRead_mem (die hub : Nat) (d : RegNo) (s : State) : (nextOr (execTmsgRead die hub d s)
    s).mem = s.mem := by
  unfold execTmsgRead
  repeat' split
  · rfl
  · rfl
  · next h => simpa [nextOr] using State.popMessage_mem _ _ _ h

@[simp] theorem State.writeWindow_mem (s : State) (t : Coord) (n : Fin 4) (v : DWord) : (State.writeWindow s t n
    v).mem = s.mem := by
  unfold State.writeWindow
  (try dsimp only) <;> (repeat' split) <;> try simp -implicitDefEqProofs [nextOr, foldl_mem, apply_ite State.mem]

@[simp] theorem execWindowRegisterWrite_mem (t : Coord) (n : Fin 4) (v : DWord) (s : State) : (nextOr
    (execWindowRegisterWrite t n v s) s).mem = s.mem := by
  unfold execWindowRegisterWrite
  (try dsimp only) <;> (repeat' split) <;> try simp -implicitDefEqProofs [nextOr, foldl_mem, apply_ite State.mem]

@[simp] theorem State.clearSlackmin_mem (s : State) (p : Nat) : (State.clearSlackmin s p).mem = s.mem := by
  unfold State.clearSlackmin
  (try dsimp only) <;> (repeat' split) <;> try simp -implicitDefEqProofs [nextOr, foldl_mem, apply_ite State.mem]

@[simp] theorem execSlackminRead_mem (port : Nat) (s : State) : (nextOr (execSlackminRead port s) s).mem = s.mem := by
  unfold execSlackminRead
  (try dsimp only) <;> (repeat' split) <;> try simp -implicitDefEqProofs [nextOr, foldl_mem, apply_ite State.mem]

@[simp] theorem State.readEdge_mem (s : State) (r : EdgeReg) : (State.readEdge s r).1.mem = s.mem := by
  unfold State.readEdge
  (try dsimp only) <;> (repeat' split) <;> try simp -implicitDefEqProofs [nextOr, foldl_mem, apply_ite State.mem]

@[simp] theorem State.writeReg_wf (s : State) (r : DevReg) (v : Quad) (hw : Mem.wf s.mem = true) : Mem.wf
    (State.writeReg s r v).mem = true := by
  unfold State.writeReg
  (try dsimp only) <;> (repeat' split) <;>
    try simp +contextual -implicitDefEqProofs (maxDischargeDepth := 20) [hw, nextOr,  Mem.wf_write, Mem.wf_set,
      Mem.wf_filter, Mem.wf_foldl_set, foldl_wf, apply_ite State.mem]

@[simp] theorem execRegisterWrite_wf (r : DevReg) (v : Quad) (s : State) (hw : Mem.wf s.mem = true) : Mem.wf
    (nextOr (execRegisterWrite r v s) s).mem = true := by
  unfold execRegisterWrite
  (try dsimp only) <;> (repeat' split) <;>
    try simp +contextual -implicitDefEqProofs (maxDischargeDepth := 20) [hw, nextOr,  Mem.wf_write, Mem.wf_set,
      Mem.wf_filter, Mem.wf_foldl_set, foldl_wf, apply_ite State.mem]

@[simp] theorem State.answerNow_mem (s : State) (src : LooseSrc) (r : Reply) : (State.answerNow s src r).mem =
    s.mem := by
  unfold State.answerNow
  (try dsimp only) <;> (repeat' split) <;> try simp -implicitDefEqProofs [nextOr, foldl_mem, apply_ite State.mem]

@[simp] theorem State.noteRemote_mem (s : State) (o : Outbound) (r : Reply) : (State.noteRemote s o r).mem = s.mem := by
  unfold State.noteRemote
  (try dsimp only) <;> (repeat' split) <;> try simp -implicitDefEqProofs [nextOr, foldl_mem, apply_ite State.mem]

@[simp] theorem State.dropOutbound_mem (s : State) (o : Outbound) : (State.dropOutbound s o).mem = s.mem := by
  unfold State.dropOutbound
  (try dsimp only) <;> (repeat' split) <;> try simp -implicitDefEqProofs [nextOr, foldl_mem, apply_ite State.mem]

@[simp] theorem State.response_mem (s : State) (port : Nat) (f : LinkFlit) : (State.response s port f).mem = s.mem := by
  unfold State.response
  (try dsimp only) <;> (repeat' split) <;> try simp -implicitDefEqProofs [nextOr, foldl_mem, apply_ite State.mem]

@[simp] theorem State.answerGroup_mem (s : State) (g : Nat) (r : Reply) : (State.answerGroup s g r).mem = s.mem := by
  unfold State.answerGroup
  dsimp only
  rw [foldl_mem _ (fun s x => by simp)]

@[simp] theorem State.modPorts_mem (s : State) (g : Nat) (f : Port → Port) : (State.modPorts s g f).mem = s.mem := by
  unfold State.modPorts
  (try dsimp only) <;> (repeat' split) <;> try simp -implicitDefEqProofs [nextOr, foldl_mem, apply_ite State.mem]

@[simp] theorem State.portLost_mem (s : State) (port : Nat) : (State.portLost s port).mem = s.mem := by
  unfold State.portLost
  (try dsimp only) <;> (repeat' split) <;> try simp -implicitDefEqProofs [nextOr, foldl_mem, apply_ite State.mem]

@[simp] theorem execPortLoss_mem (port : Nat) (s : State) : (nextOr (execPortLoss port s) s).mem = s.mem := by
  unfold execPortLoss
  (try dsimp only) <;> (repeat' split) <;> try simp -implicitDefEqProofs [nextOr, foldl_mem, apply_ite State.mem]

@[simp] theorem State.portWord_mem (s : State) (w : PortWord) (v : DWord) : (State.portWord s w v).mem = s.mem := by
  unfold State.portWord
  (try dsimp only) <;> (repeat' split) <;> try simp -implicitDefEqProofs [nextOr, foldl_mem, apply_ite State.mem]

@[simp] theorem State.portArrivals_mem (s : State) (pid p : Nat) : (State.portArrivals s pid p).mem = s.mem := by
  unfold State.portArrivals
  split
  · rfl
  · dsimp only
    rw [foldl_mem _ (fun s x => by split <;> simp)]; simp

@[simp] theorem execLinkFlitSend_mem (port : Nat) (s : State) : (nextOr (execLinkFlitSend port s) s).mem = s.mem := by
  unfold execLinkFlitSend
  (try dsimp only) <;> (repeat' split) <;> try simp -implicitDefEqProofs [nextOr, foldl_mem, apply_ite State.mem]

@[simp] theorem execWidthReduction_mem (dir : PortDir) (s : State) : (nextOr (execWidthReduction dir s) s).mem =
    s.mem := by
  unfold execWidthReduction
  (try dsimp only) <;> (repeat' split) <;> try simp -implicitDefEqProofs [nextOr, foldl_mem, apply_ite State.mem]

@[simp] theorem execImodeChange_mem (port : Nat) (mode : Fin 3) (s : State) : (nextOr (execImodeChange port mode s)
    s).mem = s.mem := by
  unfold execImodeChange
  (try dsimp only) <;> (repeat' split) <;> try simp -implicitDefEqProofs [nextOr, foldl_mem, apply_ite State.mem]

@[simp] theorem State.slotData_wf (s : State) (port : Nat) (f : LinkFlit) (hw : Mem.wf s.mem = true) : Mem.wf
    (State.slotData s port f).mem = true := by
  unfold State.slotData
  split
  · split
    · simp [hw]
    · dsimp only
      split
      · simp [hw]
      · split
        · refine foldl_wf _ (fun s v h => ?_) _ _ hw
          split <;> simp [h]
        · simp [hw]
  · exact hw

@[simp] theorem State.release_mem (s : State) (q : Part) (entry : Nat) (e : EdgeEntry) (ss k r : Nat) :
    (State.release s q entry e ss k r).mem = s.mem := by
  unfold State.release
  (try dsimp only) <;> (repeat' split) <;> try simp -implicitDefEqProofs [nextOr, foldl_mem, apply_ite State.mem]

@[simp] theorem execEdgeQuadRelease_mem (pid entry : Nat) (quad : SlotQuad) (s : State) : (nextOr
    (execEdgeQuadRelease pid entry quad s) s).mem = s.mem := by
  unfold execEdgeQuadRelease
  (try dsimp only) <;> (repeat' split) <;> try simp -implicitDefEqProofs [nextOr, foldl_mem, apply_ite State.mem]

@[simp] theorem State.goHome_wf (s : State) (f : Flight) (d : Dest) (sent : Bool) (hw : Mem.wf s.mem = true) :
    Mem.wf (State.goHome s f d sent).mem = true := by
  unfold State.goHome
  (try dsimp only) <;> (repeat' split) <;>
    try simp +contextual -implicitDefEqProofs (maxDischargeDepth := 20) [hw, nextOr,  Mem.wf_write, Mem.wf_set,
      Mem.wf_filter, Mem.wf_foldl_set, foldl_wf, apply_ite State.mem]

@[simp] theorem State.admitRequest_wf (s : State) (f : Flight) (die dev : Nat) (group : Option Nat) (sent : Bool) (hw : Mem.wf
    s.mem = true) : Mem.wf (State.admitRequest s f die dev group sent).mem = true := by
  unfold State.admitRequest
  dsimp only
  split
  · simp [hw]
  · exact hw
  · split
    · split
      · next hx =>
        have h1 := State.xlateAt_wf hx hw
        (repeat' split) <;> simp [h1]
      · simp [hw]
    · (repeat' split) <;> simp [hw]

@[simp] theorem State.request_wf (s : State) (port : Nat) (f : LinkFlit) (hw : Mem.wf s.mem = true) : Mem.wf
    (State.request s port f).mem = true := by
  unfold State.request
  (try dsimp only) <;> (repeat' split) <;>
    try simp +contextual -implicitDefEqProofs (maxDischargeDepth := 20) [hw, nextOr,  Mem.wf_write, Mem.wf_set,
      Mem.wf_filter, Mem.wf_foldl_set, foldl_wf, apply_ite State.mem]

@[simp] theorem State.requestSwitch_mem (s : State) (g : Nat) (next : Fin 4) (opt : BitVec 4) :
    (State.requestSwitch s g next opt).mem = s.mem := by
  unfold State.requestSwitch
  (try dsimp only) <;> (repeat' split) <;> try simp -implicitDefEqProofs [nextOr, foldl_mem, apply_ite State.mem]

@[simp] theorem execPersonalitySwitchRequest_mem (g : Nat) (next : Fin 4) (opt : BitVec 4) (s : State) : (nextOr
    (execPersonalitySwitchRequest g next opt s) s).mem = s.mem := by
  unfold execPersonalitySwitchRequest
  (try dsimp only) <;> (repeat' split) <;> try simp -implicitDefEqProofs [nextOr, foldl_mem, apply_ite State.mem]

@[simp] theorem execDrainBegin_mem (g : Nat) (s : State) : (nextOr (execDrainBegin g s) s).mem = s.mem := by
  unfold execDrainBegin
  (try dsimp only) <;> (repeat' split) <;> try simp -implicitDefEqProofs [nextOr, foldl_mem, apply_ite State.mem]

@[simp] theorem execDrainEnd_mem (g : Nat) (s : State) : (nextOr (execDrainEnd g s) s).mem = s.mem := by
  unfold execDrainEnd
  (try dsimp only) <;> (repeat' split) <;> try simp -implicitDefEqProofs [nextOr, foldl_mem, apply_ite State.mem]

@[simp] theorem State.groupLimits_mem (s : State) : (State.groupLimits s).mem = s.mem := by
  unfold State.groupLimits
  (try dsimp only) <;> (repeat' split) <;> try simp -implicitDefEqProofs [nextOr, foldl_mem, apply_ite State.mem]

@[simp] theorem execRetrainComplete_mem (g : Nat) (r : TrainResult) (s : State) : (nextOr (execRetrainComplete g r
    s) s).mem = s.mem := by
  unfold execRetrainComplete
  (try dsimp only) <;> (repeat' split) <;> try simp -implicitDefEqProofs [nextOr, foldl_mem, apply_ite State.mem]

@[simp] theorem State.sendMgmt_mem (s : State) (dev mtype t arg rmt : Nat) : (State.sendMgmt s dev mtype t arg
    rmt).mem = s.mem := by
  unfold State.sendMgmt
  (try dsimp only) <;> (repeat' split) <;> try simp -implicitDefEqProofs [nextOr, foldl_mem, apply_ite State.mem]

@[simp] theorem State.tellOthers_mem (s : State) (mtype t arg rmt : Nat) : (State.tellOthers s mtype t arg rmt).mem
    = s.mem := by
  unfold State.tellOthers
  (try dsimp only) <;> (repeat' split) <;> try simp -implicitDefEqProofs [nextOr, foldl_mem, apply_ite State.mem]

@[simp] theorem State.settleResync_mem (s : State) (a : Agreement) : (State.settleResync s a).mem = s.mem := by
  unfold State.settleResync
  (try dsimp only) <;> (repeat' split) <;> try simp -implicitDefEqProofs [nextOr, foldl_mem, apply_ite State.mem]

@[simp] theorem State.settleResyncs_mem (s : State) : (State.settleResyncs s).mem = s.mem := by
  unfold State.settleResyncs
  (try dsimp only) <;> (repeat' split) <;> try simp -implicitDefEqProofs [nextOr, foldl_mem, apply_ite State.mem]

@[simp] theorem State.reportAt_mem (s : State) (t k dev : Nat) : (State.reportAt s t k dev).mem = s.mem := by
  unfold State.reportAt
  (try dsimp only) <;> (repeat' split) <;> try simp -implicitDefEqProofs [nextOr, foldl_mem, apply_ite State.mem]

@[simp] theorem State.reportResync_mem (s : State) (t k : Nat) : (State.reportResync s t k).mem = s.mem := by
  unfold State.reportResync
  (try dsimp only) <;> (repeat' split) <;> try simp -implicitDefEqProofs [nextOr, foldl_mem, apply_ite State.mem]

@[simp] theorem State.chooseResync_mem (s : State) (t : Nat) : (State.chooseResync s t).mem = s.mem := by
  unfold State.chooseResync
  (try dsimp only) <;> (repeat' split) <;> try simp -implicitDefEqProofs [nextOr, foldl_mem, apply_ite State.mem]

@[simp] theorem State.sendNotice_mem (s : State) (q : Part) : (State.sendNotice s q).mem = s.mem := by
  unfold State.sendNotice
  (try dsimp only) <;> (repeat' split) <;> try simp -implicitDefEqProofs [nextOr, foldl_mem, apply_ite State.mem]

@[simp] theorem State.join_wf (s : State) (a : Agreement) (hw : Mem.wf s.mem = true) :
    Mem.wf (State.join s a).mem = true := by
  unfold State.join
  (try dsimp only) <;> (repeat' split) <;>
    try simp +contextual -implicitDefEqProofs (maxDischargeDepth := 20) [hw, nextOr,  Mem.wf_write, Mem.wf_set,
      Mem.wf_filter, Mem.wf_foldl_set, foldl_wf, apply_ite State.mem]

@[simp] theorem State.onProposal_wf (s : State) (src : Nat) (a : Agreement) (accepts : Part → Bool) (hw : Mem.wf s.mem = true) :
    Mem.wf (State.onProposal s src a accepts).mem = true := by
  unfold State.onProposal
  (try dsimp only) <;> (repeat' split) <;>
    try simp +contextual -implicitDefEqProofs (maxDischargeDepth := 20) [hw, nextOr,  Mem.wf_write, Mem.wf_set,
      Mem.wf_filter, Mem.wf_foldl_set, foldl_wf, apply_ite State.mem]

@[simp] theorem State.propose_wf (s : State) (t c tries : Nat) (hw : Mem.wf s.mem = true) :
    Mem.wf (State.propose s t c tries).mem = true := by
  unfold State.propose
  (try dsimp only) <;> (repeat' split) <;>
    try simp +contextual -implicitDefEqProofs (maxDischargeDepth := 20) [hw, nextOr,  Mem.wf_write, Mem.wf_set,
      Mem.wf_filter, Mem.wf_foldl_set, foldl_wf, apply_ite State.mem]

@[simp] theorem State.proposeStep_wf (s : State) (q : Part) (k step : Nat) (hw : Mem.wf s.mem = true) :
    Mem.wf (State.proposeStep s q k step).mem = true := by
  unfold State.proposeStep
  (try dsimp only) <;> (repeat' split) <;>
    try simp +contextual -implicitDefEqProofs (maxDischargeDepth := 20) [hw, nextOr,  Mem.wf_write, Mem.wf_set,
      Mem.wf_filter, Mem.wf_foldl_set, foldl_wf, apply_ite State.mem]

@[simp] theorem State.onAccept_wf (s : State) (src t v : Nat) (hw : Mem.wf s.mem = true) :
    Mem.wf (State.onAccept s src t v).mem = true := by
  unfold State.onAccept
  (try dsimp only) <;> (repeat' split) <;>
    try simp +contextual -implicitDefEqProofs (maxDischargeDepth := 20) [hw, nextOr,  Mem.wf_write, Mem.wf_set,
      Mem.wf_filter, Mem.wf_foldl_set, foldl_wf, apply_ite State.mem]

@[simp] theorem State.onReject_wf (s : State) (t v : Nat) (hw : Mem.wf s.mem = true) :
    Mem.wf (State.onReject s t v).mem = true := by
  unfold State.onReject
  (try dsimp only) <;> (repeat' split) <;>
    try simp +contextual -implicitDefEqProofs (maxDischargeDepth := 20) [hw, nextOr,  Mem.wf_write, Mem.wf_set,
      Mem.wf_filter, Mem.wf_foldl_set, foldl_wf, apply_ite State.mem]

@[simp] theorem State.onRestart_mem (s : State) (t q : Nat) : (State.onRestart s t q).mem = s.mem := by
  unfold State.onRestart
  (try dsimp only) <;> (repeat' split) <;> try simp -implicitDefEqProofs [nextOr, foldl_mem, apply_ite State.mem]

@[simp] theorem State.onNotice_mem (s : State) (src t k : Nat) : (State.onNotice s src t k).mem = s.mem := by
  unfold State.onNotice
  (try dsimp only) <;> (repeat' split) <;> try simp -implicitDefEqProofs [nextOr, foldl_mem, apply_ite State.mem]

@[simp] theorem State.mgmt_wf (s : State) (f : LinkFlit) (hw : Mem.wf s.mem = true) :
    Mem.wf (State.mgmt s f).mem = true := by
  unfold State.mgmt
  (try dsimp only) <;> (repeat' split) <;>
    try simp +contextual -implicitDefEqProofs (maxDischargeDepth := 20) [hw, nextOr,  Mem.wf_write, Mem.wf_set,
      Mem.wf_filter, Mem.wf_foldl_set, foldl_wf, apply_ite State.mem]

@[simp] theorem State.applyFlit_wf (s : State) (port : Nat) (f : LinkFlit) (hw : Mem.wf s.mem = true) : Mem.wf
    (State.applyFlit s port f).mem = true := by
  unfold State.applyFlit
  (try dsimp only) <;> (repeat' split) <;>
    try simp +contextual -implicitDefEqProofs (maxDischargeDepth := 20) [hw, nextOr,  Mem.wf_write, Mem.wf_set,
      Mem.wf_filter, Mem.wf_foldl_set, foldl_wf, apply_ite State.mem]

@[simp] theorem State.applyWire_wf (s : State) (port : Nat) (w : WireFlit) (hw : Mem.wf s.mem = true) : Mem.wf
    (State.applyWire s port w).mem = true := by
  unfold State.applyWire
  (try dsimp only) <;> (repeat' split) <;>
    try simp +contextual -implicitDefEqProofs (maxDischargeDepth := 20) [hw, nextOr,  Mem.wf_write, Mem.wf_set,
      Mem.wf_filter, Mem.wf_foldl_set, foldl_wf, apply_ite State.mem]

@[simp] theorem State.applyVerified_wf (s : State) (port n : Nat) (w : WireFlit) (hw : Mem.wf s.mem = true) : Mem.wf
    (State.applyVerified s port n w).mem = true := by
  unfold State.applyVerified
  (try dsimp only) <;> (repeat' split) <;>
    try simp +contextual -implicitDefEqProofs (maxDischargeDepth := 20) [hw, nextOr,  Mem.wf_write, Mem.wf_set,
      Mem.wf_filter, Mem.wf_foldl_set, foldl_wf, apply_ite State.mem]

@[simp] theorem State.receive_wf (s : State) (port : Nat) (w : WireFlit) (hw : Mem.wf s.mem = true) : Mem.wf
    (State.receive s port w).mem = true := by
  unfold State.receive
  (try dsimp only) <;> (repeat' split) <;>
    try simp +contextual -implicitDefEqProofs (maxDischargeDepth := 20) [hw, nextOr,  Mem.wf_write, Mem.wf_set,
      Mem.wf_filter, Mem.wf_foldl_set, foldl_wf, apply_ite State.mem]

@[simp] theorem State.integrityFault_wf (s : State) (q : Part) (t : Coord) (flt : Flt) (hw : Mem.wf s.mem = true) :
    Mem.wf (State.integrityFault s q t flt).mem = true := by
  unfold State.integrityFault
  (try dsimp only) <;> (repeat' split) <;>
    try simp +contextual -implicitDefEqProofs (maxDischargeDepth := 20) [hw, nextOr,  Mem.wf_write, Mem.wf_set,
      Mem.wf_filter, Mem.wf_foldl_set, foldl_wf, apply_ite State.mem]

@[simp] theorem State.badSlot_wf (s : State) (port : Nat) (took : List Released) (w : WireFlit) (num : Nat) (hw : Mem.wf s.mem = true) :
    Mem.wf (State.badSlot s port took w num).mem = true := by
  unfold State.badSlot
  (try dsimp only) <;> (repeat' split) <;>
    try simp +contextual -implicitDefEqProofs (maxDischargeDepth := 20) [hw, nextOr,  Mem.wf_write, Mem.wf_set,
      Mem.wf_filter, Mem.wf_foldl_set, foldl_wf, apply_ite State.mem]

@[simp] theorem execTagVerify_wf (port ctr : Nat) (s : State) (hw : Mem.wf s.mem = true) : Mem.wf (nextOr
    (execTagVerify port ctr s) s).mem = true := by
  unfold execTagVerify
  (try dsimp only) <;> (repeat' split) <;>
    try simp +contextual -implicitDefEqProofs (maxDischargeDepth := 20) [hw, nextOr,  Mem.wf_write, Mem.wf_set,
      Mem.wf_filter, Mem.wf_foldl_set, foldl_wf, apply_ite State.mem]

@[simp] theorem State.receiveIf_wf (s : State) (port : Nat) (w : WireFlit) (kind : FlitBody → Bool) (hw : Mem.wf
    s.mem = true) : Mem.wf (State.receiveIf s port w kind).mem = true := by
  unfold State.receiveIf
  (try dsimp only) <;> (repeat' split) <;>
    try simp +contextual -implicitDefEqProofs (maxDischargeDepth := 20) [hw, nextOr,  Mem.wf_write, Mem.wf_set,
      Mem.wf_filter, Mem.wf_foldl_set, foldl_wf, apply_ite State.mem]

@[simp] theorem execLinkSlotDataFlit_wf (port : Nat) (f : WireFlit) (s : State) (hw : Mem.wf s.mem = true) : Mem.wf
    (nextOr (execLinkSlotDataFlit port f s) s).mem = true := by
  unfold execLinkSlotDataFlit
  (try dsimp only) <;> (repeat' split) <;>
    try simp +contextual -implicitDefEqProofs (maxDischargeDepth := 20) [hw, nextOr,  Mem.wf_write, Mem.wf_set,
      Mem.wf_filter, Mem.wf_foldl_set, foldl_wf, apply_ite State.mem]

@[simp] theorem execCarouselDataFlit_wf (port : Nat) (f : WireFlit) (s : State) (hw : Mem.wf s.mem = true) : Mem.wf
    (nextOr (execCarouselDataFlit port f s) s).mem = true := by
  unfold execCarouselDataFlit
  (try dsimp only) <;> (repeat' split) <;>
    try simp +contextual -implicitDefEqProofs (maxDischargeDepth := 20) [hw, nextOr,  Mem.wf_write, Mem.wf_set,
      Mem.wf_filter, Mem.wf_foldl_set, foldl_wf, apply_ite State.mem]

@[simp] theorem execLinkRequestFlit_wf (port : Nat) (f : WireFlit) (s : State) (hw : Mem.wf s.mem = true) : Mem.wf
    (nextOr (execLinkRequestFlit port f s) s).mem = true := by
  unfold execLinkRequestFlit
  (try dsimp only) <;> (repeat' split) <;>
    try simp +contextual -implicitDefEqProofs (maxDischargeDepth := 20) [hw, nextOr,  Mem.wf_write, Mem.wf_set,
      Mem.wf_filter, Mem.wf_foldl_set, foldl_wf, apply_ite State.mem]

@[simp] theorem execLinkResponseFlit_wf (port : Nat) (f : WireFlit) (s : State) (hw : Mem.wf s.mem = true) : Mem.wf
    (nextOr (execLinkResponseFlit port f s) s).mem = true := by
  unfold execLinkResponseFlit
  (try dsimp only) <;> (repeat' split) <;>
    try simp +contextual -implicitDefEqProofs (maxDischargeDepth := 20) [hw, nextOr,  Mem.wf_write, Mem.wf_set,
      Mem.wf_filter, Mem.wf_foldl_set, foldl_wf, apply_ite State.mem]

@[simp] theorem execLinkIdleFlit_wf (port : Nat) (f : WireFlit) (s : State) (hw : Mem.wf s.mem = true) : Mem.wf
    (nextOr (execLinkIdleFlit port f s) s).mem = true := by
  unfold execLinkIdleFlit
  (try dsimp only) <;> (repeat' split) <;>
    try simp +contextual -implicitDefEqProofs (maxDischargeDepth := 20) [hw, nextOr,  Mem.wf_write, Mem.wf_set,
      Mem.wf_filter, Mem.wf_foldl_set, foldl_wf, apply_ite State.mem]

@[simp] theorem State.receiveMgmt_wf (s : State) (port : Nat) (f : WireFlit) (mtype : Nat) (hw : Mem.wf s.mem =
    true) : Mem.wf (State.receiveMgmt s port f mtype).mem = true := by
  unfold State.receiveMgmt
  (try dsimp only) <;> (repeat' split) <;>
    try simp +contextual -implicitDefEqProofs (maxDischargeDepth := 20) [hw, nextOr,  Mem.wf_write, Mem.wf_set,
      Mem.wf_filter, Mem.wf_foldl_set, foldl_wf, apply_ite State.mem]

@[simp] theorem execCarouselReleaseFlit_wf (port : Nat) (f : WireFlit) (s : State) (hw : Mem.wf s.mem = true) :
    Mem.wf (nextOr (execCarouselReleaseFlit port f s) s).mem = true := by
  unfold execCarouselReleaseFlit
  (try dsimp only) <;> (repeat' split) <;>
    try simp +contextual -implicitDefEqProofs (maxDischargeDepth := 20) [hw, nextOr,  Mem.wf_write, Mem.wf_set,
      Mem.wf_filter, Mem.wf_foldl_set, foldl_wf, apply_ite State.mem]

@[simp] theorem execMgmtIntermissionProposal_wf (port : Nat) (f : WireFlit) (s : State) (hw : Mem.wf s.mem = true)
    : Mem.wf (nextOr (execMgmtIntermissionProposal port f s) s).mem = true := by
  unfold execMgmtIntermissionProposal
  (try dsimp only) <;> (repeat' split) <;>
    try simp +contextual -implicitDefEqProofs (maxDischargeDepth := 20) [hw, nextOr,  Mem.wf_write, Mem.wf_set,
      Mem.wf_filter, Mem.wf_foldl_set, foldl_wf, apply_ite State.mem]

@[simp] theorem execMgmtAccept_wf (port : Nat) (f : WireFlit) (s : State) (hw : Mem.wf s.mem = true) : Mem.wf
    (nextOr (execMgmtAccept port f s) s).mem = true := by
  unfold execMgmtAccept
  (try dsimp only) <;> (repeat' split) <;>
    try simp +contextual -implicitDefEqProofs (maxDischargeDepth := 20) [hw, nextOr,  Mem.wf_write, Mem.wf_set,
      Mem.wf_filter, Mem.wf_foldl_set, foldl_wf, apply_ite State.mem]

@[simp] theorem execMgmtReject_wf (port : Nat) (f : WireFlit) (s : State) (hw : Mem.wf s.mem = true) : Mem.wf
    (nextOr (execMgmtReject port f s) s).mem = true := by
  unfold execMgmtReject
  (try dsimp only) <;> (repeat' split) <;>
    try simp +contextual -implicitDefEqProofs (maxDischargeDepth := 20) [hw, nextOr,  Mem.wf_write, Mem.wf_set,
      Mem.wf_filter, Mem.wf_foldl_set, foldl_wf, apply_ite State.mem]

@[simp] theorem execMgmtResyncReport_wf (port : Nat) (f : WireFlit) (s : State) (hw : Mem.wf s.mem = true) : Mem.wf
    (nextOr (execMgmtResyncReport port f s) s).mem = true := by
  unfold execMgmtResyncReport
  (try dsimp only) <;> (repeat' split) <;>
    try simp +contextual -implicitDefEqProofs (maxDischargeDepth := 20) [hw, nextOr,  Mem.wf_write, Mem.wf_set,
      Mem.wf_filter, Mem.wf_foldl_set, foldl_wf, apply_ite State.mem]

@[simp] theorem execMgmtRestart_wf (port : Nat) (f : WireFlit) (s : State) (hw : Mem.wf s.mem = true) : Mem.wf
    (nextOr (execMgmtRestart port f s) s).mem = true := by
  unfold execMgmtRestart
  (try dsimp only) <;> (repeat' split) <;>
    try simp +contextual -implicitDefEqProofs (maxDischargeDepth := 20) [hw, nextOr,  Mem.wf_write, Mem.wf_set,
      Mem.wf_filter, Mem.wf_foldl_set, foldl_wf, apply_ite State.mem]

@[simp] theorem execMgmtStepProposal_wf (port : Nat) (f : WireFlit) (s : State) (hw : Mem.wf s.mem = true) : Mem.wf
    (nextOr (execMgmtStepProposal port f s) s).mem = true := by
  unfold execMgmtStepProposal
  (try dsimp only) <;> (repeat' split) <;>
    try simp +contextual -implicitDefEqProofs (maxDischargeDepth := 20) [hw, nextOr,  Mem.wf_write, Mem.wf_set,
      Mem.wf_filter, Mem.wf_foldl_set, foldl_wf, apply_ite State.mem]

@[simp] theorem execMgmtResyncNotice_wf (port : Nat) (f : WireFlit) (s : State) (hw : Mem.wf s.mem = true) : Mem.wf
    (nextOr (execMgmtResyncNotice port f s) s).mem = true := by
  unfold execMgmtResyncNotice
  (try dsimp only) <;> (repeat' split) <;>
    try simp +contextual -implicitDefEqProofs (maxDischargeDepth := 20) [hw, nextOr,  Mem.wf_write, Mem.wf_set,
      Mem.wf_filter, Mem.wf_foldl_set, foldl_wf, apply_ite State.mem]

@[simp] theorem execMgmtDrained_wf (port : Nat) (f : WireFlit) (s : State) (hw : Mem.wf s.mem = true) : Mem.wf
    (nextOr (execMgmtDrained port f s) s).mem = true := by
  unfold execMgmtDrained
  (try dsimp only) <;> (repeat' split) <;>
    try simp +contextual -implicitDefEqProofs (maxDischargeDepth := 20) [hw, nextOr,  Mem.wf_write, Mem.wf_set,
      Mem.wf_filter, Mem.wf_foldl_set, foldl_wf, apply_ite State.mem]

@[simp] theorem execPowerStepRequest_wf (pid : Nat) (step : Fin 4) (s : State) (hw : Mem.wf s.mem = true) :
    Mem.wf (nextOr (execPowerStepRequest pid
    step s) s).mem = true := by
  unfold execPowerStepRequest
  (try dsimp only) <;> (repeat' split) <;>
    try simp +contextual -implicitDefEqProofs (maxDischargeDepth := 20) [hw, nextOr,  Mem.wf_write, Mem.wf_set,
      Mem.wf_filter, Mem.wf_foldl_set, foldl_wf, apply_ite State.mem]

@[simp] theorem execThermalTrip_mem (f : Stretch) (s : State) : (nextOr (execThermalTrip f s) s).mem = s.mem := by
  unfold execThermalTrip
  (try dsimp only) <;> (repeat' split) <;> try simp -implicitDefEqProofs [nextOr, foldl_mem, apply_ite State.mem]

@[simp] theorem execThermalTripEnd_mem (s : State) : (nextOr (execThermalTripEnd s) s).mem = s.mem := by
  unfold execThermalTripEnd
  (try dsimp only) <;> (repeat' split) <;> try simp -implicitDefEqProofs [nextOr, foldl_mem, apply_ite State.mem]

@[simp] theorem execTroupeIntermissionFreeze_mem (pid : Nat) (s : State) : (nextOr (execTroupeIntermissionFreeze
    pid s) s).mem = s.mem := by
  unfold execTroupeIntermissionFreeze
  (try dsimp only) <;> (repeat' split) <;> try simp -implicitDefEqProofs [nextOr, foldl_mem, apply_ite State.mem]

@[simp] theorem State.modXact_mem (s : State) (pid id : Nat) (f : Xact → Xact) : (State.modXact s pid id f).mem =
    s.mem := by
  unfold State.modXact
  (try dsimp only) <;> (repeat' split) <;> try simp -implicitDefEqProofs [nextOr, foldl_mem, apply_ite State.mem]

@[simp] theorem State.storeDue_wf (s : State) (t : Coord) (bad : List Nat) (off : Nat) (data : List Byte) (tag full
    : Bool) (w : Writer) (hw : Mem.wf s.mem = true) : Mem.wf (State.storeDue s t bad off data tag full w).mem =
    true := by
  unfold State.storeDue
  (try dsimp only) <;> (repeat' split) <;>
    try simp +contextual -implicitDefEqProofs (maxDischargeDepth := 20) [hw, nextOr,  Mem.wf_write, Mem.wf_set,
      Mem.wf_filter, Mem.wf_foldl_set, foldl_wf, apply_ite State.mem]

@[simp] theorem State.amoDue_wf (s : State) (pid : Nat) (t : Coord) (bad : List Nat) (off f size : Nat) (x e :
    DWord) (xact : Nat) (reg : Option (Fin 4 × RegNo × Nat)) (hw : Mem.wf s.mem = true) : Mem.wf (State.amoDue s
    pid t bad off f size x e xact reg).mem = true := by
  unfold State.amoDue
  (try dsimp only) <;> (repeat' split) <;>
    try simp +contextual -implicitDefEqProofs (maxDischargeDepth := 20) [hw, nextOr, Mem.wf_write, Mem.wf_set,
      Mem.wf_filter, Mem.wf_foldl_set, foldl_wf, apply_ite State.mem, amoMem_wf, copy_wf]

@[simp] theorem State.storeMaskDue_wf (s : State) (t : Coord) (bad : List Nat) (off mask : Nat) (v : Quad) (tag full : Bool)
    (w : Writer) (hw : Mem.wf s.mem = true) : Mem.wf (State.storeMaskDue s t bad off mask v tag full w).mem = true := by
  unfold State.storeMaskDue
  dsimp only
  have h1 : ∀ (l k : List (Nat × Byte)) (g : Bool), Mem.wf (k.foldl (fun s b => s.noteWrites t b.1 1)
      (l.foldl (fun s b => s.storeTile t b.1 [b.2] g full) s)).mem = true := by
    intro l k g
    rw [foldl_mem _ (fun s x => by simp)]
    exact foldl_wf _ (fun s x h => by simp [h]) _ _ hw
  (repeat' split) <;> simp only [State.modChan_mem, h1]

@[simp] theorem State.effectDue_wf (s : State) (pid : Nat) (t : Coord) (bad : List Nat) (e : Eff) (hw : Mem.wf
    s.mem = true) : Mem.wf (State.effectDue s pid t bad e).mem = true := by
  unfold State.effectDue
  (try dsimp only) <;> (repeat' split) <;>
    try simp +contextual -implicitDefEqProofs (maxDischargeDepth := 20) [hw, nextOr,  Mem.wf_write, Mem.wf_set,
      Mem.wf_filter, Mem.wf_foldl_set, foldl_wf, apply_ite State.mem]

@[simp] theorem State.tileDue_wf (s : State) (pid p : Nat) (t : Coord) (hw : Mem.wf s.mem = true) : Mem.wf
    (State.tileDue s pid p t).1.mem = true := by
  unfold State.tileDue
  (try dsimp only) <;> (repeat' split) <;>
    try simp +contextual -implicitDefEqProofs (maxDischargeDepth := 20) [hw, nextOr,  Mem.wf_write, Mem.wf_set,
      Mem.wf_filter, Mem.wf_foldl_set, foldl_wf, apply_ite State.mem]

@[simp] theorem State.allDue_wf (s : State) (q : Part) (p : Nat) (hw : Mem.wf s.mem = true) : Mem.wf (State.allDue
    s q p).1.mem = true := by
  unfold State.allDue
  dsimp only
  generalize hs : List.foldl _ _ _ = r
  have h1 : Mem.wf r.1.mem = true := by rw [← hs]; exact foldl_acc_wf _ (fun s x h => by simp [h]) _ _ hw
  simp [h1]

@[simp] theorem execPendingEffectDue_wf (pid : Nat) (s : State) (hw : Mem.wf s.mem = true) : Mem.wf (nextOr
    (execPendingEffectDue pid s) s).mem = true := by
  unfold execPendingEffectDue
  (try dsimp only) <;> (repeat' split) <;>
    try simp +contextual -implicitDefEqProofs (maxDischargeDepth := 20) [hw, nextOr,  Mem.wf_write, Mem.wf_set,
      Mem.wf_filter, Mem.wf_foldl_set, foldl_wf, apply_ite State.mem]

@[simp] theorem State.performXact_mem (s : State) (q : Part) (x : Xact) (e : Nat → Eff) : (State.performXact s q x
    e).mem = s.mem := by
  unfold State.performXact
  (try dsimp only) <;> (repeat' split) <;> try simp -implicitDefEqProofs [nextOr, foldl_mem, apply_ite State.mem]

@[simp] theorem execPutPerform_mem (pid id : Nat) (s : State) : (nextOr (execPutPerform pid id s) s).mem = s.mem := by
  unfold execPutPerform
  (try dsimp only) <;> (repeat' split) <;> try simp -implicitDefEqProofs [nextOr, foldl_mem, apply_ite State.mem]

@[simp] theorem execAmoPerform_mem (pid id : Nat) (s : State) : (nextOr (execAmoPerform pid id s) s).mem = s.mem := by
  unfold execAmoPerform
  (try dsimp only) <;> (repeat' split) <;> try simp -implicitDefEqProofs [nextOr, foldl_mem, apply_ite State.mem]

@[simp] theorem State.journalRead_mem (s : State) (q : Part) (x : Xact) : (State.journalRead s q x).mem = s.mem := by
  unfold State.journalRead
  (try dsimp only) <;> (repeat' split) <;> try simp -implicitDefEqProofs [nextOr, foldl_mem, apply_ite State.mem]

@[simp] theorem State.answerXact_mem (s : State) (q : Part) (x : Xact) : (State.answerXact s q x).mem = s.mem := by
  unfold State.answerXact
  (try dsimp only) <;> (repeat' split) <;> try simp -implicitDefEqProofs [nextOr, foldl_mem, apply_ite State.mem]

@[simp] theorem execPutAnswer_mem (pid id : Nat) (s : State) : (nextOr (execPutAnswer pid id s) s).mem = s.mem := by
  unfold execPutAnswer
  (try dsimp only) <;> (repeat' split) <;> try simp -implicitDefEqProofs [nextOr, foldl_mem, apply_ite State.mem]

@[simp] theorem execAmoAnswer_mem (pid id : Nat) (s : State) : (nextOr (execAmoAnswer pid id s) s).mem = s.mem := by
  unfold execAmoAnswer
  (try dsimp only) <;> (repeat' split) <;> try simp -implicitDefEqProofs [nextOr, foldl_mem, apply_ite State.mem]

@[simp] theorem execMissedSlot_mem (t : Coord) (entry : Nat) (s : State) : (nextOr (execMissedSlot t entry s)
    s).mem = s.mem := by
  unfold execMissedSlot
  (try dsimp only) <;> (repeat' split) <;> try simp -implicitDefEqProofs [nextOr, foldl_mem, apply_ite State.mem]

@[simp] theorem State.turn_mem (s : State) (pid : Nat) : (State.turn s pid).mem = s.mem := by
  unfold State.turn
  (try dsimp only) <;> (repeat' split) <;> try simp -implicitDefEqProofs [nextOr, foldl_mem, apply_ite State.mem]

@[simp] theorem State.turnFromCounts_mem (s : State) (q : Part) : (State.turnFromCounts s q).mem = s.mem := by
  unfold State.turnFromCounts
  (try dsimp only) <;> (repeat' split) <;> try simp -implicitDefEqProofs [nextOr, foldl_mem, apply_ite State.mem]

@[simp] theorem execTurnstile_mem (pid : Nat) (s : State) : (nextOr (execTurnstile pid s) s).mem = s.mem := by
  unfold execTurnstile
  (try dsimp only) <;> (repeat' split) <;> try simp -implicitDefEqProofs [nextOr, foldl_mem, apply_ite State.mem]

@[simp] theorem State.modEntry_mem (s : State) (seq : Nat) (f : Entry → Entry) : (State.modEntry s seq f).mem =
    s.mem := by
  unfold State.modEntry
  (try dsimp only) <;> (repeat' split) <;> try simp -implicitDefEqProofs [nextOr, foldl_mem, apply_ite State.mem]

@[simp] theorem State.writeRecord_wf (s : State) (r : Record) (hw : Mem.wf s.mem = true) : Mem.wf
    (State.writeRecord s r).mem = true := by
  unfold State.writeRecord
  (try dsimp only) <;> (repeat' split) <;>
    try simp +contextual -implicitDefEqProofs (maxDischargeDepth := 20) [hw, nextOr,  Mem.wf_write, Mem.wf_set,
      Mem.wf_filter, Mem.wf_foldl_set, foldl_wf, apply_ite State.mem]

@[simp] theorem State.setRecord_wf (s : State) (seq : Nat) (f : Record → Record) (hw : Mem.wf s.mem = true) :
    Mem.wf (State.setRecord s seq f).mem = true := by
  unfold State.setRecord
  (try dsimp only) <;> (repeat' split) <;>
    try simp +contextual -implicitDefEqProofs (maxDischargeDepth := 20) [hw, nextOr,  Mem.wf_write, Mem.wf_set,
      Mem.wf_filter, Mem.wf_foldl_set, foldl_wf, apply_ite State.mem]

@[simp] theorem State.holdEdges_wf (s : State) (q : Part) (hw : Mem.wf s.mem = true) : Mem.wf (State.holdEdges s
    q).mem = true := by
  unfold State.holdEdges
  refine foldl_wf _ (fun s x h => ?_) _ _ hw
  split <;> simp [h]

@[simp] theorem State.closeBanks_mem (s : State) (q : Part) : (State.closeBanks s q).mem = s.mem := by
  unfold State.closeBanks
  (try dsimp only) <;> (repeat' split) <;> try simp -implicitDefEqProofs [nextOr, foldl_mem, apply_ite State.mem]

@[simp] theorem State.openBanks_mem (s : State) (q : Part) : (State.openBanks s q).mem = s.mem := by
  unfold State.openBanks
  (try dsimp only) <;> (repeat' split) <;> try simp -implicitDefEqProofs [nextOr, foldl_mem, apply_ite State.mem]

@[simp] theorem State.faultMeets_mem (s : State) (q : Part) : (State.faultMeets s q).mem = s.mem := by
  unfold State.faultMeets
  (try dsimp only) <;> (repeat' split) <;> try simp -implicitDefEqProofs [nextOr, foldl_mem, apply_ite State.mem]

@[simp] theorem State.freezeNow_wf (s : State) (pid : Nat) (hw : Mem.wf s.mem = true) : Mem.wf (State.freezeNow s
    pid).mem = true := by
  unfold State.freezeNow
  split
  · exact hw
  · next q _ =>
    have h1 : Mem.wf (((if q.causes.contains 1 then s.faultMeets q else s).saveHeader q).saveCarousel q).mem = true := by
      apply State.saveCarousel_wf
      apply State.saveHeader_wf
      split <;> simp [hw]
    generalize ((if q.causes.contains 1 then s.faultMeets q else s).saveHeader q).saveCarousel q = s1 at h1
    dsimp only
    generalize h2 : State.holdEdges _ q = s2
    have w2 : Mem.wf s2.mem = true := by rw [← h2]; exact State.holdEdges_wf _ _ (by simp [h1])
    generalize h3 : (List.foldl State.reportRecord s2 q.faults).closeBanks q = s3
    have w3 : Mem.wf s3.mem = true := by
      rw [← h3, State.closeBanks_mem]; exact foldl_wf _ (fun s x h => by simp [h]) _ _ w2
    generalize h4 : List.foldl State.releasePc _ q.tt.owned = s5
    have w5 : Mem.wf s5.mem = true := by
      rw [← h4]; refine foldl_wf _ (fun s x h => by simp [h]) _ _ ?_
      split <;> simp [w3]
    split
    · exact w5
    · next x _ =>
      have k6 : ∀ b : Prop, [Decidable b] → Mem.wf (if b then s5.beginOut pid else s5).mem = true := by
        intro b _; split <;> simp [w5]
      have k7 : ∀ (b : Prop) [Decidable b] (s6 : State), Mem.wf s6.mem = true →
          Mem.wf (if b then s6.reportResync x.lrec.troupe (x.ss - 1) else s6).mem = true := by
        intro b _ s6 h; split <;> simp [h]
      have k8 : ∀ (b : Prop) [Decidable b] (s7 : State), Mem.wf s7.mem = true → Mem.wf (if b then s7.writeOut pid else s7).mem = true := by
        intro b _ s7 h; split <;> simp [h]
      have k9 : ∀ (b : Prop) [Decidable b] (s8 : State), Mem.wf s8.mem = true →
          Mem.wf (if b then s8.first [.event (.trapMessage pid)] else s8).mem = true := by
        intro b _ s8 h; split <;> simp [h]
      exact k9 _ _ (k8 _ _ (k7 _ _ (k6 _)))

@[simp] theorem State.performHeld_wf (s : State) (a : Loose) (hw : Mem.wf s.mem = true) : Mem.wf (State.performHeld
    s a).mem = true := by
  unfold State.performHeld
  (try dsimp only) <;> (repeat' split) <;>
    try simp +contextual -implicitDefEqProofs (maxDischargeDepth := 20) [hw, nextOr,  Mem.wf_write, Mem.wf_set,
      Mem.wf_filter, Mem.wf_foldl_set, foldl_wf, apply_ite State.mem]

@[simp] theorem State.performLaunchHeld_wf (s : State) (pid : Nat) (hw : Mem.wf s.mem = true) : Mem.wf
    (State.performLaunchHeld s pid).mem = true := by
  unfold State.performLaunchHeld
  split
  · exact hw
  · split
    · exact foldl_wf _ (fun s x h => by simp [h]) _ _ (by simp [hw])
    · exact hw

@[simp] theorem State.closeCycle_wf (s : State) (pid : Nat) (hw : Mem.wf s.mem = true) : Mem.wf (State.closeCycle s
    pid).mem = true := by
  unfold State.closeCycle
  split
  · exact hw
  · dsimp only
    have key : ∀ s2 : State, Mem.wf s2.mem = true → Mem.wf (if s2.isFreezing pid then s2.freezeNow pid else s2).mem = true := by
      intro s2 h; split <;> simp [h]
    exact key _ (by simp [hw])

@[simp] theorem State.pickPart_wf (s : State) (q : Part) (base cur x : Snap) (hw : Mem.wf s.mem = true) : Mem.wf
    (State.pickPart s q base cur x).mem = true := by
  unfold State.pickPart pickMem
  exact Mem.wf_foldl_set _ _ _ (Mem.wf_filter _ hw)

@[simp] theorem State.withSnap_wf (s : State) (q : Part) (n : Snap) (hw : Mem.wf s.mem = true) : Mem.wf
    (State.withSnap s q n).mem = true := by
  unfold State.withSnap
  (try dsimp only) <;> (repeat' split) <;>
    try simp +contextual -implicitDefEqProofs (maxDischargeDepth := 20) [hw, nextOr,  Mem.wf_write, Mem.wf_set,
      Mem.wf_filter, Mem.wf_foldl_set, foldl_wf, apply_ite State.mem]

@[simp] theorem State.endEffects_wf (s : State) (q : Part) (hw : Mem.wf s.mem = true) : Mem.wf (State.endEffects s
    q).1.mem = true := by
  unfold State.endEffects
  dsimp only
  refine foldl_wf _ (fun s t h => ?_) _ _ (foldl_wf _ (fun s t h => ?_) _ _ (State.allDue_wf _ _ _ hw))
  · split
    · split
      · rw [execMmaComplete_mem]; exact h
      · exact h
    · exact h
  · split
    · split
      · rw [execImageTransferComplete_mem]; exact h
      · exact h
    · exact h

@[simp] theorem State.releaseLate_mem (s : State) (pid : Nat) (r : FRec) : (State.releaseLate s pid r).mem = s.mem := by
  unfold State.releaseLate
  (try dsimp only) <;> (repeat' split) <;> try simp -implicitDefEqProofs [nextOr, foldl_mem, apply_ite State.mem]

@[simp] theorem State.applyHeld_wf (s : State) (q : Part) (h : HeldRec) (hw : Mem.wf s.mem = true) : Mem.wf
    (State.applyHeld s q h).mem = true := by
  unfold State.applyHeld
  (try dsimp only) <;> (repeat' split) <;>
    try simp +contextual -implicitDefEqProofs (maxDischargeDepth := 20) [hw, nextOr,  Mem.wf_write, Mem.wf_set,
      Mem.wf_filter, Mem.wf_foldl_set, foldl_wf, apply_ite State.mem]

@[simp] theorem State.applyArrivals_wf (s : State) (q : Part) (hw : Mem.wf s.mem = true) : Mem.wf
    (State.applyArrivals s q).mem = true := by
  unfold State.applyArrivals
  (try dsimp only) <;> (repeat' split) <;>
    try simp +contextual -implicitDefEqProofs (maxDischargeDepth := 20) [hw, nextOr,  Mem.wf_write, Mem.wf_set,
      Mem.wf_filter, Mem.wf_foldl_set, foldl_wf, apply_ite State.mem]

@[simp] theorem State.reread_mem (s : State) (q : Part) : (State.reread s q).mem = s.mem := by
  unfold State.reread
  (try dsimp only) <;> (repeat' split) <;> try simp -implicitDefEqProofs [nextOr, foldl_mem, apply_ite State.mem]

@[simp] theorem State.setBack_wf (s : State) (q : Part) (u : Undo) (r : Reissue) (hw : Mem.wf s.mem = true) :
    Mem.wf (State.setBack s q u r).mem = true := by
  unfold State.setBack
  (try dsimp only) <;> (repeat' split) <;>
    try simp +contextual -implicitDefEqProofs (maxDischargeDepth := 20) [hw, nextOr,  Mem.wf_write, Mem.wf_set,
      Mem.wf_filter, Mem.wf_foldl_set, foldl_wf, apply_ite State.mem]

@[simp] theorem State.beginRestart_wf (s : State) (pid : Nat) (hw : Mem.wf s.mem = true) : Mem.wf
    (State.beginRestart s pid).mem = true := by
  unfold State.beginRestart
  split
  · exact hw
  · next q _ =>
    dsimp only
    rw [State.first_mem]
    have key : ∀ (b : Bool) (s6 : State), Mem.wf s6.mem = true → Mem.wf (if b then s6.sendNotice q else s6).mem = true := by
      intro b s6 h; split <;> simp [h]
    apply key
    refine foldl_wf _ (fun s x h => by simp [h]) _ _ ?_
    split <;> simp [hw]

@[simp] theorem State.endEffectsPast_wf (s : State) (q : Part) (old : List FRec) (hw : Mem.wf s.mem = true) : Mem.wf
    (State.endEffectsPast s q old).1.mem = true := by
  unfold State.endEffectsPast
  simp [hw]

@[simp] theorem State.lateEffects_wf (s : State) (q : Part) (old : List FRec) (hw : Mem.wf s.mem = true) : Mem.wf
    (State.lateEffects s q old).mem = true := by
  unfold State.lateEffects
  split
  · exact foldl_wf _ (fun s x h => by simp [h]) _ _ (by simp [hw])
  · exact hw

@[simp] theorem State.combine_wf (s : State) (q : Part) (r : Reissue) (d : Redo) (hw : Mem.wf s.mem = true) :
    Mem.wf (State.combine s q r d).mem = true := by
  unfold State.combine
  (try dsimp only) <;> (repeat' split) <;>
    try simp +contextual -implicitDefEqProofs (maxDischargeDepth := 20) [hw, nextOr,  Mem.wf_write, Mem.wf_set,
      Mem.wf_filter, Mem.wf_foldl_set, foldl_wf, apply_ite State.mem]

@[simp] theorem State.reissueDogs_mem (s : State) (q : Part) : (State.reissueDogs s q).mem = s.mem := by
  unfold State.reissueDogs
  refine foldl_mem _ (fun s t => ?_) _ _
  exact foldl_mem _ (fun s k => execHeartbeat_mem _ _ _) _ _

@[simp] theorem State.endReissue_wf (s : State) (pid : Nat) (hw : Mem.wf s.mem = true) : Mem.wf (State.endReissue s
    pid).mem = true := by
  unfold State.endReissue
  split
  · exact hw
  · next q _ =>
    split
    · exact hw
    · next r _ =>
      have key : ∀ s4 : State, Mem.wf s4.mem = true → Mem.wf (if s4.isFreezing pid then s4.freezeNow pid else s4).mem = true := by
        intro s4 h; split <;> simp [h]
      have turned : ∀ (b : Bool) (s3 : State), Mem.wf s3.mem = true →
          Mem.wf (if (q.turnDue && !s3.isFreezing pid) = true then
            if b = true then s3.turn pid
            else match s3.part pid with
              | some q2 => s3.turnFromCounts q2
              | none => s3
          else s3).mem = true := by
        intro b s3 h
        repeat' split
        all_goals simp [h]
      refine key _ (turned _ _ ?_)
      rw [State.modPart_mem]
      refine foldl_wf _ (fun s x h => by simp [h]) _ _ ?_
      split <;> simp [hw]

@[simp] theorem execRestart_wf (pid : Nat) (s : State) (hw : Mem.wf s.mem = true) : Mem.wf (nextOr (execRestart pid
    s) s).mem = true := by
  unfold execRestart
  (try dsimp only) <;> (repeat' split) <;>
    try simp +contextual -implicitDefEqProofs (maxDischargeDepth := 20) [hw, nextOr,  Mem.wf_write, Mem.wf_set,
      Mem.wf_filter, Mem.wf_foldl_set, foldl_wf, apply_ite State.mem]

@[simp] theorem execTroupeRestart_wf (pid : Nat) (s : State) (hw : Mem.wf s.mem = true) : Mem.wf (nextOr
    (execTroupeRestart pid s) s).mem = true := by
  unfold execTroupeRestart
  (try dsimp only) <;> (repeat' split) <;>
    try simp +contextual -implicitDefEqProofs (maxDischargeDepth := 20) [hw, nextOr,  Mem.wf_write, Mem.wf_set,
      Mem.wf_filter, Mem.wf_foldl_set, foldl_wf, apply_ite State.mem]

@[simp] theorem State.settleXlate_wf (s : State) (q : Part) (hw : Mem.wf s.mem = true) : Mem.wf (State.settleXlate
    s q).mem = true := by
  unfold State.settleXlate
  (try dsimp only) <;> (repeat' split) <;>
    try simp +contextual -implicitDefEqProofs (maxDischargeDepth := 20) [hw, nextOr,  Mem.wf_write, Mem.wf_set,
      Mem.wf_filter, Mem.wf_foldl_set, foldl_wf, apply_ite State.mem]

@[simp] theorem State.freezeBetween_wf (s : State) (pid cause : Nat) (hw : Mem.wf s.mem = true) : Mem.wf
    (State.freezeBetween s pid cause).mem = true := by
  unfold State.freezeBetween
  (try dsimp only) <;> (repeat' split) <;>
    try simp +contextual -implicitDefEqProofs (maxDischargeDepth := 20) [hw, nextOr,  Mem.wf_write, Mem.wf_set,
      Mem.wf_filter, Mem.wf_foldl_set, foldl_wf, apply_ite State.mem]

@[simp] theorem execIntermissionFreeze_wf (pid : Nat) (s : State) (hw : Mem.wf s.mem = true) : Mem.wf (nextOr
    (execIntermissionFreeze pid s) s).mem = true := by
  unfold execIntermissionFreeze
  (try dsimp only) <;> (repeat' split) <;>
    try simp +contextual -implicitDefEqProofs (maxDischargeDepth := 20) [hw, nextOr,  Mem.wf_write, Mem.wf_set,
      Mem.wf_filter, Mem.wf_foldl_set, foldl_wf, apply_ite State.mem]

@[simp] theorem State.intermit_wf (s : State) (pid : Nat) (hw : Mem.wf s.mem = true) : Mem.wf (State.intermit s
    pid).mem = true := by
  unfold State.intermit
  (try dsimp only) <;> (repeat' split) <;>
    try simp +contextual -implicitDefEqProofs (maxDischargeDepth := 20) [hw, nextOr,  Mem.wf_write, Mem.wf_set,
      Mem.wf_filter, Mem.wf_foldl_set, foldl_wf, apply_ite State.mem]

@[simp] theorem execWriteOutComplete_wf (pid : Nat) (s : State) (hw : Mem.wf s.mem = true) : Mem.wf (nextOr
    (execWriteOutComplete pid s) s).mem = true := by
  unfold execWriteOutComplete
  (try dsimp only) <;> (repeat' split) <;>
    try simp +contextual -implicitDefEqProofs (maxDischargeDepth := 20) [hw, nextOr,  Mem.wf_write, Mem.wf_set,
      Mem.wf_filter, Mem.wf_foldl_set, foldl_wf, apply_ite State.mem]

@[simp] theorem execRestoredPartitionStart_wf (pid : Nat) (s : State) (hw : Mem.wf s.mem = true) : Mem.wf (nextOr
    (execRestoredPartitionStart pid s) s).mem = true := by
  unfold execRestoredPartitionStart
  split
  · exact hw
  · split
    · rw [nextOr_next]; simp [hw]
    · split
      · next q _ _ _ =>
        rw [nextOr_next]
        have k : ∀ (s1 : State), Mem.wf s1.mem = true → ∀ (b : Prop) [Decidable b] (c : Prop) [Decidable c],
            Mem.wf (if c then (if b then s1.reportResync q.lrec.troupe q.ss else s1).beginRestart pid
              else (if b then s1.reportResync q.lrec.troupe q.ss else s1)).mem = true := by
          intro s1 h b _ c _; split <;> split <;> simp [h]
        refine k _ ?_ _ _
        simp [hw]
      · exact hw

@[simp] theorem execFrzctlFreeze_wf (pid : Nat) (s : State) (hw : Mem.wf s.mem = true) : Mem.wf (nextOr
    (execFrzctlFreeze pid s) s).mem = true := by
  unfold execFrzctlFreeze
  (try dsimp only) <;> (repeat' split) <;>
    try simp +contextual -implicitDefEqProofs (maxDischargeDepth := 20) [hw, nextOr,  Mem.wf_write, Mem.wf_set,
      Mem.wf_filter, Mem.wf_foldl_set, foldl_wf, apply_ite State.mem]

@[simp] theorem execFrzctlEndRequest_wf (pid : Nat) (s : State) (hw : Mem.wf s.mem = true) : Mem.wf (nextOr
    (execFrzctlEndRequest pid s) s).mem = true := by
  unfold execFrzctlEndRequest
  (try dsimp only) <;> (repeat' split) <;>
    try simp +contextual -implicitDefEqProofs (maxDischargeDepth := 20) [hw, nextOr,  Mem.wf_write, Mem.wf_set,
      Mem.wf_filter, Mem.wf_foldl_set, foldl_wf, apply_ite State.mem]

@[simp] theorem execFrzctlIntermission_wf (pid : Nat) (s : State) (hw : Mem.wf s.mem = true) : Mem.wf (nextOr
    (execFrzctlIntermission pid s) s).mem = true := by
  unfold execFrzctlIntermission
  (try dsimp only) <;> (repeat' split) <;>
    try simp +contextual -implicitDefEqProofs (maxDischargeDepth := 20) [hw, nextOr,  Mem.wf_write, Mem.wf_set,
      Mem.wf_filter, Mem.wf_foldl_set, foldl_wf, apply_ite State.mem]

@[simp] theorem execFrzctlRetire_wf (pid : Nat) (s : State) (hw : Mem.wf s.mem = true) : Mem.wf (nextOr
    (execFrzctlRetire pid s) s).mem = true := by
  unfold execFrzctlRetire
  (try dsimp only) <;> (repeat' split) <;>
    try simp +contextual -implicitDefEqProofs (maxDischargeDepth := 20) [hw, nextOr,  Mem.wf_write, Mem.wf_set,
      Mem.wf_filter, Mem.wf_foldl_set, foldl_wf, apply_ite State.mem]

@[simp] theorem State.scanOne_wf (s : State) (hw : Mem.wf s.mem = true) : Mem.wf (State.scanOne s).mem = true := by
  unfold State.scanOne
  (try dsimp only) <;> (repeat' split) <;>
    try simp +contextual -implicitDefEqProofs (maxDischargeDepth := 20) [hw, nextOr,  Mem.wf_write, Mem.wf_set,
      Mem.wf_filter, Mem.wf_foldl_set, foldl_wf, apply_ite State.mem]

theorem State.scanMany_wf (n : Nat) (s : State) (hw : Mem.wf s.mem = true) : Mem.wf (State.scanMany n s).mem = true
    := by
  induction n generalizing s with
  | zero => exact hw
  | succ n ih => exact ih _ (by simp [hw])
@[simp] theorem execJournalScan_wf (s : State) (hw : Mem.wf s.mem = true) : Mem.wf (nextOr (execJournalScan s)
    s).mem = true := by
  unfold execJournalScan
  split
  · exact State.scanMany_wf _ _ hw
  · exact hw

@[simp] theorem execImageStaged_mem (seq : Nat) (s : State) : (nextOr (execImageStaged seq s) s).mem = s.mem := by
  unfold execImageStaged
  (try dsimp only) <;> (repeat' split) <;> try simp -implicitDefEqProofs [nextOr, foldl_mem, apply_ite State.mem]

@[simp] theorem State.clearPins_mem (s : State) (q : Part) : (State.clearPins s q).mem = s.mem := by
  unfold State.clearPins
  (try dsimp only) <;> (repeat' split) <;> try simp -implicitDefEqProofs [nextOr, foldl_mem, apply_ite State.mem]

@[simp] theorem State.free_wf (s : State) (q : Part) (hw : Mem.wf s.mem = true) : Mem.wf (State.free s q).mem =
    true := by
  unfold State.free
  (try dsimp only) <;> (repeat' split) <;>
    try simp +contextual -implicitDefEqProofs (maxDischargeDepth := 20) [hw, nextOr,  Mem.wf_write, Mem.wf_set,
      Mem.wf_filter, Mem.wf_foldl_set, foldl_wf, apply_ite State.mem]

@[simp] theorem State.retire_wf (s : State) (q : Part) (hw : Mem.wf s.mem = true) : Mem.wf (State.retire s q).mem =
    true := by
  unfold State.retire
  (try dsimp only) <;> (repeat' split) <;>
    try simp +contextual -implicitDefEqProofs (maxDischargeDepth := 20) [hw, nextOr,  Mem.wf_write, Mem.wf_set,
      Mem.wf_filter, Mem.wf_foldl_set, foldl_wf, apply_ite State.mem]

@[simp] theorem State.retireAll_wf (s : State) (hw : Mem.wf s.mem = true) : Mem.wf (State.retireAll s).mem = true := by
  unfold State.retireAll
  (try dsimp only) <;> (repeat' split) <;>
    try simp +contextual -implicitDefEqProofs (maxDischargeDepth := 20) [hw, nextOr,  Mem.wf_write, Mem.wf_set,
      Mem.wf_filter, Mem.wf_foldl_set, foldl_wf, apply_ite State.mem]

@[simp] theorem State.refuse_wf (s : State) (seq code : Nat) (hw : Mem.wf s.mem = true) : Mem.wf (State.refuse s
    seq code).mem = true := by
  unfold State.refuse
  (try dsimp only) <;> (repeat' split) <;>
    try simp +contextual -implicitDefEqProofs (maxDischargeDepth := 20) [hw, nextOr,  Mem.wf_write, Mem.wf_set,
      Mem.wf_filter, Mem.wf_foldl_set, foldl_wf, apply_ite State.mem]

@[simp] theorem State.startHarvest_wf (s : State) (r : Record) (hw : Mem.wf s.mem = true) : Mem.wf
    (State.startHarvest s r).mem = true := by
  unfold State.startHarvest
  (try dsimp only) <;> (repeat' split) <;>
    try simp +contextual -implicitDefEqProofs (maxDischargeDepth := 20) [hw, nextOr,  Mem.wf_write, Mem.wf_set,
      Mem.wf_filter, Mem.wf_foldl_set, foldl_wf, apply_ite State.mem]

@[simp] theorem State.startSignLog_wf (s : State) (r : Record) (hw : Mem.wf s.mem = true) : Mem.wf
    (State.startSignLog s r).mem = true := by
  unfold State.startSignLog
  (try dsimp only) <;> (repeat' split) <;>
    try simp +contextual -implicitDefEqProofs (maxDischargeDepth := 20) [hw, nextOr,  Mem.wf_write, Mem.wf_set,
      Mem.wf_filter, Mem.wf_foldl_set, foldl_wf, apply_ite State.mem]

@[simp] theorem State.startTrapAnswer_wf (s : State) (r : Record) (hw : Mem.wf s.mem = true) : Mem.wf
    (State.startTrapAnswer s r).mem = true := by
  unfold State.startTrapAnswer
  (try dsimp only) <;> (repeat' split) <;>
    try simp +contextual -implicitDefEqProofs (maxDischargeDepth := 20) [hw, nextOr,  Mem.wf_write, Mem.wf_set,
      Mem.wf_filter, Mem.wf_foldl_set, foldl_wf, apply_ite State.mem]

@[simp] theorem State.startSpareSwap_wf (s : State) (r : Record) (hw : Mem.wf s.mem = true) : Mem.wf
    (State.startSpareSwap s r).mem = true := by
  unfold State.startSpareSwap
  (try dsimp only) <;> (repeat' split) <;>
    try simp +contextual -implicitDefEqProofs (maxDischargeDepth := 20) [hw, nextOr,  Mem.wf_write, Mem.wf_set,
      Mem.wf_filter, Mem.wf_foldl_set, foldl_wf, apply_ite State.mem]

@[simp] theorem State.startAttest_wf (s : State) (r : Record) (hw : Mem.wf s.mem = true) : Mem.wf
    (State.startAttest s r).mem = true := by
  unfold State.startAttest
  (try dsimp only) <;> (repeat' split) <;>
    try simp +contextual -implicitDefEqProofs (maxDischargeDepth := 20) [hw, nextOr,  Mem.wf_write, Mem.wf_set,
      Mem.wf_filter, Mem.wf_foldl_set, foldl_wf, apply_ite State.mem]

@[simp] theorem State.startCommand_wf (s : State) (r : Record) (hw : Mem.wf s.mem = true) : Mem.wf
    (State.startCommand s r).mem = true := by
  unfold State.startCommand
  (try dsimp only) <;> (repeat' split) <;>
    try simp +contextual -implicitDefEqProofs (maxDischargeDepth := 20) [hw, nextOr,  Mem.wf_write, Mem.wf_set,
      Mem.wf_filter, Mem.wf_foldl_set, foldl_wf, apply_ite State.mem]

@[simp] theorem State.finishCommand_wf (s : State) (r : Record) (hw : Mem.wf s.mem = true) : Mem.wf
    (State.finishCommand s r).mem = true := by
  unfold State.finishCommand
  (try dsimp only) <;> (repeat' split) <;>
    try simp +contextual -implicitDefEqProofs (maxDischargeDepth := 20) [hw, nextOr,  Mem.wf_write, Mem.wf_set,
      Mem.wf_filter, Mem.wf_foldl_set, foldl_wf, apply_ite State.mem]

@[simp] theorem State.finishCommands_wf (s : State) (hw : Mem.wf s.mem = true) : Mem.wf (State.finishCommands
    s).mem = true := by
  unfold State.finishCommands
  (try dsimp only) <;> (repeat' split) <;>
    try simp +contextual -implicitDefEqProofs (maxDischargeDepth := 20) [hw, nextOr,  Mem.wf_write, Mem.wf_set,
      Mem.wf_filter, Mem.wf_foldl_set, foldl_wf, apply_ite State.mem]

@[simp] theorem State.startCommands_wf (s : State) (hw : Mem.wf s.mem = true) : Mem.wf (State.startCommands s).mem
    = true := by
  unfold State.startCommands
  refine foldl_wf _ (fun s a h => ?_) _ _ hw
  (try dsimp only); split <;> simp [h]

@[simp] theorem execHarvest_wf (seq : Nat) (s : State) (hw : Mem.wf s.mem = true) : Mem.wf (nextOr (execHarvest seq
    s) s).mem = true := by
  unfold execHarvest commandEvent
  split <;> simp [nextOr, hw]

@[simp] theorem execSignLog_wf (seq : Nat) (s : State) (hw : Mem.wf s.mem = true) : Mem.wf (nextOr (execSignLog seq
    s) s).mem = true := by
  unfold execSignLog commandEvent
  split <;> simp [nextOr, hw]

@[simp] theorem execTrapAnswer_wf (seq : Nat) (s : State) (hw : Mem.wf s.mem = true) : Mem.wf (nextOr
    (execTrapAnswer seq s) s).mem = true := by
  unfold execTrapAnswer commandEvent
  split <;> simp [nextOr, hw]

@[simp] theorem execSpareSwap_wf (seq : Nat) (s : State) (hw : Mem.wf s.mem = true) : Mem.wf (nextOr (execSpareSwap
    seq s) s).mem = true := by
  unfold execSpareSwap commandEvent
  split <;> simp [nextOr, hw]

@[simp] theorem execAttest_wf (seq : Nat) (s : State) (hw : Mem.wf s.mem = true) : Mem.wf (nextOr (execAttest seq
    s) s).mem = true := by
  unfold execAttest commandEvent
  split <;> simp [nextOr, hw]

@[simp] theorem State.loadPins_mem (s : State) (q : Part) : (State.loadPins s q).mem = s.mem := by
  unfold State.loadPins
  (try dsimp only) <;> (repeat' split) <;> try simp -implicitDefEqProofs [nextOr, foldl_mem, apply_ite State.mem]

@[simp] theorem State.ownPcs_mem (s : State) (q : Part) : (State.ownPcs s q).mem = s.mem := by
  unfold State.ownPcs
  (try dsimp only) <;> (repeat' split) <;> try simp -implicitDefEqProofs [nextOr, foldl_mem, apply_ite State.mem]

@[simp] theorem State.admitRecord_wf (s : State) (r : Record) (pid : Nat) (o : Nat × Nat) (hw : Mem.wf s.mem =
    true) : Mem.wf (State.admitRecord s r pid o).mem = true := by
  unfold State.admitRecord
  (try dsimp only) <;> (repeat' split) <;>
    try simp +contextual -implicitDefEqProofs (maxDischargeDepth := 20) [hw, nextOr,  Mem.wf_write, Mem.wf_set,
      Mem.wf_filter, Mem.wf_foldl_set, foldl_wf, apply_ite State.mem]

@[simp] theorem State.placeAgain_wf (s : State) (q : Part) (hw : Mem.wf s.mem = true) : Mem.wf (State.placeAgain s
    q).mem = true := by
  unfold State.placeAgain
  (try dsimp only) <;> (repeat' split) <;>
    try simp +contextual -implicitDefEqProofs (maxDischargeDepth := 20) [hw, nextOr,  Mem.wf_write, Mem.wf_set,
      Mem.wf_filter, Mem.wf_foldl_set, foldl_wf, apply_ite State.mem]

@[simp] theorem State.admitRestore_wf (s : State) (r : Record) (pid : Nat) (o : Nat × Nat) (hw : Mem.wf s.mem =
    true) : Mem.wf (State.admitRestore s r pid o).mem = true := by
  unfold State.admitRestore
  (try dsimp only) <;> (repeat' split) <;>
    try simp +contextual -implicitDefEqProofs (maxDischargeDepth := 20) [hw, nextOr,  Mem.wf_write, Mem.wf_set,
      Mem.wf_filter, Mem.wf_foldl_set, foldl_wf, apply_ite State.mem]

@[simp] theorem State.requestIntermission_wf (s : State) (c : Candidate) (hw : Mem.wf s.mem = true) :
    Mem.wf (State.requestIntermission s c).mem = true := by
  unfold State.requestIntermission
  (try dsimp only) <;> (repeat' split) <;>
    try simp +contextual -implicitDefEqProofs (maxDischargeDepth := 20) [hw, nextOr,  Mem.wf_write, Mem.wf_set,
      Mem.wf_filter, Mem.wf_foldl_set, foldl_wf, apply_ite State.mem]

@[simp] theorem State.skip_mem (s : State) (seq : Nat) : (State.skip s seq).mem = s.mem := by
  unfold State.skip
  (try dsimp only) <;> (repeat' split) <;> try simp -implicitDefEqProofs [nextOr, foldl_mem, apply_ite State.mem]

@[simp] theorem State.refuseLate_wf (s : State) (hw : Mem.wf s.mem = true) : Mem.wf (State.refuseLate s).mem = true
    := by
  unfold State.refuseLate
  (try dsimp only) <;> (repeat' split) <;>
    try simp +contextual -implicitDefEqProofs (maxDischargeDepth := 20) [hw, nextOr,  Mem.wf_write, Mem.wf_set,
      Mem.wf_filter, Mem.wf_foldl_set, foldl_wf, apply_ite State.mem]

@[simp] theorem State.moveHead_mem (s : State) : (State.moveHead s).mem = s.mem := by
  unfold State.moveHead
  (try dsimp only) <;> (repeat' split) <;> try simp -implicitDefEqProofs [nextOr, foldl_mem, apply_ite State.mem]

theorem State.examine_wf {s : State} {c : Candidate} {t : State} (hw : Mem.wf s.mem = true) (h : s.examine c =
    .admitted t ∨ s.examine c = .refused t) : Mem.wf t.mem = true := by
  unfold State.examine at h
  dsimp only at h
  (repeat' split at h) <;> rcases h with h | h <;> cases h <;> simp [hw]
theorem State.examineAll_wf (l : List Candidate) (b : Bool) (s : State) (hw : Mem.wf s.mem = true) : Mem.wf
    (State.examineAll b l s).mem = true := by
  induction l generalizing b s with
  | nil => exact hw
  | cons c r ih =>
    unfold State.examineAll
    split
    · next h => exact State.examine_wf hw (.inl h)
    · next h => exact ih _ _ (State.examine_wf hw (.inr h))
    · dsimp only
      have h1 : Mem.wf ((if b = true then s.requestIntermission c else s).skip c.lrec.seq).mem = true := by
        split <;> simp [hw]
      generalize (if b = true then s.requestIntermission c else s).skip c.lrec.seq = s1 at h1
      split
      · exact h1
      · exact ih _ _ h1
@[simp] theorem State.admissions_wf (s : State) (hw : Mem.wf s.mem = true) : Mem.wf (State.admissions s).mem = true
    := by
  unfold State.admissions
  dsimp only
  (repeat' split) <;> try exact hw
  all_goals exact State.examineAll_wf _ _ _ (by simp [hw])

@[simp] theorem execLaunchSlot_wf (s : State) (hw : Mem.wf s.mem = true) : Mem.wf (nextOr (execLaunchSlot s) s).mem
    = true := by
  unfold execLaunchSlot
  split
  · exact hw
  · have h0 : Mem.wf s.retireAll.finishCommands.startCommands.mem = true := State.startCommands_wf _ (State.finishCommands_wf _ (State.retireAll_wf _ hw))
    have h1 := foldl_wf (fun s t => nextOr (execSpareSwapExecute t s) s) (fun s x h => by rw [execSpareSwapExecute_mem]; exact h) s.retireAll.finishCommands.startCommands.ring.swaps _ h0
    exact (congrArg Mem.wf (State.moveHead_mem _)).trans (State.admissions_wf _ (State.refuseLate_wf _ h1))

theorem admitEvent_wf (seq kind : Nat) (s : State) (hw : Mem.wf s.mem = true) : Mem.wf (nextOr (admitEvent seq kind
    s) s).mem = true := by
  unfold admitEvent
  split
  · exact hw
  · split
    · split
      · next h => exact State.examine_wf hw (.inl h)
      · next h => exact State.examine_wf hw (.inr h)
      · exact hw
    · exact hw
@[simp] theorem execLaunch_wf (seq : Nat) (s : State) (hw : Mem.wf s.mem = true) : Mem.wf (nextOr (execLaunch seq
    s) s).mem = true := by
  exact admitEvent_wf _ _ _ hw

@[simp] theorem execRestore_wf (seq : Nat) (s : State) (hw : Mem.wf s.mem = true) : Mem.wf (nextOr (execRestore seq
    s) s).mem = true := by
  exact admitEvent_wf _ _ _ hw

@[simp] theorem State.loadSegment_wf (s : State) (from' : List Host.Cell) (im : Nat) (t : Coord) (g : Segment) (hw
    : Mem.wf s.mem = true) : Mem.wf (State.loadSegment s from' im t g).mem = true := by
  unfold State.loadSegment
  dsimp only
  split <;> exact copyFrom_wf _ _ _ _ hw

@[simp] theorem State.loadTile_wf (s : State) (from' : List Host.Cell) (im : Nat) (t : Coord) (hw : Mem.wf s.mem =
    true) : Mem.wf (State.loadTile s from' im t).mem = true := by
  unfold State.loadTile
  dsimp only
  exact foldl_wf _ (fun s x h => by simp [h]) _ _ (by simp [hw])

@[simp] theorem execPartitionStart_wf (pid : Nat) (s : State) (hw : Mem.wf s.mem = true) : Mem.wf (nextOr
    (execPartitionStart pid s) s).mem = true := by
  unfold execPartitionStart
  split
  · exact hw
  · split
    · next q _ _ =>
      dsimp only [nextOr_next]
      apply State.setRecord_wf
      rw [State.modPart_mem]
      rw [State.modEntry_mem]
      exact foldl_wf _ (fun s' x h => State.loadTile_wf _ _ _ _ h) _ _ hw
    · exact hw

@[simp] theorem State.askAgain_mem (s : State) (a : Loose) : (State.askAgain s a).mem = s.mem := by
  unfold State.askAgain
  (try dsimp only) <;> (repeat' split) <;> try simp -implicitDefEqProofs [nextOr, foldl_mem, apply_ite State.mem]

@[simp] theorem State.writeFrzctl_wf (s : State) (pid cmd : Nat) (hw : Mem.wf s.mem = true) : Mem.wf
    (State.writeFrzctl s pid cmd).mem = true := by
  unfold State.writeFrzctl
  split <;> simp [hw]

@[simp] theorem State.writeRingReg_wf (s : State) (off : Nat) (v : DWord) (hw : Mem.wf s.mem = true) : Mem.wf
    (State.writeRingReg s off v).mem = true := by
  unfold State.writeRingReg
  (try dsimp only) <;> (repeat' split) <;>
    try simp +contextual -implicitDefEqProofs (maxDischargeDepth := 20) [hw, nextOr,  Mem.wf_write, Mem.wf_set,
      Mem.wf_filter, Mem.wf_foldl_set, foldl_wf, apply_ite State.mem]

@[simp] theorem State.writeEdge_wf (s : State) (r : EdgeReg) (v : Quad) (hw : Mem.wf s.mem = true) : Mem.wf
    (State.writeEdge s r v).mem = true := by
  unfold State.writeEdge
  (try dsimp only) <;> (repeat' split) <;>
    try simp +contextual -implicitDefEqProofs (maxDischargeDepth := 20) [hw, nextOr,  Mem.wf_write, Mem.wf_set,
      Mem.wf_filter, Mem.wf_foldl_set, foldl_wf, apply_ite State.mem]

set_option maxRecDepth 200000 in
theorem State.hubRegWrite_wf {s t : State} {d h num : Nat} {v : Quad} (hh : s.hubRegWrite d h num v = some t) (hw :
    Mem.wf s.mem = true) : Mem.wf t.mem = true := by
  unfold State.hubRegWrite at hh
  dsimp only at hh
  split at hh
  · cases hh; simp [hw]
  · exact State.xdone_wf hh hw
  · exact State.dlog_wf hh hw
  · split at hh
    · cases hh; simp [hw]
    · cases hh
def Served.left : Served → State
  | .now s _ => s
  | .later s => s
theorem State.servePop_wf {s : State} {a : Loose} {r : Option (State × Quad)} (h : ∀ t q, r = some (t, q) → t.mem =
    s.mem) : (s.servePop a r).left.mem = s.mem := by
  unfold State.servePop
  split
  · exact h _ _ rfl
  · simp [Served.left]
theorem State.serveHubReg_wf (s : State) (a : Loose) (d h num : Nat) (hw : Mem.wf s.mem = true) : Mem.wf
    (s.serveHubReg a d h num).left.mem = true := by
  unfold State.serveHubReg
  dsimp only
  split
  · split
    · exact hw
    · split
      · rw [State.servePop_wf]; exact hw
        intro t q h; exact State.popMessage_mem _ _ _ h
      · split
        · rw [State.servePop_wf]; exact hw
          intro t q h; exact State.popXmsg_mem _ _ h
        · split <;> exact hw
  · split
    · simp [Served.left, hw]
    · split
      · split
        · exact hw
        · simp [Served.left, hw]
      · split
        · next h => exact State.hubRegWrite_wf h hw
        · exact hw
theorem serveReg_wf {s : State} {a : Loose} {r : State × Nat} {w : State} (hs : Mem.wf s.mem = true) (hr : Mem.wf
    r.1.mem = true) (hw : Mem.wf w.mem = true) : Mem.wf (serveReg s a r w).left.mem = true := by
  unfold serveReg
  split <;> assumption
theorem State.serveSystem_wf (s : State) (a : Loose) (hw : Mem.wf s.mem = true) : Mem.wf (s.serveSystem a).left.mem
    = true := by
  unfold State.serveSystem
  dsimp only
  split
  · simp [Served.left, hw]
  · exact State.serveHubReg_wf _ _ _ _ _ hw
  · refine serveReg_wf hw hw ?_
    split <;> simp [hw]
  · exact serveReg_wf hw hw hw
  · exact serveReg_wf hw hw (by simp [hw])
  · exact serveReg_wf hw (by simp [hw]) (by simp [hw])
@[simp] theorem State.arriveSystem_wf (s : State) (a : Loose) (hw : Mem.wf s.mem = true) : Mem.wf
    (State.arriveSystem s a).mem = true := by
  unfold State.arriveSystem
  have h1 := State.serveSystem_wf s a hw
  split
  · next h => rw [h] at h1; simp [Served.left] at h1; simp [h1]
  · next h => rw [h] at h1; exact h1

@[simp] theorem execLooseTileArrival_wf (a : Loose) (s : State) (hw : Mem.wf s.mem = true) : Mem.wf (nextOr
    (execLooseTileArrival a s) s).mem = true := by
  unfold execLooseTileArrival
  (try dsimp only) <;> (repeat' split) <;>
    try simp +contextual -implicitDefEqProofs (maxDischargeDepth := 20) [hw, nextOr,  Mem.wf_write, Mem.wf_set,
      Mem.wf_filter, Mem.wf_foldl_set, foldl_wf, apply_ite State.mem]

@[simp] theorem execLooseHbmAccess_wf (a : Loose) (s : State) (hw : Mem.wf s.mem = true) : Mem.wf (nextOr
    (execLooseHbmAccess a s) s).mem = true := by
  unfold execLooseHbmAccess
  (try dsimp only) <;> (repeat' split) <;>
    try simp +contextual -implicitDefEqProofs (maxDischargeDepth := 20) [hw, nextOr,  Mem.wf_write, Mem.wf_set,
      Mem.wf_filter, Mem.wf_foldl_set, foldl_wf, apply_ite State.mem]

@[simp] theorem State.arriveDevice_wf (s : State) (a : Flight) (hw : Mem.wf s.mem = true) : Mem.wf
    (State.arriveDevice s a).mem = true := by
  unfold State.arriveDevice
  (try dsimp only) <;> (repeat' split) <;>
    try simp +contextual -implicitDefEqProofs (maxDischargeDepth := 20) [hw, nextOr,  Mem.wf_write, Mem.wf_set,
      Mem.wf_filter, Mem.wf_foldl_set, foldl_wf, apply_ite State.mem]

@[simp] theorem State.arrive_wf (s : State) (a : Flight) (hw : Mem.wf s.mem = true) : Mem.wf (State.arrive s a).mem
    = true := by
  unfold State.arrive
  dsimp only
  (repeat' split) <;> simp [hw]

@[simp] theorem State.arriveFlight_wf (s : State) (id : Nat) (hw : Mem.wf s.mem = true) : Mem.wf
    (State.arriveFlight s id).mem = true := by
  unfold State.arriveFlight
  (try dsimp only) <;> (repeat' split) <;>
    try simp +contextual -implicitDefEqProofs (maxDischargeDepth := 20) [hw, nextOr, Mem.wf_write, Mem.wf_set,
      Mem.wf_filter, Mem.wf_foldl_set, foldl_wf, apply_ite State.mem, amoMem_wf, copy_wf]

@[simp] theorem execHubAccessAnswer_mem (die hub : Nat) (ans : Reply) (s : State) : (nextOr (execHubAccessAnswer
    die hub ans s) s).mem = s.mem := by
  unfold execHubAccessAnswer
  (try dsimp only) <;> (repeat' split) <;> try simp -implicitDefEqProofs [nextOr, foldl_mem, apply_ite State.mem]

@[simp] theorem execDeferredDeliveryWrite_wf (pid id : Nat) (s : State) (hw : Mem.wf s.mem = true) : Mem.wf (nextOr
    (execDeferredDeliveryWrite pid id s) s).mem = true := by
  unfold execDeferredDeliveryWrite
  (try dsimp only) <;> (repeat' split) <;>
    try simp +contextual -implicitDefEqProofs (maxDischargeDepth := 20) [hw, nextOr,  Mem.wf_write, Mem.wf_set,
      Mem.wf_filter, Mem.wf_foldl_set, foldl_wf, apply_ite State.mem]

@[simp] theorem State.planStart_wf (s : State) (pid : Nat) (hw : Mem.wf s.mem = true) : Mem.wf (State.planStart s
    pid).mem = true := by
  unfold State.planStart
  (try dsimp only) <;> (repeat' split) <;>
    try simp +contextual -implicitDefEqProofs (maxDischargeDepth := 20) [hw, nextOr,  Mem.wf_write, Mem.wf_set,
      Mem.wf_filter, Mem.wf_foldl_set, foldl_wf, apply_ite State.mem]

@[simp] theorem State.keepUndo_mem (s : State) (q : Part) : (State.keepUndo s q).mem = s.mem := by
  unfold State.keepUndo
  (try dsimp only) <;> (repeat' split) <;> try simp -implicitDefEqProofs [nextOr, foldl_mem, apply_ite State.mem]

@[simp] theorem State.planMid_mem (s : State) (pid : Nat) : (State.planMid s pid).mem = s.mem := by
  unfold State.planMid
  (try dsimp only) <;> (repeat' split) <;> try simp -implicitDefEqProofs [nextOr, foldl_mem, apply_ite State.mem]

@[simp] theorem State.planLate_mem (s : State) (pid : Nat) : (State.planLate s pid).mem = s.mem := by
  unfold State.planLate
  (try dsimp only) <;> (repeat' split) <;> try simp -implicitDefEqProofs [nextOr, foldl_mem, apply_ite State.mem]

@[simp] theorem State.planClose_mem (s : State) (pid : Nat) : (State.planClose s pid).mem = s.mem := by
  unfold State.planClose
  (try dsimp only) <;> (repeat' split) <;> try simp -implicitDefEqProofs [nextOr, foldl_mem, apply_ite State.mem]

@[simp] theorem State.plan_wf (s : State) (st : Stage) (pid : Nat) (hw : Mem.wf s.mem = true) : Mem.wf (State.plan
    s st pid).mem = true := by
  unfold State.plan
  (try dsimp only) <;> (repeat' split) <;>
    try simp +contextual -implicitDefEqProofs (maxDischargeDepth := 20) [hw, nextOr,  Mem.wf_write, Mem.wf_set,
      Mem.wf_filter, Mem.wf_foldl_set, foldl_wf, apply_ite State.mem]

@[simp] theorem State.wakeHub_mem (s : State) (k : Nat) : (State.wakeHub s k).mem = s.mem := by
  unfold State.wakeHub
  (try dsimp only) <;> (repeat' split) <;> try simp -implicitDefEqProofs [nextOr, foldl_mem, apply_ite State.mem]

@[simp] theorem State.admitAnswer_mem (s : State) (src : LooseSrc) (r : Reply) : (State.admitAnswer s src r).mem =
    s.mem := by
  unfold State.admitAnswer
  (try dsimp only) <;> (repeat' split) <;> try simp -implicitDefEqProofs [nextOr, foldl_mem, apply_ite State.mem]

@[simp] theorem State.admitInput_mem (s : State) (i : Instr) : (State.admitInput s i).mem = s.mem := by
  unfold State.admitInput
  (try dsimp only) <;> (repeat' split) <;> try simp -implicitDefEqProofs [nextOr, foldl_mem, apply_ite State.mem]

@[simp] theorem State.beginCycle_wf (s : State) (hw : Mem.wf s.mem = true) : Mem.wf (State.beginCycle s).mem = true
    := by
  unfold State.beginCycle
  dsimp only
  refine foldl_wf _ (fun s x h => by simp [h]) _ _ ?_
  refine foldl_wf _ (fun s x h => by simp [h]) _ _ ?_
  rw [State.settleResyncs_mem]
  exact foldl_wf _ (fun s x h => by simp [h]) _ _ (by simp [hw])

@[simp] theorem State.setLoop_mem (s : State) (cx : Cx) (l : LoopSt) : (State.setLoop s cx l).mem = s.mem := by
  unfold State.setLoop
  (try dsimp only) <;> (repeat' split) <;> try simp -implicitDefEqProofs [nextOr, foldl_mem, apply_ite State.mem]

@[simp] theorem execHoldExpiry_mem (t : Coord) (k : Side) (slot : Fin 4) (s : State) : (nextOr (execHoldExpiry t k
    slot s) s).mem = s.mem := by
  unfold execHoldExpiry
  (try dsimp only) <;> (repeat' split) <;> try simp -implicitDefEqProofs [nextOr, foldl_mem, apply_ite State.mem]

end Sys2Proof.Machine
end

