-- ==== Sys2Proof/Laws/Capability.lean ====
section
/-! SUPPORT. Laws of the capability layout: the cursor of a capability as a number, and of one whose cursor is replaced. -/

namespace Sys2Proof.Machine

theorem low_of_split (p c a k : Nat) (h : a < p) : (c / p * p + a) % (p * k) % p = a := by
  rw [Nat.mod_mul_right_mod, Nat.mul_comm, Nat.mul_add_mod, Nat.mod_eq_of_lt h]

/-- The bits of a capability with another cursor. -/
theorem withCur_toNat (c : Quad) (a : DWord) : (withCur c a).toNat = (c.toNat / 2 ^ 64 * 2 ^ 64 + a.toNat) % 2 ^ 128 := by
  unfold withCur
  rw [BitVec.toNat_ofNat]

/-- The cursor as a number. -/
theorem capCur_toNat (c : Quad) : (capCur c).toNat = c.toNat % 2 ^ 64 := by
  unfold capCur
  rw [BitVec.extractLsb'_toNat]; rfl

/-- A capability with another cursor has that cursor. -/
@[simp] theorem capCur_withCur (c : Quad) (a : DWord) : capCur (withCur c a) = a := by
  apply BitVec.eq_of_toNat_eq
  rw [capCur_toNat, withCur_toNat]
  have h := low_of_split (2 ^ 64) c.toNat a.toNat (2 ^ 64) a.isLt
  rw [← Nat.pow_add] at h
  exact h

end Sys2Proof.Machine
end

