-- ==== Sys2Proof/Laws/Encoding.lean ====
section
/-! SUPPORT. Laws of the encoder: what a word with its fields placed is, and the decoding of an encoded instruction from the
decoding of its number. -/

namespace Sys2Proof

/-- A word without fields. -/
theorem word_nil (b : Nat) : word b [] = some b := rfl

/-- A word with one field. -/
theorem word_one (b v k : Nat) : word b [(v, k)] = some (b + v * 2 ^ k) := rfl

/-- A field placed. -/
theorem word_cons (b v k : Nat) (r : List (Nat × Nat)) : word b ((v, k) :: r) = word (b + v * 2 ^ k) r := rfl

/-- An instruction whose number fits a word and has fields that decode to it: its encoding decodes to it. -/
theorem decode_encode_of {i : Instr} {n : Nat} (hn : encodeNat i = some n) (hlt : n < 2 ^ 32) (hd : decodeFields n = .ok i)
    (hw : i.wellFormed = true) {w : Word} (h : encode i = some w) : decode w = .ok i := by
  simp only [encode, hn, Option.map_some, Option.some.injEq] at h
  subst h
  have h32 : (BitVec.ofNat 32 n).toNat = n := by rw [BitVec.toNat_ofNat]; exact Nat.mod_eq_of_lt hlt
  simp only [decode, h32, hd, hw]
  rfl

end Sys2Proof
end

