-- ==== Sys2Proof/Laws/Issue.lean ====
section
/-! SUPPORT. Said once: what `issue` answers, and what the shared parts of an issue change and leave alone. -/

namespace Sys2Proof.Machine

/-- Where every check before its own passes, an instruction is its body. -/
theorem issue_clear {i : Instr} {pre : Cx → Chk Unit} {body : Cx → State → Chk (State × Next)} {s : State} {cx : Cx}
    (hat : At s cx) (hc : Clear i cx) (hp : pre cx = .ok ()) :
    issue i pre body s =
      match body cx s with
      | .error f => .next (raiseExact cx f s)
      | .ok (t, nx) => .next (leave i cx s t nx) := by
  obtain ⟨cur, h1, h2⟩ := hat
  simp only [issue, h1, h2, issueChecks, hc.legal, hc.timed, hp, hc.filled, hc.sound, hc.room]
  cases slotFirst i <;> rfl

/-- An instruction whose body answers. -/
theorem issue_ok {i : Instr} {pre : Cx → Chk Unit} {body : Cx → State → Chk (State × Next)} {s t : State} {cx : Cx} {nx : Next}
    (hat : At s cx) (hc : Clear i cx) (hp : pre cx = .ok ()) (hb : body cx s = .ok (t, nx)) :
    issue i pre body s = .next (leave i cx s t nx) := by
  rw [issue_clear hat hc hp, hb]

/-- An instruction whose body faults. -/
theorem issue_fault {i : Instr} {pre : Cx → Chk Unit} {body : Cx → State → Chk (State × Next)} {s : State} {cx : Cx} {f : Flt}
    (hat : At s cx) (hc : Clear i cx) (hp : pre cx = .ok ()) (hb : body cx s = .error f) :
    issue i pre body s = .next (raiseExact cx f s) := by
  rw [issue_clear hat hc hp, hb]

/-- An instruction that fails a check before its own. -/
theorem issue_check {i : Instr} {pre : Cx → Chk Unit} {body : Cx → State → Chk (State × Next)} {s : State} {cx : Cx} {f : Flt}
    (hat : At s cx) (h : issueChecks cx i pre = .error f) : issue i pre body s = .next (raiseExact cx f s) := by
  obtain ⟨cur, h1, h2⟩ := hat
  simp only [issue, h1, h2, h]

/-- Everything an issue can answer with a next state. -/
theorem issue_cases {i : Instr} {pre : Cx → Chk Unit} {body : Cx → State → Chk (State × Next)} {s t : State}
    (h : issue i pre body s = .next t) :
    ∃ cx, At s cx ∧ ((∃ f, t = raiseExact cx f s) ∨
      ∃ s' nx, issueChecks cx i pre = .ok () ∧ body cx s = .ok (s', nx) ∧ t = leave i cx s s' nx) := by
  unfold issue at h
  split at h
  · cases h
  · next cur hcur =>
    split at h
    · cases h
    · next cx hcx =>
      refine ⟨cx, ⟨cur, hcur, hcx⟩, ?_⟩
      split at h
      · next f _ => cases h; exact .inl ⟨f, rfl⟩
      · next hchk =>
        split at h
        · next f _ => cases h; exact .inl ⟨f, rfl⟩
        · next s' nx hb => cases h; exact .inr ⟨s', nx, hchk, hb, rfl⟩

/-- An issue in a state that issues answers a next state. -/
theorem issue_answers {i : Instr} {pre : Cx → Chk Unit} {body : Cx → State → Chk (State × Next)} {s : State} {cx : Cx}
    (hat : At s cx) : ∃ t, issue i pre body s = .next t := by
  obtain ⟨cur, h1, h2⟩ := hat
  simp only [issue, h1, h2]
  split
  · exact ⟨_, rfl⟩
  · split <;> exact ⟨_, rfl⟩

/-- A form that writes one result. -/
theorem issueResult_writes {i : Instr} {d : RegNo} {lat : Nat} {f : Cx → CReg} {s : State} {cx : Cx}
    (hat : At s cx) (hc : Clear i cx) : issueResult i d lat f s = .next (leave i cx s (s.result cx d lat (f cx)) .seq) :=
  issue_ok hat hc rfl rfl

/-- A ready instruction whose body answers, in the terms of claims. -/
theorem completes_of {i : Instr} {pre : Cx → Chk Unit} {body : Cx → State → Chk (State × Next)} {s t : State} {cx : Cx} {nx : Next}
    (he : exec i s = issue i pre body s) (hr : Ready i s cx) (hp : pre cx = .ok ()) (hb : body cx s = .ok (t, nx)) :
    Completes i cx s t nx := he.trans (issue_ok hr.1 hr.2 hp hb)

/-- A ready instruction whose body faults, in the terms of claims. -/
theorem raises_of {i : Instr} {pre : Cx → Chk Unit} {body : Cx → State → Chk (State × Next)} {s : State} {cx : Cx} {f : Flt}
    (he : exec i s = issue i pre body s) (hr : Ready i s cx) (hp : pre cx = .ok ()) (hb : body cx s = .error f) :
    Raises i cx s f := he.trans (issue_fault hr.1 hr.2 hp hb)

/-- A form that writes one result, in the terms of claims. -/
theorem writes_of {i : Instr} {d : RegNo} {lat : Nat} {f g : Cx → CReg} (he : ∀ s, exec i s = issueResult i d lat f s)
    (hv : ∀ cx, f cx = g cx) : Writes i d lat g := by
  intro s cx hr
  rw [Completes, he, issueResult_writes hr.1 hr.2, hv]

/-- There is one issue in a state. -/
theorem At.unique {s : State} {cx cy : Cx} (h : At s cx) (h' : At s cy) : cx = cy := by
  obtain ⟨c, h1, h2⟩ := h
  obtain ⟨c', h1', h2'⟩ := h'
  rw [h1] at h1'
  cases h1'
  rw [h2] at h2'
  exact Option.some.inj h2'

end Sys2Proof.Machine
end

