-- ==== Sys2Proof/Laws/Meanings.lean ====
section
/-! SUPPORT. What the meanings of the instruction words do to memory: each keeps the canonical form, and an issue in a tile
changes no byte in its issue cycle (stores are effects that fall due later, R28). -/

namespace Sys2Proof.Machine

/-- The issue stands in a tile. -/
def Cx.inTile (cx : Cx) : Prop := ∃ t k j tl q, cx.wh = .tile t k j tl q

/-- What a meaning may do to memory: it keeps the canonical form, and an issue in a tile changes no byte. -/
def MemOk (o : Out) (s : State) : Prop :=
  (Mem.wf s.mem = true → Mem.wf (nextOr o s).mem = true) ∧ (∀ cx, At s cx → cx.inTile → (nextOr o s).mem = s.mem)

theorem issue_memOk {i : Instr} {pre : Cx → Chk Unit} {body : Cx → State → Chk (State × Next)} {s : State}
    (h1 : ∀ cx t nx, body cx s = .ok (t, nx) → Mem.wf s.mem = true → Mem.wf t.mem = true)
    (h2 : ∀ cx t nx, cx.inTile → body cx s = .ok (t, nx) → t.mem = s.mem) : MemOk (issue i pre body s) s := by
  constructor
  · intro hw
    unfold issue
    repeat' split
    all_goals simp [nextOr, hw]
    next h => exact h1 _ _ _ h hw
  · intro cx hat ht
    obtain ⟨cur, hc, hi⟩ := hat
    simp only [issue, hc, hi]
    repeat' split
    all_goals simp [nextOr]
    next h => exact h2 _ _ _ ht h

theorem issue_keeps {i : Instr} {pre : Cx → Chk Unit} {body : Cx → State → Chk (State × Next)} {s : State}
    (h : ∀ cx t nx, body cx s = .ok (t, nx) → t.mem = s.mem) : MemOk (issue i pre body s) s :=
  issue_memOk (fun cx t nx hb hw => by rw [h cx t nx hb]; exact hw) (fun cx t nx _ hb => h cx t nx hb)

theorem tileForm_memOk {i : Instr} {f : TileCx → Cx → State → Chk State} {s : State}
    (h : ∀ tc cx t, f tc cx s = .ok t → t.mem = s.mem) : MemOk (tileForm i f s) s := by
  refine issue_keeps (fun cx t nx hb => ?_)
  (try dsimp only at hb)
  repeat' split at hb
  all_goals cases hb
  next h' => exact h _ _ _ h'

theorem hubForm_memOk {i : Instr} {f : Nat → Nat → Cx → State → Chk (State × Next)} {s : State}
    (h : ∀ d h cx t nx, f d h cx s = .ok (t, nx) → Mem.wf s.mem = true → Mem.wf t.mem = true) : MemOk (hubForm i f s) s := by
  refine issue_memOk (fun cx t nx hb hw => ?_) (fun cx t nx ht hb => ?_)
  · (try dsimp only at hb)
    split at hb
    · cases hb
    · exact h _ _ _ _ _ hb hw
  · obtain ⟨_, _, _, _, _, ht⟩ := ht
    rw [ht] at hb
    cases hb

theorem memForm_memOk {i : Instr} {f : TileCx → Cx → State → Chk State} {g : Nat → Nat → Cx → State → Chk (State ×
    Next)} {s : State}
    (hf : ∀ tc cx t, f tc cx s = .ok t → t.mem = s.mem)
    (hg : ∀ d h cx t nx, g d h cx s = .ok (t, nx) → Mem.wf s.mem = true → Mem.wf t.mem = true) : MemOk (memForm i f g s) s := by
  refine issue_memOk (fun cx t nx hb hw => ?_) (fun cx t nx ht hb => ?_)
  · (try dsimp only at hb)
    split at hb
    · exact hg _ _ _ _ _ hb hw
    · split at hb
      · cases hb
      · next h' => cases hb; rw [hf _ _ _ h']; exact hw
  · obtain ⟨_, _, _, _, _, ht⟩ := ht
    rw [ht] at hb
    (try dsimp only at hb)
    split at hb
    · cases hb
    · next h' => cases hb; exact hf _ _ _ h'

theorem issueResult_memOk {i : Instr} {d : RegNo} {lat : Nat} {f : Cx → CReg} {s : State} : MemOk (issueResult i d
    lat f s) s :=
  issue_keeps (fun cx t nx hb => by cases hb; simp)

theorem matForm_memOk {i : Instr} {f : Fin 4 → Cx → Eff} {s : State} : MemOk (matForm i f s) s :=
  tileForm_memOk (fun tc cx t hb => by cases hb; simp)

theorem cvtForm_memOk {i : Instr} {d : RegNo} {u : Bool} {p : Fmt → Nat} {rm : BitVec 3} {sx : BitVec 2} {pt : BitVec 3}
    {f : Cx → Fmt → CvtMode → Quad × FlagSet} {s : State} : MemOk (cvtForm i d u p rm sx pt f s) s := by
  refine issue_keeps (fun cx t nx hb => ?_)
  (try dsimp only at hb)
  split at hb <;> cases hb
  simp

theorem vecForm_memOk {i : Instr} {d : RegNo} {lat : Nat} {f : Cx → Quad × FlagSet} {s : State} : MemOk (vecForm i
    d lat f s) s :=
  issue_keeps (fun cx t nx hb => by cases hb; simp)

theorem roundForm_memOk {i : Instr} {d : RegNo} {lat : Nat} {f : Cx → RMode → Quad × FlagSet} {s : State} :
    MemOk (roundForm i d lat f s) s := by
  refine issue_keeps (fun cx t nx hb => ?_)
  (try dsimp only at hb)
  split at hb <;> cases hb
  simp

theorem capForm_memOk {i : Instr} {d : RegNo} {f : Cx → Chk CReg} {s : State} : MemOk (capForm i d f s) s := by
  refine issue_keeps (fun cx t nx hb => ?_)
  (try dsimp only at hb)
  split at hb <;> cases hb
  simp

theorem branch_memOk {i : Instr} {c : BrCond} {a b : RegNo} {off : BitVec 16} {s : State} : MemOk (branch i c a b
    off s) s :=
  issue_keeps (fun cx t nx hb => by cases hb; rfl)

theorem copyForm_memOk {i : Instr} {form : EngForm} {d a b : RegNo} {ch : Fin 4} {s : State} : MemOk (copyForm i
    form d a b ch s) s := by
  refine issue_keeps (fun cx t nx hb => ?_)
  (try dsimp only at hb)
  repeat' split at hb
  all_goals cases hb
  all_goals simp

theorem reduceForm_memOk {i : Instr} {form : EngForm} {d a b : RegNo} {ch : Fin 4} {s : State} : MemOk (reduceForm
    i form d a b ch s) s := by
  refine tileForm_memOk (fun tc cx t hb => ?_)
  (try dsimp only at hb)
  repeat' split at hb
  all_goals cases hb
  all_goals simp

theorem hubRemote_wf {cx : Cx} {d h : Nat} {i : Instr} {ad : DWord} {op : LooseOp} {size : Nat} {data : List Byte}
    {cmp : DWord}
    {sys : Bool} {fin : List Byte → Bool → State → State} {s t : State} {nx : Next} (hw : Mem.wf s.mem = true)
    (hf : ∀ b g s, Mem.wf s.mem = true → Mem.wf (fin b g s).mem = true)
    (hb : hubRemote cx d h i ad op size data cmp sys fin s = .ok (t, nx)) : Mem.wf t.mem = true := by
  unfold hubRemote at hb
  (try dsimp only at hb)
  repeat' split at hb
  all_goals first
    | (cases hb; done)
    | (cases hb; exact hf _ _ _ (by simp [hw]))
    | (cases hb; simp [hw]; done)
    | (rename_i hx _ _ _ _ _; have := State.xlateAt_wf hx hw; cases hb; simp [this])
    | (rename_i hx _ _ _ _; have := State.xlateAt_wf hx hw; cases hb; simp [this])
    | (rename_i hx _ _ _; have := State.xlateAt_wf hx hw; cases hb; simp [this])

theorem hubAccess_wf {cx : Cx} {d h : Nat} {i : Instr} {c : CReg} {off : Int} {size : Nat} {need : BitVec 12} {op :
    LooseOp}
    {data : List Byte} {cmp : DWord} {fin : List Byte → Bool → State → State} {s t : State} {nx : Next} (hw : Mem.wf s.mem = true)
    (hf : ∀ b g s, Mem.wf s.mem = true → Mem.wf (fin b g s).mem = true)
    (hb : hubAccess cx d h i c off size need op data cmp fin s = .ok (t, nx)) : Mem.wf t.mem = true := by
  unfold hubAccess at hb
  (try dsimp only at hb)
  repeat' split at hb
  all_goals first
    | (cases hb; done)
    | (cases hb; exact hf _ _ _ (by simp [hw]))
    | (cases hb; simp [hw]; done)
    | exact hubRemote_wf hw hf hb

theorem loadForm_memOk {i : Instr} {f : LdForm} {d a : RegNo} {off : BitVec 12} {s : State} : MemOk (loadForm i f d
    a off s) s :=
  memForm_memOk (fun tc cx t h => tileLoad_mem _ _ _ _ _ _ _ h)
    (fun dd h cx t nx hb hw => hubAccess_wf hw (fun b g s hs => by simp [hs]) hb)

theorem storeForm_memOk {i : Instr} {f : StForm} {d a : RegNo} {off : BitVec 12} {s : State} : MemOk (storeForm i f
    d a off s) s :=
  memForm_memOk (fun tc cx t h => tileStore_mem _ _ _ _ _ _ _ h)
    (fun dd h cx t nx hb hw => hubAccess_wf hw (fun b g s hs => hs) hb)

theorem atomic_memOk {i : Instr} {f : Nat} {wide : Bool} {d a b : RegNo} {e : Option RegNo} {s : State} :
    MemOk (atomic i f wide d a b e s) s := by
  unfold atomic
  dsimp only
  exact memForm_memOk (fun tc cx t h => tileAtomic_mem _ _ _ _ _ _ _ _ _ h)
    (fun dd h cx t nx hb hw => hubAccess_wf hw (fun b g s hs => by simp [hs]) hb)

theorem crsForm_memOk {i : Instr} {f : Nat} {o : Cx → Nat} {body : TileCx → Cx → Binding → State → Chk State} {s :
    State}
    (h : ∀ tc cx b t, body tc cx b s = .ok t → t.mem = s.mem) : MemOk (crsForm i f o body s) s := by
  refine tileForm_memOk (fun tc cx t hb => ?_)
  (try dsimp only at hb)
  split at hb
  · cases hb
  · exact h _ _ _ _ hb

theorem tret_memOk {i : Instr} {a : RegNo} {s : State} : MemOk (tret i a s) s := by
  refine hubForm_memOk (fun d h cx t nx hb hw => ?_)
  (try dsimp only at hb)
  repeat' split at hb
  all_goals cases hb
  simp [hw]

theorem execCvtWide_memOk (d a : RegNo) (sc rmx : BitVec 3) (sx : BitVec 2) (pt : BitVec 3) (s : State) : MemOk
    (execCvtWide d a sc rmx sx pt s) s := cvtForm_memOk
theorem execCvtWideb_memOk (d a : RegNo) (sc rmx : BitVec 3) (sx : BitVec 2) (pt : BitVec 3) (s : State) : MemOk
    (execCvtWideb d a sc rmx sx pt s) s := cvtForm_memOk
theorem execCvtPack_memOk (d a : RegNo) (sc rmx : BitVec 3) (sx : BitVec 2) (pt : BitVec 3) (s : State) : MemOk
    (execCvtPack d a sc rmx sx pt s) s := cvtForm_memOk
theorem execCvtPackb_memOk (d a : RegNo) (sc rmx : BitVec 3) (sx : BitVec 2) (pt : BitVec 3) (s : State) : MemOk
    (execCvtPackb d a sc rmx sx pt s) s := cvtForm_memOk
theorem execCvtF2b_memOk (d a : RegNo) (sc rmx : BitVec 3) (sx : BitVec 2) (pt : BitVec 3) (s : State) : MemOk
    (execCvtF2b d a sc rmx sx pt s) s := cvtForm_memOk
theorem execCvtB2f_memOk (d a : RegNo) (sc rmx : BitVec 3) (sx : BitVec 2) (pt : BitVec 3) (s : State) : MemOk
    (execCvtB2f d a sc rmx sx pt s) s := cvtForm_memOk
theorem execCvtF2i_memOk (d a : RegNo) (sc rmx : BitVec 3) (sx : BitVec 2) (pt : BitVec 3) (s : State) : MemOk
    (execCvtF2i d a sc rmx sx pt s) s := cvtForm_memOk
theorem execCvtI2f_memOk (d a : RegNo) (sc rmx : BitVec 3) (sx : BitVec 2) (pt : BitVec 3) (s : State) : MemOk
    (execCvtI2f d a sc rmx sx pt s) s := cvtForm_memOk
theorem execAmaxb_memOk (d a b : RegNo) (ty : FTy) (s : State) : MemOk (execAmaxb d a b ty s) s := issueResult_memOk
theorem execScl_memOk (sd : BitVec 3) (a : RegNo) (pos : BitVec 4) (ty : FTy) (s : State) : MemOk (execScl sd a pos
    ty s) s := by
  unfold execScl
  refine issue_keeps (fun cx t nx hb => ?_)
  (try dsimp only at hb)
  (repeat' split at hb) <;> cases hb <;> (try simp) <;> simp_all
theorem execXmit_memOk (a : RegNo) (s : State) : MemOk (execXmit a s) s := by
  refine tileForm_memOk (fun tc cx t hb => ?_)
  (try dsimp only at hb)
  (repeat' split at hb) <;> cases hb <;> (try simp) <;> simp_all
theorem execXmitM_memOk (a : RegNo) (cnt : BitVec 11) (s : State) : MemOk (execXmitM a cnt s) s := by
  refine tileForm_memOk (fun tc cx t hb => ?_)
  (try dsimp only at hb)
  (repeat' split at hb) <;> cases hb <;> (try simp) <;> simp_all
theorem execCatch_memOk (a : RegNo) (off : BitVec 11) (s : State) : MemOk (execCatch a off s) s := by
  refine tileForm_memOk (fun tc cx t hb => ?_)
  split at hb
  · cases hb
  · exact beginCatch_mem _ _ _ _ _ _ hb
theorem execCatchM_memOk (a : RegNo) (cnt : BitVec 11) (s : State) : MemOk (execCatchM a cnt s) s := by
  refine tileForm_memOk (fun tc cx t hb => ?_)
  (repeat' split at hb) <;> first | (cases hb; done) | exact beginCatch_mem _ _ _ _ _ _ hb
theorem execPut_memOk (d a : RegNo) (off : BitVec 11) (s : State) : MemOk (execPut d a off s) s := by
  refine tileForm_memOk (fun tc cx t hb => ?_)
  (try dsimp only at hb)
  (repeat' split at hb) <;> cases hb <;> (try simp) <;> simp_all
theorem execSeal_memOk (s : State) : MemOk (execSeal s) s := by
  refine tileForm_memOk (fun tc cx t hb => ?_)
  (try dsimp only at hb)
  (repeat' split at hb) <;> cases hb <;> (try simp) <;> simp_all
theorem execTrn_memOk (d : RegNo) (s : State) : MemOk (execTrn d s) s := by
  refine tileForm_memOk (fun tc cx t hb => ?_)
  (try dsimp only at hb)
  (repeat' split at hb) <;> cases hb <;> (try simp) <;> simp_all
theorem execChkLq_memOk (k : BitVec 4) (s : State) : MemOk (execChkLq k s) s := by
  refine tileForm_memOk (fun tc cx t hb => ?_)
  (try dsimp only at hb)
  (repeat' split at hb) <;> cases hb <;> (try simp) <;> simp_all
theorem execChkFe_memOk (a : RegNo) (off : BitVec 11) (s : State) : MemOk (execChkFe a off s) s := by
  refine tileForm_memOk (fun tc cx t hb => ?_)
  (try dsimp only at hb)
  (repeat' split at hb) <;> cases hb <;> (try simp) <;> simp_all
theorem execChkWp_memOk (a : RegNo) (ch : Fin 4) (s : State) : MemOk (execChkWp a ch s) s := by
  refine tileForm_memOk (fun tc cx t hb => ?_)
  (try dsimp only at hb)
  (repeat' split at hb) <;> cases hb <;> (try simp) <;> simp_all
theorem execSemUp_memOk (a : RegNo) (k : BitVec 4) (s : State) : MemOk (execSemUp a k s) s := by
  refine tileForm_memOk (fun tc cx t hb => ?_)
  (try dsimp only at hb)
  (repeat' split at hb) <;> cases hb <;> (try simp) <;> simp_all
theorem execSemChk_memOk (a : RegNo) (k : BitVec 4) (s : State) : MemOk (execSemChk a k s) s := by
  refine tileForm_memOk (fun tc cx t hb => ?_)
  (try dsimp only at hb)
  (repeat' split at hb) <;> cases hb <;> (try simp) <;> simp_all
theorem execResync_memOk (s : State) : MemOk (execResync s) s := by
  refine tileForm_memOk (fun tc cx t hb => ?_)
  (try dsimp only at hb)
  (repeat' split at hb) <;> cases hb <;> (try simp) <;> simp_all
theorem execStart_memOk (d a : RegNo) (k : BitVec 2) (s : State) : MemOk (execStart d a k s) s := by
  refine tileForm_memOk (fun tc cx t hb => ?_)
  (try dsimp only at hb)
  (repeat' split at hb) <;> cases hb <;> (try simp) <;> simp_all
theorem execStop_memOk (s : State) : MemOk (execStop s) s := by
  refine tileForm_memOk (fun tc cx t hb => ?_)
  (try dsimp only at hb)
  (repeat' split at hb) <;> cases hb <;> (try simp) <;> simp_all
theorem execRmt_memOk (d : RegNo) (sel : BitVec 3) (s : State) : MemOk (execRmt d sel s) s := issueResult_memOk
theorem execMark_memOk (a : RegNo) (mtag : BitVec 11) (s : State) : MemOk (execMark a mtag s) s := by
  refine tileForm_memOk (fun tc cx t hb => ?_)
  (try dsimp only at hb)
  (repeat' split at hb) <;> cases hb <;> (try simp) <;> simp_all
theorem execMma_memOk (z : Fin 4) (a b : RegNo) (sca scb : BitVec 3) (ha hb : BitVec 1) (s : State) : MemOk
    (execMma z a b sca scb ha hb s) s := by
  unfold execMma
  refine issue_keeps (fun cx t nx hb => ?_)
  (try dsimp only at hb)
  (repeat' split at hb) <;> cases hb <;> (try simp) <;> simp_all
theorem execMzClr_memOk (z : Fin 4) (s : State) : MemOk (execMzClr z s) s := matForm_memOk
theorem execMzAnc_memOk (a : RegNo) (z : Fin 4) (s : State) : MemOk (execMzAnc a z s) s := matForm_memOk
theorem execMzRd_memOk (d : RegNo) (sx : BitVec 2) (rmx : BitVec 3) (ty half : BitVec 1) (z : Fin 4) (row : BitVec
    3) (s : State) : MemOk (execMzRd d sx rmx ty half z row s) s := by
  refine tileForm_memOk (fun tc cx t hb => ?_)
  (try dsimp only at hb)
  (repeat' split at hb) <;> cases hb <;> (try simp) <;> simp_all
theorem execMzRaw_memOk (a : RegNo) (z : Fin 4) (s : State) : MemOk (execMzRaw a z s) s := by
  refine tileForm_memOk (fun tc cx t hb => ?_)
  (try dsimp only at hb)
  (repeat' split at hb) <;> cases hb <;> (try simp) <;> simp_all
theorem execMzAdd_memOk (a : RegNo) (z : Fin 4) (s : State) : MemOk (execMzAdd a z s) s := by
  refine tileForm_memOk (fun tc cx t hb => ?_)
  (try dsimp only at hb)
  (repeat' split at hb) <;> cases hb <;> (try simp) <;> simp_all
theorem execMzOvf_memOk (d : RegNo) (z : Fin 4) (clear : BitVec 1) (s : State) : MemOk (execMzOvf d z clear s) s := by
  refine tileForm_memOk (fun tc cx t hb => ?_)
  (try dsimp only at hb)
  (repeat' split at hb) <;> cases hb <;> (try simp) <;> simp_all
theorem execMgeo_memOk (d a : RegNo) (arr : BitVec 2) (s : State) : MemOk (execMgeo d a arr s) s := by
  refine tileForm_memOk (fun tc cx t hb => ?_)
  (try dsimp only at hb)
  (repeat' split at hb) <;> cases hb <;> (try simp) <;> simp_all
theorem execMgeoSub_memOk (a : RegNo) (arr : BitVec 2) (s : State) : MemOk (execMgeoSub a arr s) s := matForm_memOk
theorem execMsk_memOk (a : RegNo) (z : Fin 4) (s : State) : MemOk (execMsk a z s) s := matForm_memOk
theorem execTlbW_memOk (a : RegNo) (imm : BitVec 12) (s : State) : MemOk (execTlbW a imm s) s := by
  refine hubForm_memOk (fun d h cx t nx hb hw => ?_)
  (try dsimp only at hb)
  (repeat' split at hb) <;> cases hb <;> simp [hw]
theorem execTlbInv_memOk (a : RegNo) (mode : BitVec 12) (s : State) : MemOk (execTlbInv a mode s) s := by
  refine hubForm_memOk (fun d h cx t nx hb hw => ?_)
  (try dsimp only at hb)
  (repeat' split at hb) <;> cases hb <;> simp [hw]
theorem execLdB_memOk (d a : RegNo) (off : BitVec 12) (s : State) : MemOk (execLdB d a off s) s := loadForm_memOk
theorem execLdBu_memOk (d a : RegNo) (off : BitVec 12) (s : State) : MemOk (execLdBu d a off s) s := loadForm_memOk
theorem execLdH_memOk (d a : RegNo) (off : BitVec 12) (s : State) : MemOk (execLdH d a off s) s := loadForm_memOk
theorem execLdHu_memOk (d a : RegNo) (off : BitVec 12) (s : State) : MemOk (execLdHu d a off s) s := loadForm_memOk
theorem execLdW_memOk (d a : RegNo) (off : BitVec 12) (s : State) : MemOk (execLdW d a off s) s := loadForm_memOk
theorem execLdD_memOk (d a : RegNo) (off : BitVec 12) (s : State) : MemOk (execLdD d a off s) s := loadForm_memOk
theorem execLdQ_memOk (d a : RegNo) (off : BitVec 12) (s : State) : MemOk (execLdQ d a off s) s := loadForm_memOk
theorem execLdC_memOk (d a : RegNo) (off : BitVec 12) (s : State) : MemOk (execLdC d a off s) s := loadForm_memOk
theorem execLdbQ_memOk (d a : RegNo) (off : BitVec 12) (s : State) : MemOk (execLdbQ d a off s) s := loadForm_memOk
theorem execLdFe_memOk (d a : RegNo) (off : BitVec 12) (s : State) : MemOk (execLdFe d a off s) s := by
  refine tileForm_memOk (fun tc cx t hb => ?_)
  (try dsimp only at hb)
  (repeat' split at hb) <;> cases hb <;> (try simp) <;> simp_all
theorem execLdLq_memOk (a : RegNo) (off : BitVec 12) (s : State) : MemOk (execLdLq a off s) s := by
  refine tileForm_memOk (fun tc cx t hb => ?_)
  (try dsimp only at hb)
  (repeat' split at hb) <;> cases hb <;> (try simp) <;> simp_all
theorem execStB_memOk (d a : RegNo) (off : BitVec 12) (s : State) : MemOk (execStB d a off s) s := storeForm_memOk
theorem execStH_memOk (d a : RegNo) (off : BitVec 12) (s : State) : MemOk (execStH d a off s) s := storeForm_memOk
theorem execStW_memOk (d a : RegNo) (off : BitVec 12) (s : State) : MemOk (execStW d a off s) s := storeForm_memOk
theorem execStD_memOk (d a : RegNo) (off : BitVec 12) (s : State) : MemOk (execStD d a off s) s := storeForm_memOk
theorem execStQ_memOk (d a : RegNo) (off : BitVec 12) (s : State) : MemOk (execStQ d a off s) s := storeForm_memOk
theorem execStC_memOk (d a : RegNo) (off : BitVec 12) (s : State) : MemOk (execStC d a off s) s := storeForm_memOk
theorem execStFe_memOk (d a : RegNo) (off : BitVec 12) (s : State) : MemOk (execStFe d a off s) s := storeForm_memOk
theorem execStbQ_memOk (d a : RegNo) (off : BitVec 12) (s : State) : MemOk (execStbQ d a off s) s := storeForm_memOk
theorem execStSq_memOk (a : RegNo) (off : BitVec 12) (s : State) : MemOk (execStSq a off s) s := by
  refine tileForm_memOk (fun tc cx t hb => ?_)
  (try dsimp only at hb)
  (repeat' split at hb) <;> cases hb <;> (try simp) <;> simp_all
theorem execAmoAdd_memOk (d a b : RegNo) (ty : ATy) (s : State) : MemOk (execAmoAdd d a b ty s) s := atomic_memOk
theorem execAmoMax_memOk (d a b : RegNo) (ty : ATy) (s : State) : MemOk (execAmoMax d a b ty s) s := atomic_memOk
theorem execAmoMin_memOk (d a b : RegNo) (ty : ATy) (s : State) : MemOk (execAmoMin d a b ty s) s := atomic_memOk
theorem execAmoMaxu_memOk (d a b : RegNo) (ty : ATy) (s : State) : MemOk (execAmoMaxu d a b ty s) s := atomic_memOk
theorem execAmoMinu_memOk (d a b : RegNo) (ty : ATy) (s : State) : MemOk (execAmoMinu d a b ty s) s := atomic_memOk
theorem execAmoAnd_memOk (d a b : RegNo) (ty : ATy) (s : State) : MemOk (execAmoAnd d a b ty s) s := atomic_memOk
theorem execAmoOr_memOk (d a b : RegNo) (ty : ATy) (s : State) : MemOk (execAmoOr d a b ty s) s := atomic_memOk
theorem execAmoXor_memOk (d a b : RegNo) (ty : ATy) (s : State) : MemOk (execAmoXor d a b ty s) s := atomic_memOk
theorem execAmoSwap_memOk (d a b : RegNo) (ty : ATy) (s : State) : MemOk (execAmoSwap d a b ty s) s := atomic_memOk
theorem execAmoCas_memOk (d a b e : RegNo) (ty : ATy) (s : State) : MemOk (execAmoCas d a b e ty s) s := atomic_memOk
theorem execAmoFmax_memOk (d a b : RegNo) (s : State) : MemOk (execAmoFmax d a b s) s := atomic_memOk
theorem execFence_memOk (scope : BitVec 5) (s : State) : MemOk (execFence scope s) s := by
  refine memForm_memOk (fun tc cx t hb => ?_) (fun d h cx t nx hb hw => ?_)
  · split at hb <;> cases hb
    rfl
  · split at hb <;> cases hb <;> simp [hw]
theorem execCpy_memOk (d a b : RegNo) (ch : Fin 4) (s : State) : MemOk (execCpy d a b ch s) s := copyForm_memOk
theorem execCpyG_memOk (d a b : RegNo) (ch : Fin 4) (s : State) : MemOk (execCpyG d a b ch s) s := copyForm_memOk
theorem execCpyS_memOk (d a b : RegNo) (ch : Fin 4) (s : State) : MemOk (execCpyS d a b ch s) s := copyForm_memOk
theorem execCpyWp_memOk (d : RegNo) (ch : Fin 4) (s : State) : MemOk (execCpyWp d ch s) s := issueResult_memOk
theorem execGtbl_memOk (a b : RegNo) (s : State) : MemOk (execGtbl a b s) s := by
  refine tileForm_memOk (fun tc cx t hb => ?_)
  (try dsimp only at hb)
  (repeat' split at hb) <;> cases hb <;> (try simp) <;> simp_all
theorem execGput_memOk (d a b : RegNo) (ch : Fin 4) (s : State) : MemOk (execGput d a b ch s) s := reduceForm_memOk
theorem execGget_memOk (d a b : RegNo) (ch : Fin 4) (s : State) : MemOk (execGget d a b ch s) s := reduceForm_memOk
theorem execCrsOpen_memOk (a : RegNo) (s : State) : MemOk (execCrsOpen a s) s := by
  refine tileForm_memOk (fun tc cx t hb => ?_)
  (try dsimp only at hb)
  (repeat' split at hb) <;> cases hb <;> (try simp) <;> simp_all
theorem execCrsStep_memOk (d : RegNo) (s : State) : MemOk (execCrsStep d s) s := by
  refine crsForm_memOk (fun tc cx b t hb => ?_)
  (try dsimp only at hb)
  (repeat' split at hb) <;> cases hb <;> (try simp) <;> simp_all
theorem execCrsSend_memOk (a : RegNo) (s : State) : MemOk (execCrsSend a s) s := by
  refine crsForm_memOk (fun tc cx b t hb => ?_)
  (try dsimp only at hb)
  (repeat' split at hb) <;> cases hb <;> (try simp) <;> simp_all
theorem execCrsChk_memOk (a : RegNo) (s : State) : MemOk (execCrsChk a s) s := by
  refine crsForm_memOk (fun tc cx b t hb => ?_)
  (try dsimp only at hb)
  (repeat' split at hb) <;> cases hb <;> (try simp) <;> simp_all
theorem execCrsRel_memOk (a : RegNo) (s : State) : MemOk (execCrsRel a s) s := by
  refine crsForm_memOk (fun tc cx b t hb => ?_)
  (try dsimp only at hb)
  (repeat' split at hb) <;> cases hb <;> (try simp) <;> simp_all
theorem execCrsClose_memOk (s : State) : MemOk (execCrsClose s) s := by
  refine crsForm_memOk (fun tc cx b t hb => ?_)
  (try dsimp only at hb)
  (repeat' split at hb) <;> cases hb <;> (try simp) <;> simp_all
theorem execTretResume_memOk (a : RegNo) (s : State) : MemOk (execTretResume a s) s := tret_memOk
theorem execTretAbandon_memOk (a : RegNo) (s : State) : MemOk (execTretAbandon a s) s := tret_memOk
theorem execTretForward_memOk (a : RegNo) (s : State) : MemOk (execTretForward a s) s := tret_memOk
theorem execTretIsolate_memOk (a : RegNo) (s : State) : MemOk (execTretIsolate a s) s := tret_memOk
theorem execTrapTrap_memOk (a : RegNo) (num : BitVec 12) (s : State) : MemOk (execTrapTrap a num s) s := by
  unfold execTrapTrap
  refine issue_keeps (fun cx t nx hb => ?_)
  (try dsimp only at hb)
  (repeat' split at hb) <;> cases hb <;> (try simp) <;> simp_all
theorem execIfence_memOk (s : State) : MemOk (execIfence s) s := by
  unfold execIfence
  refine issue_keeps (fun cx t nx hb => ?_)
  (try dsimp only at hb)
  (repeat' split at hb) <;> cases hb <;> (try simp) <;> simp_all
theorem execHalt_memOk (s : State) : MemOk (execHalt s) s := by
  unfold execHalt
  refine issue_keeps (fun cx t nx hb => ?_)
  (try dsimp only at hb)
  (repeat' split at hb) <;> cases hb <;> (try simp) <;> simp_all
theorem execHbeat_memOk (a : RegNo) (s : State) : MemOk (execHbeat a s) s := by
  refine tileForm_memOk (fun tc cx t hb => ?_)
  (try dsimp only at hb)
  (repeat' split at hb) <;> cases hb <;> (try simp) <;> simp_all
theorem execSysrd_memOk (d : RegNo) (num : BitVec 12) (s : State) : MemOk (execSysrd d num s) s := by
  unfold execSysrd
  refine issue_keeps (fun cx t nx hb => ?_)
  repeat' split at hb
  all_goals first
    | (cases hb; done)
    | (rename_i hx; cases hb; simp [State.popMessage_mem _ _ _ hx]; done)
    | (rename_i hx; cases hb; simp [State.popXmsg_mem _ _ hx]; done)
    | (cases hb; simp)
theorem execSyswr_memOk (a : RegNo) (num : BitVec 12) (s : State) : MemOk (execSyswr a num s) s := by
  unfold execSyswr
  refine issue_memOk (fun cx t nx hb hw => ?_) (fun cx t nx ht hb => ?_)
  · dsimp only at hb
    repeat' split at hb
    all_goals first
      | (cases hb; done)
      | (rename_i hx; cases hb; exact State.hubRegWrite_wf hx hw)
      | (cases hb; simp [hw])
  · obtain ⟨_, _, _, _, _, ht⟩ := ht
    dsimp only at hb
    rw [ht] at hb
    dsimp only at hb
    split at hb <;> cases hb
    simp
theorem execIllegal_memOk (w : Word) (s : State) : MemOk (execIllegal w s) s := by
  unfold execIllegal
  refine issue_keeps (fun cx t nx hb => ?_)
  (try dsimp only at hb)
  (repeat' split at hb) <;> cases hb <;> (try simp) <;> simp_all
theorem execCbnd_memOk (d a b : RegNo) (s : State) : MemOk (execCbnd d a b s) s := capForm_memOk
theorem execCperm_memOk (d a b : RegNo) (s : State) : MemOk (execCperm d a b s) s := capForm_memOk
theorem execCinc_memOk (d a b : RegNo) (s : State) : MemOk (execCinc d a b s) s := capForm_memOk
theorem execCset_memOk (d a b : RegNo) (s : State) : MemOk (execCset d a b s) s := capForm_memOk
theorem execCincImm_memOk (d a : RegNo) (imm : BitVec 16) (s : State) : MemOk (execCincImm d a imm s) s := capForm_memOk
theorem execCseal_memOk (d a b : RegNo) (s : State) : MemOk (execCseal d a b s) s := capForm_memOk
theorem execCunseal_memOk (d a b : RegNo) (s : State) : MemOk (execCunseal d a b s) s := capForm_memOk
theorem execCgetBase_memOk (d a : RegNo) (s : State) : MemOk (execCgetBase d a s) s := issueResult_memOk
theorem execCgetLen_memOk (d a : RegNo) (s : State) : MemOk (execCgetLen d a s) s := issueResult_memOk
theorem execCgetPerm_memOk (d a : RegNo) (s : State) : MemOk (execCgetPerm d a s) s := issueResult_memOk
theorem execCgetTag_memOk (d a : RegNo) (s : State) : MemOk (execCgetTag d a s) s := issueResult_memOk
theorem execCgetCur_memOk (d a : RegNo) (s : State) : MemOk (execCgetCur d a s) s := issueResult_memOk
theorem execBeq_memOk (a b : RegNo) (off : BitVec 16) (s : State) : MemOk (execBeq a b off s) s := branch_memOk
theorem execBne_memOk (a b : RegNo) (off : BitVec 16) (s : State) : MemOk (execBne a b off s) s := branch_memOk
theorem execBlt_memOk (a b : RegNo) (off : BitVec 16) (s : State) : MemOk (execBlt a b off s) s := branch_memOk
theorem execBge_memOk (a b : RegNo) (off : BitVec 16) (s : State) : MemOk (execBge a b off s) s := branch_memOk
theorem execBltu_memOk (a b : RegNo) (off : BitVec 16) (s : State) : MemOk (execBltu a b off s) s := branch_memOk
theorem execBgeu_memOk (a b : RegNo) (off : BitVec 16) (s : State) : MemOk (execBgeu a b off s) s := branch_memOk
theorem execLoop_memOk (a : RegNo) (imm : BitVec 16) (s : State) : MemOk (execLoop a imm s) s := by
  unfold execLoop
  refine issue_keeps (fun cx t nx hb => ?_)
  (try dsimp only at hb)
  (repeat' split at hb) <;> cases hb <;> (try simp) <;> simp_all
theorem execJ_memOk (off : BitVec 26) (s : State) : MemOk (execJ off s) s := by
  unfold execJ
  refine issue_keeps (fun cx t nx hb => ?_)
  (try dsimp only at hb)
  (repeat' split at hb) <;> cases hb <;> (try simp) <;> simp_all
theorem execJl_memOk (off : BitVec 26) (s : State) : MemOk (execJl off s) s := by
  unfold execJl
  refine issue_keeps (fun cx t nx hb => ?_)
  (try dsimp only at hb)
  (repeat' split at hb) <;> cases hb <;> (try simp) <;> simp_all
theorem execNop_memOk (s : State) : MemOk (execNop s) s := by
  unfold execNop
  refine issue_keeps (fun cx t nx hb => ?_)
  (try dsimp only at hb)
  (repeat' split at hb) <;> cases hb <;> (try simp) <;> simp_all
theorem execJr_memOk (a : RegNo) (s : State) : MemOk (execJr a s) s := by
  unfold execJr
  refine issue_keeps (fun cx t nx hb => ?_)
  (try dsimp only at hb)
  (repeat' split at hb) <;> cases hb <;> (try simp) <;> simp_all
theorem execHold_memOk (a : RegNo) (s : State) : MemOk (execHold a s) s := by
  unfold execHold
  refine issue_keeps (fun cx t nx hb => ?_)
  (try dsimp only at hb)
  (repeat' split at hb) <;> cases hb <;> (try simp) <;> simp_all
theorem execRep_memOk (n : BitVec 8) (len : BitVec 4) (ds as bs es : BitVec 3) (s : State) : MemOk (execRep n len
    ds as bs es s) s := by
  unfold execRep
  refine issue_keeps (fun cx t nx hb => ?_)
  (try dsimp only at hb)
  (repeat' split at hb) <;> cases hb <;> (try simp) <;> simp_all
theorem execAdd_memOk (d a b : RegNo) (s : State) : MemOk (execAdd d a b s) s := issueResult_memOk
theorem execSub_memOk (d a b : RegNo) (s : State) : MemOk (execSub d a b s) s := issueResult_memOk
theorem execAnd_memOk (d a b : RegNo) (s : State) : MemOk (execAnd d a b s) s := issueResult_memOk
theorem execOr_memOk (d a b : RegNo) (s : State) : MemOk (execOr d a b s) s := issueResult_memOk
theorem execXor_memOk (d a b : RegNo) (s : State) : MemOk (execXor d a b s) s := issueResult_memOk
theorem execAndn_memOk (d a b : RegNo) (s : State) : MemOk (execAndn d a b s) s := issueResult_memOk
theorem execSll_memOk (d a b : RegNo) (s : State) : MemOk (execSll d a b s) s := issueResult_memOk
theorem execSrl_memOk (d a b : RegNo) (s : State) : MemOk (execSrl d a b s) s := issueResult_memOk
theorem execSra_memOk (d a b : RegNo) (s : State) : MemOk (execSra d a b s) s := issueResult_memOk
theorem execRol_memOk (d a b : RegNo) (s : State) : MemOk (execRol d a b s) s := issueResult_memOk
theorem execSlt_memOk (d a b : RegNo) (s : State) : MemOk (execSlt d a b s) s := issueResult_memOk
theorem execSltu_memOk (d a b : RegNo) (s : State) : MemOk (execSltu d a b s) s := issueResult_memOk
theorem execMin_memOk (d a b : RegNo) (s : State) : MemOk (execMin d a b s) s := issueResult_memOk
theorem execMax_memOk (d a b : RegNo) (s : State) : MemOk (execMax d a b s) s := issueResult_memOk
theorem execMinu_memOk (d a b : RegNo) (s : State) : MemOk (execMinu d a b s) s := issueResult_memOk
theorem execMaxu_memOk (d a b : RegNo) (s : State) : MemOk (execMaxu d a b s) s := issueResult_memOk
theorem execMul_memOk (d a b : RegNo) (s : State) : MemOk (execMul d a b s) s := issueResult_memOk
theorem execMulh_memOk (d a b : RegNo) (s : State) : MemOk (execMulh d a b s) s := issueResult_memOk
theorem execMulhu_memOk (d a b : RegNo) (s : State) : MemOk (execMulhu d a b s) s := issueResult_memOk
theorem execDiv_memOk (d a b : RegNo) (s : State) : MemOk (execDiv d a b s) s := issueResult_memOk
theorem execDivu_memOk (d a b : RegNo) (s : State) : MemOk (execDivu d a b s) s := issueResult_memOk
theorem execRem_memOk (d a b : RegNo) (s : State) : MemOk (execRem d a b s) s := issueResult_memOk
theorem execRemu_memOk (d a b : RegNo) (s : State) : MemOk (execRemu d a b s) s := issueResult_memOk
theorem execClz_memOk (d a : RegNo) (s : State) : MemOk (execClz d a s) s := issueResult_memOk
theorem execCtz_memOk (d a : RegNo) (s : State) : MemOk (execCtz d a s) s := issueResult_memOk
theorem execPop_memOk (d a : RegNo) (s : State) : MemOk (execPop d a s) s := issueResult_memOk
theorem execSext_memOk (d a : RegNo) (wd : VTy) (s : State) : MemOk (execSext d a wd s) s := issueResult_memOk
theorem execZext_memOk (d a : RegNo) (wd : VTy) (s : State) : MemOk (execZext d a wd s) s := issueResult_memOk
theorem execAddi_memOk (d a : RegNo) (imm : BitVec 16) (s : State) : MemOk (execAddi d a imm s) s := issueResult_memOk
theorem execAndi_memOk (d a : RegNo) (imm : BitVec 16) (s : State) : MemOk (execAndi d a imm s) s := issueResult_memOk
theorem execOri_memOk (d a : RegNo) (imm : BitVec 16) (s : State) : MemOk (execOri d a imm s) s := issueResult_memOk
theorem execXori_memOk (d a : RegNo) (imm : BitVec 16) (s : State) : MemOk (execXori d a imm s) s := issueResult_memOk
theorem execSlti_memOk (d a : RegNo) (imm : BitVec 16) (s : State) : MemOk (execSlti d a imm s) s := issueResult_memOk
theorem execSltui_memOk (d a : RegNo) (imm : BitVec 16) (s : State) : MemOk (execSltui d a imm s) s := issueResult_memOk
theorem execSlli_memOk (d a : RegNo) (sh : BitVec 7) (s : State) : MemOk (execSlli d a sh s) s := issueResult_memOk
theorem execSrli_memOk (d a : RegNo) (sh : BitVec 7) (s : State) : MemOk (execSrli d a sh s) s := issueResult_memOk
theorem execSrai_memOk (d a : RegNo) (sh : BitVec 7) (s : State) : MemOk (execSrai d a sh s) s := issueResult_memOk
theorem execLhi_memOk (d : RegNo) (imm : BitVec 21) (s : State) : MemOk (execLhi d imm s) s := issueResult_memOk
theorem execFadd_memOk (d a b : RegNo) (ty : FTy) (s : State) : MemOk (execFadd d a b ty s) s := roundForm_memOk
theorem execFsub_memOk (d a b : RegNo) (ty : FTy) (s : State) : MemOk (execFsub d a b ty s) s := roundForm_memOk
theorem execFmul_memOk (d a b : RegNo) (ty : FTy) (s : State) : MemOk (execFmul d a b ty s) s := roundForm_memOk
theorem execFma_memOk (d a b e : RegNo) (ty : FTy) (s : State) : MemOk (execFma d a b e ty s) s := roundForm_memOk
theorem execFms_memOk (d a b e : RegNo) (ty : FTy) (s : State) : MemOk (execFms d a b e ty s) s := roundForm_memOk
theorem execFmin_memOk (d a b : RegNo) (ty : FTy) (s : State) : MemOk (execFmin d a b ty s) s := vecForm_memOk
theorem execFmax_memOk (d a b : RegNo) (ty : FTy) (s : State) : MemOk (execFmax d a b ty s) s := vecForm_memOk
theorem execFabs_memOk (d a : RegNo) (ty : FTy) (s : State) : MemOk (execFabs d a ty s) s := vecForm_memOk
theorem execFneg_memOk (d a : RegNo) (ty : FTy) (s : State) : MemOk (execFneg d a ty s) s := vecForm_memOk
theorem execFcmpEq_memOk (d a b : RegNo) (ty : FTy) (s : State) : MemOk (execFcmpEq d a b ty s) s := vecForm_memOk
theorem execFcmpLt_memOk (d a b : RegNo) (ty : FTy) (s : State) : MemOk (execFcmpLt d a b ty s) s := vecForm_memOk
theorem execFcmpLe_memOk (d a b : RegNo) (ty : FTy) (s : State) : MemOk (execFcmpLe d a b ty s) s := vecForm_memOk
theorem execFsel_memOk (d a b e : RegNo) (ty : FTy) (s : State) : MemOk (execFsel d a b e ty s) s := vecForm_memOk
theorem execVsum_memOk (d a : RegNo) (ty : FTy) (s : State) : MemOk (execVsum d a ty s) s := roundForm_memOk
theorem execVmaxr_memOk (d a : RegNo) (ty : FTy) (s : State) : MemOk (execVmaxr d a ty s) s := vecForm_memOk
theorem execVminr_memOk (d a : RegNo) (ty : FTy) (s : State) : MemOk (execVminr d a ty s) s := vecForm_memOk
theorem execFrcp_memOk (d a : RegNo) (ty : FTy) (s : State) : MemOk (execFrcp d a ty s) s := roundForm_memOk
theorem execFrsq_memOk (d a : RegNo) (ty : FTy) (s : State) : MemOk (execFrsq d a ty s) s := roundForm_memOk
theorem execFsqrt_memOk (d a : RegNo) (ty : FTy) (s : State) : MemOk (execFsqrt d a ty s) s := roundForm_memOk
theorem execFex2_memOk (d a : RegNo) (ty : FTy) (s : State) : MemOk (execFex2 d a ty s) s := roundForm_memOk
theorem execFlg2_memOk (d a : RegNo) (ty : FTy) (s : State) : MemOk (execFlg2 d a ty s) s := roundForm_memOk
theorem execFsin_memOk (d a : RegNo) (ty : FTy) (s : State) : MemOk (execFsin d a ty s) s := roundForm_memOk
theorem execFcos_memOk (d a : RegNo) (ty : FTy) (s : State) : MemOk (execFcos d a ty s) s := roundForm_memOk
theorem execVadd_memOk (d a b : RegNo) (ty : VTy) (s : State) : MemOk (execVadd d a b ty s) s := issueResult_memOk
theorem execVsub_memOk (d a b : RegNo) (ty : VTy) (s : State) : MemOk (execVsub d a b ty s) s := issueResult_memOk
theorem execVmul_memOk (d a b : RegNo) (ty : VTy) (s : State) : MemOk (execVmul d a b ty s) s := issueResult_memOk
theorem execVmin_memOk (d a b : RegNo) (ty : VTy) (s : State) : MemOk (execVmin d a b ty s) s := issueResult_memOk
theorem execVmax_memOk (d a b : RegNo) (ty : VTy) (s : State) : MemOk (execVmax d a b ty s) s := issueResult_memOk
theorem execVand_memOk (d a b : RegNo) (ty : VTy) (s : State) : MemOk (execVand d a b ty s) s := issueResult_memOk
theorem execVor_memOk (d a b : RegNo) (ty : VTy) (s : State) : MemOk (execVor d a b ty s) s := issueResult_memOk
theorem execVxor_memOk (d a b : RegNo) (ty : VTy) (s : State) : MemOk (execVxor d a b ty s) s := issueResult_memOk
theorem execVshl_memOk (d a b : RegNo) (ty : VTy) (s : State) : MemOk (execVshl d a b ty s) s := issueResult_memOk
theorem execVsra_memOk (d a b : RegNo) (ty : VTy) (s : State) : MemOk (execVsra d a b ty s) s := issueResult_memOk
theorem execVperm_memOk (d a b : RegNo) (ty : VTy) (s : State) : MemOk (execVperm d a b ty s) s := issueResult_memOk
theorem execVbcast_memOk (d a : RegNo) (idx : BitVec 5) (ty : VTy) (s : State) : MemOk (execVbcast d a idx ty s) s
    := issueResult_memOk
end Sys2Proof.Machine
end

