-- ==== Sys2Proof/Tests/Slice0.lean ====
section
/-! SUPPORT. The modeller's own tests. The words are laid out field by field from the formats and function tables of R60 to R69, or
copied from the manual's listings; the expected values are the manual's worked examples or are calculated by hand from a rule, which
the test names. For every statement that has hypotheses, a theorem witness_… shows states and operands that meet them, clause by
clause. -/

namespace Sys2Proof.Tests

set_option Elab.async false

open Sys2Proof Sys2Proof.Machine

/-! ### Well-formedness: each check refuses an ill-formed term (R70) -/

/-- A loop body has 1 to 65,535 instructions (R63). -/
theorem test_wf_loop : (Instr.loop 7 0).wellFormed = false ∧ (Instr.loop 7 1).wellFormed = true := by decide
/-- The lane of vbcast lies in the register (R111). -/
theorem test_wf_vbcast : (Instr.vbcast 1 2 4 .w).wellFormed = false ∧ (Instr.vbcast 1 2 3 .w).wellFormed = true := by decide
/-- RMX 5 and 6 and SX 3 are illegal (R67). -/
theorem test_wf_cvt : (Instr.cvtPack 1 2 0 5 0 0).wellFormed = false ∧ (Instr.cvtI2f 1 2 0 6 0 0).wellFormed = false ∧
    (Instr.cvtWide 1 2 0 0 3 0).wellFormed = false ∧ (Instr.cvtF2b 1 2 0 7 2 7).wellFormed = true := by decide
/-- mz.rd: the same selectors, and no half for BF16 (R136). -/
theorem test_wf_mzRd : (Instr.mzRd 1 0 6 0 0 0 0).wellFormed = false ∧ (Instr.mzRd 1 3 0 0 0 0 0).wellFormed = false ∧
    (Instr.mzRd 1 0 0 1 1 0 0).wellFormed = false ∧ (Instr.mzRd 1 2 7 0 1 3 7).wellFormed = true := by decide
/-- chk.lq tests 1 to 8 entries (R187). -/
theorem test_wf_chkLq : (Instr.chkLq 0).wellFormed = false ∧ (Instr.chkLq 9).wellFormed = false ∧ (Instr.chkLq 8).wellFormed = true := by
  decide
/-- Slot 0 is never started (R190). -/
theorem test_wf_start : (Instr.start 1 2 0).wellFormed = false ∧ (Instr.start 1 2 3).wellFormed = true := by decide
/-- rmt has five selectors (R192). -/
theorem test_wf_rmt : (Instr.rmt 1 5).wellFormed = false ∧ (Instr.rmt 1 4).wellFormed = true := by decide
/-- fence has six scopes (R69). -/
theorem test_wf_fence : (Instr.fence 6).wellFormed = false ∧ (Instr.fence 5).wellFormed = true := by decide

/-! ### Decoding: every form of every family, its word laid out from R60 -/

/-- The T format. -/
def wT (op : BitVec 6) (d a b e : BitVec 5) (f : BitVec 6) : Word := op ++ d ++ a ++ b ++ e ++ f
/-- The I format. -/
def wI (op : BitVec 6) (d a : BitVec 5) (m : BitVec 16) : Word := op ++ d ++ a ++ m
/-- The M format. -/
def wM (op : BitVec 6) (d a : BitVec 5) (f : BitVec 4) (off : BitVec 12) : Word := op ++ d ++ a ++ f ++ off
/-- The V format. -/
def wV (op : BitVec 6) (d a b e : BitVec 5) (ty : BitVec 2) (f : BitVec 4) : Word := op ++ d ++ a ++ b ++ e ++ ty ++ f
/-- The C format. -/
def wC (d a : BitVec 5) (k : BitVec 4) (sc rmx : BitVec 3) (sx : BitVec 2) (pt : BitVec 4) : Word :=
  0x2B#6 ++ d ++ a ++ k ++ sc ++ rmx ++ sx ++ pt
/-- The S format. -/
def wS (op : BitVec 6) (d a f : BitVec 5) (m : BitVec 11) : Word := op ++ d ++ a ++ f ++ m
/-- The Y format. -/
def wY (d a : BitVec 5) (num : BitVec 12) (f : BitVec 4) : Word := 0x3C#6 ++ d ++ a ++ num ++ f

/-- Whether every word of a list decodes to the instruction beside it. -/
def reads (l : List (Word × Instr)) : Bool := l.all fun p => match decode p.1 with | .ok i => i == p.2 | .error _ => false

/-- INT (R64). -/
theorem test_decode_int : reads [
    (wT 1 3 4 5 0 0, .add 3 4 5), (wT 1 3 4 5 0 1, .sub 3 4 5), (wT 1 3 4 5 0 2, .and 3 4 5), (wT 1 3 4 5 0 3, .or 3 4 5),
    (wT 1 3 4 5 0 4, .xor 3 4 5), (wT 1 3 4 5 0 5, .andn 3 4 5), (wT 1 3 4 5 0 6, .sll 3 4 5), (wT 1 3 4 5 0 7, .srl 3 4 5),
    (wT 1 3 4 5 0 8, .sra 3 4 5), (wT 1 3 4 5 0 9, .rol 3 4 5), (wT 1 3 4 5 0 10, .slt 3 4 5), (wT 1 3 4 5 0 11, .sltu 3 4 5),
    (wT 1 3 4 5 0 12, .min 3 4 5), (wT 1 3 4 5 0 13, .max 3 4 5), (wT 1 3 4 5 0 14, .minu 3 4 5), (wT 1 3 4 5 0 15, .maxu 3 4 5),
    (wT 1 3 4 5 0 16, .mul 3 4 5), (wT 1 3 4 5 0 17, .mulh 3 4 5), (wT 1 3 4 5 0 18, .mulhu 3 4 5), (wT 1 3 4 5 0 20, .div 3 4 5),
    (wT 1 3 4 5 0 21, .divu 3 4 5), (wT 1 3 4 5 0 22, .rem 3 4 5), (wT 1 3 4 5 0 23, .remu 3 4 5), (wT 1 3 4 0 0 24, .clz 3 4),
    (wT 1 3 4 0 0 25, .ctz 3 4), (wT 1 3 4 0 0 26, .pop 3 4), (wT 1 3 4 1 0 28, .sext 3 4 .h), (wT 1 3 4 3 0 29, .zext 3 4 .d)] = true := by
  decide +kernel
/-- The immediate forms (R63). -/
theorem test_decode_immediates : reads [
    (wI 2 6 7 0xFFFE, .addi 6 7 0xFFFE), (wI 3 6 7 9, .andi 6 7 9), (wI 4 6 7 9, .ori 6 7 9), (wI 5 6 7 9, .xori 6 7 9),
    (wI 6 6 7 9, .slti 6 7 9), (wI 7 6 7 9, .sltui 6 7 9), (wI 8 6 7 127, .slli 6 7 127), (wI 9 6 7 1, .srli 6 7 1),
    (wI 10 6 7 64, .srai 6 7 64), (0x0B#6 ++ 6#5 ++ 0x12345#21, .lhi 6 0x12345), (wI 0x0D 6 7 8, .cincImm 6 7 8),
    (wI 0x16 0 7 3, .loop 7 3)] = true := by decide +kernel
/-- CAP (R64). -/
theorem test_decode_cap : reads [
    (wT 12 3 4 5 0 0, .cbnd 3 4 5), (wT 12 3 4 5 0 1, .cperm 3 4 5), (wT 12 3 4 5 0 2, .cinc 3 4 5), (wT 12 3 4 5 0 3, .cset 3 4 5),
    (wT 12 3 4 0 0 4, .cgetBase 3 4), (wT 12 3 4 0 0 5, .cgetLen 3 4), (wT 12 3 4 0 0 6, .cgetPerm 3 4), (wT 12 3 4 0 0 7, .cgetTag 3 4),
    (wT 12 3 4 0 0 8, .cgetCur 3 4), (wT 12 3 4 5 0 9, .cseal 3 4 5), (wT 12 3 4 5 0 10, .cunseal 3 4 5)] = true := by decide +kernel
/-- Branches in the Bc format, offset cat(offh, offl); jumps; CTRL (R60, R61, R65). -/
theorem test_decode_control : reads [
    (0x10#6 ++ 0x1F#5 ++ 6#5 ++ 7#5 ++ 0x7FD#11, .beq 6 7 0xFFFD), (0x11#6 ++ 1#5 ++ 6#5 ++ 7#5 ++ 2#11, .bne 6 7 0x0802),
    (0x12#6 ++ 0#5 ++ 6#5 ++ 7#5 ++ 2#11, .blt 6 7 2), (0x13#6 ++ 0#5 ++ 6#5 ++ 7#5 ++ 2#11, .bge 6 7 2),
    (0x14#6 ++ 0#5 ++ 6#5 ++ 7#5 ++ 2#11, .bltu 6 7 2), (0x15#6 ++ 0#5 ++ 6#5 ++ 7#5 ++ 2#11, .bgeu 6 7 2),
    (0x18#6 ++ 0x2000001#26, .j 0x2000001), (0x19#6 ++ 5#26, .jl 5), (wT 0x1A 0 0 0 0 0, .nop), (wT 0x1A 0 30 0 0 1, .jr 30),
    (wT 0x1A 0 9 0 0 2, .hold 9)] = true := by decide +kernel
/-- LD and ST (R65). -/
theorem test_decode_memory : reads [
    (wM 0x20 3 2 0 0xFF8, .ldB 3 2 0xFF8), (wM 0x20 3 2 1 0, .ldBu 3 2 0), (wM 0x20 3 2 2 0, .ldH 3 2 0), (wM 0x20 3 2 3 0, .ldHu 3 2 0),
    (wM 0x20 3 2 4 0, .ldW 3 2 0), (wM 0x20 3 2 6 0, .ldD 3 2 0), (wM 0x20 3 2 7 0, .ldQ 3 2 0), (wM 0x20 3 2 8 0, .ldC 3 2 0),
    (wM 0x20 3 2 9 0, .ldFe 3 2 0), (wM 0x20 3 2 10 0, .ldbQ 3 2 0), (wM 0x20 0 2 11 0, .ldLq 2 0), (wM 0x21 3 2 0 0, .stB 3 2 0),
    (wM 0x21 3 2 2 0, .stH 3 2 0), (wM 0x21 3 2 4 0, .stW 3 2 0), (wM 0x21 3 2 6 0x7F8, .stD 3 2 0x7F8), (wM 0x21 3 2 7 0, .stQ 3 2 0),
    (wM 0x21 3 2 8 0, .stC 3 2 0), (wM 0x21 3 2 9 0, .stFe 3 2 0), (wM 0x21 3 2 10 0, .stbQ 3 2 0), (wM 0x21 0 2 11 0, .stSq 2 0)] = true := by
  decide +kernel
/-- VFP and VSF (R66). -/
theorem test_decode_vfp : reads [
    (wV 0x28 1 2 3 0 0 0, .fadd 1 2 3 .f32), (wV 0x28 1 2 3 0 1 1, .fsub 1 2 3 .bf16), (wV 0x28 1 2 3 0 0 2, .fmul 1 2 3 .f32),
    (wV 0x28 1 2 3 4 1 3, .fma 1 2 3 4 .bf16), (wV 0x28 1 2 3 4 0 4, .fms 1 2 3 4 .f32), (wV 0x28 1 2 3 0 0 5, .fmin 1 2 3 .f32),
    (wV 0x28 1 2 3 0 0 6, .fmax 1 2 3 .f32), (wV 0x28 1 2 0 0 0 7, .fabs 1 2 .f32), (wV 0x28 1 2 0 0 0 8, .fneg 1 2 .f32),
    (wV 0x28 1 2 3 0 0 9, .fcmpEq 1 2 3 .f32), (wV 0x28 1 2 3 0 0 10, .fcmpLt 1 2 3 .f32), (wV 0x28 1 2 3 0 0 11, .fcmpLe 1 2 3 .f32),
    (wV 0x28 1 2 3 4 0 12, .fsel 1 2 3 4 .f32), (wV 0x28 1 2 0 0 0 13, .vsum 1 2 .f32), (wV 0x28 1 2 0 0 0 14, .vmaxr 1 2 .f32),
    (wV 0x28 1 2 0 0 1 15, .vminr 1 2 .bf16), (wV 0x29 1 2 0 0 0 0, .frcp 1 2 .f32), (wV 0x29 1 2 0 0 0 1, .frsq 1 2 .f32),
    (wV 0x29 1 2 0 0 0 2, .fsqrt 1 2 .f32), (wV 0x29 1 2 0 0 0 3, .fex2 1 2 .f32), (wV 0x29 1 2 0 0 0 4, .flg2 1 2 .f32),
    (wV 0x29 1 2 0 0 0 5, .fsin 1 2 .f32), (wV 0x29 1 2 0 0 1 6, .fcos 1 2 .bf16)] = true := by decide +kernel
/-- VINT, VBLK and CVT (R66, R67). -/
theorem test_decode_vint : reads [
    (wV 0x2A 1 2 3 0 0 0, .vadd 1 2 3 .b), (wV 0x2A 1 2 3 0 1 1, .vsub 1 2 3 .h), (wV 0x2A 1 2 3 0 2 2, .vmul 1 2 3 .w),
    (wV 0x2A 1 2 3 0 3 3, .vmin 1 2 3 .d), (wV 0x2A 1 2 3 0 0 4, .vmax 1 2 3 .b), (wV 0x2A 1 2 3 0 0 5, .vand 1 2 3 .b),
    (wV 0x2A 1 2 3 0 0 6, .vor 1 2 3 .b), (wV 0x2A 1 2 3 0 0 7, .vxor 1 2 3 .b), (wV 0x2A 1 2 3 0 0 8, .vshl 1 2 3 .b),
    (wV 0x2A 1 2 3 0 0 9, .vsra 1 2 3 .b), (wV 0x2A 1 2 3 0 0 10, .vperm 1 2 3 .b), (wV 0x2A 1 2 15 0 0 11, .vbcast 1 2 15 .b),
    (wV 0x2C 1 2 3 0 1 0, .amaxb 1 2 3 .bf16), (wV 0x2C 5 2 13 0 0 1, .scl 5 2 13 .f32),
    (wC 1 2 0 6 7 2 7, .cvtWide 1 2 6 7 2 7), (wC 1 2 1 0 0 0 0, .cvtWideb 1 2 0 0 0 0), (wC 1 2 2 0 1 0 0, .cvtPack 1 2 0 1 0 0),
    (wC 1 2 3 0 2 0 0, .cvtPackb 1 2 0 2 0 0), (wC 1 2 4 0 4 0 1, .cvtF2b 1 2 0 4 0 1), (wC 1 2 5 0 0 1 0, .cvtB2f 1 2 0 0 1 0),
    (wC 1 2 6 0 0 0 0, .cvtF2i 1 2 0 0 0 0), (wC 1 2 7 0 3 0 0, .cvtI2f 1 2 0 3 0 0)] = true := by decide +kernel
/-- rep, mma and MATC (R65, R68, R60). -/
theorem test_decode_matrix : reads [
    (0x2F#6 ++ 3#8 ++ 1#4 ++ 1#3 ++ 2#3 ++ 3#3 ++ 4#3 ++ 0#2, .rep 3 1 1 2 3 4),
    (0x30#6 ++ 2#2 ++ 0#3 ++ 4#5 ++ 5#5 ++ 1#3 ++ 2#3 ++ 1#1 ++ 0#1 ++ 0#3, .mma 2 4 5 1 2 1 0),
    (wT 0x31 0 0 0 (2#2 ++ 0#3) 0, .mzClr 2), (wT 0x31 0 7 0 (1#2 ++ 0#3) 1, .mzAnc 7 1),
    (wT 0x31 1 0 0 (3#2 ++ 0#3) 5, .mzOvf 1 3 0), (wT 0x31 0 4 0 (3#2 ++ 0#3) 3, .mzRaw 4 3), (wT 0x31 0 4 0 (1#2 ++ 0#3) 4, .mzAdd 4 1),
    (wT 0x31 1 2 0 (0#2 ++ 3#3) 6, .mgeo 1 2 3), (wT 0x31 0 2 0 (0#2 ++ 2#3) 7, .mgeoSub 2 2), (wT 0x31 0 2 0 (1#2 ++ 0#3) 8, .msk 2 1)] = true := by
  decide +kernel
/-- XCH (R69). -/
theorem test_decode_exchange : reads [
    (wS 0x34 0 3 0 0, .xmit 3), (wS 0x34 0 3 1 7, .xmitM 3 7), (wS 0x34 0 3 2 5, .catchOne 3 5), (wS 0x34 0 3 3 9, .catchM 3 9),
    (wS 0x34 2 3 4 1, .put 2 3 1), (wS 0x34 0 0 5 0, .sealOp), (wS 0x34 2 0 6 0, .trn 2), (wS 0x34 0 0 7 8, .chkLq 8),
    (wS 0x34 0 3 8 4, .chkFe 3 4), (wS 0x34 0 3 9 2, .chkWp 3 2), (wS 0x34 0 3 10 15, .semUp 3 15), (wS 0x34 0 3 11 4, .semChk 3 4),
    (wS 0x34 0 0 12 0, .resync), (wS 0x34 2 3 13 3, .start 2 3 3), (wS 0x34 0 0 14 0, .stop), (wS 0x34 2 0 15 4, .rmt 2 4),
    (wS 0x34 0 3 16 0x555, .mark 3 0x555)] = true := by decide +kernel
/-- AMO and ENG (R69, R65). -/
theorem test_decode_amo_eng : reads [
    (wV 0x38 1 2 3 0 0 0, .amoAdd 1 2 3 .w), (wV 0x38 1 2 3 0 1 1, .amoMax 1 2 3 .d), (wV 0x38 1 2 3 0 0 2, .amoMin 1 2 3 .w),
    (wV 0x38 1 2 3 0 0 3, .amoMaxu 1 2 3 .w), (wV 0x38 1 2 3 0 0 4, .amoMinu 1 2 3 .w), (wV 0x38 1 2 3 0 0 5, .amoAnd 1 2 3 .w),
    (wV 0x38 1 2 3 0 0 6, .amoOr 1 2 3 .w), (wV 0x38 1 2 3 0 0 7, .amoXor 1 2 3 .w), (wV 0x38 1 2 3 0 0 8, .amoSwap 1 2 3 .w),
    (wV 0x38 1 2 3 4 1 9, .amoCas 1 2 3 4 .d), (wV 0x38 1 2 3 0 0 10, .amoFmax 1 2 3), (wV 0x38 0 0 0 5 0 15, .fence 5),
    (wT 0x39 4 5 6 (0#3 ++ 1#2) 0, .cpy 4 5 6 1), (wT 0x39 4 5 6 (0#3 ++ 2#2) 1, .cpyG 4 5 6 2), (wT 0x39 4 5 6 (0#3 ++ 3#2) 2, .cpyS 4 5 6 3),
    (wT 0x39 4 0 0 (0#3 ++ 1#2) 3, .cpyWp 4 1), (wT 0x39 4 5 6 0 4, .gput 4 5 6 0), (wT 0x39 4 5 6 0 5, .gget 4 5 6 0),
    (wT 0x39 0 5 6 0 6, .gtbl 5 6)] = true := by decide +kernel
/-- SYS and CRS (R69). -/
theorem test_decode_sys_crs : reads [
    (wY 0 3 0xABC 0, .trapTrap 3 0xABC), (wY 0 3 0 1, .tretResume 3), (wY 2 0 0x800 2, .sysrd 2 0x800), (wY 0 3 0x012 3, .syswr 3 0x012),
    (wY 0 0 0 4, .ifence), (wY 0 0 0 5, .halt), (wY 0 3 0 6, .hbeat 3), (wY 0 3 0x7FF 7, .tlbW 3 0x7FF), (wY 0 3 2 8, .tlbInv 3 2),
    (wS 0x3D 0 6 0 0, .crsOpen 6), (wS 0x3D 3 0 1 0, .crsStep 3), (wS 0x3D 0 7 2 0, .crsSend 7), (wS 0x3D 0 9 3 0, .crsChk 9),
    (wS 0x3D 0 9 4 0, .crsRel 9), (wS 0x3D 0 0 5 0, .crsClose)] = true := by decide +kernel

/-- Words printed in the manual's listings (R82's example, and the programs of files 04 to 07, 12, 14, 17 and 20). -/
theorem test_decode_printed : reads [
    (0x08A00007, .addi 5 0 7), (0x04C50800, .add 6 5 1), (0x80FF6FF8, .ldD 7 31 0xFF8), (0x47E63FFD, .bne 6 7 0xFFFD),
    (0xA1021913, .fma 8 2 3 4 .bf16), (0xBC0C4900, .rep 3 1 1 1 0 0), (0xA3591000, .fadd 26 25 2 .f32), (0xA2951802, .fmul 20 21 3 .f32),
    (0x803F7F00, .ldQ 1 31 0xF00), (0xAC414100, .cvtF2b 2 1 0 4 0 0), (0xC4070201, .mzAnc 7 1), (0xC1042800, .mma 1 4 5 0 0 0 0),
    (0xC0042940, .mma 0 4 5 1 2 0 0), (0xF0010123, .syswr 1 0x012), (0xC4080007, .mgeoSub 8 0), (0xE4853041, .cpyG 4 5 6 1),
    (0xD0074801, .chkWp 7 1), (0xE5200043, .cpyWp 9 1), (0xE00C7001, .amoMax 0 12 14 .w), (0xE4001006, .gtbl 0 2), (0xE6F60004, .gput 23 22 0 0),
    (0xE7170005, .gget 24 23 0 0), (0xF00A0006, .hbeat 10), (0xD2152000, .put 16 21 0), (0xF4131800, .crsChk 19), (0xAB7A002B, .vbcast 27 26 0 .w),
    (0xA0C61004, .fms 6 6 2 0 .f32), (0xA4C60003, .fex2 6 6 .f32), (0xF4060000, .crsOpen 6), (0xF4071000, .crsSend 7), (0xF4600800, .crsStep 3),
    (0xF4092000, .crsRel 9), (0xF4002800, .crsClose)] = true := by decide +kernel

/-- mz.rd as the manual prints it: z1 row 0 BF16 RNE, z0 row 3 BF16 SR, z0 row 7 FP32. -/
theorem test_decode_printed_mzRd : (decode 0xC4C08202).isOk = true ∧ reads [(0xC4C480C2, .mzRd 6 0 4 1 0 0 3), (0xC74001C2, .mzRd 26 0 0 0 0 0 7)] = true := by
  decide +kernel

/-- Words that are no instruction: the reserved opcodes of the all-zero and all-ones word, an unassigned function, a bit that must be
0, a width code above 3, a TY that is illegal (R62, R64, R66, R70). -/
theorem test_decode_refuses : decode 0 = .error (.reservedOpcode 0) ∧ decode 0xFFFFFFFF = .error (.reservedOpcode 0x3F) ∧
    decode (wT 1 3 4 5 0 0x13) = .error (.unassignedFunction 0x13) ∧ decode (wT 1 3 4 5 1 0) = .error .mustBeZero ∧
    decode (wT 1 3 4 4 0 28) = .error .illegalSelector ∧ decode (wV 0x28 1 2 3 0 2 0) = .error .illegalSelector := by decide +kernel

/-! ### Worked examples of the manual -/

/-- Whether rounding `x` to `f` in the four modes RNE, RTZ, RDN, RUP gives codes and flags. -/
def rounds (code : Nat) (f : Elem) (sat : Bool) (l : List (Nat × FlagSet)) : Bool :=
  ([RMode.rne, .rtz, .rdn, .rup].map fun rm => roundToFormat (Elem.value .fp32 code) f rm sat 0) == l

/-- The worked conversions to BF16, E5M2, INT8 and E2M1 (the table after R47). -/
theorem test_worked_conversions :
    rounds 0x3F80C000 .bf16 false [(0x3F81, 1), (0x3F80, 1), (0x3F80, 1), (0x3F81, 1)] ∧
    rounds 0xBF80C000 .bf16 false [(0xBF81, 1), (0xBF80, 1), (0xBF81, 1), (0xBF80, 1)] ∧
    rounds 0x3F808000 .bf16 false [(0x3F80, 1), (0x3F80, 1), (0x3F80, 1), (0x3F81, 1)] ∧
    rounds 0x43FA0000 .e5m2 true [(0x60, 1), (0x5F, 1), (0x5F, 1), (0x60, 1)] ∧
    rounds 0xC0200000 .int8 true [(0xFE, 1), (0xFE, 1), (0xFD, 1), (0xFE, 1)] ∧
    rounds 0x40200000 .e2m1 true [(0x4, 1), (0x4, 1), (0x4, 1), (0x5, 1)] := by decide +kernel
/-- The worked conversions to E4M3, and the overflow of 7 to E2M1, with SA (32) or OF (4) (the same table). -/
theorem test_worked_overflows :
    rounds 0x41A40000 .e4m3 true [(0x5A, 1), (0x5A, 1), (0x5A, 1), (0x5B, 1)] ∧
    rounds 0x43FA0000 .e4m3 true [(0x7E, 33), (0x7E, 33), (0x7E, 33), (0x7E, 33)] ∧
    rounds 0x43FA0000 .e4m3 false [(0x7F, 5), (0x7E, 5), (0x7E, 5), (0x7F, 5)] ∧
    rounds 0x3A800000 .e4m3 true [(0, 3), (0, 3), (0, 3), (1, 3)] ∧
    rounds 0x40E00000 .e2m1 true [(7, 33), (7, 1), (7, 1), (7, 33)] := by decide +kernel
/-- The two vectors of Calliope, all lane words of the first, and the lane word of column 21 of row 3 (R58). -/
theorem test_calliope : calliope 0 0 0 0 0 = 0x09743F85 ∧
    (List.range 8).map (laneWord 0x09743F85) =
      [0x09743F85, 0x097481E9, 0x4851767B, 0x995E3DBC, 0x4758EF90, 0xEF45F7DE, 0x3045AE69, 0x031317F7] ∧
    calliope 0x0123456789ABCDEF 7 3 2 0x64 = 0xA2A2EFC3 ∧
    elementLane 0x0123456789ABCDEF0000000700000064 3 21 = 0xEB2F4AB3 := by decide +kernel
/-- The two lane words applied to the first worked conversion under SR (R58). -/
theorem test_calliope_round : (roundToFormat (Elem.value .fp32 0x3F80C000) .bf16 .sr false 0x09743F85).1 = 0x3F80 ∧
    (roundToFormat (Elem.value .fp32 0x3F80C000) .bf16 .sr false 0xEB2F4AB3).1 = 0x3F81 := by decide +kernel
/-- The block of the example under R42: elements 1.0, -0.5 and 6 of E2M1, lowest nibble first. -/
theorem test_block_order : ((lanesOf 0x792 4 3).map fun c => ((Elem.value .e2m1 c).eq (.fin false 1 1), (Elem.value .e2m1 c).eq (.fin true 1 2),
    (Elem.value .e2m1 c).eq (.fin false 6 1))) = [(true, false, false), (false, true, false), (false, false, true)] := by decide +kernel

/-- The capability of the example under R15 and R81: 0x1000 to 0x1200 with LD and ST and the cursor 0x1040. -/
def capR15 : CReg := ⟨0x00030002000002000000000000001040, true⟩
/-- Its bounds, a load at 0x11F8 that is inside them and one at 0x1200 that is not, and a cursor that is not representable (R15). -/
theorem test_capability : makeCap 0x1000 0x1200 0x1040 (pLD ||| pST) = capR15 ∧ decodeBounds capR15.data = (0x1000, 0x1200) ∧
    (checkCap capR15 0x1B8 8 pLD).toOption = some 0x11F8 ∧ (checkCap capR15 0x1C0 8 pLD).toOption = none ∧
    decodeBounds (withCur capR15.data 0xFFF) = (2 ^ 64 - 2 ^ 21 + 0x1000, 2 ^ 64 - 2 ^ 21 + 0x1200) ∧
    representable capR15.data 0xFFF = false := by decide +kernel
/-- The fault of a check. -/
def fltOf {α : Type} (c : Chk α) : Option Flt := match c with | .ok _ => none | .error f => some f
/-- The order of check_cap: tag, seal, permission, bounds, alignment, INFO the address (R17). -/
theorem test_check_cap : fltOf (checkCap ⟨capR15.data, false⟩ 0x1C0 8 pX) = some { code := 0x04, info := 0x1200 } ∧
    fltOf (checkCap capR15 0x1C0 8 pX) = some { code := 0x06, info := 0x1200 } ∧
    fltOf (checkCap capR15 0x1C0 8 pST) = some { code := 0x05, info := 0x1200 } ∧
    fltOf (checkCap capR15 4 8 pST) = some { code := 0x07, info := 0x1044 } := by decide +kernel
/-- The addresses of the examples: a word of tile (637, 142) in space 1 (R195), an HBM address (R206), the way of 2 tiles (R174). -/
theorem test_addresses : tileAddr ⟨637, 142⟩ 0x208 = 0x1000023A7D000208 ∧ space1 0x1000023A7D000208 = some (⟨637, 142⟩, 0x208) ∧
    pcOf 0x0040012E40 = 5 ∧ hbmPlace 0x0040012E40 = (4100, 11, 9) ∧ routeT ⟨2, 0⟩ ⟨0, 0⟩ = 8 := by decide +kernel

/-! ### Small states -/

/-- The tile of the tests. -/
def t0 : Coord := ⟨0, 0⟩
/-- A running partition of tile (0, 0) in its cycle `p`, with a timetable. -/
def prt (tt : Timetable) (p : Nat) : Part := { Part.admitted probeRecord 0 (0, 0) tt 0 0 with form := .running, p := some p }
/-- One endless compute phase, in its cycle 0. -/
def pq : Part := prt Timetable.empty 0
/-- A timetable whose supersteps are all exchange, 100,000 cycles each. -/
def ttX : Timetable := { Timetable.empty with phases := [(0, 100000, 0)] }
/-- Registers: the listed ones, every other 0. -/
def regs (l : List (RegNo × CReg)) : Vector CReg 32 := l.foldl (fun v e => v.set e.1 e.2) (Vector.replicate 32 .zero)
/-- A live slot with a PCC over instruction memory at 0x100. -/
def slotOf (l : List (RegNo × CReg)) : Slot := { probeSlot with c := regs l }
/-- A power-on tile with a slot in slot 0 of a core. -/
def tileOf (k : Side) (sl : Slot) : Tile := Tile.powerOn.setSlot k 0 sl
/-- The state in which slot 0 of a core of tile (0, 0) issues. -/
def st (k : Side) (tl : Tile) (q : Part) : State :=
  { State.reset with tiles := [(0, tl)], parts := [q], cur := some ⟨.tile t0 k 0, 0, 0x100, false⟩ }
/-- The state in which hub 0 of die 0 issues. -/
def sh (h : Hub) : State := { State.reset with hubs := [(0, h)], cur := some ⟨.hub 0 0, 0, 0x100, false⟩ }
/-- A running hub with registers. -/
def hubOf (l : List (RegNo × CReg)) : Hub := { Hub.powerOn with ctx := slotOf l }

/-- A capability over all of tile-local space with LD, ST, LDC, STC, FE and ENG. -/
def capL (cur : DWord) : CReg := makeCap 0 0x18000 cur 0x51B
/-- A capability over every space with every permission but SEAL, UNSEAL and SLD. -/
def capG (cur : DWord) : CReg := makeCap 0 (2 ^ 64) cur 0xF1F
/-- A plain value. -/
def val (n : Nat) : CReg := ⟨BitVec.ofNat 128 n, false⟩

/-- Whether the checks before an instruction's own pass. -/
def passes (i : Instr) (cx : Cx) : Bool :=
  (coreChecks cx i).isOk && (timetableChecks cx i).isOk && (queueCheck cx i).isOk && (damageCheck cx i).isOk && (roomCheck cx i).isOk

/-- An answer of `Unit` that is no fault is `.ok ()`. -/
theorem isOk_unit {c : Chk Unit} (h : c.isOk = true) : c = .ok () := by
  cases c with
  | error f => cases h
  | ok u => rfl

/-- What `passes` says. -/
theorem passes_clear {i : Instr} {cx : Cx} (h : passes i cx = true) : Clear i cx := by
  simp only [passes, Bool.and_eq_true] at h
  exact ⟨isOk_unit h.1.1.1.1, isOk_unit h.1.1.1.2, isOk_unit h.1.1.2, isOk_unit h.1.2, isOk_unit h.2⟩

/-- Whether a state issues an instruction with its checks passed and a property of the issue. -/
def rdy (i : Instr) (s : State) (p : Cx → Bool) : Bool :=
  match s.cur with
  | none => false
  | some c => match s.issuing c with
    | none => false
    | some cx => passes i cx && p cx

/-- What `rdy` says. -/
theorem rdy_spec {i : Instr} {s : State} {p : Cx → Bool} (h : rdy i s p = true) : ∃ cx, Ready i s cx ∧ p cx = true := by
  unfold rdy at h
  split at h
  · cases h
  · next c hc =>
    split at h
    · cases h
    · next cx hx =>
      rw [Bool.and_eq_true] at h
      exact ⟨cx, ⟨⟨c, hc, hx⟩, passes_clear h.1⟩, h.2⟩

/-- Whether a state issues an instruction in a tile, with its checks passed and a property of the issue. -/
def rdyT (i : Instr) (s : State) (p : Cx → TileCx → Bool) : Bool :=
  rdy i s fun cx => match cx.tile with | .error _ => false | .ok tc => p cx tc

/-- What `rdyT` says. -/
theorem rdyT_spec {i : Instr} {s : State} {p : Cx → TileCx → Bool} (h : rdyT i s p = true) :
    ∃ cx tc, Ready i s cx ∧ cx.tile = .ok tc ∧ p cx tc = true := by
  obtain ⟨cx, hr, hp⟩ := rdy_spec h
  split at hp
  · cases hp
  · next tc htc => exact ⟨cx, tc, hr, htc, hp⟩

/-- Whether an outcome is a next state with a property. -/
def goes (o : Out) (p : State → Bool) : Bool := match o with | .next u => p u | _ => false
/-- Whether a check answers a value. -/
def okIs {α : Type} [DecidableEq α] (c : Chk α) (v : α) : Bool := match c with | .ok x => x == v | .error _ => false
/-- Whether a check faults with a code. -/
def bad {α : Type} (c : Chk α) (code : Nat) : Bool := match c with | .ok _ => false | .error f => f.code == code

/-- An access core with a few registers. -/
def aSt (l : List (RegNo × CReg)) : State := st .access (tileOf .access (slotOf l)) pq
/-- An execute core with a few registers. -/
def eSt (l : List (RegNo × CReg)) : State := st .execute (tileOf .execute (slotOf l)) pq
/-- A hub with a few registers. -/
def hSt (l : List (RegNo × CReg)) : State := sh (hubOf l)

/-- Whether an instruction, run in tile (0, 0), leaves exactly these effects due there. -/
def leaves (i : Instr) (s : State) (l : List Pend) : Bool := goes (exec i s) fun u => (u.tile t0).pend == l

/-! ### Single steps -/

/-- addi of -1 in cycle 0: the result falls due at the end of cycle 3 (R28, R85). -/
theorem test_addi : leaves (.addi 5 1 0xFFFF) (aSt [(1, val 5)]) [⟨3, .creg .access 0 5 (val 4)⟩] = true := by decide +kernel
/-- add wraps modulo 2^128 (R84). -/
theorem test_add_wraps : leaves (.add 5 1 2) (aSt [(1, val (2 ^ 128 - 1)), (2, val 2)]) [⟨3, .creg .access 0 5 (val 1)⟩] = true := by
  decide +kernel
/-- div of -7 by 2 truncates toward 0, and by 0 gives all ones (R84). -/
theorem test_div : leaves (.div 5 1 2) (aSt [(1, val (2 ^ 128 - 7)), (2, val 2)]) [⟨31, .creg .access 0 5 (val (2 ^ 128 - 3))⟩] ∧
    leaves (.div 5 1 2) (aSt [(1, val 9)]) [⟨31, .creg .access 0 5 (val (2 ^ 128 - 1))⟩] := by decide +kernel
/-- A shift count is taken modulo 128, and sra keeps the sign (R84). -/
theorem test_shift : leaves (.sll 5 1 2) (aSt [(1, val 3), (2, val 129)]) [⟨3, .creg .access 0 5 (val 6)⟩] ∧
    leaves (.sra 5 1 2) (aSt [(1, val (2 ^ 127)), (2, val 126)]) [⟨3, .creg .access 0 5 (val (2 ^ 128 - 2))⟩] := by decide +kernel
/-- lhi of -1 (R86). -/
theorem test_lhi : leaves (.lhi 5 0x1FFFFF) (aSt []) [⟨3, .creg .access 0 5 (val (2 ^ 128 - 2 ^ 16))⟩] = true := by decide +kernel
/-- A result for c0 is discarded (R11). -/
theorem test_c0 : leaves (.addi 0 1 1) (aSt [(1, val 5)]) [] = true := by decide +kernel
/-- A taken bne goes to pc + 4 × offset: 0x100 - 12 (R92). -/
theorem test_bne : goes (exec (.bne 1 2 0xFFFD) (aSt [(1, val 5)])) (fun u => capCur ((u.tile t0).slot .access 0).pcc.data == 0xF4) ∧
    goes (exec (.bne 1 1 0xFFFD) (aSt [(1, val 5)])) (fun u => capCur ((u.tile t0).slot .access 0).pcc.data == 0x104) := by decide +kernel
/-- loop with a count of 0 goes to LE = 0x100 + 4 + 4 × 3 (R95). -/
theorem test_loop_zero : goes (exec (.loop 1 3) (aSt [])) (fun u => capCur ((u.tile t0).slot .access 0).pcc.data == 0x110 &&
    !((u.tile t0).slot .access 0).loop.active) = true := by decide +kernel
/-- A store falls due at the end of n + 3, lowest byte first, and a load reads the lowest byte first (R5, R98). -/
theorem test_memory : leaves (.stH 5 1 2) (aSt [(1, capL 0x200), (5, val 0x1234)])
      [⟨3, .store 0x202 [0x34, 0x12] false false ⟨0, 0, 0, 0, 0, 0, none⟩⟩] ∧
    leaves (.ldH 5 1 2) { aSt [(1, capL 0x200)] with mem := [(tileAddr t0 0x202, 0x34), (tileAddr t0 0x203, 0xF2)] }
      [⟨7, .creg .access 0 5 (val (2 ^ 128 - 0x10000 + 0xF234))⟩] := by decide +kernel
/-- fadd of 1.5 and 2.25 in lane 0, and the product -0 × 3 (R104, R105). -/
theorem test_float : leaves (.fadd 5 1 2 .f32) (eSt [(1, val 0x3FC00000), (2, val 0x40100000)]) [⟨7, .creg .execute 0 5 (val 0x40700000)⟩] ∧
    leaves (.fmul 5 1 2 .f32) (eSt [(1, val 0x80000000), (2, val 0x40400000)]) [⟨7, .creg .execute 0 5 (val 0x80000000)⟩] := by decide +kernel
/-- vadd wraps within each 8-bit lane (R111). -/
theorem test_vadd : leaves (.vadd 5 1 2 .b) (eSt [(1, val 0x01FF), (2, val 0x0202)]) [⟨3, .creg .execute 0 5 (val 0x0301)⟩] = true := by
  decide +kernel
/-- A hub-level instruction in a tile raises PRIV, one of another core ILLEGAL (R70). -/
theorem test_core : goes (exec (.tlbW 1 2) (aSt [])) (fun u => (u.part 0).any fun q => q.faults.any fun r => r.code == 0x08) ∧
    goes (exec (.fadd 1 2 3 .f32) (aSt [])) (fun u => (u.part 0).any fun q => q.freezing && q.faults.any fun r => r.code == 0x01) := by
  decide +kernel
/-- A hub writes its result at once (R145). -/
theorem test_hub : goes (exec (.addi 5 1 2) (hSt [(1, val 7)])) (fun u => (u.hub 0 0).ctx.c[5] == val 9) = true := by decide +kernel
/-- The registers of iteration 2 of the example under R82: fadd c26, c25, c2 replays as c1, c27, c2. -/
theorem test_rename : decode (renameWord 0xA3591000 2 1 1 0 0) = .ok (.fadd 1 27 2 .f32) := by rfl
/-- A timetable of one phase entry C = 0, X = 100,000 puts cycle 5 in an exchange phase; one without phases has none (R152). -/
theorem test_phase : (prt ttX 5).exchange 5 = true ∧ pq.exchange 0 = false ∧ pq.cyc = 0 := by decide +kernel

/-! ### Witnesses: encoding and the step -/

/-- EncodedWordsDecode. -/
theorem witness_EncodedWordsDecode : (Instr.add 3 4 5).wellFormed = true ∧ encode (.add 3 4 5) = some (wT 1 3 4 5 0 0) ∧
    (Instr.tretIsolate 3).wellFormed = true ∧ encode (.tretIsolate 3) = some (wY 0 3 0 1) ∧
    (Instr.fence 5).wellFormed = true ∧ encode (.fence 5) = some (wV 0x38 0 0 0 5 0 15) := by decide +kernel
/-- DecodedWordsEncode: every word of the tests above, and this one. -/
theorem witness_DecodedWordsEncode : decode 0x08A00007 = .ok (.addi 5 0 7) := by rfl

/-- The state with `addi c5, c0, 7` in memory at the PCC of a slot with an empty buffer. -/
def memSt : State := { st .access (tileOf .access (slotOf [])) pq with
  mem := [(tileAddr t0 0x100, 0x07), (tileAddr t0 0x102, 0xA0), (tileAddr t0 0x103, 0x08)], agenda := [.issue (.tile t0 .access 0)] }
/-- StepRunsTheWordInMemory. -/
theorem witness_StepRunsTheWordInMemory : memSt.agenda = [.issue (.tile t0 .access 0)] ∧ memSt.partOf t0 = some pq ∧ pq.form = .running ∧
    (memSt.tile t0).lost = false ∧ (memSt.tile t0).starting .access 0 = false ∧ ((memSt.tile t0).core .access).frame = none ∧
    (memSt.tile t0).damage = [] ∧ ((memSt.tile t0).slot .access 0).live = true ∧ ((memSt.tile t0).slot .access 0).hold = none ∧
    ((memSt.tile t0).slot .access 0).fbuf.words = [] ∧ okIs (checkCap ((memSt.tile t0).slot .access 0).pcc 0 4 pX) 0x100 ∧
    capCur ((memSt.tile t0).slot .access 0).pcc.data = 0x100 ∧
    BitVec.ofNat 32 (Mem.readLE memSt.mem (tileAddr t0 0x100) 4) = 0x08A00007#32 := by decide +kernel

/-- The same slot with the word in its buffer, at the last word of instruction memory. -/
def bufSlot : Slot := { slotOf [] with
  pcc := makeCap 0 0x8000 0x7FFC pX, fbuf := ⟨0x7FFC, [⟨0x08A00007, false⟩]⟩ }
/-- A tile that repeats fadd c26, c25, c2, in iteration 2 of 4. -/
def frameTile : Tile := (tileOf .execute (slotOf [])).setCore .execute
  { (tileOf .execute (slotOf [])).core .execute with frame := some ⟨0, 0x100, [⟨0xA3591000, false⟩], 4, 1, 1, 1, 0, 0, 2, 0⟩ }
/-- StepRunsTheBufferedWord. -/
theorem witness_StepRunsTheBufferedWord :
    (let s : State := { st .access (tileOf .access bufSlot) pq with agenda := [.issue (.tile t0 .access 0)] }
     s.partOf t0 = some pq ∧ (s.tile t0).lost = false ∧ (s.tile t0).starting .access 0 = false ∧ ((s.tile t0).core .access).frame = none ∧
     (s.tile t0).damage = [] ∧ bufSlot.live = true ∧ bufSlot.hold = none ∧ bufSlot.fbuf = ⟨capCur bufSlot.pcc.data, [⟨0x08A00007, false⟩]⟩ ∧
     okIs (checkCap bufSlot.pcc 0 4 pX) (capCur bufSlot.pcc.data) ∧ (capCur bufSlot.pcc.data).toNat + 4 ≤ 0x8000 ∧
     (s.tile t0).slot .access 0 = bufSlot) ∧
    (let s : State := { st .execute frameTile pq with agenda := [.issue (.tile t0 .execute 0)] }
     s.partOf t0 = some pq ∧ (s.tile t0).lost = false ∧ (s.tile t0).starting .execute 0 = false ∧ (s.tile t0).damage = [] ∧
     ((s.tile t0).core .execute).frame = some ⟨0, 0x100, [⟨0xA3591000, false⟩], 4, 1, 1, 1, 0, 0, 2, 0⟩ ∧
     ((s.tile t0).slot .execute 0).live = true ∧ ((s.tile t0).slot .execute 0).hold = none ∧
     okIs (checkCap ((s.tile t0).slot .execute 0).pcc 0 4 pX) 0x100) := by decide +kernel
/-- StepRunsTheAgenda. -/
theorem witness_StepRunsTheAgenda :
    ({ State.reset with agenda := [.event .launchSlot] } : State).agenda = [.event .launchSlot] ∧ State.reset.agenda = [] ∧
    (let h := { hubOf [] with ctx := bufSlot }
     let s : State := { sh h with agenda := [.issue (.hub 0 0)] }
     (s.hub 0 0) = h ∧ h.stopped = false ∧ h.failed = false ∧ h.wait = none ∧ h.damage = [] ∧
     (s.hub 0 0).ctx.live = true ∧ (capCur (s.hub 0 0).ctx.pcc.data).toNat + 4 ≤ 0x40000) := by
  refine ⟨rfl, rfl, ?_⟩
  decide +kernel

/-- An execute core whose store queue is full and whose load queue has an entry. -/
def fullSq : Tile := { tileOf .execute (slotOf []) with sq := List.replicate 8 0, lq := [5] }
/-- ChecksBeforeAnInstruction: a core that is not listed, a queue register, a hub-level form, a frame, a compute phase; an empty load
queue and a full store queue; a word that does not decode. -/
theorem witness_ChecksBeforeAnInstruction :
    (isWord (.fadd 1 2 3 .f32) = true ∧ (coresOf (.fadd 1 2 3 .f32)).lists .access = false ∧ hubLevel (.fadd 1 2 3 .f32) = false) ∧
    (28 ∈ (regUse (.add 1 28 3)).all ∧ hubLevel (.add 1 28 3) = false) ∧
    ((regUse (.add 28 1 3)).dst = some 28 ∧ 29 ∈ (regUse (.add 1 29 3)).srcs ∧ 28 ∈ (regUse (.tlbW 28 2)).all ∧ 29 ∈ (regUse (.add 1 29 3)).all ∧
      isWord (.tlbW 28 2) = true ∧ (hSt []).cur.bind (hSt []).issuing ≠ none) ∧
    (hubLevel (.tlbW 1 2) = true ∧ ∀ r ∈ (regUse (.tlbW 1 2)).all, r ≠ 28 ∧ r ≠ 29) ∧
    ((coresOf .nop).lists .access = true ∧ frameClass .nop = false ∧ ∀ r ∈ (regUse .nop).all, r ≠ 28 ∧ r ≠ 29) ∧
    (exchangeClass (.trn 1) = true ∧ pq.exchange 0 = false) ∧
    (let s := eSt []
     (match s.cur.bind s.issuing with
      | none => false
      | some cx => (coreChecks cx (.add 1 28 2)).isOk && (timetableChecks cx (.add 1 28 2)).isOk) = true ∧ (s.tile t0).lq = []) ∧
    (let s := st .execute fullSq pq
     (match s.cur.bind s.issuing with
      | none => false
      | some cx => (coreChecks cx (.add 29 28 2)).isOk && (timetableChecks cx (.add 29 28 2)).isOk &&
          (damageCheck cx (.add 29 28 2)).isOk) = true ∧ (s.tile t0).lq ≠ [] ∧ 8 ≤ (s.tile t0).sqUsed) ∧
    decode 0 = .error (.reservedOpcode 0) := by decide +kernel
/-- FaultsAreExact: the partition of the issuing tile, and a hub. -/
theorem witness_FaultsAreExact : (aSt []).part pq.pid = some pq ∧ rdy .nop (aSt []) (fun cx => match cx.wh with | .tile .. => true | _ => false) ∧
    rdy .nop (hSt []) (fun cx => match cx.wh with | .hub .. => true | _ => false) := by decide +kernel
/-- FaultsAreExact: a second hub beside the one that faults, and a second partition. -/
theorem witness_FaultsAreExact_frame : (0 : Nat) < 16 ∧ (0 : Nat) < 64 ∧ (15 : Nat) < 16 ∧ (63 : Nat) < 64 ∧ ((15, 63) : Nat × Nat) ≠ (0, 0) ∧
    (1 : Nat) ≠ pq.pid := by decide +kernel
/-- EveryInstructionAnswers, TileIssueKeepsMemory and ResultsLand: an event, and a word that issues in a tile and goes on. -/
theorem witness_EveryInstructionAnswers : isEvent .launchSlot = true ∧ isWord (.stD 5 1 0) = true ∧
    rdyT (.stD 5 1 0) (aSt [(1, capL 0x200)]) (fun _ _ => true) ∧ goes (exec (.stD 5 1 0) (aSt [(1, capL 0x200)])) (fun _ => true) := by
  decide +kernel
/-- StepKeepsMemory. -/
theorem witness_StepKeepsMemory : Mem.wf memSt.mem = true ∧ goes (step memSt) (fun _ => true) := by decide +kernel
/-- The memory after reset is in its form, and a step from reset goes on. -/
theorem test_reset : Mem.wf State.reset.mem = true ∧ goes (step State.reset) (fun s => s.rmt == 1) := by decide +kernel
/-- IssueLeavesTheRest and ResultsLand: c0, a register, c29 of an execute core, and a hub. -/
theorem witness_ResultsLand : rdyT (.add 0 1 2) (aSt []) (fun _ tc => tc.k == .access) ∧ rdyT (.add 29 1 2) (eSt []) (fun _ tc => tc.k == .execute) ∧
    rdyT (.add 29 28 2) (st .execute { tileOf .execute (slotOf []) with lq := [7] } pq) (fun _ tc => tc.k == .execute) ∧
    rdy (.add 1 2 3) (hSt []) (fun cx => match cx.wh with | .hub .. => true | _ => false) := by decide +kernel
/-- EffectsFallDue: a writer that no channel word names, the first and last byte of 8, the last word of local SRAM and the first byte of
the bonded slice. -/
theorem witness_EffectsFallDue : Mem.wf (aSt []).mem = true ∧ (⟨0, 0, 0, 0, 0, 0, none⟩ : Writer).word = none ∧
    (leBytes 8 5)[0]? = some 5 ∧ (leBytes 8 5)[7]? = some 0 ∧ t0.x < 1024 ∧ leBytes 8 5 ≠ [] ∧ 0x7FF8 + (leBytes 8 5).length ≤ 0x8000 ∧
    0x7FF8 + 8 ≤ 0x8000 ∧ 0x8000 ≤ 0x8000 := by decide +kernel

/-! ### Witnesses: scalar instructions -/

/-- Whether instructions issue on an access core, an execute core and a hub, all with the same registers. -/
def rdyAll (l : List Instr) (r : List (RegNo × CReg)) : Bool :=
  l.all fun i => rdy i (aSt r) (fun _ => true) && rdy i (eSt r) (fun _ => true) && rdy i (hSt r) (fun _ => true)

/-- IntegerResults: every form issues on every kind of core. -/
theorem witness_IntegerResults : rdyAll [.add 3 4 5, .sub 3 4 5, .and 3 4 5, .or 3 4 5, .xor 3 4 5, .andn 3 4 5, .sll 3 4 5, .srl 3 4 5,
    .sra 3 4 5, .rol 3 4 5, .slt 3 4 5, .sltu 3 4 5, .min 3 4 5, .max 3 4 5, .minu 3 4 5, .maxu 3 4 5, .mul 3 4 5, .mulh 3 4 5,
    .mulhu 3 4 5, .div 3 4 5, .divu 3 4 5, .rem 3 4 5, .remu 3 4 5, .clz 3 4, .ctz 3 4, .pop 3 4, .sext 3 4 .b, .zext 3 4 .d,
    .addi 3 4 5, .andi 3 4 5, .ori 3 4 5, .xori 3 4 5, .slti 3 4 5, .sltui 3 4 5, .slli 3 4 127, .srli 3 4 0, .srai 3 4 5, .lhi 3 5]
    [(4, val 7)] = true ∧ (∀ m < 7, (val 128).data.getLsbD m = false) ∧ (val 128).data.getLsbD 7 = true := by decide +kernel

/-- A sealed capability. -/
def capS : CReg := ⟨withPerm (capL 0x200).data (capPerm (capL 0x200).data ||| pSLD), true⟩
/-- A sealed entry capability. -/
def capE' : CReg := makeCap 0 0x8000 0x400 (pX ||| pLD ||| pSLD)
/-- CapabilityGetsAndCursors: the gets issue; a tagged, sealed source, and one that is not sealed, or not tagged. -/
theorem witness_CapabilityGetsAndCursors :
    rdyAll [.cgetBase 3 4, .cgetLen 3 4, .cgetPerm 3 4, .cgetTag 3 4, .cgetCur 3 4, .cinc 3 4 5, .cset 3 4 5, .cincImm 3 4 5] [(4, capL 8)] ∧
    [Instr.cinc 3 4 5, .cset 3 4 5, .cincImm 3 4 5].all (fun i =>
      rdy i (aSt [(4, capS)]) (fun cx => (cx.read 4).tag && (cx.read 4).data.getLsbD 119) &&
      rdy i (aSt [(4, capL 8)]) (fun cx => (cx.read 4).tag && !(cx.read 4).data.getLsbD 119) &&
      rdy i (aSt [(4, ⟨capS.data, false⟩)]) (fun cx => !(cx.read 4).tag && (cx.read 4).data.getLsbD 119)) := by decide +kernel
/-- CapabilityNarrowing, cbnd: untagged, sealed, a top above 2^64, bounds outside; and bounds that are exactly the source's. -/
theorem witness_cbnd :
    let c (r : List (RegNo × CReg)) (p : CReg → Nat → Bool) : Bool := rdy (.cbnd 3 4 5) (aSt r) fun cx => p (cx.read 4) ((cx.data 5).toNat % 2 ^ 64)
    c [(4, val 8)] (fun x _ => !x.tag) ∧ c [(4, capS)] (fun x _ => x.tag && x.data.getLsbD 119) ∧
    c [(4, capG (BitVec.ofNat 64 (2 ^ 64 - 8))), (5, val 16)] (fun x n => x.tag && !x.data.getLsbD 119 && decide (2 ^ 64 < x.data.toNat % 2 ^ 64 + n)) ∧
    c [(4, capL 0x17FF8), (5, val 16)] (fun x n => x.tag && !x.data.getLsbD 119 &&
      decide ((decodeBounds x.data).2 < (encodeBounds (x.data.toNat % 2 ^ 64) (x.data.toNat % 2 ^ 64 + n) (x.data.toNat % 2 ^ 64)).top)) ∧
    c [(4, capL 0), (5, val 0x18000)] (fun x n => x.tag && !x.data.getLsbD 119 &&
      (let e := encodeBounds (x.data.toNat % 2 ^ 64) (x.data.toNat % 2 ^ 64 + n) (x.data.toNat % 2 ^ 64)
       decide ((decodeBounds x.data).1 = e.base ∧ e.top = (decodeBounds x.data).2))) := by decide +kernel
/-- A sealing capability, and one for unsealing, over instruction memory. -/
def capK (p : BitVec 12) : CReg := makeCap 0 0x8000 0 p
/-- CapabilityNarrowing, cperm, cseal and cunseal. -/
theorem witness_cseal :
    rdy (.cperm 3 4 5) (aSt [(4, val 8)]) (fun cx => !(cx.read 4).tag) ∧ rdy (.cperm 3 4 5) (aSt [(4, capS)]) (fun cx => sealed (cx.data 4)) ∧
    rdy (.cperm 3 4 5) (aSt [(4, capL 8)]) (fun cx => (cx.read 4).tag && !sealed (cx.data 4)) ∧
    ([(Instr.cseal 3 4 5, pSEAL, makeCap 0 0x8000 0x400 pX, capE'), (.cunseal 3 4 5, pUNSEAL, capE', makeCap 0 0x8000 0x400 pX)].all fun x =>
      rdy x.1 (aSt [(4, x.2.2.1)]) (fun cx => !(cx.read 5).tag) &&
      rdy x.1 (aSt [(4, x.2.2.1), (5, capK pLD)]) (fun cx => (cx.read 4).tag && (cx.read 5).tag && !hasPerm (cx.data 5) x.2.1) &&
      rdy x.1 (aSt [(4, x.2.2.2), (5, capK x.2.1)]) (fun cx => (cx.read 4).tag && (cx.read 5).tag && sealed (cx.data 4) == sealed x.2.2.2.data) &&
      rdy x.1 (aSt [(4, x.2.2.1), (5, makeCap 0 0x4000 0 x.2.1)]) (fun cx => hasPerm (cx.data 5) x.2.1 && !sealed (cx.data 5) &&
        decide ((decodeBounds (cx.data 5)).2 < (decodeBounds (cx.data 4)).2)) &&
      rdy x.1 (aSt [(4, x.2.2.1), (5, capK x.2.1)]) (fun cx => hasPerm (cx.data 5) x.2.1 && !sealed (cx.data 5) &&
        decide (decodeBounds (cx.data 5) = decodeBounds (cx.data 4)))) = true := by decide +kernel

/-- BranchesAndJumps: the forms issue; operands for which every branch is taken and not taken; jr of an entry and of another value. -/
theorem witness_BranchesAndJumps :
    rdyAll [.beq 4 5 1, .bne 4 5 1, .blt 4 5 1, .bge 4 5 1, .bltu 4 5 1, .bgeu 4 5 1, .j 5, .jl 5, .jr 4, .nop, .ifence] [(4, val 1)] ∧
    rdy (.blt 4 5 1) (aSt [(4, val (2 ^ 128 - 1))]) (fun cx => decide ((cx.data 4).toInt < (cx.data 5).toInt) && decide (¬(cx.data 4).toNat < (cx.data 5).toNat)) ∧
    rdy (.bge 4 5 1) (aSt []) (fun cx => decide ((cx.data 5).toInt ≤ (cx.data 4).toInt) && decide (cx.data 4 = cx.data 5)) ∧
    rdy (.bltu 4 5 1) (aSt [(5, val 1)]) (fun cx => decide ((cx.data 4).toNat < (cx.data 5).toNat) && decide (cx.data 4 ≠ cx.data 5)) ∧
    rdy (.jr 4) (aSt [(4, capE')]) (fun cx => (cx.read 4).tag && (cx.data 4).getLsbD 119 && (cx.data 4).getLsbD 114) ∧
    rdy (.jr 4) (aSt [(4, capS)]) (fun cx => (cx.read 4).tag && (cx.data 4).getLsbD 119 && !(cx.data 4).getLsbD 114) ∧
    rdyT .nop (aSt []) (fun cx _ => !cx.slot.loop.active && decide ((cx.pc + 16).toNat + 4 ≤ 0x8000)) := by decide +kernel

/-- A slot in a loop from 0x0F0 to 0x104. -/
def loopSlot (lc : Nat) : Slot := { slotOf [(4, val 3)] with loop := ⟨0x0F0, 0x104, BitVec.ofNat 32 lc, true⟩ }
/-- Loops: an active loop, a count of 0 and of 1; at LE with a count above 1 and of 1, and before LE; jumps to LS and to LE - 4, which
lie inside, and to LE, which does not. -/
theorem witness_Loops :
    rdy (.loop 4 1) (st .access (tileOf .access (loopSlot 1)) pq) (fun cx => cx.slot.loop.active) ∧
    rdy (.loop 4 1) (aSt [(4, val (2 ^ 32))]) (fun cx => !cx.slot.loop.active && (cx.data 4).setWidth 32 == 0#32) ∧
    rdy (.loop 4 65535) (aSt [(4, val 1)]) (fun cx => !cx.slot.loop.active && (cx.data 4).setWidth 32 != 0#32) ∧
    rdy .nop (st .access (tileOf .access (loopSlot 2)) pq) (fun cx => cx.pc + 4 == cx.slot.loop.le && decide (1 < cx.slot.loop.lc.toNat)) ∧
    rdy .nop (st .access (tileOf .access (loopSlot 1)) pq) (fun cx => cx.pc + 4 == cx.slot.loop.le && decide (cx.slot.loop.lc.toNat ≤ 1)) ∧
    (0x0FC#64 + 4 ≠ (loopSlot 1).loop.le) ∧
    (let l := (loopSlot 1).loop
     (l.ls.toNat ≤ 0x0F0 ∧ 0x0F0 + 4 ≤ l.le.toNat) ∧ (l.ls.toNat ≤ 0x100 ∧ 0x100 + 4 ≤ l.le.toNat) ∧ ¬(0x104 + 4 ≤ l.le.toNat)) := by
  decide +kernel
/-- HoldAndRep: a hold to the past, to the present cycle, and one that expires; a frame that is taken, a body end inside the frame, and
neither. -/
theorem witness_HoldAndRep :
    rdyT (.hold 4) (st .access (tileOf .access (slotOf [(4, val 7)])) (prt .empty 8)) (fun cx tc => decide ((cx.data 4).toNat < (tc.part.tb + cx.n) % 2 ^ 64)) ∧
    rdyT (.hold 4) (st .execute (tileOf .execute (slotOf [(4, val 8)])) (prt .empty 8)) (fun cx tc => decide ((tc.part.tb + cx.n) % 2 ^ 64 ≤ (cx.data 4).toNat)) ∧
    (let s := st .access (tileOf .access { slotOf [] with hold := some 8 }) (prt .empty 8)
     s.partOf t0 = some (prt .empty 8) ∧ ((s.tile t0).slot .access 0).hold = some 8 ∧ (prt .empty 8).cyc % 4 = 0 ∧
       (8#64).toNat ≤ ((prt .empty 8).tb + (prt .empty 8).cyc) % 2 ^ 64) ∧
    rdyT (.rep 3 1 1 2 3 4) (st .execute frameTile pq) (fun _ tc => (tc.tile.core tc.k).frame.isSome) ∧
    rdyT (.rep 3 0 1 2 3 4) (st .execute (tileOf .execute { slotOf [] with loop := ⟨0x0F0, 0x104, 1, true⟩ }) pq) (fun cx tc =>
      (tc.tile.core tc.k).frame.isNone && cx.slot.loop.active && decide (cx.slot.loop.ls.toNat ≤ cx.pc.toNat) &&
        decide (cx.pc.toNat + 4 ≤ cx.slot.loop.le.toNat) && decide (cx.slot.loop.le.toNat ≤ (cx.pc + BitVec.ofNat 64 (4 * (0 + 1))).toNat)) ∧
    rdyT (.rep 255 15 1 2 3 4) (eSt []) (fun cx tc => (tc.tile.core tc.k).frame.isNone && !cx.slot.loop.active) ∧
    (∀ p ∈ [(2, 0), (2, 1), (3, 1)], let f : Frame := ⟨0, 0x100, [], 4, 2, 1, 1, 0, 0, p.1, p.2⟩
      ({ Core.cleared with frame := some f } : Core).frame = some f ∧ (Core.cleared.slots[(0 : Fin 4)]).loop.active = false ∧
        (f.j + 1 < f.len ∨ (f.len ≤ f.j + 1 ∧ (f.i + 1 < f.n ∨ f.n ≤ f.i + 1)))) := by decide +kernel

/-! ### Witnesses: local memory, hubs, vectors -/

/-- The load forms with their permissions and the last place of their window. -/
def loadForms : List (Instr × Nat × Nat × BitVec 12 × Nat) :=
  [(.ldB 3 4 0, 1, 0x7FFF, 0x001, 0x8000), (.ldBu 3 4 0, 1, 0x7FFF, 0x001, 0x8000), (.ldH 3 4 0, 2, 0x7FFE, 0x001, 0x8000),
   (.ldHu 3 4 0, 2, 0x7FFE, 0x001, 0x8000), (.ldW 3 4 0, 4, 0x7FFC, 0x001, 0x8000), (.ldD 3 4 0, 8, 0x7FF8, 0x001, 0x8000),
   (.ldQ 3 4 0, 16, 0x7FF0, 0x001, 0x8000), (.ldC 3 4 0, 16, 0x7FF0, 0x009, 0x8000), (.ldbQ 3 4 0, 16, 0x17FF0, 0x001, 0x18000)]
/-- TileLoads: the last place of each window and one past it, and a damaged word. -/
theorem witness_TileLoads : (loadForms.all fun x =>
    let lo := if x.2.2.2.2 = 0x18000 then 0x8000 else 0
    rdyT x.1 (aSt [(4, capL (BitVec.ofNat 64 x.2.2.1))]) (fun cx tc => okIs (checkLocal (cx.read 4) 0 x.2.1 x.2.2.2.1 lo x.2.2.2.2) x.2.2.1 &&
      (tc.tile.eccAt x.2.2.1 x.2.1).isNone) &&
    rdyT x.1 (aSt [(4, capL (BitVec.ofNat 64 x.2.2.2.2))]) (fun cx _ => !(checkLocal (cx.read 4) 0 x.2.1 x.2.2.2.1 lo x.2.2.2.2).isOk) &&
    rdyT x.1 (st .execute { tileOf .execute (slotOf [(4, capL (BitVec.ofNat 64 x.2.2.1))]) with
        damage := [⟨0x20, 0x7FF8⟩, ⟨0x20, 0x7FF0⟩, ⟨0x28, 0x17FF0⟩] } pq) (fun cx tc =>
      okIs (checkLocal (cx.read 4) 0 x.2.1 x.2.2.2.1 lo x.2.2.2.2) x.2.2.1 && (tc.tile.eccAt x.2.2.1 x.2.1).isSome)) = true := by decide +kernel
/-- TileStores: the last place of each window and one past it. -/
theorem witness_TileStores : ([(Instr.stB 3 4 0, 1, 0x7FFF, 0x002#12, 0x8000), (.stH 3 4 0, 2, 0x7FFE, 0x002, 0x8000), (.stW 3 4 0, 4, 0x7FFC, 0x002, 0x8000),
    (.stD 3 4 0, 8, 0x7FF8, 0x002, 0x8000), (.stQ 3 4 0, 16, 0x7FF0, 0x002, 0x8000), (.stC 3 4 0, 16, 0x7FF0, 0x012, 0x8000),
    (.stFe 3 4 0, 8, 0x7FF8, 0x102, 0x8000), (.stbQ 3 4 0, 16, 0x17FF0, 0x002, 0x18000)].all fun x =>
    let lo := if x.2.2.2.2 = 0x18000 then 0x8000 else 0
    rdyT x.1 (aSt [(4, capL (BitVec.ofNat 64 x.2.2.1))]) (fun cx _ => okIs (checkLocal (cx.read 4) 0 x.2.1 x.2.2.2.1 lo x.2.2.2.2) x.2.2.1) &&
    rdyT x.1 (eSt [(4, capL (BitVec.ofNat 64 x.2.2.2.2))]) (fun cx _ => !(checkLocal (cx.read 4) 0 x.2.1 x.2.2.2.1 lo x.2.2.2.2).isOk)) = true := by
  decide +kernel
/-- FullEmptyAndQueues: an empty and a full word; a load queue with 8 entries present and due, and with 7; a store queue with and
without an entry. -/
theorem witness_FullEmptyAndQueues :
    let base := tileOf .access (slotOf [(4, capL 0x200)])
    let a (full : List Nat) : State := { aSt [(4, capL 0x200)] with full := full }
    rdyT (.ldFe 3 4 0) (a []) (fun cx tc => tc.k == .access && okIs (checkLocal (cx.read 4) 0 8 0x101 0 0x8000) 0x200 && !(a []).isFull tc.t 0x200) ∧
    rdyT (.ldFe 3 4 0) (a [tileAddr t0 0x200]) (fun cx tc => okIs (checkLocal (cx.read 4) 0 8 0x101 0 0x8000) 0x200 &&
      (a [tileAddr t0 0x200]).isFull tc.t 0x200 && (tc.tile.eccAt 0x200 8).isNone) ∧
    rdyT (.ldLq 4 0) (st .access { base with lq := List.replicate 7 0, pend := [⟨3, .lqPush 0 0⟩] } pq) (fun cx tc =>
      okIs (checkLocal (cx.read 4) 0 16 0x001 0 0x8000) 0x200 && decide (8 ≤ tc.tile.lq.length + tc.tile.lqPending)) ∧
    rdyT (.ldLq 4 0) (st .access { base with lq := List.replicate 7 0 } pq) (fun _ tc => decide (tc.tile.lq.length + tc.tile.lqPending < 8) &&
      (tc.tile.eccAt 0x200 16).isNone) ∧
    rdyT (.stSq 4 0) (st .access base pq) (fun cx tc => okIs (checkLocal (cx.read 4) 0 16 0x002 0 0x8000) 0x200 && tc.tile.sq == []) ∧
    rdyT (.stSq 4 0) (st .access { base with sq := [9] } pq) (fun _ tc => tc.tile.sq == [9] && !damaged tc.tile.damage 0x23 8) := by decide +kernel
/-- HubAccesses: the hub's own SRAM at its last place; and a load from HBM: unanswered with a way, answered, refused. -/
theorem witness_HubAccesses :
    ([(Instr.ldB 3 4 0, 1, 0x001#12), (.ldBu 3 4 0, 1, 0x001), (.ldH 3 4 0, 2, 0x001), (.ldHu 3 4 0, 2, 0x001), (.ldW 3 4 0, 4, 0x001),
      (.ldD 3 4 0, 8, 0x001), (.ldQ 3 4 0, 16, 0x001), (.ldC 3 4 0, 16, 0x009), (.stB 3 4 0, 1, 0x002), (.stH 3 4 0, 2, 0x002),
      (.stW 3 4 0, 4, 0x002), (.stD 3 4 0, 8, 0x002), (.stQ 3 4 0, 16, 0x002), (.stC 3 4 0, 16, 0x012)].all fun x =>
      rdy x.1 (hSt [(4, capG (BitVec.ofNat 64 (0x40000 - x.2.1)))]) (fun cx => okIs (checkCap (cx.read 4) 0 x.2.1 x.2.2) (BitVec.ofNat 64 (0x40000 - x.2.1)))) ∧
    ([none, some (Reply.ok [1, 2, 3, 4, 5, 6, 7, 8] false), some .refused].all fun r =>
      let s := sh { hubOf [(4, capG 0x2000000000000040)] with answer := r }
      rdy (.ldD 3 4 0) s (fun cx => okIs (checkCap (cx.read 4) 0 8 0x001) 0x2000000000000040 && (checkSpacePerm (cx.read 4) 0x2000000000000040).isOk &&
        spaceOf 0x2000000000000040 == 2 && (s.hub 0 0).answer == r &&
        (match s.routeAccess 0x2000000000000040 8 with | .ok (.here, _) => true | _ => false))) := by decide +kernel

/-- The execute core with a rounding mode in fm. -/
def fSt (rm : Nat) (l : List (RegNo × CReg)) : State :=
  st .execute (tileOf .execute { slotOf l with fm := BitVec.ofNat 32 (rm * 2 ^ 21) }) pq
/-- FloatingForms and PackedIntegerResults: the forms issue, in the last mode and in the first reserved one. -/
theorem witness_FloatingForms : ([Instr.fadd 1 2 3 .f32, .fsub 1 2 3 .bf16, .fmul 1 2 3 .f32, .fma 1 2 3 4 .f32, .fms 1 2 3 4 .f32, .vsum 1 2 .f32,
      .frcp 1 2 .f32, .frsq 1 2 .f32, .fsqrt 1 2 .f32, .fex2 1 2 .f32, .flg2 1 2 .f32, .fsin 1 2 .f32, .fcos 1 2 .f32, .fmin 1 2 3 .f32,
      .fmax 1 2 3 .f32, .fabs 1 2 .f32, .fneg 1 2 .f32, .fcmpEq 1 2 3 .f32, .fcmpLt 1 2 3 .f32, .fcmpLe 1 2 3 .f32, .fsel 1 2 3 4 .f32,
      .vmaxr 1 2 .f32, .vminr 1 2 .bf16].all fun i =>
      rdy i (fSt 4 []) (fun cx => rmode (cx.slot.fm.toNat / 2 ^ 21 % 8) == some .sr) && rdy i (fSt 5 []) (fun cx => decide (5 ≤ cx.slot.fm.toNat / 2 ^ 21 % 8))) ∧
    ([Instr.vadd 1 2 3 .b, .vsub 1 2 3 .h, .vmul 1 2 3 .w, .vmin 1 2 3 .d, .vmax 1 2 3 .b, .vand 1 2 3 .b, .vor 1 2 3 .b, .vxor 1 2 3 .b,
      .vshl 1 2 3 .b, .vsra 1 2 3 .b, .vperm 1 2 3 .b, .vbcast 1 2 15 .b].all fun i => rdy i (fSt 0 []) (fun _ => true)) := by decide +kernel
/-- The execute core with fm.FC and fm.RM. -/
def cSt (fc rm : Nat) : State := st .execute (tileOf .execute { slotOf [] with fm := BitVec.ofNat 32 (fc * 2 ^ 16 + rm * 2 ^ 21) }) pq
/-- ConversionsAndScales: a legal format, mode and last part; a reserved format, a reserved mode, and the first part past the last. -/
theorem witness_ConversionsAndScales : (List.all [Instr.cvtWide 1 2 0 7 0, .cvtWideb 1 2 0 7 0, .cvtPack 1 2 0 7 0, .cvtPackb 1 2 0 7 0] fun (f : BitVec 3 → Instr) =>
      rdy (f 0) (cSt 0 4) (fun cx => (fmtOf (fmFC cx.slot.fm)).isSome && (rmode (fmRM cx.slot.fm)).isSome) &&
      rdy (f 0) (cSt 31 0) (fun cx => (fmtOf (fmFC cx.slot.fm)).isNone) && rdy (f 0) (cSt 0 5) (fun cx => (rmode (fmRM cx.slot.fm)).isNone) &&
      rdy (f 7) (cSt 0 0) (fun cx => (fmtOf (fmFC cx.slot.fm)).any fun g => decide (cvtParts g.elem 4 ≤ 7 ∧ cvtParts g.elem 8 ≤ 7))) ∧
    ([Instr.cvtF2b 1 2 0 7 0 1, .cvtF2b 1 2 0 7 0 2, .cvtB2f 1 2 0 7 0 1, .cvtB2f 1 2 0 7 0 2, .cvtF2i 1 2 0 7 0 0, .cvtF2i 1 2 0 7 0 1,
      .cvtI2f 1 2 0 7 0 0, .cvtI2f 1 2 0 7 0 1].all fun i => rdy i (cSt 0 4) (fun _ => true) && rdy i (cSt 0 5) (fun _ => true)) ∧
    rdyT (.amaxb 1 2 3 .f32) (cSt 0 0) (fun _ _ => true) ∧ rdyT (.scl 1 2 15 .f32) (cSt 31 0) (fun cx _ => (fmtOf (fmFC cx.slot.fm)).isNone) ∧
    rdyT (.scl 1 2 15 .f32) (cSt 0 0) (fun cx _ => (fmtOf (fmFC cx.slot.fm)).isSome) := by decide +kernel

/-! ### Witnesses: the matrix unit -/

/-- MatrixEffects and AccumulatorReadOut: the forms issue; mz.ovf with and without clear; mz.rd in a mode and in a reserved one. -/
theorem witness_MatrixEffects :
    ([Instr.mzClr 3, .mzAnc 4 1, .msk 4 2, .mgeoSub 4 3, .mzOvf 1 0 0, .mzOvf 1 3 1, .mgeo 1 4 3].all fun i => rdyT i (fSt 0 []) (fun _ _ => true)) ∧
    rdyT (.mzRd 1 0 7 0 1 3 7) (fSt 4 []) (fun cx tc => tc.tile.damage == [] && (rmode (fmRM cx.slot.fm)).isSome) ∧
    rdyT (.mzRd 1 0 7 1 0 0 0) (fSt 5 []) (fun cx tc => tc.tile.damage == [] && (rmode (fmRM cx.slot.fm)).isNone) := by decide +kernel
/-- An execute core with fm and two operand capabilities, and its tile changed. -/
def mSt (fm : Nat) (f : Tile → Tile) : State :=
  st .execute (f (tileOf .execute { slotOf [(4, capL 0x400), (5, capL 0x8000)] with fm := BitVec.ofNat 32 fm })) pq
/-- An mma of zeros on z0 with one live element, issued in cycle 0: due in cycle 31. -/
def mma1 : MmaOp := ⟨0, 0, 8, 0, 0, 0, 1, List.replicate 8 (List.replicate 128 0), List.replicate 8 (List.replicate 128 0), 0, 0, 0, 0⟩
/-- MmaRuns: a reserved format; FP32 operands with a free and a busy unit; a completion that is due; terms with an infinity and without;
the largest element and 1. -/
theorem witness_MmaRuns :
    rdyT (.mma 1 4 5 0 0 0 0) (mSt 31 id) (fun cx tc => tc.tile.damage == [] && (fmtOf (fmFA cx.slot.fm)).isNone) ∧
    rdyT (.mma 1 4 5 0 0 0 0) (mSt 0 id) (fun cx tc => tc.tile.damage == [] && tc.tile.mma.isNone &&
      ((fmtOf (fmFA cx.slot.fm)).any fun f => okIs (checkSpan (cx.read 4) 0 (32 * f.elem.width) 0x001 16 0 0x8000) 0x400 &&
        (checkColumns (cx.read 5) (4 * f.elem.width) 8).isOk)) ∧
    rdyT (.mma 1 4 5 0 0 0 0) (mSt 0 fun t => { t with mma := some mma1 }) (fun _ tc => tc.tile.mma.isSome) ∧
    (let s := st .execute { tileOf .execute (slotOf []) with mma := some mma1 } (prt .empty 31)
     s.partOf t0 = some (prt .empty 31) ∧ (s.tile t0).mma = some mma1 ∧ mma1.due ≤ (prt .empty 31).cyc ∧ (s.tile t0).damage = []) ∧
    (fmtOf mma1.fa).isSome = true ∧ (fmtOf mma1.fb).isSome = true ∧ mma1.rows.length = 8 ∧ mma1.cols.length = 8 ∧
    none ∈ [(Elem.decode .fp32 0x7F800000, Elem.decode .fp32 0x3F800000)].map (fun p => finTerm p.1 p.2) ∧
    ([(Elem.decode .fp32 0x40400000, Elem.decode .fp32 0xC0000000)].map fun p => (finTerm p.1 p.2).isSome) = [true] ∧
    2 ^ 95 - 1 < (BitVec.ofNat 96 (2 ^ 95 - 1)).toInt + 1 := by decide +kernel
/-- ImageTransfers: a free and a busy unit, an anchor that matches the image's and one that does not; a transfer of each kind that is due. -/
theorem witness_ImageTransfers :
    let busy : ImageOp := ⟨0, 51, false, 0x400, 0, 0, false, false, []⟩
    let t (f : Tile → Tile) := mSt 0 f
    rdyT (.mzRaw 4 0) (t id) (fun cx tc => tc.tile.damage == [] && tc.tile.image.isNone && okIs (checkSpan (cx.read 4) 0 784 0x002 16 0 0x8000) 0x400) ∧
    rdyT (.mzRaw 4 0) (t fun x => { x with image := some busy }) (fun _ tc => tc.tile.image.isSome) ∧
    rdyT (.mzAdd 4 0) { t id with mem := [(tileAddr t0 0x400, 1)] } (fun cx tc => okIs (checkSpan (cx.read 4) 0 784 0x001 16 0 0x8000) 0x400 &&
      tc.tile.z[(0 : Fin 4)].anchor != BitVec.ofNat 10 (Mem.readLE [(tileAddr t0 0x400, 1)] (tileAddr t0 0x400) 16)) ∧
    rdyT (.mzAdd 4 0) (t id) (fun _ tc => tc.tile.image.isNone && tc.tile.z[(0 : Fin 4)].anchor == BitVec.ofNat 10 (Mem.readLE [] (tileAddr t0 0x400) 16)) ∧
    rdyT (.mzAdd 4 0) (t fun x => { x with image := some busy }) (fun _ tc => tc.tile.image.isSome && tc.tile.z[(0 : Fin 4)].anchor == 0) ∧
    (let s := st .execute { tileOf .execute (slotOf []) with image := some busy } (prt .empty 51)
     s.partOf t0 = some (prt .empty 51) ∧ (s.tile t0).image = some busy ∧ busy.due ≤ (prt .empty 51).cyc ∧ busy.add = false) ∧
    (let s := st .execute { tileOf .execute (slotOf []) with image := some { busy with add := true } } (prt .empty 51)
     (s.tile t0).image = some { busy with add := true }) := by decide +kernel

/-! ### Witnesses: exchange -/

/-- A timetable with one slot of a form at OFF 0 of every exchange phase. -/
def ttF (form len : Nat) : Timetable := { ttX with route := [⟨0, 0, 0, form, 0, 0, len, 0⟩] }
/-- The access core at its slot of a form. -/
def xSt (form len : Nat) (l : List (RegNo × CReg)) : State := st .access (tileOf .access (slotOf l)) (prt (ttF form len) 0)
/-- A stream flit from tile (1, 0) that stands at the local output of tile (0, 0) in cycle 0 + 7. -/
def flit7 : Flit := ⟨1, .stream, ⟨1, 0⟩, t0, 0, 0xABCD, 0, none, 0, none, 4⟩
/-- The partition in cycle 7, with a slot of a form at OFF 7 and that flit. -/
def catchPart (form len : Nat) (fl : List Flit) : Part :=
  { prt { ttX with route := [⟨0, 0, 0, form, 0, 0, len, 7⟩] } 7 with flits := fl }
/-- SendsAndCatches: the sends in their slots, a span that fails; catches with and without their flit. -/
theorem witness_SendsAndCatches :
    rdyT (.xmit 4) (xSt 0 0 [(4, val 5)]) (fun _ _ => true) ∧
    rdyT (.xmitM 4 2047) (xSt 1 2047 [(4, capL 0)]) (fun cx _ => okIs (checkSpan (cx.read 4) 0 (16 * 2048) 0x001 16 0 0x8000) 0) ∧
    rdyT (.xmitM 4 2047) (xSt 1 2047 [(4, capL 16)]) (fun cx _ => !(checkSpan (cx.read 4) 0 (16 * 2048) 0x001 16 0 0x8000).isOk) ∧
    ([(Instr.catchOne 4 0x7FF, 2, 0, 0x1F0), (.catchM 4 1, 3, 1, 0x200)].all fun x =>
      rdyT x.1 (st .access (tileOf .access (slotOf [(4, capL 0x200)])) (catchPart x.2.1 x.2.2.1 [])) (fun _ tc => (tc.part.streamAt tc.t 7).isNone) &&
      rdyT x.1 (st .access (tileOf .access (slotOf [(4, capL 0x200)])) (catchPart x.2.1 x.2.2.1 [flit7])) (fun cx tc =>
        tc.part.streamAt tc.t cx.n == some flit7)) ∧
    okIs (checkLocal (capL 0x200) (16 * (0x7FF#11).toInt) 16 0x002 0 0x8000) 0x1F0 ∧
    okIs (checkSpan (capL 0x200) 0 (16 * (1 + 1)) 0x002 16 0 0x8000) 0x200 := by decide +kernel
/-- Journals with every entry in use but the last, and with all in use. -/
def jr (n : Nat) : Vector JEntry 32 := Vector.ofFn fun i => { JEntry.cleared with v := decide (i.val < n), addr := BitVec.ofNat 64 (tileAddr t0 0x200) }
/-- PutTakesAJournalEntry: a home outside, a full journal, and the last free entry. -/
theorem witness_PutTakesAJournalEntry :
    let s (c : DWord) (n : Nat) := st .access { tileOf .access (slotOf [(4, capG c)]) with journal := jr n } (prt (ttF 4 0) 0)
    let ok (cx : Cx) (a : DWord) : Bool := okIs (checkCap (cx.read 4) 0 8 0x202) a && (checkSpacePerm (cx.read 4) a).isOk && spaceOf a == 1
    let here : DWord := BitVec.ofNat 64 (tileAddr t0 0x200)
    let there : DWord := BitVec.ofNat 64 (tileAddr ⟨1, 0⟩ 0x7FF8)
    rdyT (.put 5 4 0) (s there 0) (fun cx tc => ok cx there && okIs (homeOf there) (⟨1, 0⟩, 0x7FF8) && !tc.part.holds ⟨1, 0⟩) ∧
    rdyT (.put 5 4 0) (s here 32) (fun cx tc => ok cx here && okIs (homeOf here) (t0, 0x200) && tc.part.holds t0 && tc.tile.freeEntry == none) ∧
    rdyT (.put 5 4 0) (s here 31) (fun cx tc => ok cx here && tc.tile.freeEntry == some 31) := by decide +kernel
/-- ChecksAndSemaphores: an unanswered put of the superstep and none; each check that holds at its bound, and one that does not. -/
theorem witness_ChecksAndSemaphores :
    let a (f : Tile → Tile) (l : List (RegNo × CReg)) := st .access (f (tileOf .access (slotOf l))) pq
    let wp (n : DWord) (x : Tile) : Tile := { x with chans := x.chans.set 0 { Chan.cleared with wp := n } }
    rdyT .sealOp (st .access { tileOf .access (slotOf []) with journal := jr 1 } (prt (ttF 5 0) 0)) (fun _ tc =>
      (tc.tile.journal.toList.filter fun e => e.v && e.op == 0 && e.ss.toNat == tc.part.ss).length == 1) ∧
    rdyT .sealOp (xSt 5 0 []) (fun _ tc => (tc.tile.journal.toList.filter fun e => e.v && e.op == 0 && e.ss.toNat == tc.part.ss).length == 0) ∧
    rdyT (.chkLq 8) (st .execute { tileOf .execute (slotOf []) with lq := List.replicate 8 0 } pq) (fun _ tc => tc.tile.lq.length == 8) ∧
    rdyT (.chkLq 8) (st .execute { tileOf .execute (slotOf []) with lq := List.replicate 7 0 } pq) (fun _ tc => decide (tc.tile.lq.length < 8)) ∧
    rdyT (.chkFe 4 0) { aSt [(4, capL 0x200)] with full := [tileAddr t0 0x200] } (fun cx _ => okIs (checkLocal (cx.read 4) 0 8 0x101 0 0x8000) 0x200) ∧
    rdyT (.chkFe 4 0) (aSt [(4, capL 0x200)]) (fun cx tc => okIs (checkLocal (cx.read 4) 0 8 0x101 0 0x8000) 0x200 && !(aSt []).isFull tc.t 0x200) ∧
    rdyT (.chkWp 4 0) (a (wp 7) [(4, val 7)]) (fun cx tc => decide ((cx.data 4).toNat % 2 ^ 64 ≤ (tc.tile.chans[(0 : Fin 4)]).wp.toNat)) ∧
    rdyT (.chkWp 4 0) (a (wp 6) [(4, val 7)]) (fun cx tc => decide ((tc.tile.chans[(0 : Fin 4)]).wp.toNat < (cx.data 4).toNat % 2 ^ 64)) ∧
    rdyT (.semUp 4 15) (a id []) (fun _ _ => true) ∧
    rdyT (.semChk 4 15) (a id []) (fun cx tc => tc.k == .access && decide (((cx.data 4).setWidth 32 : BitVec 32).toNat ≤ (tc.tile.sem[(15 : Fin 16)]).toNat)) ∧
    rdyT (.semChk 4 15) (a id [(4, val 1)]) (fun cx tc => decide ((tc.tile.sem[(15 : Fin 16)]).toNat < ((cx.data 4).setWidth 32 : BitVec 32).toNat)) := by
  decide +kernel
/-- A timetable whose supersteps are 10 cycles of exchange. -/
def ttS : Timetable := { Timetable.empty with phases := [(0, 10, 0)] }
/-- TurnstileStopAndStart: trn in time, too late, and a second time; resync with and without a troupe; stop; start of a slot that is not
live and of one that is. -/
theorem witness_TurnstileStopAndStart :
    let a (f : Tile → Tile) (q : Part) := st .access (f (tileOf .access (slotOf []))) q
    rdyT (.trn 3) (a id (prt ttS 2)) (fun cx tc => (tc.part.super.any fun u => decide (cx.n + tc.part.dt ≤ u.b + u.c + u.x)) && !(tc.tile.core tc.k).trn) ∧
    rdyT (.trn 3) (a id (prt ttS 3)) (fun cx tc => tc.part.super.any fun u => decide (u.b + u.c + u.x < cx.n + tc.part.dt)) ∧
    rdyT (.trn 3) (a (fun x => { x with access := { x.access with trn := true } }) (prt ttS 0)) (fun _ tc => (tc.tile.core tc.k).trn) ∧
    rdyT .resync (a id { pq with lrec := { probeRecord with flg := 4 } }) (fun _ tc => tc.part.inTroupe) ∧
    rdyT .resync (a id pq) (fun _ tc => !tc.part.inTroupe) ∧ rdyT .stop (a id pq) (fun _ _ => true) ∧
    rdyT (.start 5 4 3) (a id pq) (fun _ tc => !(tc.tile.slot tc.k 3).live && decide (tc.t.x < 1024)) ∧
    rdyT (.start 5 4 3) (a (fun x => x.setSlot .access 3 (slotOf [])) pq) (fun _ tc => (tc.tile.slot tc.k 3).live) := by decide +kernel
/-- TimesAndMarks: every selector in a tile and on a hub, and mark. -/
theorem witness_TimesAndMarks : ([0, 1, 2, 3, 4].all fun k => rdyT (.rmt 3 k) (eSt []) (fun _ _ => true) && rdy (.rmt 3 k) (hSt []) (fun cx => !cx.tile.isOk)) ∧
    rdyT (.mark 4 0x7FF) (aSt []) (fun _ _ => true) := by decide +kernel

/-! ### Witnesses: atomics, copies, system and Carousel -/

/-- AtomicsAndFence, the functions: the operands with the sign bit set. -/
theorem witness_amoNew : (2 ^ 31 < 2 ^ 32 ∧ 2 ^ 64 - 1 < 2 ^ 64) := by decide
/-- AtomicsAndFence, the atomics: own SRAM at its last place; a member's word in a compute phase, outside, with a full journal and with a
free entry; a hub's own SRAM. -/
theorem witness_Atomics : ([(Instr.amoAdd 3 4 5 .w, 4), (.amoMax 3 4 5 .d, 8), (.amoMin 3 4 5 .w, 4), (.amoMaxu 3 4 5 .w, 4), (.amoMinu 3 4 5 .w, 4),
      (.amoAnd 3 4 5 .w, 4), (.amoOr 3 4 5 .w, 4), (.amoXor 3 4 5 .w, 4), (.amoSwap 3 4 5 .w, 4), (.amoCas 3 4 5 6 .d, 8), (.amoFmax 3 4 5, 4)].all fun x =>
    let ok (cx : Cx) (a : Nat) : Bool := okIs (checkCap (cx.read 4) 0 x.2 0x003) (BitVec.ofNat 64 a) && (checkSpacePerm (cx.read 4) (BitVec.ofNat 64 a)).isOk
    let s (a n : Nat) (q : Part) := st .access { tileOf .access (slotOf [(4, capG (BitVec.ofNat 64 a))]) with journal := jr n } q
    let far := tileAddr ⟨1, 0⟩ 0x200
    let near := tileAddr t0 0x200
    rdyT x.1 (s (0x8000 - x.2) 0 pq) (fun cx _ => ok cx (0x8000 - x.2) && spaceOf (BitVec.ofNat 64 (0x8000 - x.2)) == 0) &&
    rdyT x.1 (s near 0 pq) (fun cx tc => ok cx near && okIs (homeOf (BitVec.ofNat 64 near)) (t0, 0x200) && !tc.part.exchange cx.n) &&
    rdyT x.1 (s far 0 (prt ttX 0)) (fun cx tc => ok cx far && tc.part.exchange cx.n && !tc.part.holds ⟨1, 0⟩) &&
    rdyT x.1 (s near 32 (prt ttX 0)) (fun cx tc => ok cx near && tc.part.exchange cx.n && tc.part.holds t0 && tc.tile.freeEntry == none) &&
    rdyT x.1 (s near 31 (prt ttX 0)) (fun cx tc => ok cx near && tc.part.exchange cx.n && tc.tile.freeEntry == some 31) &&
    rdy x.1 (hSt [(4, capG (BitVec.ofNat 64 (0x40000 - x.2)))]) (fun cx => ok cx (0x40000 - x.2))) = true := by decide +kernel
/-- AtomicsAndFence, fence: an execute core, an access core without and with an unanswered put it covers, a hub with nothing and with
something unperformed. -/
theorem witness_fence :
    rdyT (.fence 5) (eSt []) (fun _ tc => tc.k == .execute) ∧ rdyT (.fence 0) (aSt []) (fun _ tc => tc.tile.journal.toList.all fun e => !e.v) ∧
    rdyT (.fence 0) (st .access { tileOf .access (slotOf []) with journal := jr 1 } pq) (fun _ tc => tc.k == .access &&
      tc.tile.journal.toList.any fun e => e.v && (match space1 e.addr.toNat with | some (h, _) => h == tc.t | none => false)) ∧
    rdy (.fence 0) (sh { hubOf [] with unperformed := 1 }) (fun _ => true) ∧ rdy (.fence 5) (hSt []) (fun _ => true) ∧
    rdy (.fence 1) (sh { hubOf [] with unperformed := 1 }) (fun cx => match cx.wh with | .hub _ _ h => h.unperformed == 1 | _ => false) ∧
    rdy (.fence 4) (sh { hubOf [] with remote := [9] }) (fun _ => true) ∧ ¬(9 ≤ (sh { hubOf [] with remote := [9] }).rmt) := by decide +kernel

/-- A command in progress: a local copy of one word. -/
def cmd1 : Cmd := ⟨.cpy, ⟨1, 1, 1, 1, 0, 0, 0, 0, 0, 0, 0, 0, 2, 0, 0⟩, [], capL 0x300, capL 0x380, .localOnly, 0, none, none, 0, 0, [], 0, 0⟩
/-- A channel with two commands. -/
def full2 : Chan := { Chan.cleared with run := some (cmd1.begin' 4), que := some cmd1 }
/-- CommandsEnterTheChannel, copies: a check that fails; a local copy into a free and into a full channel; a member path in time and in a
compute phase; a hub's channel free and full. -/
theorem witness_copies : ([Instr.cpy 3 4 5 0, .cpyG 3 4 5 0, .cpyS 3 4 5 0].zip [EngForm.cpy, .cpyG, .cpyS] |>.all fun x =>
    let r (d : CReg) : List (RegNo × CReg) := [(3, d), (4, capL 0x300), (5, capL 0x400)]
    let m := [(tileAddr t0 0x424, (1 : Byte))]
    let lim (s : State) : State := if x.2 = .cpy then s else { s with mem := m }
    let cmd (s : State) (cx : Cx) (f : Cmd → Bool) : Bool :=
      match copyCmd x.2 cx s.mem (cx.read 3) (cx.read 4) (cx.read 5) with | .ok c => f c | .error _ => false
    let here := capG (BitVec.ofNat 64 (tileAddr t0 0x380))
    let s1 := lim (aSt (r (capL 0x380)))
    let s2 := lim (st .access { tileOf .access (slotOf (r (capL 0x380))) with chans := Vector.replicate 4 full2 } pq)
    let s3 := lim (st .access (tileOf .access (slotOf (r here))) (prt ttX 0))
    let s4 := lim (aSt (r here))
    rdyT x.1 (lim (aSt (r (val 0)))) (fun cx _ => bad (copyCmd x.2 cx [] (cx.read 3) (cx.read 4) (cx.read 5)) 0x04) &&
    rdyT x.1 s1 (fun cx tc => cmd s1 cx (fun c => c.path == .localOnly) && (tc.tile.chans[(0 : Fin 4)]).run.isNone) &&
    rdyT x.1 s2 (fun cx tc => cmd s2 cx (fun c => c.path == .localOnly) && (tc.tile.chans[(0 : Fin 4)]).run.isSome && (tc.tile.chans[(0 : Fin 4)]).que.isSome) &&
    rdyT x.1 s3 (fun cx tc => cmd s3 cx fun c => c.path == .memberDst &&
      (tc.part.startFor tc.t 0 (tc.tile.chans[(0 : Fin 4)]) cx.n).any fun t => tc.part.phaseOk cx.n (c.lastWrite tc.t t)) &&
    rdyT x.1 s4 (fun cx tc => cmd s4 cx fun c => c.path == .memberDst &&
      !(tc.part.startFor tc.t 0 (tc.tile.chans[(0 : Fin 4)]) cx.n).any fun t => tc.part.phaseOk cx.n (c.lastWrite tc.t t)) &&
    rdy x.1 (hSt (r (capL 0x380))) (fun cx => cmd (hSt []) cx fun c => c.path == .localOnly) &&
    rdy x.1 (sh { hubOf (r (capL 0x380)) with chans := Vector.replicate 4 full2 }) (fun cx => cmd (hSt []) cx fun c => c.path == .localOnly)) = true := by
  decide +kernel
/-- CommandsEnterTheChannel, the checks: no record; a damaged word in it; a record that is not well formed; an index list past the space; the
record of zeros, whose one word is 8 bytes at the cursor, with sides that lack their tag, their permission, room and alignment, and with sides
that pass, one of them indexed with LIM = 1. -/
theorem witness_copyChecks :
    let s (d : List Damage) : State := st .access { tileOf .access (slotOf []) with damage := d } pq
    let at' (n : Nat) := tileAddr t0 (0x400 + n)
    let cb := capL 0x400
    bad (checkSpan (val 0) 0 48 0x001 16 0 0x8000) 0x04 ∧ okIs (checkSpan cb 0 48 0x001 16 0 0x8000) 0x400 ∧
    rdy .nop (s [⟨0x20, 0x408⟩]) (fun cx => (cx.ownEcc 0x400 48).isSome && cx.fetchAddr 0x400 == at' 0) ∧
    rdy .nop (s []) (fun cx => (cx.ownEcc 0x400 48).isNone && (cx.ownEcc 0x400 2).isNone) ∧
    512 ≤ Mem.readLE [(at' 1, (2 : Byte))] (at' 0) 2 ∧
    bad (checkSpan cb (sextNat (Mem.readLE [(at' 34, (1 : Byte))] (at' 32) 4) 32) 2 0x001 2 0 0x8000) 0x09 ∧
    Mem.readLE [] (at' 0) 48 = 0 ∧ okIs (checkSpan cb 0 2 0x001 2 0 0x8000) 0x400 ∧
    (val 0).tag = false ∧ ([0x401, 0x402].all fun need => (makeCap 0 0x8000 0x300 0x004).tag && !hasPerm (makeCap 0 0x8000 0x300 0x004).data need &&
      (capL 0x300).tag && !sealed (capL 0x300).data && hasPerm (capL 0x300).data need && hasPerm (makeCap 0 0x200 0x300 0x51B).data need &&
      !sealed (makeCap 0 0x200 0x300 0x51B).data && (makeCap 0 0x200 0x300 0x51B).tag) = true ∧
    (decodeBounds (makeCap 0 0x200 0x300 0x51B).data).2 < 0x300 + 8 ∧ (capCur (capL 0x304).data).toNat % 8 ≠ 0 ∧
    (decodeBounds (capL 0x304).data).1 ≤ 0x304 ∧ 0x304 + 8 ≤ (decodeBounds (capL 0x304).data).2 ∧
    ([EngForm.cpy, .cpyG, .cpyS].all fun g => [(g == .cpyG), (g == .cpyS)].all fun ix =>
      let m := if g = .cpy then [] else [(at' 36, (1 : Byte))]
      rdy .nop (s []) fun cx => (match cx.checkSide (capL 0x300) 0x401 (shapeHull (shapeOf (Mem.read m (at' 0) 48)) (capL 0x300) false ix) true ix with
        | .ok x => x == .own | .error _ => false) &&
        match copyCmd g cx m (capL 0x380) (capL 0x300) cb with | .ok c => decide (0 < c.elements ∧ 0 < c.shape.w) && !c.skips 0 | .error _ => false) = true := by
  decide +kernel
/-- A group of one tile. -/
def grp1 : DWord := 0x8000000000000000#64
/-- CommandsEnterTheChannel, reductions: no group; both spans in a compute phase, with a full channel, and with a free one. -/
theorem witness_reductions : ([Instr.gput 3 4 5 0, .gget 3 4 5 0].all fun i =>
    let r : List (RegNo × CReg) := [(3, capL 0x380), (4, capL 0x300)]
    let s (g : DWord) (c : Chan) (q : Part) := st .access { tileOf .access (slotOf r) with gtab := Vector.replicate 64 g, chans := Vector.replicate 4 c } q
    let ok (cx : Cx) (tc : TileCx) : Bool := (groupEntry (tc.tile.gtab.toList.getD 0 0)).v && (groupEntry (tc.tile.gtab.toList.getD 0 0)).holds tc.part tc.t &&
      okIs (checkSpan (cx.read 4) 0 8 0x401 8 0 0x8000) 0x300 && okIs (checkSpan (cx.read 3) 0 8 0x402 8 0 0x8000) 0x380
    let timely (cx : Cx) (tc : TileCx) : Bool := (tc.part.startFor tc.t 0 (tc.tile.chans[(0 : Fin 4)]) cx.n).any fun t =>
      tc.part.phaseOk cx.n (t + (1 - 1) + (groupEntry (tc.tile.gtab.toList.getD 0 0)).latency tc.part + 3)
    rdyT i (s 0 .cleared pq) (fun _ tc => !(groupEntry (tc.tile.gtab.toList.getD 0 0)).v) && rdyT i (s grp1 .cleared pq) (fun cx tc => ok cx tc && !timely cx tc) &&
    rdyT i (s grp1 full2 (prt ttX 0)) (fun cx tc => ok cx tc && timely cx tc && (tc.tile.chans[(0 : Fin 4)]).que.isSome) &&
    rdyT i (s grp1 .cleared (prt ttX 0)) (fun cx tc => ok cx tc && timely cx tc && (tc.tile.chans[(0 : Fin 4)]).run.isNone)) = true := by decide +kernel
/-- GroupTableAndStatus: an entry that is not valid, a valid one over the tile, one with a reserved bit; cpy.wp in a tile and on a hub. -/
theorem witness_GroupTableAndStatus :
    rdyT (.gtbl 4 5) (aSt [(4, val 63), (5, val (2 ^ 63 + 2 ^ 62))]) (fun cx _ => (cx.data 5).getLsbD 63 && (cx.data 5).getLsbD 62) ∧
    rdyT (.gtbl 4 5) (aSt [(4, val 63), (5, ⟨grp1.setWidth 128, false⟩)]) (fun cx tc => (groupEntry ((cx.data 5).setWidth 64)).legal tc.part &&
      (groupEntry ((cx.data 5).setWidth 64)).holds tc.part tc.t) ∧
    rdyT (.gtbl 4 5) (aSt []) (fun cx _ => !(cx.data 5).getLsbD 63) ∧ rdyT (.cpyWp 3 3) (aSt []) (fun _ _ => true) ∧
    rdy (.cpyWp 3 3) (hSt []) (fun _ => true) := by decide +kernel

/-- TrapHaltAndWatchdog: trap and halt in a tile and on a hub; hbeat of 0 and of 1; a watchdog at its deadline. -/
theorem witness_TrapHaltAndWatchdog :
    rdyT (.trapTrap 4 0xFFF) (eSt []) (fun _ _ => true) ∧ rdy (.trapTrap 4 0) (hSt []) (fun cx => !cx.tile.isOk) ∧
    rdyT .halt (aSt []) (fun _ _ => true) ∧ rdy .halt (hSt []) (fun cx => !cx.tile.isOk) ∧
    rdyT (.hbeat 4) (aSt [(4, val (2 ^ 32))]) (fun cx _ => (cx.data 4).toNat % 2 ^ 32 == 0) ∧ rdyT (.hbeat 4) (aSt [(4, val 1)]) (fun cx _ => (cx.data 4).toNat % 2 ^ 32 != 0) ∧
    (let tl := { Tile.powerOn with access := { Core.cleared with armed := true, hbd := 1 } }
     let s := st .access tl pq
     s.partOf t0 = some pq ∧ pq.form = .running ∧ ((s.tile t0).core .access).armed = true ∧ ((s.tile t0).core .access).hbd = pq.cyc + 1) := by decide +kernel
/-- A trap message of partition 0 at the trap hub of die 0, popped. -/
def msg1 : Message := ⟨7, false, 0, 0, 0x10, 1, 1, false, 1, 0, true, .none, 0⟩
/-- The trap hub's state with that message, and a register. -/
def trapSt (l : List (RegNo × CReg)) (m : Message) : State := { hSt l with messages := [m], parts := [{ pq with form := .held, causes := [1] }] }
/-- DispositionsAreAccepted: a ticket that is not outstanding, a disposition that is accepted, one that is not; the partition's cause 1
alone. -/
theorem witness_DispositionsAreAccepted : ([Instr.tretResume 4, .tretAbandon 4, .tretForward 4, .tretIsolate 4].all fun i =>
      rdy i (trapSt [(4, val 8)] msg1) (fun _ => true) && rdy i (trapSt [(4, val 7)] msg1) (fun _ => true)) ∧
    ((trapSt [] msg1).messages.find? fun (m : Message) => m.ticket == 8 && m.atHub 0 0 && m.popped) = none ∧
    ((trapSt [] msg1).messages.find? fun (m : Message) => m.ticket == 7 && m.atHub 0 0 && m.popped) = some msg1 ∧
    (trapSt [] msg1).dispOk msg1 0 t0 = true ∧ (trapSt [] msg1).dispOk msg1 15 t0 = false ∧ msg1.origin = false ∧
    ((trapSt [] msg1).part 0).isSome = true := by decide +kernel
/-- SystemRegisters: every register of a context read and written in a tile and on a hub, a number that names none; the mailbox with and
without a message. -/
theorem witness_SystemRegisters :
    ([0x000, 0x007, 0x010, 0x011, 0x012].all fun n => rdyT (.sysrd 3 n) (eSt []) (fun _ _ => true) && rdyT (.syswr 4 n) (aSt []) (fun _ _ => true) &&
      rdy (.sysrd 3 n) (hSt []) (fun _ => true) && rdy (.syswr 4 n) (hSt []) (fun _ => true)) ∧
    rdyT (.sysrd 3 0x013) (eSt []) (fun _ _ => true) ∧
    ([0x008, 0x00F, 0x014, 0x7FF].all fun n => rdyT (.sysrd 3 n) (eSt []) (fun _ _ => true) && rdyT (.syswr 4 n) (aSt []) (fun _ _ => true) &&
      rdy (.sysrd 3 n) (hSt []) (fun _ => true) && rdy (.syswr 4 n) (hSt []) (fun _ => true)) ∧
    ([0x804, 0x80F].all fun n => rdy (.sysrd 3 n) (hSt []) (fun _ => true)) ∧ rdyT (.syswr 4 0x013) (aSt []) (fun _ _ => true) ∧
    ([0x013, 0x800, 0x80F].all fun n => rdy (.syswr 4 n) (hSt []) (fun _ => true)) ∧
    ([0x801, 0x802, 0x803, 0x810].all fun n => rdy (.sysrd 3 n) (hSt []) (fun _ => true)) ∧
    rdy (.sysrd 3 0x800) (hSt []) (fun _ => true) ∧ (hSt []).messages = [] ∧
    rdy (.sysrd 3 0x800) (trapSt [] { msg1 with popped := false }) (fun _ => true) ∧
    ((trapSt [] { msg1 with popped := false }).messages.find? fun (m : Message) => m.atHub 0 0 && !m.popped) = some { msg1 with popped := false } := by
  decide +kernel
/-- An entry of the translation buffer: valid, not pinned, ASID 0, page 0 to space 1. -/
def te1 : Quad := BitVec.ofNat 128 (2 ^ 127 + 2 ^ (64 - 12 + 60))
/-- TranslationWrites: a pinned index, a malformed entry, the first index that is not pinned; inv of a mode that is none, of a pinned
index, with no access in transit and with one. -/
theorem witness_TranslationWrites :
    let s : State := { hSt [(4, val 1024)] with xlate := [(0, { DieXlate.powerOn with tlb := [(1024, te1)] })] }
    let fl : Flight := ⟨3, 100, ⟨.hub 0 0, .read, 0, 8, [], 0, false⟩, [(0, 1024)]⟩
    rdy (.tlbW 4 1023) (hSt []) (fun _ => true) ∧ rdy (.tlbW 4 0xFFF) (hSt [(4, val (2 ^ 128 - 1))]) (fun cx => teV (cx.data 4) && teMalformed (cx.data 4)) ∧
    rdy (.tlbW 4 1024) (hSt []) (fun cx => !teV (cx.data 4)) ∧ rdy (.tlbInv 4 4) (hSt []) (fun _ => true) ∧ rdy (.tlbInv 4 0) (hSt [(4, val 1023)]) (fun _ => true) ∧
    rdy (.tlbInv 4 0) s (fun _ => true) ∧ (s.hub 0 0).answer = none ∧
    (((s.dieX 0).tlb.filter fun e => invSelects 0 1024#128 e.1 e.2).map (·.1)) = [1024] ∧ s.flights = [] ∧
    ((({ s with flights := [fl] } : State).flights.filter fun (f : Flight) =>
      f.via.any fun v => v.1 == 0 && [1024].contains v.2).map Flight.id) = [3] ∧
    s.edge.outbound = [] ∧ s.chansUsing 0 [1024] = [] ∧
    ((({ s with edge := { s.edge with outbound := [⟨4, some 1, .hub 0 0, 0, 8, false, [(0, 1024)], 0⟩] } } : State).edge.outbound.filter
      fun (o : Outbound) => o.via == [(0, 1024)]).map Outbound.tag) = [4] ∧
    (let c : Cmd := { cmd1 with path := .deadlineDst, start := some 0, tr := [(0, 1024)] }
     ({ s with parts := [pq], tiles := [(0, { Tile.powerOn with chans := Vector.replicate 4 { Chan.cleared with run := some c } })] } : State).chansUsing 0 [1024] ≠ []) := by
  decide +kernel

/-- A ring record of two members over ports 0 and 1 with slots of one quad at 0x1000. -/
def ring2 : RingRec := ⟨2, 0, 1, 0x1000, 0, 5, 6⟩
/-- A binding over it, in step k, with the state and tag of slot 0. -/
def bnd (k : Nat) (x : RState) : Binding := { Binding.fresh ring2 0 with k := BitVec.ofNat 32 k, slots := #v[⟨x, 0, 0⟩, ⟨.empty, 0, 0⟩, ⟨.empty, 0, 0⟩, ⟨.empty, 0, 0⟩] }
/-- The edge with group 0 up under personality 0 and its ports 0 and 1 up. -/
def edge2 : Edge := { Edge.powerOn with
  groups := [(0, { Group.powerOn with state := .up })]
  ports := [(0, { Port.powerOn with up := true, peer := 5 }), (1, { Port.powerOn with up := true, peer := 6 })] }
/-- The tile of ports 0 and 1's first attachment, (0, 2), in a troupe's partition. -/
def ta : Coord := ⟨0, 2⟩
/-- Its partition. -/
def pa (tt : Timetable) : Part := { prt tt 0 with y0 := 2, lrec := { probeRecord with flg := 4 } }
/-- A state in which its access core issues. -/
def cSt' (f : Tile → Tile) (l : List (RegNo × CReg)) (m : List Host.Cell) (tt : Timetable) : State :=
  { State.reset with tiles := [(tileKey ta, f (tileOf .access (slotOf l)))], parts := [pa tt], mem := m, edge := edge2,
                     cur := some ⟨.tile ta .access 0, 0, 0x100, false⟩ }
/-- CarouselForms without a binding, and with one: a step; a check of a full slot, of one that is not, of a step past the ring; a release;
a close. -/
theorem witness_CarouselForms :
    let s (b : Option Binding) (l : List (RegNo × CReg)) := cSt' (fun t => { t with binding := b }) l [] .empty
    ([Instr.crsStep 3, .crsChk 4, .crsRel 4, .crsClose].all fun i => rdyT i (s none []) (fun _ tc => tc.tile.binding == none)) ∧
    rdyT (.crsStep 3) (s (some (bnd 0 .empty)) []) (fun _ tc => tc.tile.binding == some (bnd 0 .empty)) ∧
    rdyT (.crsChk 4) (s (some (bnd 0 .full)) []) (fun _ tc => tc.tile.binding.any fun b => decide (0 < b.ring.n - 1) && (b.slots[(0 : Fin 4)]).state == .full) ∧
    rdyT (.crsChk 4) (s (some (bnd 0 .filling)) []) (fun _ tc => tc.tile.binding.any fun b => (b.slots[(0 : Fin 4)]).state != .full) ∧
    rdyT (.crsChk 4) (s (some (bnd 0 .full)) [(4, val 1)]) (fun cx tc => tc.tile.binding.any fun b => decide (b.ring.n - 1 ≤ (cx.data 4).toNat % 2 ^ 32)) ∧
    rdyT (.crsRel 4) (s (some (bnd 0 .full)) []) (fun cx tc => tc.tile.binding.any fun b => (b.slots[(0 : Fin 4)]).tag == 0 &&
      !tc.tile.sendReads cx.n (b.ring.slotAt 0) (b.ring.slotAt 1)) ∧
    rdyT .crsClose (s (some (bnd 0 .empty)) []) (fun _ tc => tc.tile.sends == [] && tc.tile.binding.any fun b =>
      (b.slots.toList.all fun x => x.state == .empty) && b.views.toList.all fun y => !y.lent) := by decide +kernel
/-- A timetable with an edge entry for crs.send at OFF 0 of tile (0, 2), over port 1. -/
def ttC : Timetable := { ttX with edge := [⟨0, 0, 0, 4, 1, 0, 0, 0, 6⟩] }
/-- CarouselForms, crs.send without and with a binding; crs.open: not in a troupe, a malformed record, a record over ports that are up
and unbound, and the same on a bound tile. -/
theorem witness_crsSendOpen :
    let m := Mem.write [] (tileAddr ta 0x400) (leBytes 2 2 ++ [0, 1] ++ leBytes 4 0x1000 ++ leBytes 4 0 ++ leBytes 4 5 ++ leBytes 4 6)
    let s (b : Option Binding) := cSt' (fun t => { t with binding := b }) [(4, capL 0x400)] m ttC
    let l := Mem.read m (tileAddr ta 0x400) 32
    rdyT (.crsSend 4) (s none) (fun _ tc => tc.tile.binding == none) ∧
    rdyT (.crsSend 4) (s (some (bnd 0 .empty))) (fun cx tc => tc.tile.binding.any fun b => decide (b.k.toNat < b.ring.n - 1) && (s none).lyderUp b.ring.sport &&
      okIs (checkSpan (cx.read 4) 0 16 0x001 16 (winLo false) (winHi false)) 0x400 && !(b.views[(0 : Fin 4)]).lent) ∧
    rdyT (.crsOpen 4) (aSt [(4, capL 0x400)]) (fun cx tc => !tc.part.inTroupe && okIs (checkSpan (cx.read 4) 0 32 0x001 16 0 0x8000) 0x400) ∧
    rdyT (.crsOpen 4) (cSt' id [(4, capL 0x800)] m ttX) (fun cx tc => okIs (checkSpan (cx.read 4) 0 32 0x001 16 0 0x8000) 0x800 && tc.part.inTroupe &&
      !ringOk (Mem.read m (tileAddr ta 0x800) 32) (ringRec (Mem.read m (tileAddr ta 0x800) 32))) ∧
    rdyT (.crsOpen 4) (cSt' id [(4, capL 0x400)] m .empty) (fun cx tc => okIs (checkSpan (cx.read 4) 0 32 0x001 16 0 0x8000) 0x400 && tc.part.inTroupe &&
      tc.tile.damage == [] && ringRec l == ring2 && ringOk l ring2 && (attach 0).1 == tc.t && tc.tile.binding == none) ∧
    (let u := cSt' id [(4, capL 0x400)] m .empty
     u.portBound 0 = false ∧ u.portBound 1 = false ∧ (u.group 0).state = .up ∧ (u.group 0).pers = 0 ∧ (u.port 0).peer = 5 ∧ (u.port 1).peer = 6) ∧
    (let u : State := { cSt' id [(4, capL 0x400)] m .empty with edge := Edge.powerOn }
     u.portBound 0 = false ∧ (u.group 0).state ≠ .up) ∧
    (let u := { cSt' id [(4, capL 0x400)] m .empty with
       tiles := [(tileKey ta, tileOf .access (slotOf [(4, capL 0x400)])), (5, { Tile.powerOn with binding := some (bnd 0 .empty) })] }
     u.portBound 0 = true ∧ rdyT (.crsOpen 4) u (fun _ tc => tc.tile.binding == none)) ∧
    rdyT (.crsOpen 4) (cSt' (fun t => { t with binding := some (bnd 0 .empty) }) [(4, capL 0x400)] m .empty) (fun _ tc => tc.tile.binding.isSome) := by decide +kernel

/-! ### Witnesses: the events of a partition -/

/-- A state that holds a partition and tile (0, 0). -/
def pSt (tl : Tile) (q : Part) : State := { State.reset with tiles := [(0, tl)], parts := [q] }
/-- MeshAndTurnstile: a catch at its low and at its high half; a flit that takes its output and one that loses it; a slot that nothing
meets; the last cycle of a superstep with every core arrived, and with one that is not. -/
theorem witness_MeshAndTurnstile :
    let cs (a : Nat) : CatchSt := ⟨a, 2, 0x200, 0, some 5, true, true⟩
    let q := catchPart 0 0 [flit7]
    let s (a : Nat) := pSt { Tile.powerOn with catches := [cs a] } q
    (∀ a ∈ [5, 6], (s a).partOf t0 = some q ∧ (s a).part q.pid = some q ∧ ((s a).tile t0).catches = [cs a] ∧ a < q.cyc ∧ q.cyc < a + 2 * 2) ∧
    q.cyc - 5 = 2 ∧ q.cyc - 6 = 1 ∧ q.streamAt t0 q.cyc = some flit7 ∧ q.takes 1 q.cyc = true ∧
    (∀ c ∈ q.claimants q.cyc, ((s 5).tile c.claim.at').damage = []) ∧
    (let q2 := catchPart 0 0 [flit7, { flit7 with id := 2 }]
     ((q2.claimants 7).find? fun g => g.id == 2).any (fun c => c.key.isNone) = true ∧ (q2.flits.find? fun g => g.id == 2) = some { flit7 with id := 2 } ∧ q2.takes 2 7 = false) ∧
    (let key (ch : Nat) : RedKey := ⟨1, 1, 0, 0, 0, 0, ch, true, 1, 0⟩
     let w (n ch : Nat) : RedWord := ⟨n, none, [], 1, key ch, t0, 0, 7, 7⟩
     let q2 := { prt ttX 7 with redWords := [w 1 0, w 2 1] }
     ((q2.claimants 7).find? fun g => g.id == 2).any (fun c => (q2.claimants 7).all fun g => !(g.key == some (key 1)) || decide (2 ≤ g.id)) = true ∧
       q2.flits.find? (fun g => g.id == 2) = none ∧ q2.redWords.find? (fun g => g.id == 2) = some (w 2 1) ∧
       (q2.redWords.map RedWord.id).Nodup ∧ q2.takes 2 7 = false ∧ (w 2 1).claim 0 0 7 = some ⟨t0, 4, 4⟩ ∧
       (pSt .powerOn q2).part q2.pid = some q2) ∧
    (let q5 := prt ttS 9
     let s5 := pSt { Tile.powerOn with iss := 3 } q5
     s5.part q5.pid = some q5 ∧ q5.super.any (fun u => q5.cyc + 1 == u.b + u.c + u.x) = true ∧ s5.missingTrn q5 = [] ∧
       t0 ∈ q5.members ∧ (s5.tile t0).lost = false ∧ (s5.tile t0).iss ≠ (s5.tile t0).ans) ∧
    (let q3 := prt (ttF 0 0) 0
     (pSt .powerOn q3).partOf t0 = some q3 ∧ q3.form = .running ∧ (q3.place t0 q3.cyc).any (fun pl => pl.index == 0) = true) ∧
    (let q4 := prt ttS 9
     q4.super.any (fun u => q4.cyc + 1 == u.b + u.c + u.x) = true ∧ (pSt .powerOn q4).missingTrn q4 = [] ∧ (pSt .powerOn q4).countFaults q4 = [] ∧
       (pSt (tileOf .access (slotOf [])) q4).missingTrn q4 ≠ []) := by decide +kernel
/-- A put in flight from tile (0, 0) to itself, and an atomic. -/
def xact1 (op : Nat) : Xact := ⟨4, t0, 0, 3, t0, BitVec.ofNat 64 (tileAddr t0 0x208), 9, 0, op, true, 5, 0, 2, 3, false, false, false, 0⟩
/-- A window of R199 that admits every member's put and atomic to 0x0000 to 0x7FFF. -/
def winAll : DWord := 0xAC00000100000000#64
/-- PutsAndAtomicsAtHome: the performance cycle of a put and of atomics, with windows that admit nothing. -/
theorem witness_PutsAndAtomicsPerform : ∀ op ∈ [0, 1, 11],
    let q := { prt .empty 2 with xacts := [xact1 op] }
    let s := pSt .powerOn q
    s.part 0 = some q ∧ q.pid = 0 ∧ q.xact 4 = some (xact1 op) ∧ (xact1 op).perform = q.cyc ∧ (xact1 op).performed = false ∧
      (s.tile t0).admits 0x208 8 .part .wr = false := by decide +kernel
/-- PutsAndAtomicsAtHome: the same with a window that admits them. -/
theorem witness_PutsAndAtomicsAdmitted :
    let tl := { Tile.powerOn with win := Vector.replicate 4 winAll }
    tl.admits 0x208 8 .part .wr = true ∧ tl.admits 0x208 8 .part .amo = true := by decide +kernel
/-- PutsAndAtomicsAtHome: the answer cycle, with the result's place held, of an answer and of a refusal. -/
theorem witness_PutsAndAtomicsAnswer : ∀ r ∈ [true, false], ∀ op ∈ [0, 1],
    let q := { prt .empty 3 with xacts := [{ xact1 op with refused := r }] }
    let s := pSt { Tile.powerOn with pend := [⟨9, .xreg 0 4⟩] } q
    q.xact 4 = some { xact1 op with refused := r } ∧ (xact1 op).answer = q.cyc ∧ (s.tile t0).lost = false ∧ (s.tile t0).damage = [] ∧
      (s.tile t0).pend = [⟨9, .xreg 0 4⟩] := by decide +kernel
/-- R272: a damaged journal entry is read at its answer: ECC_LOCAL, REASON 0x26, a cycle fault. -/
theorem test_damaged_journal :
    let q := { prt .empty 3 with xacts := [xact1 0] }
    let s := pSt { Tile.powerOn with damage := [⟨0x26, 3⟩] } q
    (match exec (.putAnswer 0 4) s with
     | .next u => (u.part 0).map fun p => p.faults.map fun r => (r.code, r.reason, r.kind, r.info)
     | _ => none) = some [(0x30, 0x26, 1, 3)] := by decide +kernel
/-- R302: a pending write of the tagged value 7 to c3 of execute slot 2, due at the end of cycle 9, as a record of the execute core. -/
theorem test_pending_record : (Pend.toRec ⟨9, .creg .execute 2 3 ⟨7, true⟩⟩).1 = .execute ∧
    (Pend.toRec ⟨9, .creg .execute 2 3 ⟨7, true⟩⟩).2.bytes.map BitVec.toNat =
      [9, 0, 0, 0, 0, 0, 0, 0, 1, 14, 3, 0, 0, 0, 0, 0, 7] ++ List.replicate 15 0 := by decide +kernel
/-- R173, R175, R300: a flit whose record is edited in the save area is restored with the new payload, one whose record is cleared
is removed. -/
theorem test_flit_records :
    let q := catchPart 0 0 [{ flit7 with q := 3 }]
    let s := State.reset
    let recs := (q.flitRecs t0).zipIdx.flatMap fun f => f.1.2 f.2
    let at' := q.blockAt t0 + 0x18C00
    recs.length = 1 ∧
    ((s.areaWrite q at' (((({ q with flits := [{ flit7 with payload := 5, q := 3 }] } : Part).flitRecs t0).map (·.1)).flatten)).restoreRouter
      q.emptied q.cyc t0 recs []).flits = [{ flit7 with payload := 5, q := 3 }] ∧
    (s.restoreRouter q.emptied q.cyc t0 recs []).flits = [] := by decide +kernel
/-- R297, R302: a record whose VALUE was edited in the save area is restored with that value. -/
theorem test_pending_edited :
    let l := (Pend.toRec ⟨9, .creg .execute 2 3 ⟨7, false⟩⟩).2.bytes.set 16 8
    (parseRecs [l]).filterMap (Rec.toPend t0 .execute) = [⟨9, .creg .execute 2 3 ⟨8, false⟩⟩] := by decide +kernel
/-- EngineEvents: a local copy at its first read, and a hub's idle channel. -/
theorem witness_EngineEvents_copy :
    let c := { cmd1 with start := some 0 }
    let tl := { Tile.powerOn with chans := Vector.replicate 4 { Chan.cleared with run := some c } }
    let s := pSt tl (prt .empty 1)
    s.partOf t0 = some (prt .empty 1) ∧ s.part 0 = some (prt .empty 1) ∧ ((s.tile t0).chans[(0 : Fin 4)]).run = some c ∧ c.virtual = false ∧ c.last = none ∧
      0 < c.elements ∧ 0 < c.shape.w ∧ (prt .empty 1).cyc = 0 + 0 * (c.shape.w + 1) + 1 + 0 ∧ c.skips 0 = false ∧
      ((s.tile t0).eccAt (homeOffset (c.srcAddr 0 0)) 8).isNone = true ∧ ((State.reset.hub 15 63).chans[(3 : Fin 4)]).run = none := by decide +kernel
/-- EngineEvents: an element at its home and one refused. -/
theorem witness_EngineEvents_element : ∀ r ∈ [none, some 5],
    let el : Element := ⟨6, t0, 0, 0, t0, none, 0, 4, false, r, 0, [0x200], [0x300], false⟩
    let q := { prt .empty 5 with elems := [el] }
    (pSt .powerOn q).part 0 = some q ∧ (q.elems.find? fun e => e.id == 6) = some el ∧ q.cyc = el.arrive + 1 + 0 ∧ 0 < el.homeOffs.length ∧
      ((Tile.powerOn).eccAt (el.homeOffs.getD 0 0) 8).isNone = true ∧ q.elemFlits el el.tile q.cyc = [] := by decide +kernel
/-- EngineEvents: a reply to a read and to a write, while running and while frozen with one place of the held area left. -/
theorem witness_EngineEvents_reply : ∀ w ∈ [true, false], ∀ f ∈ [PForm.running, .held],
    let r : Request := ⟨8, t0, 1, 2, 0x300, w⟩
    let q := { prt .empty 5 with requests := [r], form := f, nheld := 32767 }
    (pSt .powerOn q).requestOf 8 = some (q, r) ∧ (pSt .powerOn q).part q.pid = some q ∧ q.nheld < 32768 ∧ Mem.wf (pSt .powerOn q).mem = true := by
  decide +kernel
/-- EngineEvents: a delivery that is due at the last word of local SRAM. -/
theorem witness_EngineEvents_delivery :
    let s := pSt { Tile.powerOn with pend := [⟨5, .delivery 0x7FF8 1 0 none false⟩] } (prt .empty 5)
    s.part 0 = some (prt .empty 5) ∧ (prt .empty 5).holds (keyTile 0) = true ∧ (s.tile (keyTile 0)).binding = none ∧
      (s.tile (keyTile 0)).pend = [⟨5, .delivery 0x7FF8 1 0 none false⟩] ∧ s.wroteAt (keyTile 0) 0x7FF8 8 = false := by decide +kernel
/-- EngineEvents: a combined word and a broadcast word that arrive. -/
theorem witness_EngineEvents_reduction : ∀ g ∈ [true, false],
    let key : RedKey := ⟨1, 1, 0, 0, 0, 0, 0, g, 0, 0⟩
    let r : RedWait := ⟨key, t0, 0, 0x300, 5, 0⟩
    let w : RedWord := ⟨1, none, [], 1, key, t0, 0, 7, 5⟩
    let q := { prt .empty 5 with redWaits := [r], redWords := [w] }
    (pSt .powerOn q).partOf t0 = some q ∧ (q.redWaits.find? fun x => x.key == key && x.tile == t0) = some r ∧
      (q.redWords.filter fun x => x.key == key && x.due == q.cyc) = [w] ∧ (q.redWords.filter fun x => x.key == key && x.tile == t0 && x.due == q.cyc) = [w] ∧
      t0 = ⟨q.x0 + key.gx, q.y0 + key.gy⟩ ∧ ([w].map RedWord.count).sum = key.gw * key.gh ∧
      w.count = 1 := by decide +kernel
/-- A bank entry of a command at OFF 0, channel 0 of tile (0, 0), row 0, bank 0, column 0 of pseudo-channel 0. -/
def bk (cmd : Nat) : BankEntry := ⟨0, 0, cmd, 0, 0, 0, 0, 0, 0, 0⟩
/-- A partition at that entry. -/
def bkq (cmd : Nat) : Part := prt { ttX with owned := [0], bank := [bk cmd] } 0
/-- BankEvents: the four commands at their cycle; RD of a burst that stands and with none; WR of eight staged words and of none; read data
that is sound and damaged. -/
theorem witness_BankEvents :
    (∀ c ∈ [0, 1, 2, 3], (pSt .powerOn (bkq c)).part 0 = some (bkq c) ∧ (bkq c).bankNow 0 c = some (bk c) ∧
      ((pSt .powerOn (bkq c)).tile ((bkq c).bankTile (bk c))).lost = false) ∧
    (Tile.powerOn.chans[(0 : Fin 4)]).run = none ∧
    (let c : Cmd := { cmd1 with path := .pcSrc, shape := { cmd1.shape with w := 8 }, src := capG 0x2000000000000000, start := some 0 }
     let s : State := { pSt { Tile.powerOn with chans := Vector.replicate 4 { Chan.cleared with run := some c } } (bkq 1) with
       pcs := [(0, { PChan.powerOn with rows := [(0, 0)] })] }
     ((s.tile ((bkq 1).bankTile (bk 1))).chans[(Fin.ofNat 4 (bk 1).ch : Fin 4)]).run = some c ∧ c.start.getD 0 ≤ (bkq 1).cyc ∧
       c.burst < c.elements * (c.shape.w / 8) ∧ s.burstIs (bk 1) (homeOffset (c.srcAddr (c.burst / (c.shape.w / 8)) (c.burst % (c.shape.w / 8) * 8))) = true) ∧
    (let q := { prt { ttX with owned := [0], bank := [{ bk 2 with off := 5 }] } 5 with
       staging := (List.range 8).map fun k => ⟨0, t0, 0, 8 * k, 1, k, 3, 4, none⟩ }
     let s : State := { pSt .powerOn q with pcs := [(0, { PChan.powerOn with rows := [(0, 0)] })] }
     let mine (w : StageWord) : Bool := w.pc == 0 && w.tile == t0 && w.ch.val == 0 && w.wr.isNone && some w.burst == q.nextBurst t0 0 &&
       decide (w.at' < q.cyc) && s.burstIs { bk 2 with off := 5 } w.addr
     q.bankNow 0 2 = some { bk 2 with off := 5 } ∧ (q.staging.filter mine).length = 8) ∧
    (let r : HbmRead := ⟨3, 0, 0x40, 0, t0, 0, 0, [], 0, [0x300]⟩
     let q := { bkq 1 with reads := [r] }
     (q.reads.find? fun x => x.id == 3) = some r ∧ r.at' = q.cyc ∧ (pSt .powerOn q).hbmDamage.contains (hbmAddr r.addr) = false ∧
       ({ pSt .powerOn q with hbmDamage := [hbmAddr 0x40] } : State).hbmDamage.contains (hbmAddr r.addr) = true) := by decide +kernel
/-- A loose access of 8 bytes. -/
def loose (a : Nat) (op : LooseOp) (sys : Bool) : Loose := ⟨.host, op, BitVec.ofNat 64 a, 8, List.replicate 8 1, 0, sys⟩
/-- EffectsAndLooseAccesses: nothing due and one register due; loose accesses to a tile, admitted and not; to a pseudo-channel that is
free and that a running partition owns; a hub that waits for an answer, a message and a request. -/
theorem witness_EffectsAndLooseAccesses :
    (let s := pSt { Tile.powerOn with pend := [⟨6, .lqPop⟩] } (prt .empty 5)
     s.part 0 = some (prt .empty 5) ∧ (prt .empty 5).reissue = none ∧ (prt .empty 5).reoffer = [] ∧
       (∀ t ∈ (prt .empty 5).members, ∀ e ∈ (s.tile t).pend, (prt .empty 5).cyc < e.due) ∧ (prt .empty 5).staging = []) ∧
    (let s := pSt { Tile.powerOn with pend := [⟨5, .creg .execute 3 31 (val 1)⟩] } (prt .empty 5)
     (s.tile ⟨(prt .empty 5).x0, (prt .empty 5).y0⟩).pend = [⟨(prt .empty 5).cyc, .creg .execute 3 31 (val 1)⟩] ∧ (prt .empty 5).lrec.w = 1 ∧ (prt .empty 5).lrec.h = 1) ∧
    (let q := { prt .empty 5 with lrec := { probeRecord with w := 1000 } }
     q.x0 + q.lrec.w ≤ 1024 ∧ q.staging = []) ∧
    (∀ l ∈ ([[.flOr 0 1, .flSet .execute 0 2], [.store 0x7FF8 (leBytes 8 1) false true ⟨0, 0, 0, 0, 0, 0, none⟩, .fullClear .access 0 0x7FF8], [.fullClear .access 0 0x7FF8],
        [.store 0 (leBytes 8 1) false false ⟨0, 0, 0, 0, 0, 0, none⟩, .store 0 (leBytes 8 2) false true ⟨0, 1, 0, 0, 0, 0, none⟩]] : List (List Eff)),
      let s := pSt { Tile.powerOn with pend := l.map fun e => ⟨5, e⟩ } (prt .empty 5)
      (s.tile ⟨(prt .empty 5).x0, (prt .empty 5).y0⟩).pend = l.map (fun e => ⟨(prt .empty 5).cyc, e⟩) ∧ (prt .empty 5).undo = none ∧
        Mem.wf s.mem = true ∧ (leBytes 8 1).length = 8) ∧
    (∀ op ∈ [LooseOp.read, .write],
      space1 (loose (tileAddr ⟨999, 199⟩ 0x17FF8) op true).addr.toNat = some (⟨999, 199⟩, 0x17FF8) ∧ State.reset.partOf ⟨999, 199⟩ = none ∧
      State.reset.looseAdmitted ⟨999, 199⟩ 0x17FF8 (loose (tileAddr ⟨999, 199⟩ 0x17FF8) op true) = true ∧
      State.reset.looseAdmitted ⟨999, 199⟩ 0x17FF8 (loose (tileAddr ⟨999, 199⟩ 0x17FF8) op false) = false ∧
      (loose 0 op true).data.length = (loose 0 op true).size ∧ Mem.wf State.reset.mem = true ∧
      (State.reset.tile ⟨999, 199⟩).eccAt 0x17FF8 8 = none ∧
      space2 (loose (2 * 2 ^ 60 + 0x40) op true).addr.toNat = some 0x40 ∧ State.reset.pcBusy (pcOf 0x40) = false ∧
      ({ pSt .powerOn pq with pcs := [(0, { PChan.powerOn with owner := some 0 })] } : State).pcBusy (pcOf 0x40) = true ∧ opStores .read = false ∧
      ∀ b ∈ blocks 0x40 8 64, State.reset.hbmDamage.contains (hbmAddr b) = false) ∧
    (let h (w : Wait) : Hub := { Hub.powerOn with wait := some w }
     ((sh (h (.answer .nop))).hub 0 0).wait = some (.answer .nop) ∧
     ({ trapSt [] { msg1 with popped := false } with hubs := [(0, h .mailbox)] }.hub 0 0).wait = some .mailbox ∧
     (let r : XReq := ⟨1, 0, true, 0, 0, 0, 0, false, false⟩
      let s : State := { sh (h .xmsg) with xlate := [(0, { DieXlate.powerOn with reqs := [r] })] }
      (s.hub 0 0).wait = some .xmsg ∧ ((s.dieX 0).reqs.find? fun r => !r.popped) = some r)) := by decide +kernel

/-! ### Witnesses: freezes, the Ringmaster, the edge -/

/-- A frozen partition with causes. -/
def held (c : List Nat) : Part := { pq with form := .held, causes := c }
/-- FreezesAndRestarts, clause by clause: the message, the chain's end, the restart, the intermission, the write-out, a restored start, the
agreed cycle and the agreed instant. -/
theorem witness_FreezesAndRestarts :
    (let q := { held [1] with faults := [{ FRec.none with code := 0x10 }] }
     (pSt .powerOn q).part 0 = some q ∧ 1 ∈ q.causes ∧ q.freezing = false ∧ q.message = none ∧ q.halted = none ∧ q.form ≠ .running ∧
       q.records.head? = some { FRec.none with code := 0x10 }) ∧
    (let m := { msg1 with level := 3 }
     let s : State := { pSt .powerOn (held [1]) with messages := [m], rmt := 2 ^ 35 }
     (s.messages.find? fun (n : Message) => n.ticket == 7 && n.level == 3 && n.popped) = some m ∧ m.pid = 0 ∧ m.origin = false ∧ s.ring.notices = [] ∧
       m.posted + 2 ^ 35 ≤ s.rmt) ∧
    (let q := { held [] with restartAt := some 0 }
     let s : State := { pSt .powerOn q with rmt := 512 }
     s.part 0 = some q ∧ q.causes = [] ∧ s.rmt % 4 = 0 ∧ 0 + 512 ≤ s.rmt ∧ q.halted = none ∧ q.faults = [] ∧ q.reoffer = [] ∧ q.held = [] ∧ q.nheld = 0 ∧
       q.undo = none ∧ q.xlate = []) ∧
    (let s : State := { pSt .powerOn pq with ring := { Ring.powerOn with request := some (0, [0], 9) } }
     s.ring.request = some (0, [0], 9) ∧ 0 ≤ s.rmt ∧ pq.form = .running ∧ pq.causes = [] ∧ pq.halted = none) ∧
    (let q := { held [3] with outAt := some 0 }
     q.outAt = some 0 ∧ q.form = .held ∧ 0 ≤ (pSt .powerOn q).rmt) ∧
    (let q := { held [3, 5] with form := .restoring, restartAt := some 0 }
     q.restartAt = some (pSt .powerOn q).rmt ∧ q.inTroupe = false ∧ (∀ c ∈ q.causes, c = 3 ∨ c = 5) ∧ 5 ∈ q.causes) ∧
    (let q := { pq with agreedQ := some 1 }
     q.form = .running ∧ q.agreedQ = some (q.cyc + 1)) ∧
    (let q := { held [4, 5] with restartQ := some 0 }
     q.restartQ = some 0 ∧ q.form = .held ∧ 0 ≤ (pSt .powerOn q).rmt ∧ 4 ∈ q.causes ∧ 5 ∈ q.causes ∧ ∀ c ∈ q.causes, c = 4 ∨ c = 5) := by decide +kernel
/-- FreezesAndRestarts: a restored partition with cause 3 alone, and a member of a troupe with cause 4 alone, at their instants. -/
theorem witness_FreezesAndRestarts_alone :
    (let q := { held [3] with form := .restoring, restartAt := some 0 }
     q.restartAt = some (pSt .powerOn q).rmt ∧ q.inTroupe = false ∧ (∀ c ∈ q.causes, c = 3) ∧ (pSt .powerOn q).part 0 = some q ∧ q.pid = 0) ∧
    (let q := { held [4] with restartQ := some 0 }
     q.restartQ = some 0 ∧ q.form = .held ∧ 0 ≤ (pSt .powerOn q).rmt ∧ q.causes = [4] ∧ (pSt .powerOn q).part 0 = some q ∧ q.pid = 0 ∧ q.faults = [] ∧
       q.reoffer = [] ∧ q.held = [] ∧ q.nheld = 0 ∧ q.undo = none ∧ q.xlate = []) := by decide +kernel
/-- FreezesAndRestarts, the restart: where HBM holds nothing, no port block holds a binding. -/
theorem witness_noBlocks (q : Part) (port : Nat) : ({ pSt .powerOn q with rmt := 512 } : State).readBlock q port = none := by
  have h (a : Nat) : Mem.readLE State.reset.mem a 1 = 0 := rfl
  simp [State.readBlock, State.areaNat, pSt, h]
/-- FreezeControlAndPower: a running partition without a troupe, one frozen with cause 5. -/
theorem witness_FreezeControlAndPower : (pSt .powerOn pq).part 0 = some pq ∧ pq.pid = 0 ∧ pq.form = .running ∧ pq.inTroupe = false ∧
    (pSt .powerOn (held [5])).part 0 = some (held [5]) ∧ (held [5]).form = .held ∧ (held [5]).causes = [5] := by decide +kernel
/-- A record of the journal, waiting, with a place that the device chooses. -/
def rec1 (kind : Nat) : Record := { probeRecord with seq := 5, kind := kind, state := 1, xr := 0xFFFF, yr := 0xFFFF }
/-- Its entry. -/
def entry1 (kind : Nat) (staged : Bool) : Entry := ⟨rec1 kind, 0, .empty, staged, 0, [], 0⟩
/-- A Ringmaster that holds it, after bring-up. -/
def ring1 (kind : Nat) : Ring := { Ring.powerOn with entries := [entry1 kind true], latched := true, bootstat := 2 }
/-- A state at a launch slot with that record. -/
def jSt (kind : Nat) : State := { State.reset with ring := ring1 kind }
/-- JournalAndLaunch: JTAIL in range, past it and before it; a scan; an image whose time has come; a launch and a checkpoint with a free place;
T0; an idle launch slot, and a cycle that is none. -/
theorem witness_JournalAndLaunch :
    ((jSt 1).ring.bootstat = 2 ∧ (1#64).toNat ≤ (jSt 1).ring.jhead.toNat + ringSize (jSt 1).ring.jsize ∧ (jSt 1).ring.jtail.toNat ≤ (1#64).toNat ∧
      (jSt 1).ring.jhead.toNat + ringSize (jSt 1).ring.jsize < (2#64).toNat) ∧
    (0#64).toNat < ({ Ring.powerOn with jtail := 1 } : Ring).jtail.toNat ∧ State.reset.ring.bootstat ≠ 2 ∧
    ((jSt 1).rmt % 4096 = 0 ∧ (jSt 1).ring.latched = true ∧ (jSt 1).ring.bootstat = 2 ∧ (jSt 1).ring.scanned ≤ (jSt 1).ring.published) ∧
    (({ ring1 1 with entries := [entry1 1 false] } : Ring).entry 5 = some (entry1 1 false)) ∧
    (∀ k ∈ [1, 2], (jSt k).ring.entry 5 = some (entry1 k true) ∧ (jSt k).rmt % 1024 = 0 ∧ (jSt k).isCandidate (entry1 k true) = true ∧
      (jSt k).freePid = some 0 ∧ (jSt k).placeAt [] ⟨rec1 k, none⟩ = some (0, 0) ∧ (jSt k).ring.unusable = []) ∧
    (let q := { pq with form := .launching, p := none }
     (pSt .powerOn q).part 0 = some q ∧ q.t0 = (pSt .powerOn q).rmt ∧ q.lrec.w = 1 ∧ q.lrec.h = 1) ∧
    (let s : State := { State.reset with ring := { Ring.powerOn with bootstat := 2 } }
     s.rmt % 1024 = 0 ∧ s.ring.bootstat = 2 ∧ s.parts = [] ∧ s.ring.entries = [] ∧ s.ring.swaps = []) ∧
    ({ State.reset with rmt := 1 } : State).rmt % 1024 ≠ 0 := by decide +kernel
/-- JournalCommands: the five kinds at a launch slot; a log with room and without; an outstanding ticket 0 at level 3 and none; a disposition
that is accepted; a spare column in use and not. -/
theorem witness_JournalCommands :
    (∀ k ∈ [3, 4, 5, 6, 7], (jSt k).commandAt 5 k = some (rec1 k)) ∧ (jSt 4).ring.logRoom = true ∧
    (jSt 4).ring.lost = 0 ∧ ((jSt 4).ring.logtail + 1).toNat % 4096 ≠ 4095 ∧ ({ ring1 4 with lost := 1 } : Ring).lost ≠ 0 ∧
    ({ ring1 4 with logtail := 1 } : Ring).logRoom = false ∧
    ((jSt 5).messages.find? fun (m : Message) => m.ticket == (rec1 5).field 56 2 && m.level == 3) = none ∧
    (let m := { msg1 with ticket := 0, level := 3 }
     let s : State := { jSt 5 with messages := [m] }
     (s.messages.find? fun (m : Message) => m.ticket == (rec1 5).field 56 2 && m.level == 3) = some m ∧ s.dispOk m ((rec1 5).field 58 1) t0 = true ∧
       s.dispOk m 9 t0 = false) ∧
    (let t : Coord := ⟨(rec1 6).field 56 2, (rec1 6).field 58 2⟩
     assocGet (jSt 6).ring.spare (dieOf t * 4096 + spareNum t) = none ∧ (jSt 6).ring.remaps = [] ∧ (spareBits 0).getLsbD 8 = false ∧ (spareBits 0x100#128).getLsbD 8 = true) := by
  decide +kernel
/-- BringUpLogAndSpares: BOOTSTAT 0 and 1; a log that is not yet placed; lost events with room; a notice with room; a record being signed; a
queued swap with its tile free; a remap in progress. -/
theorem witness_BringUpLogAndSpares :
    State.reset.ring.bootstat = 0 ∧ ({ Ring.powerOn with bootstat := 1 } : Ring).bootstat = 1 ∧ State.reset.ring.latched = false ∧
    State.reset.ring.heldCount < 2048 ∧ tileReason 0x20 = true ∧ tileReason 0x29 = false ∧
    (([] : List Coord).map fun t => dieOf t * 4096 + spareNum t).Nodup ∧
    ((⟨1, 0⟩ : Coord) ≠ t0 ∧ dieOf ⟨1, 0⟩ * 4096 + spareNum ⟨1, 0⟩ = dieOf t0 * 4096 + spareNum t0) ∧
    (let e : ErrEvent := ⟨1, 0x20, 0, 0, 0, 0, false⟩
     let g : Ring := { Ring.powerOn with health := [⟨false, 0x20, 0, 0, [], true⟩], lost := 0 }
     (g.healthOf e).lasting = true ∧ ({ g with bootstat := 2, logHeld := List.replicate 2048 ⟨0, 0, 0, 0, 0, 0⟩ } : Ring).heldCount = 2048 ∧
       ({ g with latched := true, logtail := 1 } : Ring).logRoom = false ∧ ({ g with latched := true, logsize := 12 } : Ring).logRoom = true ∧
       g.logtail.toNat % 4096 < 4094 ∧ spaceOf (BitVec.ofNat 64 (hbmAddr 0)) = 2 ∧ space2 (hbmAddr 0) = some 0 ∧ State.reset.pcBusy 0 = false) ∧
    (let r := { Ring.powerOn with latched := true, lost := 1 }
     r.lost ≠ 0 ∧ r.logRoom = true ∧ r.logtail.toNat % 4096 ≠ 4095) ∧
    (let r := { Ring.powerOn with latched := true, notices := [⟨1, 0, 0, []⟩] }
     r.notices = [⟨1, 0, 0, []⟩] ∧ r.ntail.toNat - r.nhead.toNat < ringSize r.nsize) ∧
    (let s : State := { State.reset with ring := { Ring.powerOn with nbase := BitVec.ofNat 64 (hbmAddr 0), sigbase := BitVec.ofNat 64 (hbmAddr 0) },
                                         parts := [pq], pcs := [(0, { PChan.powerOn with owner := some pq.pid })] }
     State.reset.ringBusy State.reset.ring.nbase 0 128 = false ∧ s.ringBusy s.ring.nbase 0 128 = true ∧ s.ringBusy s.ring.sigbase 0 16224 = true) ∧
    (let s : State := { State.reset with tiles := [(0, { Tile.powerOn with win := Vector.replicate 4 (BitVec.ofNat 64 (2 ^ 63 + 2 ^ 62 + 2 ^ 58 + 2 ^ 57 + 0x8000 * 2 ^ 17)) })] }
     let a (op : LooseOp) : Loose := ⟨.host, op, BitVec.ofNat 64 (tileAddr t0 0), 8, leBytes 8 0, 0, true⟩
     space1 (a .write).addr.toNat = some (t0, 0) ∧ s.partOf t0 = none ∧ s.looseAdmitted t0 0 (a .write) = true ∧ s.looseAdmitted t0 0 (a .read) = true) ∧
    (({ Ring.powerOn with signing := [(0, 0, 0, [])] } : Ring).signing.find? fun x => x.1 == 0) = some (0, 0, 0, []) ∧
    (t0 ∈ ({ Ring.powerOn with swaps := [t0] } : Ring).swaps ∧ State.reset.partOf t0 = none ∧ State.reset.ring.remaps = []) ∧
    (({ Ring.powerOn with remaps := [⟨0, 0x900, 1, none, none, 3⟩] } : Ring).remaps.find? fun x => x.die == 0 && x.num == 0x900) =
      some ⟨0, 0x900, 1, none, none, 3⟩ := by decide +kernel
/-- DeviceRegisters: a tile of a running partition and one of none; a request outstanding and not; a dirty log with as many records as are
named, and with fewer; a spare map with a column past 24, and one that is allowed. -/
theorem witness_DeviceRegisters :
    (pSt .powerOn pq).partOf t0 = some pq ∧ pq.form = .running ∧ State.reset.partOf t0 = none ∧
    (let r : XReq := ⟨1, 0, true, 0, 0, 0, 0, true, false⟩
     let x : DieXlate := { DieXlate.powerOn with reqs := [r], dirty := [0] }
     let s : State := { State.reset with xlate := [(0, x)] }
     r ∈ (s.dieX 0).reqs ∧ r.num = (1#128).toNat % 2 ^ 16 ∧ (∀ r ∈ (s.dieX 0).reqs, r.num ≠ (2#128).toNat % 2 ^ 16 ∧ r.full = false) ∧
       (s.dieX 0).dirty.length < (2#128).toNat % 2 ^ 13 ∧ (1#128).toNat % 2 ^ 13 ≤ (s.dieX 0).dirty.length) ∧
    (let e (asid gen : Nat) : Quad := BitVec.ofNat 128 (2 ^ 127 + asid * 2 ^ 106 + gen * 2 ^ 90)
     let s : State := { State.reset with xlate := [(0, { DieXlate.powerOn with tlb := [(1024, e 5 7), (1025, e 5 8)] })] }
     (s.dieX 0).tlb[0]? = some (1024, e 5 7) ∧ (s.dieX 0).tlb[1]? = some (1025, e 5 8) ∧
       teAsid (e 5 7) = 5 ∧ teP (e 5 7) = false ∧ teGen (e 5 7) = (7#64).toNat % 2 ^ 16 ∧ teGen (e 5 8) ≠ (7#64).toNat % 2 ^ 16) ∧
    State.reset.spareIllegal 0 0x900 25 = true ∧ State.reset.spareIllegal 0 0x900 0 = false := by decide +kernel
/-- An edge whose group 0 is in a state. -/
def gSt (x : GState) : State := { State.reset with edge := { edge2 with groups := [(0, { Group.powerOn with state := x })] } }
/-- A timetable that takes a quad from port 1 into tile (0, 0): released at OFF - Tin, with OFF 100. -/
def ttE : Timetable := { ttX with edge := [⟨0, 0, 0, 2, 1, 0, 9, 100, 6⟩] }
/-- Its partition at the release cycle. -/
def qe (l : List EdgeQuad) : Part := { prt ttE (100 - portT t0 1) with edgeIn := l }
/-- PortGroups, the group's states and limits, and a mode that the port holds and one that it does not. -/
theorem witness_PortGroups_states :
    ((gSt .drain).group 0).state ≠ .up ∧ ((gSt .drain).group 0).state ≠ .down ∧ ((gSt .up).group 0).state = .up ∧ (gSt .up).groupReserved 0 = false ∧
    ((gSt .quiesce).group 0).state = .quiesce ∧ ((gSt .quiesce).group 0).until' ≤ (gSt .quiesce).rmt ∧ ((gSt .drain).group 0).state = .drain ∧
    ((gSt .drain).group 0).until' ≤ (gSt .drain).rmt + 1 ∧ (gSt .drain).groupBusy 0 = false ∧
    ((gSt .retrain).group 0).state = .retrain ∧ ((gSt .up).group (1 / 4)).state = .up ∧
    ((gSt .up).port 1).imodeNew = 0 ∧ ((gSt .up).port 1).imodeNew ≠ 1 ∧ (0x400000000000000#64).toNat / 2 ^ 58 % 4 = (1 : Fin 4).val ∧
    (let u : State := { gSt .down with edge := { (gSt .down).edge with outbound := [⟨4, some 5, .hub 0 0, 0, 8, false, [], 0⟩] } }
     ∀ o ∈ u.edge.outbound, o.port = some 5) := by decide +kernel
/-- Port 1 of an UP group, changed. -/
def pUp (f : Port → Port) : State := (gSt .up).modPort 1 f
/-- PortGroups, a flit time: a flit that is due, ready and not, on an unprotected port. -/
theorem witness_PortGroups_send :
    (pUp id).flitDue 1 = true ∧ ((pUp id).port 1).turnTx.imode = 0 ∧ ((pUp id).port 1).turnTx.reducing = false ∧
    bestFlit ((pUp id).port 1).turnTx.queue = none ∧ bestFlit [⟨1, 2, .idle⟩] = some ⟨1, 2, .idle⟩ := by decide +kernel
/-- PortGroups, a protected port whose CTR has room, and one at its end. -/
theorem witness_PortGroups_ctr :
    (pUp fun p => { p with imode := 1 }).flitDue 1 = true ∧ ((pUp fun p => { p with imode := 1 }).port 1).turnTx.imode ≠ 0 ∧
    ((pUp fun p => { p with imode := 1 }).port 1).turnTx.txctr = 0 ∧
    (pUp fun p => { p with imode := 1, txctr := 0xFFFFFFFFFFFFFFFF }).flitDue 1 = true ∧
    ((pUp fun p => { p with imode := 1, txctr := 0xFFFFFFFFFFFFFFFF }).port 1).turnTx.txctr = 0xFFFFFFFFFFFFFFFF := by decide +kernel
/-- PortGroups, each direction of a port on two lanes, with a reduction pending and without. -/
theorem witness_PortGroups_width : ∀ r ∈ [true, false],
    ((pUp fun p => { p with reducing := r, width := 2, rxwidth := 2 }).port 1).up = true ∧
    ((pUp fun p => { p with reducing := r, width := 2, rxwidth := 2 }).port 1).reducing = r ∧
    ((pUp fun p => { p with reducing := r, width := 2, rxwidth := 2 }).port 1).boundary = true ∧
    ((pUp fun p => { p with reducing := r, width := 2, rxwidth := 2 }).port 1).width = 2 ∧
    ((pUp fun p => { p with reducing := r, width := 2, rxwidth := 2 }).port 1).rxwidth = 2 ∧
    (pUp fun p => { p with reducing := r, width := 2, rxwidth := 2 }).flitDue 1 = true := by decide +kernel
/-- The receive entry of that timetable. -/
def recv1 : EdgeEntry := ⟨0, 0, 0, 2, 1, 0, 9, 100, 6⟩
/-- A quad that has come for it. -/
def quad1 : EdgeQuad := ⟨0, 0, 0, 7, 1⟩
/-- PortGroups, a release: a quad that has come and one that has not, with its port up, down, and down since. -/
theorem witness_PortGroups_release :
    (pSt .powerOn (qe [quad1])).part 0 = some (qe [quad1]) ∧ (qe [quad1]).tt.edge[0]? = some recv1 ∧
    (qe [quad1]).releaseAt recv1 0 0 = some ((qe [quad1]).cyc : Int) ∧
    ((qe [quad1]).edgeIn.find? fun x => x.entry == 0 && x.ss == 0 && x.quad == 0) = some quad1 ∧
    ((qe []).edgeIn.find? fun x => x.entry == 0 && x.ss == 0 && x.quad == 0) = none ∧ (qe []).form = .running ∧
    (State.reset.port recv1.port).up = false ∧ ((gSt .up).port recv1.port).up = true ∧
    (1, 0) ∈ ({ qe [] with linkDown := [(1, 0)] } : Part).linkDown := by decide +kernel
/-- ReceivedFlits: a port that is down, and one that is up, in each mode; the bytes of each kind of flit; a slot flit with an entry and with
none; a request for another device; a response without a request; a message for this device; a flit of no listed KIND; a group that wants
its fifth flit, and one whose verification is over. -/
theorem witness_ReceivedFlits :
    (State.reset.port 1).up = false ∧ ((gSt .up).port 1).up = true ∧ ((gSt .up).port 1).turnRx.rxmode = 0 ∧
    (∀ b ∈ ([.idle, .slot 9 0 0 [7], .slot 0x8001 0 0 [7], .request 3 0 .read 8 (leBytes 8 0) 0, .response 3 .refused, .mgmt 1 4 5 6, .mgmt 2 4 5 6,
        .mgmt 3 4 5 6, .mgmt 4 4 5 6, .mgmt 5 4 5 6, .mgmt 6 4 5 6, .mgmt 7 4 5 6, .mgmt 8 4 5 6, .mgmt 9 4 5 6, .mgmt 10 4 5 6] : List FlitBody),
      wireFlit (flitBytes ⟨1, 2, b⟩) = some ⟨1, 2, b⟩) ∧
    (let s := pSt .powerOn (prt ttE 0)
     s.slotTarget 1 6 9 0 = some (prt ttE 0, ⟨0, 0, 0, 2, 1, 0, 9, 100, 6⟩, 0) ∧ s.slotTarget 1 6 8 0 = none ∧ (prt ttE 0).form = .running ∧
       (prt ttE 0).ss ≤ 0) ∧
    (⟨1, 2, .request 0 0 .read 8 [] 0⟩ : LinkFlit).dst ≠ State.reset.device ∧
    (State.reset.edge.outbound.find? fun o => o.tag == 3 && o.port == some 1) = none ∧ (⟨1, 0, .mgmt 8 0 0 0⟩ : LinkFlit).dst = State.reset.device ∧
    wireFlit (padTo 256 [5]) = none ∧ wireBody (flitBytes ⟨1, 2, .idle⟩) = some .idle ∧
    (∀ m ∈ [1, 2], let s := (gSt .up).modPort 1 fun p => { p with rxmode := m, received := 4, groupIn := List.replicate 4 [] }
      (s.port 1).up = true ∧ (s.port 1).turnRx.rxmode = m ∧ (s.port 1).turnRx.groupIn.length = 4) ∧
    (let g : TagGroup := ⟨0, 1, List.replicate 5 []⟩
     let s := (gSt .up).modPort 1 fun p => { p with verifying := [g] }
     (s.port 1).verifying = g :: [] ∧ g.at' ≤ s.rmt ∧ g.mode ≠ 2) := by decide +kernel
/-- What a tag covers of a flit does not hold its trailer, and its trailer is the tag put there. -/
theorem withTag_facts (w : WireFlit) (t : List Byte) (h : t.length = 16) : padTo 240 (withTag w t) = padTo 240 w ∧ trailer (withTag w t) = t := by
  have hp (n : Nat) (l : List Byte) : (padTo n l).length = n := by rw [padTo, List.length_take, List.length_append, List.length_replicate]; omega
  refine ⟨?_, ?_⟩
  · rw [withTag, padTo, List.append_assoc]; exact List.take_left' (hp 240 w)
  · rw [trailer, withTag, List.drop_left' (hp 240 w), padTo]; exact List.take_left' h
/-- ReceivedFlits: a group of idle flits whose fifth carries the tag that the receiver forms, and the same with one bit of each byte changed. -/
theorem witness_tag :
    let w := flitBytes ⟨1, 2, .idle⟩
    let tag := groupTag 0 0 0 (List.replicate 5 w)
    let bad := tag.map (· ^^^ 1)
    groupTag 0 0 0 (List.replicate 4 w ++ [withTag w tag]) = trailer (withTag w tag) ∧
    groupTag 0 0 0 (List.replicate 4 w ++ [withTag w bad]) ≠ trailer (withTag w bad) := by
  intro w tag bad
  have ha : (aes256 (leBytes 32 (0 : BitVec 256).toNat) (beBytes 4 (0 : BitVec 32).toNat ++ beBytes 8 (0 : DWord).toNat ++ [0, 0, 0, 1])).length = 16 := by
    decide +kernel
  have ht : tag.length = 16 := by
    show (groupTag 0 0 0 _).length = 16
    simp only [groupTag, gmac, xorBytes, List.length_zipWith, ha]; simp [beBytes]
  have hb : bad.length = 16 := by rw [← ht]; exact List.length_map ..
  have hg (t : List Byte) (h : t.length = 16) : groupTag 0 0 0 (List.replicate 4 w ++ [withTag w t]) = tag := by
    show groupTag 0 0 0 _ = groupTag 0 0 0 (List.replicate 4 w ++ [w])
    simp only [groupTag, List.flatMap_append, List.flatMap_singleton, (withTag_facts w t h).1]
  rw [hg tag ht, hg bad hb, (withTag_facts w tag ht).2, (withTag_facts w bad hb).2]
  refine ⟨rfl, fun h => ?_⟩
  have hx (b : Byte) : b ^^^ 1 ≠ b := by revert b; decide
  obtain ⟨b, r, hc⟩ := List.exists_cons_of_length_pos (by omega : 0 < tag.length)
  have h' : tag = tag.map (· ^^^ 1) := h
  rw [hc, List.map_cons, List.cons.injEq] at h'
  exact hx b h'.1.symm
/-- LanesAreIndependent and OverflowTable hold without hypotheses but a lane's range: FP32 has 4 lanes. -/
theorem witness_LanesAreIndependent : 3 < laneCount .f32 ∧ 7 < laneCount .bf16 ∧ (RMode.sr = .rne ∨ RMode.sr = .sr) := by decide +kernel
/-- LanesAreIndependent, the lane functions: a NaN, the infinities, the zeros and finite values of both signs in FP32, one of them an integer and
a power of two, and a mode that is not SR. -/
theorem witness_laneValues :
    (laneElem .f32).decode 0x7FC00000 = .nan ∧ (∀ s ∈ [true, false], ∃ a ∈ [0xFF800000, 0x7F800000], (laneElem .f32).decode a = .inf s) ∧
    (laneElem .f32).decode 0 = .fin false 0 (-149) ∧ (laneElem .f32).decode 0x80000000 = .fin true 0 (-149) ∧
    (laneElem .f32).decode 0x40000000 = .fin false 0x800000 (-22) ∧ (laneElem .f32).decode 0xC0000000 = .fin true 0x800000 (-22) ∧
    (laneElem .f32).decode 0x3F800000 = .fin false 0x800000 (-23) ∧ RMode.rne ≠ .sr ∧ (0 : Nat) < 1 := by decide +kernel
/-- LanesAreIndependent: 2 is an integer and a power of two other than 1, and 1 is 2 to the 0. -/
theorem witness_laneInteger : (FVal.fin false 0x800000 (-22)).rat = (2 : ℤ) ∧ (FVal.fin false 0x800000 (-22)).rat = (2 : ℚ) ^ (1 : ℤ) ∧
    (FVal.fin false 0x800000 (-23)).rat = (2 : ℚ) ^ (0 : ℤ) := by
  norm_num [FVal.rat]

/-! ### Witnesses: the forms on damaged items, in other spaces and at the edges of their ranges -/

/-- FullEmptyAndQueues: a word whose full bit the access core's ld.fe clears in the same cycle; damaged words that are full; a damaged oldest
entry of the store queue. -/
theorem witness_FullEmptyAndQueues_damaged :
    let base (k : Side) := tileOf k (slotOf [(4, capL 0x200)])
    let f (s : State) : State := { s with full := [tileAddr t0 0x200] }
    let bad := [⟨0x20, 0x200⟩, ⟨0x23, 8⟩]
    rdyT (.ldFe 3 4 0) (f (st .execute { base .execute with pend := [⟨0, .fullClear .access 0 0x200⟩] } pq)) (fun cx tc => tc.k == .execute &&
      cx.n == 0 && okIs (checkLocal (cx.read 4) 0 8 0x101 0 0x8000) 0x200) ∧
    rdyT (.ldFe 3 4 0) (f (st .access { base .access with damage := bad } pq)) (fun _ tc => tc.k == .access && (tc.tile.eccAt 0x200 8).isSome) ∧
    rdyT (.ldLq 4 0) (st .access { base .access with damage := bad } pq) (fun _ tc => decide (tc.tile.lq.length + tc.tile.lqPending < 8) &&
      (tc.tile.eccAt 0x200 16).isSome) ∧
    rdyT (.stSq 4 0) (st .access { base .access with damage := bad, sq := [9] } pq) (fun _ tc => tc.tile.sq == [9] && damaged tc.tile.damage 0x23 8) := by
  decide +kernel
/-- A valid, dirty entry of the translation buffer for page 0 of ASID 0, to 0x2000000000000000, with LD and ST. -/
def te2 : Quad := BitVec.ofNat 128 (2 ^ 127 + 2 ^ 125 + 2 ^ 124 + 2 ^ 123 + 2 ^ 51)
/-- HubAccesses: every form in HBM, unanswered, answered and refused; in virtual space with an entry, without one, and past 48 bits. -/
theorem witness_HubAccesses_spaces :
    ([(Instr.ldB 3 4 0, 1, 0x001#12, LooseOp.read), (.ldBu 3 4 0, 1, 0x001, .read), (.ldH 3 4 0, 2, 0x001, .read), (.ldHu 3 4 0, 2, 0x001, .read),
      (.ldW 3 4 0, 4, 0x001, .read), (.ldD 3 4 0, 8, 0x001, .read), (.ldQ 3 4 0, 16, 0x001, .read), (.ldC 3 4 0, 16, 0x009, .readCap),
      (.stB 3 4 0, 1, 0x002, .write), (.stH 3 4 0, 2, 0x002, .write), (.stW 3 4 0, 4, 0x002, .write), (.stD 3 4 0, 8, 0x002, .write),
      (.stQ 3 4 0, 16, 0x002, .write), (.stC 3 4 0, 16, 0x012, .writeCap false)].all fun x =>
      let s (a : DWord) (r : Option Reply) (tlb : List (Nat × Quad)) : State :=
        { sh { hubOf [(4, capG a)] with answer := r } with xlate := [(0, { DieXlate.powerOn with tlb := tlb })] }
      let ok (a : DWord) (cx : Cx) : Bool := okIs (checkCap (cx.read 4) 0 x.2.1 x.2.2.1) a && (checkSpacePerm (cx.read 4) a).isOk && spaceOf a != 0
      let far (tlb : List (Nat × Quad)) : Nat := match (s 0x3000000000000040 none tlb).xlateAt 0 0 0x40 (opNeed x.2.2.2) true with | .hit _ n _ _ => n | .miss _ => 0
      ([none, some (Reply.ok (List.replicate x.2.1 1) false), some .refused, some .pathDown].all fun r =>
        rdy x.1 (s 0x2000000000000040 r []) (fun cx => ok 0x2000000000000040 cx && ((s 0x2000000000000040 r []).hub 0 0).answer == r)) &&
      (match (s 0x2000000000000040 none []).routeAccess 0x2000000000000040 x.2.1 with | .ok _ => true | .error _ => false) &&
      (match (s 0x6000000000000040 none []).routeAccess 0x6000000000000040 x.2.1 with | .ok _ => false | .error _ => true) &&
      rdy x.1 (s 0x3000000000000040 none [(1024, te2)]) (ok 0x3000000000000040) && far [(1024, te2)] == 0x2000000000000040 && far [] == 0 &&
      rdy x.1 (s 0x3001000000000000 none []) (ok 0x3001000000000000)) = true := by decide +kernel
/-- LanesAreIndependent, sine and cosine: 2^18, a value below 2^-12, and 1. -/
theorem witness_laneAngles : (2 : ℚ) ^ 18 ≤ |(Elem.fp32.decode 0x48800000).rat| ∧ |(Elem.fp32.decode 0x38000000).rat| < 1 / 2 ^ 12 ∧
    (Elem.fp32.decode 0x38000000) = .fin false 0x800000 (-38) ∧ |(Elem.fp32.decode 0x3F800000).rat| < 2 ^ 18 ∧
    ¬(|(Elem.fp32.decode 0x3F800000).rat| < 1 / 2 ^ 12) := by
  have h1 : Elem.fp32.decode 0x48800000 = .fin false 0x800000 (-5) := by decide +kernel
  have h2 : Elem.fp32.decode 0x38000000 = .fin false 0x800000 (-38) := by decide +kernel
  have h3 : Elem.fp32.decode 0x3F800000 = .fin false 0x800000 (-23) := by decide +kernel
  rw [h1, h2, h3]; norm_num [FVal.rat, abs_of_pos]
/-- LanesAreIndependent, the folds: four lanes of which one is a NaN, and four of which none is. -/
theorem witness_laneFolds :
    (∃ k < laneCount .f32, (laneElem .f32).decode ((0x7FC00000#128).toNat / 2 ^ (32 * k) % 2 ^ 32) = .nan) ∧
    ∀ k < laneCount .f32, (laneElem .f32).decode ((0x3F800000#128).toNat / 2 ^ (32 * k) % 2 ^ 32) ≠ .nan := by decide +kernel
/-- ConversionsAndScales, the elements: the last part of FP32 and of a 6-bit format, a NaN scale, a zero scale and one that is neither; a finite
element that is not zero; a lane that is NaN, infinite, zero and finite; and for E5M3 a least code that suffices, and none. -/
theorem witness_conversionElements :
    4 * 0 < 4 ∧ 8 * 1 < 16 ∧ 4 * 3 < 16 ∧ 8 * 0 < 4 ∧ scaleVal .e8m0 0xFF = none ∧ (scaleVal .e5m3 0).map Prod.fst = some 0 ∧ scaleVal .e5m3 0x79 = some (9, -3) ∧
    Elem.fp32.decode 0x43FA0000 = .fin false 0xFA0000 (-15) ∧ (∀ s k e, Elem.fp32.decode 0x7F800000 ≠ .fin s k e) ∧ (1 : Nat) < 2 ∧
    fmtOf 0x14 = some ⟨.e4m3, 16, .e5m3, false⟩ ∧ (fmtOf 0x08).map Fmt.scale = some .e8m0 ∧ Elem.e4m3.fpParams.isSome = true ∧
    (.nan ∈ [Elem.fp32.decode 0x7FC00000]) ∧ (.nan ∉ [Elem.fp32.decode 0x7F800000] ∧ .inf false ∈ [Elem.fp32.decode 0x7F800000]) ∧
    (.nan ∉ [Elem.fp32.decode 0x3F800000] ∧ ∀ s, .inf s ∉ [Elem.fp32.decode 0x3F800000]) ∧ Elem.fp32.decode 0 = .fin false 0 (-149) := by
  refine ⟨by decide, by decide, by decide, by decide, by decide +kernel, by decide +kernel, by decide +kernel, by decide +kernel, ?_, by decide,
    by decide +kernel, by decide +kernel, by decide +kernel, by decide +kernel, by decide +kernel, by decide +kernel, by decide +kernel⟩
  rw [show Elem.fp32.decode 0x7F800000 = .inf false by decide +kernel]; intro s k e h; cases h
/-- ConversionsAndScales, E5M3: for 500 and E4M3 the least code is 0x79, and none reaches 2^100. -/
theorem witness_e5m3 :
    let f : Fmt := ⟨.e4m3, 16, .e5m3, false⟩
    sclCode f .f32 0x43FA0000 = (0x79, flNone) ∧ sclCode f .f32 0x71800000 = (0xFE, flSA) := by decide +kernel
/-- AccumulatorReadOut: a live element that is not 0, with IV clear and set, and one that its mask or the dimensions exclude. -/
theorem witness_mzLane :
    let z : Acc := { Acc.cleared with el := Vector.replicate 64 (-1), mask := 1 }
    z.mask.getLsbD (0 : Fin 64) = true ∧ z.mask.getLsbD (63 : Fin 64) = false ∧ (z.el[(0 : Fin 64)]).toInt = -1 ∧ z.iv = false ∧
    ({ z with iv := true } : Acc).iv = true ∧ (z.el[(0 : Fin 64)]).toInt ≠ 0 ∧ (8 : Nat) ≥ (8#32).toNat := by decide +kernel
/-- ImageTransfers: an addition of 64 elements that is due. -/
theorem witness_addImage :
    let op : ImageOp := ⟨0, 51, true, 0x400, 0, 0, false, false, List.replicate 64 1⟩
    let s := st .execute { tileOf .execute (slotOf []) with image := some op } (prt .empty 51)
    s.partOf t0 = some (prt .empty 51) ∧ (s.tile t0).image = some op ∧ op.due ≤ (prt .empty 51).cyc ∧ op.add = true ∧ op.el.length = 64 := by
  decide +kernel
/-- SendsAndCatches and PutTakesAJournalEntry: spans that fail; a put without a tag, to space 7 without SYS, past 0x8000, and whose
partition stands. -/
theorem witness_exchangeChecks :
    let c (x : DWord) := st .access (tileOf .access (slotOf [(4, capL x)])) (catchPart 2 0 [flit7])
    let m (x : DWord) := st .access (tileOf .access (slotOf [(4, capL x)])) (catchPart 3 1 [flit7])
    let p (r : CReg) := st .access (tileOf .access (slotOf [(4, r)])) (prt (ttF 4 0) 0)
    let far : DWord := BitVec.ofNat 64 (tileAddr ⟨1, 0⟩ 0x8000)
    rdyT (.catchOne 4 0) (c 0x8000) (fun cx _ => !(checkLocal (cx.read 4) 0 16 0x002 0 0x8000).isOk) ∧
    rdyT (.catchM 4 1) (m 0x7FF0) (fun cx _ => !(checkSpan (cx.read 4) 0 32 0x002 16 0 0x8000).isOk) ∧
    rdyT (.put 5 4 0) (p (val 0)) (fun cx _ => !(checkCap (cx.read 4) 0 8 0x202).isOk) ∧
    rdyT (.put 5 4 0) (p (makeCap 0 (2 ^ 64) 0x7000000000000000 0x71F)) (fun cx _ => okIs (checkCap (cx.read 4) 0 8 0x202) 0x7000000000000000 &&
      !(checkSpacePerm (cx.read 4) 0x7000000000000000).isOk) ∧
    rdyT (.put 5 4 0) (p (capG far)) (fun cx tc => okIs (checkCap (cx.read 4) 0 8 0x202) far && (checkSpacePerm (cx.read 4) far).isOk &&
      decide (far.toNat % 2 ^ 24 = 0x8000) && ((p (capG far)).part tc.part.pid).isSome) := by decide +kernel
/-- TurnstileStopAndStart: a live slot that waits for nothing, starting and not. -/
theorem witness_starting : ∀ l ∈ [[], [⟨3, Eff.ready .access 0⟩]],
    let s := st .access { tileOf .access (slotOf []) with pend := l } pq
    ((s.tile t0).slot .access (0 : Fin 4)).live = true ∧ ((s.tile t0).slot .access (0 : Fin 4)).hold = none ∧ (s.tile t0).lost = false ∧
    (s.issueActs pq 0 t0).contains (.issue (.tile t0 .access 0)) = l.isEmpty := by decide +kernel
/-- ChecksAndSemaphores: an execute core's test in the cycle in which the access core's has taken 1. -/
theorem witness_semTaken :
    rdyT (.semChk 4 15) (st .execute { tileOf .execute (slotOf [(4, val 1)]) with sem := Vector.replicate 16 1, pend := [⟨0, .semSub .access 0 15 1⟩] } pq)
      (fun cx tc => tc.k == .execute && cx.n == 0 && (tc.tile.sem[(15 : Fin 16)]) == 1 && tc.tile.semTaken 15 cx.n == 1) := by decide +kernel
/-- AtomicsAndFence: a damaged word of local SRAM, at each size. -/
theorem witness_amoDamaged : ([(Instr.amoAdd 3 4 5 .w, 4), (.amoMax 3 4 5 .d, 8), (.amoMin 3 4 5 .w, 4), (.amoMaxu 3 4 5 .w, 4), (.amoMinu 3 4 5 .w, 4),
      (.amoAnd 3 4 5 .w, 4), (.amoOr 3 4 5 .w, 4), (.amoXor 3 4 5 .w, 4), (.amoSwap 3 4 5 .w, 4), (.amoCas 3 4 5 6 .d, 8), (.amoFmax 3 4 5, 4)].all fun x =>
    rdyT x.1 (st .access { tileOf .access (slotOf [(4, capG 0x7FF8)]) with damage := [⟨0x20, 0x7FF8⟩] } pq) (fun cx tc =>
      okIs (checkCap (cx.read 4) 0 x.2 0x003) 0x7FF8 && (checkSpacePerm (cx.read 4) 0x7FF8).isOk && (tc.tile.eccAt 0x7FF8 x.2).isSome)) = true := by
  decide +kernel
/-- CommandsEnterTheChannel: words of a walk of two elements, of which the second is the first that lies outside. -/
theorem witness_firstOut :
    let c := makeCap 0 0x308 0x300 0x51B
    ([0x300, 0x308].find? fun x => !decide ((decodeBounds c.data).1 ≤ x ∧ x + 8 ≤ (decodeBounds c.data).2)) = some 0x308 ∧
    ([0x300].find? fun x => !decide ((decodeBounds c.data).1 ≤ x ∧ x + 8 ≤ (decodeBounds c.data).2)) = none ∧
    sealed c.data = false ∧ hasPerm c.data 0x401 = true ∧ hasPerm c.data 0x402 = true ∧ c.tag = true := by decide +kernel
/-- DispositionsAreAccepted: a partition held in place for the fault alone; the last level and the ones below it; a hub's message. -/
theorem witness_dispositions :
    let s := trapSt [] msg1
    s.part msg1.pid = some { pq with form := .held, causes := [1] } ∧ pq.written = false ∧ Mem.wf s.mem = true ∧ msg1.level ≠ 3 ∧
    ({ msg1 with level := 3 } : Message).level = 3 ∧ ({ msg1 with origin := true } : Message).origin = true ∧ t0.x < 1024 ∧ (⟨1, 0⟩ : Coord) ≠ t0 := by
  decide +kernel
/-- CarouselForms, the effects: a bound tile of a partition. -/
theorem witness_carouselEffects :
    let s := cSt' (fun t => { t with binding := some (bnd 0 .full) }) [] [] .empty
    s.partOf ta = some (pa .empty) ∧ (s.tile ta).binding = some (bnd 0 .full) := by decide +kernel
/-- MeshAndTurnstile: two catches in progress and a flit; one catch at its low and at its high half, and no flit. -/
theorem witness_catches :
    let cs (a : Nat) : CatchSt := ⟨a, 2, 0x200, 0, some 5, true, true⟩
    let q := catchPart 0 0 [flit7]
    let q0 := catchPart 0 0 []
    (let s := pSt { Tile.powerOn with catches := [cs 5, cs 6] } q
     s.partOf t0 = some q ∧ s.part q.pid = some q ∧ q.streamAt t0 q.cyc = some flit7) ∧
    ∀ a ∈ [5, 6], let s := pSt { Tile.powerOn with catches := [cs a] } q0
      s.partOf t0 = some q0 ∧ s.part q0.pid = some q0 ∧ (s.tile t0).catches = [cs a] ∧ a < q0.cyc ∧ q0.cyc < a + 2 * 2 ∧ q0.streamAt t0 q0.cyc = none := by
  decide +kernel
/-- EngineEvents: element 0 of a copy to and from a member tile in its cycle, the first word of one to a member whose element is under way,
and the first word of one to an owned pseudo-channel. -/
theorem witness_EngineEvents_walks : ∀ x ∈ [(Path.memberDst, 0), (.memberSrc, 0), (.memberDst, 1), (.pcDst, 0)],
    let c := { cmd1 with start := some 0, path := x.1 }
    let el : Element := ⟨6, t0, 0, 0, t0, none, 0, 6, true, none, 0, [0x380], [0x300], false⟩
    let q := { prt .empty x.2 with elems := [el] }
    let s := pSt { Tile.powerOn with chans := Vector.replicate 4 { Chan.cleared with run := some c } } q
    s.partOf t0 = some q ∧ s.part q.pid = some q ∧ ((s.tile t0).chans[(0 : Fin 4)]).run = some c ∧ c.start = some 0 ∧ c.virtual = false ∧
      c.last = none ∧ 0 < c.elements ∧ 0 < c.shape.w ∧ c.skips 0 = false ∧ q.cyc = 0 + 0 * (c.shape.w + 1) + x.2 + 0 ∧
      ((s.tile t0).eccAt (homeOffset (c.srcAddr 0 0)) 8).isNone = true ∧
      (q.elems.find? fun el => el.tile == t0 && el.ch == 0 && el.e == 0 && el.dst && el.first == c.first + 0 * c.shape.w) = some el := by decide +kernel
/-- BankEvents: RD whose channel is at another burst, its row not being open. -/
theorem witness_otherBurst :
    let c : Cmd := { cmd1 with path := .pcSrc, shape := { cmd1.shape with w := 8 }, src := capG 0x2000000000000000, start := some 0 }
    let s : State := pSt { Tile.powerOn with chans := Vector.replicate 4 { Chan.cleared with run := some c } } (bkq 1)
    (bkq 1).bankNow 0 1 = some (bk 1) ∧ ((s.tile ((bkq 1).bankTile (bk 1))).chans[(Fin.ofNat 4 (bk 1).ch : Fin 4)]).run = some c ∧
      s.burstIs (bk 1) (homeOffset (c.srcAddr (c.burst / (c.shape.w / 8)) (c.burst % (c.shape.w / 8) * 8))) = false := by decide +kernel
/-- JournalCommands: an attestation to address 0 of HBM, free and with a running owner. -/
theorem witness_attest :
    let r : Record := { rec1 7 with body := List.replicate 95 0 ++ [0x20] ++ List.replicate 32 0 }
    let s : State := { jSt 7 with ring := { (jSt 7).ring with entries := [{ entry1 7 true with lrec := r }] } }
    s.commandAt 5 7 = some r ∧ space2 (r.field 88 8) = some 0 ∧ r.field 88 8 / 2 ^ 60 = 2 ∧ s.pcBusy (pcOf 0) = false ∧ Mem.wf s.mem = true ∧
    ({ s with parts := [pq], pcs := [(0, { PChan.powerOn with owner := some pq.pid })] } : State).pcBusy (pcOf 0) = true := by decide +kernel
/-- DeviceRegisters and PortGroups: a port that is up and one that is down; rings that are fixed and not; pointers that a write may take; a
group that is DOWN, and one that is in use. -/
theorem witness_registers :
    ((gSt .up).port 1).up = true ∧ (State.reset.port 1).up = false ∧ State.reset.ring.latched = false ∧ (jSt 3).ring.latched = true ∧
    State.reset.ring.nhead.toNat ≤ (0#64).toNat ∧ (0#64).toNat ≤ State.reset.ring.ntail.toNat ∧ State.reset.ring.loghead.toNat ≤ (0#64).toNat ∧
    (0#64).toNat ≤ State.reset.ring.logtail.toNat ∧ ((gSt .down).group 0).state = .down ∧ (gSt .down).groupReserved 0 = false ∧
    ({ gSt .down with parts := [prt ttE 0] } : State).groupReserved 0 = true ∧ ({ gSt .up with parts := [prt ttE 0] } : State).groupReserved 0 = true := by
  decide +kernel

end Sys2Proof.Tests
end

/-! ### The overflow table

One lemma for each column and row of the table of R46. -/

namespace Sys2Proof.Machine

section
variable (f : Elem) (neg : Bool) (rm : RMode)

/-- The column of sat = 1: the mode does not matter. -/
@[simp] theorem overflowResult_saturated : overflowResult f neg rm true = (f.maxOf neg, flNX ||| flSA) := rfl

@[simp] theorem overflowResult_unsaturated_flags : (overflowResult f neg rm false).2 = (flNX ||| flOF) := rfl

@[simp] theorem overflowResult_rne_code : (overflowResult f neg .rne false).1 = f.ovf neg := rfl

/-- SR overflows as RNE does. -/
@[simp] theorem overflowResult_sr_code : (overflowResult f neg .sr false).1 = f.ovf neg := rfl

@[simp] theorem overflowResult_rtz_code : (overflowResult f neg .rtz false).1 = f.maxOf neg := rfl

/-- RDN rounds towards -∞, so only a negative value goes past ±maxmag. -/
@[simp] theorem overflowResult_rdn_code :
    (overflowResult f neg .rdn false).1 = if neg then f.ovf neg else f.maxOf neg := by
  cases neg with
  | false => rfl
  | true => rfl

/-- RUP rounds towards +∞, so only a positive value goes past ±maxmag. -/
@[simp] theorem overflowResult_rup_code :
    (overflowResult f neg .rup false).1 = if neg then f.maxOf neg else f.ovf neg := by
  cases neg with
  | false => rfl
  | true => rfl

end

/-- Settles O30: the columns of the table first, then its rows mode by mode. -/
theorem overflowTable : Obligations.OverflowTable := by
  intro f neg rm
  refine ⟨overflowResult_saturated f neg rm, overflowResult_unsaturated_flags f neg rm, ?_, ?_, ?_, ?_⟩
  · rintro (rfl | rfl)
    · exact overflowResult_rne_code f neg
    · exact overflowResult_sr_code f neg
  · rintro rfl
    exact overflowResult_rtz_code f neg
  · rintro rfl
    exact overflowResult_rdn_code f neg
  · rintro rfl
    exact overflowResult_rup_code f neg

end Sys2Proof.Machine

/-! ### Integer results -/

namespace Sys2Proof.Machine

/-- A form that writes an untagged value of its context, which is `g` of the context. -/
theorem writes_plain {i : Instr} {d : RegNo} {lat : Nat} {f g : Cx → Quad}
    (he : ∀ s, exec i s = issueResult i d lat (fun cx => .plain (f cx)) s) (hv : ∀ cx, f cx = g cx) :
    Writes i d lat fun cx => ⟨g cx, false⟩ :=
  writes_of he fun cx => congrArg CReg.plain (hv cx)

section
variable (x y : Quad) (n : Nat)

theorem shiftLeft_eq_ofNat : x <<< n = BitVec.ofNat 128 (x.toNat * 2 ^ n) := by
  apply BitVec.eq_of_toNat_eq
  rw [BitVec.toNat_shiftLeft, BitVec.toNat_ofNat, Nat.shiftLeft_eq]

theorem ushiftRight_eq_ofNat : x >>> n = BitVec.ofNat 128 (x.toNat / 2 ^ n) := by
  rw [← Nat.shiftRight_eq_div_pow, ← BitVec.toNat_ushiftRight, BitVec.ofNat_toNat, BitVec.setWidth_eq]

theorem sshiftRight_eq_ofInt : x.sshiftRight n = BitVec.ofInt 128 (x.toInt / 2 ^ n) := by
  rw [BitVec.sshiftRight, Int.shiftRight_eq_div_pow, Nat.cast_pow, Nat.cast_ofNat]

theorem boolQ_decide (p : Prop) [Decidable p] : boolQ (decide p) = if p then 1 else 0 := by
  by_cases hp : p
  · simp [boolQ, hp]
  · simp [boolQ, hp]

/-! int_op, row by row (R84). -/

theorem intOp_add : intOp .add x y = BitVec.ofNat 128 (x.toNat + y.toNat) := by
  simp [intOp, BitVec.ofNat_add]

theorem intOp_sub : intOp .sub x y = BitVec.ofInt 128 ((x.toNat : Int) - y.toNat) := by
  rw [Int.sub_eq_add_neg, BitVec.ofInt_add, BitVec.ofInt_neg, BitVec.ofInt_natCast, BitVec.ofInt_natCast]
  simp [intOp, BitVec.sub_eq_add_neg]

theorem intOp_sll : intOp .sll x y = BitVec.ofNat 128 (x.toNat * 2 ^ (y.toNat % 128)) := shiftLeft_eq_ofNat ..

theorem intOp_srl : intOp .srl x y = BitVec.ofNat 128 (x.toNat / 2 ^ (y.toNat % 128)) := ushiftRight_eq_ofNat ..

theorem intOp_sra : intOp .sra x y = BitVec.ofInt 128 (x.toInt / 2 ^ (y.toNat % 128)) := sshiftRight_eq_ofInt ..

/-- The two parts of a rotation share no bit. -/
theorem rotate_eq_ofNat (hn : n < 128) :
    x <<< n ||| x >>> (128 - n) = BitVec.ofNat 128 (x.toNat * 2 ^ n + x.toNat / 2 ^ (128 - n)) := by
  have disjoint : x <<< n &&& x >>> (128 - n) = 0#128 := by
    ext k hk
    simp only [BitVec.getElem_and, BitVec.getElem_shiftLeft, BitVec.getElem_ushiftRight, BitVec.getElem_zero]
    by_cases hkn : k < n
    · simp [hkn]
    · simp [BitVec.getLsbD_of_ge x (128 - n + k) (by omega)]
  rw [← BitVec.add_eq_or_of_and_eq_zero _ _ disjoint, shiftLeft_eq_ofNat, ushiftRight_eq_ofNat, BitVec.ofNat_add]

theorem intOp_rol :
    intOp .rol x y = BitVec.ofNat 128 (x.toNat * 2 ^ (y.toNat % 128) + x.toNat / 2 ^ (128 - y.toNat % 128)) :=
  rotate_eq_ofNat x _ (Nat.mod_lt _ (by decide))

theorem intOp_slt : intOp .slt x y = if x.toInt < y.toInt then 1 else 0 := boolQ_decide _

theorem intOp_sltu : intOp .sltu x y = if x.toNat < y.toNat then 1 else 0 := boolQ_decide _

theorem intOp_min : intOp .min x y = if x.toInt ≤ y.toInt then x else y := by
  simp only [intOp, BitVec.sle_iff_toInt_le]

theorem intOp_minu : intOp .minu x y = if x.toNat ≤ y.toNat then x else y := by
  simp only [intOp, BitVec.ule_iff_toNat_le]

/-- Of two equal operands the model keeps the second and the rule the first: under an injective key they are the same. -/
theorem ite_le_swap {κ : Type} [LinearOrder κ] {key : Quad → κ} (hkey : key.Injective) :
    (if key x ≤ key y then y else x) = if key y ≤ key x then x else y := by
  rcases lt_trichotomy (key x) (key y) with h | h | h
  · rw [if_pos h.le, if_neg h.not_ge]
  · rw [hkey h]
  · rw [if_neg h.not_ge, if_pos h.le]

theorem intOp_max : intOp .max x y = if y.toInt ≤ x.toInt then x else y := by
  simp only [intOp, BitVec.sle_iff_toInt_le]
  exact ite_le_swap x y fun _ _ => BitVec.eq_of_toInt_eq

theorem intOp_maxu : intOp .maxu x y = if y.toNat ≤ x.toNat then x else y := by
  simp only [intOp, BitVec.ule_iff_toNat_le]
  exact ite_le_swap x y fun _ _ => BitVec.eq_of_toNat_eq

theorem intOp_mul : intOp .mul x y = BitVec.ofNat 128 (x.toNat * y.toNat) := by
  simp [intOp, BitVec.ofNat_mul]

theorem toInt_eq_zero_iff : x.toInt = 0 ↔ x = 0 := by
  rw [← BitVec.toInt_inj, BitVec.ofNat_eq_ofNat, BitVec.toInt_zero]

theorem toNat_eq_zero_iff : x.toNat = 0 ↔ x = 0 := by
  rw [← BitVec.toNat_inj, BitVec.ofNat_eq_ofNat, BitVec.toNat_zero]

theorem intOp_div : intOp .div x y =
    if y.toInt = 0 then BitVec.ofNat 128 (2 ^ 128 - 1) else BitVec.ofInt 128 (x.toInt.tdiv y.toInt) := by
  simp only [intOp, toInt_eq_zero_iff]
  rfl

theorem intOp_divu : intOp .divu x y =
    if y.toNat = 0 then BitVec.ofNat 128 (2 ^ 128 - 1) else BitVec.ofNat 128 (x.toNat / y.toNat) := by
  have quotient : x / y = BitVec.ofNat 128 (x.toNat / y.toNat) := by
    rw [← BitVec.toNat_udiv, BitVec.ofNat_toNat, BitVec.setWidth_eq]
  simp only [intOp, toNat_eq_zero_iff, quotient]
  rfl

theorem intOp_rem : intOp .rem x y =
    if y.toInt = 0 then x else BitVec.ofInt 128 (x.toInt - x.toInt.tdiv y.toInt * y.toInt) := by
  simp only [intOp, toInt_eq_zero_iff]

theorem intOp_remu : intOp .remu x y =
    if y.toNat = 0 then x else BitVec.ofNat 128 (x.toNat - x.toNat / y.toNat * y.toNat) := by
  have remainder : x % y = BitVec.ofNat 128 (x.toNat - x.toNat / y.toNat * y.toNat) := by
    rw [Nat.mul_comm, ← Nat.mod_eq_sub_mul_div, ← BitVec.toNat_umod, BitVec.ofNat_toNat, BitVec.setWidth_eq]
  simp only [intOp, toNat_eq_zero_iff, remainder]

/-! The functions of one source (R84). -/

theorem clzQ_eq_size : clzQ x = BitVec.ofNat 128 (128 - x.toNat.size) := by
  by_cases hx : x = 0
  · simp [clzQ, hx]
  · have hpos : x.toNat ≠ 0 := mt (toNat_eq_zero_iff x).mp hx
    have hsize : x.toNat.size = x.toNat.log2 + 1 :=
      le_antisymm (Nat.size_le.2 Nat.lt_log2_self) (Nat.lt_size.2 (Nat.log2_self_le hpos))
    rw [clzQ, if_neg hx, hsize, Nat.add_comm, Nat.sub_add_eq]

theorem ctzFrom_zero : ctzFrom n 0 = 128 := by
  induction n with
  | zero => rfl
  | succ n ih => rw [ctzFrom, ih, if_neg (by simp)]

/-- The scan finds the lowest set bit if it starts at or below it. -/
theorem ctzFrom_of_lowest {x : Quad} {k : Nat} (hk : x.getLsbD k = true) (hlow : ∀ m < k, x.getLsbD m = false)
    (hn : n ≤ 128) (hstart : 128 - n ≤ k) : ctzFrom n x = k := by
  have hlt : k < 128 := BitVec.lt_of_getLsbD hk
  induction n with
  | zero => omega
  | succ n ih =>
    rcases (show 127 - n ≤ k by omega).eq_or_lt with h | h
    · rw [ctzFrom, h, if_pos hk]
    · rw [ctzFrom, hlow _ h, if_neg Bool.false_ne_true, ih (by omega) (by omega)]

theorem ctzQ_of_lowest {x : Quad} {k : Nat} (hk : x.getLsbD k = true) (hlow : ∀ m < k, x.getLsbD m = false) :
    ctzQ x = BitVec.ofNat 128 k :=
  congrArg _ (ctzFrom_of_lowest 128 hk hlow le_rfl (by omega))

theorem ctzQ_zero : ctzQ 0 = 128 := by
  rw [ctzQ, ctzFrom_zero]
  rfl

theorem popQ_eq_length_filter : popQ x = BitVec.ofNat 128 ((List.range 128).filter fun k => x.getLsbD k).length :=
  congrArg _ List.countP_eq_length_filter

theorem sextQ_eq_signExtend : sextQ x n = (x.setWidth n).signExtend 128 := by
  rw [sextQ, BitVec.signExtend, BitVec.toInt_eq_toNat_cond, BitVec.toNat_setWidth, sextNat]
  congr 1
  simp only [← not_lt, ite_not]
  push_cast
  rfl

theorem zextQ_eq_setWidth : zextQ x n = (x.setWidth n).setWidth 128 := by
  rw [← BitVec.ofNat_toNat, BitVec.toNat_setWidth, zextQ]

/-- A width code has as many bits as R64 says. -/
theorem widthBits_of_mem {n : Nat} {wd : VTy} (h : (wd, n) ∈ [(VTy.b, 8), (VTy.h, 16), (VTy.w, 32), (VTy.d, 64)]) :
    widthBits wd = n := by
  simp only [List.mem_cons, Prod.mk.injEq, List.not_mem_nil, or_false] at h
  obtain ⟨rfl, rfl⟩ | ⟨rfl, rfl⟩ | ⟨rfl, rfl⟩ | ⟨rfl, rfl⟩ := h <;> rfl

/-! int_op of the immediate forms, and lhi (R85, R86). -/

theorem intOp_add_immS (m : BitVec 16) : intOp .add x (immS m) = BitVec.ofInt 128 (x.toInt + m.toInt) := by
  rw [BitVec.ofInt_add, BitVec.ofInt_toInt]
  rfl

theorem intOp_slt_immS (m : BitVec 16) : intOp .slt x (immS m) = if x.toInt < m.toInt then 1 else 0 := by
  rw [intOp_slt, immS, BitVec.toInt_signExtend_of_le (by decide)]

theorem immSh_toNat (sh : BitVec 7) : (immSh sh).toNat % 128 = sh.toNat := by
  rw [immSh, BitVec.toNat_setWidth]
  omega

theorem intOp_sll_immSh (sh : BitVec 7) : intOp .sll x (immSh sh) = BitVec.ofNat 128 (x.toNat * 2 ^ sh.toNat) := by
  rw [intOp_sll, immSh_toNat]

theorem intOp_srl_immSh (sh : BitVec 7) : intOp .srl x (immSh sh) = BitVec.ofNat 128 (x.toNat / 2 ^ sh.toNat) := by
  rw [intOp_srl, immSh_toNat]

theorem intOp_sra_immSh (sh : BitVec 7) : intOp .sra x (immSh sh) = BitVec.ofInt 128 (x.toInt / 2 ^ sh.toNat) := by
  rw [intOp_sra, immSh_toNat]

theorem lhiQ_eq_ofInt (m : BitVec 21) : lhiQ m = BitVec.ofInt 128 (m.toInt * 2 ^ 16) := by
  rw [lhiQ, BitVec.shiftLeft_eq_mul_twoPow, BitVec.ofInt_mul]
  rfl

end

/-- Settles O16, row by row: each form writes its int_op, and int_op is what its row of R84 says. The bitwise functions, mulh
and mulhu are the model's definition as it stands. -/
theorem integerResults : Obligations.IntegerResults := by
  refine ⟨
    fun d a b => ⟨
      writes_plain (fun _ => rfl) fun _ => intOp_add ..,
      writes_plain (fun _ => rfl) fun _ => intOp_sub ..,
      writes_plain (fun _ => rfl) fun _ => rfl,
      writes_plain (fun _ => rfl) fun _ => rfl,
      writes_plain (fun _ => rfl) fun _ => rfl,
      writes_plain (fun _ => rfl) fun _ => rfl,
      writes_plain (fun _ => rfl) fun _ => intOp_sll ..,
      writes_plain (fun _ => rfl) fun _ => intOp_srl ..,
      writes_plain (fun _ => rfl) fun _ => intOp_sra ..,
      writes_plain (fun _ => rfl) fun _ => intOp_rol ..,
      writes_plain (fun _ => rfl) fun _ => intOp_slt ..,
      writes_plain (fun _ => rfl) fun _ => intOp_sltu ..,
      writes_plain (fun _ => rfl) fun _ => intOp_min ..,
      writes_plain (fun _ => rfl) fun _ => intOp_max ..,
      writes_plain (fun _ => rfl) fun _ => intOp_minu ..,
      writes_plain (fun _ => rfl) fun _ => intOp_maxu ..,
      writes_plain (fun _ => rfl) fun _ => intOp_mul ..,
      writes_plain (fun _ => rfl) fun _ => rfl,
      writes_plain (fun _ => rfl) fun _ => rfl,
      writes_plain (fun _ => rfl) fun _ => intOp_div ..,
      writes_plain (fun _ => rfl) fun _ => intOp_divu ..,
      writes_plain (fun _ => rfl) fun _ => intOp_rem ..,
      writes_plain (fun _ => rfl) fun _ => intOp_remu ..,
      writes_plain (fun _ => rfl) fun _ => clzQ_eq_size _,
      ⟨ctzQ, writes_plain (fun _ => rfl) fun _ => rfl, ctzQ_zero, fun _ _ => ctzQ_of_lowest⟩,
      writes_plain (fun _ => rfl) fun _ => popQ_eq_length_filter _,
      fun wd n hn => ?_⟩,
    fun d a m sh => ⟨
      writes_plain (fun _ => rfl) fun _ => intOp_add_immS ..,
      writes_plain (fun _ => rfl) fun _ => rfl,
      writes_plain (fun _ => rfl) fun _ => rfl,
      writes_plain (fun _ => rfl) fun _ => rfl,
      writes_plain (fun _ => rfl) fun _ => intOp_slt_immS ..,
      writes_plain (fun _ => rfl) fun _ => intOp_sltu ..,
      writes_plain (fun _ => rfl) fun _ => intOp_sll_immSh ..,
      writes_plain (fun _ => rfl) fun _ => intOp_srl_immSh ..,
      writes_plain (fun _ => rfl) fun _ => intOp_sra_immSh ..⟩,
    fun d m => writes_plain (fun _ => rfl) fun _ => lhiQ_eq_ofInt m⟩
  obtain rfl := widthBits_of_mem hn
  exact ⟨writes_plain (fun _ => rfl) fun _ => sextQ_eq_signExtend ..,
    writes_plain (fun _ => rfl) fun _ => zextQ_eq_setWidth ..⟩

/-! ### Capability gets and cursors -/

section
variable (x : Quad)

theorem setWidth_capPerm : (capPerm x).setWidth 128 = BitVec.ofNat 128 (x.toNat / 2 ^ 112 % 2 ^ 12) := by
  rw [← BitVec.ofNat_toNat, capPerm, BitVec.extractLsb'_toNat, Nat.shiftRight_eq_div_pow]

theorem setWidth_capCur : (capCur x).setWidth 128 = BitVec.ofNat 128 (x.toNat % 2 ^ 64) := by
  rw [← BitVec.ofNat_toNat, capCur_toNat]

theorem capCur_eq_setWidth : capCur x = x.setWidth 64 := (BitVec.setWidth_eq_extractLsb' (by decide)).symm

/-- The cursor that cinc names (R90). -/
theorem capCur_add (y : Quad) : capCur x + y.setWidth 64 = BitVec.ofNat 64 (x.toNat + y.toNat) := by
  rw [BitVec.ofNat_add, BitVec.ofNat_toNat, BitVec.ofNat_toNat, capCur_eq_setWidth]

/-- The cursor that cinc with an immediate names (R90). -/
theorem capCur_add_signExtend (m : BitVec 16) :
    capCur x + m.signExtend 64 = BitVec.ofInt 64 (x.toNat + m.toInt) := by
  rw [BitVec.ofInt_add, BitVec.ofInt_natCast, BitVec.ofNat_toNat, capCur_eq_setWidth, BitVec.signExtend]

end

theorem boolQ_eq_ofNat (t : Bool) : boolQ t = BitVec.ofNat 128 (if t then 1 else 0) := by
  cases t with
  | false => rfl
  | true => rfl

section
variable (c : CReg) (cur : DWord)

/-- Stated between functions, so that the kernel compares no bounds. -/
theorem representable_eq : representable = fun c cur => decodeBounds (withCur c cur) == decodeBounds c := rfl

/-- A moved cursor keeps the fields above it and clears bits [127:124] (R87, R90). -/
theorem moveCursor_data :
    (moveCursor c cur).data = BitVec.ofNat 128 (c.data.toNat % 2 ^ 124 / 2 ^ 64 * 2 ^ 64 + cur.toNat) := by
  have hcur : cur.toNat < 2 ^ 64 := cur.isLt
  simp only [moveCursor, clearTop, withCur_toNat]
  congr 1
  omega

theorem moveCursor_tag_iff : (moveCursor c cur).tag = true ↔
    c.tag = true ∧ decodeBounds (withCur c.data cur) = decodeBounds c.data := by
  rw [moveCursor, Bool.and_eq_true, representable_eq, beq_iff_eq]

/-- The one fault of a cursor move (R90). -/
theorem moveOf_sealed (ht : c.tag = true) (hs : c.data.getLsbD 119 = true) :
    moveOf c cur = .error { code := 0x06, info := c.data.toNat % 2 ^ 64 } := by
  rw [moveOf, ht, sealed, hs, capFlt, capCur_toNat]
  rfl

theorem moveOf_movable (h : ¬(c.tag = true ∧ c.data.getLsbD 119 = true)) :
    moveOf c cur = .ok (moveCursor c cur) := by
  rw [moveOf, sealed, if_neg (by rwa [Bool.and_eq_true])]

end

section
variable {i : Instr} {d : RegNo} {f : Cx → Chk CReg} {s : State} {cx : Cx}

/-- A CAP form whose checks pass writes its result after one turn (R88). -/
theorem capForm_completes (he : exec i s = capForm i d f s) (hr : Ready i s cx) {v : CReg} (hv : f cx = .ok v) :
    Completes i cx s (s.result cx d 1 v) .seq :=
  completes_of he hr rfl (by rw [hv])

/-- A CAP form whose check fails raises that fault (R88). -/
theorem capForm_raises (he : exec i s = capForm i d f s) (hr : Ready i s cx) {e : Flt} (hv : f cx = .error e) :
    Raises i cx s e :=
  raises_of he hr rfl (by rw [hv])

/-- What a form that moves the cursor of `c` to `cur` does (R90). -/
theorem cursorForm_outcome {c : CReg} {cur : DWord} (he : exec i s = capForm i d f s) (hf : f cx = moveOf c cur)
    (hr : Ready i s cx) :
    (c.tag = true → c.data.getLsbD 119 = true → Raises i cx s { code := 0x06, info := c.data.toNat % 2 ^ 64 }) ∧
    (¬(c.tag = true ∧ c.data.getLsbD 119 = true) → ∃ tag,
      Completes i cx s
        (s.result cx d 1 ⟨BitVec.ofNat 128 (c.data.toNat % 2 ^ 124 / 2 ^ 64 * 2 ^ 64 + cur.toNat), tag⟩) .seq ∧
      (tag = true ↔ c.tag = true ∧ decodeBounds (withCur c.data cur) = decodeBounds c.data)) := by
  constructor
  · intro ht hs
    exact capForm_raises he hr (hf.trans (moveOf_sealed c cur ht hs))
  · intro hm
    refine ⟨(moveCursor c cur).tag, ?_, moveCursor_tag_iff c cur⟩
    rw [← moveCursor_data]
    exact capForm_completes he hr (hf.trans (moveOf_movable c cur hm))

end

/-- Settles O17: the gets are one result each; cinc and cset are one cursor move with three new cursors. -/
theorem capabilityGetsAndCursors : Obligations.CapabilityGetsAndCursors := by
  refine ⟨fun d a => ⟨?_, ?_, ?_, ?_, ?_⟩, fun d a b m s cx => ⟨?_, ?_, ?_⟩⟩
  · exact writes_plain (fun _ => rfl) fun _ => rfl
  · exact writes_plain (fun _ => rfl) fun _ => rfl
  · exact writes_plain (fun _ => rfl) fun _ => setWidth_capPerm _
  · exact writes_plain (fun _ => rfl) fun _ => boolQ_eq_ofNat _
  · exact writes_plain (fun _ => rfl) fun _ => setWidth_capCur _
  · exact cursorForm_outcome rfl (congrArg _ (capCur_add ..))
  · exact cursorForm_outcome rfl (congrArg _ (BitVec.ofNat_toNat ..).symm)
  · exact cursorForm_outcome rfl (congrArg _ (capCur_add_signExtend ..))

end Sys2Proof.Machine

/-! ### Forms that issue in tiles only

What a tile form answers wherever its checks before its own pass, once for all of them (R70, R180). -/

namespace Sys2Proof.Machine

section
variable {i : Instr} {f : TileCx → Cx → State → Chk State} {s : State} {cx : Cx} {tc : TileCx}

theorem tileForm_completes (he : exec i s = tileForm i f s) (hr : Ready i s cx) (ht : cx.tile = .ok tc) {t : State}
    (hf : f tc cx s = .ok t) : Completes i cx s t .seq :=
  completes_of he hr rfl (by simp only [ht, hf])

theorem tileForm_raises (he : exec i s = tileForm i f s) (hr : Ready i s cx) (ht : cx.tile = .ok tc) {e : Flt}
    (hf : f tc cx s = .error e) : Raises i cx s e :=
  raises_of he hr rfl (by simp only [ht, hf])

/-- A tile form that is one test of `c`: its fault is exact, so a failed test changes nothing else (R269). -/
theorem testForm_outcome {c : Prop} [Decidable c] {t : State} {e : Flt} (he : exec i s = tileForm i f s)
    (hr : Ready i s cx) (ht : cx.tile = .ok tc) (hf : f tc cx s = if c then .ok t else .error e) :
    (c → Completes i cx s t .seq) ∧ (¬c → Raises i cx s e) :=
  ⟨fun hc => tileForm_completes he hr ht (hf.trans (if_pos hc)),
    fun hc => tileForm_raises he hr ht (hf.trans (if_neg hc))⟩

end

/-- A tile form whose one effect falls due later. -/
theorem tileForm_defers {i : Instr} {c : Nat} {e e' : TileCx → Cx → Eff}
    (he : ∀ s, exec i s = tileForm i (fun tc cx s => .ok (s.due cx (cx.n + c) (e tc cx))) s)
    (hv : ∀ tc cx, e tc cx = e' tc cx) : Defers i c e' := by
  intro s cx tc hr ht
  rw [← hv]
  exact tileForm_completes (he s) hr ht (by rfl)

/-! ### Checks and semaphores -/

/-- The unanswered puts counted are those listed (R185). -/
theorem openPuts_eq_length_filter (tl : Tile) (ss : Nat) :
    tl.openPuts ss = (tl.journal.toList.filter fun e => e.v && e.op == 0 && e.ss.toNat == ss).length :=
  List.countP_eq_length_filter

/-- What one pending effect takes from semaphore `k` in cycle `n` (R188). -/
def Pend.semShare (k : Fin 16) (n : Nat) (p : Pend) : BitVec 32 :=
  match p.eff with
  | .semSub _ _ k' v => if k' = k ∧ p.due = n then v else 0
  | _ => 0

/-- The running total that an execute core's test subtracts is the sum of the shares (R188). -/
theorem semTaken_eq_sum (tl : Tile) (k : Fin 16) (n : Nat) :
    tl.semTaken k n = (tl.pend.map (Pend.semShare k n)).sum := by
  rw [List.sum_eq_foldl, List.foldl_map, Tile.semTaken]
  congr
  funext acc p
  rw [Pend.semShare]
  cases p.eff with
  | semSub _ _ j v =>
    by_cases h : j = k ∧ p.due = n
    · simp only [if_pos h]
    · simp only [if_neg h, add_zero]
  | _ => exact (BitVec.add_zero acc).symm

/-- What is left of semaphore `k` for the test of a core in cycle `n`: only an execute core's test comes after another's
of the same cycle (R188). -/
def TileCx.semLeft (tc : TileCx) (k : Fin 16) (n : Nat) : BitVec 32 :=
  tc.tile.sem[k] - if tc.k = .execute then tc.tile.semTaken k n else 0

theorem semLeft_eq (tc : TileCx) (k : Fin 16) (n : Nat) : tc.semLeft k n =
    tc.tile.sem[k] - if tc.k = .access then 0 else (tc.tile.pend.map (Pend.semShare k n)).sum := by
  rw [TileCx.semLeft, semTaken_eq_sum]
  cases tc.k with
  | access => rfl
  | execute => rfl

/-- sem.chk is one test, of its amount against what is left (R188). -/
theorem semChk_outcome {a : RegNo} {k : BitVec 4} {s : State} {cx : Cx} {tc : TileCx} (hr : Ready (.semChk a k) s cx)
    (ht : cx.tile = .ok tc) :
    (((cx.data a).setWidth 32).toNat ≤ (tc.semLeft k.toFin cx.n).toNat →
      Completes (.semChk a k) cx s (s.due cx cx.n (.semSub tc.k tc.j k.toFin ((cx.data a).setWidth 32))) .seq) ∧
    (¬((cx.data a).setWidth 32).toNat ≤ (tc.semLeft k.toFin cx.n).toNat →
      Raises (.semChk a k) cx s { code := 0x11, reason := 0x06, info := ((cx.data a).setWidth 32).toNat }) :=
  testForm_outcome rfl hr ht (by rfl)

/-- Settles O37: seal, the three checks and sem.chk are one test each, and sem.up is one deferred effect. -/
theorem checksAndSemaphores : Obligations.ChecksAndSemaphores := by
  refine ⟨fun s cx tc hr ht => ?_, fun a k off ch s cx tc ht => ⟨?_, ?_, ?_⟩, fun a k => ⟨?_, ?_⟩⟩
  · rw [← openPuts_eq_length_filter]
    exact (testForm_outcome rfl hr ht (by rfl)).symm
  · intro hr
    exact testForm_outcome rfl hr ht (by rfl)
  · intro o ho hr
    have inBounds : checkLocal (cx.read a) (sOff off 8) 8 (pLD ||| pFE) 0 0x8000 = .ok o := by
      rw [sOff, mul_comm]
      exact ho
    refine testForm_outcome (Eq.refl (execChkFe a off s)) hr ht ?_
    rw [inBounds]
    rfl
  · intro hr
    rw [← BitVec.toNat_setWidth]
    exact testForm_outcome rfl hr ht (by rfl)
  · exact tileForm_defers (fun _ => rfl) fun _ _ => rfl
  · rintro s cx tc hr ht _ rfl
    obtain ⟨passes, fails⟩ := semChk_outcome hr ht
    rw [semLeft_eq] at passes fails
    exact ⟨passes, fun h => fails (Nat.not_le.2 h)⟩

/-! ### Times and marks -/

/-- A form that writes one result, with its value in the context of the issue. -/
theorem issueResult_completes {i : Instr} {d : RegNo} {lat : Nat} {f : Cx → CReg} {s : State} {cx : Cx} {v : CReg}
    (he : exec i s = issueResult i d lat f s) (hr : Ready i s cx) (hv : f cx = v) :
    Completes i cx s (s.result cx d lat v) .seq := by
  rw [Completes, he, issueResult_writes hr.1 hr.2, hv]

/-- The bytes 14 and 15 of a mark: the tag, the core and the slot (R193). -/
theorem markWho_eq (g : Nat) (k : Side) (j : Nat) :
    g + ((if k = .execute then 1 else 0) + 2 * j) * 2 ^ 11 = g + (if k = .execute then 2 ^ 11 else 0) + j * 2 ^ 12 := by
  split <;> omega

/-- The ring of marks drops its oldest and keeps the new one last (R193). -/
theorem pushMark_toList (v : Vector Quad 4) (q : Quad) : (pushMark v q).toList = v.toList.drop 1 ++ [q] := by
  obtain ⟨a, b, c, d, hv⟩ := List.length_eq_four.1 v.length_toList
  rw [pushMark, hv]
  rfl

/-- Settles O39: rmt is one result, the model's row for each selector in each kind of context; mark is one effect of the
issue cycle. -/
theorem timesAndMarks : Obligations.TimesAndMarks := by
  refine ⟨fun d s cx => ?_, fun a g => ?_, pushMark_toList⟩
  · obtain ⟨wh, slot, pc, word, frame, n⟩ := cx
    constructor
    · rintro t k j tl q ⟨⟩
      refine ⟨?_, ?_, ?_, ?_, ?_⟩ <;> exact fun hr => issueResult_completes rfl hr rfl
    · rintro die h hb ⟨⟩
      refine ⟨?_, ?_, ?_, ?_, ?_⟩ <;> exact fun hr => issueResult_completes rfl hr rfl
  · refine tileForm_defers (fun _ => rfl) fun tc cx => ?_
    rw [markWho_eq]

end Sys2Proof.Machine

/-! ### What decodes, encodes -/

namespace Sys2Proof.Machine

/-- What a part of the decoder accepts of word `n` has `n` as its encoding. -/
def Encodes (n : Nat) (r : Except Reject Instr) : Prop := ∀ i, r = .ok i → encodeNat i = some n

section
variable {n : Nat}

@[simp] theorem encodes_error (e : Reject) : Encodes n (.error e) := nofun

@[simp] theorem encodes_accept {i : Instr} : Encodes n (accept i) ↔ encodeNat i = some n := by
  simp [Encodes, accept]

@[simp] theorem encodes_zero {rs : List (Nat × Nat)} {r : Except Reject Instr} :
    Encodes n (zero n rs r) ↔ ((∀ p ∈ rs, bits n p.1 p.2 = 0) → Encodes n r) := by
  unfold zero
  split
  · next hz =>
    rw [List.all_eq_true] at hz
    exact ⟨fun h _ => h, fun h => h fun p hp => beq_iff_eq.1 (hz p hp)⟩
  · next hz => exact ⟨fun _ h => absurd (List.all_eq_true.2 fun p hp => beq_iff_eq.2 (h p hp)) hz, fun _ => encodes_error _⟩

@[simp] theorem encodes_selector {c : Bool} {r : Except Reject Instr} :
    Encodes n (selector c r) ↔ (c = true → Encodes n r) := by
  cases c <;> simp [selector]

/-- A type code of two values is that of one of the two types, or it is refused (R66). -/
@[simp] theorem encodes_fty {k : FTy → Except Reject Instr} :
    Encodes n (fty n k) ↔ ∀ ty : FTy, bits n 5 4 = ty.code → Encodes n (k ty) := by
  have hall : (∀ ty : FTy, bits n 5 4 = ty.code → Encodes n (k ty)) ↔
      (bits n 5 4 = 0 → Encodes n (k .f32)) ∧ (bits n 5 4 = 1 → Encodes n (k .bf16)) :=
    ⟨fun h => ⟨h .f32, h .bf16⟩, fun h ty => by cases ty with | f32 => exact h.1 | bf16 => exact h.2⟩
  rw [hall, fty]
  split <;> simp_all

/-- So is the type of an atomic (R69). -/
@[simp] theorem encodes_aty {k : ATy → Except Reject Instr} :
    Encodes n (aty n k) ↔ ∀ ty : ATy, bits n 5 4 = ty.code → Encodes n (k ty) := by
  have hall : (∀ ty : ATy, bits n 5 4 = ty.code → Encodes n (k ty)) ↔
      (bits n 5 4 = 0 → Encodes n (k .w)) ∧ (bits n 5 4 = 1 → Encodes n (k .d)) :=
    ⟨fun h => ⟨h .w, h .d⟩, fun h ty => by cases ty with | w => exact h.1 | d => exact h.2⟩
  rw [hall, aty]
  split <;> simp_all

@[simp] theorem encodes_width {k : VTy → Except Reject Instr} :
    Encodes n (width n k) ↔ (bits n 15 13 = 0 → Encodes n (k (vtyOf (bits n 12 11)))) := by
  by_cases hz : bits n 15 13 = 0
  · simp [width, hz]
  · simp [width, hz]

/-! The fields of a word as reads of bits. -/

theorem vtyOf_code {v : Nat} (h : v < 4) : (vtyOf v).code = v := by
  interval_cases v <;> rfl
/-- The operands that the decoder reads, as numbers. -/
theorem operand_bits : (rD n).val = bits n 25 21 ∧ (rA n).val = bits n 20 16 ∧ (rB n).val = bits n 15 11 ∧ (rE n).val = bits n 10 6 ∧
    (∀ lo, (Sys2Proof.fin4 n lo).val = bits n (lo + 1) lo) ∧ (∀ w lo, (bv (w + 1) n lo).toNat = bits n (lo + w) lo) ∧
    (vty n).code = bits n 5 4 ∧ (vtyOf (bits n 12 11)).code = bits n 12 11 := by
  refine ⟨rfl, rfl, rfl, rfl, fun lo => ?_, fun w lo => ?_, vtyOf_code (Nat.mod_lt _ (by decide)), vtyOf_code (Nat.mod_lt _ (by decide))⟩
  · simp [Sys2Proof.fin4, bits, show lo + 1 + 1 - lo = 2 by omega]
  · simp [bv, bits, show lo + w + 1 - lo = w + 1 by omega]
theorem branchOff_toNat : (branchOff n).toNat = bits n 25 21 * 2 ^ 11 + bits n 10 0 := by
  simp only [branchOff, bits, BitVec.toNat_ofNat, Nat.reducePow, Nat.reduceAdd, Nat.reduceSub, Nat.div_one]
  omega

/-- The part of a word from bit `k` on. Every field is a difference of two such parts, so that a word's fields add up to the
word when their places meet. -/
def upper (n k : Nat) : Int := (n / 2 ^ k : Nat)

theorem upper_eq_add {hi lo : Nat} (h : lo ≤ hi) :
    upper n lo = 2 ^ (hi + 1 - lo) * upper n (hi + 1) + bits n hi lo := by
  have hd : n / 2 ^ lo / 2 ^ (hi + 1 - lo) = n / 2 ^ (hi + 1) := by
    rw [Nat.div_div_eq_div_mul, ← pow_add, show lo + (hi + 1 - lo) = hi + 1 by omega]
  have := Nat.div_add_mod (n / 2 ^ lo) (2 ^ (hi + 1 - lo))
  rw [hd] at this
  rw [upper, upper, bits]
  exact_mod_cast this.symm

theorem bits_eq_upper {hi lo : Nat} (h : lo ≤ hi) :
    (bits n hi lo : Int) = upper n lo - 2 ^ (hi + 1 - lo) * upper n (hi + 1) := by
  rw [upper_eq_add h, add_sub_cancel_left]

theorem bits_eq_iff {hi lo v : Nat} (h : lo ≤ hi) :
    bits n hi lo = v ↔ upper n lo = 2 ^ (hi + 1 - lo) * upper n (hi + 1) + v := by
  rw [upper_eq_add h, Int.add_right_inj, Nat.cast_inj]

theorem eq_word_iff {m : Nat} : m = n ↔ (m : Int) = upper n 0 := by simp [upper]
theorem upper_top (h : n < 2 ^ 32) : upper n 32 = 0 := by rw [upper, Nat.div_eq_of_lt h, Nat.cast_zero]

end

/-! Row by row: the fields of a word and the bits that must be 0 make the word up. -/

section
variable {n : Nat} (hn : upper n 32 = 0)
include hn

theorem decodeInt_encodes (hop : bits n 31 26 = 0x01) : Encodes n (decodeInt n) := by
  unfold decodeInt
  split <;> rename_i hf
  all_goals try exact encodes_error _ -- an unassigned function
  all_goals
    simp -implicitDefEqProofs [encodeNat, word, operand_bits, bits_eq_iff] at hop hf ⊢
    intros
    rw [eq_word_iff]
    simp -implicitDefEqProofs [bits_eq_upper]
    omega

end

/-! The families of the opcode map (R62). -/

theorem decodeFields_int {n : Nat} (h : bits n 31 26 = 0x01) : decodeFields n = decodeInt n := by simp only [decodeFields, h]

end Sys2Proof.Machine

/-! ### Words are issued, events answer

Every instruction word's meaning is an issue with a body of its own, every event answers, and neither loses the memory's
canonical form. What is true of every issue is then true of every word. -/

namespace Sys2Proof.Machine

/-- The meaning of a word is an issue: the checks that stand before every word, and a body of its own (R70). -/
def Issues (i : Instr) (m : State → Out) : Prop := ∃ pre body, ∀ s, m s = issue i pre body s

section
variable {i : Instr}

theorem Issues.of {m m' : State → Out} (hi : Issues i m') (h : ∀ s, m s = m' s) : Issues i m := by
  obtain ⟨pre, body, hb⟩ := hi
  exact ⟨pre, body, fun s => (h s).trans (hb s)⟩

theorem issueResult_issues {d : RegNo} {lat : Nat} {f : Cx → CReg} :
    Issues i (issueResult i d lat f) := ⟨_, _, fun _ => rfl⟩
theorem capForm_issues {d : RegNo} {f : Cx → Chk CReg} :
    Issues i (capForm i d f) := ⟨_, _, fun _ => rfl⟩
theorem branch_issues {c : BrCond} {a b : RegNo} {off : BitVec 16} :
    Issues i (branch i c a b off) := ⟨_, _, fun _ => rfl⟩
theorem memForm_issues {tile : TileCx → Cx → State → Chk State} {hub : Nat → Nat → Cx → State → Chk (State × Next)} :
    Issues i (memForm i tile hub) := ⟨_, _, fun _ => rfl⟩
theorem tileForm_issues {f : TileCx → Cx → State → Chk State} :
    Issues i (tileForm i f) := ⟨_, _, fun _ => rfl⟩
theorem roundForm_issues {d : RegNo} {lat : Nat} {f : Cx → RMode → Quad × FlagSet} :
    Issues i (roundForm i d lat f) := ⟨_, _, fun _ => rfl⟩
theorem vecForm_issues {d : RegNo} {lat : Nat} {f : Cx → Quad × FlagSet} :
    Issues i (vecForm i d lat f) := ⟨_, _, fun _ => rfl⟩
theorem cvtForm_issues {d : RegNo} {useFc : Bool} {parts : Fmt → Nat} {rmx : BitVec 3} {sx : BitVec 2} {pt : BitVec 3} {f : Cx → Fmt → CvtMode → Quad × FlagSet} :
    Issues i (cvtForm i d useFc parts rmx sx pt f) := ⟨_, _, fun _ => rfl⟩
theorem atomic_issues {f : Nat} {wide : Bool} {d a b : RegNo} {e : Option RegNo} :
    Issues i (atomic i f wide d a b e) := ⟨_, _, fun _ => rfl⟩
theorem copyForm_issues {form : EngForm} {d a b : RegNo} {ch : Fin 4} :
    Issues i (copyForm i form d a b ch) := ⟨_, _, fun _ => rfl⟩
theorem hubForm_issues {f : Nat → Nat → Cx → State → Chk (State × Next)} :
    Issues i (hubForm i f) := ⟨_, _, fun _ => rfl⟩
theorem loadForm_issues {f : LdForm} {d a : RegNo} {off : BitVec 12} : Issues i (loadForm i f d a off) := memForm_issues
theorem storeForm_issues {f : StForm} {d a : RegNo} {off : BitVec 12} : Issues i (storeForm i f d a off) := memForm_issues
theorem matForm_issues {f : Fin 4 → Cx → Eff} : Issues i (matForm i f) := tileForm_issues

end

/-- Every word is issued, and a word that does not decode as well. -/
theorem exec_issues {i : Instr} (h : isEvent i = false) : Issues i (exec i) := by
  cases i with
  | add | sub | and | or | xor | andn | sll | srl | sra | rol | slt | sltu | min | max | minu | maxu | mul | mulh | mulhu
  | div | divu | rem | remu | clz | ctz | pop | sext | zext | addi | andi | ori | xori | slti | sltui | slli | srli
  | srai | lhi | cgetBase | cgetLen | cgetPerm | cgetTag | cgetCur | vadd | vsub | vmul | vmin | vmax | vand | vor | vxor
  | vshl | vsra | vperm | vbcast | amaxb | rmt | cpyWp => exact issueResult_issues
  | cbnd | cperm | cinc | cset | cseal | cunseal | cincImm => exact capForm_issues
  | beq | bne | blt | bge | bltu | bgeu => exact branch_issues
  | ldFe | ldLq | stSq | mzRd | mzRaw | mzAdd | xmitM | catchOne | catchM | put | sealOp | trn | chkLq | chkFe | chkWp
  | semChk | resync | start | gput | gget | gtbl | crsOpen | crsStep | crsSend | crsChk | crsRel | crsClose => exact tileForm_issues
  | fadd | fsub | fmul | fma | fms | vsum | frcp | frsq | fsqrt | fex2 | flg2 | fsin | fcos => exact roundForm_issues
  | fmin | fmax | fabs | fneg | fcmpEq | fcmpLt | fcmpLe | fsel | vmaxr | vminr => exact vecForm_issues
  | cvtWide | cvtWideb | cvtPack | cvtPackb | cvtF2b | cvtB2f | cvtF2i | cvtI2f => exact cvtForm_issues
  | amoAdd | amoMax | amoMin | amoMaxu | amoMinu | amoAnd | amoOr | amoXor | amoSwap | amoFmax => exact atomic_issues (e := none)
  | amoCas => exact atomic_issues (e := some _)
  | cpy | cpyG | cpyS => exact copyForm_issues
  | tretResume | tretAbandon | tretForward | tretIsolate | tlbW | tlbInv => exact hubForm_issues
  | ldB | ldBu | ldH | ldHu | ldW | ldD | ldQ | ldC | ldbQ => exact loadForm_issues
  | stB | stH | stW | stD | stQ | stC | stFe | stbQ => exact storeForm_issues
  | mzClr => exact matForm_issues.of (m := execMzClr _) fun _ => rfl
  | mzAnc => exact matForm_issues.of (m := execMzAnc _ _) fun _ => rfl
  | mgeoSub => exact matForm_issues.of (m := execMgeoSub _ _) fun _ => rfl
  | msk => exact matForm_issues.of (m := execMsk _ _) fun _ => rfl
  | fence => exact memForm_issues.of (m := execFence _) fun _ => rfl
  | mzOvf => exact tileForm_issues.of (m := execMzOvf _ _ _) fun _ => rfl
  | mgeo => exact tileForm_issues.of (m := execMgeo _ _ _) fun _ => rfl
  | xmit => exact tileForm_issues.of (m := execXmit _) fun _ => rfl
  | semUp => exact tileForm_issues.of (m := execSemUp _ _) fun _ => rfl
  | mark => exact tileForm_issues.of (m := execMark _ _) fun _ => rfl
  | hbeat => exact tileForm_issues.of (m := execHbeat _) fun _ => rfl
  | loop => exact (⟨_, _, fun _ => rfl⟩ : Issues _ (execLoop _ _))
  | j => exact (⟨_, _, fun _ => rfl⟩ : Issues _ (execJ _))
  | jl => exact (⟨_, _, fun _ => rfl⟩ : Issues _ (execJl _))
  | nop => exact (⟨_, _, fun _ => rfl⟩ : Issues _ execNop)
  | jr => exact (⟨_, _, fun _ => rfl⟩ : Issues _ (execJr _))
  | hold => exact (⟨_, _, fun _ => rfl⟩ : Issues _ (execHold _))
  | scl => exact (⟨_, _, fun _ => rfl⟩ : Issues _ (execScl _ _ _ _))
  | rep => exact (⟨_, _, fun _ => rfl⟩ : Issues _ (execRep _ _ _ _ _ _))
  | mma => exact (⟨_, _, fun _ => rfl⟩ : Issues _ (execMma _ _ _ _ _ _ _))
  | trapTrap => exact (⟨_, _, fun _ => rfl⟩ : Issues _ (execTrapTrap _ _))
  | sysrd => exact (⟨_, _, fun _ => rfl⟩ : Issues _ (execSysrd _ _))
  | syswr => exact (⟨_, _, fun _ => rfl⟩ : Issues _ (execSyswr _ _))
  | ifence => exact (⟨_, _, fun _ => rfl⟩ : Issues _ execIfence)
  | halt => exact (⟨_, _, fun _ => rfl⟩ : Issues _ execHalt)
  | illegal => exact (⟨_, _, fun _ => rfl⟩ : Issues _ (execIllegal _))
  | stop => exact tileForm_issues.of (m := execStop) fun _ => rfl
  | _ => cases h

/-- A meaning answers a next state. -/
def Answers (o : Out) : Prop := ∃ t, o = .next t

theorem answers_next (t : State) : Answers (.next t) := ⟨t, rfl⟩

theorem commandEvent_answers (seq kind : Nat) (f : State → Record → State) (s : State) : Answers (commandEvent seq kind f s) := by
  unfold commandEvent
  split <;> exact answers_next _

theorem admitEvent_answers (seq kind : Nat) (s : State) : Answers (admitEvent seq kind s) := by
  unfold admitEvent
  (repeat' split) <;> exact answers_next _

theorem execHoldExpiry_answers (t : Coord) (k : Side) (slot : Fin 4) (s : State) : Answers (execHoldExpiry t k slot s) := by
  unfold execHoldExpiry
  (repeat' split) <;> exact answers_next _

theorem execMmaComplete_answers (t : Coord) (s : State) : Answers (execMmaComplete t s) := by
  unfold execMmaComplete
  (repeat' split) <;> exact answers_next _

theorem execImageTransferComplete_answers (t : Coord) (s : State) : Answers (execImageTransferComplete t s) := by
  unfold execImageTransferComplete
  (repeat' split) <;> exact answers_next _

theorem execCatchFlitTake_answers (t : Coord) (s : State) : Answers (execCatchFlitTake t s) := by
  unfold execCatchFlitTake
  (repeat' split) <;> exact answers_next _

theorem execPutPerform_answers (pid id : Nat) (s : State) : Answers (execPutPerform pid id s) := by
  unfold execPutPerform
  (repeat' split) <;> exact answers_next _

theorem execPutAnswer_answers (pid id : Nat) (s : State) : Answers (execPutAnswer pid id s) := by
  unfold execPutAnswer
  (repeat' split) <;> exact answers_next _

theorem execAmoPerform_answers (pid id : Nat) (s : State) : Answers (execAmoPerform pid id s) := by
  unfold execAmoPerform
  (repeat' split) <;> exact answers_next _

theorem execAmoAnswer_answers (pid id : Nat) (s : State) : Answers (execAmoAnswer pid id s) := by
  unfold execAmoAnswer
  (repeat' split) <;> exact answers_next _

theorem execChannelCommandStart_answers (o : Owner) (ch : Fin 4) (s : State) : Answers (execChannelCommandStart o ch s) := by
  unfold execChannelCommandStart
  (repeat' split) <;> exact answers_next _

theorem execEngineElementAtHome_answers (pid id : Nat) (s : State) : Answers (execEngineElementAtHome pid id s) := by
  unfold execEngineElementAtHome
  dsimp only
  (repeat' split) <;> exact answers_next _

theorem execEngineRefusalArrival_answers (pid id : Nat) (s : State) : Answers (execEngineRefusalArrival pid id s) := by
  unfold execEngineRefusalArrival
  (repeat' split) <;> exact answers_next _

theorem execDeadlineReplyArrival_answers (id : Nat) (reply : Reply) (s : State) : Answers (execDeadlineReplyArrival id reply s) := by
  unfold execDeadlineReplyArrival
  (repeat' split) <;> exact answers_next _

theorem execDeferredDeliveryWrite_answers (pid id : Nat) (s : State) : Answers (execDeferredDeliveryWrite pid id s) := by
  unfold execDeferredDeliveryWrite
  (repeat' split) <;> exact answers_next _

theorem execReductionCombinedArrival_answers (pid : Nat) (key : RedKey) (s : State) : Answers (execReductionCombinedArrival pid key s) := by
  unfold execReductionCombinedArrival
  dsimp only
  (repeat' split) <;> exact answers_next _

theorem execGgetWordArrival_answers (t : Coord) (key : RedKey) (s : State) : Answers (execGgetWordArrival t key s) := by
  unfold execGgetWordArrival
  dsimp only
  (repeat' split) <;> exact answers_next _

theorem execHeartbeat_answers (t : Coord) (k : Side) (s : State) : Answers (execHeartbeat t k s) := by
  unfold execHeartbeat
  dsimp only
  (repeat' split) <;> exact answers_next _

theorem execPendingEffectDue_answers (pid : Nat) (s : State) : Answers (execPendingEffectDue pid s) := by
  unfold execPendingEffectDue
  (repeat' split) <;> exact answers_next _

theorem execFlitHop_answers (pid id : Nat) (s : State) : Answers (execFlitHop pid id s) := by
  unfold execFlitHop
  dsimp only
  (repeat' split) <;> exact answers_next _

theorem execMissedSlot_answers (t : Coord) (entry : Nat) (s : State) : Answers (execMissedSlot t entry s) := by
  unfold execMissedSlot
  (repeat' split) <;> exact answers_next _

theorem execTurnstile_answers (pid : Nat) (s : State) : Answers (execTurnstile pid s) := by
  unfold execTurnstile
  (repeat' split) <;> exact answers_next _

theorem execBankAct_answers (pid entry : Nat) (s : State) : Answers (execBankAct pid entry s) := by
  unfold execBankAct
  (repeat' split) <;> exact answers_next _

theorem execBankRd_answers (pid entry : Nat) (s : State) : Answers (execBankRd pid entry s) := by
  unfold execBankRd
  dsimp only
  (repeat' split) <;> exact answers_next _

theorem execBankWr_answers (pid entry : Nat) (s : State) : Answers (execBankWr pid entry s) := by
  unfold execBankWr
  dsimp only
  (repeat' split) <;> exact answers_next _

theorem execBankPre_answers (pid entry : Nat) (s : State) : Answers (execBankPre pid entry s) := by
  unfold execBankPre
  (repeat' split) <;> exact answers_next _

theorem execHbmReadData_answers (pid id : Nat) (s : State) : Answers (execHbmReadData pid id s) := by
  unfold execHbmReadData
  (repeat' split) <;> exact answers_next _

theorem execLooseTileArrival_answers (a : Loose) (s : State) : Answers (execLooseTileArrival a s) := by
  unfold execLooseTileArrival
  (repeat' split) <;> exact answers_next _

theorem execHubAccessAnswer_answers (die hub : Nat) (ans : Reply) (s : State) : Answers (execHubAccessAnswer die hub ans s) := by
  unfold execHubAccessAnswer
  (repeat' split) <;> exact answers_next _

theorem execTrapMessage_answers (pid : Nat) (s : State) : Answers (execTrapMessage pid s) := by
  unfold execTrapMessage
  (repeat' split) <;> exact answers_next _

theorem execChainExhaustion_answers (ticket : Nat) (s : State) : Answers (execChainExhaustion ticket s) := by
  unfold execChainExhaustion
  (repeat' split) <;> exact answers_next _

theorem execRestart_answers (pid : Nat) (s : State) : Answers (execRestart pid s) := by
  unfold execRestart
  (repeat' split) <;> exact answers_next _

theorem execIntermissionFreeze_answers (pid : Nat) (s : State) : Answers (execIntermissionFreeze pid s) := by
  unfold execIntermissionFreeze
  (repeat' split) <;> exact answers_next _

theorem execWriteOutComplete_answers (pid : Nat) (s : State) : Answers (execWriteOutComplete pid s) := by
  unfold execWriteOutComplete
  (repeat' split) <;> exact answers_next _

theorem execRestoredPartitionStart_answers (pid : Nat) (s : State) : Answers (execRestoredPartitionStart pid s) := by
  unfold execRestoredPartitionStart
  (repeat' split) <;> exact answers_next _

theorem execTroupeIntermissionFreeze_answers (pid : Nat) (s : State) : Answers (execTroupeIntermissionFreeze pid s) := by
  unfold execTroupeIntermissionFreeze
  (repeat' split) <;> exact answers_next _

theorem execTroupeRestart_answers (pid : Nat) (s : State) : Answers (execTroupeRestart pid s) := by
  unfold execTroupeRestart
  (repeat' split) <;> exact answers_next _

theorem execImageStaged_answers (seq : Nat) (s : State) : Answers (execImageStaged seq s) := by
  unfold execImageStaged
  (repeat' split) <;> exact answers_next _

theorem execPartitionStart_answers (pid : Nat) (s : State) : Answers (execPartitionStart pid s) := by
  unfold execPartitionStart
  (repeat' split) <;> exact answers_next _

theorem execSpareSwapExecute_answers (t : Coord) (s : State) : Answers (execSpareSwapExecute t s) := by
  unfold execSpareSwapExecute
  (repeat' split) <;> exact answers_next _

theorem execLogSignatureDone_answers (lseq : Nat) (s : State) : Answers (execLogSignatureDone lseq s) := by
  unfold execLogSignatureDone
  (repeat' split) <;> exact answers_next _

theorem execTmsgRead_answers (die hub : Nat) (d : RegNo) (s : State) : Answers (execTmsgRead die hub d s) := by
  unfold execTmsgRead
  (repeat' split) <;> exact answers_next _

theorem execXmsgRead_answers (die hub : Nat) (d : RegNo) (s : State) : Answers (execXmsgRead die hub d s) := by
  unfold execXmsgRead
  (repeat' split) <;> exact answers_next _

theorem execDrainBegin_answers (g : Nat) (s : State) : Answers (execDrainBegin g s) := by
  unfold execDrainBegin
  (repeat' split) <;> exact answers_next _

theorem execDrainEnd_answers (g : Nat) (s : State) : Answers (execDrainEnd g s) := by
  unfold execDrainEnd
  (repeat' split) <;> exact answers_next _

theorem execWidthReduction_answers (dir : PortDir) (s : State) : Answers (execWidthReduction dir s) := by
  unfold execWidthReduction
  dsimp only
  (repeat' split) <;> exact answers_next _

theorem execLinkFlitSend_answers (port : Nat) (s : State) : Answers (execLinkFlitSend port s) := by
  unfold execLinkFlitSend
  dsimp only
  (repeat' split) <;> exact answers_next _

theorem execEdgeQuadRelease_answers (pid entry : Nat) (quad : SlotQuad) (s : State) : Answers (execEdgeQuadRelease pid entry quad s) := by
  unfold execEdgeQuadRelease
  (repeat' split) <;> exact answers_next _

theorem execTagVerify_answers (port ctr : Nat) (s : State) : Answers (execTagVerify port ctr s) := by
  unfold execTagVerify
  dsimp only
  (repeat' split) <;> exact answers_next _

theorem execRemapDone_answers (die num : Nat) (s : State) : Answers (execRemapDone die num s) := by
  unfold execRemapDone
  (repeat' split) <;> exact answers_next _

theorem execJtailWrite_answers (v : DWord) (s : State) : Answers (execJtailWrite v s) := by
  unfold execJtailWrite
  (repeat' split) <;> exact answers_next _

theorem execBootstatWrite_answers (v : DWord) (s : State) : Answers (execBootstatWrite v s) := by
  unfold execBootstatWrite
  (repeat' split) <;> exact answers_next _

theorem execFirmwareVerifyDone_answers (o : BootOutcome) (s : State) : Answers (execFirmwareVerifyDone o s) := by
  unfold execFirmwareVerifyDone
  dsimp only
  (repeat' split) <;> exact answers_next _

theorem execRetrainComplete_answers (g : Nat) (r : TrainResult) (s : State) : Answers (execRetrainComplete g r s) := by
  unfold execRetrainComplete
  (repeat' split) <;> exact answers_next _

theorem execPortLoss_answers (port : Nat) (s : State) : Answers (execPortLoss port s) := by
  unfold execPortLoss
  dsimp only
  (repeat' split) <;> exact answers_next _

theorem execPowerStepRequest_answers (pid : Nat) (step : Fin 4) (s : State) : Answers (execPowerStepRequest pid step s) := by
  unfold execPowerStepRequest
  (repeat' split) <;> exact answers_next _

theorem execFrzctlFreeze_answers (pid : Nat) (s : State) : Answers (execFrzctlFreeze pid s) := by
  unfold execFrzctlFreeze
  (repeat' split) <;> exact answers_next _

theorem execFrzctlEndRequest_answers (pid : Nat) (s : State) : Answers (execFrzctlEndRequest pid s) := by
  unfold execFrzctlEndRequest
  (repeat' split) <;> exact answers_next _

theorem execFrzctlIntermission_answers (pid : Nat) (s : State) : Answers (execFrzctlIntermission pid s) := by
  unfold execFrzctlIntermission
  (repeat' split) <;> exact answers_next _

theorem execFrzctlRetire_answers (pid : Nat) (s : State) : Answers (execFrzctlRetire pid s) := by
  unfold execFrzctlRetire
  (repeat' split) <;> exact answers_next _

theorem execSpareMapWrite_answers (die hub num : Nat) (v : Quad) (s : State) : Answers (execSpareMapWrite die hub num v s) := by
  unfold execSpareMapWrite
  (repeat' split) <;> exact answers_next _

theorem execJournalScan_answers (s : State) : Answers (execJournalScan s) := by
  unfold execJournalScan
  (repeat' split) <;> exact answers_next _

theorem execLaunchSlot_answers (s : State) : Answers (execLaunchSlot s) := by
  unfold execLaunchSlot
  (repeat' split) <;> exact answers_next _

theorem execLaunch_answers (seq : Nat) (s : State) : Answers (execLaunch seq s) := by
  unfold execLaunch
  exact admitEvent_answers ..

theorem execRestore_answers (seq : Nat) (s : State) : Answers (execRestore seq s) := by
  unfold execRestore
  exact admitEvent_answers ..

theorem execHarvest_answers (seq : Nat) (s : State) : Answers (execHarvest seq s) := by
  unfold execHarvest
  exact commandEvent_answers ..

theorem execSignLog_answers (seq : Nat) (s : State) : Answers (execSignLog seq s) := by
  unfold execSignLog
  exact commandEvent_answers ..

theorem execTrapAnswer_answers (seq : Nat) (s : State) : Answers (execTrapAnswer seq s) := by
  unfold execTrapAnswer
  exact commandEvent_answers ..

theorem execSpareSwap_answers (seq : Nat) (s : State) : Answers (execSpareSwap seq s) := by
  unfold execSpareSwap
  exact commandEvent_answers ..

theorem execAttest_answers (seq : Nat) (s : State) : Answers (execAttest seq s) := by
  unfold execAttest
  exact commandEvent_answers ..

theorem execLooseHbmAccess_answers (a : Loose) (s : State) : Answers (execLooseHbmAccess a s) := by
  unfold execLooseHbmAccess
  (repeat' split) <;> exact answers_next _

theorem wf_of_mem_eq {s t : State} (h : t.mem = s.mem) (hw : Mem.wf s.mem = true) : Mem.wf t.mem = true := h ▸ hw

/-- No word loses the memory's canonical form, and in a tile none changes a byte in its issue cycle (R98, R203). -/
theorem exec_memOk {i : Instr} (h : isEvent i = false) (s : State) : MemOk (exec i s) s := by
  cases i with
  | add | sub | and | or | xor | andn | sll | srl | sra | rol | slt | sltu | min | max | minu | maxu | mul | mulh | mulhu
  | div | divu | rem | remu | clz | ctz | pop | sext | zext | addi | andi | ori | xori | slti | sltui | slli | srli
  | srai | lhi | cgetBase | cgetLen | cgetPerm | cgetTag | cgetCur | vadd | vsub | vmul | vmin | vmax | vand | vor | vxor
  | vshl | vsra | vperm | vbcast | amaxb | rmt | cpyWp => exact issueResult_memOk
  | cbnd | cperm | cinc | cset | cseal | cunseal | cincImm => exact capForm_memOk
  | beq | bne | blt | bge | bltu | bgeu => exact branch_memOk
  | fadd | fsub | fmul | fma | fms | vsum | frcp | frsq | fsqrt | fex2 | flg2 | fsin | fcos => exact roundForm_memOk
  | fmin | fmax | fabs | fneg | fcmpEq | fcmpLt | fcmpLe | fsel | vmaxr | vminr => exact vecForm_memOk
  | cvtWide | cvtWideb | cvtPack | cvtPackb | cvtF2b | cvtB2f | cvtF2i | cvtI2f => exact cvtForm_memOk
  | cpy | cpyG | cpyS => exact copyForm_memOk
  | ldB | ldBu | ldH | ldHu | ldW | ldD | ldQ | ldC | ldbQ => exact loadForm_memOk
  | stB | stH | stW | stD | stQ | stC | stFe | stbQ => exact storeForm_memOk
  | loop => exact execLoop_memOk ..
  | j => exact execJ_memOk ..
  | jl => exact execJl_memOk ..
  | nop => exact execNop_memOk ..
  | jr => exact execJr_memOk ..
  | hold => exact execHold_memOk ..
  | ldFe => exact execLdFe_memOk ..
  | ldLq => exact execLdLq_memOk ..
  | stSq => exact execStSq_memOk ..
  | scl => exact execScl_memOk ..
  | rep => exact execRep_memOk ..
  | mma => exact execMma_memOk ..
  | mzClr => exact execMzClr_memOk ..
  | mzAnc => exact execMzAnc_memOk ..
  | mzRd => exact execMzRd_memOk ..
  | mzRaw => exact execMzRaw_memOk ..
  | mzAdd => exact execMzAdd_memOk ..
  | mzOvf => exact execMzOvf_memOk ..
  | mgeo => exact execMgeo_memOk ..
  | mgeoSub => exact execMgeoSub_memOk ..
  | msk => exact execMsk_memOk ..
  | xmit => exact execXmit_memOk ..
  | xmitM => exact execXmitM_memOk ..
  | catchOne => exact execCatch_memOk ..
  | catchM => exact execCatchM_memOk ..
  | put => exact execPut_memOk ..
  | sealOp => exact execSeal_memOk ..
  | trn => exact execTrn_memOk ..
  | chkLq => exact execChkLq_memOk ..
  | chkFe => exact execChkFe_memOk ..
  | chkWp => exact execChkWp_memOk ..
  | semUp => exact execSemUp_memOk ..
  | semChk => exact execSemChk_memOk ..
  | resync => exact execResync_memOk ..
  | start => exact execStart_memOk ..
  | stop => exact execStop_memOk ..
  | mark => exact execMark_memOk ..
  | amoAdd => exact execAmoAdd_memOk ..
  | amoMax => exact execAmoMax_memOk ..
  | amoMin => exact execAmoMin_memOk ..
  | amoMaxu => exact execAmoMaxu_memOk ..
  | amoMinu => exact execAmoMinu_memOk ..
  | amoAnd => exact execAmoAnd_memOk ..
  | amoOr => exact execAmoOr_memOk ..
  | amoXor => exact execAmoXor_memOk ..
  | amoSwap => exact execAmoSwap_memOk ..
  | amoCas => exact execAmoCas_memOk ..
  | amoFmax => exact execAmoFmax_memOk ..
  | fence => exact execFence_memOk ..
  | gput => exact execGput_memOk ..
  | gget => exact execGget_memOk ..
  | gtbl => exact execGtbl_memOk ..
  | trapTrap => exact execTrapTrap_memOk ..
  | tretResume => exact execTretResume_memOk ..
  | tretAbandon => exact execTretAbandon_memOk ..
  | tretForward => exact execTretForward_memOk ..
  | tretIsolate => exact execTretIsolate_memOk ..
  | sysrd => exact execSysrd_memOk ..
  | syswr => exact execSyswr_memOk ..
  | ifence => exact execIfence_memOk ..
  | halt => exact execHalt_memOk ..
  | hbeat => exact execHbeat_memOk ..
  | tlbW => exact execTlbW_memOk ..
  | tlbInv => exact execTlbInv_memOk ..
  | crsOpen => exact execCrsOpen_memOk ..
  | crsStep => exact execCrsStep_memOk ..
  | crsSend => exact execCrsSend_memOk ..
  | crsChk => exact execCrsChk_memOk ..
  | crsRel => exact execCrsRel_memOk ..
  | crsClose => exact execCrsClose_memOk ..
  | illegal => exact execIllegal_memOk ..
  | _ => cases h

/-- Every event answers a next state. -/
theorem exec_event_answers {i : Instr} (h : isEvent i = true) (s : State) : Answers (exec i s) := by
  cases i with
  | correctedError | logAppend | powerOnReset | slackminRead | personalitySwitchRequest | imodeChange | linkSlotDataFlit
  | linkRequestFlit | linkResponseFlit | linkIdleFlit | carouselDataFlit | carouselReleaseFlit | mgmtIntermissionProposal
  | mgmtAccept | mgmtReject | mgmtResyncReport | mgmtRestart | mgmtStepProposal | mgmtResyncNotice | mgmtDrained
  | registerWrite | thermalTrip | thermalTripEnd | windowRegisterWrite | xdoneWrite | dlogWrite | agenWrite | bankRefresh
  | noticeFlush | lostEventsRecord => exact answers_next _
  | holdExpiry => exact execHoldExpiry_answers ..
  | mmaComplete => exact execMmaComplete_answers ..
  | imageTransferComplete => exact execImageTransferComplete_answers ..
  | catchFlitTake => exact execCatchFlitTake_answers ..
  | putPerform => exact execPutPerform_answers ..
  | putAnswer => exact execPutAnswer_answers ..
  | amoPerform => exact execAmoPerform_answers ..
  | amoAnswer => exact execAmoAnswer_answers ..
  | channelCommandStart => exact execChannelCommandStart_answers ..
  | engineElementAtHome => exact execEngineElementAtHome_answers ..
  | engineRefusalArrival => exact execEngineRefusalArrival_answers ..
  | deadlineReplyArrival => exact execDeadlineReplyArrival_answers ..
  | deferredDeliveryWrite => exact execDeferredDeliveryWrite_answers ..
  | reductionCombinedArrival => exact execReductionCombinedArrival_answers ..
  | ggetWordArrival => exact execGgetWordArrival_answers ..
  | heartbeat => exact execHeartbeat_answers ..
  | pendingEffectDue => exact execPendingEffectDue_answers ..
  | flitHop => exact execFlitHop_answers ..
  | missedSlot => exact execMissedSlot_answers ..
  | turnstile => exact execTurnstile_answers ..
  | bankAct => exact execBankAct_answers ..
  | bankRd => exact execBankRd_answers ..
  | bankWr => exact execBankWr_answers ..
  | bankPre => exact execBankPre_answers ..
  | hbmReadData => exact execHbmReadData_answers ..
  | looseTileArrival => exact execLooseTileArrival_answers ..
  | hubAccessAnswer => exact execHubAccessAnswer_answers ..
  | trapMessage => exact execTrapMessage_answers ..
  | chainExhaustion => exact execChainExhaustion_answers ..
  | restart => exact execRestart_answers ..
  | intermissionFreeze => exact execIntermissionFreeze_answers ..
  | writeOutComplete => exact execWriteOutComplete_answers ..
  | restoredPartitionStart => exact execRestoredPartitionStart_answers ..
  | troupeIntermissionFreeze => exact execTroupeIntermissionFreeze_answers ..
  | troupeRestart => exact execTroupeRestart_answers ..
  | imageStaged => exact execImageStaged_answers ..
  | partitionStart => exact execPartitionStart_answers ..
  | spareSwapExecute => exact execSpareSwapExecute_answers ..
  | logSignatureDone => exact execLogSignatureDone_answers ..
  | tmsgRead => exact execTmsgRead_answers ..
  | xmsgRead => exact execXmsgRead_answers ..
  | drainBegin => exact execDrainBegin_answers ..
  | drainEnd => exact execDrainEnd_answers ..
  | widthReduction => exact execWidthReduction_answers ..
  | linkFlitSend => exact execLinkFlitSend_answers ..
  | edgeQuadRelease => exact execEdgeQuadRelease_answers ..
  | remapDone => exact execRemapDone_answers ..
  | jtailWrite => exact execJtailWrite_answers ..
  | bootstatWrite => exact execBootstatWrite_answers ..
  | firmwareVerifyDone => exact execFirmwareVerifyDone_answers ..
  | retrainComplete => exact execRetrainComplete_answers ..
  | tagVerify => exact execTagVerify_answers ..
  | portLoss => exact execPortLoss_answers ..
  | powerStepRequest => exact execPowerStepRequest_answers ..
  | frzctlFreeze => exact execFrzctlFreeze_answers ..
  | frzctlEndRequest => exact execFrzctlEndRequest_answers ..
  | frzctlIntermission => exact execFrzctlIntermission_answers ..
  | frzctlRetire => exact execFrzctlRetire_answers ..
  | spareMapWrite => exact execSpareMapWrite_answers ..
  | journalScan => exact execJournalScan_answers ..
  | launchSlot => exact execLaunchSlot_answers ..
  | launch => exact execLaunch_answers ..
  | restore => exact execRestore_answers ..
  | harvest => exact execHarvest_answers ..
  | signLog => exact execSignLog_answers ..
  | trapAnswer => exact execTrapAnswer_answers ..
  | spareSwap => exact execSpareSwap_answers ..
  | attest => exact execAttest_answers ..
  | looseHbmAccess => exact execLooseHbmAccess_answers ..
  | _ => cases h

/-- No event loses the memory's canonical form. -/
theorem exec_event_wf {i : Instr} (h : isEvent i = true) {s : State} (hw : Mem.wf s.mem = true) :
    Mem.wf (nextOr (exec i s) s).mem = true := by
  cases i with
  | holdExpiry => exact wf_of_mem_eq (execHoldExpiry_mem ..) hw
  | mmaComplete => exact wf_of_mem_eq (execMmaComplete_mem ..) hw
  | imageTransferComplete => exact wf_of_mem_eq (execImageTransferComplete_mem ..) hw
  | catchFlitTake => exact wf_of_mem_eq (execCatchFlitTake_mem ..) hw
  | putPerform => exact wf_of_mem_eq (execPutPerform_mem ..) hw
  | putAnswer => exact wf_of_mem_eq (execPutAnswer_mem ..) hw
  | amoPerform => exact wf_of_mem_eq (execAmoPerform_mem ..) hw
  | amoAnswer => exact wf_of_mem_eq (execAmoAnswer_mem ..) hw
  | channelCommandStart => exact execChannelCommandStart_wf _ _ _ hw
  | engineElementAtHome => exact execEngineElementAtHome_wf _ _ _ hw
  | engineRefusalArrival => exact wf_of_mem_eq (execEngineRefusalArrival_mem ..) hw
  | deadlineReplyArrival => exact execDeadlineReplyArrival_wf _ _ _ hw
  | deferredDeliveryWrite => exact execDeferredDeliveryWrite_wf _ _ _ hw
  | reductionCombinedArrival => exact wf_of_mem_eq (execReductionCombinedArrival_mem ..) hw
  | ggetWordArrival => exact wf_of_mem_eq (execGgetWordArrival_mem ..) hw
  | heartbeat => exact wf_of_mem_eq (execHeartbeat_mem ..) hw
  | pendingEffectDue => exact execPendingEffectDue_wf _ _ hw
  | flitHop => exact wf_of_mem_eq (execFlitHop_mem ..) hw
  | missedSlot => exact wf_of_mem_eq (execMissedSlot_mem ..) hw
  | turnstile => exact wf_of_mem_eq (execTurnstile_mem ..) hw
  | bankAct => exact wf_of_mem_eq (execBankAct_mem ..) hw
  | bankRd => exact wf_of_mem_eq (execBankRd_mem ..) hw
  | bankWr => exact wf_of_mem_eq (execBankWr_mem ..) hw
  | bankPre => exact wf_of_mem_eq (execBankPre_mem ..) hw
  | hbmReadData => exact wf_of_mem_eq (execHbmReadData_mem ..) hw
  | looseTileArrival => exact execLooseTileArrival_wf _ _ hw
  | hubAccessAnswer => exact wf_of_mem_eq (execHubAccessAnswer_mem ..) hw
  | trapMessage => exact execTrapMessage_wf _ _ hw
  | chainExhaustion => exact execChainExhaustion_wf _ _ hw
  | restart => exact execRestart_wf _ _ hw
  | intermissionFreeze => exact execIntermissionFreeze_wf _ _ hw
  | writeOutComplete => exact execWriteOutComplete_wf _ _ hw
  | restoredPartitionStart => exact execRestoredPartitionStart_wf _ _ hw
  | troupeIntermissionFreeze => exact wf_of_mem_eq (execTroupeIntermissionFreeze_mem ..) hw
  | troupeRestart => exact execTroupeRestart_wf _ _ hw
  | imageStaged => exact wf_of_mem_eq (execImageStaged_mem ..) hw
  | partitionStart => exact execPartitionStart_wf _ _ hw
  | spareSwapExecute => exact wf_of_mem_eq (execSpareSwapExecute_mem ..) hw
  | logSignatureDone => exact execLogSignatureDone_wf _ _ hw
  | tmsgRead => exact wf_of_mem_eq (execTmsgRead_mem ..) hw
  | xmsgRead => exact wf_of_mem_eq (execXmsgRead_mem ..) hw
  | drainBegin => exact wf_of_mem_eq (execDrainBegin_mem ..) hw
  | drainEnd => exact wf_of_mem_eq (execDrainEnd_mem ..) hw
  | widthReduction => exact wf_of_mem_eq (execWidthReduction_mem ..) hw
  | linkFlitSend => exact wf_of_mem_eq (execLinkFlitSend_mem ..) hw
  | edgeQuadRelease => exact wf_of_mem_eq (execEdgeQuadRelease_mem ..) hw
  | remapDone => exact execRemapDone_wf _ _ _ hw
  | correctedError => exact execCorrectedError_wf _ _ hw
  | logAppend => exact execLogAppend_wf _ _ hw
  | jtailWrite => exact execJtailWrite_wf _ _ hw
  | bootstatWrite => exact wf_of_mem_eq (execBootstatWrite_mem ..) hw
  | firmwareVerifyDone => exact wf_of_mem_eq (execFirmwareVerifyDone_mem ..) hw
  | powerOnReset => exact execPowerOnReset_wf _ hw
  | slackminRead => exact wf_of_mem_eq (execSlackminRead_mem ..) hw
  | personalitySwitchRequest => exact wf_of_mem_eq (execPersonalitySwitchRequest_mem ..) hw
  | retrainComplete => exact wf_of_mem_eq (execRetrainComplete_mem ..) hw
  | imodeChange => exact wf_of_mem_eq (execImodeChange_mem ..) hw
  | linkSlotDataFlit => exact execLinkSlotDataFlit_wf _ _ _ hw
  | linkRequestFlit => exact execLinkRequestFlit_wf _ _ _ hw
  | linkResponseFlit => exact execLinkResponseFlit_wf _ _ _ hw
  | linkIdleFlit => exact execLinkIdleFlit_wf _ _ _ hw
  | tagVerify => exact execTagVerify_wf _ _ _ hw
  | carouselDataFlit => exact execCarouselDataFlit_wf _ _ _ hw
  | carouselReleaseFlit => exact execCarouselReleaseFlit_wf _ _ _ hw
  | mgmtIntermissionProposal => exact execMgmtIntermissionProposal_wf _ _ _ hw
  | mgmtAccept => exact execMgmtAccept_wf _ _ _ hw
  | mgmtReject => exact execMgmtReject_wf _ _ _ hw
  | mgmtResyncReport => exact execMgmtResyncReport_wf _ _ _ hw
  | mgmtRestart => exact execMgmtRestart_wf _ _ _ hw
  | mgmtStepProposal => exact execMgmtStepProposal_wf _ _ _ hw
  | mgmtResyncNotice => exact execMgmtResyncNotice_wf _ _ _ hw
  | mgmtDrained => exact execMgmtDrained_wf _ _ _ hw
  | registerWrite => exact execRegisterWrite_wf _ _ _ hw
  | portLoss => exact wf_of_mem_eq (execPortLoss_mem ..) hw
  | powerStepRequest => exact execPowerStepRequest_wf _ _ _ hw
  | thermalTrip => exact wf_of_mem_eq (execThermalTrip_mem ..) hw
  | thermalTripEnd => exact wf_of_mem_eq (execThermalTripEnd_mem ..) hw
  | frzctlFreeze => exact execFrzctlFreeze_wf _ _ hw
  | frzctlEndRequest => exact execFrzctlEndRequest_wf _ _ hw
  | frzctlIntermission => exact execFrzctlIntermission_wf _ _ hw
  | frzctlRetire => exact execFrzctlRetire_wf _ _ hw
  | windowRegisterWrite => exact wf_of_mem_eq (execWindowRegisterWrite_mem ..) hw
  | xdoneWrite _ hub _ => exact execXdoneWrite_wf _ hub _ _ hw
  | dlogWrite _ hub _ => exact execDlogWrite_wf _ hub _ _ hw
  | agenWrite => exact wf_of_mem_eq (execAgenWrite_mem ..) hw
  | spareMapWrite => exact wf_of_mem_eq (execSpareMapWrite_mem ..) hw
  | bankRefresh pc bank => exact wf_of_mem_eq (execBankRefresh_mem pc bank _) hw
  | journalScan => exact execJournalScan_wf _ hw
  | launchSlot => exact execLaunchSlot_wf _ hw
  | noticeFlush => exact execNoticeFlush_wf _ hw
  | lostEventsRecord => exact execLostEventsRecord_wf _ hw
  | launch => exact execLaunch_wf _ _ hw
  | restore => exact execRestore_wf _ _ hw
  | harvest => exact execHarvest_wf _ _ hw
  | signLog => exact execSignLog_wf _ _ hw
  | trapAnswer => exact execTrapAnswer_wf _ _ hw
  | spareSwap => exact execSpareSwap_wf _ _ hw
  | attest => exact execAttest_wf _ _ hw
  | looseHbmAccess => exact execLooseHbmAccess_wf _ _ hw
  | _ => cases h

end Sys2Proof.Machine

namespace Sys2Proof.Machine

/-! ### What the checks before a word raise -/

section
variable {i : Instr} {cx : Cx} {pre : Cx → Chk Unit} {s : State} {f : Flt}

theorem issueChecks_core (h : coreChecks cx i = .error f) : issueChecks cx i pre = .error f := by
  simp only [issueChecks, h, List.cons_append, firstFailure]

theorem issueChecks_slot (h : coreChecks cx i = .ok ()) (hs : slotFirst i = true) (ht : timetableChecks cx i = .error f) :
    issueChecks cx i pre = .error f := by
  simp only [issueChecks, h, hs, ht, if_true, List.nil_append, List.cons_append, firstFailure]

/-- A word that fails a check of core, queue registers, frame or level raises its fault exactly (R70). -/
theorem raises_core (hi : isEvent i = false) (hat : At s cx) (h : coreChecks cx i = .error f) : Raises i cx s f := by
  obtain ⟨pre, body, he⟩ := exec_issues hi
  exact (he s).trans (issue_check hat (issueChecks_core h))

theorem slotFirst_of_exchangeClass (h : exchangeClass i = true) : slotFirst i = true := by
  cases i with
  | xmit | xmitM | catchOne | catchM | put | sealOp | trn | crsSend => rfl
  | _ => cases h

theorem isEvent_of_isWord (h : isWord i = true) : isEvent i = false := by
  simp only [isEvent, h, Bool.not_true, Bool.false_and]

/-- In a compute phase an exchange-class word raises SLIP_LATE with reason PHASE (R153). -/
theorem raises_phase {t : Coord} {k : Side} {j : Fin 4} {tl : Tile} {q : Part} (hi : isEvent i = false) (hat : At s cx)
    (hwh : cx.wh = .tile t k j tl q) (h : coreChecks cx i = .ok ()) (hq : q.exchange cx.n = false) (hx : exchangeClass i = true) :
    Raises i cx s { code := fcSlipLate, reason := rsPhase } := by
  obtain ⟨pre, body, he⟩ := exec_issues hi
  refine (he s).trans (issue_check hat (issueChecks_slot h (slotFirst_of_exchangeClass hx) ?_))
  simp only [timetableChecks, hwh, hq, hx, Bool.not_false, Bool.not_true, if_true, require]
  rfl

/-- A queue register outside an execute core, or c28 written or c29 read on one (R12). -/
def NamesQueue (cx : Cx) (i : Instr) : Prop :=
  (cx.kind ≠ .execute ∧ ∃ r ∈ (regUse i).all, r = 28 ∨ r = 29) ∨
    (cx.kind = .execute ∧ ((regUse i).dst = some 28 ∨ 29 ∈ (regUse i).srcs))

/-- The core column's test is the first (R70). -/
theorem coreChecks_core (h : (coresOf i).lists cx.kind = false) (hl : hubLevel i = false) :
    coreChecks cx i = .error { code := fcIllegal } := by
  simp only [coreChecks, h, hl, Bool.not_false, Bool.and_self, if_true]

theorem coreChecks_queue (h : NamesQueue cx i) : coreChecks cx i = .error { code := fcIllegal } := by
  rcases h with ⟨hk, r, hr, hq⟩ | ⟨hk, hq⟩
  · have hany : (regUse i).all.any (fun r => r == 28 || r == 29) = true := List.any_eq_true.2 ⟨r, hr, by simpa using hq⟩
    simp only [coreChecks, hany, bne_iff_ne.2 hk, Bool.and_self, if_true, ite_self]
  · have hor : ((regUse i).dst == some 28 || (regUse i).srcs.contains 29) = true := by simpa using hq
    simp only [coreChecks, hor, hk, bne_self_eq_false, Bool.false_and, beq_self_eq_true, Bool.true_and, if_true, ite_self,
      Bool.false_eq_true]

/-- Past core and queue registers, the frame class and then the level are tested (R70). -/
theorem coreChecks_past (hc : ¬((coresOf i).lists cx.kind = false ∧ hubLevel i = false)) (hq : ¬NamesQueue cx i) :
    coreChecks cx i = if cx.frame && !frameClass i then .error { code := fcIllegalInFrame }
      else if hubLevel i && cx.kind != .hub then .error { code := fcPriv } else .ok () := by
  have hc' : ((!(coresOf i).lists cx.kind) && !hubLevel i) = false := by simpa using hc
  simp only [NamesQueue, not_or, not_and] at hq
  obtain ⟨hout, hin⟩ := hq
  have h1 : (cx.kind != .execute && (regUse i).all.any (fun r => r == 28 || r == 29)) = false := by simpa using hout
  have h2 : (cx.kind == .execute && ((regUse i).dst == some 28 || (regUse i).srcs.contains 29)) = false := by simpa using hin
  simp only [coreChecks, hc', h1, h2, Bool.false_eq_true, if_false]

theorem namesQueue_of_tile {t : Coord} {k : Side} {j : Fin 4} {tl : Tile} {q : Part} (hwh : cx.wh = .tile t k j tl q) :
    NamesQueue cx i ↔ (k = .access ∧ ∃ r ∈ (regUse i).all, r = 28 ∨ r = 29) ∨
      (k = .execute ∧ ((regUse i).dst = some 28 ∨ 29 ∈ (regUse i).srcs)) := by
  cases k <;> simp [NamesQueue, Cx.kind, hwh]

theorem namesQueue_of_hub {die h : Nat} {hb : Hub} (hwh : cx.wh = .hub die h hb) :
    NamesQueue cx i ↔ ∃ r ∈ (regUse i).all, r = 28 ∨ r = 29 := by
  simp [NamesQueue, Cx.kind, hwh]

theorem kind_ne_hub {t : Coord} {k : Side} {j : Fin 4} {tl : Tile} {q : Part} (hwh : cx.wh = .tile t k j tl q) :
    cx.kind ≠ .hub := by
  cases k <;> simp [Cx.kind, hwh]

end

theorem issueResult_check {i : Instr} {d : RegNo} {lat : Nat} {g : Cx → CReg} {s : State} {cx : Cx} {f : Flt}
    (he : exec i s = issueResult i d lat g s) (hat : At s cx) (h : issueChecks cx i noPre = .error f) : Raises i cx s f :=
  he.trans (issue_check hat h)

/-- On an execute core a c28 source with an empty load queue raises SLIP_EMPTY, and after it a c29 destination with a full store
queue SLIP_LATE, both with reason QUEUE (R12); add has no check of its own before them. -/
theorem add_raises_queue {i : Instr} {cx : Cx} {s : State} {t : Coord} {j : Fin 4} {tl : Tile} {q : Part} {d b : RegNo}
    (hi : i = .add d 28 b) (hat : At s cx) (hwh : cx.wh = .tile t .execute j tl q) (hcore : coreChecks cx i = .ok ())
    (htime : timetableChecks cx i = .ok ()) :
    (tl.lq = [] → Raises i cx s { code := fcSlipEmpty, reason := rsQueue }) ∧
      (tl.lq ≠ [] → damageCheck cx i = .ok () → d = 29 → 8 ≤ tl.sqUsed → Raises i cx s { code := fcSlipLate, reason := rsQueue }) := by
  subst hi
  have hs : slotFirst (.add d 28 b) = false := rfl
  refine ⟨fun hlq => ?_, fun hlq hdam hd hsq => ?_⟩
  · have hq : queueCheck cx (.add d 28 b) = .error { code := fcSlipEmpty, reason := rsQueue } := by
      have hsrcs : (regUse (.add d 28 b)).srcs = [28, b] := rfl
      simp [queueCheck, hwh, hlq, require, hsrcs]
    refine issueResult_check rfl hat ?_
    simp only [issueChecks, hcore, htime, hq, noPre, hs, Bool.false_eq_true, if_false, List.nil_append, List.append_nil,
      List.cons_append, firstFailure]
  · subst hd
    have hq : queueCheck cx (.add 29 28 b) = .ok () := by simp [queueCheck, hwh, hlq, require]
    have hr : roomCheck cx (.add 29 28 b) = .error { code := fcSlipLate, reason := rsQueue } := by
      have hdst : (regUse (.add 29 28 b)).dst = some 29 := rfl
      simp [roomCheck, hwh, hsq, require, hdst]
    refine issueResult_check rfl hat ?_
    simp only [issueChecks, hcore, htime, hq, hdam, hr, noPre, hs, Bool.false_eq_true, if_false, List.nil_append,
      List.append_nil, List.cons_append, firstFailure]

/-- Settles O7: each check is one step of `coreChecks` or `timetableChecks`, which every word's issue runs first. -/
theorem checksBeforeAnInstruction : Obligations.ChecksBeforeAnInstruction := by
  refine ⟨fun i s cx t k j tl q hat hwh => ⟨fun hw => ?_, fun d b hi hk hcore htime => ?_⟩, fun i s cx die h hb hat hwh hw hc => ?_,
    fun w e he => ?_, fun w s cx hat => ?_⟩
  · have hi := isEvent_of_isWord hw
    rw [← namesQueue_of_tile hwh]
    refine ⟨fun hc => raises_core hi hat ?_, fun hc hq hf => raises_core hi hat ?_, fun hc hq hf hl => raises_core hi hat ?_,
      fun hc hq hx => raises_phase hi hat hwh hc hq hx⟩
    · exact hc.elim (fun h => coreChecks_core h.1 h.2) coreChecks_queue
    · rw [coreChecks_past hc hq, if_pos (by simpa using hf)]
      rfl
    · rw [coreChecks_past hc hq, if_neg (by simpa using hf), if_pos (by simpa [hl] using kind_ne_hub hwh)]
      rfl
  · subst hk
    exact add_raises_queue hi hat hwh hcore htime
  · refine raises_core (isEvent_of_isWord hw) hat (hc.elim (fun h => coreChecks_core h.1 h.2) fun h => ?_)
    exact coreChecks_queue ((namesQueue_of_hub hwh).2 h)
  · simp only [instrOf, he]
  · exact raises_core rfl hat (coreChecks_core rfl rfl)

/-- Settles O9: every word is an issue, which answers where the state issues, and every event answers in its own row. -/
theorem everyInstructionAnswers : Obligations.EveryInstructionAnswers := by
  intro i s h
  cases hi : isEvent i with
  | true => exact exec_event_answers hi s
  | false =>
    rcases h with h | ⟨cx, hat⟩
    · rw [hi] at h
      cases h
    · obtain ⟨pre, body, he⟩ := exec_issues hi
      rw [he s]
      exact issue_answers hat

/-- Settles O10: an issue in a tile changes no byte, row by row of the opcode table. -/
theorem tileIssueKeepsMemory : Obligations.TileIssueKeepsMemory := by
  intro i s t cx tc hw hat htc h
  have hin : cx.inTile := by
    cases hwh : cx.wh with
    | tile t k j tl q => exact ⟨t, k, j, tl, q, hwh⟩
    | hub => simp [Cx.tile, hwh] at htc
  have hm := (exec_memOk (isEvent_of_isWord hw) s).2 cx hat hin
  rwa [h] at hm

/-! ### The memory's canonical form -/

theorem exec_wf (i : Instr) {s : State} (hw : Mem.wf s.mem = true) : Mem.wf (nextOr (exec i s) s).mem = true := by
  cases hi : isEvent i with
  | true => exact exec_event_wf hi hw
  | false => exact (exec_memOk hi s).1 hw

/-- Reading the next word changes no memory: it fills a fetch buffer, or its check's fault is raised (R30). -/
theorem offer_mem {s t : State} {c : Ctx} (h : s.offer c = .nothing t ∨ ∃ i, s.offer c = .instr i t) : t.mem = s.mem := by
  unfold State.offer at h
  split at h
  · simp at h
  · split at h
    · simp_all
    · dsimp only at h
      split at h
      · simp at h
        simp [← h]
      · simp at h
        obtain ⟨-, rfl⟩ := h
        (repeat' split) <;> simp

theorem runAct_wf (a : Act) {s t : State} (hw : Mem.wf s.mem = true) (h : runAct a s = .next t) : Mem.wf t.mem = true := by
  cases a with
  | issue c =>
    simp only [runAct] at h
    split at h
    · cases h
    · next hoff =>
      cases h
      exact wf_of_mem_eq (offer_mem (.inl hoff)) hw
    · next i s1 hoff =>
      have hx := exec_wf i (wf_of_mem_eq (offer_mem (.inr ⟨i, hoff⟩)) hw)
      rwa [h] at hx
  | event i =>
    have hx := exec_wf i hw
    rwa [show exec i s = .next t from h] at hx
  | plan st pid => cases h; exact State.plan_wf _ _ _ hw
  | deliver id => cases h; exact State.arriveFlight_wf _ _ hw
  | release port f => cases h; exact State.carouselRelease_wf _ _ _ hw

/-- Settles O11: the act due keeps the form, and so does the beginning of the next cycle. -/
theorem stepKeepsMemory : Obligations.StepKeepsMemory := by
  intro s t hw h
  unfold step at h
  split at h
  · cases h
    exact State.beginCycle_wf _ hw
  · exact runAct_wf _ (by exact hw) h

end Sys2Proof.Machine

/-! ### The step and the word that a context offers -/

namespace Sys2Proof.Machine

/-- An address below 2^60 lies in a tile's or hub's own space, which asks for no GLB or SYS (R196). -/
theorem checkSpacePerm_local {a : DWord} (c : CReg) (h : a.toNat < 2 ^ 60) : checkSpacePerm c a = .ok () := by
  have hsp : spaceOf a = 0 := Nat.div_eq_of_lt h
  simp [checkSpacePerm, hsp]

section
variable {cx : Cx} {pc : DWord}

theorem Cx.fetchChecks_ok {anew : Bool} (hcap : checkCap cx.slot.pcc 0 4 pX = .ok pc) (hlim : pc.toNat + 4 ≤ cx.fetchLimit)
    (hd : cx.damage = []) : cx.fetchChecks false anew = .ok () := by
  have hl : cx.fetchLimit ≤ 2 ^ 60 := by unfold Cx.fetchLimit; split <;> omega
  simp only [Cx.fetchChecks, hcap, checkSpacePerm_local _ (show pc.toNat < 2 ^ 60 by omega), if_neg (Nat.not_lt.2 hlim), hd, damaged,
    List.contains_nil, Bool.and_false, Bool.false_eq_true, if_false]

/-- A context without a frame, whose buffer does not hold the word at its PCC cursor, reads the four words there (R30). -/
theorem offer_refill {s : State} {c : Ctx} (hcx : s.issuing ⟨c, 0, 0, false⟩ = some cx) (hidle : cx.idle = false)
    (hframe : cx.ownFrame = none) (hempty : cx.slot.fbuf.words = []) (hpc : capCur cx.slot.pcc.data = pc)
    (hcap : checkCap cx.slot.pcc 0 4 pX = .ok pc) (hlim : pc.toNat + 4 ≤ cx.fetchLimit) (hd : cx.damage = []) :
    s.offer c = .instr (instrOf (cx.fetchWord s.mem pc).w)
      { s.modCtx cx (fun sl => { sl with fbuf := cx.refill s.mem pc }) with
        cur := some ⟨c, (cx.fetchWord s.mem pc).w, pc, false⟩ } := by
  have hbad : (cx.fetchWord s.mem pc).bad = false := by
    simp [Cx.fetchWord, hd, damaged, hlim]
  have hchk : ∀ cx' : Cx, cx'.wh = cx.wh → cx'.slot = cx.slot → cx'.fetchChecks false true = .ok () := by
    intro cx' hw hs
    exact Cx.fetchChecks_ok (hs ▸ hcap) (by simpa [Cx.fetchLimit, hw] using hlim) (by simpa [Cx.damage, hw] using hd)
  simp only [State.offer, hcx, hidle]
  simp [hframe, hempty, hpc, Cx.refill, hbad, hchk, State.mendBuffer, hd]

/-- A context without a frame, whose buffer holds the word at its PCC cursor, offers the buffer's copy (R30). -/
theorem offer_buffered {s : State} {c : Ctx} {w : Word} {ws : List FWord} (hcx : s.issuing ⟨c, 0, 0, false⟩ = some cx)
    (hidle : cx.idle = false) (hframe : cx.ownFrame = none) (hbuf : cx.slot.fbuf = ⟨pc, ⟨w, false⟩ :: ws⟩)
    (hpc : capCur cx.slot.pcc.data = pc) (hcap : checkCap cx.slot.pcc 0 4 pX = .ok pc) (hlim : pc.toNat + 4 ≤ cx.fetchLimit)
    (hd : cx.damage = []) :
    s.offer c = .instr (instrOf w)
      { s.modCtx cx (fun sl => { sl with fbuf := ⟨pc, ⟨w, false⟩ :: ws⟩ }) with cur := some ⟨c, w, pc, false⟩ } := by
  have hchk : ∀ cx' : Cx, cx'.wh = cx.wh → cx'.slot = cx.slot → cx'.fetchChecks false false = .ok () := by
    intro cx' hw hs
    exact Cx.fetchChecks_ok (hs ▸ hcap) (by simpa [Cx.fetchLimit, hw] using hlim) (by simpa [Cx.damage, hw] using hd)
  simp only [State.offer, hcx, hidle]
  simp [hframe, hbuf, hpc, hchk]

/-- From iteration 1 of its frame on, a context offers the frame's word with its register fields renamed (R72, R118). -/
theorem offer_replay {s : State} {c : Ctx} {f : Frame} {w : Word} (hcx : s.issuing ⟨c, 0, 0, false⟩ = some cx)
    (hidle : cx.idle = false) (hframe : cx.ownFrame = some f) (hi : f.i ≠ 0) (hw : f.words[f.j]? = some ⟨w, false⟩)
    (hpc : capCur cx.slot.pcc.data = pc) (hcap : checkCap cx.slot.pcc 0 4 pX = .ok pc) (hlim : pc.toNat + 4 ≤ cx.fetchLimit)
    (hd : cx.damage = []) :
    s.offer c = .instr (instrOf (renameWord w f.i f.ds f.as f.bs f.es))
      { s with cur := some ⟨c, renameWord w f.i f.ds f.as f.bs f.es, pc, true⟩ } := by
  have hchk : ∀ cx' : Cx, cx'.wh = cx.wh → cx'.slot = cx.slot → cx'.fetchChecks false false = .ok () := by
    intro cx' hw hs
    exact Cx.fetchChecks_ok (hs ▸ hcap) (by simpa [Cx.fetchLimit, hw] using hlim) (by simpa [Cx.damage, hw] using hd)
  have hreplay : (some f).filter (fun f : Frame => f.i != 0) = some f := by simp [hi]
  simp only [State.offer, hcx, hidle, hframe, hreplay]
  simp [hw, hpc, hchk]

end

/-- The issue of a context that offers an instruction is that instruction's meaning. -/
theorem step_offer {s t : State} {c : Ctx} {rest : List Act} {i : Instr} (ha : s.agenda = .issue c :: rest)
    (ho : ({ s with agenda := rest } : State).offer c = .instr i t) : step s = exec i t := by
  simp only [step, ha, runAct, ho]

theorem instrOf_decode {w : Word} {i : Instr} (h : decode w = .ok i) : instrOf w = i := by
  simp only [instrOf, h]

/-- Settles O3: the decoder evaluates each printed word. -/
theorem printedWordsDecode : Obligations.PrintedWordsDecode := by
  unfold Obligations.PrintedWordsDecode
  decide

theorem issuing_tile {s : State} {t : Coord} {k : Side} {j : Fin 4} {q : Part} {tl : Tile} (hq : s.partOf t = some q)
    (htl : s.tile t = tl) (w : Word) (pc : DWord) (fr : Bool) : s.issuing ⟨.tile t k j, w, pc, fr⟩ =
      some { wh := .tile t k j tl q, slot := tl.slot k j, pc := pc, word := w, frame := fr, n := q.cyc } := by
  simp only [State.issuing, hq, htl]

theorem issuing_hub {s : State} {d h : Nat} {hb : Hub} (hd : d < 16) (hh : h < 64) (hhb : s.hub d h = hb) (w : Word) (pc : DWord)
    (fr : Bool) : s.issuing ⟨.hub d h, w, pc, fr⟩ =
      some { wh := .hub d h hb, slot := hb.ctx, pc := pc, word := w, frame := false, n := s.rmt } := by
  simp only [State.issuing, hd, hh, and_self, if_true, hhb]

theorem Cx.fetchWord_sound {cx : Cx} {m : List Host.Cell} {a : DWord} (hd : cx.damage = []) (h : a.toNat + 4 ≤ cx.fetchLimit) :
    cx.fetchWord m a = ⟨BitVec.ofNat 32 (Mem.readLE m (cx.fetchAddr a.toNat) 4), false⟩ := by
  simp only [Cx.fetchWord, hd, damaged, List.contains_nil, h, if_true]

/-- Settles O4, from what a context with an empty fetch buffer offers. -/
theorem stepRunsTheWordInMemory : Obligations.StepRunsTheWordInMemory := by
  intro s t k j rest q i ha hq hrun hlost hstart hframe hdam sl pc word hlive hhold hempty hcap hlim hdec
  have hcx := issuing_tile (s := { s with agenda := rest }) (k := k) (j := j) (tl := s.tile t) hq rfl 0 0 false
  have ho := offer_refill hcx (by simp [Cx.idle, hrun, hlost, hstart, show ((s.tile t).slot k j).live = true from hlive,
    show ((s.tile t).slot k j).hold = none from hhold]) (by simp [Cx.ownFrame, hframe]) hempty rfl hcap
    (show pc.toNat + 4 ≤ 0x8000 by omega) hdam
  have hword (a : DWord) (h : a.toNat + 4 ≤ 0x8000) : ∀ cx : Cx, cx.wh = .tile t k j (s.tile t) q → cx.fetchWord s.mem a = ⟨word a, false⟩ := by
    intro cx hw
    rw [Cx.fetchWord_sound (by simp [Cx.damage, hw, hdam]) (by simpa [Cx.fetchLimit, hw] using h)]
    simp [Cx.fetchAddr, hw, word]
  rw [step_offer ha ho]
  have h4 : (pc + 4).toNat = pc.toNat + 4 := by bv_omega
  have h8 : (pc + 8).toNat = pc.toNat + 8 := by bv_omega
  have h12 : (pc + 12).toNat = pc.toNat + 12 := by bv_omega
  simp only [Cx.refill]
  rw [hword pc (by omega) _ rfl, hword (pc + 4) (by omega) _ rfl, hword (pc + 8) (by omega) _ rfl, hword (pc + 12) (by omega) _ rfl,
    instrOf_decode hdec]
  rfl

/-- Settles O5, from what a context with the word in its buffer and one in a later iteration of its frame offer. -/
theorem stepRunsTheBufferedWord : Obligations.StepRunsTheBufferedWord := by
  refine ⟨fun s t k j rest q w ws i ha hq hrun hlost hstart hframe hdam => ?_,
    fun s t k j rest q f w ha hq hrun hlost hstart hframe hdam => ?_⟩
  · intro sl pc hlive hhold hbuf hcap hlim hdec
    have hcx := issuing_tile (s := { s with agenda := rest }) (k := k) (j := j) (tl := s.tile t) hq rfl 0 0 false
    have ho := offer_buffered hcx (by simp [Cx.idle, hrun, hlost, hstart, show ((s.tile t).slot k j).live = true from hlive,
      show ((s.tile t).slot k j).hold = none from hhold]) (by simp [Cx.ownFrame, hframe]) hbuf rfl hcap hlim hdam
    rw [step_offer ha ho, instrOf_decode hdec, ← hbuf]
    rfl
  · intro sl pc hown hi hw hlive hhold hcap hlim
    have hcx := issuing_tile (s := { s with agenda := rest }) (k := k) (j := j) (tl := s.tile t) hq rfl 0 0 false
    have ho := offer_replay hcx (by simp [Cx.idle, hrun, hlost, hstart, show ((s.tile t).slot k j).live = true from hlive,
      show ((s.tile t).slot k j).hold = none from hhold]) (by simp [Cx.ownFrame, hframe, hown]) hi hw rfl hcap hlim hdam
    exact step_offer ha ho

/-! What a cycle's beginning does leaves the clock to it. -/

theorem foldl_rmt {α : Type} (f : State → α → State) (hf : ∀ s x, (f s x).rmt = s.rmt) (l : List α) (s : State) :
    (l.foldl f s).rmt = s.rmt := by
  induction l generalizing s with
  | nil => rfl
  | cons x r ih => rw [List.foldl_cons, ih, hf]

@[simp] theorem State.modEntry_rmt (s : State) (seq : Nat) (f : Entry → Entry) : (State.modEntry s seq f).rmt = s.rmt := rfl

@[simp] theorem State.queueFlit_rmt (s : State) (p : Nat) (f : LinkFlit) : (State.queueFlit s p f).rmt = s.rmt := rfl

@[simp] theorem State.drop_rmt (s : State) (p : Nat) : (State.drop s p).rmt = s.rmt := rfl

@[simp] theorem State.dropOutbound_rmt (s : State) (o : Outbound) : (State.dropOutbound s o).rmt = s.rmt := rfl

@[simp] theorem State.noteRemote_rmt (s : State) (o : Outbound) (r : Reply) : (State.noteRemote s o r).rmt = s.rmt := by
  unfold State.noteRemote
  split <;> rfl

@[simp] theorem State.first_rmt (s : State) (l : List Act) : (State.first s l).rmt = s.rmt := rfl

@[simp] theorem State.addOutbound_rmt (s : State) (p : Option Nat) (f : Flight) : (State.addOutbound s p f).rmt = s.rmt := rfl

@[simp] theorem State.leave_rmt (s : State) (f : Flight) (d : Dest) : (State.leave s f d).rmt = s.rmt := by
  unfold State.leave
  (repeat' split) <;> rfl

@[simp] theorem State.respond_rmt (s : State) (src : LooseSrc) (r : Reply) : (State.respond s src r).rmt = s.rmt := by
  unfold State.respond
  dsimp only
  (repeat' split) <;> simp

@[simp] theorem State.accept_rmt (s : State) (a : Loose) : (State.accept s a).rmt = s.rmt := by
  unfold State.accept
  split <;> simp

@[simp] theorem State.report_rmt (s : State) (hub : Bool) (reason die loc info : Nat) : (State.report s hub reason die loc
    info).rmt = s.rmt := rfl

@[simp] theorem State.uncorrHbm_rmt (s : State) (hb : Nat) : (State.uncorrHbm s hb).rmt = s.rmt := rfl

@[simp] theorem State.performHbm_rmt (s : State) (hb : Nat) (a : Loose) : (s.performHbm hb a).1.rmt = s.rmt := by
  unfold State.performHbm
  dsimp only
  (repeat' split) <;> simp

@[simp] theorem State.arriveHbm_rmt (s : State) (a : Loose) (hb : Nat) : (State.arriveHbm s a hb).rmt = s.rmt := by
  unfold State.arriveHbm
  split <;> simp

@[simp] theorem State.hbmStore_rmt (s : State) (a : Nat) (data : List Byte) : (State.hbmStore s a data).rmt = s.rmt := by
  unfold State.hbmStore
  simp

@[simp] theorem State.writeRecord_rmt (s : State) (r : Record) : (State.writeRecord s r).rmt = s.rmt := by
  unfold State.writeRecord
  simp

@[simp] theorem State.setRecord_rmt (s : State) (seq : Nat) (f : Record → Record) : (State.setRecord s seq f).rmt = s.rmt := by
  unfold State.setRecord
  split <;> simp

@[simp] theorem State.ringStore_rmt (s : State) (base : DWord) (off : Nat) (data : List Byte) : (State.ringStore s base off
    data).rmt = s.rmt := by
  unfold State.ringStore
  split <;> simp

@[simp] theorem State.logWrite_rmt (s : State) (r : LogRec) : (s.logWrite r).1.rmt = s.rmt := by
  unfold State.logWrite
  simp

@[simp] theorem State.logSign_rmt (s : State) : (State.logSign s).rmt = s.rmt := by
  unfold State.logSign
  simp

@[simp] theorem State.logTurn_rmt (s : State) : (State.logTurn s).rmt = s.rmt := by
  unfold State.logTurn
  split <;> simp

@[simp] theorem State.startSignLog_rmt (s : State) (r : Record) : (State.startSignLog s r).rmt = s.rmt := by
  unfold State.startSignLog
  split <;> simp

@[simp] theorem State.finishCommand_rmt (s : State) (r : Record) : (State.finishCommand s r).rmt = s.rmt := by
  unfold State.finishCommand
  (repeat' split) <;> simp

@[simp] theorem State.finishCommands_rmt (s : State) : (State.finishCommands s).rmt = s.rmt := by
  unfold State.finishCommands
  simp [foldl_rmt]

@[simp] theorem State.withdraw_rmt (s : State) (pid : Nat) : (State.withdraw s pid).rmt = s.rmt := by
  unfold State.withdraw
  (repeat' split) <;> rfl

@[simp] theorem State.saveHeader_rmt (s : State) (q : Part) : (State.saveHeader s q).rmt = s.rmt := rfl

@[simp] theorem State.faultFrozen_rmt (s : State) (pid : Nat) (l : List FRec) : (State.faultFrozen s pid l).rmt = s.rmt := by
  unfold State.faultFrozen
  split <;> simp

@[simp] theorem State.areaWrite_rmt (s : State) (q : Part) (off : Nat) (l : List Byte) : (State.areaWrite s q off l).rmt = s.rmt
    := rfl

@[simp] theorem State.refreshHeader_rmt (s : State) (pid : Nat) : (State.refreshHeader s pid).rmt = s.rmt := by
  unfold State.refreshHeader
  split <;> rfl

@[simp] theorem State.endCause_rmt (s : State) (pid c : Nat) : (State.endCause s pid c).rmt = s.rmt := by
  unfold State.endCause
  simp

@[simp] theorem State.settleXlate_rmt (s : State) (q : Part) : (State.settleXlate s q).rmt = s.rmt := by
  unfold State.settleXlate
  dsimp only
  (repeat' split) <;> simp

@[simp] theorem State.sendMgmt_rmt (s : State) (dev mtype t arg rmt : Nat) : (State.sendMgmt s dev mtype t arg rmt).rmt = s.rmt
    := rfl

@[simp] theorem State.tellOthers_rmt (s : State) (mtype t arg rmt : Nat) : (State.tellOthers s mtype t arg rmt).rmt = s.rmt := by
  unfold State.tellOthers
  exact foldl_rmt _ (fun _ _ => State.sendMgmt_rmt ..) _ _

@[simp] theorem State.settleResync_rmt (s : State) (a : Agreement) : (State.settleResync s a).rmt = s.rmt := by
  unfold State.settleResync
  dsimp only
  (repeat' split) <;> simp

@[simp] theorem State.settleResyncs_rmt (s : State) : (State.settleResyncs s).rmt = s.rmt := by
  unfold State.settleResyncs
  simp [foldl_rmt]

@[simp] theorem State.wakeHub_rmt (s : State) (k : Nat) : (State.wakeHub s k).rmt = s.rmt := by
  unfold State.wakeHub
  dsimp only
  (repeat' split) <;> simp

@[simp] theorem State.admitAnswer_rmt (s : State) (src : LooseSrc) (r : Reply) : (State.admitAnswer s src r).rmt = s.rmt := by
  unfold State.admitAnswer
  split <;> simp

@[simp] theorem State.admitInput_rmt (s : State) (i : Instr) : (State.admitInput s i).rmt = s.rmt := by
  unfold State.admitInput
  (repeat' split) <;> simp

@[simp] theorem State.groupLimits_rmt (s : State) : (State.groupLimits s).rmt = s.rmt := rfl

theorem State.beginCycle_rmt (s : State) : s.beginCycle.rmt = (s.rmt + 1) % 2 ^ 64 := by
  simp [State.beginCycle, foldl_rmt]

/-- Settles O6: each act of the agenda is one branch of the step. -/
theorem stepRunsTheAgenda : Obligations.StepRunsTheAgenda := by
  refine ⟨fun s i rest ha => by simp only [step, ha, runAct], fun s ha => ⟨by simp only [step, ha], ?_⟩,
    fun s d h rest w ws i ha hd hh hstop hfail hwait hdam => ?_⟩
  · exact State.beginCycle_rmt s
  · intro sl pc hlive hhold hbuf hcap hlim hdec
    have hcx := issuing_hub (s := { s with agenda := rest }) (hb := s.hub d h) hd hh rfl 0 0 false
    have ho := offer_buffered hcx (by simp [Cx.idle, hstop, hfail, hwait, show (s.hub d h).ctx.live = true from hlive,
      show (s.hub d h).ctx.hold = none from hhold]) rfl hbuf rfl hcap hlim hdam
    rw [step_offer ha ho, instrOf_decode hdec, ← hbuf]
    rfl

end Sys2Proof.Machine

/-! ### Faults, results, and what an issue leaves -/

namespace Sys2Proof.Machine

/-! One state operation after another of the same place. -/

theorem assocSet_assocSet {α : Type} (l : List (Nat × α)) (a : Nat) (v w : α) :
    assocSet (assocSet l a v) a w = assocSet l a w := by
  induction l with
  | nil => simp [assocSet]
  | cons d r ih =>
    obtain ⟨k, u⟩ := d
    simp only [assocSet]
    split
    · simp [assocSet]
    · next hlt =>
      split
      · simp [assocSet]
      · next hne => simp [assocSet, hlt, hne, ih]

theorem State.modTile_modTile (s : State) (t : Coord) (f g : Tile → Tile) :
    (s.modTile t f).modTile t g = s.modTile t fun tl => g (f tl) := by
  have h := State.tile_modTile_self s t f
  unfold State.modTile at h ⊢
  rw [h]
  simp only [State.setTile, assocSet_assocSet]

theorem State.modHub_modHub (s : State) (d h : Nat) (f g : Hub → Hub) :
    (s.modHub d h f).modHub d h g = s.modHub d h fun hb => g (f hb) := by
  have hs := State.hub_modHub_self s d h f
  unfold State.modHub at hs ⊢
  rw [hs]
  simp only [State.setHub, assocSet_assocSet]

theorem hubKey_inj {d h e k : Nat} (hh : h < 64) (hk : k < 64) (he : hubKey e k = hubKey d h) : (e, k) = (d, h) := by
  unfold hubKey at he
  have h1 : e = d := by omega
  have h2 : k = h := by omega
  rw [h1, h2]

theorem State.hub_modHub_ne (s : State) {d h e k : Nat} (f : Hub → Hub) (hh : h < 64) (hk : k < 64) (hne : (e, k) ≠ (d, h)) :
    (s.modHub d h f).hub e k = s.hub e k :=
  State.hub_modHub_other s f fun he => hne (hubKey_inj hh hk he)

theorem State.tile_modTile_ne (s : State) {t u : Coord} (f : Tile → Tile) (ht : t.x < 1024) (hu : u.x < 1024) (hne : u ≠ t) :
    (s.modTile t f).tile u = s.tile u :=
  State.tile_modTile_other s f fun he => hne (tileKey_inj hu ht he)

/-- A partition changed by a change that leaves its number. -/
theorem State.part_modPart (s : State) (pid n : Nat) {f : Part → Part} (hf : ∀ q, (f q).pid = q.pid) :
    (s.modPart pid f).part n = if n = pid then (s.part n).map f else s.part n := by
  have hkey : (fun q : Part => q.pid == n) ∘ (fun q => if q.pid == pid then f q else q) = fun q => q.pid == n := by
    funext q
    by_cases hq : q.pid = pid <;> simp [hq, hf]
  simp only [State.part, State.modPart_parts, List.find?_map, hkey]
  cases hfind : s.parts.find? fun q => q.pid == n with
  | none => simp
  | some q =>
    have hq : q.pid = n := by simpa using List.find?_some hfind
    by_cases hn : n = pid <;> simp [hq, hn]

@[simp] theorem Part.take_pid (q : Part) (r : FRec) : (q.take r).pid = q.pid := by
  unfold Part.take Part.withCause
  split <;> rfl

/-! ### A fault of a hub -/

/-- A report to the log is an input of a later cycle, and nothing else. -/
theorem State.reportRecord_frame (s : State) (r : FRec) :
    { s.reportRecord r with inputs := s.inputs, freeCount := s.freeCount } = s := by
  unfold State.reportRecord
  (repeat' split) <;> rfl

/-- What a faulted hub looks like: it stands with its record (R282). -/
def Hub.faulted (r : FRec) (hb : Hub) : Hub := { hb with stopped := true, hfr := r, wait := none, answer := none }

theorem State.hubFault_frame (s : State) (d h : Nat) (r : FRec) :
    { s.hubFault d h r with
      hubs := s.hubs, messages := s.messages, ticket := s.ticket, inputs := s.inputs, freeCount := s.freeCount } = s := by
  unfold State.hubFault State.reportRecord
  (repeat' split) <;> rfl

theorem State.hubFault_hubs (s : State) (d h : Nat) (r : FRec) : (s.hubFault d h r).hubs = (s.modHub d h (Hub.faulted r)).hubs := by
  unfold State.hubFault State.reportRecord
  (repeat' split) <;> rfl

theorem State.hub_hubFault (s : State) (d h e k : Nat) (r : FRec) :
    (s.hubFault d h r).hub e k = (s.modHub d h (Hub.faulted r)).hub e k := by
  have hring : (s.hubFault d h r).ring = s.ring := (congrArg State.ring (State.hubFault_frame s d h r) :)
  simp only [State.hub, State.hubFault_hubs, hring, State.modHub_ring]
  rfl

/-- The message of a faulted hub stands among the messages (R279, R282). -/
theorem State.hubFault_posts (s : State) (d h : Nat) (r : FRec) :
    ∃ m ∈ (s.hubFault d h r).messages, m.origin = true ∧ m.loc = d + 16 * h ∧ m.code = r.code ∧ m.reason = r.reason ∧ m.first = r := by
  refine ⟨_, List.mem_append_right _ (List.mem_singleton_self _), rfl, rfl, rfl, rfl, rfl⟩

/-- A partition that takes an exact fault keeps the context to offer it again (R278). -/
def Part.takeExact (c : Coord × Side × Fin 4) (r : FRec) (q : Part) : Part := { q.take r with reoffer := q.reoffer ++ [c] }

@[simp] theorem Part.takeExact_pid (c : Coord × Side × Fin 4) (r : FRec) (q : Part) : (q.takeExact c r).pid = q.pid := q.take_pid r

section
variable {cx : Cx} {s : State} (f : Flt)

/-- An exact fault in a tile touches its partition's records, and no more (R269). -/
theorem raiseExact_tile {t : Coord} {k : Side} {j : Fin 4} {tl : Tile} {q : Part} (hwh : cx.wh = .tile t k j tl q) :
    raiseExact cx f s = { s with cur := none }.modPart q.pid
      (Part.takeExact (t, k, j) (coreRecord t k j.val cx.n 0 cx.pc.toNat cx.word.toNat f)) := by
  simp only [raiseExact, hwh]
  rfl

theorem raiseExact_hub {d h : Nat} {hb : Hub} (hwh : cx.wh = .hub d h hb) :
    raiseExact cx f s = { s with cur := none }.hubFault d h (hubRecord d h s.rmt 0 cx.pc.toNat cx.word.toNat f) := by
  simp only [raiseExact, hwh]

end

/-- Settles O8: in a tile the fault is one change of its partition; on a hub it is the hub's own fault. -/
theorem faultsAreExact : Obligations.FaultsAreExact := by
  intro s cx f u
  have hlocal : u.mem = s.mem ∧ u.full = s.full ∧ u.qtags = s.qtags ∧ u.tiles = s.tiles := by
    cases hwh : cx.wh with
    | tile t k j tl q =>
      rw [show u = _ from raiseExact_tile f hwh]
      exact ⟨rfl, rfl, rfl, rfl⟩
    | hub d h hb =>
      have hframe := State.hubFault_frame { s with cur := none } d h (hubRecord d h s.rmt 0 cx.pc.toNat cx.word.toNat f)
      rw [← raiseExact_hub f hwh] at hframe
      exact ⟨(congrArg State.mem hframe :), (congrArg State.full hframe :), (congrArg State.qtags hframe :),
        (congrArg State.tiles hframe :)⟩
  obtain ⟨hmem, hfull, hqtags, htiles⟩ := hlocal
  refine ⟨hmem, hfull, hqtags, htiles, fun t k j tl q hwh => ?_, fun d h hb hwh => ?_⟩
  · rw [show u = _ from raiseExact_tile f hwh]
    refine ⟨rfl, rfl, fun n hn => ?_, fun p hp => ?_⟩
    · rw [State.part_modPart _ _ _ (Part.takeExact_pid _ _), if_neg hn]
      rfl
    · intro r
      refine ⟨p.takeExact (t, k, j) r, ?_, rfl, rfl, Part.take_causes p r, rfl, ?_, ?_, ?_⟩
      · rw [State.part_modPart _ _ _ (Part.takeExact_pid _ _), if_pos rfl]
        exact congrArg (Option.map _) hp
      · exact (congrArg Part.ss (Part.take_frame p r) :)
      · exact (congrArg Part.p (Part.take_frame p r) :)
      · exact (congrArg (fun q : Part => { q with reoffer := p.reoffer }) (Part.take_frame p r) :)
  · rw [show u = _ from raiseExact_hub f hwh]
    set r := hubRecord d h s.rmt 0 cx.pc.toNat cx.word.toNat f
    have hframe := State.hubFault_frame { s with cur := none } d h r
    have hself : (({ s with cur := none } : State).hubFault d h r).hub d h = Hub.faulted r (s.hub d h) :=
      (State.hub_hubFault ..).trans (State.hub_modHub_self ..)
    refine ⟨(congrArg State.parts hframe :), ?_, ?_, ?_, ?_, ?_, fun _ hh e k _ hk hne => ?_, ?_⟩
    · rw [hself]; rfl
    · rw [hself]; rfl
    · rw [hself]; rfl
    · rw [hself]; rfl
    · exact (congrArg (fun v : State => { v with cur := s.cur }) hframe :)
    · rw [State.hub_hubFault, State.hub_modHub_ne _ _ hh hk hne]
      rfl
    · obtain ⟨m, hm, ho, hl, hc, hr, hf⟩ := State.hubFault_posts { s with cur := none } d h r
      exact ⟨m, hm, ho, hl, hc, hr, hf.trans (by rw [hself]; rfl)⟩

end Sys2Proof.Machine

namespace Sys2Proof.Machine

/-- Settles O12: power-on lists no tile, hub, pseudo-channel or port, so each reads as power-on leaves it. -/
theorem resetState : Obligations.ResetState := by
  refine ⟨rfl, rfl, rfl, rfl, rfl, rfl, rfl, fun _ => rfl, fun t k j => ?_, fun _ => rfl, fun d h => ⟨rfl, rfl, rfl⟩,
    fun g => ⟨rfl, rfl, rfl⟩, fun p => ⟨rfl, rfl⟩⟩
  cases k <;> fin_cases j <;> exact ⟨rfl, rfl⟩

/-! ### Where results land -/

section
variable {s : State} {cx : Cx} {d : RegNo} {lat : Nat} {v : CReg}

/-- An effect that falls due in a tile stands last among the tile's effects (R28). -/
theorem due_tile {t : Coord} {k : Side} {j : Fin 4} {tl : Tile} {q : Part} (hwh : cx.wh = .tile t k j tl q) (c : Nat) (e : Eff) :
    s.due cx c e = s.modTile t fun x => { x with pend := x.pend ++ [⟨c, e⟩] } := by
  simp only [State.due, hwh]
  rfl

theorem result_tile {t : Coord} {k : Side} {j : Fin 4} {tl : Tile} {q : Part} (hwh : cx.wh = .tile t k j tl q) :
    (d = 0 → s.result cx d lat v = s) ∧
      (d ≠ 0 → ¬(k = .execute ∧ d = 29) →
        s.result cx d lat v = s.modTile t fun x => { x with pend := x.pend ++ [⟨cx.n + 4 * lat - 1, .creg k j d v⟩] }) ∧
      (k = .execute → d = 29 →
        s.result cx d lat v = s.modTile t fun x => { x with pend := x.pend ++ [⟨cx.n + 4 * lat - 1, .sqPush j v.data⟩] }) := by
  refine ⟨fun hd => ?_, fun hd hq => ?_, fun hk hd => ?_⟩
  · simp only [State.result, hwh, hd, if_true]
  · simp only [State.result, hwh, if_neg hd, if_neg hq, due_tile hwh]
  · simp only [State.result, hwh, if_neg (show d ≠ 0 by rw [hd]; decide), if_pos (And.intro hk hd), due_tile hwh]

theorem result_hub {die h : Nat} {hb : Hub} (hwh : cx.wh = .hub die h hb) :
    s.result cx d lat v = s.setHub die h
      { s.hub die h with
        ctx := { (s.hub die h).ctx with c := if d = 0 then (s.hub die h).ctx.c else (s.hub die h).ctx.c.set d v }
        damage := mend 0x21 [d.val] (s.hub die h).damage } := by
  simp only [State.result, hwh, State.modHub, Hub.writeReg, Slot.write]
  split <;> rfl

end

/-- Settles O14. -/
theorem resultsLand : Obligations.ResultsLand :=
  fun _ _ _ _ _ => ⟨fun _ _ _ _ _ hwh => result_tile hwh, fun _ _ _ hwh => result_hub hwh⟩

end Sys2Proof.Machine

namespace Sys2Proof.Machine

/-! ### What an issue leaves -/

section
variable (i : Instr) (cx : Cx) (m : List Host.Cell) (nx : Next)

/-- Whether the issue pops the load queue: a c28 source of an execute core (R12). -/
def popsLq (k : Side) (i : Instr) : Bool := k == .execute && (regUse i).srcs.contains 28

/-- The words of the fetch buffer and of the frame's buffer that an issue mends (R272). -/
def Cx.mends (l : List Damage) : List Damage :=
  mendFetch cx.regPlace.1 cx.regPlace.2 (cx.reads nx) ((cx.ownFrame.filter fun f => f.i == 0).map fun _ => cx.pc) l

/-- The core after its context has moved on: in a frame as the frame goes, else as the instruction says (R30, R118). -/
def Core.goOn (c : Core) (j : Fin 4) : Core :=
  match c.frame, cx.frame with
  | some f, true => c.frameStep cx m j f
  | _, _ => c.setSlot j (c.slots[j].advance cx m nx)

/-- The tile after an issue of slot `j` of its core `k`. -/
def Tile.goOn (k : Side) (j : Fin 4) (tl : Tile) : Tile :=
  let tl := if popsLq k i then tl.push cx.n .lqPop else tl
  let tl := tl.setCore k ((tl.core k).goOn cx m nx j)
  if cx.damage.isEmpty then tl else { tl with damage := cx.mends nx tl.damage }

/-- The hub after an issue. -/
def Hub.goOn (hb : Hub) : Hub :=
  let hb := { hb with ctx := hb.ctx.advance cx m nx }
  if cx.damage.isEmpty then hb else { hb with damage := cx.mends nx hb.damage }

end

section
variable {i : Instr} {cx : Cx} {s t : State} {nx : Next}

theorem popLq_tile {x : Coord} {k : Side} {j : Fin 4} {tl : Tile} {q : Part} (hwh : cx.wh = .tile x k j tl q) :
    t.popLq cx i = if popsLq k i then t.modTile x (fun tl => tl.push cx.n .lqPop) else t := by
  cases k <;> simp [State.popLq, hwh, popsLq, State.due]

theorem mendBuffer_tile {x : Coord} {k : Side} {j : Fin 4} {tl : Tile} {q : Part} (hwh : cx.wh = .tile x k j tl q) :
    t.mendBuffer cx nx =
      if cx.damage.isEmpty then t else t.modTile x fun tl => { tl with damage := cx.mends nx tl.damage } := by
  simp only [State.mendBuffer, hwh]
  rfl

theorem complete_tile {x : Coord} {k : Side} {j : Fin 4} {tl : Tile} {q : Part} (hwh : cx.wh = .tile x k j tl q)
    (m : List Host.Cell) : t.complete cx m nx =
      { (t.modTile x fun tl => tl.setCore k ((tl.core k).goOn cx m nx j)).mendBuffer cx nx with cur := none } := by
  have hctx (f : Slot → Slot) : t.modCtx cx f = t.modTile x fun tl => tl.setSlot k j (f (tl.slot k j)) := by
    simp only [State.modCtx, State.setCtx, State.ctx, hwh, State.modTile]
  cases hf : ((t.tile x).core k).frame with
  | none => simp only [State.complete, hwh, hf, hctx]; simp only [State.modTile, Core.goOn, hf]; rfl
  | some f =>
    cases hc : cx.frame with
    | true => simp only [State.complete, hwh, hf, hc]; simp only [State.modTile, Core.goOn, hf, hc]
    | false => simp only [State.complete, hwh, hf, hc, hctx]; simp only [State.modTile, Core.goOn, hf, hc]; rfl

theorem leave_tile {x : Coord} {k : Side} {j : Fin 4} {tl : Tile} {q : Part} (hwh : cx.wh = .tile x k j tl q) :
    leave i cx s t nx = { t.modTile x (Tile.goOn i cx s.mem nx k j) with cur := none } := by
  unfold leave Tile.goOn
  rw [complete_tile hwh, mendBuffer_tile hwh, popLq_tile hwh]
  cases cx.damage.isEmpty <;> cases popsLq k i <;>
    simp only [Bool.false_eq_true, if_true, if_false, State.modTile_modTile]

theorem leave_hub {d h : Nat} {hb : Hub} (hwh : cx.wh = .hub d h hb) :
    leave i cx s t nx = { t.modHub d h (Hub.goOn cx s.mem nx) with cur := none } := by
  have hctx (f : Slot → Slot) : t.modCtx cx f = t.modHub d h fun hb => { hb with ctx := f hb.ctx } := by
    simp only [State.modCtx, State.setCtx, State.ctx, hwh, State.modHub]
  have hmend (u : State) : u.mendBuffer cx nx =
      if cx.damage.isEmpty then u else u.modHub d h fun hb => { hb with damage := cx.mends nx hb.damage } := by
    simp only [State.mendBuffer, hwh]
    rfl
  unfold leave Hub.goOn
  simp only [State.popLq, State.complete, hwh, hctx, hmend]
  cases cx.damage.isEmpty <;> simp only [Bool.false_eq_true, if_true, if_false, State.modHub_modHub]

end

section
variable (cx : Cx) (m : List Host.Cell) (nx : Next)

/-- Moving on changes a context's PCC, fetch buffer and loop state only (R30, R95). -/
theorem Slot.goSeq_frame (sl : Slot) (a : DWord) (buf : FetchBuf) :
    { sl.goSeq cx m a buf with pcc := sl.pcc, fbuf := sl.fbuf, loop := sl.loop } = sl := by
  unfold Slot.goSeq
  (repeat' split) <;> rfl

theorem Slot.advance_frame (sl : Slot) :
    { sl.advance cx m nx with pcc := sl.pcc, fbuf := sl.fbuf, loop := sl.loop } = sl := by
  cases nx with
  | seq => exact Slot.goSeq_frame ..
  | refetch => exact Slot.goSeq_frame ..
  | jump => rfl
  | enter => cases sl; rfl
  | stay => rfl

theorem Core.frameStep_slot (c : Core) (j : Fin 4) (f : Frame) :
    { (c.frameStep cx m j f).slots[j] with pcc := c.slots[j].pcc, fbuf := c.slots[j].fbuf, loop := c.slots[j].loop } = c.slots[j] := by
  unfold Core.frameStep
  dsimp only
  split
  · simp
  · simpa using Slot.goSeq_frame ..

theorem Core.frameStep_frame (c : Core) (j : Fin 4) (f : Frame) :
    { c.frameStep cx m j f with slots := c.slots, frame := c.frame } = c := by
  unfold Core.frameStep
  dsimp only
  split <;> rfl

theorem Core.frameStep_slot_other (c : Core) {j j' : Fin 4} (f : Frame) (h : j' ≠ j) : (c.frameStep cx m j f).slots[j'] = c.slots[j'] := by
  have hne : (j : Nat) ≠ (j' : Nat) := fun e => h (Fin.ext e.symm)
  unfold Core.frameStep
  dsimp only
  split <;> simp [hne]

theorem Core.goOn_slot (c : Core) (j : Fin 4) :
    { (c.goOn cx m nx j).slots[j] with pcc := c.slots[j].pcc, fbuf := c.slots[j].fbuf, loop := c.slots[j].loop } = c.slots[j] := by
  unfold Core.goOn
  split
  · exact Core.frameStep_slot ..
  · simpa [Core.setSlot] using Slot.advance_frame ..

theorem Core.goOn_frame (c : Core) (j : Fin 4) : { c.goOn cx m nx j with slots := c.slots, frame := c.frame } = c := by
  unfold Core.goOn
  split
  · exact Core.frameStep_frame ..
  · rfl

theorem Core.goOn_slot_other (c : Core) {j j' : Fin 4} (h : j' ≠ j) : (c.goOn cx m nx j).slots[j'] = c.slots[j'] := by
  have hne : (j : Nat) ≠ (j' : Nat) := fun e => h (Fin.ext e.symm)
  unfold Core.goOn
  split
  · exact Core.frameStep_slot_other _ _ _ _ h
  · simp [Core.setSlot, hne]

/-- Outside a frame the slot goes on as its instruction says. -/
theorem Core.goOn_of_not_frame (c : Core) (j : Fin 4) (h : cx.frame = false) :
    c.goOn cx m nx j = c.setSlot j (c.slots[j].advance cx m nx) := by
  unfold Core.goOn
  split
  · next hf => rw [h] at hf; cases hf
  · rfl

/-- Only damaged words of fetch and frame buffers are mended (R272). -/
theorem Cx.mem_of_mem_mends {l : List Damage} {d : Damage} (h : d ∈ cx.mends nx l) : d ∈ l := List.mem_of_mem_filter h

theorem Cx.mem_mends {l : List Damage} {d : Damage} (h : d ∈ l) (hr : d.reason ≠ 0x24) : d ∈ cx.mends nx l :=
  List.mem_filter.2 ⟨h, by simp [hr]⟩

section
variable (i : Instr) (k : Side) (j : Fin 4) (tl : Tile)

theorem Tile.setCore_frame (c : Core) : { tl.setCore k c with access := tl.access, exec := tl.exec } = tl := by
  cases k <;> rfl

theorem Tile.goOn_frame :
    { tl.goOn i cx m nx k j with access := tl.access, exec := tl.exec, pend := tl.pend, damage := tl.damage } = tl := by
  unfold Tile.goOn
  cases k <;> (repeat' split) <;> rfl

theorem Tile.goOn_damage :
    (tl.goOn i cx m nx k j).damage = if cx.damage.isEmpty then tl.damage else cx.mends nx tl.damage := by
  unfold Tile.goOn
  cases k <;> (repeat' split) <;> rfl

theorem Tile.goOn_core : (tl.goOn i cx m nx k j).core k = (tl.core k).goOn cx m nx j := by
  unfold Tile.goOn
  cases k <;> (repeat' split) <;> rfl

theorem Tile.goOn_core_other {k' : Side} (h : k' ≠ k) : (tl.goOn i cx m nx k j).core k' = tl.core k' := by
  unfold Tile.goOn
  cases k <;> cases k' <;> first | exact absurd rfl h | ((repeat' split) <;> rfl)

theorem Tile.goOn_pend :
    (tl.goOn i cx m nx k j).pend = tl.pend ++ if popsLq k i then [⟨cx.n, .lqPop⟩] else [] := by
  unfold Tile.goOn
  cases popsLq k i <;> cases cx.damage.isEmpty <;> simp

theorem Tile.goOn_starting (k' : Side) (j' : Fin 4) : (tl.goOn i cx m nx k j).starting k' j' = tl.starting k' j' := by
  unfold Tile.starting
  rw [Tile.goOn_pend]
  split <;> simp

end

end

/-- Settles O13: an issue's leaving is `Tile.goOn` of its tile, or `Hub.goOn` of its hub. -/
theorem issueLeavesTheRest : Obligations.IssueLeavesTheRest := by
  refine ⟨fun i cx s t nx x k j tl q hwh => ?_, fun i cx s t nx d h hb hwh => ?_⟩
  · intro u a b
    have hu : u = { t.modTile x (Tile.goOn i cx s.mem nx k j) with cur := none } := leave_tile hwh
    have hb : b = a.goOn i cx s.mem nx k j := by
      show u.tile x = _
      rw [hu]
      exact State.tile_modTile_self ..
    have hdamage : b.damage = if cx.damage.isEmpty then a.damage else cx.mends nx a.damage := by rw [hb, Tile.goOn_damage]
    have hcore : b.core k = (a.core k).goOn cx s.mem nx j := by rw [hb, Tile.goOn_core]
    have hslot : b.slot k j = ((a.core k).goOn cx s.mem nx j).slots[j] := by rw [Tile.slot, hcore]
    refine ⟨by rw [hu]; rfl, by rw [hu], fun y hx hy hne => ?_, by rw [hb]; exact Tile.goOn_frame .., fun m hm => ?_, fun m hm hr => ?_,
      fun k' hk => by rw [hb, Tile.goOn_core_other _ _ _ _ _ _ _ hk], fun j' hj => ?_, ?_, ?_, ?_, fun k' j' => by rw [hb, Tile.goOn_starting],
      fun hf => ⟨?_, ?_⟩⟩
    · rw [hu]
      exact State.tile_modTile_ne _ _ hx hy hne
    · rw [hdamage] at hm
      split at hm
      · exact hm
      · exact Cx.mem_of_mem_mends _ _ hm
    · rw [hdamage]
      split
      · exact hm
      · exact Cx.mem_mends _ _ hm hr
    · rw [Tile.slot, hcore]
      exact Core.goOn_slot_other _ _ _ _ hj
    · rw [hslot]
      exact Core.goOn_slot ..
    · rw [hcore]
      exact Core.goOn_frame ..
    · rw [hb, Tile.goOn_pend]
      simp [popsLq]
    · rw [hcore, Core.goOn_of_not_frame _ _ _ _ _ hf]
      rfl
    · rw [hslot, Core.goOn_of_not_frame _ _ _ _ _ hf]
      simp [Core.setSlot]
      rfl
  · intro u a b
    have hu : u = { t.modHub d h (Hub.goOn cx s.mem nx) with cur := none } := leave_hub hwh
    have hb : b = a.goOn cx s.mem nx := by
      show u.hub d h = _
      rw [hu]
      exact State.hub_modHub_self ..
    have hctx : b.ctx = a.ctx.advance cx s.mem nx := by rw [hb, Hub.goOn]; split <;> rfl
    have hdamage : b.damage = if cx.damage.isEmpty then a.damage else cx.mends nx a.damage := by rw [hb, Hub.goOn]; split <;> rfl
    refine ⟨by rw [hu]; rfl, by rw [hu], fun _ hh e k _ hk hne => ?_, ?_, hctx, by rw [hctx]; exact Slot.advance_frame .., fun m hm => ?_,
      fun m hm hr => ?_⟩
    · rw [hu]
      exact State.hub_modHub_ne _ _ hh hk hne
    · rw [hb, Hub.goOn]
      split <;> rfl
    · rw [hdamage] at hm
      split at hm
      · exact hm
      · exact Cx.mem_of_mem_mends _ _ hm
    · rw [hdamage]
      split
      · exact hm
      · exact Cx.mem_mends _ _ hm hr

end Sys2Proof.Machine

namespace Sys2Proof.Machine

/-- A machine whose memory holds the byte 5 in the first word of tile (0, 0), and nothing else. -/
def fiveAtHome : State := { State.reset with mem := [(tileAddr ⟨0, 0⟩ 0, 5)] }

/-- A 32-bit unsigned maximum of 5 with an operand of 2^32 + 1, of which it takes the low word, leaves 5. -/
theorem amoDue_fiveAtHome :
    Mem.readLE (fiveAtHome.effectDue 0 ⟨0, 0⟩ [] (.amo 0 3 4 (2 ^ 32 + 1) 0 0 none ⟨0, 0, 0, 0, 0, 0, none⟩)).mem
      (tileAddr ⟨0, 0⟩ 0) 4 = 5 := by decide

/-- Refutes O15: the statement's value of a local atomic on 32 bits is formed from all 64 bits of the operand, where the
atomic uses the low 32 (R233): of 5 and 2^32 + 1 the unsigned maximum that falls due is 5, not 1. -/
theorem not_effectsFallDue : ¬ Obligations.EffectsFallDue := by
  intro h
  obtain ⟨-, -, hamo, -⟩ := h
  have hx := (hamo fiveAtHome 0 ⟨0, 0⟩ 0 3 false (2 ^ 32 + 1) 0 none ⟨0, 0, 0, 0, 0, 0, none⟩ (by decide) (by decide)).1
  have hread : Mem.readLE fiveAtHome.mem (tileAddr ⟨0, 0⟩ 0) 4 = 5 := by decide
  rw [show (if false then 8 else 4 : Nat) = 4 from rfl, hread] at hx
  exact absurd (amoDue_fiveAtHome.symm.trans hx) (by decide)

end Sys2Proof.Machine

/-! ### Bounds and checks of capabilities -/

namespace Sys2Proof.Machine

/-! Fields of a capability (R13). -/

section
variable {x : Quad} {p e bm lm cur : Nat}

/-- The fields that a capability's number is made of. -/
structure Fields (x : Quad) (p e bm lm cur : Nat) : Prop where
  word : x.toNat % 2 ^ 124 = p * 2 ^ 112 + e * 2 ^ 106 + bm * 2 ^ 85 + lm * 2 ^ 64 + cur
  perm : p < 2 ^ 12
  exp : e < 2 ^ 6
  bm : bm < 2 ^ 21
  lm : lm < 2 ^ 21
  cur : cur < 2 ^ 64

theorem Fields.capCur (h : Fields x p e bm lm cur) : (capCur x).toNat = cur := by
  have := h.word; have := h.cur
  rw [capCur_toNat]
  omega

theorem Fields.capE (h : Fields x p e bm lm cur) : x.toNat / 2 ^ 106 % 64 = e := by
  have := h.word; have := h.exp; have := h.bm; have := h.lm; have := h.cur
  omega

theorem Fields.decodeBounds (h : Fields x p e bm lm cur) : decodeBounds x = boundsOf e bm lm cur := by
  have := h.word; have := h.exp; have := h.bm; have := h.lm; have := h.cur
  have he : Machine.capE x = e := h.capE
  have hb : capBM x = bm := by simp only [capBM, bits]; omega
  have hl : capLM x = lm := by simp only [capLM, bits]; omega
  rw [Machine.decodeBounds, he, hb, hl, h.capCur]

theorem Fields.capPerm (h : Fields x p e bm lm cur) : (capPerm x).toNat = p := by
  have := h.word; have := h.perm; have := h.exp; have := h.bm; have := h.lm; have := h.cur
  rw [Machine.capPerm, BitVec.extractLsb'_toNat, Nat.shiftRight_eq_div_pow]
  omega

/-- Every capability has its fields. -/
theorem fields (x : Quad) :
    Fields x (x.toNat / 2 ^ 112 % 2 ^ 12) (x.toNat / 2 ^ 106 % 2 ^ 6) (x.toNat / 2 ^ 85 % 2 ^ 21) (x.toNat / 2 ^ 64 % 2 ^ 21)
      (x.toNat % 2 ^ 64) := by
  refine ⟨?_, ?_, ?_, ?_, ?_, ?_⟩ <;> omega

end

/-! The encoding of bounds (R89). -/

section
variable {base top cur e : Nat} {n : Bounds}

/-- What encode_bounds tests of an exponent, in the fields that it would write. -/
theorem boundsAt_eq_some : boundsAt base top cur e = some n ↔
    n.e = e ∧ n.base = base / 2 ^ e * 2 ^ e ∧ n.top = (top + 2 ^ e - 1) / 2 ^ e * 2 ^ e ∧ n.bm = n.base / 2 ^ e % 2 ^ 21 ∧
      n.lm = (n.top - n.base) / 2 ^ e ∧ n.lm < 2 ^ 21 ∧ boundsOf e n.bm n.lm cur = (n.base, n.top) := by
  unfold boundsAt
  dsimp only
  split
  · next h =>
    constructor
    · rintro h'
      cases h'
      exact ⟨rfl, rfl, rfl, rfl, rfl, Nat.lt_of_le_of_lt h.1 (by decide), h.2⟩
    · rintro ⟨h1, h2, h3, h4, h5, -, -⟩
      cases n
      simp only at h1 h2 h3 h4 h5
      subst h1 h2 h3 h4 h5
      rfl
  · next h =>
    constructor
    · rintro ⟨⟩
    · rintro ⟨h1, h2, h3, h4, h5, h6, h7⟩
      rw [h4, h5, h2, h3] at h7
      rw [h5, h2, h3] at h6
      exact absurd ⟨by omega, h7⟩ h

/-- encode_bounds takes the least exponent that holds the bounds, and the whole space where none does. -/
theorem encodeBounds_least (h : ¬(base = 0 ∧ top = 2 ^ 64)) :
    (∃ e < 44, boundsAt base top cur e = some (encodeBounds base top cur) ∧ ∀ e' < e, boundsAt base top cur e' = none) ∨
      ((∀ e < 44, boundsAt base top cur e = none) ∧ encodeBounds base top cur = ⟨63, 0, 0, 0, 2 ^ 64⟩) := by
  simp only [encodeBounds, if_neg h]
  cases hf : (List.range 44).findSome? (boundsAt base top cur) with
  | none => exact .inr ⟨fun e he => List.findSome?_eq_none_iff.1 hf e (List.mem_range.2 he), rfl⟩
  | some n =>
    obtain ⟨l1, e, l2, hl, hn, hl1⟩ := List.findSome?_eq_some_iff.1 hf
    have he : e ∈ List.range 44 := by rw [hl]; simp
    refine .inl ⟨e, List.mem_range.1 he, hn, fun e' he' => hl1 e' ?_⟩
    have hmem : e' ∈ List.range 44 := List.mem_range.2 (Nat.lt_trans he' (List.mem_range.1 he))
    have hsorted := List.pairwise_lt_range (n := 44)
    rw [hl] at hmem hsorted
    rcases List.mem_append.1 hmem with h1 | h1
    · exact h1
    · rcases List.mem_cons.1 h1 with h2 | h2
      · omega
      · have := (List.pairwise_cons.1 (List.pairwise_append.1 hsorted).2.1).1 e' h2
        omega

/-- The bounds that encode_bounds gives are those that its fields stand for. -/
theorem encodeBounds_bounds :
    let n := encodeBounds base top cur
    n.e < 64 ∧ n.bm < 2 ^ 21 ∧ n.lm < 2 ^ 21 ∧ boundsOf n.e n.bm n.lm cur = (n.base, n.top) := by
  intro n
  have hwhole : n = ⟨63, 0, 0, 0, 2 ^ 64⟩ → n.e < 64 ∧ n.bm < 2 ^ 21 ∧ n.lm < 2 ^ 21 ∧ boundsOf n.e n.bm n.lm cur = (n.base, n.top) := by
    intro h
    rw [h]
    exact ⟨by decide, by decide, by decide, rfl⟩
  by_cases h : base = 0 ∧ top = 2 ^ 64
  · exact hwhole (by simp only [n, encodeBounds, if_pos h])
  · rcases encodeBounds_least (cur := cur) h with ⟨e, he, hn, -⟩ | ⟨-, hn⟩
    · obtain ⟨h1, -, -, h4, -, h6, h7⟩ := boundsAt_eq_some.1 hn
      exact ⟨by simp only [n]; omega, by simp only [n]; omega, h6, by rw [h1]; exact h7⟩
    · exact hwhole hn

/-- The encoded bounds hold the ones asked for. -/
theorem encodeBounds_contains (ht : top ≤ 2 ^ 64) : (encodeBounds base top cur).base ≤ base ∧ top ≤ (encodeBounds base top cur).top := by
  by_cases h : base = 0 ∧ top = 2 ^ 64
  · simp only [encodeBounds, h.1, h.2]
    exact ⟨Nat.le_refl _, Nat.le_refl _⟩
  · rcases encodeBounds_least (cur := cur) h with ⟨e, he, hn, -⟩ | ⟨-, hn⟩
    · obtain ⟨-, hb, htop, -, -, -, -⟩ := boundsAt_eq_some.1 hn
      rw [hb, htop]
      have hpos : 0 < 2 ^ e := Nat.two_pow_pos e
      refine ⟨Nat.div_mul_le_self _ _, ?_⟩
      have := Nat.lt_div_mul_add (a := top + 2 ^ e - 1) hpos
      omega
    · rw [hn]
      exact ⟨Nat.zero_le _, ht⟩

end

/-! The forms that narrow a capability (R87 to R91). -/

section
variable (c : CReg)

theorem capFlt_eq (code : Nat) : capFlt code c = { code := code, info := c.data.toNat % 2 ^ 64 } := by
  rw [capFlt, capCur_toNat]

theorem clearTop_toNat (x : Quad) : (clearTop x).toNat = x.toNat % 2 ^ 124 := by
  rw [clearTop, BitVec.toNat_ofNat, Nat.mod_eq_of_lt (by omega)]

/-- The capability with new bounds, bits [127:124] cleared: its fields (R87, R89). -/
theorem fields_withBounds (x : Quad) {e bm lm : Nat} (he : e < 64) (hb : bm < 2 ^ 21) (hl : lm < 2 ^ 21) :
    Fields (clearTop (withBounds x e bm lm)) (x.toNat / 2 ^ 112 % 2 ^ 12) e bm lm (x.toNat % 2 ^ 64) := by
  have hx : x.toNat < 2 ^ 128 := x.isLt
  refine ⟨?_, by omega, by omega, hb, hl, by omega⟩
  rw [clearTop_toNat, withBounds, BitVec.toNat_ofNat]
  omega

/-- The capability with a new PERM, bits [127:124] cleared (R87, R88). -/
theorem clearTop_withPerm (x : Quad) (p : BitVec 12) :
    clearTop (withPerm x p) = BitVec.ofNat 128 (p.toNat * 2 ^ 112 + x.toNat % 2 ^ 112) := by
  have hx : x.toNat < 2 ^ 128 := x.isLt
  have hp : p.toNat < 2 ^ 12 := p.isLt
  apply BitVec.eq_of_toNat_eq
  rw [clearTop_toNat, withPerm, BitVec.toNat_ofNat, BitVec.toNat_ofNat]
  omega

end

/-- decode_bounds with its subtraction on integers, as R15 writes it. -/
theorem boundsOf_eq {e bm lm cur : Nat} (hb : bm < 2 ^ 21) (hc : cur < 2 ^ 64) :
    let off : Nat := bm * 2 ^ e
    let base : Nat := (((cur : Int) - off) % 2 ^ 64).toNat / 2 ^ (e + 21) * 2 ^ (e + 21) + off
    let top := base + lm * 2 ^ e
    boundsOf e bm lm cur = (if e = 63 then (0, 2 ^ 64) else if 43 < e ∨ 2 ^ 64 < top then (0, 0) else (base, top)) := by
  intro off base top
  by_cases h63 : e = 63
  · rw [boundsOf, if_pos h63, if_pos h63]
  · rw [boundsOf, if_neg h63, if_neg h63]
    by_cases h43 : 43 < e
    · rw [if_pos h43, if_pos (Or.inl h43)]
    · have hpow : 2 ^ e ≤ 2 ^ 43 := Nat.pow_le_pow_right (by decide) (by omega)
      have hoff : off < 2 ^ 64 := Nat.lt_of_le_of_lt (Nat.mul_le_mul_left bm hpow) (by omega)
      have hsub : (((cur : Int) - off) % 2 ^ 64).toNat = (cur + 2 ^ 64 - off) % 2 ^ 64 := by omega
      simp only [base, top, hsub, off, h43, if_false, false_or, gt_iff_lt]

/-- The bounds of a capability that holds nothing but bounds and a cursor. -/
theorem decodeBounds_ofNat {e bm lm : Nat} (cur : DWord) (he : e < 64) (hb : bm < 2 ^ 21) (hl : lm < 2 ^ 21) :
    decodeBounds (BitVec.ofNat 128 (e * 2 ^ 106 + bm * 2 ^ 85 + lm * 2 ^ 64 + cur.toNat)) = boundsOf e bm lm cur.toNat := by
  have hc : cur.toNat < 2 ^ 64 := cur.isLt
  refine Fields.decodeBounds (p := 0) ⟨?_, by omega, by omega, hb, hl, hc⟩
  rw [BitVec.toNat_ofNat]
  omega

/-- What cbnd answers (R88, R89). -/
theorem cbnd_outcome (d a b : RegNo) {s : State} {cx : Cx} (hr : Ready (.cbnd d a b) s cx) :
    let c := cx.read a
    let base := c.data.toNat % 2 ^ 64
    let top := base + (cx.data b).toNat % 2 ^ 64
    let n := encodeBounds base top base
    let own := decodeBounds c.data
    let fault (code : Nat) : Prop := Raises (.cbnd d a b) cx s { code := code, info := base }
    (c.tag = false → fault 0x04) ∧
    (c.tag = true → c.data.getLsbD 119 = true → fault 0x06) ∧
    (c.tag = true → c.data.getLsbD 119 = false → (2 ^ 64 < top ∨ n.base < own.1 ∨ own.2 < n.top) → fault 0x05) ∧
    (c.tag = true → c.data.getLsbD 119 = false → top ≤ 2 ^ 64 → own.1 ≤ n.base → n.top ≤ own.2 →
      ∃ r : Quad, Completes (.cbnd d a b) cx s (s.result cx d 1 ⟨r, true⟩) .seq ∧
        decodeBounds r = (n.base, n.top) ∧ n.base ≤ base ∧ top ≤ n.top ∧ capPerm r = capPerm c.data ∧ capCur r = capCur c.data ∧
        r.toNat / 2 ^ 124 = 0 ∧ r.toNat / 2 ^ 106 % 64 = n.e) := by
  intro c base top n own fault
  have hcbnd : cbndOf c ((cx.data b).toNat % 2 ^ 64) =
      if !c.tag then .error { code := 0x04, info := base }
      else if c.data.getLsbD 119 then .error { code := 0x06, info := base }
      else if 2 ^ 64 < top ∨ n.base < own.1 ∨ own.2 < n.top then .error { code := 0x05, info := base }
      else .ok ⟨clearTop (withBounds c.data n.e n.bm n.lm), true⟩ := by
    simp only [cbndOf, capFlt_eq, capCur_toNat]
    rfl
  have hraise {f : Flt} (h : cbndOf c ((cx.data b).toNat % 2 ^ 64) = .error f) : Raises (.cbnd d a b) cx s f := capForm_raises rfl hr h
  refine ⟨fun ht => hraise ?_, fun ht hs => hraise ?_, fun ht hs ho => hraise ?_, fun ht hs h1 h2 h3 => ?_⟩
  · rw [hcbnd, ht]; rfl
  · rw [hcbnd, ht, hs]; rfl
  · rw [hcbnd, ht, hs, if_pos ho]; rfl
  · have hno : ¬(2 ^ 64 < top ∨ n.base < own.1 ∨ own.2 < n.top) := by omega
    have hok : cbndOf c ((cx.data b).toNat % 2 ^ 64) = .ok ⟨clearTop (withBounds c.data n.e n.bm n.lm), true⟩ := by
      rw [hcbnd, ht, hs, if_neg hno]; rfl
    obtain ⟨he, hb, hl, hbounds⟩ := encodeBounds_bounds (base := base) (top := top) (cur := base)
    have hf := fields_withBounds c.data he hb hl
    obtain ⟨hlo, hhi⟩ := encodeBounds_contains (base := base) (cur := base) h1
    refine ⟨_, capForm_completes rfl hr hok, hf.decodeBounds.trans hbounds, hlo, hhi, ?_, ?_, ?_, ?_⟩
    · exact BitVec.eq_of_toNat_eq (hf.capPerm.trans (fields c.data).capPerm.symm)
    · exact BitVec.eq_of_toNat_eq (hf.capCur.trans (fields c.data).capCur.symm)
    · rw [clearTop_toNat]; omega
    · exact hf.capE

/-! Checks in their order: the first that fails decides (R15 to R17). -/

/-- The run of a list of checks: the fault of the first that fails, with `info`; or `v`, where none does. -/
def FirstFails {α : Type} (info : Nat) (l : List (Prop × Nat)) (run : Chk α) (v : α) : Prop :=
  (∀ pre x post, l = pre ++ x :: post → x.1 → (∀ y ∈ pre, ¬y.1) → run = .error { code := x.2, info := info }) ∧
    ((∀ x ∈ l, ¬x.1) → run = .ok v)

section
variable {α β : Type} {info : Nat} {l l' : List (Prop × Nat)} {run : Chk α} {v : α}

theorem FirstFails.nil : FirstFails info [] (.ok v : Chk α) v :=
  ⟨fun _ _ _ h => by simp at h, fun _ => rfl⟩

theorem FirstFails.cons {p : Prop} {code : Nat} {b : Prop} [Decidable b] (hb : b ↔ p) (h : FirstFails info l run v) :
    FirstFails info ((p, code) :: l) (if b then .error { code := code, info := info } else run) v := by
  refine ⟨fun pre x post hl hx hpre => ?_, fun hall => ?_⟩
  · cases pre with
    | nil =>
      cases hl
      rw [if_pos (hb.2 hx)]
    | cons y pre =>
      cases hl
      rw [if_neg fun h' => hpre _ List.mem_cons_self (hb.1 h')]
      exact h.1 _ _ _ rfl hx fun y hy => hpre y (List.mem_cons_of_mem _ hy)
  · rw [if_neg fun h' => hall _ List.mem_cons_self (hb.1 h')]
    exact h.2 fun x hx => hall x (List.mem_cons_of_mem _ hx)

/-- One run of checks after another. -/
theorem FirstFails.append {k : α → Chk β} {w : β} (h : FirstFails info l run v) (h' : FirstFails info l' (k v) w) :
    FirstFails info (l ++ l') (run >>= k) w := by
  refine ⟨fun pre x post hl hx hpre => ?_, fun hall => ?_⟩
  · rcases List.append_eq_append_iff.1 hl with ⟨t, ht, hpost⟩ | ⟨t, ht, hpost⟩
    · rw [h.2 fun y hy => hpre y (by rw [ht]; exact List.mem_append_left _ hy)]
      exact h'.1 t x post hpost hx fun y hy => hpre y (by rw [ht]; exact List.mem_append_right _ hy)
    · cases t with
      | nil =>
        rw [h.2 fun y hy => hpre y (by simpa [ht] using hy)]
        exact h'.1 [] x post (by simpa using hpost.symm) hx (by simp)
      | cons y t =>
        cases hpost
        rw [h.1 pre x t ht hx hpre]
        rfl
  · rw [h.2 fun x hx => hall x (List.mem_append_left _ hx)]
    exact h'.2 fun x hx => hall x (List.mem_append_right _ hx)

end

section
variable (c : CReg) (off : Int) (size al : Nat) (need : BitVec 12) (lo hi : Nat)

/-- The tests that check_cap and check_span share, in their order (R17, R125). -/
def capTests : List (Prop × Nat) :=
  let a := reach c off
  let b := decodeBounds c.data
  [(c.tag = false, 0x04), (c.data.getLsbD 119 = true, 0x06), (¬c.data.extractLsb' 112 12 &&& need = need, 0x06),
    (a.toNat < b.1 ∨ b.2 < a.toNat + size, 0x05)]

theorem not_hasPerm (x : Quad) (p : BitVec 12) : (!hasPerm x p) = true ↔ ¬x.extractLsb' 112 12 &&& p = p := by
  simp [hasPerm, capPerm]

theorem checkCap_firstFails : FirstFails (reach c off).toNat
    (capTests c off size need ++ [((reach c off).toNat % size ≠ 0, 0x07)]) (checkCap c off size need) (reach c off) :=
  .cons (by simp) <| .cons Iff.rfl <| .cons (not_hasPerm ..) <| .cons Iff.rfl <| .cons Iff.rfl .nil

theorem checkSpan_firstFails : FirstFails (reach c off).toNat
    (capTests c off size need ++ [((reach c off).toNat % al ≠ 0, 0x07), ((reach c off).toNat < lo ∨ hi < (reach c off).toNat + size, 0x09)])
    (checkSpan c off size need al lo hi) (reach c off).toNat :=
  .cons (by simp) <| .cons Iff.rfl <| .cons (not_hasPerm ..) <| .cons Iff.rfl <| .cons Iff.rfl <| .cons Iff.rfl .nil

theorem checkSpacePerm_firstFails (a : DWord) : FirstFails a.toNat
    [(1 ≤ a.toNat / 2 ^ 60 ∧ a.toNat / 2 ^ 60 ≤ 6 ∧ ¬c.data.extractLsb' 112 12 &&& 0x200 = 0x200, 0x06),
      (a.toNat / 2 ^ 60 = 7 ∧ ¬c.data.extractLsb' 112 12 &&& 0x800 = 0x800, 0x06)] (checkSpacePerm c a) () :=
  .cons (and_congr_right fun _ => and_congr_right fun _ => not_hasPerm ..) <| .cons (and_congr_right fun _ => not_hasPerm ..) .nil

theorem checkLocal_eq_bind : checkLocal c off size need lo hi = checkCap c off size need >>= fun a => checkSpacePerm c a >>= fun _ =>
    if a.toNat < lo ∨ hi < a.toNat + size then .error { code := fcAddrSpace, info := a.toNat } else .ok a.toNat := by
  unfold checkLocal
  cases checkCap c off size need with
  | error f => rfl
  | ok a =>
    dsimp only
    cases hp : checkSpacePerm c a with
    | error f => simp only [bind, Except.bind, hp]
    | ok u =>
      simp only [bind, Except.bind, hp]
      split <;> split <;> first | rfl | omega

theorem checkLocal_firstFails :
    let a := (reach c off).toNat
    FirstFails a
      (capTests c off size need ++ [(a % size ≠ 0, 0x07), (1 ≤ a / 2 ^ 60 ∧ a / 2 ^ 60 ≤ 6 ∧ ¬c.data.extractLsb' 112 12 &&& 0x200 = 0x200, 0x06),
        (a / 2 ^ 60 = 7 ∧ ¬c.data.extractLsb' 112 12 &&& 0x800 = 0x800, 0x06), (a < lo ∨ hi < a + size, 0x09)])
      (checkLocal c off size need lo hi) a := by
  intro a
  rw [checkLocal_eq_bind]
  exact (checkCap_firstFails c off size need).append <| (checkSpacePerm_firstFails c (reach c off)).append (.cons Iff.rfl .nil)

end

theorem reach_eq_ofInt (c : CReg) (off : Int) : reach c off = BitVec.ofInt 64 (c.data.toNat + off) := by
  rw [reach, BitVec.ofInt_add, BitVec.ofInt_natCast, BitVec.ofNat_toNat, capCur_eq_setWidth]

theorem FirstFails.map {α β : Type} {info : Nat} {l : List (Prop × Nat)} {run : Chk α} {v : α} (f : α → β)
    (h : FirstFails info l run v) : FirstFails info l (run.map f) (f v) :=
  ⟨fun pre x post hl hx hpre => by rw [h.1 pre x post hl hx hpre]; rfl, fun hall => by rw [h.2 hall]; rfl⟩

/-! cperm, cseal and cunseal (R88, R91). -/

section
variable {i : Instr} {d : RegNo} {f : Cx → Chk CReg} {s : State} {cx : Cx}

theorem cperm_outcome (a b : RegNo) (hr : Ready (.cperm d a b) s cx) :
    let c := cx.read a
    let fault (code : Nat) : Prop := Raises (.cperm d a b) cx s { code := code, info := c.data.toNat % 2 ^ 64 }
    (c.tag = false → fault 0x04) ∧ (c.tag = true → sealed c.data = true → fault 0x06) ∧
      (c.tag = true → sealed c.data = false → Completes (.cperm d a b) cx s (s.result cx d 1
        ⟨BitVec.ofNat 128 ((capPerm c.data &&& (cx.data b).setWidth 12).toNat * 2 ^ 112 + c.data.toNat % 2 ^ 112), true⟩) .seq) := by
  intro c fault
  have hraise {f : Flt} (h : cpermOf c ((cx.data b).setWidth 12) = .error f) : Raises (.cperm d a b) cx s f := capForm_raises rfl hr h
  refine ⟨fun ht => hraise ?_, fun ht hs => hraise ?_, fun ht hs => ?_⟩
  · rw [cpermOf, ht, capFlt_eq]; rfl
  · rw [cpermOf, ht, hs, capFlt_eq, capFlt_eq]; rfl
  · rw [← clearTop_withPerm]
    exact capForm_completes rfl hr (by show cpermOf c _ = _; rw [cpermOf, ht, hs]; rfl)

/-- The checks of cseal and cunseal and their result, where the form is told by what it needs and by whether it unseals (R91). -/
theorem sealForm_outcome {c k : CReg} {on was : Bool} {need np : BitVec 12} (he : exec i s = capForm i d f s)
    (hf : f cx = sealOf on c k) (hr : Ready i s cx) (hneed : need = if on then pSEAL else pUNSEAL) (hwas : was = !on)
    (hnp : np = if on then capPerm c.data ||| pSLD else capPerm c.data &&& ~~~pSLD) :
    let fault (code : Nat) : Prop := Raises i cx s { code := code, info := c.data.toNat % 2 ^ 64 }
    (c.tag = false ∨ k.tag = false → fault 0x04) ∧
    (c.tag = true → k.tag = true → (sealed k.data = true ∨ hasPerm k.data need = false ∨ sealed c.data ≠ was) → fault 0x06) ∧
    (c.tag = true → k.tag = true → sealed k.data = false → hasPerm k.data need = true → sealed c.data = was →
      ((decodeBounds c.data).1 < (decodeBounds k.data).1 ∨ (decodeBounds k.data).2 < (decodeBounds c.data).2 → fault 0x05) ∧
      ((decodeBounds k.data).1 ≤ (decodeBounds c.data).1 → (decodeBounds c.data).2 ≤ (decodeBounds k.data).2 →
        Completes i cx s (s.result cx d 1 ⟨BitVec.ofNat 128 (np.toNat * 2 ^ 112 + c.data.toNat % 2 ^ 112), true⟩) .seq)) := by
  intro fault
  subst hneed hwas hnp
  have hraise {e : Flt} (h : sealOf on c k = .error e) : Raises i cx s e := capForm_raises he hr (hf.trans h)
  have hchecks : sealOf on c k =
      if !c.tag then .error { code := 0x04, info := c.data.toNat % 2 ^ 64 }
      else if !k.tag then .error { code := 0x04, info := c.data.toNat % 2 ^ 64 }
      else if sealed k.data then .error { code := 0x06, info := c.data.toNat % 2 ^ 64 }
      else if !hasPerm k.data (if on then pSEAL else pUNSEAL) then .error { code := 0x06, info := c.data.toNat % 2 ^ 64 }
      else if sealed c.data == on then .error { code := 0x06, info := c.data.toNat % 2 ^ 64 }
      else if (decodeBounds c.data).1 < (decodeBounds k.data).1 ∨ (decodeBounds k.data).2 < (decodeBounds c.data).2 then
        .error { code := 0x05, info := c.data.toNat % 2 ^ 64 }
      else .ok ⟨clearTop (withPerm c.data (if on then capPerm c.data ||| pSLD else capPerm c.data &&& ~~~pSLD)), true⟩ := by
    simp only [sealOf, capFlt_eq]
    rfl
  refine ⟨fun h => hraise ?_, fun hc hk h => hraise ?_, fun hc hk hs hp hw => ⟨fun h => hraise ?_, fun h1 h2 => ?_⟩⟩
  · rw [hchecks]
    cases hc : c.tag <;> simp_all
  · rw [hchecks, hc, hk]
    cases hs : sealed k.data <;> cases hp : hasPerm k.data (if on then pSEAL else pUNSEAL) <;> simp_all
  · have hb : (sealed c.data == on) = false := by rw [hw]; cases on <;> rfl
    simp only [hchecks, hc, hk, hs, hp, hb, if_pos h, Bool.not_true, Bool.false_eq_true, if_false]
  · rw [← clearTop_withPerm]
    refine capForm_completes he hr (hf.trans ?_)
    have hno : ¬((decodeBounds c.data).1 < (decodeBounds k.data).1 ∨ (decodeBounds k.data).2 < (decodeBounds c.data).2) := by omega
    have hb : (sealed c.data == on) = false := by rw [hw]; cases on <;> rfl
    simp only [hchecks, hc, hk, hs, hp, hb, if_neg hno, Bool.not_true, Bool.false_eq_true, if_false]

end

/-- Settles O18: cbnd by the fields of its result, encode_bounds by its search for the least exponent, and the checks as chains
of tests of which the first that fails decides. -/
theorem capabilityNarrowing : Obligations.CapabilityNarrowing := by
  refine ⟨fun d a b s cx hr => cbnd_outcome d a b hr, fun base top cur ht => ?_, fun c cur => ⟨?_, ?_⟩,
    fun c off size al need lo hi => ?_, fun d a b s cx => ⟨fun hr => cperm_outcome a b hr, fun i need was np hi hr => ?_⟩⟩
  · intro n fits
    have hfits {e b t : Nat} (he : e < 44) (h : fits e b t) :
        boundsAt base top cur.toNat e = some ⟨e, b / 2 ^ e % 2 ^ 21, (t - b) / 2 ^ e, b, t⟩ := by
      obtain ⟨hb, ht, hl, hd⟩ := h
      rw [decodeBounds_ofNat cur (by omega) (Nat.mod_lt _ (by decide)) hl] at hd
      exact boundsAt_eq_some.2 ⟨rfl, hb, ht, rfl, rfl, hl, hd⟩
    refine ⟨fun h1 h2 => by simp only [n, encodeBounds, h1, h2, and_self, if_true], fun hne => ?_⟩
    rcases encodeBounds_least (cur := cur.toNat) hne with ⟨e, he, hn, hleast⟩ | ⟨hnone, hn⟩
    · obtain ⟨h1, h2, h3, h4, h5, h6, h7⟩ := boundsAt_eq_some.1 hn
      refine ⟨fun e' he' hlt b t h => ?_, .inl ⟨h1.trans_lt he, ⟨?_, ?_, ?_, ?_⟩, ?_, ?_⟩⟩
      · have := hfits he' h
        rw [hleast e' (hlt.trans_eq h1)] at this
        cases this
      · rw [h1]; exact h2
      · rw [h1]; exact h3
      · rw [h1, ← h5]; exact h6
      · rw [h1, decodeBounds_ofNat cur (by omega) (Nat.mod_lt _ (by decide)) (by rw [← h5]; exact h6), ← h4, ← h5]
        exact h7
      · rw [h1]; exact h4
      · rw [h1]; exact h5
    · refine ⟨fun e he _ b t h => ?_, .inr hn⟩
      have := hfits he h
      rw [hnone e he] at this
      cases this
  · have hc : (c.toNat : Int) % 2 ^ 64 = ((c.toNat % 2 ^ 64 : Nat) : Int) := by omega
    rw [(fields c).decodeBounds, hc]
    exact boundsOf_eq (by omega) (by omega)
  · rw [representable_eq, beq_iff_eq]
    rfl
  · rw [← reach_eq_ofInt]
    exact ⟨(checkCap_firstFails c off size need).map _, checkLocal_firstFails .., checkSpan_firstFails ..⟩
  · rcases hi with ⟨rfl, rfl, rfl, rfl⟩ | ⟨rfl, rfl, rfl, rfl⟩
    · exact sealForm_outcome (on := true) rfl rfl hr rfl rfl rfl
    · exact sealForm_outcome (on := false) rfl rfl hr rfl rfl rfl

end Sys2Proof.Machine

/-! ### Branches, jumps and loops -/

namespace Sys2Proof.Machine

section
variable {i : Instr} {s : State} {cx : Cx}

/-- The target of a relative jump (R92, R93). -/
theorem add_signExtend_shiftLeft {w : Nat} (pc : DWord) (off : BitVec w) :
    pc + off.signExtend 64 <<< 2 = BitVec.ofInt 64 (pc.toNat + 4 * off.toInt) := by
  rw [BitVec.ofInt_add, BitVec.ofInt_natCast, BitVec.ofNat_toNat, BitVec.setWidth_eq, BitVec.ofInt_mul, BitVec.mul_comm,
    BitVec.shiftLeft_eq_mul_twoPow, BitVec.signExtend]
  rfl

theorem branch_goes {c : BrCond} {a b : RegNo} {off : BitVec 16} (he : exec i s = branch i c a b off s) {taken : Prop}
    (ht : c.taken (cx.data a) (cx.data b) = true ↔ taken) :
    let dest : DWord := BitVec.ofInt 64 (cx.pc.toNat + 4 * off.toInt)
    Ready i s cx →
      (taken → Completes i cx s s (.jump ⟨withCur cx.slot.pcc.data dest, cx.slot.pcc.tag && representable cx.slot.pcc.data dest⟩)) ∧
      (¬taken → Completes i cx s s .seq) := by
  intro dest hr
  have hdest : branchTarget cx.pc off = dest := add_signExtend_shiftLeft ..
  refine ⟨fun h => completes_of he hr rfl ?_, fun h => completes_of he hr rfl ?_⟩
  · rw [if_pos (ht.2 h), hdest]
    rfl
  · rw [if_neg fun h' => h (ht.1 h')]

/-- Clearing a bit that is set takes its weight away. -/
theorem toNat_clearBit {w k : Nat} {x : BitVec w} (h : x.getLsbD k = true) : (x &&& ~~~(1#w <<< k)).toNat = x.toNat - 2 ^ k := by
  have hk : k < w := BitVec.lt_of_getLsbD h
  have hadd : (x &&& ~~~BitVec.twoPow w k) + BitVec.twoPow w k = x := by
    rw [BitVec.add_eq_or_of_and_eq_zero _ _ (by rw [BitVec.and_assoc, BitVec.and_comm (~~~_), BitVec.and_not_self]; simp)]
    ext i hi
    by_cases hik : i = k
    · subst hik
      simp [← BitVec.getLsbD_eq_getElem, h, hi]
    · simp [BitVec.getElem_twoPow, hik]
  have hle : BitVec.twoPow w k ≤ x := by
    rw [BitVec.le_def, BitVec.toNat_twoPow_of_lt hk]
    exact Nat.ge_two_pow_of_testBit h
  rw [← BitVec.twoPow_eq, ← BitVec.toNat_twoPow_of_lt hk, ← BitVec.toNat_sub_of_le hle]
  exact congrArg _ (eq_sub_of_add_eq hadd)

theorem hasPerm_pX (x : Quad) : hasPerm x pX = x.getLsbD 114 := by
  have hx : capPerm x &&& pX = if x.getLsbD 114 then pX else 0 := by
    have := BitVec.and_twoPow (capPerm x) 2
    rwa [capPerm, BitVec.getLsbD_extractLsb'] at this
  rw [hasPerm, hx]
  cases x.getLsbD 114 <;> rfl

/-- jr unseals a tagged, sealed capability with X (R94). -/
theorem enterCap_eq (v : CReg) :
    (v.tag = true → v.data.getLsbD 119 = true → v.data.getLsbD 114 = true → enterCap v = ⟨v.data &&& ~~~(1#128 <<< 119), true⟩) ∧
      (¬(v.tag = true ∧ v.data.getLsbD 119 = true ∧ v.data.getLsbD 114 = true) → enterCap v = v) := by
  refine ⟨fun ht hs hp => ?_, fun h => ?_⟩
  · rw [enterCap, sealed, hasPerm_pX, ht, hs, hp]
    have hbit : (capPerm v.data).getLsbD 7 = true := by rw [capPerm, BitVec.getLsbD_extractLsb']; exact hs
    have hperm : (capPerm v.data &&& ~~~pSLD).toNat = (capPerm v.data).toNat - 2 ^ 7 := toNat_clearBit hbit
    have hle : 2 ^ 7 ≤ (capPerm v.data).toNat := Nat.ge_two_pow_of_testBit hbit
    have hv : v.data.toNat < 2 ^ 128 := v.data.isLt
    refine congrArg (CReg.mk · true) (BitVec.eq_of_toNat_eq ?_)
    rw [toNat_clearBit hs, withPerm, BitVec.toNat_ofNat, hperm]
    rw [capPerm, BitVec.extractLsb'_toNat, Nat.shiftRight_eq_div_pow] at hle ⊢
    omega
  · rw [enterCap, sealed, hasPerm_pX, if_neg (by simpa [and_assoc] using h)]

theorem moveCursor_eq (c : CReg) (cur : DWord) : moveCursor c cur =
    ⟨BitVec.ofNat 128 (c.data.toNat % 2 ^ 124 / 2 ^ 64 * 2 ^ 64 + cur.toNat), c.tag && representable c.data cur⟩ := by
  rw [← moveCursor_data]
  rfl

end

/-! What the fetch buffer holds after an issue (R30). -/

section
variable (cx : Cx) (m : List Host.Cell) {ga : Nat → Nat} {size : Nat}

/-- The instruction memory of an issue: a tile's 32 KiB or a hub's 256 KiB (R19, R198). -/
def Fetches (cx : Cx) (ga : Nat → Nat) (size : Nat) : Prop := cx.fetchLimit = size ∧ ∀ o, cx.fetchAddr o = ga o

theorem fetches_of_place
    (h : (∃ t k j tl q, cx.wh = .tile t k j tl q ∧ ga = tileAddr t ∧ size = 0x8000) ∨
      ∃ d h hb, cx.wh = .hub d h hb ∧ ga = hubAddr d h ∧ size = 0x40000) : Fetches cx ga size := by
  rcases h with ⟨t, k, j, tl, q, hwh, rfl, rfl⟩ | ⟨d, h, hb, hwh, rfl, rfl⟩
  · exact ⟨by rw [Cx.fetchLimit, hwh], fun o => by rw [Cx.fetchAddr, hwh]⟩
  · exact ⟨by rw [Cx.fetchLimit, hwh], fun o => by rw [Cx.fetchAddr, hwh]⟩

theorem fetchWord_w (hf : Fetches cx ga size) {o : DWord} (h : o.toNat + 4 ≤ size) :
    (cx.fetchWord m o).w = BitVec.ofNat 32 (Mem.readLE m (ga o.toNat) 4) := by
  rw [Cx.fetchWord, hf.1, if_pos h, hf.2]

theorem refill_words (hf : Fetches cx ga size) (o : DWord) :
    let word (o : DWord) : Word := BitVec.ofNat 32 (Mem.readLE m (ga o.toNat) 4)
    (cx.refill m o).base = o ∧
      (o.toNat + 16 ≤ size → (cx.refill m o).words.map FWord.w = [word o, word (o + 4), word (o + 8), word (o + 12)]) := by
  refine ⟨rfl, fun h => ?_⟩
  have hsize : size ≤ 2 ^ 62 := by rw [← hf.1, Cx.fetchLimit]; split <;> decide
  have h4 : (o + 4).toNat = o.toNat + 4 := by bv_omega
  have h8 : (o + 8).toNat = o.toNat + 8 := by bv_omega
  have h12 : (o + 12).toNat = o.toNat + 12 := by bv_omega
  simp only [Cx.refill, List.map_cons, List.map_nil]
  rw [fetchWord_w cx m hf (by omega), fetchWord_w cx m hf (by omega), fetchWord_w cx m hf (by omega), fetchWord_w cx m hf (by omega)]

section
variable {sl : Slot}

theorem Slot.goSeq_of_not_active (h : sl.loop.active = false) (a : DWord) (buf : FetchBuf) :
    sl.goSeq cx m a buf = { sl with pcc := stepPcc sl.pcc a, fbuf := buf } := by
  rw [Slot.goSeq, h]
  rfl

theorem Slot.goTo_of_not_active (h : sl.loop.active = false) (pcc : CReg) :
    sl.goTo cx m pcc = { sl with pcc := pcc, fbuf := cx.refill m (capCur pcc.data) } := by
  rw [Slot.goTo, h]
  rfl

end

end

/-- Settles O19: each form is one completion, and what it leaves of a slot without a loop is one equation of the slot. -/
theorem branchesAndJumps : Obligations.BranchesAndJumps := by
  refine ⟨fun a b off s cx => ⟨?_, ?_, ?_, ?_, ?_, ?_⟩, fun a off s cx => ⟨fun hr => ?_, fun hr => ?_, fun hr => ?_, fun hr => ?_,
    fun hr => ?_, fun sl m dest ga size hl hplace => ?_⟩⟩
  · exact branch_goes rfl (by simp [BrCond.taken])
  · exact branch_goes rfl (by simp [BrCond.taken])
  · exact branch_goes rfl (by simp [BrCond.taken, BitVec.slt_eq_decide])
  · exact branch_goes rfl (by simp [BrCond.taken, BitVec.slt_eq_decide])
  · exact branch_goes rfl (by simp [BrCond.taken, BitVec.ult_eq_decide])
  · exact branch_goes rfl (by simp [BrCond.taken, BitVec.ult_eq_decide])
  · rw [← add_signExtend_shiftLeft]
    exact completes_of (Eq.refl (execJ off s)) hr rfl rfl
  · rw [← add_signExtend_shiftLeft, ← moveCursor_eq]
    exact completes_of (Eq.refl (execJl off s)) hr rfl rfl
  · have hjr : Completes (.jr a) cx s s (.jump (enterCap (cx.read a))) := completes_of (Eq.refl (execJr a s)) hr rfl rfl
    obtain ⟨hu, hk⟩ := enterCap_eq (cx.read a)
    exact ⟨fun ht hs hp => hu ht hs hp ▸ hjr, fun h => hk h ▸ hjr⟩
  · exact completes_of (Eq.refl (execNop s)) hr rfl rfl
  · exact completes_of (Eq.refl (execIfence s)) hr rfl rfl
  · have hf := fetches_of_place cx hplace
    intro word four rest go re
    have hword {o : DWord} (h : o.toNat + 4 ≤ size) : (cx.fetchWord m o).w = word o := fetchWord_w cx m hf h
    refine ⟨?_, ?_, ?_, rfl⟩
    · rw [show go = _ from Slot.goTo_of_not_active cx m hl dest]
      exact ⟨rfl, refill_words cx m hf _, rfl⟩
    · rw [show re = _ from Slot.goSeq_of_not_active cx m hl (cx.pc + 4) _]
      exact ⟨rfl, refill_words cx m hf _, rfl⟩
    · intro nx hnx n
      have hn : n = { sl with pcc := stepPcc sl.pcc (cx.pc + 4), fbuf := cx.shift m cx.pc sl.fbuf } := by
        rcases hnx with rfl | rfl
        · exact Slot.goSeq_of_not_active cx m hl (cx.pc + 4) _
        · rfl
      rw [hn]
      exact ⟨rfl, rfl, rfl, _, rfl, hword⟩

end Sys2Proof.Machine

namespace Sys2Proof.Machine

/-! ### Loops -/

section
variable {cx : Cx} {m : List Host.Cell} {sl : Slot}

theorem capCur_stepPcc (c : CReg) (a : DWord) : capCur (stepPcc c a).data = a := capCur_withCur ..
theorem capCur_movePcc (c : CReg) (a : DWord) : capCur (movePcc c a).data = a := capCur_withCur ..

/-- At LE with LC above 1 the context goes back to LS (R95). -/
theorem Slot.goSeq_back {a : DWord} {buf : FetchBuf} (hl : sl.loop.active = true) (ha : a = sl.loop.le) (hc : 1 < sl.loop.lc.toNat) :
    sl.goSeq cx m a buf = { sl with
      pcc := movePcc sl.pcc sl.loop.ls, fbuf := cx.refill m sl.loop.ls, loop := { sl.loop with lc := sl.loop.lc - 1 } } := by
  rw [Slot.goSeq, hl, ha, beq_self_eq_true, Bool.and_self, if_pos rfl, if_pos hc]

/-- At LE with LC at 1 the loop ends (R95). -/
theorem Slot.goSeq_end {a : DWord} {buf : FetchBuf} (hl : sl.loop.active = true) (ha : a = sl.loop.le) (hc : sl.loop.lc.toNat ≤ 1) :
    sl.goSeq cx m a buf = { sl with pcc := stepPcc sl.pcc a, fbuf := buf, loop := { sl.loop with active := false } } := by
  subst ha
  rw [Slot.goSeq, hl, beq_self_eq_true, Bool.and_self, if_pos rfl, if_neg (Nat.not_lt.2 hc)]

theorem Slot.goSeq_on {a : DWord} {buf : FetchBuf} (ha : a ≠ sl.loop.le) :
    sl.goSeq cx m a buf = { sl with pcc := stepPcc sl.pcc a, fbuf := buf } := by
  rw [Slot.goSeq, beq_false_of_ne ha, Bool.and_false, if_neg Bool.false_ne_true]

/-- A loop's own next address, with no loop-back decision (R95). -/
theorem Slot.advance_enter (sl : Slot) (cx : Cx) (m : List Host.Cell) :
    sl.advance cx m .enter = { sl with pcc := stepPcc sl.pcc (cx.pc + 4), fbuf := cx.shift m cx.pc sl.fbuf } := rfl

theorem loop_outcome {a : RegNo} {len : BitVec 16} {s : State} (hr : Ready (.loop a len) s cx) :
    let n : BitVec 32 := (cx.data a).setWidth 32
    let ls := cx.pc + 4
    let le := cx.pc + 4 + BitVec.ofNat 64 (4 * len.toNat)
    let put (l : LoopSt) : State := s.modCtx cx fun sl => { sl with loop := l }
    (cx.slot.loop.active = true → Raises (.loop a len) cx s { code := 0x01 }) ∧
    (cx.slot.loop.active = false → n = 0 →
      Completes (.loop a len) cx s (put ⟨ls, le, 0, false⟩)
        (.jump ⟨withCur cx.slot.pcc.data le, cx.slot.pcc.tag && representable cx.slot.pcc.data le⟩)) ∧
    (cx.slot.loop.active = false → n ≠ 0 → Completes (.loop a len) cx s (put ⟨ls, le, n, true⟩) .enter) := by
  intro n ls le put
  refine ⟨fun h => raises_of (Eq.refl (execLoop a len s)) hr rfl ?_, fun h hn => completes_of (Eq.refl (execLoop a len s)) hr rfl ?_,
    fun h hn => completes_of (Eq.refl (execLoop a len s)) hr rfl ?_⟩
  · rw [if_pos h]; rfl
  · rw [if_neg (by rw [h]; decide), if_pos hn]; rfl
  · rw [if_neg (by rw [h]; decide), if_neg hn]; rfl

end

/-- Settles O20: the three ways on at LE and the redirects, each one equation of the slot. -/
theorem loops : Obligations.Loops := by
  refine ⟨fun a len s cx hr => loop_outcome hr, fun sl cx m hl => ?_⟩
  intro nxt
  have hnxt : nxt = sl.goSeq cx m (cx.pc + 4) (cx.shift m cx.pc sl.fbuf) := rfl
  refine ⟨fun ha hc => ?_, fun ha hc => ?_, fun ha => ?_, fun ha hc => ?_, fun h => ?_, ?_, fun pcc => ?_⟩
  · rw [hnxt, Slot.goSeq_back hl ha hc]
    exact ⟨rfl, capCur_movePcc .., rfl⟩
  · rw [hnxt, Slot.goSeq_end hl ha hc]
    exact ⟨rfl, capCur_stepPcc ..⟩
  · rw [hnxt, Slot.goSeq_on ha]
    exact ⟨rfl, capCur_stepPcc ..⟩
  · rw [hnxt, Slot.goSeq_back hl ha hc]
    exact ⟨rfl, rfl⟩
  · by_cases ha : cx.pc + 4 = sl.loop.le
    · rw [hnxt, Slot.goSeq_end hl ha (h.resolve_left fun h' => h' ha)]
      exact ⟨rfl, rfl⟩
    · rw [hnxt, Slot.goSeq_on ha]
      exact ⟨rfl, rfl⟩
  · intro ent
    rw [show ent = _ from Slot.advance_enter ..]
    exact ⟨rfl, rfl, rfl⟩
  · intro a far
    have hfar : far = sl.goTo cx m pcc := rfl
    rw [hfar, Slot.goTo, hl]
    cases hin : sl.loop.inside (capCur pcc.data) with
    | true => exact ⟨rfl, rfl, ⟨fun _ => of_decide_eq_true hin, fun _ => hl⟩, rfl⟩
    | false => exact ⟨rfl, rfl, ⟨nofun, fun h => absurd h (of_decide_eq_false hin)⟩, rfl⟩

/-! ### hold and rep -/

section
variable {cx : Cx} {s : State} {tc : TileCx}

theorem wh_of_tile (h : cx.tile = .ok tc) : cx.wh = .tile tc.t tc.k tc.j tc.tile tc.part := by
  unfold Cx.tile at h
  split at h
  · next hwh => cases h; exact hwh
  · cases h

theorem hold_outcome {a : RegNo} (hr : Ready (.hold a) s cx) (ht : cx.tile = .ok tc) :
    let t := (cx.data a).toNat % 2 ^ 64
    (t < (tc.part.tb + cx.n) % 2 ^ 64 → Raises (.hold a) cx s { code := 0x10, reason := 0x01, info := t }) ∧
    ((tc.part.tb + cx.n) % 2 ^ 64 ≤ t →
      Completes (.hold a) cx s (s.modTile tc.t fun tl => tl.setSlot tc.k tc.j { tl.slot tc.k tc.j with hold := some (BitVec.ofNat 64 t) })
        .seq) := by
  intro t
  have hwh := wh_of_tile ht
  have ht' : ((cx.data a).setWidth 64).toNat = t := BitVec.toNat_setWidth ..
  have htime : cx.time = (tc.part.tb + cx.n) % 2 ^ 64 := by rw [Cx.time, hwh]
  have hctx (f : Slot → Slot) : s.modCtx cx f = s.modTile tc.t fun tl => tl.setSlot tc.k tc.j (f (tl.slot tc.k tc.j)) := by
    simp only [State.modCtx, State.setCtx, State.ctx, hwh, State.modTile]
  refine ⟨fun h => raises_of (Eq.refl (execHold a s)) hr rfl ?_, fun h => completes_of (Eq.refl (execHold a s)) hr rfl ?_⟩
  · dsimp only
    rw [ht', htime, if_pos h]
    rfl
  · dsimp only
    rw [ht', htime, if_neg (Nat.not_lt.2 h), hctx, show BitVec.ofNat 64 t = (cx.data a).setWidth 64 by
      rw [← ht', BitVec.ofNat_toNat, BitVec.setWidth_eq]]

theorem holdExpiry_ends {t : Coord} {k : Side} {j : Fin 4} {q : Part} {target : DWord} (hq : s.partOf t = some q)
    (hh : ((s.tile t).slot k j).hold = some target) (hj : q.cyc % 4 = j.val) (ht : target.toNat ≤ (q.tb + q.cyc) % 2 ^ 64) :
    exec (.holdExpiry t k j) s = .next (s.modTile t fun tl => tl.setSlot k j { tl.slot k j with hold := none }) := by
  show execHoldExpiry t k j s = _
  simp only [execHoldExpiry, hq, hh, hj, ht, and_self, if_true]

theorem rep_outcome {n : BitVec 8} {len : BitVec 4} {ds as bs es : BitVec 3} (hr : Ready (.rep n len ds as bs es) s cx)
    (ht : cx.tile = .ok tc) :
    let i : Instr := .rep n len ds as bs es
    let l := cx.slot.loop
    let past := l.active = true ∧ l.ls.toNat ≤ cx.pc.toNat ∧ cx.pc.toNat + 4 ≤ l.le.toNat ∧
      l.le.toNat ≤ (cx.pc + BitVec.ofNat 64 (4 * (len.toNat + 1))).toNat
    ((tc.tile.core tc.k).frame ≠ none → Raises i cx s { code := 0x03 }) ∧
    ((tc.tile.core tc.k).frame = none → past → Raises i cx s { code := 0x01 }) ∧
    ((tc.tile.core tc.k).frame = none → ¬past →
      Completes i cx s (s.modTile tc.t fun tl => tl.setCore tc.k { tl.core tc.k with
        frame := some ⟨tc.j, cx.pc + 4, [], n.toNat + 1, len.toNat + 1, ds.toNat, as.toNat, bs.toNat, es.toNat, 0, 0⟩ }) .enter) := by
  intro i l past
  have hwh := wh_of_tile ht
  have hpast : (cx.slot.loop.active && cx.slot.loop.inside cx.pc &&
      decide (cx.slot.loop.le.toNat ≤ (cx.pc + BitVec.ofNat 64 (4 * (len.toNat + 1))).toNat)) = true ↔ past := by
    simp [LoopSt.inside, past, l, and_assoc]
  have he := Eq.refl (execRep n len ds as bs es s)
  refine ⟨fun h => raises_of he hr rfl ?_, fun h hp => raises_of he hr rfl ?_, fun h hp => completes_of he hr rfl ?_⟩
  · simp only [hwh]
    rw [if_pos (Option.isSome_iff_ne_none.2 h)]
    rfl
  · simp only [hwh, h]
    rw [if_neg (by decide), if_pos (hpast.2 hp)]
    rfl
  · simp only [hwh, h]
    rw [if_neg (by decide), if_neg (mt hpast.1 hp)]

/-- The word that a context issues in iteration 0 of its frame, from its fetch buffer (R118). -/
def Cx.captured (cx : Cx) (sl : Slot) : FWord := sl.fbuf.words.headD ⟨cx.word, false⟩

theorem frameStep_some {m : List Host.Cell} {c : Core} {f g : Frame} {j : Fin 4} (h : f.next (cx.captured c.slots[j]) = some g) :
    (c.frameStep cx m j f).frame = some g ∧ capCur ((c.frameStep cx m j f).slots[j]).pcc.data = g.base + BitVec.ofNat 64 (4 * g.j) := by
  unfold Core.frameStep
  dsimp only
  split
  · next g' hg =>
    cases hg.symm.trans h
    refine ⟨rfl, ?_⟩
    simpa using capCur_stepPcc ..
  · next hg => cases hg.symm.trans h

theorem frameStep_none {m : List Host.Cell} {c : Core} {f : Frame} {j : Fin 4} (h : f.next (cx.captured c.slots[j]) = none) :
    (c.frameStep cx m j f).frame = none ∧ ((c.slots[j]).loop.active = false →
      capCur ((c.frameStep cx m j f).slots[j]).pcc.data = f.base + BitVec.ofNat 64 (4 * f.len)) := by
  unfold Core.frameStep
  dsimp only
  split
  · next g hg => cases hg.symm.trans h
  · refine ⟨rfl, fun hl => ?_⟩
    rw [Slot.goSeq_of_not_active _ _ hl]
    simpa using capCur_stepPcc ..

theorem frameStep_outcome (m : List Host.Cell) (c : Core) (f : Frame) (j : Fin 4) :
    let u := c.frameStep cx m j f
    let cur := capCur (u.slots[j]).pcc.data
    let words := if f.i = 0 then f.words ++ [(c.slots[j]).fbuf.words.headD ⟨cx.word, false⟩] else f.words
    (f.j + 1 < f.len → u.frame = some { f with j := f.j + 1, words := words } ∧ cur = f.base + BitVec.ofNat 64 (4 * (f.j + 1))) ∧
    (f.len ≤ f.j + 1 → f.i + 1 < f.n → u.frame = some { f with i := f.i + 1, j := 0, words := words } ∧ cur = f.base) ∧
    (f.len ≤ f.j + 1 → f.n ≤ f.i + 1 → u.frame = none ∧
      ((c.slots[j]).loop.active = false → cur = f.base + BitVec.ofNat 64 (4 * f.len))) := by
  intro u cur words
  have hnext : f.next (cx.captured c.slots[j]) = if f.j + 1 < f.len then some { f with j := f.j + 1, words := words }
      else if f.i + 1 < f.n then some { f with i := f.i + 1, j := 0, words := words } else none := by
    unfold Frame.next
    by_cases hi : f.i = 0
    · simp only [words, hi, if_true]
      rfl
    · simp only [words, hi, if_false]
  refine ⟨fun h => ?_, fun h h' => ?_, fun h h' => ?_⟩
  · exact frameStep_some (hnext.trans (if_pos h))
  · obtain ⟨hf, hc⟩ := frameStep_some (m := m) (hnext.trans ((if_neg (Nat.not_lt.2 h)).trans (if_pos h')))
    exact ⟨hf, hc.trans (by simp)⟩
  · exact frameStep_none (hnext.trans ((if_neg (Nat.not_lt.2 h)).trans (if_neg (Nat.not_lt.2 h'))))

end

/-- Settles O21: hold and rep by their one issue each, the frame by what its next word is. -/
theorem holdAndRep : Obligations.HoldAndRep := by
  refine ⟨fun a n len ds as bs es s cx die h hb hat hwh => ?_, ⟨fun a s cx tc hr ht => hold_outcome hr ht,
    fun t k j s q target hq hh hj ht => holdExpiry_ends hq hh hj ht⟩, fun n len ds as bs es s cx tc => ?_⟩
  · have hkind : cx.kind = .hub := by rw [Cx.kind, hwh]
    exact ⟨raises_core rfl hat (coreChecks_core (by rw [hkind]; rfl) rfl), raises_core rfl hat (coreChecks_core (by rw [hkind]; rfl) rfl)⟩
  · intro i hr ht l past
    obtain ⟨h1, h2, h3⟩ := rep_outcome hr ht
    refine ⟨h1, h2, h3, fun c f j hf => ?_⟩
    intro u cur words
    obtain ⟨f1, f2, f3⟩ := frameStep_outcome (cx := cx) s.mem c f j
    refine ⟨f1, f2, f3, Core.frameStep_frame .., fun j' hj => Core.frameStep_slot_other _ _ _ _ hj⟩

end Sys2Proof.Machine

/-! ### Loads and stores of local memory -/

namespace Sys2Proof.Machine

section
variable {i : Instr} {s : State} {cx : Cx} {tc : TileCx} {tile : TileCx → Cx → State → Chk State}
  {hub : Nat → Nat → Cx → State → Chk (State × Next)}

theorem memForm_completes (he : exec i s = memForm i tile hub s) (hr : Ready i s cx) (ht : cx.tile = .ok tc) {t : State}
    (hf : tile tc cx s = .ok t) : Completes i cx s t .seq :=
  completes_of he hr rfl (by simp only [wh_of_tile ht, hf])

theorem memForm_raises (he : exec i s = memForm i tile hub s) (hr : Ready i s cx) (ht : cx.tile = .ok tc) {f : Flt}
    (hf : tile tc cx s = .error f) : Raises i cx s f :=
  raises_of he hr rfl (by simp only [wh_of_tile ht, hf])

/-- Sign extension, as the model computes it (R73). -/
theorem ofInt_sextNat (m w n : Nat) : BitVec.ofInt n (sextNat m w) = (BitVec.ofNat w m).signExtend n := by
  rw [BitVec.signExtend, BitVec.toInt_eq_toNat_cond, BitVec.toNat_ofNat, sextNat]
  congr 1
  split <;> split <;> first | rfl | omega

theorem LdForm.value_sign (size lat m : Nat) (need : BitVec 12) (b tag : Bool) :
    LdForm.value ⟨size, need, b, lat, .sign⟩ m tag = ⟨(BitVec.ofNat (8 * size) m).signExtend 128, false⟩ := by
  rw [← ofInt_sextNat]
  rfl

variable {d a : RegNo} {off : BitVec 12}

/-- A load form of a tile: the fault of its check, then that of a damaged word, then its result (R98, R99, R272). -/
theorem tileLoad_outcome {f : LdForm} (he : exec i s = loadForm i f d a off s) (ht : cx.tile = .ok tc) (hr : Ready i s cx) :
    let check := checkLocal (cx.read a) off.toInt f.size f.need (winLo f.bonded) (winHi f.bonded)
    (∀ e, check = .error e → Raises i cx s e) ∧
    ∀ o, check = .ok o →
      (∀ e, tc.tile.eccAt o f.size = some e → Raises i cx s e) ∧
      (tc.tile.eccAt o f.size = none →
        Completes i cx s (s.result cx d f.lat
          (f.value (Mem.readLE s.mem (tileAddr tc.t o) f.size) (s.qtags.contains (tileAddr tc.t o)))) .seq) := by
  refine ⟨fun e hc => memForm_raises he hr ht ?_,
    fun o hc => ⟨fun e hd => memForm_raises he hr ht ?_, fun hd => memForm_completes he hr ht ?_⟩⟩ <;>
    simp only [tileLoad, *]

/-- A store form of a tile: the fault of its check, or the store due at the end of n + 3 (R98). -/
theorem tileStore_outcome {f : StForm} (he : exec i s = storeForm i f d a off s) (ht : cx.tile = .ok tc) (hr : Ready i s cx) :
    let check := checkLocal (cx.read a) off.toInt f.size f.need (winLo f.bonded) (winHi f.bonded)
    (∀ e, check = .error e → Raises i cx s e) ∧
    ∀ o, check = .ok o → Completes i cx s
      (s.due cx (cx.n + 3) (.store o (leBytes f.size (cx.data d).toNat) (f.cap && (cx.read d).tag) f.full (storeWriter tc))) .seq := by
  refine ⟨fun e hc => memForm_raises he hr ht ?_, fun o hc => memForm_completes he hr ht ?_⟩
  · simp only [tileStore, hc]
  · simp only [tileStore, hc]; rfl

end

/-- Settles O22: every load form is `tileLoad` with its own size, extension and latency. -/
theorem tileLoads : Obligations.TileLoads := by
  intro d a off s cx tc ht load
  have of (i : Instr) (f : LdForm) (he : exec i s = loadForm i f d a off s) :
      load i f.size f.lat f.need (winLo f.bonded) (winHi f.bonded) fun o m => f.value m (s.qtags.contains (tileAddr tc.t o)) :=
    tileLoad_outcome he ht
  refine ⟨?_, ?_, ?_, ?_, ?_, ?_, ?_, ?_, ?_⟩
  · have h := of (.ldB d a off) ⟨1, pLD, false, 2, .sign⟩ (Eq.refl (execLdB d a off s))
    simp only [LdForm.value_sign] at h
    exact h
  · exact of (.ldBu d a off) ⟨1, pLD, false, 2, .zero⟩ (Eq.refl (execLdBu d a off s))
  · have h := of (.ldH d a off) ⟨2, pLD, false, 2, .sign⟩ (Eq.refl (execLdH d a off s))
    simp only [LdForm.value_sign] at h
    exact h
  · exact of (.ldHu d a off) ⟨2, pLD, false, 2, .zero⟩ (Eq.refl (execLdHu d a off s))
  · exact of (.ldW d a off) ⟨4, pLD, false, 2, .zero⟩ (Eq.refl (execLdW d a off s))
  · exact of (.ldD d a off) ⟨8, pLD, false, 2, .zero⟩ (Eq.refl (execLdD d a off s))
  · exact of (.ldQ d a off) ⟨16, pLD, false, 2, .quad⟩ (Eq.refl (execLdQ d a off s))
  · exact of (.ldC d a off) ⟨16, pLD ||| pLDC, false, 2, .cap⟩ (Eq.refl (execLdC d a off s))
  · exact of (.ldbQ d a off) ⟨16, pLD, true, 3, .quad⟩ (Eq.refl (execLdbQ d a off s))

/-- Settles O24: every store form is `tileStore` with its own size, tag and full bit. -/
theorem tileStores : Obligations.TileStores := by
  intro d a off s cx tc ht store
  have of (i : Instr) (f : StForm) (he : exec i s = storeForm i f d a off s) :
      store i f.size f.need (winLo f.bonded) (winHi f.bonded) (f.cap && (cx.read d).tag) f.full := tileStore_outcome he ht
  exact ⟨of (.stB d a off) ⟨1, pST, false, false, false⟩ (Eq.refl (execStB d a off s)),
    of (.stH d a off) ⟨2, pST, false, false, false⟩ (Eq.refl (execStH d a off s)),
    of (.stW d a off) ⟨4, pST, false, false, false⟩ (Eq.refl (execStW d a off s)),
    of (.stD d a off) ⟨8, pST, false, false, false⟩ (Eq.refl (execStD d a off s)),
    of (.stQ d a off) ⟨16, pST, false, false, false⟩ (Eq.refl (execStQ d a off s)),
    of (.stC d a off) ⟨16, pST ||| pSTC, false, true, false⟩ (Eq.refl (execStC d a off s)),
    of (.stFe d a off) ⟨8, pST ||| pFE, false, false, true⟩ (Eq.refl (execStFe d a off s)),
    of (.stbQ d a off) ⟨16, pST, true, false, false⟩ (Eq.refl (execStbQ d a off s))⟩

theorem clearedNow_iff (tl : Tile) (o n : Nat) :
    tl.clearedNow o n = true ↔ ∃ p ∈ tl.pend, p.due = n ∧ ∃ k j, p.eff = .fullClear k j o := by
  simp only [Tile.clearedNow, List.any_eq_true, Bool.and_eq_true, beq_iff_eq]
  refine exists_congr fun p => and_congr_right fun _ => and_congr_right fun _ => ?_
  cases p.eff <;> simp

/-- Settles O23: ld.fe, ld.lq and st.sq are tile forms whose tests stand in the order of their faults. -/
theorem fullEmptyAndQueues : Obligations.FullEmptyAndQueues := by
  refine ⟨fun d a off s cx tc o hr ht hc => ?_, fun a off s cx tc o ht => ⟨fun hr hc => ?_, fun hr hc => ?_⟩⟩
  · intro taken
    replace hc : checkLocal (cx.read a) off.toInt 8 (pLD ||| pFE) 0 0x8000 = .ok o := hc
    have he : exec (.ldFe d a off) s = execLdFe d a off s := rfl
    have htaken : (tc.k == .execute && tc.tile.clearedNow o cx.n) = true ↔ taken := by
      rw [Bool.and_eq_true, beq_iff_eq, clearedNow_iff]
    have hgood (hfull : s.isFull tc.t o = true) (hfree : ¬taken) :
        (!s.isFull tc.t o || (tc.k == .execute && tc.tile.clearedNow o cx.n)) = false := by
      rw [hfull, Bool.eq_false_iff.2 (htaken.not.2 hfree)]
      rfl
    refine ⟨fun h => tileForm_raises he hr ht ?_,
      fun f hfull hfree hd => tileForm_raises he hr ht ?_,
      fun hfull hfree hd => tileForm_completes he hr ht ?_⟩
    · have hbad : (!s.isFull tc.t o || (tc.k == .execute && tc.tile.clearedNow o cx.n)) = true := by
        rwa [Bool.or_eq_true, Bool.not_eq_true', htaken]
      simp only [hc, if_pos hbad]
      rfl
    · simp [hc, hgood hfull hfree, hd]
    · simp [hc, hgood hfull hfree, hd, CReg.plain]
  · replace hc : checkLocal (cx.read a) off.toInt 16 pLD 0 0x8000 = .ok o := hc
    have he : exec (.ldLq a off) s = execLdLq a off s := rfl
    refine ⟨fun h => tileForm_raises he hr ht ?_,
      fun f h hd => tileForm_raises he hr ht ?_,
      fun h hd => tileForm_completes he hr ht ?_⟩
    · simp only [hc, if_pos h]
      rfl
    · simp only [hc, if_neg (Nat.not_le.2 h), hd]
    · simp only [hc, if_neg (Nat.not_le.2 h), hd]
      rfl
  · replace hc : checkLocal (cx.read a) off.toInt 16 pST 0 0x8000 = .ok o := hc
    have he : exec (.stSq a off) s = execStSq a off s := rfl
    refine ⟨fun h => tileForm_raises he hr ht ?_,
      fun h hd => tileForm_raises he hr ht ?_,
      fun v l h hd => tileForm_completes he hr ht ?_⟩
    · simp only [hc, h]
      rfl
    · obtain ⟨v, l, h⟩ := List.exists_cons_of_ne_nil h
      simp only [hc, h, hd, if_true]
      rfl
    · simp [hc, h, hd]

end Sys2Proof.Machine

/-! ### A hub's accesses -/

namespace Sys2Proof.Machine

/-! Bytes and little-endian values (R5). -/

@[simp] theorem leBytes_length (n v : Nat) : (leBytes n v).length = n := by
  induction n generalizing v with
  | zero => rfl
  | succ n ih => simp [leBytes, ih]

theorem leNat_leBytes (n v : Nat) : leNat (leBytes n v) = v % 2 ^ (8 * n) := by
  induction n generalizing v with
  | zero => simp [leBytes, leNat, Nat.mod_one]
  | succ n ih =>
    rw [leBytes, leNat, ih, BitVec.toNat_ofNat, Nat.mul_succ, Nat.add_comm (8 * n), Nat.pow_add, Nat.mod_mul]

theorem Mem.read_write_self {m : List Host.Cell} (a : Nat) (l : List Byte) (h : Mem.wf m = true) :
    Mem.read (Mem.write m a l) a l.length = l :=
  List.ext_getElem (by simp [Mem.read]) fun i h1 h2 => by simp [Mem.read, Mem.get_write_self l h2 h]

theorem Mem.readLE_write_self {m : List Host.Cell} (a n v : Nat) (h : Mem.wf m = true) :
    Mem.readLE (Mem.write m a (leBytes n v)) a n = v % 2 ^ (8 * n) := by
  have := Mem.read_write_self a (leBytes n v) h
  rw [leBytes_length] at this
  rw [Mem.readLE, this, leNat_leBytes]

/-- An aligned access of at most a quad touches one quad. -/
theorem blocks_quad {a size : Nat} (hs : size ∈ [1, 2, 4, 8, 16]) (ha : a % size = 0) : blocks a size 16 = [a / 16 * 16] := by
  have : (a + size + 16 - 1) / 16 - a / 16 = 1 := by
    simp only [List.mem_cons, List.not_mem_nil, or_false] at hs
    rcases hs with rfl | rfl | rfl | rfl | rfl <;> omega
  rw [blocks, this]
  rfl

theorem mem_insertSorted {l : List Nat} {a q : Nat} : q ∈ insertSorted l a ↔ q = a ∨ q ∈ l := by
  induction l with
  | nil => simp [insertSorted]
  | cons b r ih =>
    rw [insertSorted]
    split
    · exact List.mem_cons
    · split
      · next h => simp [h]
      · rw [List.mem_cons, ih, List.mem_cons, or_left_comm]

theorem mem_eraseAll {l : List Nat} {a q : Nat} : q ∈ eraseAll l a ↔ q ∈ l ∧ q ≠ a := by
  simp [eraseAll]

theorem contains_setMember (l : List Nat) (a q : Nat) (b : Bool) :
    (setMember l a b).contains q = if q = a then b else l.contains q := by
  cases b
  · by_cases h : q = a <;> simp [setMember, mem_eraseAll, h]
  · by_cases h : q = a <;> simp [setMember, mem_insertSorted, h]

section
variable {i : Instr} {s : State} {cx : Cx} {die h : Nat} {hb : Hub} {tile : TileCx → Cx → State → Chk State}
  {hub : Nat → Nat → Cx → State → Chk (State × Next)}

theorem memForm_completes_hub (he : exec i s = memForm i tile hub s) (hr : Ready i s cx) (hw : cx.wh = .hub die h hb) {t : State}
    {nx : Next} (hf : hub die h cx s = .ok (t, nx)) : Completes i cx s t nx :=
  completes_of he hr rfl (by simp only [hw, hf])

theorem memForm_raises_hub (he : exec i s = memForm i tile hub s) (hr : Ready i s cx) (hw : cx.wh = .hub die h hb) {f : Flt}
    (hf : hub die h cx s = .error f) : Raises i cx s f :=
  raises_of he hr rfl (by simp only [hw, hf])

variable {c : CReg} {off : Int} {size : Nat} {need : BitVec 12} {ad cmp : DWord} {op : LooseOp} {data : List Byte}
  {fin : List Byte → Bool → State → State}

/-- An access of a hub to its own SRAM, of which no word is damaged, acts at once (R198). -/
theorem hubAccess_own (hc : checkCap c off size need = .ok ad) (hlow : ad.toNat < 0x40000) (hd : (s.hub die h).damage = [])
    {t : State} {bytes : List Byte} {tag : Bool}
    (hp : s.performSram die h ad.toNat ⟨.hub die h, op, ad, size, data, cmp, false⟩ = (t, .ok bytes tag)) :
    hubAccess cx die h i c off size need op data cmp fin s = .ok (fin bytes tag t, .seq) := by
  have hsp : spaceOf ad = 0 := Nat.div_eq_of_lt (by omega)
  have hecc : (s.hub die h).eccAt ad.toNat size = none := by
    simp [Hub.eccAt, hd, damaged]
  simp only [hubAccess, hc, checkSpacePerm_local c (show ad.toNat < 2 ^ 60 by omega), hsp, sramOff, if_pos hlow, if_true, hecc, hp]

/-- A hub's store that is performed in its own SRAM (R18, R198, R217). -/
def State.sramStored (s : State) (die h off size v : Nat) (tag : Bool) : State :=
  let ga := hubAddr die h off
  { s.modHub die h fun hb => { hb with damage := mend 0x27 (blocks off size 8) hb.damage } with
    mem := Mem.write s.mem ga (leBytes size v)
    qtags := setMember s.qtags (ga / 16 * 16) tag }

end

theorem hubAddr_mod {size : Nat} (hs : size ∈ [1, 2, 4, 8, 16]) (die h off : Nat) : hubAddr die h off % size = off % size := by
  simp only [List.mem_cons, List.not_mem_nil, or_false] at hs
  rcases hs with rfl | rfl | rfl | rfl | rfl <;> simp only [hubAddr] <;> omega

theorem performSram_write {s : State} {die h off size v : Nat} {a : Loose} (hs : size ∈ [1, 2, 4, 8, 16]) (hal : off % size = 0)
    (hd : a.data = leBytes size v) (hsz : a.size = size) :
    (a.op = .write → s.performSram die h off a = (s.sramStored die h off size v false, .ok [] false)) ∧
      ∀ tag, a.op = .writeCap tag → s.performSram die h off a = (s.sramStored die h off size v tag, .ok [] false) := by
  have htake : a.data.take a.size = leBytes size v := by rw [hd, hsz, List.take_of_length_le (leBytes_length ..).le]
  refine ⟨fun hop => ?_, fun tag hop => ?_⟩
  · have hb := blocks_quad hs ((hubAddr_mod hs die h off).trans hal)
    rw [State.performSram, hop, htake, hsz]
    simp only [hb]
    rfl
  · rw [State.performSram, hop, htake, hsz]
    rfl

section
variable {s : State} {die h off size v : Nat} {tag : Bool}

theorem sramStored_reads (hw : Mem.wf s.mem = true) :
    let u := s.sramStored die h off size v tag
    let ga := hubAddr die h off
    Mem.readLE u.mem ga size = v % 2 ^ (8 * size) ∧
      (∀ b, (b < ga ∨ ga + size ≤ b) → Mem.get u.mem b = Mem.get s.mem b) ∧ u.tiles = s.tiles ∧ u.parts = s.parts ∧
      (u.hub die h).ctx = (s.hub die h).ctx ∧
      ∀ q, u.qtags.contains q = if q = ga / 16 * 16 then tag else s.qtags.contains q := by
  refine ⟨Mem.readLE_write_self _ _ _ hw, fun b hb => Mem.get_write_other _ (by rwa [leBytes_length]) hw, rfl, rfl, ?_,
    fun q => contains_setMember ..⟩
  exact (congrArg Hub.ctx (State.hub_modHub_self s die h fun hb => { hb with damage := mend 0x27 (blocks off size 8) hb.damage }) :)

end

/-! Accesses to another space (R145, R232). -/

section
variable {i : Instr} {s : State} {cx : Cx} {die h : Nat} {hb : Hub} {tile : TileCx → Cx → State → Chk State}
  {c : CReg} {off : Int} {size : Nat} {need : BitVec 12} {ad : DWord} {op : LooseOp} {data : List Byte}
  {fin : List Byte → Bool → State → State}

theorem hubAccess_other (hc : checkCap c off size need = .ok ad) (hp : checkSpacePerm c ad = .ok ()) (hsp : spaceOf ad ≠ 0)
    (hop : opClass op = 0) (hamo : ∀ f w, op ≠ .amo f w) {cmp : DWord} : hubAccess cx die h i c off size need op data cmp fin s =
      hubRemote cx die h i ad op size data cmp (hasPerm c.data pSYS) fin s := by
  cases op with
  | amo f w => exact absurd rfl (hamo f w)
  | _ => simp only [hubAccess, hc, hp, if_neg hsp]

/-- The hub blocks until `w` (R145). -/
def State.blockHub (s : State) (die h : Nat) (w : Wait) : State := s.modHub die h fun x => { x with wait := some w }

/-- A hub's access sent to its home, or the fault of its route (R232). -/
def State.sendHub (u : State) (die h : Nat) (i : Instr) (ad : DWord) (op : LooseOp) (size : Nat) (data : List Byte) (sys : Bool)
    (n : Nat) (via : List (Nat × Nat)) : Chk (State × Next) :=
  match u.routeAccess n size with
  | .error f => .error { f with info := ad.toNat }
  | .ok (dest, _) =>
    .ok ((u.sendLoose ⟨.hub die h, op, BitVec.ofNat 64 n, size, data, 0, sys⟩ dest via).blockHub die h (.answer i), .stay)

variable {sys : Bool}

theorem hubRemote_sends (hop : opClass op = 0) (ha : (s.hub die h).answer = none) (h3 : spaceOf ad ≠ 3) :
    hubRemote cx die h i ad op size data 0 sys fin s = s.sendHub die h i ad op size data sys ad.toNat [] := by
  simp only [hubRemote, ha, if_neg h3, State.sendHub, hop, Nat.not_lt_zero, if_false]
  rfl

theorem hubRemote_reserved (ha : (s.hub die h).answer = none) (h3 : spaceOf ad = 3) (hb : ad.toNat % 2 ^ 60 / 2 ^ 48 ≠ 0) :
    hubRemote cx die h i ad op size data 0 sys fin s = .error { code := 0x09, info := ad.toNat } := by
  have hbits : (bits ad.toNat 59 48 != 0) = true := by
    rw [bits, bne_iff_ne]
    omega
  simp only [hubRemote, ha, if_pos h3, hbits, if_true]
  rfl

theorem hubRemote_translates (hop : opClass op = 0) (ha : (s.hub die h).answer = none) (h3 : spaceOf ad = 3)
    (hb : ad.toNat % 2 ^ 60 / 2 ^ 48 = 0) :
    let asid := (s.hub die h).hasid.toNat
    let va := ad.toNat % 2 ^ 48
    (∀ u n cls e, s.xlateAt die asid va (opNeed op) true = .hit u n cls e →
      hubRemote cx die h i ad op size data 0 sys fin s = u.sendHub die h i ad op size data sys n [(die, e)]) ∧
    ∀ full, s.xlateAt die asid va (opNeed op) true = .miss full → hubRemote cx die h i ad op size data 0 sys fin s =
      .ok ((s.askXlate die h true (opKind op) asid va full).1.blockHub die h
        (.translation (s.askXlate die h true (opKind op) asid va full).2), .stay) := by
  have hbits : (bits ad.toNat 59 48 != 0) = false := by
    rw [bits, bne_eq_false_iff_eq]
    omega
  have hva : bits ad.toNat 47 0 = ad.toNat % 2 ^ 48 := by rw [bits, Nat.pow_zero, Nat.div_one]
  refine ⟨fun u n cls e hx => ?_, fun full hx => ?_⟩
  · simp only [hubRemote, ha, if_pos h3, hbits, Bool.false_eq_true, if_false, hva, hx, State.sendHub, hop, Nat.not_lt_zero]
    rfl
  · simp only [hubRemote, ha, if_pos h3, hbits, Bool.false_eq_true, if_false, hva, hx]
    rfl

theorem hubRemote_answer {bytes : List Byte} {tag : Bool} (ha : (s.hub die h).answer = some (.ok bytes tag)) :
    hubRemote cx die h i ad op size data 0 sys fin s = .ok (fin bytes tag (s.modHub die h fun x => { x with answer := none }), .seq) := by
  simp only [hubRemote, ha, replyFlt]

theorem hubRemote_fault {r : Reply} {f : Flt} (ha : (s.hub die h).answer = some r) (hf : replyFlt ad.toNat r = some f) :
    hubRemote cx die h i ad op size data 0 sys fin s = .error f := by
  simp only [hubRemote, ha, hf]

end

section
variable {i : Instr} {s : State} {cx : Cx} {die h : Nat} {hb : Hub} {d a : RegNo} {off : BitVec 12} {ad : DWord}

theorem hubLoad_own {f : LdForm} (he : exec i s = loadForm i f d a off s) (hw : cx.wh = .hub die h hb) (hlow : ad.toNat < 0x40000)
    (hd : (s.hub die h).damage = []) (hr : Ready i s cx) (hc : checkCap (cx.read a) off.toInt f.size f.need = .ok ad) :
    Completes i cx s (s.result cx d 1 (f.value (Mem.readLE s.mem (hubAddr die h ad.toNat) f.size)
      (f.kind = .cap && s.qtags.contains (hubAddr die h ad.toNat)))) .seq := by
  have hecc : (s.hub die h).eccAt ad.toNat f.size = none := by simp [Hub.eccAt, hd, damaged]
  refine memForm_completes_hub he hr hw (hubAccess_own hc hlow hd ?_)
  · by_cases hk : f.kind = .cap
    · simp only [State.performSram, hk, hecc, if_true]; rfl
    · simp only [State.performSram, hk, hecc, if_false]; rfl

theorem checkCap_aligned {c : CReg} {o : Int} {size : Nat} {need : BitVec 12} (hc : checkCap c o size need = .ok ad) :
    ad.toNat % size = 0 := by
  unfold checkCap at hc
  dsimp only at hc
  repeat' split at hc
  all_goals cases hc
  next h => exact not_not.1 h

theorem hubStore_own {f : StForm} (he : exec i s = storeForm i f d a off s) (hw : cx.wh = .hub die h hb) (hlow : ad.toNat < 0x40000)
    (hd : (s.hub die h).damage = []) (hs : f.size ∈ [1, 2, 4, 8, 16]) (hr : Ready i s cx)
    (hc : checkCap (cx.read a) off.toInt f.size f.need = .ok ad) :
    Completes i cx s (s.sramStored die h ad.toNat f.size (cx.data d).toNat (f.cap && (cx.read d).tag)) .seq := by
  obtain ⟨plain, tagged⟩ := performSram_write (s := s) (die := die) (h := h) hs (checkCap_aligned hc) (v := (cx.data d).toNat)
    (a := ⟨.hub die h, if f.cap then .writeCap (cx.read d).tag else .write, ad, f.size, leBytes f.size (cx.data d).toNat, 0, false⟩) rfl rfl
  refine memForm_completes_hub he hr hw (hubAccess_own (fin := fun _ _ s => s) (bytes := []) (tag := false) hc hlow hd ?_)
  · by_cases hcap : f.cap = true
    · rw [show (f.cap && (cx.read d).tag) = (cx.read d).tag by rw [hcap, Bool.true_and]]
      exact tagged _ (if_pos hcap)
    · rw [show (f.cap && (cx.read d).tag) = false by rw [Bool.eq_false_iff.2 hcap, Bool.false_and]]
      exact plain (if_neg hcap)

section
variable {c : CReg} {need : BitVec 12} {size : Nat} {op : LooseOp} {data : List Byte} {fin : List Byte → Bool → State → State}
  {tile : TileCx → Cx → State → Chk State} {hub : Nat → Nat → Cx → State → Chk (State × Next)} {o : Int}

/-- What an access of a hub to another space answers: sent or translated where no answer stands, else the answer's end (R145, R232). -/
theorem hubRemote_outcome (he : exec i s = memForm i tile hub s) (hw : cx.wh = .hub die h hb) (hsp : spaceOf ad ≠ 0)
    (hhub : hub die h cx s = hubAccess cx die h i c o size need op data 0 fin s)
    (hop : opClass op = 0) (hamo : ∀ f w, op ≠ .amo f w) (hr : Ready i s cx)
    (hc : checkCap c o size need = .ok ad) (hp : checkSpacePerm c ad = .ok ()) :
    let asid := (s.hub die h).hasid.toNat
    let sent (u : State) (n : Nat) (via : List (Nat × Nat)) : Prop :=
      (∀ f, u.routeAccess n size = .error f → Raises i cx s { f with info := ad.toNat }) ∧
      ∀ dest path, u.routeAccess n size = .ok (dest, path) → Completes i cx s
        ((u.sendLoose ⟨.hub die h, op, BitVec.ofNat 64 n, size, data, 0, hasPerm c.data 0x800⟩ dest via).blockHub die h (.answer i)) .stay
    let va := ad.toNat % 2 ^ 48
    ((s.hub die h).answer = none → spaceOf ad ≠ 3 → sent s ad.toNat []) ∧
    ((s.hub die h).answer = none → spaceOf ad = 3 →
      (ad.toNat % 2 ^ 60 / 2 ^ 48 ≠ 0 → Raises i cx s { code := 0x09, info := ad.toNat }) ∧
      (ad.toNat % 2 ^ 60 / 2 ^ 48 = 0 →
        (∀ u n cls e, s.xlateAt die asid va (opNeed op) true = .hit u n cls e → sent u n [(die, e)]) ∧
        ∀ full, s.xlateAt die asid va (opNeed op) true = .miss full → Completes i cx s
          ((s.askXlate die h true (opKind op) asid va full).1.blockHub die h
            (.translation (s.askXlate die h true (opKind op) asid va full).2)) .stay)) ∧
    (∀ bytes tag, (s.hub die h).answer = some (.ok bytes tag) →
      Completes i cx s (fin bytes tag (s.modHub die h fun x => { x with answer := none })) .seq) ∧
    ((s.hub die h).answer = some .refused → Raises i cx s { code := 0x21, info := ad.toNat }) ∧
    ((s.hub die h).answer = some .pathDown → Raises i cx s { code := 0x2A, info := ad.toNat }) := by
  intro asid sent va
  have hrem := hhub.trans (hubAccess_other (cx := cx) (i := i) hc hp hsp hop hamo)
  have completes {t : State} {nx : Next}
      (hf : hubRemote cx die h i ad op size data 0 (hasPerm c.data pSYS) fin s = .ok (t, nx)) : Completes i cx s t nx :=
    memForm_completes_hub he hr hw (hrem.trans hf)
  have raises {f : Flt} (hf : hubRemote cx die h i ad op size data 0 (hasPerm c.data pSYS) fin s = .error f) : Raises i cx s f :=
    memForm_raises_hub he hr hw (hrem.trans hf)
  have sends {u : State} {n : Nat} {via : List (Nat × Nat)} (hf : hubRemote cx die h i ad op size data 0 (hasPerm c.data pSYS) fin s =
      u.sendHub die h i ad op size data (hasPerm c.data pSYS) n via) : sent u n via :=
    ⟨fun f hroute => raises (hf.trans (by simp only [State.sendHub, hroute])),
      fun dest path hroute => completes (hf.trans (by simp only [State.sendHub, hroute]; rfl))⟩
  refine ⟨fun ha h3 => sends (hubRemote_sends hop ha h3), fun ha h3 => ⟨fun hb => raises (hubRemote_reserved ha h3 hb), fun hb => ?_⟩,
    fun bytes tag ha => completes (hubRemote_answer ha), fun ha => raises (hubRemote_fault ha rfl), fun ha => raises (hubRemote_fault ha rfl)⟩
  obtain ⟨hit, miss⟩ := hubRemote_translates (cx := cx) (i := i) (size := size) (data := data) (fin := fin)
    (sys := hasPerm c.data pSYS) hop ha h3 hb
  exact ⟨fun u n cls e hx => sends (hit u n cls e hx), fun full hx => completes (miss full hx)⟩

end

end

/-- Settles O25: every load and store form on a hub is `hubAccess` with its own operation, in its own SRAM or through
`hubRemote`. -/
theorem hubAccesses : Obligations.HubAccesses := by
  refine ⟨fun d a off s cx die h hb ad hw hlow hd => ?_, fun d a off s cx die h hb ad hw hsp => ?_⟩
  · intro ga load store
    have loads (i : Instr) (f : LdForm) (he : exec i s = loadForm i f d a off s) :
      load i f.size f.need fun m => f.value m (f.kind = .cap && s.qtags.contains ga) := hubLoad_own he hw hlow hd
    have stores (i : Instr) (f : StForm) (he : exec i s = storeForm i f d a off s) (hs : f.size ∈ [1, 2, 4, 8, 16]) :
      store i f.size f.need (f.cap && (cx.read d).tag) := fun hr hc hm =>
      ⟨_, hubStore_own he hw hlow hd hs hr hc, sramStored_reads hm⟩
    refine ⟨?_, ?_, ?_, ?_, ?_, ?_, ?_, ?_, ?_, ?_, ?_, ?_, ?_, ?_⟩
    · have h := loads (.ldB d a off) ⟨1, pLD, false, 2, .sign⟩ (Eq.refl (execLdB d a off s))
      simp only [LdForm.value_sign] at h
      exact h
    · exact loads (.ldBu d a off) ⟨1, pLD, false, 2, .zero⟩ (Eq.refl (execLdBu d a off s))
    · have h := loads (.ldH d a off) ⟨2, pLD, false, 2, .sign⟩ (Eq.refl (execLdH d a off s))
      simp only [LdForm.value_sign] at h
      exact h
    · exact loads (.ldHu d a off) ⟨2, pLD, false, 2, .zero⟩ (Eq.refl (execLdHu d a off s))
    · exact loads (.ldW d a off) ⟨4, pLD, false, 2, .zero⟩ (Eq.refl (execLdW d a off s))
    · exact loads (.ldD d a off) ⟨8, pLD, false, 2, .zero⟩ (Eq.refl (execLdD d a off s))
    · exact loads (.ldQ d a off) ⟨16, pLD, false, 2, .quad⟩ (Eq.refl (execLdQ d a off s))
    · exact loads (.ldC d a off) ⟨16, pLD ||| pLDC, false, 2, .cap⟩ (Eq.refl (execLdC d a off s))
    · exact stores (.stB d a off) ⟨1, pST, false, false, false⟩ (Eq.refl (execStB d a off s)) (by decide)
    · exact stores (.stH d a off) ⟨2, pST, false, false, false⟩ (Eq.refl (execStH d a off s)) (by decide)
    · exact stores (.stW d a off) ⟨4, pST, false, false, false⟩ (Eq.refl (execStW d a off s)) (by decide)
    · exact stores (.stD d a off) ⟨8, pST, false, false, false⟩ (Eq.refl (execStD d a off s)) (by decide)
    · exact stores (.stQ d a off) ⟨16, pST, false, false, false⟩ (Eq.refl (execStQ d a off s)) (by decide)
    · exact stores (.stC d a off) ⟨16, pST ||| pSTC, false, true, false⟩ (Eq.refl (execStC d a off s)) (by decide)
  · intro asid waits form load store
    have loads (i : Instr) (f : LdForm) (fits : List Byte → Prop) (he : exec i s = loadForm i f d a off s) :
        form i f.size f.need (if f.kind = .cap then .readCap else .read) [] fits
          fun u l tag => u.result cx d 1 (f.value (leNat l) tag) := fun hr hc hp => by
      obtain ⟨near, far, ok, refused, down⟩ := hubRemote_outcome he hw hsp rfl (by split <;> rfl) (by split <;> nofun) hr hc hp
      exact ⟨near, far, fun bytes tag ha _ => ok bytes tag ha, refused, down⟩
    have stores (i : Instr) (f : StForm) (he : exec i s = storeForm i f d a off s) :
        form i f.size f.need (if f.cap then .writeCap (cx.read d).tag else .write) (leBytes f.size (cx.data d).toNat) (fun _ => True)
          fun u _ _ => u := fun hr hc hp => by
      obtain ⟨near, far, ok, refused, down⟩ := hubRemote_outcome he hw hsp rfl (by split <;> rfl) (by split <;> nofun) hr hc hp
      exact ⟨near, far, fun bytes tag ha _ => ok bytes tag ha, refused, down⟩
    refine ⟨?_, ?_, ?_, ?_, ?_, ?_, ?_, ?_, ?_, ?_, ?_, ?_, ?_, ?_⟩
    · have h := loads (.ldB d a off) ⟨1, pLD, false, 2, .sign⟩ (fun l => l.length = 1) (Eq.refl (execLdB d a off s))
      simp only [LdForm.value_sign] at h
      exact h
    · exact loads (.ldBu d a off) ⟨1, pLD, false, 2, .zero⟩ _ (Eq.refl (execLdBu d a off s))
    · have h := loads (.ldH d a off) ⟨2, pLD, false, 2, .sign⟩ (fun l => l.length = 2) (Eq.refl (execLdH d a off s))
      simp only [LdForm.value_sign] at h
      exact h
    · exact loads (.ldHu d a off) ⟨2, pLD, false, 2, .zero⟩ _ (Eq.refl (execLdHu d a off s))
    · exact loads (.ldW d a off) ⟨4, pLD, false, 2, .zero⟩ _ (Eq.refl (execLdW d a off s))
    · exact loads (.ldD d a off) ⟨8, pLD, false, 2, .zero⟩ _ (Eq.refl (execLdD d a off s))
    · exact loads (.ldQ d a off) ⟨16, pLD, false, 2, .quad⟩ _ (Eq.refl (execLdQ d a off s))
    · exact loads (.ldC d a off) ⟨16, pLD ||| pLDC, false, 2, .cap⟩ _ (Eq.refl (execLdC d a off s))
    · exact stores (.stB d a off) ⟨1, pST, false, false, false⟩ (Eq.refl (execStB d a off s))
    · exact stores (.stH d a off) ⟨2, pST, false, false, false⟩ (Eq.refl (execStH d a off s))
    · exact stores (.stW d a off) ⟨4, pST, false, false, false⟩ (Eq.refl (execStW d a off s))
    · exact stores (.stD d a off) ⟨8, pST, false, false, false⟩ (Eq.refl (execStD d a off s))
    · exact stores (.stQ d a off) ⟨16, pST, false, false, false⟩ (Eq.refl (execStQ d a off s))
    · exact stores (.stC d a off) ⟨16, pST ||| pSTC, false, true, false⟩ (Eq.refl (execStC d a off s))

end Sys2Proof.Machine

/-! ### Vector and matrix forms -/

namespace Sys2Proof.Machine

/-- Settles O28: each packed integer form is one result, the lane function of its row. -/
theorem packedIntegerResults : Obligations.PackedIntegerResults := by
  intro d a b ty idx lanes pack w form
  refine ⟨?_, ?_, ?_, ?_, ?_, ?_, ?_, ?_, ?_, ?_, ?_, ?_⟩ <;> exact writes_plain (fun _ => rfl) fun _ => rfl

section
variable {i : Instr} {d : RegNo} {lat : Nat} {s : State} {cx : Cx}

/-- A vector form without a check of its own (R103). -/
theorem vecForm_completes {f : Cx → Quad × FlagSet} (he : exec i s = vecForm i d lat f s) (hr : Ready i s cx) :
    Completes i cx s ((s.result cx d lat ⟨(f cx).1, false⟩).flags cx lat (f cx).2) .seq :=
  completes_of he hr rfl rfl

theorem rmode_reserved {n : Nat} (h : 5 ≤ n) : rmode n = none := by
  unfold rmode
  split <;> first | rfl | omega

/-- A rounding form: a reserved mode is a format fault (R104). -/
theorem roundForm_outcome {f : Cx → RMode → Quad × FlagSet} (he : exec i s = roundForm i d lat f s) (hr : Ready i s cx) :
    (∀ rm, rmode (cx.slot.fm.toNat / 2 ^ 21 % 8) = some rm →
      Completes i cx s ((s.result cx d lat ⟨(f cx rm).1, false⟩).flags cx lat (f cx rm).2) .seq) ∧
    (5 ≤ cx.slot.fm.toNat / 2 ^ 21 % 8 → Raises i cx s { code := 0x02 }) := by
  refine ⟨fun rm h => completes_of he hr rfl ?_, fun h => raises_of he hr rfl ?_⟩
  · simp only [show rmode (fmRM cx.slot.fm) = some rm from h]
    rfl
  · simp only [show rmode (fmRM cx.slot.fm) = none from rmode_reserved h]
    rfl

end

/-- Settles O27: each form is a vector form or a rounding form, with the lane function of its row. -/
theorem floatingForms : Obligations.FloatingForms := by
  refine ⟨fun d a b e ty s cx => ?_, fun d a b e ty s cx => ?_⟩
  · intro f x form
    have of (i : Instr) {lat : Nat} {f : Cx → RMode → Quad × FlagSet} (he : exec i s = roundForm i d lat f s) :
      form i lat (f cx) := roundForm_outcome he
    exact ⟨(of (.fadd d a b ty) (Eq.refl (execFadd d a b ty s)) :),
      (of (.fsub d a b ty) (Eq.refl (execFsub d a b ty s)) :),
      (of (.fmul d a b ty) (Eq.refl (execFmul d a b ty s)) :),
      (of (.fma d a b e ty) (Eq.refl (execFma d a b e ty s)) :),
      (of (.fms d a b e ty) (Eq.refl (execFms d a b e ty s)) :),
      (of (.vsum d a ty) (Eq.refl (execVsum d a ty s)) :),
      (of (.frcp d a ty) (Eq.refl (execFrcp d a ty s)) :),
      (of (.frsq d a ty) (Eq.refl (execFrsq d a ty s)) :),
      (of (.fsqrt d a ty) (Eq.refl (execFsqrt d a ty s)) :),
      (of (.fex2 d a ty) (Eq.refl (execFex2 d a ty s)) :),
      (of (.flg2 d a ty) (Eq.refl (execFlg2 d a ty s)) :),
      (of (.fsin d a ty) (Eq.refl (execFsin d a ty s)) :),
      (of (.fcos d a ty) (Eq.refl (execFcos d a ty s)) :)⟩
  · intro f nan isNan x y form
    have of (i : Instr) {f : Cx → Quad × FlagSet} (he : exec i s = vecForm i d 2 f s) : form i (f cx) := vecForm_completes he
    exact ⟨(of (.fmin d a b ty) (Eq.refl (execFmin d a b ty s)) :),
      (of (.fmax d a b ty) (Eq.refl (execFmax d a b ty s)) :),
      (of (.fabs d a ty) (Eq.refl (execFabs d a ty s)) :),
      (of (.fneg d a ty) (Eq.refl (execFneg d a ty s)) :),
      (of (.fcmpEq d a b ty) (Eq.refl (execFcmpEq d a b ty s)) :),
      (of (.fcmpLt d a b ty) (Eq.refl (execFcmpLt d a b ty s)) :),
      (of (.fcmpLe d a b ty) (Eq.refl (execFcmpLe d a b ty s)) :),
      (of (.fsel d a b e ty) (Eq.refl (execFsel d a b e ty s)) :),
      (of (.vmaxr d a ty) (Eq.refl (execVmaxr d a ty s)) :),
      (of (.vminr d a ty) (Eq.refl (execVminr d a ty s)) :)⟩

theorem extractLsb'_eq_ofNat {w : Nat} (x : BitVec w) (lo n : Nat) : x.extractLsb' lo n = BitVec.ofNat n (x.toNat / 2 ^ lo) := by
  rw [BitVec.extractLsb', Nat.shiftRight_eq_div_pow]

/-- A change of a tile that leaves its contexts leaves every context. -/
theorem State.slot_modTile (s : State) (t u : Coord) {f : Tile → Tile} (hf : ∀ tl k j, (f tl).slot k j = tl.slot k j) (k : Side)
    (j : Fin 4) : ((s.modTile t f).tile u).slot k j = (s.tile u).slot k j := by
  rw [State.tile_modTile]
  split
  · next h => rw [hf, State.tile, State.tile, h]
  · rfl

/-- The accumulators of a tile after one is cleared or masked (R133, R134). -/
theorem effectDue_acc (s : State) (pid : Nat) (t : Coord) (bad : List Nat) (j z : Fin 4) (anc : Option (BitVec 10)) (m : BitVec 64) :
    ((s.effectDue pid t bad (.accClear j z anc)).tile t).z = (s.tile t).z.set z ((s.tile t).z[z].clear anc) ∧
      ((s.effectDue pid t bad (.msk j z m)).tile t).z = (s.tile t).z.set z { (s.tile t).z[z] with mask := m } := by
  constructor <;> simp only [State.effectDue, State.tile_modTile_self]

/-- Settles O31: each form is one deferred effect, and each effect one change of the tile's accumulators. -/
theorem matrixEffects : Obligations.MatrixEffects := by
  refine ⟨fun a z arr => ⟨?_, ?_, ?_, ?_⟩, fun s pid t bad j z anc m => ?_, fun d z clear s cx tc hr ht => ?_⟩
  · exact tileForm_defers (fun _ => rfl) fun _ _ => rfl
  · exact tileForm_defers (fun _ => rfl) fun _ _ => rfl
  · exact tileForm_defers (fun _ => rfl) fun _ _ => rfl
  · refine tileForm_defers (fun _ => rfl) fun tc cx => ?_
    simp only [extractLsb'_eq_ofNat, Nat.pow_zero, Nat.div_one]
  · obtain ⟨hu, hv⟩ := effectDue_acc s pid t bad j z anc m
    simp only [hu, hv]
    have keeps {f : Tile → Tile} (hf : ∀ tl k j, (f tl).slot k j = tl.slot k j) (t' : Coord) (k : Side) (i : Fin 4) :=
      State.slot_modTile s t t' hf k i
    refine ⟨?_, ?_, ?_, ?_, ?_, ?_, fun y hy => ?_, rfl, rfl, fun t' k i => ⟨keeps ?_ t' k i, keeps ?_ t' k i⟩⟩
    · simp [Acc.clear]
    · simp [Acc.clear]
    · simp [Acc.clear]
    · simp [Acc.clear]
    · simp [Acc.clear]
    · simp
    · simp [Fin.val_ne_of_ne (Ne.symm hy)]
    · exact fun _ _ _ => rfl
    · exact fun _ _ _ => rfl
  · have he : exec (.mzOvf d z clear) s = execMzOvf d z clear s := rfl
    have hval : tc.tile.z[z].ov.toNat + 2 * tc.tile.z[z].iv.toNat =
        (if tc.tile.z[z].ov then 1 else 0) + 2 * (if tc.tile.z[z].iv then 1 else 0) := by
      cases tc.tile.z[z].ov <;> cases tc.tile.z[z].iv <;> rfl
    refine ⟨fun hc => tileForm_completes he hr ht ?_, fun hc => tileForm_completes he hr ht ?_⟩
    · subst hc
      simp only [hval]
      rfl
    · subst hc
      simp only [hval]
      rfl

end Sys2Proof.Machine

/-! ### Sends, catches, puts and group tables -/

namespace Sys2Proof.Machine

section
variable {i : Instr} {s : State} {cx : Cx} {tc : TileCx}

theorem beginCatch_outcome {o n : Nat} {many : Bool} {f : TileCx → Cx → State → Chk State} (he : exec i s = tileForm i f s)
    (hr : Ready i s cx) (ht : cx.tile = .ok tc) (hf : f tc cx s = beginCatch tc cx o n many s) :
    (tc.part.streamAt tc.t cx.n = none → Raises i cx s { code := 0x11, reason := 0x06 }) ∧
      ∀ f, tc.part.streamAt tc.t cx.n = some f → Completes i cx s (s.modTile tc.t fun x =>
        { x with catches := x.catches ++ [⟨cx.n, n, o, tc.j, some f.payload, true, many⟩] }) .seq := by
  refine ⟨fun h => tileForm_raises he hr ht (hf.trans ?_), fun f h => tileForm_completes he hr ht (hf.trans ?_)⟩
  · simp only [beginCatch, h]
    rfl
  · simp only [beginCatch, h]

theorem setWidth_eq_ofNat {w : Nat} (v : BitVec w) (n : Nat) : v.setWidth n = BitVec.ofNat n v.toNat :=
  BitVec.eq_of_toNat_eq (by simp)

theorem ushiftRight_setWidth {w : Nat} (v : BitVec w) (k n : Nat) : (v >>> k).setWidth n = BitVec.ofNat n (v.toNat / 2 ^ k) :=
  BitVec.eq_of_toNat_eq (by simp [Nat.shiftRight_eq_div_pow])

theorem sOff_eq (off : BitVec 11) (n : Nat) : sOff off n = n * off.toInt := mul_comm ..

end

/-- Settles O35: the sends are one injection, and the catches one check and one test of the tile's local output. -/
theorem sendsAndCatches : Obligations.SendsAndCatches := by
  refine ⟨fun a cnt s cx tc ht => ⟨fun hr => ?_, fun hr => ⟨fun f hc => ?_, fun o hc => ?_⟩⟩,
    fun a off cnt s cx tc o ht => ⟨fun f => ⟨fun hr hc => ?_, fun hr hc => ?_⟩, ⟨fun hr hc => ?_, fun hr hc => ?_⟩⟩⟩
  · have he : exec (.xmit a) s = execXmit a s := rfl
    refine tileForm_completes he hr ht ?_
    simp only [Part.injectQuad, setWidth_eq_ofNat (cx.data a), ushiftRight_setWidth]
  · have he : exec (.xmitM a cnt) s = execXmitM a cnt s := rfl
    refine tileForm_raises he hr ht ?_
    simp only [show checkSpan (cx.read a) 0 (16 * (cnt.toNat + 1)) pLD 16 0 0x8000 = .error f from hc]
  · have he : exec (.xmitM a cnt) s = execXmitM a cnt s := rfl
    refine tileForm_completes he hr ht ?_
    simp only [show checkSpan (cx.read a) 0 (16 * (cnt.toNat + 1)) pLD 16 0 0x8000 = .ok o from hc]
  · have he : exec (.catchOne a off) s = execCatch a off s := rfl
    refine tileForm_raises he hr ht ?_
    simp only [sOff_eq, show checkLocal (cx.read a) ((16 : Nat) * off.toInt) 16 pST 0 0x8000 = .error f from hc]
  · have he : exec (.catchM a cnt) s = execCatchM a cnt s := rfl
    refine tileForm_raises he hr ht ?_
    simp only [show checkSpan (cx.read a) 0 (16 * (cnt.toNat + 1)) pST 16 0 0x8000 = .error f from hc]
  · have he : exec (.catchOne a off) s = execCatch a off s := rfl
    refine beginCatch_outcome he hr ht ?_
    simp only [sOff_eq, show checkLocal (cx.read a) ((16 : Nat) * off.toInt) 16 pST 0 0x8000 = .ok o from hc]
  · have he : exec (.catchM a cnt) s = execCatchM a cnt s := rfl
    refine beginCatch_outcome he hr ht ?_
    simp only [show checkSpan (cx.read a) 0 (16 * (cnt.toNat + 1)) pST 16 0 0x8000 = .ok o from hc]

/-- The FORMAT test of gtbl (R256). -/
theorem gtblOk_eq_false_iff (q : Part) (t : Coord) (v : DWord) : gtblOk q t v = false ↔
    (groupEntry v).v = true ∧ (v.getLsbD 62 = true ∨ v.toNat % 2 ^ 32 ≠ 0 ∨ (groupEntry v).lt = 3 ∨ 9 < v.toNat / 2 ^ 53 % 16 ∨
      7 < v.toNat / 2 ^ 50 % 8 ∨ (groupEntry v).legal q = false ∨ (groupEntry v).holds q t = false) := by
  simp only [gtblOk, Bool.or_eq_false_iff, Bool.and_eq_false_iff, Bool.not_eq_false', beq_eq_false_iff_ne, bne_eq_false_iff_eq,
    decide_eq_false_iff_not, Nat.not_le, or_assoc]
  rfl

theorem chan_status_eq (c : Chan) : c.status = BitVec.ofNat 128 (c.wp.toNat + c.orc.toNat * 2 ^ 64 +
    (if c.run.isSome ∨ c.inflight ≠ [] then 2 ^ 96 else 0) + (if c.que.isSome then 2 ^ 97 else 0) + c.err.toNat * 2 ^ 100) := by
  have hbusy : (c.run.isSome || !c.inflight.isEmpty).toNat * 2 ^ 96 = if c.run.isSome ∨ c.inflight ≠ [] then 2 ^ 96 else 0 := by
    cases c.run <;> cases c.inflight <;> simp
  have hque : c.que.isSome.toNat * 2 ^ 97 = if c.que.isSome then 2 ^ 97 else 0 := by cases c.que <;> simp
  rw [Chan.status, hbusy, hque]

/-- Settles O42: gtbl is one test, and cpy.wp one result. -/
theorem groupTableAndStatus : Obligations.GroupTableAndStatus := by
  refine ⟨fun a b s cx tc hr ht => ?_, fun d ch => writes_plain (fun _ => rfl) fun cx => ?_⟩
  · intro v g malformed
    have hbad : gtblOk tc.part tc.t v = false ↔ malformed := gtblOk_eq_false_iff ..
    have he : exec (.gtbl a b) s = execGtbl a b s := rfl
    obtain ⟨good, bad⟩ := testForm_outcome he hr ht (by rfl)
    exact ⟨fun h => bad (Bool.not_eq_true _ ▸ hbad.2 h), fun h => good (Bool.eq_true_of_not_eq_false fun hf => h (hbad.1 hf))⟩
  · cases cx.wh <;> exact chan_status_eq _

end Sys2Proof.Machine

/-! ### Accumulators: additions and images -/

namespace Sys2Proof.Machine

/-- An accumulator element takes a sum modulo 2^96 (R50). -/
theorem ofInt_toInt_ofInt_add (x y : Int) : BitVec.ofInt 96 ((BitVec.ofInt 96 x).toInt + y) = BitVec.ofInt 96 (x + y) := by
  rw [BitVec.ofInt_add, BitVec.ofInt_toInt, ← BitVec.ofInt_add]

/-- Whether a sum leaves the range of an element (R50). -/
def AccOverflows (t : Int) : Prop := t < -2 ^ 95 ∨ 2 ^ 95 - 1 < t

section
variable (z : Acc)

theorem Acc.add_frame (n : Nat) (v : Int) : (z.add n v).anchor = z.anchor ∧ (z.add n v).iv = z.iv ∧ (z.add n v).mask = z.mask := by
  unfold Acc.add
  split <;> exact ⟨rfl, rfl, rfl⟩

theorem Acc.add_el (n : Nat) (v : Int) (e : Fin 64) :
    (z.add n v).el[e] = if n = e.val then BitVec.ofInt 96 ((z.el[e]).toInt + v) else z.el[e] := by
  unfold Acc.add
  split
  · by_cases h : n = e.val
    · subst h
      simp
    · simp [h]
  · next hn => rw [if_neg fun h : n = e.val => hn (h ▸ e.isLt)]

theorem Acc.add_ov (e : Fin 64) (v : Int) : (z.add e.val v).ov = true ↔ z.ov = true ∨ AccOverflows ((z.el[e]).toInt + v) := by
  simp [Acc.add, AccOverflows]

theorem Acc.addAll_frame (l : List (Nat × Int)) :
    (z.addAll l).anchor = z.anchor ∧ (z.addAll l).iv = z.iv ∧ (z.addAll l).mask = z.mask := by
  induction l generalizing z with
  | nil => exact ⟨rfl, rfl, rfl⟩
  | cons p r ih =>
    obtain ⟨h1, h2, h3⟩ := ih (z.add p.1 p.2)
    obtain ⟨g1, g2, g3⟩ := z.add_frame p.1 p.2
    exact ⟨h1.trans g1, h2.trans g2, h3.trans g3⟩

/-- An element after additions in any order: its old value and all that was added to it, modulo 2^96 (R50, R129). -/
theorem Acc.addAll_el (l : List (Nat × Int)) (e : Fin 64) : (z.addAll l).el[e] =
    BitVec.ofInt 96 ((z.el[e]).toInt + ((l.filter fun p => p.1 == e.val).map Prod.snd).sum) := by
  induction l generalizing z with
  | nil => simp [Acc.addAll]
  | cons p r ih =>
    have hr : (z.addAll (p :: r)).el[e] = ((z.add p.1 p.2).addAll r).el[e] := rfl
    rw [hr, ih, Acc.add_el, List.filter_cons]
    by_cases h : p.1 = e.val
    · rw [if_pos h, if_pos (beq_iff_eq.2 h), ofInt_toInt_ofInt_add, List.map_cons, List.sum_cons, add_assoc]
    · rw [if_neg h, if_neg (mt beq_iff_eq.1 h)]

/-- OV after additions: set before, or by an addition whose sum leaves the range (R50). -/
theorem Acc.addAll_ov (l : List (Nat × Int)) (hl : ∀ p ∈ l, p.1 < 64) : (z.addAll l).ov = true ↔ z.ov = true ∨
    ∃ l₁ p l₂, l = l₁ ++ p :: l₂ ∧ ∃ e : Fin 64, p.1 = e.val ∧ AccOverflows ((((z.addAll l₁).el[e]).toInt) + p.2) := by
  induction l generalizing z with
  | nil => simp [Acc.addAll]
  | cons p r ih =>
    obtain ⟨n, v⟩ := p
    have hn : n < 64 := hl _ List.mem_cons_self
    have hr : (z.addAll ((n, v) :: r)).ov = ((z.add n v).addAll r).ov := rfl
    rw [hr, ih _ fun p hp => hl p (List.mem_cons_of_mem _ hp), Acc.add_ov z ⟨n, hn⟩ v, or_assoc]
    refine or_congr_right ⟨fun h => ?_, fun h => ?_⟩
    · rcases h with h | ⟨l₁, p, l₂, hl, e, he, ho⟩
      · exact ⟨[], (n, v), r, rfl, ⟨n, hn⟩, rfl, h⟩
      · exact ⟨(n, v) :: l₁, p, l₂, by rw [hl]; rfl, e, he, ho⟩
    · obtain ⟨l₁, p, l₂, hl, e, he, ho⟩ := h
      cases l₁ with
      | nil =>
        cases hl
        cases he
        exact .inl ho
      | cons q l₁ =>
        cases hl
        exact .inr ⟨l₁, p, l₂, rfl, e, he, ho⟩

end

/-- Additions of which none is to an element leave it. -/
theorem Acc.addAll_el_of_not_mem (z : Acc) {l : List (Nat × Int)} {e : Fin 64} (h : ∀ p ∈ l, p.1 ≠ e.val) :
    (z.addAll l).el[e] = z.el[e] := by
  rw [Acc.addAll_el, List.filter_eq_nil_iff.2 fun p hp => mt beq_iff_eq.1 (h p hp)]
  simp

/-- What an image adds: element e of the list to element e (R137). -/
def imageAdds (l : List (BitVec 96)) (k : Nat) : List (Nat × Int) := (l.zipIdx k).map fun p => (p.2, p.1.toInt)

theorem imageAdds_key {l : List (BitVec 96)} {k : Nat} {p : Nat × Int} (h : p ∈ imageAdds l k) : k ≤ p.1 ∧ p.1 < k + l.length := by
  obtain ⟨q, hq, rfl⟩ := List.mem_map.1 h
  exact ⟨(List.mem_zipIdx hq).1, (List.mem_zipIdx hq).2.1⟩

theorem imageAdds_filter (l : List (BitVec 96)) (k n : Nat) : (imageAdds l k).filter (fun p => p.1 == k + n) =
    if n < l.length then [(k + n, (l.getD n 0).toInt)] else [] := by
  induction l generalizing k n with
  | nil => rfl
  | cons v r ih =>
    have hcons : imageAdds (v :: r) k = (k, v.toInt) :: imageAdds r (k + 1) := rfl
    rw [hcons, List.filter_cons]
    cases n with
    | zero =>
      rw [List.filter_eq_nil_iff.2 fun p hp => ?_]
      · simp
      · have := (imageAdds_key hp).1
        simp
        omega
    | succ n =>
      rw [show k + (n + 1) = k + 1 + n by omega, ih]
      simp [show k ≠ k + 1 + n by omega]

theorem imageAdds_split {l : List (BitVec 96)} {l₁ l₂ : List (Nat × Int)} {p : Nat × Int} (h : imageAdds l 0 = l₁ ++ p :: l₂) :
    p = (l₁.length, (l.getD l₁.length 0).toInt) ∧ ∀ q ∈ l₁, q.1 ≠ l₁.length := by
  have hget (i : Nat) : (imageAdds l 0)[i]? = (l[i]?).map fun v => (i, v.toInt) := by
    simp [imageAdds]
    rfl
  refine ⟨?_, fun q hq => ?_⟩
  · have hp := hget l₁.length
    rw [h, List.getElem?_append_right (le_refl _), Nat.sub_self, List.getElem?_cons_zero] at hp
    rw [List.getD_eq_getElem?_getD]
    cases hv : l[l₁.length]? with
    | none => simp [hv] at hp
    | some v => simpa [hv] using hp
  · obtain ⟨j, hj, rfl⟩ := List.mem_iff_getElem.1 hq
    have hjl := hget j
    rw [h, List.getElem?_append_left hj, List.getElem?_eq_getElem hj] at hjl
    cases hv : l[j]? with
    | none => simp [hv] at hjl
    | some v =>
      rw [hv] at hjl
      have := congrArg Prod.fst (Option.some.inj hjl)
      simp only at this
      omega

section
variable (z : Acc) (op : ImageOp)

/-- An image added to an accumulator, element by element (R129, R137). -/
theorem Acc.addImage_outcome (hl : op.el.length = 64) :
    let sum (e : Fin 64) : Int := (z.el[e]).toInt + (op.el.getD e.val 0).toInt
    (∀ e : Fin 64, (z.addImage op).el[e] = BitVec.ofInt 96 (sum e)) ∧
      ((z.addImage op).ov = true ↔ z.ov = true ∨ op.ov = true ∨ ∃ e, AccOverflows (sum e)) ∧
      ((z.addImage op).iv = true ↔ z.iv = true ∨ op.iv = true) ∧
      (z.addImage op).anchor = z.anchor ∧ (z.addImage op).mask = z.mask := by
  intro sum
  obtain ⟨hanchor, hiv, hmask⟩ := z.addAll_frame (imageAdds op.el 0)
  refine ⟨fun e => ?_, ?_, ?_, hanchor, hmask⟩
  · have hsum := imageAdds_filter op.el 0 e.val
    rw [Nat.zero_add, if_pos (hl.symm ▸ e.isLt)] at hsum
    refine (z.addAll_el (imageAdds op.el 0) e).trans ?_
    rw [hsum]
    simp [sum]
  · have hov : (z.addImage op).ov = ((z.addAll (imageAdds op.el 0)).ov || op.ov) := rfl
    have hkeys (p) (hp : p ∈ imageAdds op.el 0) : p.1 < 64 := by have := (imageAdds_key hp).2; omega
    rw [hov, Bool.or_eq_true, z.addAll_ov _ hkeys, or_assoc, or_comm (b := op.ov = true)]
    refine or_congr_right (or_congr_right ⟨?_, ?_⟩)
    · rintro ⟨l₁, p, l₂, hsplit, e, he, ho⟩
      obtain ⟨rfl, hkeys⟩ := imageAdds_split hsplit
      have hlen : l₁.length = e.val := he
      rw [z.addAll_el_of_not_mem fun q hq => hlen ▸ hkeys q hq] at ho
      exact ⟨e, by rwa [show sum e = (z.el[e]).toInt + (op.el.getD l₁.length 0).toInt by rw [hlen]]⟩
    · rintro ⟨e, ho⟩
      have he : e.val < (imageAdds op.el 0).length := by simp [imageAdds, hl]
      obtain ⟨hp, hkeys⟩ := imageAdds_split (l := op.el) (l₁ := (imageAdds op.el 0).take e.val) (p := (imageAdds op.el 0)[e.val])
        (l₂ := (imageAdds op.el 0).drop (e.val + 1)) (by rw [List.getElem_cons_drop, List.take_append_drop])
      have hlen : ((imageAdds op.el 0).take e.val).length = e.val := by rw [List.length_take]; omega
      rw [hlen] at hp hkeys
      refine ⟨_, _, _, (by rw [List.getElem_cons_drop, List.take_append_drop] : imageAdds op.el 0 = (imageAdds op.el 0).take e.val ++
        (imageAdds op.el 0)[e.val] :: (imageAdds op.el 0).drop (e.val + 1)), e, ?_, ?_⟩
      · rw [hp]
      · rw [z.addAll_el_of_not_mem hkeys, hp]
        exact ho
  · have : (z.addImage op).iv = ((z.addAll (imageAdds op.el 0)).iv || op.iv) := rfl
    rw [this, hiv, Bool.or_eq_true]

end

/-! The bytes of an image (R137). -/

theorem flatMap_leBytes_length (l : List (BitVec 96)) : (l.flatMap fun v => leBytes 12 v.toNat).length = 12 * l.length := by
  simp [List.length_flatMap, mul_comm]

/-- Element e of an image stands at byte 12 e past the header. -/
theorem flatMap_leBytes_take (l : List (BitVec 96)) {e : Nat} (he : e < l.length) :
    ((l.flatMap fun v => leBytes 12 v.toNat).drop (12 * e)).take 12 = leBytes 12 (l.getD e 0).toNat := by
  induction l generalizing e with
  | nil => simp at he
  | cons v r ih =>
    rw [List.flatMap_cons]
    cases e with
    | zero => rw [Nat.mul_zero, List.drop_zero, List.take_left' (leBytes_length ..)]; rfl
    | succ e =>
      have hstep := List.drop_length_add_append (l₁ := leBytes 12 v.toNat) (l₂ := r.flatMap fun v => leBytes 12 v.toNat) (12 * e)
      rw [leBytes_length] at hstep
      rw [show 12 * (e + 1) = 12 + 12 * e by omega, hstep]
      simpa using ih (by simpa using he)

theorem Acc.image_bytes (z : Acc) :
    z.image.length = 784 ∧
      z.image.take 16 = leBytes 16 (z.anchor.toNat + (if z.ov then 2 ^ 10 else 0) + (if z.iv then 2 ^ 11 else 0)) ∧
      ∀ e < 64, (z.image.drop (16 + 12 * e)).take 12 = leBytes 12 (z.el.toList.getD e 0).toNat := by
  have hlen : z.el.toList.length = 64 := Vector.length_toList
  refine ⟨?_, ?_, fun e he => ?_⟩
  · rw [Acc.image, List.length_append, leBytes_length, flatMap_leBytes_length, hlen]
  · rw [Acc.image, List.take_left' (leBytes_length ..)]
  · have hdrop := List.drop_length_add_append (l₁ := leBytes 16 (z.anchor.toNat + (if z.ov then 2 ^ 10 else 0) + (if z.iv then 2 ^ 11 else 0)))
      (l₂ := z.el.toList.flatMap fun v => leBytes 12 v.toNat) (12 * e)
    rw [leBytes_length] at hdrop
    rw [Acc.image, hdrop, flatMap_leBytes_take _ (hlen.symm ▸ he)]

/-! Without damage no read of a tile faults (R272). -/

theorem Tile.eccAt_sound {tl : Tile} (hd : tl.damage = []) (o n : Nat) : tl.eccAt o n = none := by
  simp [Tile.eccAt, hd, damaged]

theorem Tile.accEcc_sound {tl : Tile} (hd : tl.damage = []) (z : Fin 4) (els : List Nat) : tl.accEcc z els = none := by
  simp [Tile.accEcc, hd, damaged]

/-- Settles O34: each image form is a check and a test of the image unit; the image falls due as a store or an addition. -/
theorem imageTransfers : Obligations.ImageTransfers := by
  refine ⟨fun a z s cx tc o ht hd => ⟨fun hr hc => ⟨fun hb => ?_, fun hb => ?_⟩, fun hr hc => ?_⟩, fun t s q op hq hop hdue =>
    ⟨fun hadd => ⟨?_, Acc.addImage_outcome _ op⟩, fun hadd => ?_⟩⟩
  · have he : exec (.mzRaw a z) s = execMzRaw a z s := rfl
    refine tileForm_raises he hr ht ?_
    simp only [show checkSpan (cx.read a) 0 784 pST 16 0 0x8000 = .ok o from hc, Option.isSome_iff_ne_none.2 hb, if_true]
    rfl
  · have he : exec (.mzRaw a z) s = execMzRaw a z s := rfl
    refine tileForm_completes he hr ht ?_
    simp [show checkSpan (cx.read a) 0 784 pST 16 0 0x8000 = .ok o from hc, hb, Tile.accEcc_sound hd]
  · have he : exec (.mzAdd a z) s = execMzAdd a z s := rfl
    replace hc : checkSpan (cx.read a) 0 784 pLD 16 0 0x8000 = .ok o := hc
    refine ⟨fun hanc => tileForm_raises he hr ht ?_, fun hanc hb => tileForm_raises he hr ht ?_,
      fun hanc hb => tileForm_completes he hr ht ?_⟩
    · simp only [hc, Tile.eccAt_sound hd, Tile.accEcc_sound hd, Option.or_none, if_pos hanc]
      rfl
    · simp only [hc, Tile.eccAt_sound hd, Tile.accEcc_sound hd, Option.or_none, if_neg (not_not.2 hanc), Option.isSome_iff_ne_none.2 hb,
        if_true]
      rfl
    · simp only [hc, Tile.eccAt_sound hd, Tile.accEcc_sound hd, Option.or_none, hb, Option.isSome_none, Bool.false_eq_true, if_false, hanc,
        ne_eq, not_true_eq_false]
  · show execImageTransferComplete t s = _
    simp only [execImageTransferComplete, hq, hop, if_neg (Nat.not_lt.2 hdue), hadd, if_true]
  · let img : Acc := { el := Vector.ofFn fun e => op.el.getD e.val 0, anchor := op.anchor, ov := op.ov, iv := op.iv, mask := 0 }
    obtain ⟨hlen, hhead, hel⟩ := img.image_bytes
    refine ⟨img.image, hlen, hhead, fun e he => ?_, ?_⟩
    · rw [hel e he]
      simp [img, he]
    · show execImageTransferComplete t s = _
      simp only [execImageTransferComplete, hq, hop, if_neg (Nat.not_lt.2 hdue), hadd]
      rfl

end Sys2Proof.Machine

/-! ### put, trn and start -/

namespace Sys2Proof.Machine

/-- An issue in a tile sees the tile as the state holds it. -/
theorem At.tile_eq {s : State} {cx : Cx} {tc : TileCx} (h : At s cx) (ht : cx.tile = .ok tc) :
    s.tile tc.t = tc.tile ∧ cx.slot = tc.tile.slot tc.k tc.j := by
  obtain ⟨cur, hcur, hcx⟩ := h
  obtain ⟨t', k', j', tl', q'⟩ := tc
  have hwh : cx.wh = .tile t' k' j' tl' q' := wh_of_tile ht
  unfold State.issuing at hcx
  split at hcx
  · split at hcx
    · cases hcx
    · cases hcx
      cases hwh
      exact ⟨rfl, rfl⟩
  · split at hcx
    · cases hcx
      cases hwh
    · cases hcx

theorem State.part_modPart_self {s : State} {pid : Nat} {q : Part} {f : Part → Part} (hq : s.part pid = some q)
    (hf : ∀ q, (f q).pid = q.pid) : (s.modPart pid f).part pid = some (f q) := by
  rw [State.part_modPart s pid pid hf, if_pos rfl, hq]
  rfl

/-! put (R183) -/

/-- Whether an address of space 1 names a word of a tile below 0x8000 (R183, R195). -/
def NamesWord (a : Nat) : Prop :=
  a / 2 ^ 42 % 2 ^ 18 = 0 ∧ a % 2 ^ 24 < 0x8000 ∧ a / 2 ^ 24 % 2 ^ 10 ≤ 999 ∧ a / 2 ^ 34 % 2 ^ 8 ≤ 199

theorem homeOf_cases (ad : DWord) :
    (NamesWord ad.toNat → homeOf ad =
      .ok (⟨ad.toNat / 2 ^ 24 % 2 ^ 10, ad.toNat / 2 ^ 34 % 2 ^ 8⟩, ad.toNat % 2 ^ 24)) ∧
    (¬NamesWord ad.toNat → homeOf ad = .error { code := fcAddrSpace, info := ad.toNat }) := by
  have h17 : bits ad.toNat 16 0 = ad.toNat % 2 ^ 17 := by rw [bits, Nat.pow_zero, Nat.div_one]
  have h24 : bits ad.toNat 23 17 = ad.toNat / 2 ^ 17 % 2 ^ 7 := rfl
  have h33 : bits ad.toNat 33 24 = ad.toNat / 2 ^ 24 % 2 ^ 10 := rfl
  have h41 : bits ad.toNat 41 34 = ad.toNat / 2 ^ 34 % 2 ^ 8 := rfl
  have h59 : bits ad.toNat 59 42 = ad.toNat / 2 ^ 42 % 2 ^ 18 := rfl
  unfold homeOf space1 NamesWord
  simp only [h17, h24, h33, h41, h59]
  constructor
  · rintro ⟨hup, hoff, hx, hy⟩
    have hlow : ad.toNat % 2 ^ 24 = ad.toNat % 2 ^ 17 := by omega
    rw [if_pos ⟨hup, by omega, hx, hy, by omega⟩]
    simp only
    rw [if_pos (by omega), hlow]
  · intro h
    by_cases hin : ad.toNat / 2 ^ 42 % 2 ^ 18 = 0 ∧ ad.toNat / 2 ^ 17 % 2 ^ 7 = 0 ∧ ad.toNat / 2 ^ 24 % 2 ^ 10 ≤ 999 ∧
        ad.toNat / 2 ^ 34 % 2 ^ 8 ≤ 199 ∧ ad.toNat % 2 ^ 17 < 0x18000
    · have ⟨hup, hmid, hx, hy, _⟩ := hin
      rw [if_pos hin]
      simp only
      rw [if_neg fun hoff => h ⟨hup, by omega, hx, hy⟩]
    · rw [if_neg hin]

theorem homeOf_eq_ok_iff {ad : DWord} {home : Coord} {o : Nat} : homeOf ad = .ok (home, o) ↔
    NamesWord ad.toNat ∧ home = ⟨ad.toNat / 2 ^ 24 % 2 ^ 10, ad.toNat / 2 ^ 34 % 2 ^ 8⟩ ∧ o = ad.toNat % 2 ^ 24 := by
  obtain ⟨hok, herr⟩ := homeOf_cases ad
  by_cases h : NamesWord ad.toNat
  · rw [hok h]
    simp [h, eq_comm]
  · rw [herr h]
    simp [h]

section
variable {s : State} {tc : TileCx} {n : Nat} {e : Fin 32} {home : Coord} {ad v : DWord}

/-- The tile's part of a put (R183, R228). -/
def Tile.putEntry (tl : Tile) (tc : TileCx) (e : Fin 32) (ad v : DWord) : Tile :=
  { tl with
    journal := tl.journal.set e ⟨ad, v, 0, BitVec.ofNat 32 tc.part.ss, 0, true, true, tc.j, 0⟩
    iss := tl.iss + 1
    damage := mend 0x26 [e.val] tl.damage }

/-- What a put is to the partition until it is answered (R184). -/
def TileCx.putXact (tc : TileCx) (n : Nat) (e : Fin 32) (home : Coord) (ad v : DWord) (id : Nat) : Xact :=
  { id := id, src := tc.t, slot := tc.j, entry := e, home := home, addr := ad, data := v, cmp := 0, op := 0, wide := true, dreg := 0,
    ss := tc.part.ss, perform := n + routeT tc.t home + 3, answer := n + 2 * routeT tc.t home + 4, performed := false,
    refused := false, collided := false, result := 0 }

/-- The partition's part of a put: the put itself, and its address and data flit (R183). -/
def Part.addPut (q : Part) (tc : TileCx) (n : Nat) (e : Fin 32) (home : Coord) (ad v : DWord) : Part :=
  let id := tc.part.next
  { q with next := q.next + 1, xacts := q.xacts ++ [tc.putXact n e home ad v id] }
    |>.inject .putAddr tc.t home n ad id none |>.inject .putData tc.t home (n + 1) v id none

theorem Part.addPut_flits (q : Part) : ∃ f0 f1 : Flit, (q.addPut tc n e home ad v).flits = q.flits ++ [f0, f1] ∧
    (f0.kind = .putAddr ∧ f0.q = n ∧ f0.payload = ad) ∧ (f1.kind = .putData ∧ f1.q = n + 1 ∧ f1.payload = v) ∧
    ∀ f ∈ [f0, f1], f.src = tc.t ∧ f.dst = home ∧ f.job = tc.part.next := by
  refine ⟨⟨_, .putAddr, tc.t, home, n, ad, 0, none, tc.part.next, none, 4⟩, ⟨_, .putData, tc.t, home, n + 1, v, 0, none, tc.part.next, none, 4⟩,
    List.append_assoc .., ⟨rfl, rfl, rfl⟩, ⟨rfl, rfl, rfl⟩, fun f hf => ?_⟩
  rcases List.mem_pair.1 hf with rfl | rfl <;> exact ⟨rfl, rfl, rfl⟩

theorem sendPut_eq : s.sendPut tc n e home ad 0 true v 0 0 [v] =
    (s.modTile tc.t fun tl => tl.putEntry tc e ad v).modPart tc.part.pid fun q => q.addPut tc n e home ad v := by
  have hhead : ad ||| BitVec.ofNat 64 (0 * 2 ^ 52) ||| (if (0 != 0 && true) = true then BitVec.ofNat 64 (2 ^ 50) else 0) = ad := by simp
  simp only [State.sendPut, hhead]
  rfl

end

/-- Settles O36: put is its checks in order and then `sendPut_eq`. -/
theorem putTakesAJournalEntry : Obligations.PutTakesAJournalEntry := by
  intro d a off s cx tc ad home o hr ht
  have he : exec (.put d a off) s = execPut d a off s := rfl
  obtain ⟨htile, -⟩ := hr.1.tile_eq ht
  simp only [show (0x202 : BitVec 12) = pST ||| pGLB from rfl, show (8 : Int) = ((8 : Nat) : Int) from rfl, ← sOff_eq]
  refine ⟨fun f hc => tileForm_raises he hr ht ?_, fun hc => ⟨fun f hp => tileForm_raises he hr ht ?_, fun hp => ?_⟩⟩
  · simp only [hc]
  · simp only [hc, hp]
  refine ⟨fun hno => tileForm_raises he hr ht ?_, fun h1 => ?_, fun h1 hh => ⟨fun hout => tileForm_raises he hr ht ?_,
    fun hin hfull => tileForm_raises he hr ht ?_, fun hin e hfree => ?_⟩⟩
  · have hhome : (if spaceOf ad = 1 then homeOf ad else .error { code := fcAddrSpace, info := ad.toNat }) =
        (.error { code := fcAddrSpace, info := ad.toNat } : Chk (Coord × Nat)) := by
      split
      · next h => exact (homeOf_cases ad).2 fun hn => hno ⟨h, hn⟩
      · rfl
    simp only [hc, hp, hhome]
    rfl
  · rw [homeOf_eq_ok_iff, NamesWord, and_iff_right h1]
  · simp only [hc, hp, h1, if_true, hh, hout]
    rfl
  · simp only [hc, hp, h1, if_true, hh, hin, hfull]
    rfl
  · refine ⟨_, tileForm_completes he hr ht (t := s.sendPut tc cx.n e home ad 0 true ((cx.data d).setWidth 64) 0 0 [(cx.data d).setWidth 64])
      ?_, ?_⟩
    · simp only [hc, hp, h1, if_true, hh, hin, hfree]
      rfl
    · rw [sendPut_eq]
      refine ⟨?_, fun e' hne => ?_, ?_, rfl, fun t k j => ?_, fun q hq => ?_⟩
      · simp [Tile.putEntry]
      · simp [Tile.putEntry, htile, Fin.val_ne_of_ne (Ne.symm hne)]
      · simp [Tile.putEntry, htile]
      · exact State.slot_modTile s tc.t t (f := fun tl => tl.putEntry tc e ad _) (fun _ _ _ => rfl) k j
      · obtain ⟨f0, f1, hflits, h0, h1, hboth⟩ := q.addPut_flits (tc := tc) (n := cx.n) (e := e) (home := home) (ad := ad)
          (v := (cx.data d).setWidth 64)
        refine ⟨q.addPut tc cx.n e home ad ((cx.data d).setWidth 64), tc.putXact cx.n e home ad ((cx.data d).setWidth 64) tc.part.next,
          f0, f1, ?_, rfl, hflits, rfl, rfl, rfl, rfl, rfl, rfl, rfl, rfl, h0, h1, hboth⟩
        exact State.part_modPart_self hq fun _ => rfl

/-! trn, stop and start (R186, R190, R191) -/

/-- The tile after slot `k` of a core is started (R190). -/
def TileCx.started (tc : TileCx) (cx : Cx) (m : List Host.Cell) (k : Fin 4) (pcc v : CReg) (tl : Tile) : Tile :=
  { tl.setSlot tc.k k
      { c := (Vector.replicate 32 .zero).set 1 v, pcc := pcc, s := cx.slot.s, fm := cx.slot.fm, fl := 0, sr := cx.slot.sr, live := true,
        fbuf := cx.refill m (capCur pcc.data), loop := ⟨0, 0, 0, false⟩, hold := none } with
    damage := mendFetch tc.k k (fourWords (capCur pcc.data)) none (mend 0x21 (slotKeys tc.k k) tl.damage)
    pend := (tl.pend.filter fun p => !p.eff.resultOf tc.k k) ++ [⟨cx.n + 3, .ready tc.k k⟩] }

section
variable {s : State} {cx : Cx} {tc : TileCx} {d a : RegNo} {k : BitVec 2}

theorem start_outcome (hr : Ready (.start d a k) s cx) (ht : cx.tile = .ok tc) :
    ((tc.tile.slot tc.k k.toFin).live = true → Raises (.start d a k) cx s { code := 0x10, reason := 0x0D, info := k.toNat }) ∧
    ((tc.tile.slot tc.k k.toFin).live = false → Completes (.start d a k) cx s
      (s.modTile tc.t (tc.started cx s.mem k.toFin (enterCap (cx.read a)) (cx.read d))) .seq) := by
  have he : exec (.start d a k) s = execStart d a k s := rfl
  refine ⟨fun h => tileForm_raises he hr ht ?_, fun h => tileForm_completes he hr ht ?_⟩
  · simp only [h, if_true]
    rfl
  · simp only [h]
    rfl

theorem Tile.slot_setSlot (tl : Tile) (k k' : Side) (j j' : Fin 4) (v : Slot) :
    (tl.setSlot k j v).slot k' j' = if (k', j') = (k, j) then v else tl.slot k' j' := by
  by_cases hk : k' = k
  · subst hk
    by_cases hj : j' = j
    · subst hj
      simp
    · cases k' <;> simp [Tile.slot, Tile.setSlot, Tile.core, Tile.setCore, Core.setSlot, hj, Fin.val_ne_of_ne (Ne.symm hj)]
  · cases k <;> cases k' <;> simp_all [Tile.slot, Tile.setSlot, Tile.core, Tile.setCore]

/-- Only the starting effect is added to what was due, and old register results of the slot are gone (R190). -/
theorem started_pend (tl : Tile) (m : List Host.Cell) (k : Fin 4) (pcc v : CReg) (p : Pend) :
    p ∈ (tc.started cx m k pcc v tl).pend ↔
      (p ∈ tl.pend ∧ p.eff.resultOf tc.k k = false) ∨ p = ⟨cx.n + 3, .ready tc.k k⟩ := by
  simp [TileCx.started]

theorem refill_getElem? (cx : Cx) (m : List Host.Cell) (o : DWord) :
    (cx.refill m o).words.length = 4 ∧
      ∀ i < 4, (cx.refill m o).words[i]? = some (cx.fetchWord m (o + BitVec.ofNat 64 (4 * i))) := by
  refine ⟨rfl, fun i hi => ?_⟩
  match i, hi with
  | 0, _ => simp [Cx.refill]
  | 1, _ => rfl
  | 2, _ => rfl
  | 3, _ => rfl

/-- A live slot that waits for nothing issues in its turn unless it is still starting (R144, R190). -/
theorem mem_issueActs_iff {q : Part} {p : Nat} {t : Coord} {k : Side} (hlive : ((s.tile t).slot k (fin4 p)).live = true)
    (hhold : ((s.tile t).slot k (fin4 p)).hold = none) (hlost : (s.tile t).lost = false) :
    Act.issue (.tile t k (fin4 p)) ∈ s.issueActs q p t ↔ ∀ e ∈ (s.tile t).pend, e.eff ≠ .ready k (fin4 p) := by
  have hstart : (s.tile t).starting k (fin4 p) = false ↔ ∀ e ∈ (s.tile t).pend, e.eff ≠ .ready k (fin4 p) := by
    simp [Tile.starting]
  rw [← hstart]
  cases k
  all_goals
    simp [State.issueActs, hlive, hhold, hlost]
    intro hmissed
    exfalso
    repeat' split at hmissed
    all_goals simp at hmissed

end

/-- Settles O38: trn is one test, resync and stop one change each, and start its test and `started`. -/
theorem turnstileStopAndStart : Obligations.TurnstileStopAndStart := by
  refine ⟨fun d s cx tc hr ht => ?_, fun s cx tc ht => ⟨fun hr => ⟨fun h => ?_, fun h => ?_⟩, fun hr => ?_⟩,
    fun d a k s cx tc hr ht => ⟨(start_outcome hr ht).1, fun h => ?_, fun q p t k' hlive hhold hlost => mem_issueActs_iff hlive hhold hlost⟩⟩
  · intro late
    have he : exec (.trn d) s = execTrn d s := rfl
    have hlate : (match tc.part.super with | none => false | some u => decide (u.b + u.c + u.x < cx.n + tc.part.dt)) = true ↔ late := by
      cases h : tc.part.super with
      | none => simp [late, h]
      | some u => simp [late, h]
    refine ⟨fun h => tileForm_raises he hr ht ?_, fun hl h => tileForm_completes he hr ht ?_⟩
    · have hbad : (match tc.part.super with | none => false | some u => decide (u.b + u.c + u.x < cx.n + tc.part.dt)) ||
          (tc.tile.core tc.k).trn := by rwa [Bool.or_eq_true, hlate]
      exact if_pos hbad
    · have hgood : ¬((match tc.part.super with | none => false | some u => decide (u.b + u.c + u.x < cx.n + tc.part.dt)) ||
          (tc.tile.core tc.k).trn) := by rw [h, Bool.or_false, hlate]; exact hl
      exact if_neg hgood
  · have he : exec .resync s = execResync s := rfl
    exact tileForm_completes he hr ht (if_pos h)
  · have he : exec .resync s = execResync s := rfl
    exact tileForm_completes he hr ht (if_neg (Bool.eq_false_iff.1 h))
  · have he : exec .stop s = execStop s := rfl
    refine tileForm_completes he hr ht ?_
    rw [State.modCtx, State.setCtx, State.ctx, wh_of_tile ht]
    rfl
  · obtain ⟨htile, -⟩ := hr.1.tile_eq ht
    refine ⟨_, (start_outcome hr ht).2 h, ?_⟩
    have hslot : (tc.started cx s.mem k.toFin (enterCap (cx.read a)) (cx.read d) tc.tile).slot tc.k k.toFin =
        { c := (Vector.replicate 32 .zero).set 1 (cx.read d), pcc := enterCap (cx.read a), s := cx.slot.s, fm := cx.slot.fm, fl := 0,
          sr := cx.slot.sr, live := true, fbuf := cx.refill s.mem (capCur (enterCap (cx.read a)).data), loop := ⟨0, 0, 0, false⟩,
          hold := none } := Tile.slot_setSlot_self ..
    simp only [State.tile_modTile_self, htile, hslot, true_and]
    obtain ⟨hlen, hwords⟩ := refill_getElem? cx s.mem (capCur (enterCap (cx.read a)).data)
    refine ⟨by simp, fun r hne => ?_, ⟨rfl, hlen, hwords⟩, started_pend _ _ _ _ _, ?_, rfl, fun t' k' j' hx' hx hne => ?_⟩
    · have hr1 : ¬1 = r.val := fun h => hne (Fin.ext h.symm)
      simp [hr1, CReg.zero]
    · simp [Tile.starting, TileCx.started]
    · by_cases hx'' : t' = tc.t
      · subst hx''
        rw [State.tile_modTile_self]
        exact (Tile.slot_setSlot ..).trans (if_neg fun heq => hne (by rw [heq]))
      · rw [State.tile_modTile_ne s _ hx hx' hx'']

end Sys2Proof.Machine

/-! ### Atomics and fence -/

namespace Sys2Proof.Machine

/-! The functions (R233) -/

theorem sextNat_max (wd m x : Nat) : sextNat (if sextNat m wd ≤ sextNat x wd then x else m) wd = max (sextNat m wd) (sextNat x wd) := by
  split <;> omega

theorem sextNat_min (wd m x : Nat) : sextNat (if sextNat m wd ≤ sextNat x wd then m else x) wd = min (sextNat m wd) (sextNat x wd) := by
  split <;> omega

section
variable {i : Instr} {s : State} {cx : Cx} {f : Nat} {wide : Bool} {d a b : RegNo} {e : Option RegNo} {ad : DWord}

/-- An operand of an atomic, at its width (R233). -/
theorem amoArg_eq (wide : Bool) (v : Quad) : amoArg wide v = BitVec.ofNat 64 (v.toNat % if wide then 2 ^ 64 else 2 ^ 32) := by
  cases wide <;> rfl

theorem amoArg_lt (wide : Bool) (v : Quad) : (amoArg wide v).toNat < 2 ^ amoBits wide := by
  have : (v.toNat % 2 ^ amoBits wide) < 2 ^ amoBits wide := Nat.mod_lt _ (Nat.two_pow_pos _)
  exact lt_of_le_of_lt (by rw [amoArg, BitVec.toNat_ofNat]; exact Nat.mod_le ..) this

theorem sendPut_tile (s : State) (tc : TileCx) (n : Nat) (en : Fin 32) (home : Coord) (op : Nat) (data cmp : DWord) (dreg : RegNo)
    (flits : List DWord) : let u := s.sendPut tc n en home ad op wide data cmp dreg flits
    (u.tile tc.t).journal = (s.tile tc.t).journal.set en
        ⟨ad, data, cmp, BitVec.ofNat 32 tc.part.ss, BitVec.ofNat 8 op, true, wide, tc.j, dreg⟩ ∧
      (u.tile tc.t).iss = (s.tile tc.t).iss + 1 ∧ u.mem = s.mem := by
  simp only [State.sendPut, State.tile_modPart, State.tile_modTile_self]
  refine ⟨?_, ?_, rfl⟩ <;> split <;> rfl

/-- The tile's atomics (R234 to R236). -/
theorem tileAtomic_outcome {x y : DWord} {tc : TileCx} {tile : TileCx → Cx → State → Chk State}
    {hub : Nat → Nat → Cx → State → Chk (State × Next)} (he : exec i s = memForm i tile hub s) (hr : Ready i s cx)
    (htile : tile tc cx s = tileAtomic f wide d (cx.read a) x y tc cx s) (ht : cx.tile = .ok tc) :
    let size := if wide then 8 else 4
    checkCap (cx.read a) 0 size 0x003 = .ok ad → checkSpacePerm (cx.read a) ad = .ok () →
    (spaceOf ad = 0 → ad.toNat + size ≤ 0x8000 → tc.tile.eccAt ad.toNat size = none →
      Completes i cx s (s.due cx (cx.n + 3) (.amo ad.toNat f size x y 0 (if d = 0 then none else some (tc.j, d, cx.n + 7))
        ⟨3, if tc.k = .execute then 1 else 0, tc.j.val, 0, tc.t.x, tc.t.y, none⟩)) .seq) ∧
    (spaceOf ad = 0 → ad.toNat + size ≤ 0x8000 → ∀ fl, tc.tile.eccAt ad.toNat size = some fl → Raises i cx s fl) ∧
    (spaceOf ad = 1 → ∀ home o, homeOf ad = .ok (home, o) →
      (tc.part.exchange cx.n = false → Raises i cx s { code := 0x10, reason := 0x04 }) ∧
      (tc.part.exchange cx.n = true → tc.part.holds home = false → Raises i cx s { code := 0x21, info := ad.toNat }) ∧
      (tc.part.exchange cx.n = true → tc.part.holds home = true → tc.tile.freeEntry = none →
        Raises i cx s { code := 0x10, reason := 0x02 }) ∧
      (tc.part.exchange cx.n = true → tc.part.holds home = true → ∀ en, tc.tile.freeEntry = some en →
        ∃ u, Completes i cx s u .seq ∧
          (u.tile tc.t).journal[en] = ⟨ad, x, y, BitVec.ofNat 32 tc.part.ss, BitVec.ofNat 8 (f + 1), true, wide, tc.j, d⟩ ∧
          (u.tile tc.t).iss = tc.tile.iss + 1 ∧ u.mem = s.mem)) := by
  intro size hc hp
  replace hc : checkCap (cx.read a) 0 (if wide then 8 else 4) (pLD ||| pST) = .ok ad := hc
  have completes {t : State} (h : tileAtomic f wide d (cx.read a) x y tc cx s = .ok t) : Completes i cx s t .seq :=
    memForm_completes he hr ht (htile.trans h)
  have raises {fl : Flt} (h : tileAtomic f wide d (cx.read a) x y tc cx s = .error fl) : Raises i cx s fl :=
    memForm_raises he hr ht (htile.trans h)
  have h01 (h1 : spaceOf ad = 1) : ¬spaceOf ad = 0 := by omega
  refine ⟨fun h0 hlow hd => completes ?_, fun h0 hlow fl hd => raises ?_, fun h1 home o hh => ⟨fun hx => raises ?_,
    fun hx hin => raises ?_, fun hx hin hfull => raises ?_, fun hx hin en hfree => ?_⟩⟩
  · simp only [tileAtomic, hc, hp, h0, if_true, show ad.toNat + (if wide then 8 else 4) ≤ 0x8000 from hlow,
      show tc.tile.eccAt ad.toNat (if wide then 8 else 4) = none from hd]
    rfl
  · simp only [tileAtomic, hc, hp, h0, if_true, show ad.toNat + (if wide then 8 else 4) ≤ 0x8000 from hlow,
      show tc.tile.eccAt ad.toNat (if wide then 8 else 4) = some fl from hd]
  · simp only [tileAtomic, hc, hp, if_neg (h01 h1), if_pos h1, hh, hx]
    rfl
  · simp only [tileAtomic, hc, hp, if_neg (h01 h1), if_pos h1, hh, hx, hin]
    rfl
  · simp only [tileAtomic, hc, hp, if_neg (h01 h1), if_pos h1, hh, hx, hin, hfull]
    rfl
  · obtain ⟨htl, -⟩ := hr.1.tile_eq ht
    obtain ⟨hj, hiss, hmem⟩ := sendPut_tile (wide := wide) (ad := ad) s tc cx.n en home (f + 1) x y d (if f = 9 then [x, y] else [x])
    refine ⟨_, completes ?_, ?_, hiss.trans (by rw [htl]), hmem⟩
    · simp only [tileAtomic, hc, hp, if_neg (h01 h1), if_pos h1, hh, hx, hin, hfree]
      rfl
    · rw [hj]
      simp

/-- A hub's atomic, performed in its own SRAM (R198, R235). -/
def State.sramAtomic (s : State) (die h off f : Nat) (wide : Bool) (x y : DWord) : State :=
  let ga := hubAddr die h off
  { s with
    mem := (amoMem s.mem ga f (amoBits wide) x.toNat y.toNat).1
    qtags := eraseAll s.qtags (ga / 16 * 16) }

theorem amoBits_eq (wide : Bool) : amoBits wide / 8 = (if wide then 8 else 4) ∧ 2 ^ amoBits wide = if wide then 2 ^ 64 else 2 ^ 32 := by
  cases wide <;> exact ⟨rfl, rfl⟩

theorem leNat_lt (l : List Byte) : leNat l < 2 ^ (8 * l.length) := by
  induction l with
  | nil => decide
  | cons b r ih =>
    have hb := b.isLt
    rw [leNat, List.length_cons, Nat.mul_succ, Nat.pow_add]
    omega

theorem Mem.readLE_lt (m : List Host.Cell) (a n : Nat) : Mem.readLE m a n < 2 ^ (8 * n) := by
  have := leNat_lt (Mem.read m a n)
  rwa [Mem.read, List.length_map, List.length_range] at this

theorem performSram_amo {die h off : Nat} {x y : DWord} {src : LooseSrc} {n : Nat} (hd : (s.hub die h).damage = []) :
    s.performSram die h off ⟨src, .amo f wide, ad, n, leBytes 8 x.toNat, y, false⟩ =
      (s.sramAtomic die h off f wide x y, .ok (leBytes (if wide then 8 else 4) (Mem.readLE s.mem (hubAddr die h off) (if wide then 8 else 4))) false) := by
  have hecc : (s.hub die h).eccAt off n = none := by simp [Hub.eccAt, hd, damaged]
  have hx : leNat (leBytes 8 x.toNat) = x.toNat := by rw [leNat_leBytes]; exact Nat.mod_eq_of_lt x.isLt
  have hold : (amoMem s.mem (hubAddr die h off) f (amoBits wide) x.toNat y.toNat).2 =
      Mem.readLE s.mem (hubAddr die h off) (if wide then 8 else 4) := by rw [amoMem, (amoBits_eq wide).1]
  simp only [State.performSram, hecc, hx, (amoBits_eq wide).1, hold]
  rfl

theorem hubAtomic_own {die h : Nat} {hb : Hub} {x y : DWord} {tile : TileCx → Cx → State → Chk State}
    {hub : Nat → Nat → Cx → State → Chk (State × Next)} {size : Nat} (hsize : size = if wide then 8 else 4)
    (he : exec i s = memForm i tile hub s) (hr : Ready i s cx)
    (hhub : hub die h cx s = hubAccess cx die h i (cx.read a) 0 size (pLD ||| pST) (.amo f wide) (leBytes 8 x.toNat) y
      (fun r _ s => s.result cx d 1 (.plain (BitVec.ofNat 128 (leNat r)))) s)
    (hx : x.toNat < 2 ^ amoBits wide) (hy : y.toNat < 2 ^ amoBits wide) (hw : cx.wh = .hub die h hb) (hlow : ad.toNat < 0x40000)
    (hd : (s.hub die h).damage = []) (hm : Mem.wf s.mem = true) (hc : checkCap (cx.read a) 0 size 0x003 = .ok ad) :
    let ga := hubAddr die h ad.toNat
    ∃ u : State, Completes i cx s (u.result cx d 1 ⟨BitVec.ofNat 128 (Mem.readLE s.mem ga size), false⟩) .seq ∧
      Mem.readLE u.mem ga size = amoNew f (8 * size) (Mem.readLE s.mem ga size) x.toNat y.toNat % 2 ^ (8 * size) ∧
      (∀ p, (p < ga ∨ ga + size ≤ p) → Mem.get u.mem p = Mem.get s.mem p) ∧ (u.hub die h).ctx = (s.hub die h).ctx := by
  subst hsize
  refine ⟨s.sramAtomic die h ad.toNat f wide x y, memForm_completes_hub he hr hw (hhub.trans ?_), ?_, fun p hp => ?_, rfl⟩
  · refine (hubAccess_own hc hlow hd (performSram_amo hd)).trans ?_
    rw [leNat_leBytes, Nat.mod_eq_of_lt (Mem.readLE_lt ..)]
    rfl
  · simp only [State.sramAtomic, amoMem, (amoBits_eq wide).1, Mem.readLE_write_self _ _ _ hm, Nat.mod_eq_of_lt hx, Nat.mod_eq_of_lt hy]
    cases wide <;> rfl
  · refine Mem.get_write_other _ ?_ hm
    rwa [leBytes_length, (amoBits_eq wide).1]

/-- The comparand of an atomic: cE of amo.cas, else 0 (R233). -/
def amoCmp (cx : Cx) (wide : Bool) (e : Option RegNo) : DWord := match e with | none => 0 | some r => amoArg wide (cx.data r)

theorem amoCmp_lt : (amoCmp cx wide e).toNat < 2 ^ amoBits wide := by
  cases e with
  | none => exact Nat.two_pow_pos _
  | some r => exact amoArg_lt ..

theorem atomic_eq : atomic i f wide d a b e s =
    memForm i (fun tc cx s => tileAtomic f wide d (cx.read a) (amoArg wide (cx.data b)) (amoCmp cx wide e) tc cx s)
      (fun die h cx s => hubAccess cx die h i (cx.read a) 0 (if wide then 8 else 4) (pLD ||| pST) (.amo f wide)
        (leBytes 8 (amoArg wide (cx.data b)).toNat) (amoCmp cx wide e)
        (fun r _ s => s.result cx d 1 (.plain (BitVec.ofNat 128 (leNat r)))) s) s := rfl

/-! fence (R238) -/

theorem fenceOpen_eq_zero_iff (tl : Tile) (t : Coord) (scope : BitVec 5) :
    let covered (e : JEntry) : Bool := e.v && (decide (scope ≠ 0) ||
      (match space1 e.addr.toNat with | some (h, _) => h == t | none => false))
    fenceOpen tl t scope.toNat = 0 ↔ ∀ e ∈ tl.journal.toList, covered e = false := by
  intro covered
  have hscope : decide (scope.toNat != 0) = decide (scope ≠ 0) := by
    have : scope.toNat = 0 ↔ scope = 0 := by rw [BitVec.toNat_eq]; rfl
    by_cases h : scope = 0 <;> simp_all
  rw [fenceOpen, List.countP_eq_zero]
  refine forall₂_congr fun e _ => ?_
  rw [Bool.not_eq_true, hscope] <;> rfl

theorem fenceDone_iff (s : State) (hb : Hub) (scope : BitVec 5) : s.fenceDone hb scope.toNat = true ↔
    scope = 0 ∨ (hb.unperformed = 0 ∧ (scope.toNat < 4 ∨ ∀ t ∈ hb.remote, t ≤ s.rmt)) := by
  have h0 : scope.toNat = 0 ↔ scope = 0 := by rw [BitVec.toNat_eq]; rfl
  simp [State.fenceDone, h0]

end

/-- Settles O40: each atomic is `tileAtomic` in a tile and one access of a hub's own SRAM; fence is one test. -/
theorem atomicsAndFence : Obligations.AtomicsAndFence := by
  refine ⟨fun wd m x e _ _ _ => ?_, fun d a b e ty s cx ad => ?_, fun scope s cx hr => ⟨fun tc ht => ?_, fun die h hb hw => ?_⟩⟩
  · exact ⟨rfl, sextNat_max .., sextNat_min .., rfl, rfl, Nat.testBit_and m x, Nat.testBit_or m x, Nat.testBit_xor m x, rfl, rfl, rfl⟩
  · intro arg form w
    have of (i : Instr) (f : Nat) (wide : Bool) (e : Option RegNo) (he : exec i s = atomic i f wide d a b e s) {cmp : Nat}
        (hcmp : amoCmp cx wide e = BitVec.ofNat 64 cmp) : form i f wide cmp := by
      intro hr
      have hb : BitVec.ofNat 64 (arg wide b) = amoArg wide (cx.data b) := (amoArg_eq ..).symm
      rw [hb, ← hcmp]
      intro size hc hp x y
      rw [atomic_eq] at he
      exact ⟨fun tc ht => tileAtomic_outcome he hr rfl ht hc hp,
        fun die h hb hw hlow hd hm => hubAtomic_own rfl he hr rfl (amoArg_lt ..) amoCmp_lt hw hlow hd hm hc⟩
    refine ⟨?_, ?_, ?_, ?_, ?_, ?_, ?_, ?_, ?_, ?_, ?_⟩
    · exact of (.amoAdd d a b ty) 0 w none (Eq.refl (execAmoAdd d a b ty s)) rfl
    · exact of (.amoMax d a b ty) 1 w none (Eq.refl (execAmoMax d a b ty s)) rfl
    · exact of (.amoMin d a b ty) 2 w none (Eq.refl (execAmoMin d a b ty s)) rfl
    · exact of (.amoMaxu d a b ty) 3 w none (Eq.refl (execAmoMaxu d a b ty s)) rfl
    · exact of (.amoMinu d a b ty) 4 w none (Eq.refl (execAmoMinu d a b ty s)) rfl
    · exact of (.amoAnd d a b ty) 5 w none (Eq.refl (execAmoAnd d a b ty s)) rfl
    · exact of (.amoOr d a b ty) 6 w none (Eq.refl (execAmoOr d a b ty s)) rfl
    · exact of (.amoXor d a b ty) 7 w none (Eq.refl (execAmoXor d a b ty s)) rfl
    · exact of (.amoSwap d a b ty) 8 w none (Eq.refl (execAmoSwap d a b ty s)) rfl
    · exact of (.amoCas d a b e ty) 9 w (some e) (Eq.refl (execAmoCas d a b e ty s)) (amoArg_eq ..)
    · exact of (.amoFmax d a b) 10 false none (Eq.refl (execAmoFmax d a b s)) rfl
  · intro covered
    have he : exec (.fence scope) s = execFence scope s := rfl
    have hopen := fenceOpen_eq_zero_iff tc.tile tc.t scope
    refine ⟨fun h => memForm_completes he hr ht (if_neg fun hbad => ?_), fun hk hex => ⟨_, memForm_raises he hr ht (if_pos ⟨hk, ?_⟩)⟩⟩
    · obtain ⟨hk, hne⟩ := hbad
      rcases h with h | h
      · rw [h] at hk
        cases hk
      · rw [hopen.2 h] at hne
        cases hne
    · rw [bne_iff_ne]
      intro h
      obtain ⟨e, he, hcov⟩ := hex
      rw [show covered e = false from hopen.1 h e he] at hcov
      cases hcov
  · intro own far
    have he : exec (.fence scope) s = execFence scope s := rfl
    have hdone := fenceDone_iff s (s.hub die h) scope
    exact ⟨fun hc => memForm_completes_hub he hr hw (if_pos (hdone.2 hc)), fun hc => memForm_completes_hub he hr hw (if_neg (hdone.not.2 hc))⟩

end Sys2Proof.Machine

/-! ### trap, halt and the watchdog -/

namespace Sys2Proof.Machine

section
variable {cx : Cx} {s : State} {word : Nat} {f : Flt}

theorem raiseAfter_tile {t : Coord} {k : Side} {j : Fin 4} {tl : Tile} {q : Part} (hwh : cx.wh = .tile t k j tl q) :
    raiseAfter cx word f s = s.modPart q.pid fun q => q.take (coreRecord t k j.val cx.n 3 cx.pc.toNat word f) := by
  simp only [raiseAfter, hwh]

/-- A fault of a hub after the issue stops it with its record and message, and leaves its context, memory, the tiles and the
partitions (R282). -/
theorem raiseAfter_hub {d h : Nat} {hb : Hub} (hwh : cx.wh = .hub d h hb) {u : State} (hu : u = raiseAfter cx word f s) :
    let r := hubRecord d h s.rmt 3 cx.pc.toNat word f
    (u.hub d h).stopped = true ∧ (u.hub d h).hfr = r ∧
      (∃ m ∈ u.messages, m.origin = true ∧ m.loc = d + 16 * h ∧ m.code = f.code ∧ m.reason = f.reason ∧ m.first = (u.hub d h).hfr) ∧
      (u.hub d h).ctx = (s.hub d h).ctx ∧ u.mem = s.mem ∧ u.tiles = s.tiles ∧ u.parts = s.parts := by
  intro r
  obtain rfl : u = s.hubFault d h r := by rw [hu, raiseAfter, hwh]
  have hframe := State.hubFault_frame s d h r
  have hself : (s.hubFault d h r).hub d h = Hub.faulted r (s.hub d h) :=
    (State.hub_hubFault ..).trans (State.hub_modHub_self ..)
  obtain ⟨m, hm, ho, hl, hc, hr, hf⟩ := State.hubFault_posts s d h r
  rw [hself]
  exact ⟨rfl, rfl, ⟨m, hm, ho, hl, hc, hr, hf⟩, rfl, (congrArg State.mem hframe :), (congrArg State.tiles hframe :),
    (congrArg State.parts hframe :)⟩

end

/-- A halted core: no slot is live and the watchdog is disarmed (R291). -/
def Core.halt (c : Core) : Core := { c with slots := c.slots.map fun sl => { sl with live := false }, armed := false }

theorem Core.halt_slot (c : Core) (j : Fin 4) : c.halt.slots[j] = { c.slots[j] with live := false } := by
  simp [Core.halt]

theorem halt_tile {s : State} {cx : Cx} {tc : TileCx} (hr : Ready .halt s cx) (ht : cx.tile = .ok tc) :
    Completes .halt cx s (s.modTile tc.t fun tl => tl.setCore tc.k (tl.core tc.k).halt) .seq := by
  refine completes_of (Eq.refl (execHalt s)) hr rfl ?_
  rw [wh_of_tile ht]
  rfl

/-- Settles O43: trap and halt are one fault after the issue, or one change of the issuing core; hbeat is one change of it. -/
theorem trapHaltAndWatchdog : Obligations.TrapHaltAndWatchdog := by
  refine ⟨fun a num s cx hr => ⟨fun t k j tl q hwh => ?_, fun die h hb hwh => ?_⟩, fun a s cx tc ht => ⟨fun hr => ?_, fun hr => ?_⟩,
    fun s cx die h hb hwh hr => ?_, fun t k s q hq hrun harm hbd => ?_⟩
  · refine completes_of (Eq.refl (execTrapTrap a num s)) hr rfl ?_
    rw [raiseAfter_tile hwh]
    simp only [coreRecord, fcTrap, Nat.mod_mod]
  · have hu := raiseAfter_hub (s := s) (word := num.toNat) (f := { code := fcTrap, info := (cx.data a).toNat % 2 ^ 64 }) hwh rfl
    simp only [hubRecord, Nat.mod_mod] at hu
    exact ⟨_, completes_of (Eq.refl (execTrapTrap a num s)) hr rfl rfl, hu⟩
  · refine ⟨_, halt_tile hr ht, fun j => ?_, ?_, rfl, ?_, fun k' hk => ?_, fun j => ?_, fun t' ht' hx hne => ?_⟩
    · rw [State.tile_modTile_self, Tile.slot, Tile.core_setCore_self, Core.halt_slot]
    · rw [State.tile_modTile_self, Tile.core_setCore_self]
      rfl
    · rw [State.tile_modTile_self]
      exact Tile.setCore_frame ..
    · rw [State.tile_modTile_self, Tile.core_setCore_other _ _ hk]
    · rw [State.tile_modTile_self, Tile.slot, Tile.core_setCore_self, Core.halt_slot]
      rfl
    · exact State.tile_modTile_ne _ _ hx ht' hne
  · intro k
    have he : exec (.hbeat a) s = execHbeat a s := rfl
    refine ⟨fun hk => tileForm_completes he hr ht ?_, fun hk => tileForm_completes he hr ht ?_⟩
    · simp only [show (cx.data a).toNat % 2 ^ 32 = 0 from hk, if_true]
    · simp only [show ¬(cx.data a).toNat % 2 ^ 32 = 0 from hk, if_false]
      rfl
  · refine ⟨_, completes_of (Eq.refl (execHalt s)) hr rfl (by rw [hwh]), ?_⟩
    have hu := raiseAfter_hub (s := s) (word := cx.word.toNat) (f := { code := fcTrap, reason := 0x30 }) hwh rfl
    exact hu
  · show execHeartbeat t k s = _
    simp only [execHeartbeat, hq]
    rw [if_pos ⟨hrun, harm, hbd⟩, hbd]
    rfl

end Sys2Proof.Machine

/-! ### sysrd and syswr -/

namespace Sys2Proof.Machine

/-- The numbers of a context's own registers that can be written (R25). -/
def OwnNum (n : Nat) : Prop := n < 8 ∨ 0x010 ≤ n ∧ n ≤ 0x012

section
variable {sl : Slot} {pc : DWord} {n : Nat} {v : Quad}

theorem ctxReg_none (h : ¬OwnNum n) (hne : n ≠ 0x013) : ctxReg sl pc n = none := by
  unfold OwnNum at h
  rw [ctxReg, dif_neg (by omega)]
  split <;> first | omega | rfl

theorem ctxWrite_none (h : ¬OwnNum n) : ctxWrite sl n v = none := by
  unfold OwnNum at h
  rw [ctxWrite, dif_neg (by omega)]
  split <;> first | omega | rfl

theorem ctxEffect_none {k : Side} {j : Fin 4} (h : ¬OwnNum n) : ctxEffect k j n v = none := by
  unfold OwnNum at h
  rw [ctxEffect, dif_neg (by omega)]
  split <;> first | omega | rfl

theorem hubReg_none {s : State} {d h : Nat} (hn : n < 0x801 ∨ 0x804 ≤ n ∧ n < 0x810) : s.hubReg d h n = none := by
  unfold State.hubReg
  split
  all_goals try omega
  rw [if_neg (by omega), if_neg (by simp only [isSpareNum, Bool.and_eq_true, decide_eq_true_eq]; omega)]

theorem hubRegWrite_none {s : State} {d h : Nat} (hn : n < 0x810) : s.hubRegWrite d h n v = none := by
  unfold State.hubRegWrite
  split
  all_goals try omega
  exact if_neg fun ⟨_, _, hlo, _⟩ => by omega

end

section
variable {d a : RegNo} {num : BitVec 12} {s : State} {cx : Cx}

theorem sysrd_ctx (hr : Ready (.sysrd d num) s cx) {v : CReg} (hv : ctxReg cx.slot cx.pc num.toNat = some v) :
    Completes (.sysrd d num) cx s (s.result cx d 1 v) .seq :=
  completes_of (Eq.refl (execSysrd d num s)) hr rfl (by simp only [hv])

/-- A hub reads a register that does not wait (R289). -/
theorem sysrd_hub {die h : Nat} {hb : Hub} (hwh : cx.wh = .hub die h hb) (hr : Ready (.sysrd d num) s cx)
    (hown : ctxReg cx.slot cx.pc num.toNat = none) (h0 : num.toNat ≠ 0x800) (h1 : num.toNat ≠ 0x811) {q : Quad}
    (hq : s.hubReg die h num.toNat = some q) : Completes (.sysrd d num) cx s (s.result cx d 1 (.plain q)) .seq := by
  refine completes_of (Eq.refl (execSysrd d num s)) hr rfl ?_
  simp only [hown, hwh, hq]

/-- The numbers that name no register that sysrd reads (R289). -/
theorem sysrd_illegal (hr : Ready (.sysrd d num) s cx) (hown : ctxReg cx.slot cx.pc num.toNat = none)
    (hn : ∀ die h hb, cx.wh = .hub die h hb → num.toNat < 0x800 ∨ 0x804 ≤ num.toNat ∧ num.toNat < 0x810) :
    Raises (.sysrd d num) cx s { code := 0x01 } := by
  refine raises_of (Eq.refl (execSysrd d num s)) hr rfl ?_
  simp only [hown]
  cases hwh : cx.wh with
  | tile t k j tl q => rfl
  | hub die h hb =>
    have hnum := hn die h hb hwh
    dsimp only
    split
    · omega
    · omega
    · rw [hubReg_none (by omega)]
      rfl

theorem syswr_tile {t : Coord} {k : Side} {j : Fin 4} {tl : Tile} {q : Part} (hwh : cx.wh = .tile t k j tl q)
    (hr : Ready (.syswr a num) s cx) {e : Eff} (he : ctxEffect k j num.toNat (cx.data a) = some e) :
    Completes (.syswr a num) cx s (s.due cx (cx.n + 3) e) .seq :=
  completes_of (Eq.refl (execSyswr a num s)) hr rfl (by simp only [hwh, he])

theorem syswr_hub {die h : Nat} {hb : Hub} (hwh : cx.wh = .hub die h hb) (hr : Ready (.syswr a num) s cx) {sl : Slot}
    (hsl : ctxWrite cx.slot num.toNat (cx.data a) = some sl) :
    Completes (.syswr a num) cx s (s.modHub die h fun y => { y with ctx := sl }) .seq :=
  completes_of (Eq.refl (execSyswr a num s)) hr rfl (by simp only [hwh, hsl, State.setCtx])

/-- The numbers that name no register that syswr writes (R289). -/
theorem syswr_illegal (hr : Ready (.syswr a num) s cx) (hown : ¬OwnNum num.toNat)
    (hn : ∀ die h hb, cx.wh = .hub die h hb → num.toNat < 0x810) : Raises (.syswr a num) cx s { code := 0x01 } := by
  refine raises_of (Eq.refl (execSyswr a num s)) hr rfl ?_
  cases hwh : cx.wh with
  | tile t k j tl q => simp only [ctxEffect_none hown]; rfl
  | hub die h hb =>
    have hnum := hn die h hb hwh
    have hspare : isSpareNum num.toNat = false := by
      simp only [isSpareNum, Bool.and_eq_false_imp, decide_eq_true_eq, decide_eq_false_iff_not]
      omega
    simp only [ctxWrite_none hown, hspare, hubRegWrite_none hnum]
    rfl

/-- TMSG of a hub: the oldest message that stands there, popped, or a wait for one (R281). -/
theorem sysrd_mailbox {die h : Nat} {hb : Hub} (hwh : cx.wh = .hub die h hb) (hr : Ready (.sysrd d 0x800) s cx) :
    let first := s.messages.find? fun (m : Message) => m.atHub die h && !m.popped
    (first = none → Completes (.sysrd d 0x800) cx s (s.modHub die h fun x => { x with wait := some .mailbox }) .stay) ∧
      ∀ m, first = some m → Completes (.sysrd d 0x800) cx s
        (({ s with messages := s.messages.map fun n => if n.ticket = m.ticket then { n with popped := true } else n } : State).result
          cx d 1 ⟨m.header, false⟩) .seq := by
  have he : exec (.sysrd d 0x800) s = execSysrd d 0x800 s := rfl
  have hown : ctxReg cx.slot cx.pc (0x800 : BitVec 12).toNat = none := rfl
  intro first
  refine ⟨fun hf => completes_of he hr rfl ?_, fun m hf => completes_of he hr rfl ?_⟩
  all_goals
    simp only [hown, hwh]
    rw [show (0x800 : BitVec 12).toNat = 0x800 from rfl]
    simp only [State.popMessage, show s.messages.find? _ = _ from hf]
  rfl

end

/-- Settles O45: the numbers of a context's own registers, the numbers of none, and a hub's own. -/
theorem systemRegisters : Obligations.SystemRegisters := by
  refine ⟨fun d a num s cx => ?_, fun d s cx die h hb hwh => ⟨sysrd_mailbox hwh, fun hr => ?_, fun hr => ?_, fun hr => ?_, fun hr => ?_⟩⟩
  · intro sl x fm fl reads writes
    have reads_of (v : CReg) (hv : ctxReg cx.slot cx.pc num.toNat = some v) : reads v := fun hr => sysrd_ctx hr hv
    have writes_of (e : Side → Fin 4 → Eff) (f : Slot → Slot) (he : ∀ k j, ctxEffect k j num.toNat x = some (e k j))
        (hf : ctxWrite cx.slot num.toNat x = some (f sl)) : writes e f := fun hr =>
      ⟨fun t k j tl q hwh => syswr_tile hwh hr (he k j), fun die h hb hwh => syswr_hub hwh hr hf⟩
    clear_value reads writes
    refine ⟨fun n hn => ⟨reads_of _ ?_, writes_of _ _ (fun k j => ?_) ?_⟩, ?_, ?_, ?_, ?_, ?_⟩
    · rw [hn, ctxReg, dif_pos n.isLt]; rfl
    · rw [hn, ctxEffect, dif_pos n.isLt]
    · rw [hn, ctxWrite, dif_pos n.isLt]
    · rintro rfl
      exact ⟨reads_of _ rfl, writes_of _ _ (fun _ _ => rfl) rfl⟩
    · rintro rfl
      exact ⟨reads_of _ rfl, writes_of _ _ (fun _ _ => rfl) rfl⟩
    · rintro rfl
      exact ⟨reads_of _ rfl, writes_of _ _ (fun _ _ => rfl) rfl⟩
    · rintro rfl
      exact reads_of _ rfl
    · intro own tile hub
      refine ⟨fun hn hown hne hr => sysrd_illegal hr (ctxReg_none hown fun h => hne (BitVec.eq_of_toNat_eq h)) fun die h hb hwh => ?_,
        fun hn hown hr => syswr_illegal hr hown fun die h hb hwh => ?_⟩
      · rcases hn with ⟨-, hn⟩ | ⟨-, hn⟩
        · exact Or.inl hn
        · exact hn
      · rcases hn with ⟨-, hn⟩ | ⟨-, hn⟩
        · exact Nat.lt_of_lt_of_le hn (by decide)
        · exact hn
  · exact sysrd_hub hwh hr rfl (by decide) (by decide) rfl
  · exact sysrd_hub hwh hr rfl (by decide) (by decide) rfl
  · exact sysrd_hub hwh hr rfl (by decide) (by decide) rfl
  · exact sysrd_hub hwh hr rfl (by decide) (by decide) rfl

end Sys2Proof.Machine

/-! ### tlb.w and tlb.inv -/

namespace Sys2Proof.Machine

theorem bits_zero (v hi : Nat) : bits v hi 0 = v % 2 ^ (hi + 1) := by
  rw [bits, pow_zero, Nat.div_one, Nat.sub_zero]

section
variable {i : Instr} {f : Nat → Nat → Cx → State → Chk (State × Next)} {s : State} {cx : Cx} {die h : Nat} {hb : Hub}

theorem hubForm_completes (he : exec i s = hubForm i f s) (hr : Ready i s cx) (hwh : cx.wh = .hub die h hb) {t : State} {nx : Next}
    (hf : f die h cx s = .ok (t, nx)) : Completes i cx s t nx :=
  completes_of he hr rfl (by simp only [hwh, hf])

theorem hubForm_raises (he : exec i s = hubForm i f s) (hr : Ready i s cx) (hwh : cx.wh = .hub die h hb) {e : Flt}
    (hf : f die h cx s = .error e) : Raises i cx s e :=
  raises_of he hr rfl (by simp only [hwh, hf])

end

theorem tlbW_outcome {a : RegNo} {imm : BitVec 12} {s : State} {cx : Cx} {die h : Nat} {hb : Hub} (hwh : cx.wh = .hub die h hb)
    (hr : Ready (.tlbW a imm) s cx) :
    let v := cx.data a
    (imm.toNat < 1024 ∨ (teV v = true ∧ teMalformed v = true) → Raises (.tlbW a imm) cx s { code := 0x01 }) ∧
      (1024 ≤ imm.toNat → (teV v = true → teMalformed v = false) →
        Completes (.tlbW a imm) cx s (s.setTe die imm.toNat (v &&& ~~~(1#128 <<< 126))) .seq) := by
  have he : exec (.tlbW a imm) s = execTlbW a imm s := rfl
  refine ⟨fun hbad => hubForm_raises he hr hwh ?_, fun hpin hok => hubForm_completes he hr hwh ?_⟩
  · by_cases hpin : imm.toNat < 1024
    · exact if_pos hpin
    · obtain ⟨hv, hm⟩ := hbad.resolve_left hpin
      simp only [if_neg hpin, hv, hm]
      rfl
  · have hgood : ¬(teV (cx.data a) && teMalformed (cx.data a)) = true := by
      rw [Bool.and_eq_true]
      exact fun ⟨hv, hm⟩ => Bool.false_ne_true ((hok hv).symm.trans hm)
    simp only [if_neg (Nat.not_lt.2 hpin), if_neg hgood]

/-- Settles O46: each of the two is one test and one change of the die's translation entries. -/
theorem translationWrites : Obligations.TranslationWrites := by
  intro a imm mode s cx die h hb hwh v
  refine ⟨fun hr => tlbW_outcome hwh hr, fun hr hans => ?_⟩
  intro sel u used ids tags chans
  have he : exec (.tlbInv a mode) s = execTlbInv a mode s := rfl
  refine ⟨fun hbad => hubForm_raises he hr hwh ?_, fun hmode hpin => ?_⟩
  · rw [← bits_zero _ 11] at hbad
    simp only [hans]
    exact if_pos hbad
  · have hgood : ¬(4 ≤ mode.toNat ∨ mode = 0 ∧ bits (cx.data a).toNat 11 0 < 1024) := by
      rintro (hm | ⟨hm, hlt⟩)
      · omega
      · exact Nat.not_lt.2 (hpin hm) (bits_zero _ 11 ▸ hlt)
    have hempty : (ids.isEmpty && tags.isEmpty && chans.isEmpty) = true ↔ ids = [] ∧ tags = [] ∧ chans = [] := by
      simp only [Bool.and_eq_true, List.isEmpty_iff, and_assoc]
    refine ⟨fun hnone => hubForm_completes he hr hwh ?_, fun hsome => hubForm_completes he hr hwh ?_⟩
    · simp only [hans, if_neg hgood]
      exact if_pos (hempty.2 hnone)
    · simp only [hans, if_neg hgood]
      exact if_neg fun h => hsome (hempty.1 h)

end Sys2Proof.Machine

/-! ### The Carousel forms -/

namespace Sys2Proof.Machine

section
variable {i : Instr} {f : Nat} {operand : Cx → Nat} {body : TileCx → Cx → Binding → State → Chk State} {s : State} {cx : Cx}
  {tc : TileCx}

/-- A Carousel form without a binding slips (R381). -/
theorem crsForm_unbound (he : exec i s = crsForm i f operand body s) (hr : Ready i s cx) (ht : cx.tile = .ok tc)
    (hb : tc.tile.binding = none) : Raises i cx s { code := 0x10, reason := 0x12, info := operand cx % 2 ^ 32 + f * 2 ^ 32 } :=
  tileForm_raises he hr ht (by simp only [hb]; rfl)

theorem crsForm_completes (he : exec i s = crsForm i f operand body s) (hr : Ready i s cx) (ht : cx.tile = .ok tc) {b : Binding}
    (hb : tc.tile.binding = some b) {t : State} (h : body tc cx b s = .ok t) : Completes i cx s t .seq :=
  tileForm_completes he hr ht (by simp only [hb, h])

theorem crsForm_raises (he : exec i s = crsForm i f operand body s) (hr : Ready i s cx) (ht : cx.tile = .ok tc) {b : Binding}
    (hb : tc.tile.binding = some b) {e : Flt} (h : body tc cx b s = .error e) : Raises i cx s e :=
  tileForm_raises he hr ht (by simp only [hb, h])

end

theorem RSlot.holds_iff (x : RSlot) (j : Nat) : x.holds j = true ↔ x.state = .full ∧ x.tag = j := by
  simp only [RSlot.holds, Bool.and_eq_true, beq_iff_eq]

section
variable {d a : RegNo} {s : State} {cx : Cx} {tc : TileCx} (ht : cx.tile = .ok tc)
include ht

/-- The forms of a tile without a binding (R381, R383 to R385). -/
theorem crs_unbound :
    let v := (cx.data a).toNat % 2 ^ 32
    let slips (i : Instr) (f x : Nat) : Prop := Ready i s cx → tc.tile.binding = none →
      Raises i cx s { code := 0x10, reason := 0x12, info := x + f * 2 ^ 32 }
    slips (.crsStep d) 1 0 ∧ slips (.crsSend a) 2 0 ∧ slips (.crsChk a) 3 v ∧ slips (.crsRel a) 4 v ∧ slips .crsClose 5 0 := by
  have of {i : Instr} {f : Nat} {o : Cx → Nat} {body : TileCx → Cx → Binding → State → Chk State}
      (he : exec i s = crsForm i f o body s) (hr : Ready i s cx) (hb : tc.tile.binding = none) :
      Raises i cx s { code := 0x10, reason := 0x12, info := o cx % 2 ^ 32 + f * 2 ^ 32 } := crsForm_unbound he hr ht hb
  exact ⟨(of (i := .crsStep d) (Eq.refl (execCrsStep d s)) :), (of (i := .crsSend a) (Eq.refl (execCrsSend a s)) :),
    (of (i := .crsChk a) (Eq.refl (execCrsChk a s)) :), (of (i := .crsRel a) (Eq.refl (execCrsRel a s)) :),
    (of (i := .crsClose) (Eq.refl (execCrsClose s)) :)⟩

/-- The forms of a tile with a binding (R383 to R385). -/
theorem crs_bound {b : Binding} (hb : tc.tile.binding = some b) :
    let v := (cx.data a).toNat % 2 ^ 32
    let holds : Prop := (b.slots[Fin.ofNat 4 v]).state = .full ∧ (b.slots[Fin.ofNat 4 v]).tag = v
    (Ready (.crsStep d) s cx → Completes (.crsStep d) cx s
        ((s.due cx cx.n (.crs .step)).result cx d 1 ⟨BitVec.ofNat 128 ((b.k.toNat + 1) % 2 ^ 32), false⟩) .seq) ∧
      (Ready (.crsChk a) s cx →
        (b.ring.n - 1 ≤ v → Raises (.crsChk a) cx s { code := 0x10, reason := 0x12, info := v + 3 * 2 ^ 32 }) ∧
        (v < b.ring.n - 1 → holds → Completes (.crsChk a) cx s s .seq) ∧
        (v < b.ring.n - 1 → ¬holds →
          Raises (.crsChk a) cx s { code := 0x11, reason := 0x06, info := (b.slots[Fin.ofNat 4 v]).info v })) ∧
      (Ready (.crsRel a) s cx → v < b.ring.n - 1 → holds →
        tc.tile.sendReads cx.n (b.ring.slotAt (v % 4)) (b.ring.slotAt (v % 4 + 1)) = false →
        Completes (.crsRel a) cx s (s.due cx cx.n (.crs (.released (Fin.ofNat 4 v) v))) .seq) ∧
      (Ready .crsClose s cx → (∀ x ∈ b.slots.toList, x.state = .empty) → (∀ y ∈ b.views.toList, y.lent = false) →
        (∀ x ∈ tc.tile.sends, x.step = none) → Completes .crsClose cx s (s.due cx cx.n (.crs .closed)) .seq) := by
  intro v holds
  refine ⟨fun hr => ?_, fun hr => ?_, fun hr hv hh hsend => ?_, fun hr hslots hviews hsends => ?_⟩
  · refine crsForm_completes (i := .crsStep d) (Eq.refl (execCrsStep d s)) hr ht hb ?_
    have hk : (b.k + 1).setWidth 128 = BitVec.ofNat 128 ((b.k.toNat + 1) % 2 ^ 32) := by
      rw [← BitVec.ofNat_toNat, BitVec.toNat_add]
      rfl
    rw [hk]
    rfl
  · have he : exec (.crsChk a) s = execCrsChk a s := rfl
    refine ⟨fun hv => crsForm_raises he hr ht hb ?_, fun hv hh => crsForm_completes he hr ht hb ?_,
      fun hv hh => crsForm_raises he hr ht hb ?_⟩
    · simp only [show b.ring.n - 1 ≤ (cx.data a).toNat % 2 ^ 32 from hv, if_true, ringFlt, Nat.mod_mod]
      rfl
    · simp only [show ¬b.ring.n - 1 ≤ (cx.data a).toNat % 2 ^ 32 from Nat.not_le.2 hv, if_false]
      exact if_pos ((RSlot.holds_iff _ v).2 hh)
    · simp only [show ¬b.ring.n - 1 ≤ (cx.data a).toNat % 2 ^ 32 from Nat.not_le.2 hv, if_false]
      exact if_neg fun h => hh ((RSlot.holds_iff _ v).1 h)
  · refine crsForm_completes (i := .crsRel a) (Eq.refl (execCrsRel a s)) hr ht hb (if_neg ?_)
    rintro (hle | hne | hread)
    · exact Nat.not_le.2 hv hle
    · rw [(RSlot.holds_iff _ v).2 hh] at hne
      cases hne
    · exact Bool.false_ne_true (hsend.symm.trans hread)
  · refine crsForm_completes (i := .crsClose) (Eq.refl (execCrsClose s)) hr ht hb (if_pos ?_)
    simp only [Bool.and_eq_true, List.all_eq_true, beq_iff_eq, Bool.not_eq_true', List.any_eq_false]
    refine ⟨⟨hslots, hviews⟩, fun x hx => ?_⟩
    rw [hsends x hx]
    exact fun h => Bool.false_ne_true h.1

/-- crs.send lends the view of the present step (R374, R377, R384). -/
theorem crsSend_completes {b : Binding} (hb : tc.tile.binding = some b) (hr : Ready (.crsSend a) s cx)
    (hk : b.k.toNat < b.ring.n - 1) (hup : s.lyderUp b.ring.sport = true) {o : Nat}
    (hspan : let high := decide (0x8000 ≤ (cx.data a).toNat % 2 ^ 64)
      checkSpan (cx.read a) 0 (16 * (b.ring.sq + 1)) 0x001 16 (winLo high) (winHi high) = .ok o)
    (hlent : (b.views[Fin.ofNat 4 b.k.toNat]).lent = false) :
    Completes (.crsSend a) cx s ((s.due cx cx.n (.crs (.sent (Fin.ofNat 4 b.k.toNat) b.k.toNat))).beginSend tc.part.pid tc.t
      ⟨cx.n, b.ring.sq + 1, o, tc.j, (attach b.ring.sport).1,
        some ⟨b.ring.sport, 0x8000 + b.k.toNat % 4, b.k.toNat, b.ring.succ, b.ring.sq + 1, 0⟩, some b.k.toNat⟩) .seq := by
  refine crsForm_completes (i := .crsSend a) (Eq.refl (execCrsSend a s)) hr ht hb ?_
  rw [← capCur_toNat] at hspan
  replace hspan : checkSpan (cx.read a) 0 (16 * (b.ring.sq + 1)) pLD 16 (winLo (decide (0x8000 ≤ (capCur (cx.data a)).toNat)))
    (winHi (decide (0x8000 ≤ (capCur (cx.data a)).toNat))) = .ok o := hspan
  simp only [if_neg (Nat.not_le.2 hk), hup, Bool.not_true, Bool.false_eq_true, if_false, hspan, hlent]
  rfl

end

/-- What a well-formed ring record obeys (R373, R375). -/
theorem ringOk_iff (l : List Byte) (r : RingRec) : ringOk l r = true ↔
    2 ≤ r.n ∧ r.n ≤ 64 ∧ r.rport < 64 ∧ r.sport < 64 ∧ r.sbase % 16 = 0 ∧ r.sq < 1024 ∧ r.pred < 2 ^ 20 ∧ r.succ < 2 ^ 20 ∧
      leNat ((l.drop 10).take 2) = 0 ∧ leNat ((l.drop 20).take 12) = 0 ∧
      (r.sbase + 4 * (16 * (r.sq + 1)) ≤ 0x8000 ∨ (0x8000 ≤ r.sbase ∧ r.sbase + 4 * (16 * (r.sq + 1)) ≤ 0x18000)) ∧
      (r.rport = r.sport → r.n = 2 ∧ r.pred = r.succ) := by
  have hslot : r.slotAt 4 = r.sbase + 4 * (16 * (r.sq + 1)) := by rw [RingRec.slotAt, RingRec.slotBytes, Nat.mul_comm]
  simp only [ringOk, recNat, hslot, Bool.and_eq_true, Bool.or_eq_true, decide_eq_true_eq, beq_iff_eq, bne_iff_ne]
  constructor
  · rintro ⟨⟨⟨⟨⟨⟨hn, hn', hrp, hsp, hbase, hsq⟩, hres⟩, hres'⟩, hpred, hsucc⟩, hin⟩, hports⟩
    exact ⟨hn, hn', hrp, hsp, hbase, hsq, hpred, hsucc, hres, hres', hin, fun h => hports.resolve_left fun hne => hne h⟩
  · rintro ⟨hn, hn', hrp, hsp, hbase, hsq, hpred, hsucc, hres, hres', hin, hports⟩
    exact ⟨⟨⟨⟨⟨⟨hn, hn', hrp, hsp, hbase, hsq⟩, hres⟩, hres'⟩, hpred, hsucc⟩, hin⟩, (em _).symm.imp id hports⟩

theorem State.lyderGroup_iff (s : State) (p : Nat) :
    s.lyderGroup p = true ↔ (s.group (p / 4)).state = .up ∧ (s.group (p / 4)).pers = 0 := by
  simp only [State.lyderGroup, Bool.and_eq_true, beq_iff_eq]

section
variable {a : RegNo} {s : State} {cx : Cx} {tc : TileCx} {o : Nat} (ht : cx.tile = .ok tc) (hr : Ready (.crsOpen a) s cx)
  (hspan : checkSpan (cx.read a) 0 32 0x001 16 0 0x8000 = .ok o) (hd : tc.tile.damage = [])
include ht hr hspan hd

/-- crs.open, its tests in their order (R382). -/
theorem crsOpen_outcome :
    let l := Mem.read s.mem (tileAddr tc.t o) 32
    let r := ringRec l
    let form : Prop := tc.part.inTroupe = true ∧ ringOk l r = true ∧ (attach r.rport).1 = tc.t
    let free : Prop := tc.tile.binding = none ∧ s.portBound r.rport = false ∧ s.portBound r.sport = false
    let path : Prop := s.lyderGroup r.rport = true ∧ s.lyderGroup r.sport = true ∧ (s.port r.rport).peer = r.pred ∧
      (s.port r.sport).peer = r.succ
    (¬form → Raises (.crsOpen a) cx s { code := 0x02 }) ∧
      (form → ¬free → Raises (.crsOpen a) cx s
        { code := 0x10, reason := 0x12, info := (tc.tile.binding.map fun b => b.k.toNat).getD 0 }) ∧
      (form → free → ¬path → Raises (.crsOpen a) cx s { code := 0x2A, info := o }) ∧
      (form → free → path → Completes (.crsOpen a) cx s
        (s.due cx cx.n (.crs (.opened (Binding.fresh r tc.part.lrec.seq)))) .seq) := by
  intro l r form free path
  have he : exec (.crsOpen a) s = execCrsOpen a s := rfl
  have hform : (!tc.part.inTroupe || !ringOk l r || (attach r.rport).1 != tc.t) = true ↔ ¬form := by
    simp only [form, Bool.or_eq_true, Bool.not_eq_true', bne_iff_ne, not_and_or, Bool.not_eq_true, or_assoc, ne_eq]
  have hfree : (tc.tile.binding.isSome || s.portBound r.rport || s.portBound r.sport) = true ↔ ¬free := by
    simp only [free, Bool.or_eq_true, not_and_or, Bool.not_eq_false, or_assoc, ← Option.isSome_iff_ne_none]
  have hpath : (!s.lyderGroup r.rport || !s.lyderGroup r.sport || (s.port r.rport).peer != r.pred ||
      (s.port r.sport).peer != r.succ) = true ↔ ¬path := by
    simp only [path, Bool.or_eq_true, Bool.not_eq_true', bne_iff_ne, not_and_or, Bool.not_eq_true, or_assoc, ne_eq]
  have hinfo : ringFlt 0 ((tc.tile.binding.map fun b => b.k.toNat).getD 0) =
      { code := 0x10, reason := 0x12, info := (tc.tile.binding.map fun b => b.k.toNat).getD 0 } := by
    cases tc.tile.binding with
    | none => rfl
    | some b => simp only [ringFlt, Option.map_some, Option.getD_some, Nat.mod_eq_of_lt b.k.isLt, Nat.zero_mul, Nat.add_zero]; rfl
  replace hspan : checkSpan (cx.read a) 0 32 pLD 16 0 0x8000 = .ok o := hspan
  refine ⟨fun h => tileForm_raises he hr ht ?_, fun h h2 => tileForm_raises he hr ht ?_, fun h h2 h3 => tileForm_raises he hr ht ?_,
    fun h h2 h3 => tileForm_completes he hr ht ?_⟩
  all_goals simp only [hspan, Tile.eccAt_sound hd]
  · exact if_pos (hform.2 h)
  · rw [← hinfo]
    exact (if_neg fun hn => hform.1 hn h).trans (if_pos (hfree.2 h2))
  · exact (if_neg fun hn => hform.1 hn h).trans ((if_neg fun hn => hfree.1 hn h2).trans (if_pos (hpath.2 h3)))
  · exact (if_neg fun hn => hform.1 hn h).trans ((if_neg fun hn => hfree.1 hn h2).trans (if_neg fun hn => hpath.1 hn h3))

end

/-- Settles O47: without a binding every form slips, with one each is its tests and one effect of the issue cycle, and crs.open
is three tests and one effect. -/
theorem carouselForms : Obligations.CarouselForms := by
  refine ⟨fun d a s cx tc ht => ?_, fun s t q b new pid bad i n hq hb => ?_⟩
  · intro v unbound
    refine ⟨?_, fun b hb => ?_, fun o hr hspan hd => ?_⟩
    · exact crs_unbound ht
    · obtain ⟨hstep, hchk, hrel, hclose⟩ := crs_bound (d := d) (a := a) (s := s) ht hb
      exact ⟨hstep, fun o hr hk hup hspan hlent => crsSend_completes ht hb hr hk hup hspan hlent,
        fun hr => have ⟨hend, hfull, hnot⟩ := hchk hr
          ⟨hend, fun hv hs ht => hfull hv ⟨hs, ht⟩, hnot⟩,
        fun hr hv hfull htag => hrel hr hv ⟨hfull, htag⟩, hclose⟩
    · intro l r up good
      have hgood : ringOk l r = true ↔ good := ringOk_iff l r
      obtain ⟨hform, hbound, hpath, hopen⟩ := crsOpen_outcome ht hr hspan hd
      refine ⟨fun h => hform fun ⟨hin, hok, hat⟩ => ?_, fun hin hg hat => ?_⟩
      · rcases h with h | h | h
        · exact Bool.false_ne_true (h.symm.trans hin)
        · exact h (hgood.1 hok)
        · exact h hat
      · have hf : tc.part.inTroupe = true ∧ ringOk l r = true ∧ (attach r.rport).1 = tc.t := ⟨hin, hgood.2 hg, hat⟩
        refine ⟨fun b hb => ?_, fun hb hport => ?_, fun hb hrp hsp => ⟨fun h => hpath hf ⟨hb, hrp, hsp⟩ fun ⟨h1, h2, h3, h4⟩ => ?_,
          fun h1 h2 h3 h4 => hopen hf ⟨hb, hrp, hsp⟩ ⟨(s.lyderGroup_iff _).2 h1, (s.lyderGroup_iff _).2 h2, h3, h4⟩⟩⟩
        · have := hbound hf fun ⟨hnone, _⟩ => by rw [hb] at hnone; cases hnone
          rwa [hb] at this
        · have := hbound hf fun ⟨_, h1, h2⟩ =>
            hport.elim (fun h => Bool.false_ne_true (h1.symm.trans h)) fun h => Bool.false_ne_true (h2.symm.trans h)
          rwa [hb] at this
        · rcases h with h | h | h | h
          · exact h ((s.lyderGroup_iff _).1 h1)
          · exact h ((s.lyderGroup_iff _).1 h2)
          · exact h h3
          · exact h h4
  · refine ⟨?_, ?_, ?_, ?_, ?_⟩ <;> simp only [State.effectDue, State.crsEffect, hb, hq] <;> rfl

end Sys2Proof.Machine

/-! ### The dispositions of a message -/

namespace Sys2Proof.Machine

/-- A fold of changes that leave a field leaves it. -/
theorem foldl_keeps {α β : Type} (p : State → β) {f : State → α → State} (hf : ∀ s x, p (f s x) = p s) (l : List α) (s : State) :
    p (l.foldl f s) = p s := by
  induction l generalizing s with
  | nil => rfl
  | cons x r ih => rw [List.foldl_cons, ih, hf]

/-- A partition changed by a change that leaves its own number. -/
theorem State.part_modPart_at {s : State} {pid : Nat} {q : Part} {f : Part → Part} (hq : s.part pid = some q)
    (hf : (f q).pid = pid) : (s.modPart pid f).part pid = some (f q) := by
  simp only [State.part, State.modPart_parts] at hq ⊢
  generalize s.parts = l at hq ⊢
  induction l with
  | nil => cases hq
  | cons x r ih =>
    rw [List.find?_cons] at hq
    rw [List.map_cons, List.find?_cons]
    by_cases hx : x.pid = pid
    · simp only [hx, beq_self_eq_true, Option.some.injEq] at hq
      subst hq
      simp [hx, hf]
    · have hne : (x.pid == pid) = false := beq_false_of_ne hx
      simp only [hne, Bool.false_eq_true, if_false] at hq ⊢
      exact ih hq

section
variable (s : State) (pid : Nat)

/-- The header's fields are bytes of memory (R299). -/
theorem State.refreshHeader_frame : { s.refreshHeader pid with mem := s.mem } = s := by
  unfold State.refreshHeader
  split
  · rfl
  · refine (foldl_keeps (fun u => { u with mem := s.mem }) (fun u x => ?_) _ s :)
    rfl

theorem State.refreshHeader_parts : (s.refreshHeader pid).parts = s.parts :=
  (congrArg State.parts (s.refreshHeader_frame pid) :)

theorem State.refreshHeader_tiles : (s.refreshHeader pid).tiles = s.tiles :=
  (congrArg State.tiles (s.refreshHeader_frame pid) :)

theorem State.refreshHeader_messages : (s.refreshHeader pid).messages = s.messages :=
  (congrArg State.messages (s.refreshHeader_frame pid) :)

theorem State.refreshHeader_part (n : Nat) : (s.refreshHeader pid).part n = s.part n := by
  rw [State.part, State.refreshHeader_parts, State.part]

theorem State.refreshHeader_tile (t : Coord) : (s.refreshHeader pid).tile t = s.tile t := by
  rw [State.tile, State.refreshHeader_tiles, State.tile]

/-- Refreshing a header writes the first 0x100 bytes of the save area (R299). -/
theorem State.get_refreshHeader {q : Part} (hq : s.part pid = some q) (hw : Mem.wf s.mem = true) {x : Nat}
    (hx : x < hbmAddr q.saveAt ∨ hbmAddr q.saveAt + 0x100 ≤ x) :
    Mem.get (s.refreshHeader pid).mem x = Mem.get s.mem x := by
  have write (u : State) (off n v : Nat) (hoff : off + n ≤ 0x100) (hu : Mem.wf u.mem = true ∧ Mem.get u.mem x = Mem.get s.mem x) :
      Mem.wf (u.areaWrite q off (leBytes n v)).mem = true ∧ Mem.get (u.areaWrite q off (leBytes n v)).mem x = Mem.get s.mem x := by
    refine ⟨State.areaWrite_wf _ _ _ _ hu.1, ?_⟩
    rw [← hu.2]
    refine Mem.get_write_other _ ?_ hu.1
    rw [leBytes_length]
    unfold hbmAddr at hx ⊢
    omega
  simp only [State.refreshHeader, hq, List.foldl_cons, List.foldl_nil]
  have h0 := write s 13 1 q.formCode (by decide) ⟨hw, rfl⟩
  have h1 := write _ 15 1 q.cause (by decide) h0
  have h2 := write _ 28 4 q.faults.length (by decide) h1
  have h3 := write _ 52 4 q.nheld (by decide) h2
  exact (write _ 80 4 q.flags (by decide) h3).2

end

/-! Writing out (R297). -/

/-- Two states with the same partitions and messages. -/
def State.SameParts (s u : State) : Prop := u.parts = s.parts ∧ u.messages = s.messages

section
variable {s u v : State} {pid : Nat} {q q' : Part}

theorem State.SameParts.refl (s : State) : s.SameParts s := ⟨rfl, rfl⟩

theorem State.sameParts_first (s : State) (l : List Act) : s.SameParts (s.first l) := ⟨rfl, rfl⟩

theorem State.SameParts.trans (h : s.SameParts u) (h' : u.SameParts v) : s.SameParts v :=
  ⟨h'.1.trans h.1, h'.2.trans h.2⟩

theorem State.SameParts.foldl {α : Type} {f : State → α → State} (hf : ∀ (s : State) x, s.SameParts (f s x)) (l : List α) (s : State) :
    s.SameParts (l.foldl f s) :=
  ⟨foldl_keeps State.parts (fun s x => (hf s x).1) l s, foldl_keeps State.messages (fun s x => (hf s x).2) l s⟩

theorem State.sameParts_refreshHeader (s : State) (pid : Nat) : s.SameParts (s.refreshHeader pid) :=
  ⟨s.refreshHeader_parts pid, s.refreshHeader_messages pid⟩

theorem State.sameParts_reportRecord (s : State) (r : FRec) : s.SameParts (s.reportRecord r) :=
  ⟨(congrArg State.parts (State.reportRecord_frame s r) :), (congrArg State.messages (State.reportRecord_frame s r) :)⟩

theorem State.sameParts_withdraw (s : State) (pid : Nat) : s.SameParts (s.withdraw pid) := by
  unfold State.withdraw
  (repeat' split) <;> exact ⟨rfl, rfl⟩

theorem State.sameParts_savePcs (s : State) (q : Part) : s.SameParts (s.savePcs q) := by
  refine State.SameParts.foldl (fun s p => ?_) _ s
  exact ⟨rfl, rfl⟩

theorem State.sameParts_saveHeader (s : State) (q : Part) : s.SameParts (s.saveHeader q) := ⟨rfl, rfl⟩

/-- A state of `s` in which a partition stands written out and no message has come or gone (R297). -/
def State.OutOf (s v : State) (pid : Nat) : Prop :=
  v.messages = s.messages ∧ ∃ q, v.part pid = some q ∧ q.form = .writtenOut

/-- A state that puts `q'` in the partition's place. -/
theorem State.outOf_modPart (hq : s.part pid = some q) (hu : s.SameParts u) (hv : (u.modPart pid fun _ => q').SameParts v)
    (hf : q'.form = .writtenOut) (hp : q'.pid = pid) : s.OutOf v pid := by
  have hq : u.part pid = some q := by rw [State.part, hu.1]; exact hq
  refine ⟨hv.2.trans hu.2, q', ?_, hf⟩
  rw [State.part, hv.1]
  exact State.part_modPart_at hq hp

theorem State.writeOut_outcome (hq : s.part pid = some q) : s.OutOf (s.writeOut pid) pid := by
  have hpid : q.pid = pid := by simpa using List.find?_some hq
  have freed (u : State) : u.SameParts (q.members.foldl (fun s t => s.modTile t fun _ => .powerOn) u) :=
    State.SameParts.foldl (f := fun s t => s.modTile t fun _ => .powerOn) (fun _ _ => ⟨rfl, rfl⟩) _ u
  simp only [State.writeOut, hq]
  split
  next hf => exact ⟨rfl, q, hq, hf⟩
  split
  · exact State.outOf_modPart hq (freed s) (State.sameParts_refreshHeader _ _) rfl hpid
  · generalize q.members.flatMap (fun t => (s.tile t).damage.map (damageRecord (s.tile t) t q.cyc)) = found
    have saved := (State.SameParts.foldl State.sameParts_reportRecord found s).trans
      (State.SameParts.foldl (f := fun s t => s.saveTile q t) (fun _ _ => ⟨rfl, rfl⟩) q.members _)
    have hu (q' : Part) := ((saved.trans (State.sameParts_savePcs _ q)).trans (State.sameParts_saveHeader _ q')).trans (freed _)
    cases found with
    | nil =>
      simp only [List.isEmpty_nil, if_true]
      exact State.outOf_modPart hq (hu _) (State.SameParts.refl _) rfl hpid
    | cons r l =>
      have hq' : (q.withCause 1).pid = pid := (congrArg Part.pid (Part.withCause_frame q 1) :).trans hpid
      simp only [List.isEmpty_cons, Bool.false_eq_true, if_false]
      exact State.outOf_modPart hq (hu _) ((State.sameParts_withdraw _ _).trans (State.sameParts_first _ _)) rfl hq'

end

section
variable {s : State} {m : Message} {t : Coord} {q : Part}

/-- A message that has been dropped is gone. -/
theorem State.dropMessage_gone {u : State} (hu : u.messages = (s.dropMessage m).messages) : ∀ n ∈ u.messages, n.ticket ≠ m.ticket := by
  intro n hn
  rw [hu, State.dropMessage, List.mem_filter, bne_iff_ne] at hn
  exact hn.2

/-- The chain halts a partition (R168, R283, R285). -/
theorem State.haltPart_outcome (hq : s.part m.pid = some q) (code : Nat) :
    (s.haltPart m.pid code).messages = s.messages ∧
      ∃ q', (s.haltPart m.pid code).part m.pid = some q' ∧ q'.halted = some code ∧ q'.message = none ∧ q'.form = .writtenOut := by
  obtain ⟨hmsg, q', hq', hf⟩ := State.writeOut_outcome hq
  exact ⟨hmsg, _, State.part_modPart_self hq' fun _ => rfl, rfl, rfl, hf⟩

/-- A partition in which a cause has ended; with the last one, one held in place begins its restart (R295, R305). -/
def Part.endCause (rmt c : Nat) (q : Part) : Part :=
  { q with
    causes := eraseAll q.causes c
    restartAt := if (eraseAll q.causes c).isEmpty && !q.causes.isEmpty && q.form == .held then some rmt else q.restartAt }

theorem State.endCause_eq (s : State) (pid c : Nat) :
    s.endCause pid c = (s.modPart pid (Part.endCause s.rmt c)).refreshHeader pid := rfl

/-- The state after a partition's message and its fault's cause have ended (R283). -/
def State.resumed (s : State) (pid : Nat) : State := (s.modPart pid fun q => { q with message := none }).endCause pid 1

/-- The partition after its message and its fault's cause have ended. -/
def Part.resumed (rmt : Nat) (q : Part) : Part := ({ q with message := none } : Part).endCause rmt 1

section
variable {pid : Nat} (hq : s.part pid = some q)
include hq

theorem State.resumed_part : (s.resumed pid).part pid = some (q.resumed s.rmt) := by
  rw [State.resumed, State.endCause_eq, State.refreshHeader_part]
  have hq' : (s.modPart pid fun q => { q with message := none }).part pid = some { q with message := none } :=
    State.part_modPart_self (f := fun q => { q with message := none }) hq fun _ => rfl
  exact State.part_modPart_self (f := Part.endCause s.rmt 1) hq' fun _ => rfl

theorem State.resumed_header (hw : Mem.wf s.mem = true) {x : Nat} (hx : x < hbmAddr q.saveAt ∨ hbmAddr q.saveAt + 0x100 ≤ x) :
    Mem.get (s.resumed pid).mem x = Mem.get s.mem x := by
  have hq' := State.resumed_part hq
  rw [State.resumed, State.endCause_eq, State.refreshHeader_part] at hq'
  exact State.get_refreshHeader _ pid hq' hw hx

end

theorem State.resumed_keeps (s : State) (pid : Nat) : (s.resumed pid).messages = s.messages ∧ (s.resumed pid).tiles = s.tiles :=
  ⟨State.refreshHeader_messages _ _, State.refreshHeader_tiles _ _⟩

theorem Part.resumed_outcome (rmt : Nat) (q : Part) :
    (q.resumed rmt).message = none ∧ 1 ∉ (q.resumed rmt).causes ∧
      (q.form = .held → (∀ c ∈ q.causes, c = 1) → q.causes ≠ [] → (q.resumed rmt).restartAt = some rmt) := by
  refine ⟨rfl, fun h => (mem_eraseAll.1 h).2 rfl, fun hf hall hne => ?_⟩
  have hnil : eraseAll q.causes 1 = [] := List.filter_eq_nil_iff.2 fun c hc => by simp [hall c hc]
  simp [Part.resumed, Part.endCause, hnil, hf, hne]

/-- A lost tile keeps its group table, counts, watchdogs and damage, and what other tiles have sent it (R284). -/
theorem Tile.lose_outcome (tl : Tile) (t : Coord) :
    let u := tl.lose t
    u.lost = true ∧ (∀ k j, (u.slot k j).live = false) ∧ u.lq = [] ∧ u.sq = [] ∧ u.mma = none ∧ u.image = none ∧
      (∀ i : Fin 4, u.win[i] = 0 ∧ u.chans[i] = .cleared ∧ u.z[i] = .cleared) ∧
      (∀ p, p ∈ u.pend ↔ p ∈ tl.pend ∧ p.eff.foreign t = true) ∧ u.gtab = tl.gtab ∧ u.iss = tl.iss ∧ u.ans = tl.ans ∧
      ∀ k, (u.core k).armed = (tl.core k).armed ∧ (u.core k).hbd = (tl.core k).hbd := by
  refine ⟨rfl, fun k j => ?_, rfl, rfl, rfl, rfl, fun i => ?_, fun p => List.mem_filter, rfl, rfl, rfl, fun k => ?_⟩
  · have hslots : ((tl.lose t).core k).slots = Vector.replicate 4 Slot.cleared := by cases k <;> rfl
    simp only [Tile.slot, hslots]
    simp [Slot.cleared]
  · simp [Tile.lose, Tile.powerOn]
  · cases k <;> exact ⟨rfl, rfl⟩

end

/-! Isolation and the messages of hubs (R284, R285). -/

section
variable {s : State} {m : Message} {q : Part}

/-- The partition's lists without those of a lost tile (R259, R284). -/
def Part.isolate (t : Coord) (q : Part) : Part :=
  { q with reoffer := q.reoffer.filter fun r => r.1 != t, requests := q.requests.filter fun r => r.tile != t
           redWaits := q.redWaits.filter fun w => w.tile != t, xlate := q.xlate.filter fun w => w.tile != t }

/-- ISOLATE of a tile of a partition that has not been written out (R284). -/
theorem State.isolate_outcome {pid : Nat} (hq : s.part pid = some q) (hw : q.written = false) (t : Coord) :
    let u := s.isolate pid t
    u.messages = s.messages ∧ u.mem = s.mem ∧ u.rmt = s.rmt ∧ u.tile t = (s.tile t).lose t ∧
      (∀ t', t'.x < 1024 → t.x < 1024 → t' ≠ t → u.tile t' = s.tile t') ∧
      ∃ q', u.part pid = some q' ∧ q'.saveAt = q.saveAt ∧ q'.form = q.form ∧ q'.causes = q.causes ∧
        q'.reoffer = q.reoffer.filter fun r => r.1 != t := by
  intro u
  have hu : u = (s.modTile t fun tl => tl.lose t).modPart pid (Part.isolate t) := by
    simp only [u, State.isolate, hq, hw, Bool.false_eq_true, if_false]
    rfl
  rw [hu]
  exact ⟨rfl, rfl, rfl, (State.tile_modPart ..).trans (State.tile_modTile_self ..),
    fun t' ht' ht hne => (State.tile_modPart ..).trans (State.tile_modTile_ne _ _ ht ht' hne), _,
    State.part_modPart_self (s := s.modTile t fun tl => tl.lose t) (f := Part.isolate t) hq fun _ => rfl, rfl, rfl, rfl, rfl⟩

end

section
variable (s : State)

/-- Bytes written at a ring's address touch HBM and its pseudo-channel only (R212). -/
theorem State.hbmStore_frame (a : Nat) (l : List Byte) :
    { s.hbmStore a l with mem := s.mem, hbmDamage := s.hbmDamage, pcs := s.pcs } = s := by
  unfold State.hbmStore State.arriveHbm
  split <;> rfl

theorem State.ringStore_frame (base : DWord) (off : Nat) (l : List Byte) :
    { s.ringStore base off l with mem := s.mem, hbmDamage := s.hbmDamage, pcs := s.pcs } = s := by
  unfold State.ringStore
  split
  · exact State.hbmStore_frame ..
  · rfl

/-- A state with what the writing of notices touches as another has it: HBM, the messages' times, and of the ring NTAIL and what
waits (R331). -/
def State.besideNotices (s u : State) : State :=
  { u with mem := s.mem, hbmDamage := s.hbmDamage, pcs := s.pcs, messages := s.messages
           ring := { u.ring with ntail := s.ring.ntail, notices := s.ring.notices } }

variable {s} {u v : State}

theorem State.besideNotices_trans (h : s.besideNotices u = s) (h' : u.besideNotices v = u) : s.besideNotices v = s :=
  (show s.besideNotices v = s.besideNotices (u.besideNotices v) from rfl).trans ((congrArg s.besideNotices h').trans h)

theorem State.flushNotices_frame (n : Nat) (s : State) : s.besideNotices (s.flushNotices n) = s := by
  induction n generalizing s with
  | zero => rfl
  | succ n ih =>
    unfold State.flushNotices
    split
    · rfl
    · split
      · refine State.besideNotices_trans ?_ (ih _)
        exact (congrArg s.besideNotices (State.ringStore_frame s s.ring.nbase _ _) :)
      · rfl

theorem State.postNotice_frame (s : State) (n : Notice) : s.besideNotices (s.postNotice n) = s := by
  unfold State.postNotice
  refine State.besideNotices_trans ?_ (State.flushNotices_frame _ _)
  split <;> rfl

theorem State.postNotice_hub (s : State) (n : Notice) (d h : Nat) : (s.postNotice n).hub d h = s.hub d h := by
  have hhubs : (s.postNotice n).hubs = s.hubs := (congrArg State.hubs (s.postNotice_frame n) :)
  have hring : (s.postNotice n).ring.started = s.ring.started := (congrArg (fun u => u.ring.started) (s.postNotice_frame n) :)
  rw [State.hub, hhubs, hring, State.hub]

end

section
variable {s : State} {m : Message}

/-- The level that a message goes up to: the first above whose hub has not failed (R282, R283). -/
theorem State.heldLevel_eq (s : State) (l d : Nat) :
    s.heldLevel l d = if l = 1 ∧ (s.hub d 0).failed = false then 1 else if l ≤ 2 ∧ (s.hub 0 63).failed = false then 2 else 3 := by
  simp only [State.heldLevel, Bool.not_eq_true']

theorem State.mem_lift {p : Message → Bool} {n : Message} : n ∈ (s.lift p).messages ↔
    (n ∈ s.messages ∧ p n = false) ∨
      ∃ n0 ∈ s.messages, p n0 = true ∧ n = { n0 with level := s.heldLevel (n0.level + 1) n0.die, popped := false } := by
  simp only [State.lift, List.mem_append, List.mem_filter, List.mem_map, Bool.not_eq_true', and_assoc, eq_comm (a := n)]

/-- A hub whose chain is exhausted has failed (R285). -/
theorem State.exhaust_hub (ho : m.origin = true) :
    (s.exhaust m).hub (m.loc % 16) (m.loc / 16) = { s.hub (m.loc % 16) (m.loc / 16) with failed := true } := by
  simp only [State.exhaust, ho, if_true, State.postNotice_hub, Message.hub]
  exact (State.hub_modHub_self (s.dropMessage m) (m.loc % 16) (m.loc / 16) fun hb => { hb with failed := true } :)

end

/-- tret is one test and one disposition (R288). -/
theorem tret_outcome {i : Instr} {a : RegNo} {s : State} {cx : Cx} {die h : Nat} {hb : Hub} (he : exec i s = tret i a s)
    (hr : Ready i s cx) (hwh : cx.wh = .hub die h hb) :
    let v := (cx.data a).toNat
    let disp := v / 2 ^ 16 % 16
    let t : Coord := ⟨v / 2 ^ 20 % 2 ^ 10, v / 2 ^ 30 % 2 ^ 8⟩
    let found := s.messages.find? fun (m : Message) => m.ticket == v % 2 ^ 16 && m.atHub die h && m.popped
    (found = none → Raises i cx s { code := 0x01 }) ∧
      ∀ m, found = some m →
        (s.dispOk m disp t = true → Completes i cx s (s.dispose m disp t) .seq) ∧
        (s.dispOk m disp t = false → Raises i cx s { code := 0x01 }) := by
  intro v disp t found
  have hfind : (s.messages.find? fun (m : Message) => m.ticket == bits v 15 0 && m.atHub die h && m.popped) = found := by
    rw [bits_zero]
  refine ⟨fun hnone => hubForm_raises he hr hwh (e := { code := 0x01 }) ?_, fun m hm => ⟨fun hok => hubForm_completes he hr hwh ?_,
    fun hok => hubForm_raises he hr hwh ?_⟩⟩
  · dsimp only
    rw [hfind, hnone]
    rfl
  · dsimp only
    rw [hfind, hm]
    exact if_pos hok
  · dsimp only
    rw [hfind, hm]
    exact if_neg (Bool.not_eq_true _ ▸ hok)

/-! The dispositions, as one state operation each (R283, R284). -/

section
variable {s : State} {m : Message} {t : Coord}

theorem State.dispose_resume (ho : m.origin = false) : s.dispose m 0 t = (s.dropMessage m).resumed m.pid := by
  simp only [State.dispose, ho]
  rfl

theorem State.dispose_abandon (ho : m.origin = false) : s.dispose m 1 t = (s.dropMessage m).haltPart m.pid m.code := by
  simp only [State.dispose, ho]
  rfl

theorem State.dispose_last (ho : m.origin = false) (hl : m.level = 3) :
    s.dispose m 2 t = (s.dropMessage m).haltPart m.pid m.code := by
  simp only [State.dispose, hl, if_true, State.exhaust, ho]
  rfl

theorem State.dispose_isolate (ho : m.origin = false) :
    s.dispose m 3 t = ((s.dropMessage m).isolate m.pid t).resumed m.pid := by
  simp only [State.dispose, ho]
  rfl

theorem State.dispose_forward (hl : m.level ≠ 3) : s.dispose m 2 t = s.lift fun n => n.ticket == m.ticket := by
  simp only [State.dispose, if_true, if_neg hl]

theorem State.dispose_hub_resume (ho : m.origin = true) : s.dispose m 0 t =
    (s.dropMessage m).modHub (m.loc % 16) (m.loc / 16) fun hb => { hb with stopped := false, ctx := { hb.ctx with fbuf := ⟨0, []⟩ } } := by
  simp only [State.dispose, ho]
  rfl

theorem State.dispose_hub_abandon (ho : m.origin = true) : s.dispose m 1 t =
    (s.dropMessage m).modHub (m.loc % 16) (m.loc / 16) fun hb =>
      { hb with stopped := false, ctx := Hub.entry (m.loc % 16) (m.loc / 16), wait := none, answer := none } := by
  simp only [State.dispose, ho]
  rfl

end

/-- Settles O44: tret is one test and one disposition, and each disposition one operation on what is left when the message has
been dropped. -/
theorem dispositionsAreAccepted : Obligations.DispositionsAreAccepted := by
  intro a s cx die h hb hwh v disp t found
  refine ⟨fun i hi hr => ?_, fun m => ?_⟩
  · simp only [List.mem_cons, List.not_mem_nil, or_false] at hi
    rcases hi with rfl | rfl | rfl | rfl <;> exact tret_outcome rfl hr hwh
  intro gone at'
  refine ⟨fun q ho hq => ?_, fun hl => ?_, fun ho => ?_⟩
  · intro header resumes halted
    have hq' : (s.dropMessage m).part m.pid = some q := hq
    have halts : gone ((s.dropMessage m).haltPart m.pid m.code) ∧ halted ((s.dropMessage m).haltPart m.pid m.code) :=
      have ⟨hmsg, hpart⟩ := State.haltPart_outcome hq' m.code
      ⟨State.dropMessage_gone hmsg, hpart⟩
    refine ⟨?_, ?_, fun hl => ?_, fun hw => ?_⟩
    · have hkeeps := State.resumed_keeps (s.dropMessage m) m.pid
      intro u
      rw [show u = _ from State.dispose_resume ho]
      exact ⟨State.dropMessage_gone hkeeps.1, fun hwf x hx => State.resumed_header hq' hwf hx, hkeeps.2, _, State.resumed_part hq',
        Part.resumed_outcome _ q, rfl⟩
    · intro u
      rw [show u = _ from State.dispose_abandon ho]
      exact halts
    · intro u
      rw [show u = _ from State.dispose_last ho hl]
      exact halts
    · intro u old tl
      have hu : u = _ := State.dispose_isolate ho
      obtain ⟨hmsg, hmem, hrmt, hself, hothers, p, hp, hsave, hform, hcauses, hre⟩ := State.isolate_outcome hq' hw t
      have hkeeps := State.resumed_keeps ((s.dropMessage m).isolate m.pid t) m.pid
      have htile (y : Coord) : u.tile y = ((s.dropMessage m).isolate m.pid t).tile y := by
        rw [hu, State.tile, hkeeps.2, State.tile]
      have htl : tl = old.lose t := (htile t).trans hself
      obtain ⟨hlost, hlive, hlq, hsq, hmma, himage, hlists, hpend, hgtab, hiss, hans, hdogs⟩ := Tile.lose_outcome old t
      obtain ⟨hnone, hcause, hrestart⟩ := Part.resumed_outcome s.rmt p
      rw [htl]
      refine ⟨?_, fun hwf x hx => ?_, hlost, hlive, hlq, hsq, hmma, himage, hlists, hpend, hgtab, hiss, hans, hdogs,
        fun t' ht' ht hne => (htile t').trans (hothers t' ht' ht hne), p.resumed s.rmt, ?_, ⟨hnone, hcause, ?_⟩, fun r => ?_⟩
      · rw [hu]
        exact State.dropMessage_gone (hkeeps.1.trans hmsg)
      · rw [← hsave] at hx
        rw [hu, State.resumed_header hp (by rw [hmem]; exact hwf) hx, hmem]
        rfl
      · rw [hu, State.resumed_part hp, hrmt]
        rfl
      · rwa [hform, hcauses] at hrestart
      · show r ∈ p.reoffer ↔ _
        rw [hre, List.mem_filter, bne_iff_ne]
  · intro u up
    rw [show u = _ from State.dispose_forward hl]
    refine ⟨rfl, rfl, rfl, rfl, fun n => ?_⟩
    simp only [State.mem_lift, beq_iff_eq, beq_eq_false_iff_ne, State.heldLevel_eq]
    rfl
  · intro b
    refine ⟨?_, ?_, fun hl => ?_⟩
    · intro u
      rw [show u = _ from State.dispose_hub_resume ho]
      exact ⟨State.dropMessage_gone rfl, State.hub_modHub_self .., rfl, rfl⟩
    · intro u
      rw [show u = _ from State.dispose_hub_abandon ho]
      exact ⟨State.dropMessage_gone rfl, State.hub_modHub_self .., rfl, rfl⟩
    · have hu : s.dispose m 2 t = s.exhaust m := by simp only [State.dispose, hl, if_true]
      rw [hu]
      exact State.exhaust_hub ho

end Sys2Proof.Machine

/-! ### Catches -/

namespace Sys2Proof.Machine

/-- Whether a catch takes a flit in cycle `p` (R182). -/
def CatchSt.Takes (cs : CatchSt) (p : Nat) : Prop := cs.a < p ∧ p < cs.a + 2 * cs.n

theorem CatchSt.takes_iff {cs : CatchSt} {p : Nat} : cs.Takes p ↔ ¬(p ≤ cs.a ∨ 2 * cs.n ≤ p - cs.a) := by
  unfold CatchSt.Takes
  omega

/-- The write of a quad whose second half comes in cycle `p` (R182). -/
def CatchSt.quad (cs : CatchSt) (t : Coord) (p : Nat) (f : Flit) : Option Pend :=
  if cs.a < p ∧ p < cs.a + 2 * cs.n ∧ (p - cs.a) % 2 = 1
  then cs.low.map fun lo => ⟨p + 2, catchWrite t cs ((p - cs.a) / 2) (f.payload ++ lo)⟩ else none

section
variable {s : State} {t : Coord} {q : Part} {f : Flit}

/-- A catch with a flit pushes at most its quad's write (R182). -/
theorem State.catchTurn_flit (hq : s.part q.pid = some q) (hf : q.streamAt t q.cyc = some f) (cs : CatchSt) :
    (s.catchTurn q.pid t q.cyc cs).1 = (s.modTile t fun tl => { tl with pend := tl.pend ++ (cs.quad t q.cyc f).toList }) ∨
      (s.catchTurn q.pid t q.cyc cs).1 = s ∧ cs.quad t q.cyc f = none := by
  have hbind : ((s.part q.pid).bind fun q' => q'.streamAt t q.cyc) = some f := by rw [hq]; exact hf
  by_cases htakes : cs.Takes q.cyc
  · have hnot := CatchSt.takes_iff.1 htakes
    obtain ⟨hlo, hhi⟩ := htakes
    simp only [State.catchTurn, if_neg hnot, hbind, Option.isSome_some, if_true, CatchSt.quad, hlo, hhi, true_and]
    by_cases hodd : (q.cyc - cs.a) % 2 = 1
    · have heven : ¬(q.cyc - cs.a) % 2 = 0 := by omega
      simp only [if_neg heven, if_pos hodd]
      cases cs.low with
      | none => exact Or.inr ⟨rfl, rfl⟩
      | some lo => exact Or.inl rfl
    · have heven : (q.cyc - cs.a) % 2 = 0 := by omega
      simp only [if_pos heven, if_neg hodd, and_true]
      exact Or.inr trivial
  · have hnot : q.cyc ≤ cs.a ∨ 2 * cs.n ≤ q.cyc - cs.a := by
      rw [CatchSt.takes_iff] at htakes
      exact Classical.not_not.1 htakes
    refine Or.inr ⟨?_, if_neg fun ⟨h1, h2, _⟩ => htakes ⟨h1, h2⟩⟩
    simp only [State.catchTurn, if_pos hnot]

end

/-- One turn of a tile's catches. -/
def catchStep (pid : Nat) (t : Coord) (p : Nat) (acc : State × List CatchSt) (cs : CatchSt) : State × List CatchSt :=
  ((acc.1.catchTurn pid t p cs).1, acc.2 ++ (acc.1.catchTurn pid t p cs).2.toList)

theorem execCatchFlitTake_eq {s : State} {t : Coord} {q : Part} (hq : s.partOf t = some q) :
    execCatchFlitTake t s = .next
      ((((s.tile t).catches.foldl (catchStep q.pid t q.cyc) (s, [])).1).modTile t fun tl =>
        { tl with catches := ((s.tile t).catches.foldl (catchStep q.pid t q.cyc) (s, [])).2 }) := by
  simp only [execCatchFlitTake, hq]
  rfl

section
variable {t : Coord} {q : Part} {f : Flit}

/-- With a flit the catches of a tile push the writes of their quads, and nothing else but the catches changes (R182). -/
theorem catches_flit (hf : q.streamAt t q.cyc = some f) (l : List CatchSt) (acc : State × List CatchSt)
    (hq : acc.1.part q.pid = some q) :
    let u := (l.foldl (catchStep q.pid t q.cyc) acc).1
    u.mem = acc.1.mem ∧ u.parts = acc.1.parts ∧
      (u.tile t).pend = (acc.1.tile t).pend ++ l.filterMap fun cs => cs.quad t q.cyc f := by
  induction l generalizing acc with
  | nil => exact ⟨rfl, rfl, (List.append_nil _).symm⟩
  | cons cs l ih =>
    rw [List.foldl_cons]
    have hstep : (catchStep q.pid t q.cyc acc cs).1.parts = acc.1.parts ∧ (catchStep q.pid t q.cyc acc cs).1.mem = acc.1.mem ∧
        ((catchStep q.pid t q.cyc acc cs).1.tile t).pend = (acc.1.tile t).pend ++ (cs.quad t q.cyc f).toList := by
      rcases State.catchTurn_flit hq hf cs with h | ⟨h, hn⟩
      · simp only [catchStep, h, State.tile_modTile_self]
        exact ⟨rfl, rfl, trivial⟩
      · simp only [catchStep, h, hn, Option.toList_none, List.append_nil, and_self]
    obtain ⟨hparts, hmem, hpend⟩ := hstep
    obtain ⟨hmem', hparts', hpend'⟩ := ih (catchStep q.pid t q.cyc acc cs) (by rw [State.part, hparts]; exact hq)
    refine ⟨hmem'.trans hmem, hparts'.trans hparts, ?_⟩
    rw [hpend', hpend, List.append_assoc, List.filterMap_cons]
    cases cs.quad t q.cyc f <;> rfl

variable {s : State}

/-- A tile's catches in a cycle with a flit (R182). -/
theorem catchFlitTake_flit (hpo : s.partOf t = some q) (hq : s.part q.pid = some q) (hf : q.streamAt t q.cyc = some f) :
    ∃ u, exec (.catchFlitTake t) s = .next u ∧ u.mem = s.mem ∧ u.parts = s.parts ∧
      (u.tile t).pend = (s.tile t).pend ++ (s.tile t).catches.filterMap fun cs => cs.quad t q.cyc f := by
  obtain ⟨hmem, hparts, hpend⟩ := catches_flit hf (s.tile t).catches (s, []) hq
  refine ⟨_, execCatchFlitTake_eq hpo, hmem, hparts, ?_⟩
  rw [State.tile_modTile_self]
  exact hpend

/-- The first half of a quad is kept in the catch (R182). -/
theorem catchFlitTake_low {cs : CatchSt} (hpo : s.partOf t = some q) (hq : s.part q.pid = some q) (hc : (s.tile t).catches = [cs])
    (ht : cs.Takes q.cyc) (hf : q.streamAt t q.cyc = some f) (heven : (q.cyc - cs.a) % 2 = 0) :
    exec (.catchFlitTake t) s = .next (s.modTile t fun tl => { tl with catches := [{ cs with low := some f.payload }] }) := by
  have hbind : ((s.part q.pid).bind fun q' => q'.streamAt t q.cyc) = some f := by rw [hq]; exact hf
  have hturn : s.catchTurn q.pid t q.cyc cs = (s, some { cs with low := some f.payload }) := by
    simp only [State.catchTurn, if_neg (CatchSt.takes_iff.1 ht), hbind, Option.isSome_some, if_true, if_pos heven, Option.map_some]
  show execCatchFlitTake t s = _
  rw [execCatchFlitTake_eq hpo, hc, List.foldl_cons, List.foldl_nil, catchStep, hturn]
  rfl

/-- A flit that is missing is a cycle fault, and the quad is not written (R182). -/
theorem catchFlitTake_missing {cs : CatchSt} (hpo : s.partOf t = some q) (hq : s.part q.pid = some q) (hc : (s.tile t).catches = [cs])
    (ht : cs.Takes q.cyc) (hf : q.streamAt t q.cyc = none) : ∃ u l,
      exec (.catchFlitTake t) s = .next u ∧
        u = ((s.modPart q.pid fun q' => q'.take (coreRecord t .access cs.slot.val q.cyc 1 0 0
          { code := fcSlipEmpty, reason := rsCheck, info := (q.cyc - cs.a) / 2 })).modTile t fun tl => { tl with catches := l }) ∧
        ∀ c ∈ l, (q.cyc - cs.a) % 2 = 0 ∧ c = { cs with low := none } ∨ (q.cyc - cs.a) % 2 = 1 ∧ c = cs := by
  have hbind : ((s.part q.pid).bind fun q' => q'.streamAt t q.cyc) = none := by rw [hq]; exact hf
  have hturn : (s.catchTurn q.pid t q.cyc cs).1 = (s.modPart q.pid fun q' => q'.take (coreRecord t .access cs.slot.val q.cyc 1 0 0
        { code := fcSlipEmpty, reason := rsCheck, info := (q.cyc - cs.a) / 2 })) ∧
      ∀ c ∈ (s.catchTurn q.pid t q.cyc cs).2.toList,
        (q.cyc - cs.a) % 2 = 0 ∧ c = { cs with low := none } ∨ (q.cyc - cs.a) % 2 = 1 ∧ c = cs := by
    simp only [State.catchTurn, if_neg (CatchSt.takes_iff.1 ht), hbind, Option.isSome_none, Bool.false_eq_true, if_false, Option.map_none]
    by_cases heven : (q.cyc - cs.a) % 2 = 0
    · simp only [if_pos heven]
      refine ⟨trivial, fun c hc => Or.inl ⟨heven, ?_⟩⟩
      simpa using hc
    · have hodd : (q.cyc - cs.a) % 2 = 1 := by omega
      simp only [if_neg heven]
      refine ⟨by cases cs.low <;> rfl, fun c hc => Or.inr ⟨hodd, ?_⟩⟩
      split at hc
      · cases hc
      · simpa using hc
  have he := execCatchFlitTake_eq hpo
  rw [hc, List.foldl_cons, List.foldl_nil, catchStep, hturn.1, List.nil_append] at he
  exact ⟨_, _, he, rfl, hturn.2⟩

end

end Sys2Proof.Machine

/-! ### Hops -/

namespace Sys2Proof.Machine

/-- A whole router is read without a trace (R272). -/
theorem State.routerRead_sound {s : State} {q : Part} {c : Claimant} (hd : (s.tile c.claim.at').damage = []) : s.routerRead q c = s := by
  simp only [State.routerRead, hd]
  rfl

/-- What a router's read leaves of the partition's records, flits and words. -/
theorem State.routerRead_part {s : State} {pid : Nat} {q : Part} (hq : s.part pid = some q) (c : Claimant) :
    (s.routerRead q c).mem = s.mem ∧ ∃ q', (s.routerRead q c).part pid = some q' ∧ q'.flits = q.flits ∧ q'.redWords = q.redWords ∧
      q'.x0 = q.x0 ∧ q'.y0 = q.y0 ∧ q'.p = q.p ∧ q'.pid = pid := by
  have hpid : q.pid = pid := by simpa using List.find?_some hq
  unfold State.routerRead
  dsimp only
  split
  · set r := unitRecord c.claim.at' .access q.cyc 1 { code := fcEccLocal, reason := 0x25, info := c.claim.out + c.caught.getD 0 * 2 ^ 3 }
    have hframe := Part.take_frame q r
    refine ⟨rfl, q.take r, ?_, (congrArg Part.flits hframe :), (congrArg Part.redWords hframe :), (congrArg Part.x0 hframe :),
      (congrArg Part.y0 hframe :), (congrArg Part.p hframe :), (q.take_pid r).trans hpid⟩
    rw [State.part_modTile, hpid]
    exact State.part_modPart_self hq fun p => p.take_pid r
  · exact ⟨rfl, q, hq, rfl, rfl, rfl, rfl, rfl, hpid⟩

/-- A partition in which a flit is caught in a slot of the safety net (R175). -/
def Part.catchFlit (f : Flit) (c : Claim) (slot : Nat) (q : Part) : Part :=
  ((q.delayJob f).setFlit { f with caught := some (q.cyc + 1, slot), delay := f.delay + 1 }).take
    (caughtRecord q f.dst f.kind.code c slot q.cyc)

/-- A partition in which a combined or broadcast word is caught (R396). -/
def Part.catchWords (w : RedWord) (c : Claim) (slot : Nat) (q : Part) : Part :=
  (q.catchWord w c slot q.cyc).take (caughtRecord q (w.dst q.x0 q.y0) 3 c slot q.cyc)

theorem Part.delayJob_frame (q : Part) (f : Flit) : { q.delayJob f with xacts := q.xacts, elems := q.elems } = q := by
  unfold Part.delayJob
  (repeat' split) <;> rfl

/-- A caught flit keeps its number, waits in its slot and has lost one cycle more (R175). -/
theorem Part.catchFlit_outcome (f : Flit) (c : Claim) (slot : Nat) (q : Part) (hf : f ∈ q.flits) :
    let u := q.catchFlit f c slot
    u.pid = q.pid ∧ u.freezing = true ∧ u.faults = q.faults ++ [caughtRecord q f.dst f.kind.code c slot q.cyc] ∧
      { f with caught := some (q.cyc + 1, slot), delay := f.delay + 1 } ∈ u.flits := by
  have hframe := Part.delayJob_frame q f
  have hflits : (q.delayJob f).flits = q.flits := (congrArg Part.flits hframe :)
  have hfaults : (q.delayJob f).faults = q.faults := (congrArg Part.faults hframe :)
  have hpid : (q.delayJob f).pid = q.pid := (congrArg Part.pid hframe :)
  refine ⟨(Part.take_pid ..).trans hpid, rfl, congrArg (· ++ _) hfaults, ?_⟩
  have htake := Part.take_frame ((q.delayJob f).setFlit { f with caught := some (q.cyc + 1, slot), delay := f.delay + 1 })
    (caughtRecord q f.dst f.kind.code c slot q.cyc)
  show _ ∈ (Part.take _ _).flits
  rw [(congrArg Part.flits htake :), Part.setFlit, hflits]
  exact List.mem_map.2 ⟨f, hf, if_pos rfl⟩

/-! The words that a caught word waits for keep what they are (R396). -/

/-- A word that may wait longer. -/
def RedWord.Waits (o : Coord × Nat) (v x : RedWord) : Prop :=
  x.id = v.id ∧ x.data = v.data ∧ x.caught = v.caught ∧ (o ∈ v.late → o ∈ x.late)

section
variable {o : Coord × Nat} {v w x : RedWord}

theorem RedWord.Waits.refl : v.Waits o v := ⟨rfl, rfl, rfl, fun h => h⟩

theorem RedWord.Waits.trans (h : v.Waits o w) (h' : w.Waits o x) : v.Waits o x := by
  obtain ⟨hid, hdata, hc, hl⟩ := h
  obtain ⟨hid', hdata', hc', hl'⟩ := h'
  exact ⟨hid'.trans hid, hdata'.trans hdata, hc'.trans hc, fun h => hl' (hl h)⟩

theorem RedWord.waits_withLate {x0 y0 : Nat} {late : List (Coord × Nat)} (h : o ∈ v.late → o ∈ late) :
    v.Waits o (v.withLate x0 y0 late) := ⟨rfl, rfl, rfl, h⟩

/-- Every word of a list comes from one of another that may wait longer in it. -/
def WaitsFrom (o : Coord × Nat) (l l' : List RedWord) : Prop := ∀ x ∈ l', ∃ v ∈ l, v.Waits o x

theorem waitsFrom_map {l : List RedWord} {g : RedWord → RedWord} (hg : ∀ v : RedWord, v.Waits o (g v)) : WaitsFrom o l (l.map g) := by
  intro x hx
  obtain ⟨v, hv, rfl⟩ := List.mem_map.1 hx
  exact ⟨v, hv, hg v⟩

theorem WaitsFrom.trans {l l' l'' : List RedWord} (h : WaitsFrom o l l') (h' : WaitsFrom o l' l'') : WaitsFrom o l l'' := by
  intro x hx
  obtain ⟨w, hw, hwx⟩ := h' x hx
  obtain ⟨v, hv, hvw⟩ := h w hw
  exact ⟨v, hv, hvw.trans hwx⟩

theorem waitsFrom_waitAt {x0 y0 : Nat} (l : List RedWord) (p : Coord × Nat) : WaitsFrom o l (waitAt x0 y0 l p) := by
  refine waitsFrom_map fun v => ?_
  split
  · exact RedWord.Waits.refl
  · exact RedWord.waits_withLate fun h => List.mem_append_left _ h

theorem waitsFrom_waitAll {x0 y0 p : Nat} (l : List RedWord) : WaitsFrom o l (waitAll x0 y0 p o l) := by
  unfold waitAll
  dsimp only
  refine WaitsFrom.trans (l' := l.map fun v => v.withLate x0 y0 (v.late.filter fun l =>
    l == o || v.reached x0 y0 (if caughtIn v.caught p then p + 1 else p) l)) ?_ ?_
  · exact waitsFrom_map fun v => RedWord.waits_withLate fun h => List.mem_filter.2 ⟨h, by rw [beq_self_eq_true, Bool.true_or]⟩
  generalize List.map _ l = bare
  generalize List.filter _ _ = outs
  induction outs generalizing bare with
  | nil => exact fun x hx => ⟨x, hx, RedWord.Waits.refl⟩
  | cons c r ih => exact (waitsFrom_waitAt bare c.2).trans (ih _)

end

/-- A word after a catch of its key at an output in cycle `p` (R396). -/
def Part.hitWord (q : Part) (w : RedWord) (c : Claim) (slot p : Nat) (v : RedWord) : RedWord :=
  if v.key = w.key ∧ v.claim q.x0 q.y0 p = some c then { v.delayed q.x0 q.y0 (c.at', c.out) with caught := some (p + 1, slot) } else v

theorem Part.hitWord_id (q : Part) (w : RedWord) (c : Claim) (slot p : Nat) (v : RedWord) : (q.hitWord w c slot p v).id = v.id := by
  unfold Part.hitWord
  split <;> rfl

/-- The words of a key that stand at the output where one of them is caught are caught with it (R396). -/
theorem Part.catchWord_outcome {q : Part} {w : RedWord} {c : Claim} {slot p : Nat} (hnodup : (q.redWords.map RedWord.id).Nodup)
    {v : RedWord} (hv : v ∈ q.redWords) (hkey : v.key = w.key) (hclaim : v.claim q.x0 q.y0 p = some c) :
    ∃ v' ∈ (q.catchWord w c slot p).redWords, v'.id = v.id ∧ v'.data = v.data ∧ v'.caught = some (p + 1, slot) ∧
      (c.at', c.out) ∈ v'.late := by
  have hhit : q.hitWord w c slot p v = { v.delayed q.x0 q.y0 (c.at', c.out) with caught := some (p + 1, slot) } :=
    if_pos ⟨hkey, hclaim⟩
  have hlate : (c.at', c.out) ∈ (q.hitWord w c slot p v).late := by
    rw [hhit]
    exact List.mem_append_right _ (List.mem_singleton_self _)
  set mine : List RedWord := if w.key.get then [] else
    waitAll q.x0 q.y0 p (c.at', c.out) ((q.redWords.map (q.hitWord w c slot p)).filter fun v => v.key == w.key) with hmine
  refine ⟨(mine.find? fun x => x.id == (q.hitWord w c slot p v).id).getD (q.hitWord w c slot p v),
    List.mem_map.2 ⟨_, List.mem_map_of_mem hv, rfl⟩, ?_⟩
  cases hfind : mine.find? fun x => x.id == (q.hitWord w c slot p v).id with
  | none =>
    rw [Option.getD_none, hhit]
    rw [hhit] at hlate
    exact ⟨rfl, rfl, rfl, hlate⟩
  | some x =>
    have hx : x.id = v.id := by
      have := List.find?_some hfind
      rwa [beq_iff_eq, Part.hitWord_id] at this
    have hmem := List.mem_of_find?_eq_some hfind
    rw [hmine] at hmem
    split at hmem
    · cases hmem
    obtain ⟨y, hy, hid, hdata, hcaught, hwait⟩ := waitsFrom_waitAll _ x hmem
    obtain ⟨z, hz, rfl⟩ := List.mem_map.1 (List.mem_of_mem_filter hy)
    obtain rfl : z = v := List.inj_on_of_nodup_map hnodup hz hv ((Part.hitWord_id ..).symm.trans (hid.symm.trans hx))
    rw [Option.getD_some]
    refine ⟨hx, hdata.trans ?_, hcaught.trans ?_, hwait hlate⟩ <;> rw [hhit]
    rfl

section
variable {s : State} {pid id : Nat} {q : Part} {c : Claimant} (hq : s.part pid = some q)
  (hc : (q.claimants q.cyc).find? (fun g => g.id == id) = some c)
include hq

/-- A flit or word that takes its output goes on (R174, R175). -/
theorem flitHop_takes (ht : q.takes id q.cyc = true) (hd : ∀ c ∈ q.claimants q.cyc, (s.tile c.claim.at').damage = []) :
    exec (.flitHop pid id) s = .next s := by
  show execFlitHop pid id s = _
  simp only [execFlitHop, hq]
  split
  · rfl
  next c hc =>
    split
    · rfl
    · rw [State.routerRead_sound (hd c (List.mem_of_find?_eq_some hc))]

include hc

/-- A flit that does not is caught and loses a cycle (R175). -/
theorem flitHop_flit {f : Flit} (hf : q.flits.find? (fun g => g.id == id) = some f) (hk : c.key = none) (ht : q.takes id q.cyc = false) :
    exec (.flitHop pid id) s = .next ((s.routerRead q c).modPart pid (Part.catchFlit f c.claim (q.freeSlot id q.cyc c.claim))) := by
  have hfirst : ((q.claimants q.cyc).any fun g => g.key.isSome && g.key == c.key && g.claim.at' == c.claim.at' &&
      g.claim.out == c.claim.out && decide (g.id < id)) = false := by
    refine List.any_eq_false.2 fun g _ => ?_
    rw [hk]
    cases g.key <;> simp
  show execFlitHop pid id s = _
  simp only [execFlitHop, hq, hc, hfirst, ht, hf, Bool.false_eq_true, if_false]
  rfl

/-- A combined or broadcast word that does not is caught (R396). -/
theorem flitHop_word {w : RedWord} (hf : q.flits.find? (fun g => g.id == id) = none)
    (hw : q.redWords.find? (fun g => g.id == id) = some w) (ht : q.takes id q.cyc = false) (hk : c.key = some w.key)
    (hmin : ∀ g ∈ q.claimants q.cyc, g.key = some w.key → g.claim.at' = c.claim.at' → g.claim.out = c.claim.out → id ≤ g.id) :
    exec (.flitHop pid id) s = .next ((s.routerRead q c).modPart pid (Part.catchWords w c.claim (q.freeSlot id q.cyc c.claim))) := by
  have hfirst : ((q.claimants q.cyc).any fun g => g.key.isSome && g.key == c.key && g.claim.at' == c.claim.at' &&
      g.claim.out == c.claim.out && decide (g.id < id)) = false := by
    refine List.any_eq_false.2 fun g hg h => ?_
    simp only [Bool.and_eq_true, beq_iff_eq, decide_eq_true_eq] at h
    obtain ⟨⟨⟨⟨-, hkey⟩, hat⟩, hout⟩, hlt⟩ := h
    exact Nat.not_le.2 hlt (hmin g hg (hkey.trans hk) hat hout)
  show execFlitHop pid id s = _
  simp only [execFlitHop, hq, hc, hfirst, ht, hf, hw, Bool.false_eq_true, if_false]
  rfl

end

end Sys2Proof.Machine

/-! ### The Turnstile -/

namespace Sys2Proof.Machine

/-- Records taken one after the other stand in their order (R159, R274). -/
theorem Part.foldl_take (l : List FRec) (q : Part) :
    (l.foldl Part.take q).faults = q.faults ++ l ∧ (l.foldl Part.take q).ss = q.ss ∧ (l.foldl Part.take q).pid = q.pid ∧
      (l ≠ [] → (l.foldl Part.take q).freezing = true) := by
  induction l generalizing q with
  | nil => exact ⟨(List.append_nil _).symm, rfl, rfl, fun h => absurd rfl h⟩
  | cons r l ih =>
    obtain ⟨hfaults, hss, hpid, hfreezing⟩ := ih (q.take r)
    have hframe := Part.take_frame q r
    refine ⟨?_, hss.trans (congrArg Part.ss hframe :), hpid.trans (Part.take_pid ..), fun _ => ?_⟩
    · rw [List.foldl_cons, hfaults, Part.take_faults, List.append_assoc, List.singleton_append]
    · cases l with
      | nil => rfl
      | cons => exact hfreezing (List.cons_ne_nil _ _)

theorem State.part_foldl_cycleFault {pid : Nat} (l : List FRec) {s : State} {q : Part} (hq : s.part pid = some q) :
    (l.foldl (fun s x => s.cycleFault pid x) s).part pid = some (l.foldl Part.take q) := by
  induction l generalizing s q with
  | nil => exact hq
  | cons r l ih => exact ih (State.part_modPart_self hq fun p => p.take_pid r)

theorem State.foldl_cycleFault_keeps {pid : Nat} (l : List FRec) (s : State) :
    (l.foldl (fun s x => s.cycleFault pid x) s).tiles = s.tiles ∧ (l.foldl (fun s x => s.cycleFault pid x) s).mem = s.mem :=
  ⟨foldl_keeps State.tiles (f := fun s x => s.cycleFault pid x) (fun _ _ => rfl) l s,
    foldl_keeps State.mem (f := fun s x => s.cycleFault pid x) (fun _ _ => rfl) l s⟩

/-- A Turnstile that cannot be passed: its records stand, and it is due again at the restart (R154, R230). -/
theorem State.turn_held {pid : Nat} {s : State} {q : Part} (hq : s.part pid = some q) {l : List FRec} (hl : l ≠ []) :
    let v := (l.foldl (fun s x => s.cycleFault pid x) s).modPart pid fun q => { q with turnDue := true }
    v.tiles = s.tiles ∧ v.mem = s.mem ∧ ∃ q', v.part pid = some q' ∧ q'.freezing = true ∧ q'.turnDue = true ∧ q'.ss = q.ss ∧
      q'.faults = q.faults ++ l := by
  obtain ⟨hfaults, hss, -, hfreezing⟩ := Part.foldl_take l q
  obtain ⟨htiles, hmem⟩ := State.foldl_cycleFault_keeps (pid := pid) l s
  exact ⟨htiles, hmem, _, State.part_modPart_self (f := fun q => { q with turnDue := true }) (State.part_foldl_cycleFault l hq) fun _ => rfl,
    hfreezing hl, rfl, hss, hfaults⟩

theorem State.tile_congr (s : State) {t m : Coord} (h : tileKey t = tileKey m) : s.tile t = s.tile m := by
  simp only [State.tile, h]

/-- The members' tiles after the Turnstile (R154, R228). -/
theorem State.tile_turned {s : State} (l : List Coord) {m : Coord} (hm : m ∈ l) :
    let u := (l.foldl (fun s t => s.modTile t Tile.turn) s).tile m
    u.iss = 0 ∧ u.ans = 0 ∧ u.access.trn = false ∧ u.exec.trn = false ∧ u.gtab = (s.tile m).gshadow := by
  have shadow (l : List Coord) (s : State) : ((l.foldl (fun s t => s.modTile t Tile.turn) s).tile m).gshadow = (s.tile m).gshadow :=
    foldl_keeps (fun s => (s.tile m).gshadow) (f := fun s t => s.modTile t Tile.turn) (fun s t => by
      rw [State.tile_modTile]
      split
      next h => rw [State.tile_congr s h]; rfl
      · rfl) l s
  induction l using List.reverseRecOn with
  | nil => cases hm
  | append_singleton l t ih =>
    rw [List.foldl_append, List.foldl_cons, List.foldl_nil]
    intro u
    by_cases htm : tileKey m = tileKey t
    · have hu : u = ((l.foldl (fun s t => s.modTile t Tile.turn) s).tile m).turn := by
        rw [State.tile_congr _ htm]
        exact (State.tile_congr _ htm).trans (State.tile_modTile_self ..)
      rw [hu, ← shadow l s]
      exact ⟨rfl, rfl, rfl, rfl, rfl⟩
    · have hml : m ∈ l := (List.mem_append.1 hm).resolve_right fun h => htm (congrArg tileKey (List.mem_singleton.1 h))
      rw [show u = _ from State.tile_modTile_other _ _ htm]
      exact ih hml

theorem Part.stopFor_pid (q : Part) (c : Nat) : (q.stopFor c).pid = q.pid := (congrArg Part.pid (q.withCause_frame c) :)

theorem Part.stopFor_ss (q : Part) (c : Nat) : (q.stopFor c).ss = q.ss := (congrArg Part.ss (q.withCause_frame c) :)

/-- A Turnstile that is passed: the next superstep, with the members' counts and arrivals afresh (R154, R228). -/
theorem State.turn_outcome {pid : Nat} {s : State} {q : Part} (hq : s.part pid = some q) :
    (s.turn pid).mem = s.mem ∧ (∃ q', (s.turn pid).part pid = some q' ∧ q'.ss = q.ss + 1) ∧
      ∀ m ∈ q.members, ((s.turn pid).tile m).iss = 0 ∧ ((s.turn pid).tile m).ans = 0 ∧ ((s.turn pid).tile m).access.trn = false ∧
        ((s.turn pid).tile m).exec.trn = false ∧ ((s.turn pid).tile m).gtab = (s.tile m).gshadow := by
  have hparts : (q.members.foldl (fun s t => s.modTile t Tile.turn) s).part pid = some q := by
    rw [State.part, foldl_keeps State.parts (f := fun s t => s.modTile t Tile.turn) fun _ _ => rfl]
    exact hq
  have hpid : q.pid = pid := by simpa using List.find?_some hq
  simp only [State.turn, hq]
  refine ⟨foldl_keeps State.mem (f := fun s t => s.modTile t Tile.turn) (fun _ _ => rfl) _ s,
    ⟨_, State.part_modPart_at hparts ?_, ?_⟩, fun m hm => State.tile_turned q.members hm⟩
  · simp only [apply_ite Part.pid, Part.stopFor_pid, ite_self, hpid]
  · simp only [apply_ite Part.ss, Part.stopFor_ss, ite_self]

end Sys2Proof.Machine

namespace Sys2Proof.Machine

/-- The word whose claim is found by its number (R396). -/
theorem Part.claimant_word {q : Part} {id p : Nat} {c : Claimant} {w : RedWord}
    (hc : (q.claimants p).find? (fun g => g.id == id) = some c) (hf : q.flits.find? (fun g => g.id == id) = none)
    (hw : q.redWords.find? (fun g => g.id == id) = some w) (hnodup : (q.redWords.map RedWord.id).Nodup) : c.key = some w.key := by
  have hid : c.id = id := by simpa using List.find?_some hc
  have hwid : w.id = id := by simpa using List.find?_some hw
  rcases List.mem_append.1 (List.mem_of_find?_eq_some hc) with h | h
  · obtain ⟨f, hfm, hfc⟩ := List.mem_filterMap.1 h
    obtain ⟨d, -, rfl⟩ := Option.map_eq_some_iff.1 hfc
    exact absurd (beq_iff_eq.2 hid) (List.find?_eq_none.1 hf f hfm)
  · obtain ⟨v, hv, hvc⟩ := List.mem_filterMap.1 h
    obtain ⟨d, -, rfl⟩ := Option.map_eq_some_iff.1 hvc
    obtain rfl : v = w := List.inj_on_of_nodup_map hnodup hv (List.mem_of_find?_eq_some hw) (hid.trans hwid.symm)
    rfl

/-- A Turnstile in its cycle: what is missing, then the counts, then the next superstep (R154, R230). -/
theorem execTurnstile_eq {pid : Nat} {s : State} {q : Part} {u : Super} (hq : s.part pid = some q) (hu : q.super = some u)
    (hrun : q.form = .running) (hcyc : q.cyc + 1 = u.b + u.c + u.x) :
    (s.missingTrn q = [] → exec (.turnstile pid) s = .next (s.turnFromCounts q)) ∧
      (s.missingTrn q ≠ [] → exec (.turnstile pid) s = .next
        (((s.missingTrn q).foldl (fun s x => s.cycleFault pid x) s).modPart pid fun q => { q with turnDue := true })) := by
  have hgo : (q.form != .running || q.cyc + 1 != u.b + u.c + u.x) = false := by
    rw [hrun, hcyc, bne_self_eq_false, bne_self_eq_false, Bool.or_false]
  refine ⟨fun hm => ?_, fun hm => ?_⟩
  · show execTurnstile pid s = _
    simp only [execTurnstile, hq, hu, hgo, Bool.false_eq_true, if_false, hm]
  · obtain ⟨r, l, hl⟩ := List.exists_cons_of_ne_nil hm
    show execTurnstile pid s = _
    simp only [execTurnstile, hq, hu, hgo, Bool.false_eq_true, if_false, hl]

/-- The records of the counts that differ, by the members' order (R229, R230). -/
theorem State.countFaults_eq (s : State) (q : Part) :
    (∀ r ∈ s.countFaults q, r.code = 0x18 ∧ r.kind = 1 ∧ r.cyc = q.cyc) ∧
      (s.countFaults q).map (fun r => ((⟨r.x, r.y⟩ : Coord), r.info)) =
        (q.members.filter fun m => !(s.tile m).lost && (s.tile m).iss != (s.tile m).ans).map fun m =>
          (m, ((s.tile m).iss.toNat + (s.tile m).ans.toNat * 2 ^ 32) % 2 ^ 64) := by
  unfold State.countFaults
  constructor
  · intro r hr
    obtain ⟨m, -, h⟩ := List.mem_filterMap.1 hr
    dsimp only at h
    split at h
    · cases h
    · cases h
      exact ⟨rfl, rfl, rfl⟩
  · induction q.members with
    | nil => rfl
    | cons m l ih =>
      rw [List.filterMap_cons, List.filter_cons]
      by_cases hm : (s.tile m).lost = true ∨ (s.tile m).iss = (s.tile m).ans
      · have hf : (!(s.tile m).lost && (s.tile m).iss != (s.tile m).ans) = false := by
          rcases hm with h | h <;> simp [h]
        simp only [if_pos hm, hf, Bool.false_eq_true, if_false, ih]
      · have hf : (!(s.tile m).lost && (s.tile m).iss != (s.tile m).ans) = true := by
          simpa [not_or] using hm
        simp only [if_neg hm, hf, if_true, List.map_cons, ih]
        rfl

theorem State.countFaults_ne_nil {s : State} {q : Part} (h : ∃ m ∈ q.members, (s.tile m).lost = false ∧ (s.tile m).iss ≠ (s.tile m).ans) :
    s.countFaults q ≠ [] := by
  obtain ⟨m, hm, hlost, hne⟩ := h
  intro hnil
  have hnone := List.filterMap_eq_nil_iff.1 hnil m hm
  rw [if_neg (by rw [hlost]; simpa using hne)] at hnone
  cases hnone

/-- Settles O48: catches by their flits, hops by arbitration, slots by their records, and the Turnstile by its three outcomes. -/
theorem meshAndTurnstile : Obligations.MeshAndTurnstile := by
  intro t s q
  refine ⟨fun cs f hpo hq hc hlo hhi hf => ⟨fun heven => ?_, fun hodd lo hl => ?_⟩, fun f hpo hq hf => catchFlitTake_flit hpo hq hf,
    fun cs hpo hq hc hlo hhi hf => ?_, fun pid id hq => ⟨fun ht hd => flitHop_takes hq ht hd, fun f c hc hf hk ht => ?_,
      fun w c hc hf hw hnodup ht hmin => ?_⟩, fun entry pl hpo hrun hlost hpl hix => ?_, fun pid u hq hu hrun hcyc => ?_⟩
  · exact catchFlitTake_low hpo hq hc ⟨hlo, hhi⟩ hf heven
  · obtain ⟨u, he, hmem, -, hpend⟩ := catchFlitTake_flit hpo hq hf
    refine ⟨u, he, hmem, ?_⟩
    rw [hpend, hc, List.filterMap_cons, CatchSt.quad, if_pos ⟨hlo, hhi, hodd⟩, hl]
    rfl
  · obtain ⟨u, l, he, rfl, hl⟩ := catchFlitTake_missing hpo hq hc ⟨hlo, hhi⟩ hf
    refine ⟨_, _, _, he, rfl, ?_, (State.part_modTile ..).trans (State.part_modPart_self hq fun p => p.take_pid _), rfl, rfl, rfl, rfl, rfl,
      rfl, rfl, rfl, rfl, fun c hc => hl c ?_⟩
    · rw [State.tile_modTile_self]
      rfl
    · rwa [State.tile_modTile_self] at hc
  · obtain ⟨hmem, q1, hq1, hflits, hwords, hx0, hy0, hp, hpid⟩ := State.routerRead_part hq c
    have hcyc : q1.cyc = q.cyc := by rw [Part.cyc, hp, Part.cyc]
    obtain ⟨hpid', hfr, hfaults, hcaught⟩ := Part.catchFlit_outcome f c.claim (q.freeSlot id q.cyc c.claim) q1
      (hflits ▸ List.mem_of_find?_eq_some hf)
    rw [hcyc] at hcaught
    refine ⟨_, _, caughtRecord q1 f.dst f.kind.code c.claim (q.freeSlot id q.cyc c.claim) q1.cyc, q.freeSlot id q.cyc c.claim,
      flitHop_flit hq hc hf hk ht,
      State.part_modPart_at hq1 (hpid'.trans hpid), hfr, ?_, rfl, rfl, hcyc, rfl, rfl, ⟨_, hcaught, ?_, rfl, rfl⟩, hmem, fun hd => ?_⟩
    · rw [hfaults, List.getLast?_concat]
    · simpa using List.find?_some hf
    · rw [State.routerRead_sound hd]
      rfl
  · obtain ⟨hmem, q1, hq1, hflits, hwords, hx0, hy0, hp, hpid⟩ := State.routerRead_part hq c
    have hcyc : q1.cyc = q.cyc := by rw [Part.cyc, hp, Part.cyc]
    have hframe := Part.take_frame (q1.catchWord w c.claim (q.freeSlot id q.cyc c.claim) q1.cyc)
      (caughtRecord q1 (w.dst q1.x0 q1.y0) 3 c.claim (q.freeSlot id q.cyc c.claim) q1.cyc)
    refine ⟨_, _, _, q.freeSlot id q.cyc c.claim, flitHop_word hq hc hf hw ht (Part.claimant_word hc hf hw hnodup) hmin,
      State.part_modPart_at hq1 ((Part.take_pid ..).trans hpid), rfl, List.getLast?_concat, rfl, rfl, hcyc, rfl, rfl, hmem,
      fun v hv hkey hclaim => ?_⟩
    obtain ⟨v', hv', hid, hdata, hcaught, hlate⟩ := Part.catchWord_outcome (q := q1) (w := w) (c := c.claim) (p := q1.cyc)
      (slot := q.freeSlot id q.cyc c.claim) (by rw [hwords]; exact hnodup) (by rw [hwords]; exact hv) hkey
      (by rw [hx0, hy0, hcyc]; exact hclaim)
    rw [hcyc] at hcaught
    exact ⟨v', (congrArg Part.redWords hframe).symm ▸ hv', hid, hdata, hcaught, hlate⟩
  · show execMissedSlot t entry s = _
    simp only [execMissedSlot, hpo, hpl]
    rw [if_pos ⟨hix, hrun, by rw [hlost]; rfl⟩, State.cycleFault, coreRecord, if_neg (by decide), Nat.zero_add]
    rfl
  · obtain ⟨hall, hsome⟩ := execTurnstile_eq hq hu hrun hcyc
    have hpid : q.pid = pid := by simpa using List.find?_some hq
    refine ⟨fun hm hcount => ?_, fun hm => ?_, fun hm _ hdiff => ?_⟩
    · obtain ⟨hmem, ⟨q', hq', hss⟩, htiles⟩ := State.turn_outcome hq
      refine ⟨_, q', (hall hm).trans ?_, hq', hss, hmem, htiles⟩
      rw [State.turnFromCounts, hcount, hpid]
    · obtain ⟨htiles, -, q', hq', hfr, -, hss, hfaults⟩ := State.turn_held hq hm
      exact ⟨_, q', hsome hm, hq', hfr, hss, hfaults, htiles⟩
    · obtain ⟨htiles, hmem, q', hq', hfr, hdue, hss, hfaults⟩ := State.turn_held hq (State.countFaults_ne_nil hdiff)
      obtain ⟨hrec, hmap⟩ := State.countFaults_eq s q
      refine ⟨_, q', _, (hall hm).trans ?_, hq', hfr, hdue, hss, htiles, hmem, hfaults, hrec, hmap⟩
      unfold State.turnFromCounts
      split
      next h => exact absurd h (State.countFaults_ne_nil hdiff)
      · rw [hpid]

end Sys2Proof.Machine

/-! ### Puts and atomics at their homes -/

namespace Sys2Proof.Machine

section
variable {s : State} {pid id : Nat} {q : Part} {x : Xact} {e : Nat → Eff}

/-- The performance at the home: the effect falls due there where its windows let it in, and else no tile changes (R183, R200, R235). -/
theorem State.performXact_outcome :
    let u := s.performXact q x e
    let off := x.addr.toNat % 2 ^ 24
    u.mem = s.mem ∧ (s.xactAdmitted x off = false → u.tiles = s.tiles) ∧
      (s.xactAdmitted x off = true → (u.tile x.home).pend = (s.tile x.home).pend ++ [⟨q.cyc, e off⟩]) := by
  unfold State.performXact
  dsimp only
  refine ⟨?_, fun h => ?_, fun h => ?_⟩
  · split <;> rfl
  · rw [h]
    rfl
  · rw [if_pos h]
    exact congrArg Tile.pend (State.tile_modTile_self s x.home fun tl => tl.push q.cyc (e (x.addr.toNat % 2 ^ 24)))

/-- The event of a put, or of an atomic, in the cycle of its performance. -/
theorem perform_eq (hq : s.part pid = some q) (hx : q.xact id = some x) (hp : x.perform = q.cyc) (hd : x.performed = false)
    (hr : x.refused = false) :
    (x.op = 0 → exec (.putPerform pid id) s = .next
      (s.performXact q x fun off => .store off (leBytes 8 x.data.toNat) false true (x.writer 2))) ∧
    (x.op ≠ 0 → exec (.amoPerform pid id) s = .next
      (s.performXact q x fun off => .amo off (x.op - 1) (if x.wide then 8 else 4) x.data x.cmp x.id none (x.writer 3))) := by
  refine ⟨fun ho => ?_, fun ho => ?_⟩
  · show execPutPerform pid id s = _
    simp only [execPutPerform, hq, hx]
    exact if_neg (by simp [ho, hp, hd, hr])
  · show execAmoPerform pid id s = _
    simp only [execAmoPerform, hq, hx]
    exact if_neg (by simp [ho, hp, hd, hr])

/-- The tile of a sender after an answer: the journal entry is free, and ANS counts one of the present superstep (R184, R228). -/
def Tile.answered (x : Xact) (ss : Nat) (tl : Tile) : Tile :=
  let tl1 := { tl with journal := tl.journal.set x.entry { tl.journal[x.entry] with v := false } }
  if tl.lost then tl else if x.ss = ss then { tl1 with ans := tl1.ans + 1 } else tl1

theorem Tile.answered_outcome {tl : Tile} (hl : tl.lost = false) (ss : Nat) :
    ((tl.answered x ss).journal[x.entry]).v = false ∧ (tl.answered x ss).ans = tl.ans + (if x.ss = ss then 1 else 0) ∧
      (tl.answered x ss).pend = tl.pend := by
  simp only [Tile.answered, hl, Bool.false_eq_true, if_false]
  split
  · exact ⟨by simp, rfl, rfl⟩
  · exact ⟨by simp, (BitVec.add_zero _).symm, rfl⟩

/-- The record of a refused put or atomic (R276). -/
def Xact.nack (x : Xact) (cyc : Nat) : FRec :=
  { coreRecord x.src .access x.slot.val cyc 2 0 0 { code := fcRemoteNack, info := x.nackInfo } with kind := 2 }

/-- A partition without a transaction. -/
def Part.dropXact (n : Nat) (q : Part) : Part := { q with xacts := q.xacts.filter fun y => y.id != n }

theorem State.answerXact_eq (hd : (s.tile x.src).damage = []) : s.answerXact q x =
    let u := (s.modTile x.src (Tile.answered x q.ss)).modPart q.pid (Part.dropXact x.id)
    if x.refused then u.cycleFault q.pid (x.nack q.cyc) else u := by
  have hread : s.journalRead q x = s := by
    simp only [State.journalRead, hd]
    rfl
  unfold State.answerXact
  rw [hread]
  rfl

/-- An answer at its sender, whose journal is whole (R184, R276). -/
theorem State.answerXact_outcome (hq : s.part q.pid = some q) (hl : (s.tile x.src).lost = false) (hd : (s.tile x.src).damage = []) :
    let u := s.answerXact q x
    u.mem = s.mem ∧ ((u.tile x.src).journal[x.entry]).v = false ∧
      (u.tile x.src).ans = (s.tile x.src).ans + (if x.ss = q.ss then 1 else 0) ∧ (u.tile x.src).pend = (s.tile x.src).pend ∧
      (x.refused = true → ∃ q', u.part q.pid = some q' ∧ q'.freezing = true ∧ ∃ r, q'.faults = q.faults ++ [r] ∧ r.code = 0x20 ∧
        r.kind = 2 ∧ r.x = x.src.x ∧ r.y = x.src.y ∧ r.cyc = q.cyc) := by
  intro u
  have hu : u = _ := State.answerXact_eq hd
  have htile : u.tile x.src = (s.tile x.src).answered x q.ss := by
    rw [hu]
    dsimp only
    split <;> exact State.tile_modTile_self s x.src (Tile.answered x q.ss)
  have hmem : u.mem = s.mem := by
    rw [hu]
    dsimp only
    split <;> rfl
  obtain ⟨hj, ha, hp⟩ := Tile.answered_outcome (x := x) hl q.ss
  rw [htile]
  refine ⟨hmem, hj, ha, hp, fun hr => ⟨(q.dropXact x.id).take (x.nack q.cyc), ?_, rfl, x.nack q.cyc, rfl, rfl, rfl, rfl, rfl, rfl⟩⟩
  rw [hu, if_pos hr]
  exact State.part_modPart_self (State.part_modPart_self (s := s.modTile x.src (Tile.answered x q.ss)) hq fun _ => rfl) fun p => p.take_pid _

/-- What an answered atomic leaves due: its old value in cD in the place of its issue (R29, R236). -/
def Xact.fill (x : Xact) (id cyc : Nat) (e : Pend) : Pend :=
  if (match e.eff with | .xreg _ n => n == id | _ => false) then ⟨cyc, .creg .access x.slot x.dreg (.plain (x.result.setWidth 128))⟩ else e

/-- The tile of a sender when the answer of its atomic comes. -/
def Xact.fillXact (x : Xact) (id cyc : Nat) (tl : Tile) : Tile :=
  { tl with pend := if x.refused then tl.pend.filter (fun e => !(match e.eff with | .xreg _ n => n == id | _ => false))
                    else tl.pend.map (x.fill id cyc) }

/-- The event of an answer. -/
theorem answer_eq (hq : s.part pid = some q) (hx : q.xact id = some x) (ha : x.answer = q.cyc) :
    (x.op = 0 → exec (.putAnswer pid id) s = .next (s.answerXact q x)) ∧
    (x.op ≠ 0 → exec (.amoAnswer pid id) s = .next ((s.modTile x.src (x.fillXact id q.cyc)).answerXact q x)) := by
  refine ⟨fun ho => ?_, fun ho => ?_⟩
  · show execPutAnswer pid id s = _
    simp only [execPutAnswer, hq, hx]
    exact if_pos (by simp [ho, ha])
  · show execAmoAnswer pid id s = _
    simp only [execAmoAnswer, hq, hx]
    exact if_neg (by simp [ho, ha])

end

/-- Settles O49: the performance is one effect due or a refusal, and the answer frees the entry. -/
theorem putsAndAtomicsAtHome : Obligations.PutsAndAtomicsAtHome := by
  intro pid id s q x hq hpid hx off ev size ok
  subst hpid
  refine ⟨fun hp hd hr => ?_, fun ha hl hdam => ?_⟩
  · obtain ⟨hput, hamo⟩ := perform_eq hq hx hp hd hr
    by_cases ho : x.op = 0
    · obtain ⟨hmem, hno, hyes⟩ := State.performXact_outcome (s := s) (q := q) (x := x)
        (e := fun off => .store off (leBytes 8 x.data.toNat) false true (x.writer 2))
      refine ⟨_, (congrFun (congrArg exec (if_pos ho)) s).trans (hput ho), hmem, hno, fun hok _ => hyes hok, fun _ h => absurd ho h⟩
    · obtain ⟨hmem, hno, hyes⟩ := State.performXact_outcome (s := s) (q := q) (x := x)
        (e := fun off => .amo off (x.op - 1) (if x.wide then 8 else 4) x.data x.cmp x.id none (x.writer 3))
      have hsize : size = if x.wide then 8 else 4 := by simp only [size, ho, false_or]
      refine ⟨_, (congrFun (congrArg exec (if_neg ho)) s).trans (hamo ho), hmem, hno, fun _ h => absurd h ho, fun hok _ => ?_⟩
      rw [hsize]
      exact hyes hok
  · obtain ⟨hput, hamo⟩ := answer_eq hq hx ha
    by_cases ho : x.op = 0
    · obtain ⟨hmem, hj, hans, -, hnack⟩ := State.answerXact_outcome (x := x) hq hl hdam
      exact ⟨_, (congrFun (congrArg exec (if_pos ho)) s).trans (hput ho), hmem, hj, hans, fun h => absurd ho h, hnack⟩
    · have hself := State.tile_modTile_self s x.src (x.fillXact id q.cyc)
      obtain ⟨hmem, hj, hans, hpend, hnack⟩ := State.answerXact_outcome (s := s.modTile x.src (x.fillXact id q.cyc)) (x := x) hq
        (by rw [hself]; exact hl) (by rw [hself]; exact hdam)
      rw [hself] at hans hpend
      refine ⟨_, (congrFun (congrArg exec (if_neg ho)) s).trans (hamo ho), hmem, hj, hans, fun _ hr e he hn => ?_, hnack⟩
      obtain ⟨n, hn⟩ := hn
      rw [hpend, Xact.fillXact, hr, if_neg Bool.false_ne_true]
      refine List.mem_map.2 ⟨e, he, ?_⟩
      rw [Xact.fill, hn]
      exact if_pos (beq_self_eq_true id)

end Sys2Proof.Machine

/-! ### The walk of a tile's channel -/

namespace Sys2Proof.Machine

section
variable {s : State} {pid : Nat} {t : Coord} {ch : Fin 4} {p : Nat} {cmd : Cmd}

theorem State.part_pid {q : Part} (hq : s.part pid = some q) : q.pid = pid := by simpa using List.find?_some hq

theorem Part.take_flits (q : Part) (r : FRec) : (q.take r).flits = q.flits := (congrArg Part.flits (q.take_frame r) :)
theorem Part.take_elems (q : Part) (r : FRec) : (q.take r).elems = q.elems := (congrArg Part.elems (q.take_frame r) :)

/-- The read of a channel's state leaves what its command has done (R272). -/
theorem State.channelRead_keeps (s : State) (pid : Nat) (t : Coord) (ch : Fin 4) (p : Nat) :
    (s.channelRead pid t ch p).mem = s.mem ∧ ((s.channelRead pid t ch p).tile t).pend = (s.tile t).pend ∧
      ((s.channelRead pid t ch p).tile t).chans = (s.tile t).chans ∧
      ∀ q, s.part pid = some q → ∃ q', (s.channelRead pid t ch p).part pid = some q' ∧ q'.flits = q.flits ∧ q'.elems = q.elems := by
  unfold State.channelRead
  split
  · refine ⟨rfl, ?_, ?_, fun q hq => ?_⟩
    · rw [State.tile_modTile_self]; rfl
    · rw [State.tile_modTile_self]; rfl
    · exact ⟨_, (State.part_modTile ..).trans (State.part_modPart_self hq fun q => q.take_pid _), q.take_flits _, q.take_elems _⟩
  · exact ⟨rfl, rfl, rfl, fun q hq => ⟨q, hq, rfl, rfl⟩⟩

/-- A channel whose command is not translated looks nothing up (R317). -/
theorem State.lookAhead_of_not_virtual (hrun : (s.tile t).chans[ch].run = some cmd) (hv : cmd.virtual = false) :
    s.lookAhead pid t ch p = s := by
  unfold State.lookAhead
  rw [hrun]
  split
  next c q hc hq =>
    cases hc
    split
    · rfl
    · rw [hv]
      exact if_pos (Or.inl rfl)
  · rfl

/-- The end of a channel's cycle: its state read, the change to the queued command, and the lookups. -/
def State.endWalk (s : State) (pid : Nat) (t : Coord) (ch : Fin 4) (p : Nat) : State :=
  ((s.channelRead pid t ch p).modChan (.tile t) ch fun c => c.turnOver p).lookAhead pid t ch p

/-- The end of a cycle of a command that goes on and is not translated. -/
theorem State.endWalk_keeps (hrun : (s.tile t).chans[ch].run = some cmd) (hlast : cmd.last = none) (hv : cmd.virtual = false) :
    (s.endWalk pid t ch p).mem = s.mem ∧ ((s.endWalk pid t ch p).tile t).pend = (s.tile t).pend ∧
      ∀ q, s.part pid = some q → ∃ q', (s.endWalk pid t ch p).part pid = some q' ∧ q'.flits = q.flits ∧ q'.elems = q.elems := by
  obtain ⟨hmem, hpend, hchans, hparts⟩ := State.channelRead_keeps s pid t ch p
  have hturn : (((s.channelRead pid t ch p).tile t).chans[ch].turnOver p) = (s.tile t).chans[ch] := by
    rw [hchans, Chan.turnOver, hrun]
    simp only [hlast]
  have hrun' : ((((s.channelRead pid t ch p).modChan (.tile t) ch fun c => c.turnOver p).tile t).chans[ch]).run = some cmd := by
    rw [State.modChan, State.tile_modTile_self]
    simp only [Fin.getElem_fin, Vector.getElem_set_self]
    exact (congrArg Chan.run hturn).trans hrun
  rw [State.endWalk, State.lookAhead_of_not_virtual hrun' hv, State.modChan]
  exact ⟨hmem, by rw [State.tile_modTile_self]; exact hpend, fun q hq => hparts q hq⟩

section
variable {st e j : Nat} (hrun : (s.tile t).chans[ch].run = some cmd) (hst : cmd.start = some st)
include hrun hst

/-- A cycle of a walk by elements (R247, R249). -/
theorem State.walkTile_step (hpc : cmd.path ≠ .pcDst) (hred : cmd.path ≠ .reduce) (hsrc : cmd.path ≠ .pcSrc) (he : e < cmd.elements)
    (hj : j < cmd.shape.w + 1) (hp : p = st + e * (cmd.shape.w + 1) + j) :
    s.walkTile pid t ch p = (s.walkStep ⟨pid, t, ch, p, cmd⟩ e j).endWalk pid t ch p := by
  have hr : p - st = e * (cmd.shape.w + 1) + j := by omega
  have hdiv : (p - st) / (cmd.shape.w + 1) = e := by rw [hr, Nat.mul_comm, Nat.mul_add_div (by omega), Nat.div_eq_of_lt hj, Nat.add_zero]
  have hmod : (p - st) % (cmd.shape.w + 1) = j := by rw [hr, Nat.mul_comm, Nat.mul_add_mod, Nat.mod_eq_of_lt hj]
  have hlt : p - st < cmd.elements * (cmd.shape.w + 1) := by
    have := Nat.mul_le_mul_right (cmd.shape.w + 1) (Nat.succ_le_of_lt he)
    rw [Nat.succ_mul] at this
    omega
  have hstarted : ¬p < st := by omega
  simp only [State.walkTile, hrun, hst, if_neg hstarted, hdiv, hmod, if_pos hlt, hsrc, false_and, if_false]
  cases hpath : cmd.path
  case pcDst => exact absurd hpath hpc
  case reduce => exact absurd hpath hred
  all_goals rfl

/-- A cycle of a walk toward an owned pseudo-channel (R248). -/
theorem State.walkTile_stage (hpc : cmd.path = .pcDst) {k : Nat} (he : e < cmd.elements) (hk : k < cmd.shape.w)
    (hp : p = st + e * cmd.shape.w + k) :
    s.walkTile pid t ch p = (s.walkStage ⟨pid, t, ch, p, cmd⟩ (e * cmd.shape.w + k)).endWalk pid t ch p := by
  have hr : p - st = e * cmd.shape.w + k := by omega
  have hlt : e * cmd.shape.w + k < cmd.words := by
    have := Nat.mul_le_mul_right cmd.shape.w (Nat.succ_le_of_lt he)
    rw [Nat.succ_mul] at this
    rw [Cmd.words]
    omega
  have hstarted : ¬p < st := by omega
  simp only [State.walkTile, hrun, hst, if_neg hstarted, hr, hpc, if_pos hlt]
  rfl

end

/-- A change of a channel that leaves its command. -/
theorem State.run_modChan (s : State) (t : Coord) (ch : Fin 4) {f : Chan → Chan} (hf : ∀ c, (f c).run = c.run) :
    (((s.modChan (.tile t) ch f).tile t).chans[ch]).run = ((s.tile t).chans[ch]).run := by
  rw [State.modChan, State.tile_modTile_self]
  simp [hf]

theorem State.pend_modChan (s : State) (t : Coord) (ch : Fin 4) (f : Chan → Chan) :
    ((s.modChan (.tile t) ch f).tile t).pend = (s.tile t).pend := by
  rw [State.modChan, State.tile_modTile_self]

/-- A word of the tile that is whole, as a channel reads it (R272). -/
theorem State.readOwn_sound {w : WalkCx} {u : Coord} {off : Nat} (hecc : (s.tile u).eccAt off 8 = none) :
    s.readOwn w u off = (s, BitVec.ofNat 64 (Mem.readLE s.mem (tileAddr u off) 8)) := by
  simp only [State.readOwn, hecc]

/-- A local copy's word (R247). -/
theorem State.walkStep_local {e k : Nat} (hpath : cmd.path = .localOnly) (hskip : cmd.skips e = false)
    (hecc : (s.tile t).eccAt (homeOffset (cmd.srcAddr e k)) 8 = none) :
    let w : WalkCx := ⟨pid, t, ch, p, cmd⟩
    s.walkStep w e (k + 1) = (s.notePending w (w.word e k)).writeAt w t (homeOffset (cmd.dstAddr e k))
      (BitVec.ofNat 64 (Mem.readLE s.mem (tileAddr t (homeOffset (cmd.srcAddr e k))) 8)) 4 (w.word e k) (p + 3) := by
  have hne : (Path.localOnly != Path.localOnly) = false := rfl
  simp only [State.walkStep, Nat.succ_ne_zero, if_false, Nat.add_sub_cancel, hskip, hpath, hne, Bool.false_and, Bool.false_eq_true,
    State.readOwn_sound hecc]

section
variable {q : Part} (hpo : s.partOf t = some q) (hq : s.part q.pid = some q)
include hpo

theorem channelStart_eq : exec (.channelCommandStart (.tile t) ch) s = .next (s.walkTile q.pid t ch q.cyc) := by
  show execChannelCommandStart (.tile t) ch s = _
  simp only [execChannelCommandStart, hpo]

/-- A cycle of a walk that puts a flit into the mesh. -/
theorem channelStart_injects {X : State} (hX : s.walkTile q.pid t ch q.cyc = X.endWalk q.pid t ch q.cyc) (hmem : X.mem = s.mem)
    (hrun : (X.tile t).chans[ch].run = some cmd) (hlast : cmd.last = none) (hv : cmd.virtual = false) {q1 : Part} {home : Coord}
    {v : DWord} {job : Nat} (hpart : X.part q.pid = some (q1.inject .engine t home q.cyc v job none)) (hflits : q1.flits = q.flits) :
    ∃ (u : State) (q' : Part) (f : Flit), exec (.channelCommandStart (.tile t) ch) s = .next u ∧ u.mem = s.mem ∧
      u.part q.pid = some q' ∧ q'.flits = q.flits ++ [f] ∧ f.kind = .engine ∧ f.src = t ∧ f.dst = home ∧ f.q = q.cyc ∧
      f.payload = v ∧ f.job = job ∧ q'.elems = q1.elems := by
  obtain ⟨hmem', -, hparts⟩ := State.endWalk_keeps (pid := q.pid) (p := q.cyc) hrun hlast hv
  obtain ⟨q', hq', hfl, hel⟩ := hparts _ hpart
  refine ⟨_, q',
    { id := q1.next, kind := .engine, src := t, dst := home, q := q.cyc, payload := v, delay := 0, caught := none, job := job, port := none,
      inp := 4 }, (channelStart_eq hpo).trans (congrArg _ hX), hmem'.trans hmem, hq', ?_, rfl, rfl, rfl, rfl, rfl, rfl, hel⟩
  rw [hfl, Part.inject, hflits]

section
variable {st e k : Nat} (hrun : (s.tile t).chans[ch].run = some cmd) (hst : cmd.start = some st)
  (hlast : cmd.last = none) (hv : cmd.virtual = false) (he : e < cmd.elements) (hskip : cmd.skips e = false)
include hrun hst hlast hv he hskip

/-- A local copy's word falls due three cycles after its read (R247). -/
theorem channelStart_local (hpath : cmd.path = .localOnly) (hk : k < cmd.shape.w) (hp : q.cyc = st + e * (cmd.shape.w + 1) + 1 + k)
    (hecc : (s.tile t).eccAt (homeOffset (cmd.srcAddr e k)) 8 = none) :
    ∃ u, exec (.channelCommandStart (.tile t) ch) s = .next u ∧ u.mem = s.mem ∧
      ∃ w : Writer, (u.tile t).pend = (s.tile t).pend ++ [⟨q.cyc + 3, .store (homeOffset (cmd.dstAddr e k))
        (leBytes 8 (Mem.readLE s.mem (tileAddr t (homeOffset (cmd.srcAddr e k))) 8)) false true w⟩] := by
  have hwalk := State.walkTile_step (pid := q.pid) (p := q.cyc) (j := k + 1) hrun hst (by rw [hpath]; decide) (by rw [hpath]; decide)
    (by rw [hpath]; decide) he (by omega) (by omega)
  rw [State.walkStep_local hpath hskip hecc] at hwalk
  set w : WalkCx := ⟨q.pid, t, ch, q.cyc, cmd⟩
  set X := (s.notePending w (w.word e k)).writeAt w t (homeOffset (cmd.dstAddr e k))
    (BitVec.ofNat 64 (Mem.readLE s.mem (tileAddr t (homeOffset (cmd.srcAddr e k))) 8)) 4 (w.word e k) (q.cyc + 3) with hX
  have htile : X.tile t = ((s.notePending w (w.word e k)).tile t).push (q.cyc + 3) (.store (homeOffset (cmd.dstAddr e k))
      (leBytes 8 (BitVec.ofNat 64 (Mem.readLE s.mem (tileAddr t (homeOffset (cmd.srcAddr e k))) 8)).toNat) false true
        (w.writer 4 (w.word e k))) := State.tile_modTile_self ..
  have hrunX : (X.tile t).chans[ch].run = some cmd := by
    rw [htile]
    exact (State.run_modChan s t ch (f := fun c => c.pending (w.word e k)) fun _ => rfl).trans hrun
  obtain ⟨hmem, hpend, -⟩ := State.endWalk_keeps (pid := q.pid) (p := q.cyc) hrunX hlast hv
  have hnote : ((s.notePending w (w.word e k)).tile t).pend = (s.tile t).pend := State.pend_modChan ..
  refine ⟨_, (channelStart_eq hpo).trans (congrArg _ hwalk), hmem, w.writer 4 (w.word e k), ?_⟩
  rw [hpend, htile, Tile.push_pend, hnote, BitVec.toNat_ofNat, Nat.mod_eq_of_lt (Mem.readLE_lt ..)]

/-- The address of a destination element (R247). -/
theorem channelStart_dst (hq : s.part q.pid = some q) (hpath : cmd.path = .memberDst) (hp : q.cyc = st + e * (cmd.shape.w + 1)) :
    ∃ (u : State) (q' : Part) (f : Flit), exec (.channelCommandStart (.tile t) ch) s = .next u ∧ u.mem = s.mem ∧
      u.part q.pid = some q' ∧ q'.flits = q.flits ++ [f] ∧ f.kind = .engine ∧ f.src = t ∧ f.dst = cmd.home ∧ f.q = q.cyc ∧
      f.payload = BitVec.ofNat 64 (cmd.dstAddr e 0) ∧ ∃ el : Element, q'.elems = q.elems ++ [el] ∧
      f.job = el.id ∧ el.tile = t ∧ el.ch = ch ∧ el.e = e ∧ el.pc = none ∧ el.dst = true ∧ el.home = cmd.home ∧ el.se = q.cyc := by
  have hwalk := State.walkTile_step (pid := q.pid) (p := q.cyc) (j := 0) hrun hst (by rw [hpath]; decide) (by rw [hpath]; decide)
    (by rw [hpath]; decide) he (by omega) (by omega)
  have hstep : s.walkStep ⟨q.pid, t, ch, q.cyc, cmd⟩ e 0 = s.sendElement ⟨q.pid, t, ch, q.cyc, cmd⟩ e true := by
    simp only [State.walkStep, if_true, hskip, Bool.false_eq_true, if_false, hpath, Bool.false_and]
  rw [hstep] at hwalk
  obtain ⟨u, q', f, hex, hmem, hq', hflits, hkind, hsrc, hdst, hfq, hv, hjob, hel⟩ := channelStart_injects hpo hwalk rfl hrun hlast hv
    (State.part_modPart_self hq fun _ => rfl) rfl
  exact ⟨u, q', f, hex, hmem, hq', hflits, hkind, hsrc, hdst, hfq, hv, _, hel, hjob, rfl, rfl, rfl, rfl, rfl, rfl, rfl⟩

/-- The request of a source element, its words pending (R247). -/
theorem channelStart_src (hq : s.part q.pid = some q) (hpath : cmd.path = .memberSrc) (hp : q.cyc = st + e * (cmd.shape.w + 1)) :
    ∃ (u : State) (q' : Part) (f : Flit), exec (.channelCommandStart (.tile t) ch) s = .next u ∧ u.mem = s.mem ∧
      u.part q.pid = some q' ∧ q'.flits = q.flits ++ [f] ∧ f.kind = .engine ∧ f.src = t ∧ f.dst = cmd.home ∧ f.q = q.cyc ∧
      f.payload = BitVec.ofNat 64 (cmd.srcAddr e 0) ∧ ∃ el : Element, q'.elems = q.elems ++ [el] ∧
      f.job = el.id ∧ el.tile = t ∧ el.ch = ch ∧ el.e = e ∧ el.pc = none ∧ el.dst = false ∧ el.home = cmd.home ∧ el.se = q.cyc := by
  have hwalk := State.walkTile_step (pid := q.pid) (p := q.cyc) (j := 0) hrun hst (by rw [hpath]; decide) (by rw [hpath]; decide)
    (by rw [hpath]; decide) he (by omega) (by omega)
  set w : WalkCx := ⟨q.pid, t, ch, q.cyc, cmd⟩
  have hstep : s.walkStep w e 0 =
      (List.range cmd.shape.w).foldl (fun s k => s.notePending w (w.word e k)) (s.sendElement w e false) := by
    simp only [State.walkStep, if_true, w, hskip, Bool.false_eq_true, if_false, hpath]
  rw [hstep] at hwalk
  have hmem := foldl_keeps State.mem (f := fun s k => s.notePending w (w.word e k)) (fun _ _ => rfl) (List.range cmd.shape.w)
    (s.sendElement w e false)
  have hpart := foldl_keeps (fun s => s.part q.pid) (f := fun s k => s.notePending w (w.word e k)) (fun _ _ => rfl)
    (List.range cmd.shape.w) (s.sendElement w e false)
  have hsent : (s.sendElement w e false).part q.pid = _ := State.part_modPart_self hq fun _ => rfl
  have hrun' := foldl_keeps (fun s => ((s.tile t).chans[ch]).run) (f := fun s k => s.notePending w (w.word e k))
    (fun s k => State.run_modChan s t ch (f := fun c => c.pending (w.word e k)) fun _ => rfl) (List.range cmd.shape.w)
    (s.sendElement w e false)
  obtain ⟨u, q', f, hex, hmem', hq', hflits, hkind, hsrc, hdst, hfq, hv, hjob, hel⟩ := channelStart_injects hpo hwalk hmem
    (hrun'.trans hrun) hlast hv (hpart.trans hsent) rfl
  exact ⟨u, q', f, hex, hmem', hq', hflits, hkind, hsrc, hdst, hfq, hv, _, hel, hjob, rfl, rfl, rfl, rfl, rfl, rfl, rfl⟩

/-- A data word of a destination element (R247). -/
theorem channelStart_word (hq : s.part q.pid = some q) (hpath : cmd.path = .memberDst) (hk : k < cmd.shape.w)
    (hp : q.cyc = st + e * (cmd.shape.w + 1) + 1 + k) (hecc : (s.tile t).eccAt (homeOffset (cmd.srcAddr e k)) 8 = none) {el : Element}
    (hel : (q.elems.find? fun el => el.tile == t && el.ch == ch && el.e == e && el.dst && el.first == cmd.first + e * cmd.shape.w) = some el) :
    ∃ (u : State) (q' : Part) (f : Flit), exec (.channelCommandStart (.tile t) ch) s = .next u ∧ u.mem = s.mem ∧
      u.part q.pid = some q' ∧ q'.flits = q.flits ++ [f] ∧ f.kind = .engine ∧ f.src = t ∧ f.dst = el.home ∧ f.q = q.cyc ∧
      f.payload = BitVec.ofNat 64 (Mem.readLE s.mem (tileAddr t (homeOffset (cmd.srcAddr e k))) 8) ∧ q'.elems = q.elems ∧ f.job = el.id := by
  have hwalk := State.walkTile_step (pid := q.pid) (p := q.cyc) (j := k + 1) hrun hst (by rw [hpath]; decide) (by rw [hpath]; decide)
    (by rw [hpath]; decide) he (by omega) (by omega)
  set w : WalkCx := ⟨q.pid, t, ch, q.cyc, cmd⟩
  set v : DWord := BitVec.ofNat 64 (Mem.readLE s.mem (tileAddr t (homeOffset (cmd.srcAddr e k))) 8) with hvdef
  have hstep : s.walkStep w e (k + 1) =
      (s.notePending w (w.word e k)).modPart q.pid fun q => q.inject .engine t el.home w.p v el.id none := by
    have hfind : ((s.part q.pid).bind fun q => q.elems.find? fun x =>
        x.tile == t && x.ch == ch && x.e == e && x.dst && x.first == w.word e 0) = some el := by rw [hq]; exact hel
    simp only [State.walkStep, Nat.succ_ne_zero, if_false, Nat.add_sub_cancel, w, hskip, hpath, Bool.false_and, Bool.false_eq_true,
      State.readOwn_sound hecc, State.sendElementWord]
    rw [hfind]
  rw [hstep] at hwalk
  obtain ⟨u, q', f, hex, hmem, hq', hflits, hkind, hsrc, hdst, hfq, hv, hjob, hels⟩ := channelStart_injects hpo hwalk rfl
    ((State.run_modChan s t ch (f := fun c => c.pending (w.word e k)) fun _ => rfl).trans hrun) hlast hv
    (State.part_modPart_self (s := s.notePending w (w.word e k)) (f := fun q => q.inject .engine t el.home w.p v el.id none) hq
      fun _ => rfl) rfl
  exact ⟨u, q', f, hex, hmem, hq', hflits, hkind, hsrc, hdst, hfq, hv, hels, hjob⟩

/-- A word toward an owned pseudo-channel (R248). -/
theorem channelStart_stage (hq : s.part q.pid = some q) (hpath : cmd.path = .pcDst) (hk : k < cmd.shape.w)
    (hp : q.cyc = st + e * cmd.shape.w + k) (hecc : (s.tile t).eccAt (homeOffset (cmd.srcAddr e k)) 8 = none) :
    let g := pcOf (homeOffset (cmd.dstAddr e k))
    ∃ (u : State) (q' : Part) (f : Flit), exec (.channelCommandStart (.tile t) ch) s = .next u ∧ u.mem = s.mem ∧
      u.part q.pid = some q' ∧ q'.flits = q.flits ++ [f] ∧ f.kind = .engine ∧ f.src = t ∧ f.dst = pcTile g ∧ f.q = q.cyc ∧
      f.payload = BitVec.ofNat 64 (Mem.readLE s.mem (tileAddr t (homeOffset (cmd.srcAddr e k))) 8) ∧
      ∃ el : Element, q'.elems = q.elems ++ [el] ∧
      f.job = el.id ∧ el.tile = t ∧ el.ch = ch ∧ el.e = e ∧ el.pc = some g ∧ el.dst = true ∧ el.home = pcTile g ∧ el.se = q.cyc := by
  intro g
  have hwalk := State.walkTile_stage (pid := q.pid) (p := q.cyc) hrun hst hpath he hk hp
  set w : WalkCx := ⟨q.pid, t, ch, q.cyc, cmd⟩
  have hdiv : (e * cmd.shape.w + k) / cmd.shape.w = e := by
    rw [Nat.mul_comm, Nat.mul_add_div (by omega), Nat.div_eq_of_lt hk, Nat.add_zero]
  have hmod : (e * cmd.shape.w + k) % cmd.shape.w = k := by rw [Nat.mul_comm, Nat.mul_add_mod, Nat.mod_eq_of_lt hk]
  simp only [State.walkStage, w, hdiv, hmod, hskip, Bool.false_eq_true, if_false, Bool.false_and, State.readOwn_sound hecc] at hwalk
  obtain ⟨u, q', f, hex, hmem, hq', hflits, hkind, hsrc, hdst, hfq, hv, hjob, hels⟩ := channelStart_injects hpo hwalk rfl
    ((State.run_modChan s t ch (f := fun c => c.pending (w.word e k)) fun _ => rfl).trans hrun) hlast hv
    (State.part_modPart_self (s := s.notePending w (w.word e k)) hq fun _ => rfl) rfl
  exact ⟨u, q', f, hex, hmem, hq', hflits, hkind, hsrc, hdst, hfq, hv, _, hels, hjob, rfl, rfl, rfl, rfl, rfl, rfl, rfl⟩

end

end

end

end Sys2Proof.Machine

/-! ### Elements, replies, deliveries and reductions -/

namespace Sys2Proof.Machine

section
variable {s : State} {pid id : Nat} {q : Part} {el : Element} (hq : s.part pid = some q)
  (hel : (q.elems.find? fun e => e.id == id) = some el)
include hq hel

/-- A source element sends its next word (R247, R250). -/
theorem elementAtHome_sends {k : Nat} (hpc : el.pc = none) (hdst : el.dst = false) (href : el.refusedAt = none)
    (hp : q.cyc = el.arrive + 1 + k) (hk : k < el.homeOffs.length) (hecc : (s.tile el.home).eccAt (el.homeOffs.getD k 0) 8 = none)
    (hflits : q.elemFlits el el.tile q.cyc = []) :
    exec (.engineElementAtHome pid id) s = .next ((s.modPart pid fun p => p.setElem el).modPart pid fun p =>
      p.inject .engine el.home el.tile q.cyc
        (BitVec.ofNat 64 (Mem.readLE s.mem (tileAddr el.home (el.homeOffs.getD k 0)) 8)) el.id none) := by
  have hnot : (el.pc.isNone && el.arrive == q.cyc && !s.checkElement el) = false := by
    rw [beq_false_of_ne (by omega), Bool.and_false, Bool.false_and]
  have hidx : q.cyc - el.arrive - 1 = k := by omega
  have hgo : (el.pc.isNone && !el.dst && el.refusedAt.isNone && decide (el.arrive < q.cyc) &&
      decide (k < el.homeOffs.length)) = true := by
    rw [hpc, hdst, href, decide_eq_true hk, decide_eq_true (by omega)]
    rfl
  have hecc' : ((s.modPart pid fun q => q.setElem el).tile el.home).eccAt (el.homeOffs.getD k 0) 8 = none := hecc
  show execEngineElementAtHome pid id s = _
  simp only [execEngineElementAtHome, hq, hel, hnot, Bool.false_eq_true, if_false, hidx, hgo, if_true, hflits, List.foldl_nil, ite_self,
    State.readOwn_sound hecc']
  rw [if_neg (by rw [hdst]; exact Bool.false_ne_true)]
  rfl

/-- A refused element raises its fault at the channel's tile (R250, R276). -/
theorem engineRefusal_outcome (href : el.refusedAt = some q.cyc) :
    ∃ u q', exec (.engineRefusalArrival pid id) s = .next u ∧ u.mem = s.mem ∧ u.part pid = some q' ∧
      q'.freezing = true ∧ (∀ e ∈ q'.elems, e.id ≠ id) ∧
      ∃ r, q'.faults = q.faults ++ [r] ∧ r.code = 0x20 ∧ r.kind = 2 ∧ r.x = el.tile.x ∧ r.y = el.tile.y := by
  have hnot : (el.refusedAt != some q.cyc) = false := by rw [href, bne_self_eq_false]
  let s1 := (s.modPart pid fun q => { q with elems := q.elems.filter fun e => e.id != id }).modChan (.tile el.tile) el.ch fun c =>
    { c with inflight := c.inflight.filter fun n => !(decide (el.first ≤ n ∧ n < el.first + el.homeOffs.length)) }
  let r := unitRecord el.tile .access q.cyc 2 { code := fcRemoteNack, info := el.e % 2 ^ 32 + el.ch.val * 2 ^ 32 + 2 * 2 ^ 47 } el.ch.val
  have he : exec (.engineRefusalArrival pid id) s = .next (s1.modPart pid fun q => q.take r) := by
    show execEngineRefusalArrival pid id s = _
    simp only [execEngineRefusalArrival, hq, hel, hnot, Bool.false_eq_true, if_false]
    rfl
  have hs1 : s1.part pid = some { q with elems := q.elems.filter fun e => e.id != id } := (State.part_modTile ..).trans
    (State.part_modPart_self (f := fun q => { q with elems := q.elems.filter fun e => e.id != id }) hq fun _ => rfl)
  refine ⟨_, _, he, rfl, State.part_modPart_self hs1 fun q => q.take_pid r, rfl, fun e he => ?_, r, rfl, rfl, rfl, rfl, rfl⟩
  rw [Part.take_elems] at he
  simpa using (List.mem_filter.1 he).2

end

/-! Replies (R249, R303). -/

/-- The request that a number finds is one of its partition's. -/
theorem State.requestOf_mem {s : State} {id : Nat} {q : Part} {r : Request} (h : s.requestOf id = some (q, r)) : r.id = id := by
  obtain ⟨p, -, hp⟩ := List.exists_of_findSome?_eq_some h
  obtain ⟨x, hx, he⟩ := Option.map_eq_some_iff.1 hp
  cases he
  simpa using List.find?_some hx

theorem Mem.read_congr {m m' : List Host.Cell} {a n : Nat} (h : ∀ x, a ≤ x → x < a + n → Mem.get m' x = Mem.get m x) :
    Mem.read m' a n = Mem.read m a n := by
  unfold Mem.read
  refine List.map_congr_left fun i hi => h _ (by omega) ?_
  have := List.mem_range.1 hi
  omega

/-- The fields of a held record that its bytes give back (R304). -/
theorem heldRec_bytes (r : HeldRec) : (heldRec r.bytes).kind = r.kind % 2 ^ 8 ∧ (heldRec r.bytes).data = r.data := by
  have hfield (l m r : List Byte) (i n : Nat) (hl : l.length = i) (hm : m.length = n) : recNat (l ++ m ++ r) i n = leNat m := by
    rw [recNat, List.append_assoc, ← hl, List.drop_left, ← hm, List.take_left]
  constructor
  · have := hfield (leBytes 2 r.px ++ leBytes 2 r.py) (leBytes 1 r.kind)
      (leBytes 1 r.who ++ leBytes 2 r.slot ++ leBytes 8 r.num ++ leBytes 8 r.data.toNat ++ leBytes 8 r.extra) 4 1 (by simp) (by simp)
    rw [leNat_leBytes] at this
    rw [← this]
    simp only [heldRec, HeldRec.bytes, List.append_assoc]
  · have := hfield (leBytes 2 r.px ++ leBytes 2 r.py ++ leBytes 1 r.kind ++ leBytes 1 r.who ++ leBytes 2 r.slot ++ leBytes 8 r.num)
      (leBytes 8 r.data.toNat) (leBytes 8 r.extra) 16 8 (by simp) (by simp)
    rw [leNat_leBytes, Nat.mod_eq_of_lt r.data.isLt] at this
    have hdata : (heldRec r.bytes).data = BitVec.ofNat 64 r.data.toNat := by
      rw [← this]
      rfl
    rw [hdata, BitVec.ofNat_toNat, BitVec.setWidth_eq]

/-- The held area lies behind the header (R298). -/
theorem Part.heldAt_ge (q : Part) : 0x20000 ≤ q.heldAt := by
  unfold Part.heldAt Part.tile0 tile0At
  omega

theorem State.part_areaWrite (s : State) (q : Part) (off : Nat) (l : List Byte) (n : Nat) : (s.areaWrite q off l).part n = s.part n := by
  simp only [State.part, State.areaWrite]

/-- Records of 32 bytes that stand one behind the other, and one more written behind them. -/
theorem Mem.read_records_write {m m' : List Host.Cell} {b n : Nat} {l : List Byte} (hw : Mem.wf m = true) (hl : l.length = 32)
    (hm : ∀ a, b ≤ a → Mem.get m' a = Mem.get (Mem.write m (b + 32 * n) l) a) :
    (List.range (n + 1)).map (fun i => Mem.read m' (b + 32 * i) 32) = (List.range n).map (fun i => Mem.read m (b + 32 * i) 32) ++ [l] := by
  have hread (k : Nat) : Mem.read m' (b + 32 * k) 32 = Mem.read (Mem.write m (b + 32 * n) l) (b + 32 * k) 32 :=
    Mem.read_congr fun a ha _ => hm a (by omega)
  have hold (k : Nat) (hk : k < n) : Mem.read m' (b + 32 * k) 32 = Mem.read m (b + 32 * k) 32 :=
    (hread k).trans (Mem.read_congr fun a _ ha => Mem.get_write_other l (Or.inl (by omega)) hw)
  have hnew : Mem.read m' (b + 32 * n) 32 = l := by
    rw [hread, ← hl]
    exact Mem.read_write_self _ _ hw
  rw [List.range_succ, List.map_append, List.map_singleton, hnew]
  congr 1
  exact List.map_congr_left fun k hk => hold k (List.mem_range.1 hk)

/-- Where the held area begins in memory. -/
def Part.heldBase (q : Part) : Nat := hbmAddr (q.saveAt + q.heldAt)

theorem Part.heldBase_ge (q : Part) : hbmAddr q.saveAt + 0x100 ≤ q.heldBase := by
  have := q.heldAt_ge
  unfold Part.heldBase hbmAddr
  omega

theorem Part.heldBase_add (q : Part) (n : Nat) : hbmAddr (q.saveAt + (q.heldAt + n)) = q.heldBase + n := by
  unfold Part.heldBase hbmAddr
  omega

/-- The held records are those that stand one behind the other from the held area's beginning on (R304). -/
theorem State.heldRecs_eq (s : State) (q : Part) :
    s.heldRecs q = ((List.range q.nheld).map fun i => Mem.read s.mem (q.heldBase + 32 * i) 32).map heldRec := by
  rw [List.map_map]
  refine List.map_congr_left fun i _ => ?_
  rw [State.areaRead, Part.heldBase_add]
  rfl

/-- A record written behind the held records is the next of them (R304). -/
theorem State.heldRecs_append {s u : State} {q : Part} (hw : Mem.wf s.mem = true) (h : HeldRec)
    (hu : ∀ a, hbmAddr q.saveAt + 0x100 ≤ a → Mem.get u.mem a = Mem.get (s.areaWrite q (q.heldAt + 32 * q.nheld) h.bytes).mem a) :
    u.heldRecs { q with nheld := q.nheld + 1 } = s.heldRecs q ++ [heldRec h.bytes] := by
  have hlen : h.bytes.length = 32 := by simp [HeldRec.bytes]
  have hmem (a : Nat) (ha : q.heldBase ≤ a) : Mem.get u.mem a = Mem.get (Mem.write s.mem (q.heldBase + 32 * q.nheld) h.bytes) a := by
    rw [hu a (Nat.le_trans q.heldBase_ge ha), State.areaWrite, Part.heldBase_add]
  rw [State.heldRecs_eq, State.heldRecs_eq, ← List.map_singleton, ← List.map_append, ← Mem.read_records_write hw hlen hmem]
  rfl

/-- A reply that the held area takes stands behind the records that are there (R303, R304). -/
theorem State.hold_one {s : State} {pid : Nat} {q : Part} (hq : s.part pid = some q) (hpid : q.pid = pid)
    (hn : q.nheld < 32768) (hw : Mem.wf s.mem = true) (h : HeldRec) :
    (s.hold q [h]).2 = true ∧ (s.hold q [h]).1.tiles = s.tiles ∧
      (s.hold q [h]).1.part pid = some { q with nheld := q.nheld + 1 } ∧
      (s.hold q [h]).1.heldRecs { q with nheld := q.nheld + 1 } = s.heldRecs q ++ [heldRec h.bytes] := by
  have he : s.hold q [h] = (((s.areaWrite q (q.heldAt + 32 * q.nheld) h.bytes).modPart pid fun q =>
      { q with nheld := q.nheld + 1 }).refreshHeader pid, true) := by
    have hfits : q.nheld + [h].length ≤ 32768 := hn
    rw [State.hold, if_pos hfits, List.flatMap_singleton, hpid]
    rfl
  have hwf := State.areaWrite_wf s q (q.heldAt + 32 * q.nheld) h.bytes hw
  have happend (u : State) (hu : ∀ a, hbmAddr q.saveAt + 0x100 ≤ a →
      Mem.get u.mem a = Mem.get (s.areaWrite q (q.heldAt + 32 * q.nheld) h.bytes).mem a) :
      u.heldRecs { q with nheld := q.nheld + 1 } = s.heldRecs q ++ [heldRec h.bytes] := State.heldRecs_append hw h hu
  have htiles : (s.areaWrite q (q.heldAt + 32 * q.nheld) h.bytes).tiles = s.tiles := by rw [State.areaWrite]
  have hpart := (s.part_areaWrite q (q.heldAt + 32 * q.nheld) h.bytes pid).trans hq
  generalize s.areaWrite q (q.heldAt + 32 * q.nheld) h.bytes = s1 at he hwf happend htiles hpart
  have hpart' := State.part_modPart_at (f := fun q => { q with nheld := q.nheld + 1 }) hpart hpid
  have hsave : ({ q with nheld := q.nheld + 1 } : Part).saveAt = q.saveAt := rfl
  rw [he]
  refine ⟨rfl, (State.refreshHeader_tiles _ _).trans htiles, (State.refreshHeader_part ..).trans hpart', happend _ fun a ha => ?_⟩
  refine State.get_refreshHeader _ _ hpart' hwf (Or.inr ?_)
  rwa [hsave]

/-- The held area is the same whatever requests are outstanding. -/
theorem State.hold_requests (s : State) (q : Part) (rs : List Request) (l : List HeldRec) :
    s.hold { q with requests := rs } l = s.hold q l := rfl

theorem State.heldRecs_requests (s : State) (q : Part) (rs : List Request) : s.heldRecs { q with requests := rs } = s.heldRecs q := rfl

/-- A channel of a tile after a change of it. -/
theorem State.chan_modChan (s : State) (t : Coord) (ch : Fin 4) (f : Chan → Chan) :
    ((s.modChan (.tile t) ch f).tile t).chans[ch] = f (s.tile t).chans[ch] := by
  rw [State.modChan, State.tile_modTile_self]
  exact Vector.getElem_set_self _

/-- A reply with data, of a running partition: a read's data fall due, a write's word is complete (R249). -/
theorem reply_running {s : State} {id : Nat} {q : Part} {r : Request} (hr : s.requestOf id = some (q, r)) (hf : q.form = .running)
    (data : List Byte) (tag : Bool) :
    ∃ u, exec (.deadlineReplyArrival id (.ok data tag)) s = .next u ∧ u.mem = s.mem ∧
      (r.write = false → (u.tile r.tile).pend = (s.tile r.tile).pend ++
        [⟨q.cyc, .delivery r.off (BitVec.ofNat 64 (leNat data)) (1 + r.ch.val) (some (r.ch, r.word)) false⟩]) ∧
      (r.write = true → (u.tile r.tile).chans[r.ch] = ((s.tile r.tile).chans[r.ch]).finish r.word) := by
  have he : exec (.deadlineReplyArrival id (.ok data tag)) s = .next (s.applyReply q.pid q.cyc r (.ok data tag)) := by
    show execDeadlineReplyArrival id _ s = _
    simp only [execDeadlineReplyArrival, hr, hf, if_true]
  cases hwr : r.write
  · refine ⟨_, he, ?_, fun _ => ?_, fun h => (Bool.false_ne_true h).elim⟩
    · simp only [State.applyReply, hwr, Bool.false_eq_true, if_false]
      rfl
    · simp only [State.applyReply, hwr, Bool.false_eq_true, if_false]
      rw [State.tile_modTile, if_pos rfl]
      rfl
  · refine ⟨_, he, ?_, fun h => (Bool.false_ne_true h.symm).elim, fun _ => ?_⟩
    · simp only [State.applyReply, hwr, if_true]
      rfl
    · simp only [State.applyReply, hwr, if_true]
      exact State.chan_modChan ..

/-- A reply with data, of a frozen partition: the next record of the held area (R303, R304). -/
theorem reply_frozen {s : State} {id : Nat} {q : Part} {r : Request} (hr : s.requestOf id = some (q, r)) (hf : q.form ≠ .running)
    (hq : s.part q.pid = some q) (hn : q.nheld < 32768) (hw : Mem.wf s.mem = true) (data : List Byte) (tag : Bool) :
    ∃ u q', exec (.deadlineReplyArrival id (.ok data tag)) s = .next u ∧ u.tiles = s.tiles ∧ u.part q.pid = some q' ∧
      q'.nheld = q.nheld + 1 ∧ (∀ x ∈ q'.requests, x.id ≠ id) ∧
      ∃ h, u.heldRecs q' = s.heldRecs q ++ [h] ∧ h.kind = (if r.write then 2 else 1) ∧ h.data = BitVec.ofNat 64 (leNat data) := by
  let s1 := s.modPart q.pid fun q => { q with requests := q.requests.filter fun x => x.id != r.id }
  let rec' := r.heldRec q (.ok data tag)
  have hs1 : s1.part q.pid = some { q with requests := q.requests.filter fun x => x.id != r.id } :=
    State.part_modPart_at (f := fun q => { q with requests := q.requests.filter fun x => x.id != r.id }) hq rfl
  obtain ⟨hflag, htiles, hpart, hrecs⟩ := State.hold_one hs1 rfl hn hw rec'
  rw [State.hold_requests] at hflag htiles hpart hrecs
  rw [State.heldRecs_requests] at hrecs
  obtain ⟨hkind, hdata⟩ := heldRec_bytes rec'
  have he : exec (.deadlineReplyArrival id (.ok data tag)) s = .next (s1.hold q [rec']).1 := by
    have hhold : s.holdReply q r (.ok data tag) = (s1.hold q [rec']).1 := by
      show (if (s1.hold q [rec']).2 then _ else _) = _
      rw [if_pos hflag]
    show execDeadlineReplyArrival id _ s = _
    simp only [execDeadlineReplyArrival, hr, if_neg hf, hhold]
  refine ⟨_, _, he, htiles, hpart, rfl, fun x hx => ?_, _, hrecs, ?_, hdata⟩
  · have := (List.mem_filter.1 hx).2
    rw [State.requestOf_mem hr] at this
    simpa using this
  · rw [hkind]
    show (if (0 : Nat) = 0 then (if r.write = true then 2 else 1) else 3) % 2 ^ 8 = _
    cases r.write <;> rfl

/-! Deliveries and reductions (R249, R257 to R259). -/

/-- Bytes stored at a tile stand in memory, and what the tile has pending stays (R203). -/
theorem State.storeTile_mem (s : State) (t : Coord) (off : Nat) (l : List Byte) (tag full : Bool) :
    (s.storeTile t off l tag full).mem = Mem.write s.mem (tileAddr t off) l := by
  rw [State.storeTile]
  split
  · rw [State.mendTile, State.modTile_mem]
  · rw [State.mendTile, State.modTile_mem]

theorem State.storeTile_pend (s : State) (t u : Coord) (off : Nat) (l : List Byte) (tag full : Bool) :
    ((s.storeTile t off l tag full).tile u).pend = (s.tile u).pend := by
  have hmend (m : State) : ((m.mendTile t off l.length).tile u).pend = (m.tile u).pend := by
    rw [State.mendTile, State.tile_modTile]
    split
    · next hu => rw [m.tile_congr hu]
    · rfl
  have htiles : (s.storeTile t off l tag full).tiles =
      (State.mendTile { s with mem := Mem.write s.mem (tileAddr t off) l } t off l.length).tiles := by
    rw [State.storeTile]
    split
    · dsimp only
    · rfl
  rw [State.tile, htiles]
  exact hmend _

/-- The deliveries of a tile that take effect (R249). -/
def State.readyOf (s : State) (t : Coord) (p : Nat) (late : Nat → Bool) : List Pend :=
  (s.tile t).pend.filter fun e => (e.deliveryAt p).any fun d => !s.wroteAt t d.1 8 && !late d.1

/-- The deliveries of a list in their order (R249). -/
def inDeliveryOrder (p : Nat) (l : List Pend) : List Pend :=
  (List.range 5).flatMap fun o => l.filter fun e => (e.deliveryAt p).any fun d => d.2 == o

/-- Deliveries of a tile taken from what is pending and given their effect, in their order. -/
def State.deliverList (s : State) (t : Coord) (p : Nat) (l : List Pend) : State :=
  (inDeliveryOrder p l).foldl (fun s e => s.deliver t e)
    (s.modTile t fun tl => { tl with pend := tl.pend.filter fun e => !l.contains e })

theorem State.deliverTile_eq (s : State) (t : Coord) (p : Nat) (late : Nat → Bool) :
    s.deliverTile t p late = s.deliverList t p (s.readyOf t p late) := by
  refine congrArg (s.deliverList t p) (List.filter_congr fun e _ => ?_)
  cases e.deliveryAt p <;> rfl

/-- A delivery that is alone on its tile and meets no write of the partition is written (R249). -/
theorem deliver_single {s : State} {pid id : Nat} {q : Part} (hq : s.part pid = some q) (hf : q.form = .running)
    (hh : q.holds (keyTile id) = true) (hb : (s.tile (keyTile id)).binding = none) {off : Nat} {v : DWord}
    (hp : (s.tile (keyTile id)).pend = [⟨q.cyc, .delivery off v 0 none false⟩]) (hwr : s.wroteAt (keyTile id) off 8 = false) :
    ∃ u, exec (.deferredDeliveryWrite pid id) s = .next u ∧ (u.tile (keyTile id)).pend = [] ∧
      u.mem = Mem.write s.mem (tileAddr (keyTile id) off) (leBytes 8 v.toNat) := by
  generalize ht : keyTile id = t at *
  let e : Pend := ⟨q.cyc, .delivery off v 0 none false⟩
  have hdel : e.deliveryAt q.cyc = some (off, 0) := if_pos (Nat.le_refl _)
  let s1 := s.modTile t fun tl => { tl with pend := tl.pend.filter fun x => !([e] : List Pend).contains x }
  have hone : s.deliverTile t q.cyc (fun _ => false) = (s1.storeTile t off (leBytes 8 v.toNat) false true).noteWrites t off 8 := by
    have hready : s.readyOf t q.cyc (fun _ => false) = [e] := by
      rw [State.readyOf, hp, List.filter_cons_of_pos (by rw [hdel, Option.any_some, hwr]; rfl), List.filter_nil]
    have horder : inDeliveryOrder q.cyc [e] = [e] := by
      simp [inDeliveryOrder, List.range_succ, hdel]
    rw [State.deliverTile_eq, hready, State.deliverList, horder]
    rfl
  have he : exec (.deferredDeliveryWrite pid id) s = .next (s.deliverTile t q.cyc fun _ => false) := by
    show execDeferredDeliveryWrite pid id s = _
    simp only [execDeferredDeliveryWrite, hq, hf, ht, hh, and_self, if_true, State.deliverAll, hb]
  have hpend : (s1.tile t).pend = [] := by
    rw [State.tile_modTile_self]
    show List.filter _ (s.tile t).pend = []
    rw [hp]
    exact List.filter_eq_nil_iff.2 fun x hx => by simpa using hx
  exact ⟨_, he.trans (congrArg _ hone), (State.storeTile_pend ..).trans hpend, State.storeTile_mem ..⟩

/-- The words of a reduction that arrive with the count expected fall due at the tile that waits (R257, R258). -/
theorem State.redArrive_due {s : State} {pid : Nat} {t : Coord} {key : RedKey} {q : Part} {r : RedWait} (hq : s.part pid = some q)
    (hr : (q.redWaits.find? fun x => x.key == key && x.tile == t) = some r) {p count : Nat} {ws : List RedWord}
    (hc : (ws.map RedWord.count).sum = count) :
    (s.redArrive pid t key p ws count).mem = s.mem ∧ ((s.redArrive pid t key p ws count).tile t).pend = (s.tile t).pend ++
      [⟨p + 3, .store r.dstOff (leBytes 8 (redFold key.op key.lane (ws.map RedWord.data)).toNat) false true
        ⟨5, 0, 0, r.ch.val, t.x, t.y, some r.stream⟩⟩] := by
  simp only [State.redArrive, hq, hr, hc, if_true]
  refine ⟨rfl, ?_⟩
  rw [State.tile_modTile, if_pos rfl]
  rfl

theorem reductionCombinedArrival_due {s : State} {t : Coord} {key : RedKey} {q : Part} (hq : s.part q.pid = some q)
    (hg : key.get = false)
    (ht : t = ⟨q.x0 + key.gx, q.y0 + key.gy⟩) {ws : List RedWord} (hws : (q.redWords.filter fun x => x.key == key && x.due == q.cyc) = ws)
    (hne : ws ≠ []) : exec (.reductionCombinedArrival q.pid key) s = .next (s.redArrive q.pid t key q.cyc ws (key.gw * key.gh)) := by
  have hnot : ¬(ws.isEmpty = true ∨ key.get = true) := by
    rw [hg, List.isEmpty_iff]
    simpa using hne
  show execReductionCombinedArrival q.pid key s = _
  simp only [execReductionCombinedArrival, hq, hws]
  rw [if_neg hnot, ht]

theorem ggetWordArrival_due {s : State} {t : Coord} {key : RedKey} {q : Part} {w : RedWord} (ht : s.partOf t = some q)
    (hg : key.get = true) (hws : (q.redWords.filter fun x => x.key == key && x.tile == t && x.due == q.cyc) = [w]) :
    exec (.ggetWordArrival t key) s = .next (s.redArrive q.pid t key q.cyc [w] 1) := by
  show execGgetWordArrival t key s = _
  simp only [execGgetWordArrival, ht, hws]
  rw [if_neg (by simp [hg])]

/-- A hub's channel without a command does nothing. -/
theorem hubChannelStart_idle {s : State} {d h : Nat} {ch : Fin 4} (hrun : (s.hub d h).chans[ch].run = none) :
    exec (.channelCommandStart (.hub d h) ch) s = .next s := by
  show Host.Outcome.next (s.walkHub d h ch) = _
  have hchan : (s.chan (.hub d h) ch).run = none := hrun
  simp only [State.walkHub, hchan]

/-- Settles O50: the channels' walks by what they do with an element's cycle, and each arrival by its own equation (R247 to R250,
R257 to R259, R303). -/
theorem engineEvents : Obligations.EngineEvents := by
  unfold Obligations.EngineEvents
  refine ⟨?_, ?_, ?_, ?_, ?_, ?_, ?_⟩
  · intro t ch s q cmd st e k hpo hq hrun hst hpath hv hlast he hk hp hskip src hecc
    exact channelStart_local hpo hrun hst hlast hv he hskip hpath hk hp hecc
  · intro t ch s q cmd st e k hpo hq hrun hst hv hlast he hk hskip w src word injects begins
    refine ⟨fun hp => ⟨fun hpath => ?_, fun hpath => ?_⟩, fun hp hpath hecc el hel => ?_, fun hp hpath hecc => ?_⟩
    · exact channelStart_dst hpo hrun hst hlast hv he hskip hq hpath hp
    · exact channelStart_src hpo hrun hst hlast hv he hskip hq hpath hp
    · exact channelStart_word hpo hrun hst hlast hv he hskip hq hpath hk hp hecc hel
    · exact channelStart_stage hpo hrun hst hlast hv he hskip hq hpath hk hp hecc
  · exact fun d h ch s hrun => hubChannelStart_idle hrun
  · intro pid id s q el hq hpid hel
    exact ⟨fun k hpc hdst href hp hk hecc hflits => elementAtHome_sends hq hel hpc hdst href hp hk hecc hflits,
      engineRefusal_outcome hq hel⟩
  · intro id reply s q r hr
    refine ⟨fun hf data tag he => ?_, fun hf hq hn hw data tag he => ?_⟩
    · subst he
      exact reply_running hr hf data tag
    · subst he
      exact reply_frozen hr hf hq hn hw data tag
  · intro pid id s q hq hf hh hb off v hp hwr _ _
    obtain ⟨u, he, hpend, hmem⟩ := deliver_single hq hf hh hb hp hwr
    exact ⟨u, he, hpend, hmem⟩
  · intro t key s q r w hq ht hr due
    refine ⟨fun ws hg hto hws hne hsum => ?_, fun hg hws hcount => ?_⟩
    · exact ⟨_, reductionCombinedArrival_due hq hg hto hws hne, State.redArrive_due hq hr hsum⟩
    · exact ⟨_, ggetWordArrival_due ht hg hws, State.redArrive_due hq hr (by simpa using hcount)⟩

end Sys2Proof.Machine

/-! ### The memory commands of a pseudo-channel -/

namespace Sys2Proof.Machine

/-- A timetable whose one bank entry writes a burst of pseudo-channel 0 in cycle 5. -/
def burstTable : Timetable :=
  { phases := [(10, 10, 0)], route := [], owned := [0], edge := [], pins := []
    bank := [{ pc := 0, pe := 0, cmd := 2, bank := 0, ch := 0, px := 0, py := 0, col := 0, row := 0, off := 5 }] }

/-- A partition in cycle p, the eight words of a burst staged. -/
def burstPart (p : Nat) : Part :=
  { Part.admitted probeRecord 0 (0, 0) burstTable 0 0 with
    form := .running, p := some p
    staging := (List.range 8).map fun k =>
      { pc := 0, tile := ⟨0, 0⟩, ch := 0, addr := 8 * k, data := 0, stream := k, burst := 0, at' := 0, wr := none } }

/-- Two partitions of one number, in different cycles. -/
def twoBursts : State :=
  { State.reset with parts := [burstPart 5, burstPart 6], pcs := [(0, { PChan.powerOn with rows := [(0, 0)] })] }

/-- The cycles at which staged words are to be written. -/
def stagedWrites : Out → List (List (Option Nat))
  | .next u => u.parts.map fun q => q.staging.map StageWord.wr
  | _ => []

theorem stagedWrites_twoBursts :
    stagedWrites (exec (.bankWr (burstPart 5).pid 0) twoBursts) = [List.replicate 8 (some 40), List.replicate 8 (some 41)] := by
  decide

/-- Refutes O51: the statement does not ask that a partition's number be its own. A WR arms the staged words of every partition of
that number, each for 35 cycles after its own cycle; where a second partition of the number stands in cycle 6, its words are armed
for cycle 41, and not for cycle 40, 35 cycles after the first one's cycle 5. -/
theorem not_bankEvents : ¬ Obligations.BankEvents := by
  intro h
  obtain ⟨-, -, -, hwr, -⟩ := h (burstPart 5).pid 0 twoBursts (burstPart 5) burstTable.bank[0] (by decide) rfl
  have hx := (hwr (by decide) (by decide)).1 (by decide)
  have hy := stagedWrites_twoBursts.symm.trans (congrArg stagedWrites hx)
  exact absurd hy (by decide)

end Sys2Proof.Machine

/-! ### What falls due at the end of a cycle -/

namespace Sys2Proof.Machine

/-! The effects of a tile, and the writes of c-registers among them (R28). -/

/-- The value that an effect leaves in a c-register. -/
def Eff.regOf (k : Side) (j : Fin 4) (r : RegNo) : Eff → Option CReg
  | .creg k' j' r' v => if k' = k ∧ j' = j ∧ r' = r then some v else none
  | _ => none

/-- The values that fall due in a c-register at the end of cycle p, in their order. -/
def Tile.regsDue (tl : Tile) (p : Nat) (k : Side) (j : Fin 4) (r : RegNo) : List CReg :=
  tl.pend.filterMap fun e => if e.dueAt p then e.eff.regOf k j r else none

/-- Whether an effect is a write of a c-register. -/
def Eff.IsReg (e : Eff) : Prop := ∃ k j r v, e = .creg k j r v

/-- Whether what falls due in a tile at the end of cycle p are writes of c-registers only. -/
def Tile.RegsOnly (tl : Tile) (p : Nat) : Prop := ∀ e ∈ tl.pend, e.due = p → e.eff.IsReg

/-- What is the same in two states but for the tiles. -/
def State.SameBesideTiles (s u : State) : Prop := { u with tiles := s.tiles } = s

section
variable {s : State} {t : Coord} {pid p : Nat}

/-- The effects of a tile that fall due at the end of cycle p. -/
def Tile.effsDue (tl : Tile) (p : Nat) : List Eff := (tl.pend.filter fun e => e.dueAt p).map Pend.eff

/-- The records of the collisions among effects (R225, R226). -/
def collisionRecs (t : Coord) (p : Nat) (all : List Eff) : List FRec :=
  (collidedWords all).flatMap fun w =>
    (all.filter fun e => (e.touches.map fun x => x.1.contains w).getD false).filterMap fun e => e.writer.map (writerRecord t p w)

/-- Effects that fall due one by one in the order of their phases. -/
def State.effectsDue (s : State) (pid : Nat) (t : Coord) (all : List Eff) : State :=
  ((List.range 6).flatMap fun n => all.filter fun e => e.phase == n).foldl (fun s e => s.effectDue pid t (collidedWords all) e) s

theorem State.tileDue_none (h : ∀ e ∈ (s.tile t).pend, e.dueAt p = false) : s.tileDue pid p t = (s, []) := by
  have hnil : (s.tile t).pend.filter (fun e => e.dueAt p) = [] := List.filter_eq_nil_iff.2 fun e he => by simp [h e he]
  simp only [State.tileDue, hnil, List.map_nil, List.isEmpty_nil, if_true]

theorem State.tileDue_some (h : (s.tile t).effsDue p ≠ []) :
    s.tileDue pid p t = ((s.modTile t fun tl => { tl with pend := tl.pend.filter fun e => !e.dueAt p }).effectsDue pid t
      ((s.tile t).effsDue p), collisionRecs t p ((s.tile t).effsDue p) ++
      ((s.tile t).effsDue p).filterMap fun e => e.ecc (s.tile t) t p (collidedWords ((s.tile t).effsDue p))) := by
  have hempty : ((s.tile t).effsDue p).isEmpty = false := by simpa using h
  show (if ((s.tile t).effsDue p).isEmpty then _ else _) = _
  rw [hempty, if_neg Bool.false_ne_true]
  rfl

/-- A c-register that is written when it falls due (R11, R28). -/
theorem State.effectDue_creg_slot (bad : List Nat) (k k' : Side) (j j' : Fin 4) (r r' : RegNo) (v : CReg) (hr : r' ≠ 0) :
    (((s.effectDue pid t bad (.creg k j r v)).tile t).slot k' j').c[r'] =
      if k = k' ∧ j = j' ∧ r = r' then v else ((s.tile t).slot k' j').c[r'] := by
  have htile : ((s.effectDue pid t bad (.creg k j r v)).tile t).slot k' j' =
      ((s.tile t).setSlot k j (((s.tile t).slot k j).write r v)).slot k' j' := by
    simp only [State.effectDue, State.tile_modTile_self]
    cases k' <;> rfl
  rw [htile, Tile.slot_setSlot]
  by_cases hslot : (k', j') = (k, j)
  · cases hslot
    rw [if_pos rfl, Slot.write_c]
    by_cases hrr : r' = r
    · subst hrr
      rw [if_pos ⟨rfl, hr⟩, if_pos ⟨rfl, rfl, rfl⟩]
    · rw [if_neg fun h => hrr h.1, if_neg fun h => hrr h.2.2.symm]
  · rw [if_neg hslot, if_neg fun h => hslot (by rw [h.1, h.2.1])]

theorem State.effectDue_creg_keeps (bad : List Nat) (k : Side) (j : Fin 4) (r : RegNo) (v : CReg) :
    s.SameBesideTiles (s.effectDue pid t bad (.creg k j r v)) ∧
      ((s.effectDue pid t bad (.creg k j r v)).tile t).pend = (s.tile t).pend ∧
      ∀ u, tileKey u ≠ tileKey t → (s.effectDue pid t bad (.creg k j r v)).tile u = s.tile u := by
  refine ⟨rfl, ?_, fun u hu => ?_⟩
  · simp only [State.effectDue, State.tile_modTile_self]
    exact Tile.setSlot_pend ..
  · exact State.tile_modTile_other _ _ hu

theorem State.SameBesideTiles.trans {s u v : State} (hu : s.SameBesideTiles u) (hv : u.SameBesideTiles v) : s.SameBesideTiles v := by
  unfold State.SameBesideTiles at *
  rw [← hu, ← hv]

/-- Writes of c-registers that fall due together: a register has the last of them, or stays (R28). -/
theorem State.foldl_creg {l : List Eff} (hl : ∀ e ∈ l, e.IsReg) (bad : List Nat) (s : State) :
    let u := l.foldl (fun s e => s.effectDue pid t bad e) s
    s.SameBesideTiles u ∧ (u.tile t).pend = (s.tile t).pend ∧ (∀ x, tileKey x ≠ tileKey t → u.tile x = s.tile x) ∧
      ∀ (k : Side) (j : Fin 4) (r : RegNo), r ≠ 0 →
        ((u.tile t).slot k j).c[r] = ((l.filterMap (Eff.regOf k j r)).getLast?).getD ((s.tile t).slot k j).c[r] := by
  induction l generalizing s with
  | nil => exact ⟨rfl, rfl, fun _ _ => rfl, fun _ _ _ _ => rfl⟩
  | cons e l ih =>
    obtain ⟨k, j, r, v, rfl⟩ := hl e List.mem_cons_self
    obtain ⟨hsame, hpend, hother⟩ := State.effectDue_creg_keeps (s := s) (t := t) (pid := pid) bad k j r v
    obtain ⟨hsame', hpend', hother', hregs⟩ := ih (fun e he => hl e (List.mem_cons_of_mem _ he)) (s.effectDue pid t bad (.creg k j r v))
    refine ⟨hsame.trans hsame', hpend'.trans hpend, fun x hx => (hother' x hx).trans (hother x hx), fun k' j' r' hr' => ?_⟩
    refine (hregs k' j' r' hr').trans ?_
    rw [State.effectDue_creg_slot bad k k' j j' r r' v hr']
    by_cases hkjr : k = k' ∧ j = j' ∧ r = r'
    · rw [List.filterMap_cons_some (show Eff.regOf k' j' r' (.creg k j r v) = some v from if_pos hkjr), List.getLast?_cons, if_pos hkjr]
      rfl
    · rw [List.filterMap_cons_none (show Eff.regOf k' j' r' (.creg k j r v) = none from if_neg hkjr), if_neg hkjr]

theorem collidedWords_regs {l : List Eff} (hl : ∀ e ∈ l, e.IsReg) : collidedWords l = [] := by
  have hnone : l.filterMap Eff.touches = [] := List.filterMap_eq_nil_iff.2 fun e he => by
    obtain ⟨k, j, r, v, rfl⟩ := hl e he
    rfl
  simp [collidedWords, hnone]

/-- The effects of one phase are in their order. -/
theorem phases_of_all {l : List Eff} (hl : ∀ e ∈ l, e.phase = 5) : (List.range 6).flatMap (fun n => l.filter fun e => e.phase == n) = l := by
  have hother {n : Nat} (hn : n ≠ 5) : l.filter (fun e => e.phase == n) = [] :=
    List.filter_eq_nil_iff.2 fun e he => by rw [hl e he]; simpa using hn.symm
  have hall : l.filter (fun e => e.phase == 5) = l := List.filter_eq_self.2 fun e he => by rw [hl e he]; rfl
  simp [List.range_succ, hother, hall]

/-- What falls due in a tile where only c-registers are written (R28, R203). -/
theorem State.tileDue_regs (h : (s.tile t).RegsOnly p) :
    let u := (s.tileDue pid p t).1
    (s.tileDue pid p t).2 = [] ∧ s.SameBesideTiles u ∧ (∀ x, tileKey x ≠ tileKey t → u.tile x = s.tile x) ∧
      (u.tile t).pend = (s.tile t).pend.filter (fun e => !e.dueAt p) ∧
      ∀ (k : Side) (j : Fin 4) (r : RegNo), r ≠ 0 →
        ((u.tile t).slot k j).c[r] = (((s.tile t).regsDue p k j r).getLast?).getD ((s.tile t).slot k j).c[r] := by
  set all := (s.tile t).effsDue p with hall
  have hregs : ∀ e ∈ all, e.IsReg := fun e he => by
    obtain ⟨x, hx, rfl⟩ := List.mem_map.1 he
    obtain ⟨hmem, hdue⟩ := List.mem_filter.1 hx
    exact h x hmem (by simpa using (Bool.and_eq_true_iff.1 hdue).1)
  have hphase : ∀ e ∈ all, e.phase = 5 := fun e he => by
    obtain ⟨k, j, r, v, rfl⟩ := hregs e he
    rfl
  have hecc : all.filterMap (fun e => e.ecc (s.tile t) t p (collidedWords all)) = [] := List.filterMap_eq_nil_iff.2 fun e he => by
    obtain ⟨k, j, r, v, rfl⟩ := hregs e he
    rfl
  have hvals (k : Side) (j : Fin 4) (r : RegNo) : (s.tile t).regsDue p k j r = all.filterMap (Eff.regOf k j r) := by
    rw [hall, Tile.effsDue, List.filterMap_map, List.filterMap_filter]
    rfl
  by_cases hnil : all = []
  · have hnone : ∀ e ∈ (s.tile t).pend, e.dueAt p = false := fun e he => by
      have := List.filter_eq_nil_iff.1 (List.map_eq_nil_iff.1 hnil) e he
      simpa using this
    rw [State.tileDue_none hnone]
    refine ⟨rfl, rfl, fun _ _ => rfl, (List.filter_eq_self.2 fun e he => by rw [hnone e he]; rfl).symm, fun k j r hr => ?_⟩
    rw [hvals, hnil]
    rfl
  · let s1 := s.modTile t fun tl => { tl with pend := tl.pend.filter fun e => !e.dueAt p }
    have he : s.tileDue pid p t = (all.foldl (fun s e => s.effectDue pid t [] e) s1, []) := by
      rw [State.tileDue_some hnil, ← hall, hecc, collisionRecs, State.effectsDue, collidedWords_regs hregs, phases_of_all hphase]
      rfl
    obtain ⟨hsame, hpend, hother, hval⟩ := State.foldl_creg (pid := pid) (t := t) hregs [] s1
    have hs1 : s.SameBesideTiles s1 := rfl
    have htile : s1.tile t = { s.tile t with pend := (s.tile t).pend.filter fun e => !e.dueAt p } := State.tile_modTile_self ..
    rw [he]
    refine ⟨rfl, hs1.trans hsame, fun x hx => (hother x hx).trans (State.tile_modTile_other _ _ hx), hpend.trans (by rw [htile]),
      fun k j r hr => (hval k j r hr).trans ?_⟩
    rw [hvals, htile]
    rfl

/-- What falls due in tiles where only c-registers are written, one tile after the other (R28). -/
theorem State.foldl_tileDue_regs {l : List Coord} {s : State} (recs : List FRec) (h : ∀ t ∈ l, (s.tile t).RegsOnly p) :
    let r := l.foldl (fun (acc : State × List FRec) t =>
      let r := acc.1.tileDue pid p t
      (r.1, acc.2 ++ r.2)) (s, recs)
    r.2 = recs ∧ s.SameBesideTiles r.1 ∧ (∀ x, (∀ e ∈ (s.tile x).pend, e.dueAt p = false) → r.1.tile x = s.tile x) ∧
      (∀ x, (∀ t ∈ l, tileKey x ≠ tileKey t) → r.1.tile x = s.tile x) ∧
      ∀ t ∈ l, (r.1.tile t).pend = (s.tile t).pend.filter (fun e => !e.dueAt p) ∧ ∀ (k : Side) (j : Fin 4) (r' : RegNo), r' ≠ 0 →
        ((r.1.tile t).slot k j).c[r'] = (((s.tile t).regsDue p k j r').getLast?).getD ((s.tile t).slot k j).c[r'] := by
  induction l generalizing s recs with
  | nil => exact ⟨rfl, rfl, fun _ _ => rfl, fun _ _ => rfl, fun _ h => absurd h List.not_mem_nil⟩
  | cons a l ih =>
    obtain ⟨hrecs, hsame, hother, hpend, hreg⟩ := State.tileDue_regs (pid := pid) (h a List.mem_cons_self)
    set s1 := (s.tileDue pid p a).1 with hs1
    have hat (t : Coord) (hk : tileKey t = tileKey a) : (s1.tile t).pend = (s.tile t).pend.filter (fun e => !e.dueAt p) := by
      rw [s1.tile_congr hk, s.tile_congr hk, hpend]
    have hsub (t : Coord) (e : Pend) (he : e ∈ (s1.tile t).pend) : e ∈ (s.tile t).pend := by
      by_cases hk : tileKey t = tileKey a
      · rw [hat t hk] at he
        exact (List.mem_filter.1 he).1
      · rwa [hother t hk] at he
    obtain ⟨hrecs', hsame', hkeep, haway, hdone⟩ := ih (s := s1) (recs ++ (s.tileDue pid p a).2)
      fun t ht e he => h t (List.mem_cons_of_mem _ ht) e (hsub t e he)
    have hquiet (t : Coord) (hk : tileKey t = tileKey a) (e : Pend) (he : e ∈ (s1.tile t).pend) : e.dueAt p = false := by
      rw [hat t hk] at he
      simpa using (List.mem_filter.1 he).2
    refine ⟨hrecs'.trans (by rw [hrecs, List.append_nil]), hsame.trans hsame', fun x hx => ?_, fun x hx => ?_, fun t ht => ?_⟩
    · by_cases hk : tileKey x = tileKey a
      · have hstay : s1 = s := congrArg Prod.fst (State.tileDue_none (s.tile_congr hk ▸ hx))
        exact (hkeep x fun e he => hx e (hsub x e he)).trans (congrArg (fun u => u.tile x) hstay)
      · exact (hkeep x fun e he => hx e (hsub x e he)).trans (hother x hk)
    · exact (haway x fun t ht => hx t (List.mem_cons_of_mem _ ht)).trans (hother x (hx a List.mem_cons_self))
    · by_cases hk : tileKey t = tileKey a
      · have hstay := hkeep t (hquiet t hk)
        rw [List.foldl_cons, hstay, s1.tile_congr hk, s.tile_congr hk]
        exact ⟨hpend, hreg⟩
      · have hmem : t ∈ l := (List.mem_cons.1 ht).resolve_left fun he => hk (by rw [he])
        have hdone' := hdone t hmem
        rw [hother t hk] at hdone'
        exact hdone'

end

/-! The end of a cycle of a partition (R28, R203, R225, R226). -/

section
variable {s : State} {pid : Nat} {q : Part}

/-- Bursts that no WR entry has taken stay in staging (R209). -/
theorem State.stageWrites_none (hq : s.part pid = some q) (p : Nat) (hs : ∀ w ∈ q.staging, w.wr = none) :
    s.stageWrites pid p = s.modPart pid fun q => { q with staging := q.staging.filter fun w => w.wr != some p } := by
  have hnil : q.staging.filter (fun w => w.wr == some p) = [] := List.filter_eq_nil_iff.2 fun w hw => by simp [hs w hw]
  simp only [State.stageWrites, hq, hnil, List.foldl_nil]

/-- The end of a cycle, `u` being what the members' effects leave and `recs` their records. -/
theorem pendingEffectDue_eq (hq : s.part pid = some q) (hpid : pid = q.pid) (hf : q.form = .running) (hs : ∀ w ∈ q.staging, w.wr = none)
    {u : State} {recs : List FRec} (hu : q.members.foldl (fun (acc : State × List FRec) t =>
      let r := acc.1.tileDue pid q.cyc t
      (r.1, acc.2 ++ r.2)) (s, []) = (u, recs)) (huq : u.part pid = some q) :
    ∃ v, exec (.pendingEffectDue pid) s = .next v ∧ v.mem = u.mem ∧ v.full = u.full ∧ v.qtags = u.qtags ∧ v.hubs = u.hubs ∧
      v.tiles = u.tiles ∧ (q.staging = [] → q.undo = none → v.part pid = some (recs.foldl Part.take q)) := by
  let u1 := u.modPart pid fun x => { x with staging := x.staging.filter fun w => w.wr != some q.cyc }
  let u2 := u1.modPart pid fun x => { x with undo := x.undo.map fun y => { y with late := s.snap x } }
  have hdue : s.allDue q q.cyc = (u1, recs) := by
    subst hpid
    rw [State.allDue]
    simp only [hu, State.stageWrites_none huq q.cyc hs]
    rfl
  have he : exec (.pendingEffectDue pid) s = .next (recs.foldl (fun s x => s.cycleFault pid x) u2) := by
    have hrun : (q.form != .running) = false := by rw [hf]; rfl
    show execPendingEffectDue pid s = _
    simp only [execPendingEffectDue, hq, hrun, Bool.false_eq_true, if_false, hdue]
    rfl
  have keeps {β : Type} (f : State → β) (hmod : ∀ (v : State) g, f (v.modPart pid g) = f v) :
      f (recs.foldl (fun s x => s.cycleFault pid x) u2) = f u :=
    (foldl_keeps f (f := fun s x => s.cycleFault pid x) (fun v x => hmod v _) recs u2).trans ((hmod u1 _).trans (hmod u _))
  refine ⟨_, he, keeps State.mem fun _ _ => rfl, keeps State.full fun _ _ => rfl, keeps State.qtags fun _ _ => rfl,
    keeps State.hubs fun _ _ => rfl, keeps State.tiles fun _ _ => rfl, fun hst hun => State.part_foldl_cycleFault recs ?_⟩
  have hu1 := State.part_modPart_at (f := fun x => { x with staging := x.staging.filter fun w => w.wr != some q.cyc }) huq hpid.symm
  have hu2 := State.part_modPart_at (f := fun x => { x with undo := x.undo.map fun y => { y with late := s.snap x } }) hu1 hpid.symm
  rw [show u2.part pid = _ from hu2]
  simp only [hst, hun, List.filter_nil, Option.map_none]
  rw [← hst, ← hun]

/-- Where only c-registers are written, the end of a cycle writes them and keeps the rest (R28, R203). -/
theorem pendingEffectDue_regs (hq : s.part pid = some q) (hpid : pid = q.pid) (hf : q.form = .running)
    (hs : ∀ w ∈ q.staging, w.wr = none) (h : ∀ t ∈ q.members, (s.tile t).RegsOnly q.cyc) :
    ∃ u, exec (.pendingEffectDue pid) s = .next u ∧ u.mem = s.mem ∧ u.full = s.full ∧ u.qtags = s.qtags ∧ u.hubs = s.hubs ∧
      (∀ x, (∀ e ∈ (s.tile x).pend, e.dueAt q.cyc = false) → u.tile x = s.tile x) ∧
      ∀ t ∈ q.members, (u.tile t).pend = (s.tile t).pend.filter (fun e => !e.dueAt q.cyc) ∧ ∀ (k : Side) (j : Fin 4) (r : RegNo), r ≠ 0 →
        ((u.tile t).slot k j).c[r] = (((s.tile t).regsDue q.cyc k j r).getLast?).getD ((s.tile t).slot k j).c[r] := by
  obtain ⟨hrecs, hsame, hquiet, -, hdone⟩ := State.foldl_tileDue_regs (pid := pid) [] h
  set r := q.members.foldl (fun (acc : State × List FRec) t =>
    let r := acc.1.tileDue pid q.cyc t
    (r.1, acc.2 ++ r.2)) (s, []) with hr
  have huq : r.1.part pid = some q := by rw [State.part, show r.1.parts = s.parts from (congrArg State.parts hsame :)]; exact hq
  obtain ⟨v, he, hmem, hfull, hqtags, hhubs, htiles, -⟩ := pendingEffectDue_eq hq hpid hf hs (u := r.1) (recs := r.2) rfl huq
  have htile (x : Coord) : v.tile x = r.1.tile x := by rw [State.tile, htiles, State.tile]
  refine ⟨v, he, hmem.trans (congrArg State.mem hsame :), hfull.trans (congrArg State.full hsame :), hqtags.trans (congrArg State.qtags hsame :),
    hhubs.trans (congrArg State.hubs hsame :), fun x hx => (htile x).trans (hquiet x hx), fun t ht => ?_⟩
  rw [htile]
  exact hdone t ht

/-- With nothing due, the end of a cycle changes no member (R203). -/
theorem pendingEffectDue_quiet (hq : s.part pid = some q) (hpid : pid = q.pid) (hf : q.form = .running)
    (hs : ∀ w ∈ q.staging, w.wr = none) (h : ∀ t ∈ q.members, ∀ e ∈ (s.tile t).pend, q.cyc < e.due) :
    ∃ u, exec (.pendingEffectDue pid) s = .next u ∧ u.mem = s.mem ∧ u.hubs = s.hubs ∧
      ∀ t ∈ q.members, (u.tile t).pend = (s.tile t).pend ∧ ∀ k j, (u.tile t).slot k j = (s.tile t).slot k j := by
  obtain ⟨u, he, hmem, -, -, hhubs, hquiet, -⟩ := pendingEffectDue_regs hq hpid hf hs fun t ht e hm hd =>
    absurd (h t ht e hm) (by omega)
  refine ⟨u, he, hmem, hhubs, fun t ht => ?_⟩
  have htile := hquiet t fun e hm => by
    have := h t ht e hm
    rw [Pend.dueAt, beq_false_of_ne (by omega), Bool.false_and]
  rw [htile]
  exact ⟨rfl, fun _ _ => rfl⟩

theorem Part.members_one (hw : q.lrec.w = 1) (hh : q.lrec.h = 1) : q.members = [⟨q.x0, q.y0⟩] := by
  simp [Part.members, hw, hh, List.range_succ]

/-- A c-register write that is alone in its partition (R28). -/
theorem pendingEffectDue_creg (hq : s.part pid = some q) (hpid : pid = q.pid) (hf : q.form = .running) (hw : q.lrec.w = 1)
    (hh : q.lrec.h = 1) (hs : q.staging = []) {k : Side} {j : Fin 4} {r : RegNo} {v : CReg} (hr : r ≠ 0)
    (hp : (s.tile ⟨q.x0, q.y0⟩).pend = [⟨q.cyc, .creg k j r v⟩]) :
    ∃ u, exec (.pendingEffectDue pid) s = .next u ∧ u.mem = s.mem ∧ (u.tile ⟨q.x0, q.y0⟩).pend = [] ∧
      ((u.tile ⟨q.x0, q.y0⟩).slot k j).c[r] = v := by
  have hmem := Part.members_one hw hh
  have hdue : (⟨q.cyc, .creg k j r v⟩ : Pend).dueAt q.cyc = true := by simp [Pend.dueAt]
  have hreg : Eff.regOf k j r (.creg k j r v) = some v := if_pos ⟨rfl, rfl, rfl⟩
  obtain ⟨u, he, hm, -, -, -, -, hdone⟩ := pendingEffectDue_regs hq hpid hf (by simp [hs]) fun t ht e hm _ => by
    rw [hmem, List.mem_singleton] at ht
    rw [ht, hp, List.mem_singleton] at hm
    exact ⟨k, j, r, v, by rw [hm]⟩
  obtain ⟨hpend, hregs⟩ := hdone ⟨q.x0, q.y0⟩ (by rw [hmem]; exact List.mem_singleton_self _)
  refine ⟨u, he, hm, ?_, ?_⟩
  · rw [hpend, hp]
    simp [hdue]
  · rw [hregs k j r hr, Tile.regsDue, hp]
    simp [hdue, hreg]

/-- The end of a cycle of a partition of one tile, of which every pending effect falls due. -/
theorem pendingEffectDue_one (hq : s.part pid = some q) (hpid : pid = q.pid) (hf : q.form = .running) (hw : q.lrec.w = 1)
    (hh : q.lrec.h = 1) (hst : q.staging = []) (hun : q.undo = none) {l : List Eff} (hne : l ≠ [])
    (hl : ∀ e ∈ l, (⟨q.cyc, e⟩ : Pend).dueAt q.cyc = true) (hecc : ∀ e ∈ l, ∀ tl t p bad, e.ecc tl t p bad = none)
    (hp : (s.tile ⟨q.x0, q.y0⟩).pend = l.map fun e => ⟨q.cyc, e⟩) :
    let w := (s.modTile ⟨q.x0, q.y0⟩ fun tl => { tl with pend := [] }).effectsDue pid ⟨q.x0, q.y0⟩ l
    w.parts = s.parts → ∃ u, exec (.pendingEffectDue pid) s = .next u ∧ u.mem = w.mem ∧ u.full = w.full ∧ (∀ x, u.tile x = w.tile x) ∧
      u.part pid = some ((collisionRecs ⟨q.x0, q.y0⟩ q.cyc l).foldl Part.take q) := by
  generalize ht : (⟨q.x0, q.y0⟩ : Coord) = t at *
  intro w hparts
  have hall : (s.tile t).effsDue q.cyc = l := by
    rw [Tile.effsDue, hp, List.filter_eq_self.2 fun e he => by
      obtain ⟨x, hx, rfl⟩ := List.mem_map.1 he
      exact hl x hx, List.map_map]
    exact List.map_id _
  have hnone : (s.tile t).pend.filter (fun e => !e.dueAt q.cyc) = [] := by
    rw [hp]
    refine List.filter_eq_nil_iff.2 fun e he => ?_
    obtain ⟨x, hx, rfl⟩ := List.mem_map.1 he
    simp [hl x hx]
  have hclear : (s.modTile t fun tl => { tl with pend := tl.pend.filter fun e => !e.dueAt q.cyc }) =
      s.modTile t fun tl => { tl with pend := [] } := by simp only [State.modTile, hnone]
  have hdue : s.tileDue pid q.cyc t = (w, collisionRecs t q.cyc l) := by
    rw [State.tileDue_some (by rwa [hall]), hall, List.filterMap_eq_nil_iff.2 fun e he => hecc e he .., List.append_nil, hclear]
  obtain ⟨v, he, hmem, hfull, -, -, htiles, hpart⟩ := pendingEffectDue_eq hq hpid hf (by simp [hst]) (u := w)
    (recs := collisionRecs t q.cyc l) (by rw [Part.members_one hw hh, ht]; simp [hdue]) (by rw [State.part, hparts]; exact hq)
  exact ⟨v, he, hmem, hfull, fun x => by rw [State.tile, htiles, State.tile], hpart hst hun⟩

end

section
variable {s : State} {pid : Nat} {t : Coord} {off : Nat} {data : List Byte} {full : Bool} {w : Writer}

theorem blocks_word {off : Nat} (h : off % 8 = 0) : blocks off 8 8 = [off] := by
  have hn : (off + 8 + 8 - 1) / 8 - off / 8 = 1 := by omega
  have ho : off / 8 * 8 = off := by omega
  rw [blocks, hn]
  simp [ho]

/-- A word store that meets no other (R203). -/
theorem State.storeDue_word (hw : w.word = none) :
    s.storeDue t [] off data false full w = (s.storeTile t off data false full).noteWrites t off data.length := by
  have hany : (blocks off data.length 8).any (fun x => ([] : List Nat).contains x) = false := List.any_eq_false.2 fun x _ => by simp
  simp only [State.storeDue, hany, Bool.not_false, if_true, hw]

/-- A word store that meets another changes no byte and no full bit (R225, R226). -/
theorem State.storeDue_collided (hlen : data.length = 8) (hoff : off % 8 = 0) :
    s.storeDue t [off] off data false full w = s.noteWrites t off 8 := by
  have hany : (blocks off 8 8).any (fun x => ([off] : List Nat).contains x) = true := by simp [blocks_word hoff]
  have hnone : data.zipIdx.filter (fun b => !([off] : List Nat).contains ((off + b.2) / 8 * 8)) = [] := by
    refine List.filter_eq_nil_iff.2 fun b hb => ?_
    have hlt : b.2 < 8 := by
      have := List.snd_lt_of_mem_zipIdx hb
      omega
    have hword : (off + b.2) / 8 * 8 = off := by omega
    simp [hword]
  simp only [State.storeDue, hlen, hany, Bool.not_true, Bool.false_eq_true, if_false, hnone, List.foldl_nil, if_true]
  cases w.word <;> rfl

theorem State.storeTile_parts (s : State) (t : Coord) (off : Nat) (l : List Byte) (tag full : Bool) :
    (s.storeTile t off l tag full).parts = s.parts := by
  rw [State.storeTile]
  split
  · rw [State.mendTile, State.modTile_parts]
  · rw [State.mendTile, State.modTile_parts]

/-- A word of local SRAM that is stored is full if the store sets full bits or it was full (R203). -/
theorem State.isFull_storeTile (hlen : data.length = 8) (hoff : off % 8 = 0) (hlt : off < 0x8000) :
    (s.storeTile t off data false full).isFull t off = (full || s.isFull t off) := by
  have hword : off / 8 * 8 = off := by omega
  cases full
  · simp [State.isFull, State.storeTile, hlt, State.mendTile]
  · simp [State.isFull, State.storeTile, hlt, State.mendTile, hlen, blocks_word hoff, mem_insertSorted, hword]

theorem collidedWords_store (hlen : data.length = 8) (hoff : off % 8 = 0) (k : Side) (j : Fin 4) (x : Nat) :
    collidedWords [.store off data false full w] = [] ∧ collidedWords [.store off data false full w, .fullClear k j x] = [] := by
  have hclear : List.filterMap Eff.touches [.fullClear k j x] = [] := rfl
  simp [collidedWords, Eff.touches, hlen, blocks_word hoff, insertSorted, collides, hclear]

theorem collidedWords_stores {data' : List Byte} {full' : Bool} {w' : Writer} (hlen : data.length = 8) (hlen' : data'.length = 8)
    (hoff : off % 8 = 0) : collidedWords [.store off data false full w, .store off data' false full' w'] = [off] := by
  simp [collidedWords, Eff.touches, hlen, hlen', blocks_word hoff, insertSorted, collides]

end

/-! What falls due in a partition of one tile (R23, R203, R225, R226). -/

section
variable {s : State} {pid : Nat} {q : Part} (hq : s.part pid = some q) (hpid : pid = q.pid) (hf : q.form = .running)
  (hw : q.lrec.w = 1) (hh : q.lrec.h = 1) (hst : q.staging = []) (hun : q.undo = none)
include hq hpid hf hw hh hst hun

/-- A syswr of fl goes before the flags of its cycle (R23). -/
theorem pendingEffectDue_flags {j : Fin 4} {f : FlagSet} {v : BitVec 32}
    (hp : (s.tile ⟨q.x0, q.y0⟩).pend = [.flOr j f, .flSet .execute j v].map fun e => ⟨q.cyc, e⟩) :
    ∃ u, exec (.pendingEffectDue pid) s = .next u ∧ (u.tile ⟨q.x0, q.y0⟩).pend = [] ∧ u.mem = s.mem ∧
      ((u.tile ⟨q.x0, q.y0⟩).slot .execute j).fl = v ||| f.setWidth 32 := by
  have hdue : ∀ s1 : State, s1.effectsDue pid ⟨q.x0, q.y0⟩ [.flOr j f, .flSet .execute j v] =
      (s1.effectDue pid ⟨q.x0, q.y0⟩ [] (.flSet .execute j v)).effectDue pid ⟨q.x0, q.y0⟩ [] (.flOr j f) := fun _ => rfl
  obtain ⟨u, he, hmem, -, htile, -⟩ := pendingEffectDue_one hq hpid hf hw hh hst hun (List.cons_ne_nil _ _)
    (by simp [Pend.dueAt]) (by simp [Eff.ecc]) hp rfl
  simp only [hdue] at htile
  generalize (⟨q.x0, q.y0⟩ : Coord) = t at *
  refine ⟨u, he, ?_, hmem, ?_⟩
  · rw [htile]
    simp only [State.effectDue, State.tile_modTile_self, Tile.setSlot_pend]
  · rw [htile]
    simp only [State.effectDue, State.tile_modTile_self, Tile.slot_setSlot_self, flOr]
    simp [Tile.slot, Tile.setSlot, Tile.core, Tile.setCore, Core.setSlot]

/-- A store alone on its word writes its bytes (R203). -/
theorem pendingEffectDue_store {data : List Byte} {full : Bool} {w : Writer} {off : Nat} (hword : w.word = none)
    (hlen : data.length = 8) (hoff : off % 8 = 0) (hlt : off < 0x8000)
    (hp : (s.tile ⟨q.x0, q.y0⟩).pend = [.store off data false full w].map fun e => ⟨q.cyc, e⟩) :
    ∃ u, exec (.pendingEffectDue pid) s = .next u ∧ (u.tile ⟨q.x0, q.y0⟩).pend = [] ∧
      u.mem = Mem.write s.mem (tileAddr ⟨q.x0, q.y0⟩ off) data ∧
      u.isFull ⟨q.x0, q.y0⟩ off = (full || s.isFull ⟨q.x0, q.y0⟩ off) ∧ u.part pid = some q := by
  have hbad := (collidedWords_store (full := full) (w := w) hlen hoff .access 0 0).1
  have hdue : ∀ s1 : State, s1.effectsDue pid ⟨q.x0, q.y0⟩ [.store off data false full w] =
      (s1.storeTile ⟨q.x0, q.y0⟩ off data false full).noteWrites ⟨q.x0, q.y0⟩ off data.length := fun s1 => by
    rw [← State.storeDue_word hword, State.effectsDue, hbad]
    rfl
  obtain ⟨u, he, hmem, hfull, htile, hpart⟩ := pendingEffectDue_one hq hpid hf hw hh hst hun (List.cons_ne_nil _ _)
    (by simp [Pend.dueAt]) (by simp [Eff.ecc]) hp (by rw [hdue]; exact State.storeTile_parts ..)
  rw [hdue] at hmem hfull
  simp only [hdue] at htile
  generalize (⟨q.x0, q.y0⟩ : Coord) = t at *
  refine ⟨u, he, ?_, hmem.trans (State.storeTile_mem ..), ?_, ?_⟩
  · rw [htile]
    exact (State.storeTile_pend ..).trans (by rw [State.tile_modTile_self])
  · rw [State.isFull, hfull]
    exact State.isFull_storeTile hlen hoff hlt
  · rwa [collisionRecs, hbad] at hpart

/-- A word that is cleared and stored full in one cycle is full (R203). -/
theorem pendingEffectDue_clearStore {data : List Byte} {w : Writer} {off : Nat} {k : Side} {j : Fin 4} (hword : w.word = none)
    (hlen : data.length = 8) (hoff : off % 8 = 0) (hlt : off < 0x8000)
    (hp : (s.tile ⟨q.x0, q.y0⟩).pend = [.store off data false true w, .fullClear k j off].map fun e => ⟨q.cyc, e⟩) :
    ∃ u, exec (.pendingEffectDue pid) s = .next u ∧ (u.tile ⟨q.x0, q.y0⟩).pend = [] ∧
      u.mem = Mem.write s.mem (tileAddr ⟨q.x0, q.y0⟩ off) data ∧ u.isFull ⟨q.x0, q.y0⟩ off = true := by
  have hbad := (collidedWords_store (full := true) (w := w) hlen hoff k j off).2
  have hdue : ∀ s1 : State, s1.effectsDue pid ⟨q.x0, q.y0⟩ [.store off data false true w, .fullClear k j off] =
      ((s1.effectDue pid ⟨q.x0, q.y0⟩ [] (.fullClear k j off)).storeTile ⟨q.x0, q.y0⟩ off data false true).noteWrites ⟨q.x0, q.y0⟩ off
        data.length := fun s1 => by
    rw [← State.storeDue_word hword, State.effectsDue, hbad]
    rfl
  obtain ⟨u, he, hmem, hfull, htile, -⟩ := pendingEffectDue_one hq hpid hf hw hh hst hun (List.cons_ne_nil _ _)
    (by simp [Pend.dueAt]) (by simp [Eff.ecc]) hp (by rw [hdue]; exact State.storeTile_parts ..)
  rw [hdue] at hmem hfull
  simp only [hdue] at htile
  generalize (⟨q.x0, q.y0⟩ : Coord) = t at *
  refine ⟨u, he, ?_, hmem.trans (State.storeTile_mem ..), ?_⟩
  · rw [htile]
    exact (State.storeTile_pend ..).trans (congrArg Tile.pend (State.tile_modTile_self s t fun tl => { tl with pend := [] }))
  · rw [State.isFull, hfull]
    exact State.isFull_storeTile hlen hoff hlt

/-- A word that ld.fe clears is empty (R203). -/
theorem pendingEffectDue_clear {off : Nat} {k : Side} {j : Fin 4}
    (hp : (s.tile ⟨q.x0, q.y0⟩).pend = [.fullClear k j off].map fun e => ⟨q.cyc, e⟩) :
    ∃ u, exec (.pendingEffectDue pid) s = .next u ∧ (u.tile ⟨q.x0, q.y0⟩).pend = [] ∧
      u.isFull ⟨q.x0, q.y0⟩ off = false ∧ u.mem = s.mem := by
  have hdue : ∀ s1 : State, s1.effectsDue pid ⟨q.x0, q.y0⟩ [.fullClear k j off] =
      { s1 with full := eraseAll s1.full (tileAddr ⟨q.x0, q.y0⟩ (off / 8 * 8)) } := fun _ => rfl
  obtain ⟨u, he, hmem, hfull, htile, -⟩ := pendingEffectDue_one hq hpid hf hw hh hst hun (List.cons_ne_nil _ _)
    (by simp [Pend.dueAt]) (by simp [Eff.ecc]) hp rfl
  rw [hdue] at hfull
  simp only [hdue] at htile
  generalize (⟨q.x0, q.y0⟩ : Coord) = t at *
  refine ⟨u, he, ?_, ?_, hmem⟩
  · rw [htile]
    exact congrArg Tile.pend (State.tile_modTile_self s t fun tl => { tl with pend := [] })
  · rw [State.isFull, hfull]
    simp [mem_eraseAll]

/-- Two stores that meet on a word leave it as it was, and each has its record (R225, R226). -/
theorem pendingEffectDue_collision {data data' : List Byte} {full full' : Bool} {w w' : Writer} {off : Nat}
    (hlen : data.length = 8) (hlen' : data'.length = 8) (hoff : off % 8 = 0)
    (hp : (s.tile ⟨q.x0, q.y0⟩).pend = [.store off data false full w, .store off data' false full' w'].map fun e => ⟨q.cyc, e⟩) :
    ∃ u, exec (.pendingEffectDue pid) s = .next u ∧ (u.tile ⟨q.x0, q.y0⟩).pend = [] ∧ u.mem = s.mem ∧ u.full = s.full ∧
      u.part pid = some ([writerRecord ⟨q.x0, q.y0⟩ q.cyc off w, writerRecord ⟨q.x0, q.y0⟩ q.cyc off w'].foldl Part.take q) := by
  have hbad := collidedWords_stores (full := full) (full' := full') (w := w) (w' := w') hlen hlen' hoff
  have hdue : ∀ s1 : State, s1.effectsDue pid ⟨q.x0, q.y0⟩ [.store off data false full w, .store off data' false full' w'] =
      (s1.noteWrites ⟨q.x0, q.y0⟩ off 8).noteWrites ⟨q.x0, q.y0⟩ off 8 := fun s1 => by
    rw [← State.storeDue_collided (data := data') (full := full') (w := w') hlen' hoff,
      ← State.storeDue_collided (data := data) (full := full) (w := w) hlen hoff, State.effectsDue, hbad]
    rfl
  obtain ⟨u, he, hmem, hfull, htile, hpart⟩ := pendingEffectDue_one hq hpid hf hw hh hst hun (List.cons_ne_nil _ _)
    (by simp [Pend.dueAt]) (by simp [Eff.ecc]) hp (by rw [hdue]; rfl)
  rw [hdue] at hmem hfull
  simp only [hdue] at htile
  generalize (⟨q.x0, q.y0⟩ : Coord) = t at *
  refine ⟨u, he, ?_, hmem, hfull, ?_⟩
  · rw [htile]
    exact congrArg Tile.pend (State.tile_modTile_self s t fun tl => { tl with pend := [] })
  · have hrecs : collisionRecs t q.cyc [.store off data false full w, .store off data' false full' w'] =
        [writerRecord t q.cyc off w, writerRecord t q.cyc off w'] := by
      simp [collisionRecs, hbad, Eff.touches, hlen, hlen', blocks_word hoff, Eff.writer]
    rwa [hrecs] at hpart

end

end Sys2Proof.Machine

/-! ### Accesses from outside, and hubs that go on -/

namespace Sys2Proof.Machine

/-! A hub that goes on (R145, R281, R323). -/

/-- A hub instruction that completes changes its hub as an issue does (R145). -/
theorem State.complete_hub {s : State} {cx : Cx} {d h : Nat} {hb : Hub} (hwh : cx.wh = .hub d h hb) (m : List Host.Cell) (nx : Next) :
    s.complete cx m nx = { s.modHub d h (Hub.goOn cx m nx) with cur := none } := by
  have hctx (f : Slot → Slot) : s.modCtx cx f = s.modHub d h fun hb => { hb with ctx := f hb.ctx } := by
    simp only [State.modCtx, State.setCtx, State.ctx, hwh, State.modHub]
  have hmend (u : State) : u.mendBuffer cx nx =
      if cx.damage.isEmpty then u else u.modHub d h fun hb => { hb with damage := cx.mends nx hb.damage } := by
    simp only [State.mendBuffer, hwh]
    rfl
  unfold Hub.goOn
  simp only [State.complete, hwh, hctx, hmend]
  cases cx.damage.isEmpty <;> simp only [Bool.false_eq_true, if_true, if_false, State.modHub_modHub]

theorem Hub.goOn_keeps (cx : Cx) (m : List Host.Cell) (nx : Next) (hb : Hub) :
    (hb.goOn cx m nx).wait = hb.wait ∧ (hb.goOn cx m nx).ctx.c = hb.ctx.c := by
  have hc : (hb.ctx.advance cx m nx).c = hb.ctx.c := (congrArg Slot.c (Slot.advance_frame cx m nx hb.ctx) :)
  unfold Hub.goOn
  cases cx.damage.isEmpty
  · exact ⟨rfl, hc⟩
  · exact ⟨rfl, hc⟩

/-- A hub that was blocked has its result and waits no longer. -/
theorem State.unblock_outcome (s : State) (die hub : Nat) {d : RegNo} (v : Quad) (hd : d ≠ 0) :
    (s.unblock die hub d v).messages = s.messages ∧ (s.unblock die hub d v).xlate = s.xlate ∧
      ((s.unblock die hub d v).hub die hub).wait = none ∧ ((s.unblock die hub d v).hub die hub).ctx.c[d] = ⟨v, false⟩ := by
  let s1 := s.modHub die hub fun hb => { hb.writeReg d (.plain v) with wait := none }
  have hhub : s1.hub die hub = { (s.hub die hub).writeReg d (.plain v) with wait := none } := State.hub_modHub_self ..
  have hreg : (s1.hub die hub).ctx.c[d] = ⟨v, false⟩ := by
    rw [hhub]
    show ((s.hub die hub).ctx.write d (.plain v)).c[d] = _
    rw [Slot.write_c, if_pos ⟨rfl, hd⟩]
    rfl
  have hwait : (s1.hub die hub).wait = none := by rw [hhub]
  cases hcx : s1.issuing ⟨.hub die hub, 0, capCur (s1.hub die hub).ctx.pcc.data, false⟩ with
  | none =>
    have he : s.unblock die hub d v = s1 := by
      show (match s1.issuing _ with | none => s1 | some cx => s1.complete cx s.mem .seq) = s1
      rw [hcx]
    rw [he]
    exact ⟨rfl, rfl, hwait, hreg⟩
  | some cx =>
    have hwh : cx.wh = .hub die hub (s1.hub die hub) := by
      simp only [State.issuing] at hcx
      split at hcx
      · cases hcx
        rfl
      · cases hcx
    have he : s.unblock die hub d v = { s1.modHub die hub (Hub.goOn cx s.mem .seq) with cur := none } := by
      show (match s1.issuing _ with | none => s1 | some cx => s1.complete cx s.mem .seq) = _
      rw [hcx]
      exact State.complete_hub hwh ..
    obtain ⟨hw, hc⟩ := Hub.goOn_keeps cx s.mem .seq (s1.hub die hub)
    have hhub' : ({ s1.modHub die hub (Hub.goOn cx s.mem .seq) with cur := none } : State).hub die hub =
        (s1.hub die hub).goOn cx s.mem .seq := State.hub_modHub_self ..
    rw [he, hhub']
    refine ⟨rfl, rfl, hw.trans hwait, ?_⟩
    rw [hc]
    exact hreg

/-- A hub that waits for a message goes on with the oldest one at its mailbox, which is then popped (R281). -/
theorem tmsgRead_outcome {s : State} {die h : Nat} {d : RegNo} {m : Message} (hwait : (s.hub die h).wait = some .mailbox)
    (hm : (s.messages.find? fun (m : Message) => m.atHub die h && !m.popped) = some m) (hd : d ≠ 0) :
    ∃ u, exec (.tmsgRead die h d) s = .next u ∧ (u.hub die h).wait = none ∧ (u.hub die h).ctx.c[d] = ⟨m.header, false⟩ ∧
      (∀ n ∈ u.messages, n.ticket = m.ticket → n.popped = true) ∧ u.mem = s.mem := by
  let s1 : State := { s with messages := s.messages.map fun (n : Message) => if n.ticket = m.ticket then { n with popped := true } else n }
  obtain ⟨hmsgs, -, hw, hc⟩ := s1.unblock_outcome die h m.header hd
  have he : exec (.tmsgRead die h d) s = .next (s1.unblock die h d m.header) := by
    have hnot : ((s.hub die h).wait != some .mailbox) = false := by rw [hwait]; rfl
    show execTmsgRead die h d s = _
    simp only [execTmsgRead, hnot, Bool.false_eq_true, if_false, State.popMessage, hm]
    rfl
  refine ⟨_, he, hw, hc, fun n hn ht => ?_, State.unblock_mem ..⟩
  rw [hmsgs] at hn
  obtain ⟨x, -, rfl⟩ := List.mem_map.1 hn
  split at ht
  · next hx => rw [if_pos hx]
  · next hx => exact absurd ht hx

/-- A hub that waits for a translation request goes on with the oldest one, which is then popped (R323). -/
theorem xmsgRead_outcome {s : State} {die h : Nat} {d : RegNo} {r : XReq} (hwait : (s.hub die h).wait = some .xmsg)
    (hr : ((s.dieX die).reqs.find? fun r => !r.popped) = some r) (hd : d ≠ 0) :
    ∃ u, exec (.xmsgRead die h d) s = .next u ∧ (u.hub die h).wait = none ∧ (u.hub die h).ctx.c[d] = ⟨xmsgQuad r, false⟩ ∧
      (∀ x ∈ (u.dieX die).reqs, x.num = r.num → x.popped = true) ∧ u.mem = s.mem := by
  let s1 := s.modDieX die fun x => { x with reqs := x.reqs.map fun q => if q.num = r.num then { q with popped := true } else q }
  obtain ⟨-, hx, hw, hc⟩ := s1.unblock_outcome die h (xmsgQuad r) hd
  have he : exec (.xmsgRead die h d) s = .next (s1.unblock die h d (xmsgQuad r)) := by
    have hnot : ((s.hub die h).wait != some .xmsg) = false := by rw [hwait]; rfl
    show execXmsgRead die h d s = _
    simp only [execXmsgRead, hnot, Bool.false_eq_true, if_false, State.popXmsg, hr]
    rfl
  have hdie : s1.dieX die = { s.dieX die with reqs := (s.dieX die).reqs.map fun q => if q.num = r.num then { q with popped := true } else q } := by
    show (assocGet (assocSet s.xlate die _) die).getD _ = _
    rw [assocGet_assocSet_self]
    rfl
  refine ⟨_, he, hw, hc, fun x hmem hn => ?_, State.unblock_mem ..⟩
  rw [State.dieX, hx, ← State.dieX, hdie] at hmem
  obtain ⟨y, -, rfl⟩ := List.mem_map.1 hmem
  split at hn
  · next hy => rw [if_pos hy]
  · next hy => exact absurd hn hy

/-! Loose accesses at a tile and at HBM (R200, R202, R212). -/

/-- Bytes that are written at an address stand there, and every other byte stays. -/
theorem Mem.get_write_bytes {m : List Host.Cell} {a : Nat} {l : List Byte} (hw : Mem.wf m = true) :
    (∀ k v, l[k]? = some v → Mem.get (Mem.write m a l) (a + k) = v) ∧
      ∀ b, (b < a ∨ a + l.length ≤ b) → Mem.get (Mem.write m a l) b = Mem.get m b := by
  refine ⟨fun k v hk => ?_, fun b hb => Mem.get_write_other l hb hw⟩
  obtain ⟨hlt, rfl⟩ := List.getElem?_eq_some_iff.1 hk
  exact Mem.get_write_self l hlt hw

section
variable {a : Loose} {s : State} {t : Coord} {off : Nat} (hat : space1 a.addr.toNat = some (t, off)) (hp : s.partOf t = none)
include hat hp

theorem looseTileArrival_eq : exec (.looseTileArrival a) s = .next ((s.looseAtTile t off a).1.respond a.src (s.looseAtTile t off a).2) := by
  show execLooseTileArrival a s = _
  simp only [execLooseTileArrival, hat, State.arriveTile, hp]

theorem looseTileArrival_refused (h : s.looseAdmitted t off a = false) :
    exec (.looseTileArrival a) s = .next (s.respond a.src .refused) := by
  rw [looseTileArrival_eq hat hp]
  simp only [State.looseAtTile, h, Bool.not_false, if_true]

theorem looseTileArrival_performed (h : s.looseAdmitted t off a = true) :
    exec (.looseTileArrival a) s = .next ((s.performTile t off a).1.respond a.src (s.performTile t off a).2) := by
  rw [looseTileArrival_eq hat hp]
  simp only [State.looseAtTile, h, hp, Bool.not_true, Bool.false_eq_true, if_false, Bool.and_false, Bool.false_and]

theorem looseTileArrival_read (h : s.looseAdmitted t off a = true) (hop : a.op = .read) (hecc : (s.tile t).eccAt off a.size = none) :
    exec (.looseTileArrival a) s = .next (s.respond a.src (.ok (Mem.read s.mem (tileAddr t off) a.size) false)) := by
  rw [looseTileArrival_performed hat hp h]
  simp only [State.performTile, hop, hecc]

theorem looseTileArrival_write (h : s.looseAdmitted t off a = true) (hop : a.op = .write) (hlen : a.data.length = a.size) :
    ∃ u, exec (.looseTileArrival a) s = .next u ∧ u.mem = Mem.write s.mem (tileAddr t off) a.data := by
  refine ⟨_, looseTileArrival_performed hat hp h, ?_⟩
  rw [State.respond_mem]
  simp only [State.performTile, hop]
  rw [State.storeTile_mem, ← hlen, List.take_length]

end

section
variable {a : Loose} {s : State} {hb : Nat} (hat : space2 a.addr.toNat = some hb)
include hat

theorem looseHbmAccess_held (hbusy : s.pcBusy (pcOf hb) = true) (hop : opStores a.op = false) :
    exec (.looseHbmAccess a) s = .next (s.modPc (pcOf hb) fun p => { p with held := p.held ++ [a] }) := by
  show execLooseHbmAccess a s = _
  simp only [execLooseHbmAccess, hat, State.arriveHbm, hbusy, if_true, State.accept, hop]
  cases a.src <;> rfl

theorem looseHbmAccess_performed (hbusy : s.pcBusy (pcOf hb) = false) :
    exec (.looseHbmAccess a) s = .next ((s.performHbm hb a).1.respond a.src (s.performHbm hb a).2) := by
  show execLooseHbmAccess a s = _
  simp only [execLooseHbmAccess, hat, State.arriveHbm, hbusy, Bool.false_eq_true, if_false]

theorem looseHbmAccess_read (hbusy : s.pcBusy (pcOf hb) = false) (hop : a.op = .read)
    (hecc : ∀ b ∈ blocks hb a.size 64, s.hbmDamage.contains (hbmAddr b) = false) :
    exec (.looseHbmAccess a) s = .next (s.respond a.src (.ok (Mem.read s.mem (hbmAddr hb) a.size) false)) := by
  have hany : (blocks hb a.size 64).any (fun b => s.hbmDamage.contains (hbmAddr b)) = false :=
    List.any_eq_false.2 fun b hb => by rw [hecc b hb]; exact Bool.false_ne_true
  rw [looseHbmAccess_performed hat hbusy]
  simp only [State.performHbm, hop, hany, Bool.false_eq_true, if_false]

theorem looseHbmAccess_write (hbusy : s.pcBusy (pcOf hb) = false) (hop : a.op = .write) (hlen : a.data.length = a.size) :
    ∃ u, exec (.looseHbmAccess a) s = .next u ∧ u.mem = Mem.write s.mem (hbmAddr hb) a.data := by
  refine ⟨_, looseHbmAccess_performed hat hbusy, ?_⟩
  rw [State.respond_mem]
  simp only [State.performHbm, hop]
  rw [← hlen, List.take_length]

end

/-- Where only c-registers are written, what is due is what falls due. -/
theorem Tile.RegsOnly.dueAt {tl : Tile} {p : Nat} (h : tl.RegsOnly p) {e : Pend} (he : e ∈ tl.pend) : e.dueAt p = (e.due == p) := by
  by_cases hd : e.due = p
  · obtain ⟨k, j, r, v, heff⟩ := h e he hd
    simp [Pend.dueAt, heff]
  · simp [Pend.dueAt, hd]

/-- The values that fall due in a c-register, each by its own effect. -/
theorem Tile.RegsOnly.regsDue_eq {tl : Tile} {p : Nat} (h : tl.RegsOnly p) {k : Side} {j : Fin 4} {r : RegNo}
    {f : Pend → Option CReg} (hreg : ∀ d k' j' r' v, f ⟨d, .creg k' j' r' v⟩ = if d = p ∧ k' = k ∧ j' = j ∧ r' = r then some v else none)
    (hother : ∀ e, ¬e.eff.IsReg → f e = none) : tl.regsDue p k j r = tl.pend.filterMap f := by
  refine List.filterMap_congr fun e he => ?_
  rw [h.dueAt he]
  by_cases hr : e.eff.IsReg
  · obtain ⟨d, eff⟩ := e
    obtain ⟨k', j', r', v, rfl⟩ := hr
    rw [hreg]
    by_cases hd : d = p
    · simp [hd, Eff.regOf]
    · simp [hd]
  · rw [hother e hr, if_neg fun hd => hr (h e he (by simpa using hd))]

/-- Settles O52: the end of a cycle by what falls due in each member, the loose accesses by what they perform, and the hubs by what
they wait for (R28, R202, R203, R212, R225, R226, R232, R281, R323). -/
theorem effectsAndLooseAccesses : Obligations.EffectsAndLooseAccesses := by
  unfold Obligations.EffectsAndLooseAccesses
  refine ⟨?_, ?_, ?_, ?_, ?_, ?_, ?_⟩
  · intro pid s q hq hpid hf _ _ hdue hst
    exact pendingEffectDue_quiet hq hpid hf hst hdue
  · intro pid s q k j r v hq hpid hf hw hh _ _ hst hr t hp
    exact pendingEffectDue_creg hq hpid hf hw hh hst hr hp
  · intro pid s q hq hpid hf _ hst hregs
    obtain ⟨u, he, hmem, hfull, hqtags, hhubs, -, hdone⟩ := pendingEffectDue_regs hq hpid hf (by simp [hst]) hregs
    refine ⟨u, he, hmem, hfull, hqtags, hhubs, fun t ht => ?_⟩
    obtain ⟨hpend, hreg⟩ := hdone t ht
    have honly : (s.tile t).RegsOnly q.cyc := hregs t ht
    refine ⟨hpend.trans ?_, fun k j r hr => ?_⟩
    · exact List.filter_congr fun e he => by rw [honly.dueAt he]; rfl
    · refine (hreg k j r hr).trans (congrArg (fun l : List CReg => l.getLast?.getD ((s.tile t).slot k j).c[r])
        (honly.regsDue_eq (fun _ _ _ _ _ => ?_) fun e he => ?_))
      · rfl
      · rcases e with ⟨d, eff⟩
        cases eff
        case creg k' j' r' v => exact absurd ⟨k', j', r', v, rfl⟩ he
        all_goals rfl
  · intro pid s q hq hpid hf hw hh hst hun hm t at' ends
    refine ⟨fun j f v hp => ?_, fun k j off data full w hword hlen hoff hlt => ⟨fun hp => ?_, fun hp => ?_, fun hp => ?_,
      fun data' full' w' hlen' hp => ?_⟩⟩
    · exact pendingEffectDue_flags hq hpid hf hw hh hst hun hp
    · obtain ⟨u, he, hpend, hmem, hfull, hpart⟩ := pendingEffectDue_store hq hpid hf hw hh hst hun hword hlen hoff hlt hp
      refine ⟨u, he, hpend, ?_, ?_, hfull, hpart⟩
      · rw [hmem, ← hlen]
        exact Mem.read_write_self _ _ hm
      · rw [hmem, ← hlen]
        exact (Mem.get_write_bytes hm).2
    · obtain ⟨u, he, hpend, hmem, hfull⟩ := pendingEffectDue_clearStore hq hpid hf hw hh hst hun hword hlen hoff hlt hp
      refine ⟨u, he, hpend, hfull, ?_⟩
      rw [hmem, ← hlen]
      exact Mem.read_write_self _ _ hm
    · exact pendingEffectDue_clear hq hpid hf hw hh hst hun hp
    · obtain ⟨u, he, hpend, hmem, hfull, hpart⟩ := pendingEffectDue_collision hq hpid hf hw hh hst hun hlen hlen' hoff hp
      refine ⟨u, he, hpend, fun x => by rw [hmem], hfull, _, writerRecord t q.cyc off w, writerRecord t q.cyc off w',
        hpart, rfl, ?_, fun x hx => ?_⟩
      · simp only [List.foldl_cons, List.foldl_nil, Part.take_faults, List.append_assoc]
        rfl
      · simp only [List.mem_cons, List.not_mem_nil, or_false] at hx
        rcases hx with rfl | rfl <;> exact ⟨rfl, rfl, rfl, rfl⟩
  · intro a s t off hat hp
    refine ⟨looseTileArrival_refused hat hp, looseTileArrival_read hat hp, fun h hop hw hlen => ?_⟩
    obtain ⟨u, he, hmem⟩ := looseTileArrival_write hat hp h hop hlen
    refine ⟨u, he, ?_⟩
    rw [hmem, ← hlen]
    exact Mem.get_write_bytes hw
  · intro a s hb hat
    refine ⟨looseHbmAccess_held hat, looseHbmAccess_read hat, fun hbusy hop hw hlen => ?_⟩
    obtain ⟨u, he, hmem⟩ := looseHbmAccess_write hat hbusy hop hlen
    refine ⟨u, he, ?_⟩
    rw [hmem, ← hlen]
    exact Mem.get_write_bytes hw
  · intro die h ans d s
    refine ⟨fun i hi => ?_, fun m hwait hm hd => tmsgRead_outcome hwait hm hd, fun r hwait hr hd => xmsgRead_outcome hwait hr hd⟩
    show execHubAccessAnswer die h ans s = _
    simp only [execHubAccessAnswer, hi]

end Sys2Proof.Machine

/-! ### Freezes and restarts -/

namespace Sys2Proof.Machine

section
variable {s u : State} {pid : Nat} {q : Part}

theorem State.SameParts.part (h : s.SameParts u) (n : Nat) : u.part n = s.part n := by rw [State.part, h.1, State.part]

/-! What leaves the partitions as they are (R211, R297, R387). -/

theorem State.sameParts_areaWrite (s : State) (q : Part) (off : Nat) (l : List Byte) : s.SameParts (s.areaWrite q off l) := by
  rw [State.areaWrite]
  exact ⟨rfl, rfl⟩

theorem State.sameParts_modTile (s : State) (t : Coord) (f : Tile → Tile) : s.SameParts (s.modTile t f) := ⟨rfl, rfl⟩

theorem State.sameParts_modPc (s : State) (g : Nat) (f : PChan → PChan) : s.SameParts (s.modPc g f) := ⟨rfl, rfl⟩

theorem State.sameParts_writeBlock (s : State) (q : Part) (t : Coord) (b : Binding) (was : List Nat) :
    s.SameParts (s.writeBlock q t b was) := by
  unfold State.writeBlock
  exact State.SameParts.foldl (fun s p => State.sameParts_areaWrite s q _ _) _ s

theorem State.sameParts_areaClear (s : State) (q : Part) (off n : Nat) : s.SameParts (s.areaClear q off n) := ⟨rfl, rfl⟩

theorem State.sameParts_saveCarousel (s : State) (q : Part) : s.SameParts (s.saveCarousel q) := by
  unfold State.saveCarousel
  refine (State.SameParts.foldl (fun s b => State.sameParts_areaClear s q _ _) _ s).trans (State.SameParts.foldl (fun s t => ?_) _ _)
  cases hb : (s.tile t).binding with
  | none =>
    simp only [hb]
    exact State.SameParts.refl _
  | some b =>
    have blocks (l : List SlotFlit) (v : State) : v.SameParts (l.foldl (fun s f =>
        match s.readBlock q b.ring.rport with
        | none => s
        | some r => s.blockQuads q t r.2 (Fin.ofNat 4 f.slot) f) v) := by
      refine State.SameParts.foldl (fun v f => ?_) l v
      split
      · exact State.SameParts.refl _
      · exact (State.sameParts_areaWrite ..).trans (State.sameParts_writeBlock ..)
    simp only [hb]
    refine State.SameParts.trans ?_ (State.sameParts_modTile ..)
    split
    · exact (State.sameParts_writeBlock ..).trans (blocks ..)
    · exact ((State.sameParts_writeBlock ..).trans (State.sameParts_areaWrite ..)).trans (blocks ..)

theorem State.sameParts_closeBanks (s : State) (q : Part) : s.SameParts (s.closeBanks q) := by
  unfold State.closeBanks
  exact State.SameParts.foldl (fun s g => State.sameParts_modPc s g _) _ s

theorem State.sameParts_openBanks (s : State) (q : Part) : s.SameParts (s.openBanks q) := by
  unfold State.openBanks
  exact State.SameParts.foldl (fun s g => State.sameParts_modPc s g _) _ s

theorem State.sameParts_modHub (s : State) (d h : Nat) (f : Hub → Hub) : s.SameParts (s.modHub d h f) := ⟨rfl, rfl⟩

theorem State.sameParts_queueFlit (s : State) (p : Nat) (f : LinkFlit) : s.SameParts (s.queueFlit p f) := ⟨rfl, rfl⟩

theorem State.sameParts_respond (s : State) (src : LooseSrc) (r : Reply) : s.SameParts (s.respond src r) := by
  unfold State.respond
  cases src with
  | hub => exact ⟨rfl, rfl⟩
  | channel => exact ⟨rfl, rfl⟩
  | device dev port tag gen =>
    dsimp only
    split
    · exact State.sameParts_queueFlit ..
    · exact State.SameParts.refl _
  | host => exact State.SameParts.refl _
  | cxl => exact State.SameParts.refl _

theorem State.sameParts_settle (s : State) (a : Loose) (r : Reply) : s.SameParts (s.settle a r) := by
  unfold State.settle
  split
  · exact State.sameParts_modHub ..
  · exact State.SameParts.refl _
  · exact State.sameParts_respond ..

theorem State.sameParts_uncorrHbm (s : State) (hb : Nat) : s.SameParts (s.uncorrHbm hb) := ⟨rfl, rfl⟩

theorem State.sameParts_performHbm (s : State) (hb : Nat) (a : Loose) : s.SameParts (s.performHbm hb a).1 := by
  have hmem (m : List Host.Cell) (l : List Nat) : s.SameParts { s with mem := m, hbmDamage := l } := ⟨rfl, rfl⟩
  have hread (r r' : Reply) (b : Bool) (m : List Host.Cell) :
      s.SameParts (if b then (s.uncorrHbm hb, r) else ({ s with mem := m }, r')).1 := by
    split
    · exact State.sameParts_uncorrHbm ..
    · exact hmem m s.hbmDamage
  unfold State.performHbm
  cases a.op with
  | write => exact hmem _ _
  | writeCap => exact hmem _ _
  | read => exact hread ..
  | readCap => exact hread ..
  | amo => exact hread ..

theorem State.sameParts_releasePc (s : State) (g : Nat) : s.SameParts (s.releasePc g) := by
  unfold State.releasePc
  refine (State.sameParts_modPc s g fun p => { p with held := [] }).trans (State.SameParts.foldl (fun s a => ?_) _ _)
  cases space2 a.addr.toNat with
  | none =>
    simp only
    exact State.SameParts.refl _
  | some hb =>
    simp only
    exact (State.sameParts_performHbm ..).trans (State.sameParts_settle ..)

end

/-! A freeze between two cycles (R277, R295). -/

section
variable {s : State} {pid : Nat} {q x : Part}

/-- A partition but for the records of its held area. -/
def Part.withHeld (q : Part) (n : Nat) (o : Bool) : Part := { q with nheld := n, heldOver := o }

/-- Whether a partition of `q` stands in a state, but for the records of its held area. -/
def State.HasHeld (s : State) (pid : Nat) (q : Part) : Prop := ∃ n o, s.part pid = some (q.withHeld n o)

theorem State.hasHeld_hold {y : Part} (h : s.HasHeld pid q) (hq : q.pid = pid) (hy : y.pid = pid) (l : List HeldRec) :
    (s.hold y l).1.HasHeld pid q := by
  obtain ⟨n, o, hp⟩ := h
  unfold State.hold
  rw [hy]
  split
  · refine ⟨n + l.length, o, (State.refreshHeader_part ..).trans ?_⟩
    exact State.part_modPart_at (s := s.areaWrite y _ _) (f := fun q => { q with nheld := q.nheld + l.length })
      ((s.part_areaWrite ..).trans hp) hq
  · refine ⟨n, true, (State.refreshHeader_part ..).trans ?_⟩
    exact State.part_modPart_at (f := fun q => { q with heldOver := true }) hp hq

theorem State.hasHeld_holdEdges (h : s.HasHeld pid q) (hq : q.pid = pid) (hx : x.pid = pid) : (s.holdEdges x).HasHeld pid q := by
  unfold State.holdEdges
  rw [hx]
  generalize x.edgeIn = l
  induction l generalizing s with
  | nil => exact h
  | cons e l ih =>
    refine ih ?_
    dsimp only
    split
    · next y e' hy he =>
      exact State.hasHeld_hold h hq (by simpa using List.find?_some hy) _
    · exact h

theorem State.HasHeld.of_same {u : State} (h : s.HasHeld pid q) (hu : s.SameParts u) : u.HasHeld pid q := by
  obtain ⟨n, o, hp⟩ := h
  exact ⟨n, o, (hu.part pid).trans hp⟩

/-- The partition of a freeze that takes effect: it is held in place, with the landing-buffer words and the windows of before gone. -/
def Part.toHeld (q : Part) (undo : Option Undo) : Part :=
  { q with form := .held, freezing := false, winWas := [], restored := false, edgeIn := [], undo := undo }

/-- A freeze for cause 3 alone (R277, R307). -/
theorem State.freezeNow_out (hq : s.part pid = some q) (hpid : q.pid = pid) (hc : q.causes = [3]) (hh : q.halted = none) :
    ∃ n o undo out, (s.freezeNow pid).part pid = some { (q.toHeld undo).withHeld n o with outAt := out } := by
  let s1 := (s.saveHeader q).saveCarousel q
  let undo := q.undo.map fun u => { u with post := s1.snap q }
  let s2 := (s1.modPart pid fun x => x.toHeld undo).holdEdges q
  let s3 := (q.faults.foldl State.reportRecord s2).closeBanks q
  let s4 := match s3.part pid with | none => s3 | some x => s3.saveHeader x
  let s5 := q.tt.owned.foldl State.releasePc s4
  have h1 : s.SameParts s1 := (State.sameParts_saveHeader s q).trans (State.sameParts_saveCarousel _ q)
  have h2 : s2.HasHeld pid (q.toHeld undo) := by
    refine State.hasHeld_holdEdges ⟨q.nheld, q.heldOver, ?_⟩ hpid hpid
    exact State.part_modPart_at (q := q) (f := fun x => x.toHeld undo) ((h1.part pid).trans hq) hpid
  have h3 : s2.SameParts s3 := (State.SameParts.foldl State.sameParts_reportRecord q.faults s2).trans (State.sameParts_closeBanks _ q)
  have h4 : s3.SameParts s4 := by
    cases h : s3.part pid <;> simp only [s4, h]
    · exact State.SameParts.refl _
    · exact State.sameParts_saveHeader ..
  have h5 : s4.SameParts s5 := State.SameParts.foldl State.sameParts_releasePc q.tt.owned s4
  obtain ⟨n, o, hp⟩ := h2.of_same ((h3.trans h4).trans h5)
  have hcauses : ((q.toHeld undo).withHeld n o).causes = [3] := hc
  have hhalted : ((q.toHeld undo).withHeld n o).halted = none := hh
  have hnow : s.freezeNow pid = if ((q.toHeld undo).withHeld n o).outAt.isNone then s5.beginOut pid else s5 := by
    have hpre : (if q.causes.contains 1 then s.faultMeets q else s) = s := by
      rw [hc]
      rfl
    have hx : s5.part pid = some ((q.toHeld undo).withHeld n o) := hp
    have hthree : (((q.toHeld undo).withHeld n o).causes.contains 3) = true := by rw [hcauses]; rfl
    have hfour : (((q.toHeld undo).withHeld n o).causes.contains 4) = false := by rw [hcauses]; rfl
    have hone : (((q.toHeld undo).withHeld n o).causes.contains 1) = false := by rw [hcauses]; rfl
    have hno : ((q.toHeld undo).withHeld n o).halted.isSome = false := by rw [hhalted]; rfl
    rw [State.freezeNow]
    simp only [hq, hpre]
    change (match s5.part pid with | none => s5 | some x => _) = _
    rw [hx]
    simp only [hthree, hfour, hone, hno, true_and, false_and, Bool.false_eq_true, if_false]
    rfl
  rw [hnow]
  split
  · exact ⟨n, o, undo, _, State.part_modPart_at (q := (q.toHeld undo).withHeld n o)
      (f := fun x => { x with outAt := some (s5.rmt + 1 + Config.looseDelay s5.freeCount) }) hp hpid⟩
  · exact ⟨n, o, undo, _, hp⟩

/-- A running partition that freezes between two of its cycles for cause 3 alone is held in place (R295, R307). -/
theorem State.freezeBetween_held (hq : s.part pid = some q) (hpid : q.pid = pid) (hc : q.causes = []) (hh : q.halted = none) :
    ∃ q', (s.freezeBetween pid 3).part pid = some q' ∧ q'.form = .held ∧ q'.freezing = false ∧ q'.causes = [3] ∧
      q'.ss = q.ss ∧ q'.p = q.p := by
  have hstop : (q.stopFor 3).causes = [3] := by simp [Part.stopFor, Part.withCause, hc]
  have hframe := q.withCause_frame 3
  have hq' : (s.modPart pid fun q => q.stopFor 3).part pid = some (q.stopFor 3) :=
    State.part_modPart_at (f := fun q => q.stopFor 3) hq ((q.stopFor_pid 3).trans hpid)
  obtain ⟨n, o, undo, out, hp⟩ := State.freezeNow_out hq' ((q.stopFor_pid 3).trans hpid) hstop
    ((congrArg Part.halted hframe :).trans hh)
  exact ⟨_, hp, rfl, rfl, hstop, q.stopFor_ss 3, (congrArg Part.p hframe :)⟩

end

/-! Records, write-out and restarts (R161, R294 to R297, R305 to R308). -/

section
variable {s : State} {pid : Nat} {q : Part}

/-- A record's change leaves its partition but for the record, and every tile (R161). -/
theorem State.setRecord_outcome (hq : s.part pid = some q) (seq : Nat) (f : Record → Record) :
    (s.setRecord seq f).tiles = s.tiles ∧ (s.setRecord seq f).rmt = s.rmt ∧
      ∃ r, (s.setRecord seq f).part pid = some { q with lrec := r } := by
  unfold State.setRecord
  split
  · exact ⟨rfl, rfl, q.lrec, hq⟩
  · next e _ =>
    let s0 := s.modEntry seq fun x => { x with lrec := f e.lrec }
    have hstore := s0.hbmStore_frame ((f e.lrec).slotAddr + 104) ((f e.lrec).bytes.drop 104)
    have hs0 : s0.tiles = s.tiles ∧ s0.rmt = s.rmt ∧ s0.parts = s.parts := ⟨rfl, rfl, rfl⟩
    have hparts : (s0.writeRecord (f e.lrec)).parts = s.parts := (congrArg State.parts hstore :).trans hs0.2.2
    refine ⟨(congrArg State.tiles hstore :).trans hs0.1, (congrArg State.rmt hstore :).trans hs0.2.1, ?_⟩
    show ∃ r, List.find? _ ((s0.writeRecord (f e.lrec)).parts.map fun q => if q.lrec.seq = seq then { q with lrec := f e.lrec } else q) = _
    rw [hparts, List.find?_map]
    have hpid : ((fun x : Part => x.pid == pid) ∘ fun q => if q.lrec.seq = seq then { q with lrec := f e.lrec } else q) =
        fun x => x.pid == pid := by
      funext x
      simp only [Function.comp]
      split <;> rfl
    rw [hpid, show s.parts.find? _ = some q from hq, Option.map_some]
    split
    · exact ⟨_, rfl⟩
    · exact ⟨q.lrec, rfl⟩

/-- A cause that arises in a partition that is written out (R295). -/
theorem State.addCause_out (hq : s.part pid = some q) (hpid : q.pid = pid) (hf : q.form = .writtenOut) (c : Nat) :
    ∃ q', (s.addCause pid c).part pid = some q' ∧ q'.form = .writtenOut ∧ c ∈ q'.causes := by
  have hframe := q.withCause_frame c
  unfold State.addCause
  rw [hq]
  dsimp only
  split
  · next h => exact ⟨q, hq, hf, List.contains_iff_mem.1 h⟩
  · rw [if_neg (by rw [hf]; rintro ⟨-, h⟩; cases h)]
    refine ⟨{ q.withCause c with restartAt := if q.form = .restoring then q.restartAt else none }, (State.refreshHeader_part ..).trans ?_,
      (congrArg Part.form hframe :).trans hf, q.withCause_mem c⟩
    exact State.part_modPart_at (q := q) (f := fun q => { q.withCause c with restartAt := if q.form = .restoring then q.restartAt else none })
      hq ((congrArg Part.pid hframe :).trans hpid)

/-- A frozen partition that is written out and intermissioned (R297, R307). -/
theorem State.intermit_outcome (hq : s.part pid = some q) :
    ∃ q', (s.intermit pid).part pid = some q' ∧ q'.form = .writtenOut ∧ 3 ∈ q'.causes := by
  obtain ⟨-, q1, hq1, hf1⟩ := State.writeOut_outcome hq
  have hpid1 : q1.pid = pid := by simpa using List.find?_some hq1
  have hq2 := State.part_modPart_at (f := fun q => { q with outAt := none }) hq1 hpid1
  obtain ⟨q3, hq3, hf3, hc3⟩ := State.addCause_out hq2 hpid1 hf1 3
  obtain ⟨-, -, r, hr⟩ := State.setRecord_outcome hq3 q.lrec.seq fun r => { r with state := 5 }
  refine ⟨{ q3 with lrec := r }, ?_, hf3, hc3⟩
  simp only [State.intermit, hq]
  exact hr

end

/-! The re-issue step of a restart (R278, R305). -/

section
variable {s : State} {pid : Nat} {q : Part}

theorem State.sameMem_openBanks (s : State) (q : Part) : (s.openBanks q).mem = s.mem := by
  unfold State.openBanks
  exact foldl_keeps State.mem (f := fun s g => s.modPc g fun c => { c with rows := c.recorded, recorded := [] }) (fun _ _ => rfl) _ s

/-- Without bindings in the save area there is none to load (R387). -/
theorem State.loadCarousel_none (h : ∀ port, s.readBlock q port = none) : s.loadCarousel q = s := by
  unfold State.loadCarousel
  generalize List.range 64 = l
  induction l with
  | nil => rfl
  | cons port l ih =>
    rw [List.foldl_cons]
    simp only [h port]
    exact ih

theorem State.readBlock_congr {u : State} (hm : u.mem = s.mem) (port : Nat) : u.readBlock q port = s.readBlock q port := by
  have harea : u.areaNat = s.areaNat := by
    funext q off n
    rw [State.areaNat, hm, State.areaNat]
  unfold State.readBlock
  rw [harea]

theorem State.reread_keeps (s : State) (q : Part) : (s.reread q).parts = s.parts ∧ (s.reread q).mem = s.mem := by
  unfold State.reread
  exact ⟨foldl_keeps State.parts (fun s t => s.modTile_parts t _) _ s, foldl_keeps State.mem (fun s t => s.modTile_mem t _) _ s⟩

/-- A partition at the beginning of its re-issue step (R278). -/
def Part.restarted (notice : Bool) (r : Reissue) (q : Part) : Part :=
  { q with form := .running, freezing := false, faults := [], stood := q.faults ++ q.stood, reoffer := [], restartAt := none
           restartQ := none, message := none, tick := 0, held := [], nheld := 0, heldOver := false, undo := none, written := false
           xlate := [], resyncFlag := q.resyncFlag || notice, reissue := some r }

/-- A restart offers the instructions that faulted again before anything else, and then ends the re-issue step (R278). -/
theorem State.beginRestart_agenda (hq : s.part pid = some q) :
    ∃ rest, (s.beginRestart pid).agenda = (q.reoffer.map fun r => Act.issue (.tile r.1 r.2.1 r.2.2)) ++ [.plan .resumed pid] ++ rest := by
  unfold State.beginRestart
  rw [hq]
  exact ⟨_, rfl⟩

/-- Where nothing of the freeze is left to do, a restarted partition runs from the cycle at which it was frozen (R278). -/
theorem State.beginRestart_runs (hq : s.part pid = some q) (hpid : q.pid = pid) (hfa : q.faults = []) (hre : q.reoffer = [])
    (hheld : q.held = []) (hn : q.nheld = 0) (hun : q.undo = none) (hb : ∀ port, s.readBlock q port = none) :
    ∃ q', (s.beginRestart pid).part pid = some q' ∧ q'.form = .running ∧ q'.p = q.p ∧ q'.ss = q.ss ∧ q'.causes = q.causes ∧
      (s.beginRestart pid).mem = s.mem := by
  have hnot : (q.inTroupe && q.faults.any FRec.wantsResync) = false := by rw [hfa, List.any_nil, Bool.and_false]
  let r : Reissue := ⟨q.stood, q.ss, none, (q.xlate.map fun w => (w.tile, w.ch)).eraseDups⟩
  let s0 := s.modPart pid fun q => q.restarted false r
  let s1 := s0.openBanks q
  let s2 := s1.modPart q.pid fun x => { x with edgeIn := x.edgeIn ++ q.heldQuads [] q.tt.inPhase }
  have hmem1 : s1.mem = s.mem := (s0.sameMem_openBanks q).trans (State.modPart_mem ..)
  have harr : s1.applyArrivals q = s2 := by
    have hrecs : s1.heldRecs q = [] := by rw [State.heldRecs, hn]; rfl
    have hload : s1.loadCarousel q = s1 := State.loadCarousel_none fun port =>
      (State.readBlock_congr hmem1 port).trans (hb port)
    simp only [State.applyArrivals, hheld, hrecs, List.foldl_nil, hload]
    rfl
  have he : s.beginRestart pid = (s2.reread q).first [.plan .resumed pid] := by
    simp only [State.beginRestart, hq, hnot, Bool.false_eq_true, if_false]
    simp only [hun, hfa, hre, List.foldl_nil, List.map_nil, List.nil_append]
    rw [← harr]
    rfl
  obtain ⟨hparts, hmem⟩ := s2.reread_keeps q
  have hq0 : s0.part pid = some (q.restarted false r) := State.part_modPart_at (f := fun q => q.restarted false r) hq hpid
  have hq1 : s1.part pid = some (q.restarted false r) := ((State.sameParts_openBanks s0 q).part pid).trans hq0
  have hq2 := State.part_modPart_at (f := fun x => { x with edgeIn := x.edgeIn ++ q.heldQuads [] q.tt.inPhase }) hq1 hpid
  have hmem' : (s.beginRestart pid).mem = s.mem := by
    rw [he]
    exact hmem.trans ((State.modPart_mem ..).trans hmem1)
  have hpart : (s.beginRestart pid).part pid = s2.part pid := by
    rw [he]
    exact (show (s2.reread q).part pid = s2.part pid by rw [State.part, hparts, State.part])
  refine ⟨{ q.restarted false r with edgeIn := (q.restarted false r).edgeIn ++ q.heldQuads [] q.tt.inPhase }, hpart.trans ?_,
    rfl, rfl, rfl, rfl, hmem'⟩
  rw [show s2.part pid = (s1.modPart pid fun x => { x with edgeIn := x.edgeIn ++ q.heldQuads [] q.tt.inPhase }).part pid by
    rw [← hpid]]
  exact hq2

end

/-! Messages of a freeze (R277, R279, R285). -/

section
variable {s : State} {pid : Nat} {q : Part}

/-- The message of a completed freeze with a fault (R277, R279). -/
theorem trapMessage_outcome (hq : s.part pid = some q) (hpid : q.pid = pid) {r : FRec} (hc : 1 ∈ q.causes) (hfr : q.freezing = false)
    (hm : q.message = none) (hh : q.halted = none) (hf : q.form ≠ .running) (hr : q.records.head? = some r) :
    ∃ u m, exec (.trapMessage pid) s = .next u ∧ m ∈ u.messages ∧ m.origin = false ∧ m.pid = pid ∧ m.code = r.code ∧
      m.reason = r.reason ∧ m.popped = false ∧ ∃ q', u.part pid = some q' ∧ q'.message = some m.ticket ∧ q'.form = q.form := by
  subst hpid
  let m0 : Message :=
    { ticket := 0, origin := false, pid := q.pid, loc := q.lrec.save, code := r.code, reason := r.reason, nrec := q.faults.length
      trunc := decide (4096 < q.faults.length), level := 1, die := dieOf ⟨r.x, r.y⟩, popped := false, first := r, posted := 0 }
  let s1 := (s.saveHeader q).post m0
  let ticket := nextTicket (s.messages.map Message.ticket) (s.messages.length + 2) s.ticket
  let m : Message := { m0 with ticket := ticket, posted := s.rmt, level := s.heldLevel m0.level m0.die }
  have hmsgs : s1.messages = s.messages ++ [m] := rfl
  have hlast : (s1.messages.getLast?.map Message.ticket).getD 0 = ticket := by
    rw [hmsgs, List.getLast?_concat]
    rfl
  have he : exec (.trapMessage q.pid) s = .next (s1.modPart q.pid fun q => { q with message := some ticket }) := by
    have hgo : (q.causes.contains 1 && !q.freezing && q.message.isNone && q.halted.isNone && q.form != .running) = true := by
      rw [List.contains_iff_mem.2 hc, hfr, hm, hh, bne_iff_ne.2 hf]
      rfl
    show execTrapMessage q.pid s = _
    simp only [execTrapMessage, hq, hgo, if_true, State.sendMessage, hr]
    rw [← hlast]
  have hq1 : s1.part q.pid = some q := hq
  exact ⟨_, m, he, List.mem_append_right _ (List.mem_singleton_self m), rfl, rfl, rfl, rfl, rfl, _,
    State.part_modPart_at (f := fun q => { q with message := some ticket }) hq1 rfl, rfl, rfl⟩

/-- A message that stands unanswered at the host ends by halting its partition (R285). -/
theorem chainExhaustion_outcome (hq : s.part pid = some q) {ticket : Nat} {m : Message}
    (hm : (s.messages.find? fun (n : Message) => n.ticket == ticket && n.level == 3 && n.popped) = some m) (hp : m.pid = pid)
    (ho : m.origin = false) (hn : ∀ n ∈ s.ring.notices, n.ticket ≠ ticket) (ht : m.posted + 2 ^ 35 ≤ s.rmt) :
    ∃ u q', exec (.chainExhaustion ticket) s = .next u ∧ u.part pid = some q' ∧ q'.halted = some m.code ∧ q'.message = none ∧
      q'.form = .writtenOut ∧ ∀ n ∈ u.messages, n.ticket ≠ ticket := by
  have htick : m.ticket = ticket := by
    have := List.find?_some hm
    simp only [Bool.and_eq_true, beq_iff_eq] at this
    exact this.1.1
  have hnot : (s.ring.notices.any (fun n => n.ticket == ticket) || decide (s.rmt < m.posted + 2 ^ 35)) = false := by
    rw [List.any_eq_false.2 fun n h => by simpa using hn n h, decide_eq_false (Nat.not_lt.2 ht)]
    rfl
  have he : exec (.chainExhaustion ticket) s = .next ((s.dropMessage m).haltPart m.pid m.code) := by
    show execChainExhaustion ticket s = _
    simp only [execChainExhaustion, hm, hnot, Bool.false_eq_true, if_false, State.exhaust, ho]
  have hq' : (s.dropMessage m).part m.pid = some q := by rw [hp]; exact hq
  obtain ⟨hmsgs, q', hq1, hh, hmsg, hf⟩ := State.haltPart_outcome hq' m.code
  subst hp htick
  exact ⟨_, q', he, hq1, hh, hmsg, hf, State.dropMessage_gone hmsgs⟩

end

/-! Causes that end (R294, R305, R306, R308, R365). -/

section
variable {s : State} {pid : Nat} {q : Part}

theorem Part.endCause_pid (rmt c : Nat) (q : Part) : (q.endCause rmt c).pid = q.pid := rfl

/-- A cause that ends changes its partition and its save area's header (R294, R299). -/
theorem State.endCause_outcome (hq : s.part pid = some q) (hpid : q.pid = pid) (c : Nat) :
    (s.endCause pid c).part pid = some (q.endCause s.rmt c) ∧ (s.endCause pid c).tiles = s.tiles ∧
      (Mem.wf s.mem = true → ∀ a, (a < hbmAddr q.saveAt ∨ hbmAddr q.saveAt + 256 ≤ a) →
        Mem.get (s.endCause pid c).mem a = Mem.get s.mem a) := by
  have hq' := State.part_modPart_at (f := Part.endCause s.rmt c) hq hpid
  rw [State.endCause_eq]
  exact ⟨(State.refreshHeader_part ..).trans hq', State.refreshHeader_tiles _ _,
    fun hw a ha => State.get_refreshHeader _ _ hq' hw ha⟩

theorem mem_endCause {rmt c x : Nat} : x ∈ (q.endCause rmt c).causes ↔ x ∈ q.causes ∧ x ≠ c := mem_eraseAll

/-- A partition of a troupe at the agreed instant: cause 4 ends (R308, R365). -/
theorem troupeRestart_eq (hq : s.part pid = some q) {t : Nat} (ht : q.restartQ = some t) (hf : q.form = .held) (hle : t ≤ s.rmt)
    (hc : 4 ∈ q.causes) : exec (.troupeRestart pid) s =
      .next (if q.causes = [4] then ((s.endCause pid 4).modPart pid fun q => { q with restartQ := none }).beginRestart pid
        else (s.endCause pid 4).modPart pid fun q => { q with restartQ := none }) := by
  have hcon : q.causes.contains 4 = true := List.contains_iff_mem.2 hc
  show execTroupeRestart pid s = _
  simp only [execTroupeRestart, hq, ht, hf, hcon, hle, and_self, if_true]

/-- The partition of a restart of a restored one, outside a troupe. -/
def Part.backInPlace (q : Part) : Part :=
  { q with form := .held, restored := true, restartAt := none, causes := eraseAll q.causes 3 }

/-- The state at the restart of a restored partition, outside a troupe (R306). -/
def State.backInPlace (s : State) (pid : Nat) (q : Part) : State :=
  ((s.modPart pid fun _ => q.backInPlace).setRecord q.lrec.seq fun r => { r with state := 2 }).refreshHeader pid

/-- The restart of a restored partition: cause 3 ends (R294, R306). -/
theorem restoredPartitionStart_eq (hq : s.part pid = some q) (hf : q.form = .restoring) (hr : q.restartAt = some s.rmt)
    (ht : q.inTroupe = false) : exec (.restoredPartitionStart pid) s =
      .next (if (eraseAll q.causes 3).isEmpty then (s.backInPlace pid q).beginRestart pid else s.backInPlace pid q) := by
  have hnot : ¬(some s.rmt = some (s.rmt + q.lrec.restoreLead)) := by
    rw [Option.some.injEq, Record.restoreLead]
    omega
  show execRestoredPartitionStart pid s = _
  simp only [execRestoredPartitionStart, hq, hf, hr, hnot, and_false, if_false, and_self, if_true, ht, Bool.false_eq_true]
  rfl

theorem State.backInPlace_outcome (hq : s.part pid = some q) (hpid : q.pid = pid) :
    (s.backInPlace pid q).tiles = s.tiles ∧ ∃ r, (s.backInPlace pid q).part pid = some { q.backInPlace with lrec := r } := by
  have hq' := State.part_modPart_at (f := fun _ => q.backInPlace) hq hpid
  obtain ⟨htiles, -, r, hr⟩ := State.setRecord_outcome hq' q.lrec.seq fun r => { r with state := 2 }
  exact ⟨(State.refreshHeader_tiles _ _).trans htiles, r, (State.refreshHeader_part ..).trans hr⟩

end

/-- Settles O53: each event by what it leaves of the partition, the message or the agenda, and a restart by its re-issue step (R277 to
R279, R285, R294 to R297, R305 to R308, R365). -/
theorem freezesAndRestarts : Obligations.FreezesAndRestarts := by
  intro pid s q hq hpid runs
  have hpid' := hpid.symm
  have hruns (r : State) : runs r := fun x hx hfa hre hheld hn hun _ hb =>
    State.beginRestart_runs hx (by simpa using List.find?_some hx) hfa hre hheld hn hun hb
  have restart (t : Nat) (ht : q.restartAt = some t) (hf : q.form = .held) (hc : q.causes = []) (h4 : s.rmt % 4 = 0)
      (hle : t + 512 ≤ s.rmt) (hh : q.halted = none) : exec (.restart pid) s = .next (s.beginRestart pid) := by
    show execRestart pid s = _
    simp [execRestart, hq, ht, hf, hc, h4, hle, hh]
  refine ⟨fun t ht hf hc h4 hle hh => ?_, fun r hc hfr hm hh hf hr => trapMessage_outcome hq hpid' hc hfr hm hh hf hr,
    fun ticket m hm hp ho hn ht => chainExhaustion_outcome hq hm hp ho hn ht,
    fun t ht hf hc h4 hle hh => ⟨restart t ht hf hc h4 hle hh, hruns s⟩, fun i v c hreq hv hi hf hc hh => ?_,
    fun t ht hf hle => ?_, fun hf hr ht hall h5 => ?_, fun hf hr ht hall => ?_, fun hf ha => ?_, fun t ht hf hle hc => ?_,
    fun t ht hf hle hc => ?_⟩
  · obtain ⟨rest, hrest⟩ := State.beginRestart_agenda hq
    exact ⟨_, rest, restart t ht hf hc h4 hle hh, hrest⟩
  · obtain ⟨q', hq', hform, hfr, hcs, hss, hp⟩ := State.freezeBetween_held hq hpid' hc hh
    refine ⟨_, q', ?_, hq', hform, hfr, hcs, hss, hp⟩
    show execIntermissionFreeze pid s = _
    simp [execIntermissionFreeze, hreq, hq, hv, hi, hf]
  · obtain ⟨q', hq', hform, hcs⟩ := State.intermit_outcome hq
    refine ⟨_, q', ?_, hq', hform, hcs⟩
    show execWriteOutComplete pid s = _
    simp [execWriteOutComplete, hq, ht, hf, hle]
  · obtain ⟨-, r, hback⟩ := State.backInPlace_outcome hq hpid'
    have hmem : 5 ∈ eraseAll q.causes 3 := mem_eraseAll.2 ⟨h5, by decide⟩
    have hne : (eraseAll q.causes 3).isEmpty = false := List.isEmpty_eq_false_iff_exists_mem.2 ⟨5, hmem⟩
    refine ⟨_, _, (restoredPartitionStart_eq hq hf hr ht).trans (by rw [hne, if_neg Bool.false_ne_true]), hback, rfl, rfl,
      fun h => (mem_eraseAll.1 h).2 rfl, hmem⟩
  · obtain ⟨htiles, r, hback⟩ := State.backInPlace_outcome hq hpid'
    have hnil : eraseAll q.causes 3 = [] := List.filter_eq_nil_iff.2 fun c hc => by simp [hall c hc]
    exact ⟨_, _, (restoredPartitionStart_eq hq hf hr ht).trans (by rw [hnil, List.isEmpty_nil, if_pos rfl]), hback, hnil, rfl, rfl, rfl, rfl,
      rfl, rfl, rfl, rfl, htiles, hruns _⟩
  · refine ⟨_, { q.stopFor 3 with agreedQ := none }, ?_,
      State.part_modPart_at (f := fun q => { q.stopFor 3 with agreedQ := none }) hq ((q.stopFor_pid 3).trans hpid'), rfl,
      q.withCause_mem 3, rfl, rfl, rfl⟩
    show execTroupeIntermissionFreeze pid s = _
    simp only [execTroupeIntermissionFreeze, hq, hf, ha, and_self, if_true]
  · obtain ⟨hpart, htiles, -⟩ := State.endCause_outcome hq hpid' 4
    have hpart' := State.part_modPart_at (f := fun q => { q with restartQ := none }) hpart hpid'
    have hnil : (q.endCause s.rmt 4).causes = [] := by simp [Part.endCause, hc, eraseAll]
    exact ⟨_, { q.endCause s.rmt 4 with restartQ := none },
      (troupeRestart_eq hq ht hf hle (by rw [hc]; exact List.mem_singleton_self 4)).trans (by rw [if_pos hc]), hpart', hnil, rfl, rfl, rfl,
      rfl, rfl, rfl, rfl, rfl, htiles, hruns _⟩
  · obtain ⟨hpart, htiles, hmem⟩ := State.endCause_outcome hq hpid' 4
    have hpart' := State.part_modPart_at (f := fun q => { q with restartQ := none }) hpart hpid'
    have hne : q.causes ≠ [4] := fun h => by
      have := (hc 5).2 (Or.inr rfl)
      rw [h] at this
      simp at this
    exact ⟨_, { q.endCause s.rmt 4 with restartQ := none },
      (troupeRestart_eq hq ht hf hle ((hc 4).2 (Or.inl rfl))).trans (by rw [if_neg hne]), hpart', hf, rfl,
      fun h => ((mem_endCause (rmt := s.rmt)).1 h).2 rfl, (mem_endCause (rmt := s.rmt)).2 ⟨(hc 5).2 (Or.inr rfl), by decide⟩, htiles, hmem⟩

/-- Settles O54: each command by what it leaves of its partition, the power step and the thermal trip by their own equations (R171, R172,
R310). -/
theorem freezeControlAndPower : Obligations.FreezeControlAndPower := by
  intro pid s q hq hpid
  have hpid' := hpid.symm
  refine ⟨fun hf => ?_, fun hf hc => ?_, fun hf => ?_, fun hf => ?_, fun step ht => ?_, fun f => ⟨_, rfl, rfl, rfl, rfl⟩,
    ⟨_, rfl, rfl, rfl, rfl⟩⟩
  · refine ⟨_, q.stopFor 5, ?_, State.part_modPart_at (f := fun q => q.stopFor 5) hq ((q.stopFor_pid 5).trans hpid'), rfl,
      q.withCause_mem 5, (congrArg Part.form (q.withCause_frame 5) :).trans hf, rfl, rfl⟩
    show execFrzctlFreeze pid s = _
    simp only [execFrzctlFreeze, hq, hf, if_true]
  · obtain ⟨hpart, htiles, hmem⟩ := State.endCause_outcome hq hpid' 5
    have he : exec (.frzctlEndRequest pid) s = .next (s.endCause pid 5) := by
      show execFrzctlEndRequest pid s = _
      simp [execFrzctlEndRequest, hq, hf, hc]
    exact ⟨_, _, he, hpart, by simp [Part.endCause, hc, eraseAll], by simp [Part.endCause, hc, hf, eraseAll], htiles, hmem⟩
  · obtain ⟨q', hq', hform, hcs⟩ := State.intermit_outcome hq
    refine ⟨_, q', ?_, hq', hform, hcs⟩
    show execFrzctlIntermission pid s = _
    simp only [execFrzctlIntermission, hq, hf, true_or, if_true]
  · obtain ⟨-, q', hq', hform⟩ := State.writeOut_outcome hq
    have hfrozen : q.frozen = true := by
      rw [Part.frozen, hf]
      rfl
    refine ⟨_, _, ?_, State.part_modPart_at (f := fun q => { q with halted := some 0 }) hq' (by simpa using List.find?_some hq'), hform, rfl⟩
    show execFrzctlRetire pid s = _
    simp only [execFrzctlRetire, hq, hfrozen, if_true]
  · show execPowerStepRequest pid step s = _
    simp only [execPowerStepRequest, hq, ht, Bool.false_eq_true, if_false]

end Sys2Proof.Machine

/-! ### The journal, admission and launch -/

namespace Sys2Proof.Machine

section
variable {s u v : State}

/-- A state with what the writing of notices and log records touches as another has it: HBM, the messages' times, the ring's own pointers and
what waits for them (R331, R333 to R335). -/
def State.besideRings (s u : State) : State :=
  { u with mem := s.mem, hbmDamage := s.hbmDamage, pcs := s.pcs, messages := s.messages, freeCount := s.freeCount
           ring := { u.ring with ntail := s.ring.ntail, notices := s.ring.notices, logtail := s.ring.logtail, prev := s.ring.prev
                                 sigs := s.ring.sigs, signing := s.ring.signing, lost := s.ring.lost, logHeld := s.ring.logHeld } }

theorem State.besideRings_trans (h : s.besideRings u = s) (h' : u.besideRings v = u) : s.besideRings v = s :=
  (show s.besideRings v = s.besideRings (u.besideRings v) from rfl).trans ((congrArg s.besideRings h').trans h)

theorem State.besideRings_of_notices (h : s.besideNotices u = s) : s.besideRings u = s :=
  (show s.besideRings u = s.besideRings (s.besideNotices u) from rfl).trans (congrArg s.besideRings h)

theorem State.flushNotices_rings (n : Nat) (s : State) : s.besideRings (s.flushNotices n) = s :=
  State.besideRings_of_notices (s.flushNotices_frame n)

theorem State.ringStore_rings (s : State) (b : DWord) (off : Nat) (l : List Byte) : s.besideRings (s.ringStore b off l) = s :=
  (congrArg s.besideRings (s.ringStore_frame b off l) :)

theorem State.logWrite_rings (s : State) (r : LogRec) : s.besideRings (s.logWrite r).1 = s := s.ringStore_rings ..

theorem State.logSign_rings (s : State) : s.besideRings s.logSign = s := by
  unfold State.logSign
  extract_lets slot n w done
  have hw : s.besideRings w.1 = s := s.logWrite_rings _
  clear_value w
  exact State.besideRings_trans hw rfl

theorem State.logTurn_rings (s : State) : s.besideRings s.logTurn = s := by
  unfold State.logTurn
  split
  · exact s.logSign_rings
  · rfl

theorem State.logPut_rings (s : State) (r : LogRec) : s.besideRings (s.logPut r) = s := by
  unfold State.logPut
  refine State.besideRings_trans s.logTurn_rings ?_
  dsimp only
  split
  · exact State.besideRings_trans (State.logWrite_rings _ _) (State.logTurn_rings _)
  · rfl

/-- What the first write of JTAIL fixes, and what it leaves (R328, R333). -/
theorem State.latch_outcome (s : State) : s.latch.ring.latched = true ∧ s.latch.parts = s.parts ∧ s.latch.tiles = s.tiles := by
  let s1 := s.modRing fun g => { g with latched := true, featNeg := featOff &&& g.featReq, logHeld := [], lost := 0 }
  have hs2 : s1.besideRings (s.ring.logHeld.foldl (fun s r => s.logPut r) s1) = s1 := by
    generalize s.ring.logHeld = l
    generalize s1 = x
    induction l generalizing x with
    | nil => rfl
    | cons r l ih => exact State.besideRings_trans (x.logPut_rings r) (ih _)
  have hlatch : s1.besideRings s.latch = s1 := by
    unfold State.latch
    refine State.besideRings_trans ?_ (State.flushNotices_rings _ _)
    split
    · exact hs2
    · exact State.besideRings_trans hs2 (State.logPut_rings _ _)
  exact ⟨(congrArg (fun u => u.ring.latched) hlatch :), (congrArg State.parts hlatch :), (congrArg State.tiles hlatch :)⟩

/-- A JTAIL in range is published (R329). -/
theorem execJtailWrite_outcome (v : DWord) (hboot : s.ring.bootstat = 2) (hlo : s.ring.jtail.toNat ≤ v.toNat)
    (hhi : v.toNat ≤ s.ring.jhead.toNat + ringSize s.ring.jsize) :
    ∃ u, exec (.jtailWrite v) s = .next u ∧ u.ring.jtail = v ∧ u.ring.latched = true ∧ u.parts = s.parts ∧ u.tiles = s.tiles := by
  have he : exec (.jtailWrite v) s = .next ((if s.ring.latched then s else s.latch).modRing fun g => { g with jtail := v }) := by
    refine if_neg ?_
    rintro (h | h | h)
    · exact h hboot
    · omega
    · omega
  refine ⟨_, he, rfl, ?_⟩
  split
  · next h => exact ⟨h, rfl, rfl⟩
  · exact s.latch_outcome

/-- What a scan step leaves, and the count of what it has read (R162). -/
theorem State.scanOne_outcome (s : State) :
    s.scanOne.ring.scanned = s.ring.scanned + 1 ∧ s.scanOne.parts = s.parts ∧ s.scanOne.tiles = s.tiles := by
  unfold State.scanOne
  extract_lets
  split
  · exact ⟨rfl, rfl, rfl⟩
  · have hstore (x : State) (r : Record) := x.hbmStore_frame (r.slotAddr + 104) (r.bytes.drop 104)
    exact ⟨(congrArg (fun u => u.ring.scanned) (hstore _ _) :), (congrArg State.parts (hstore _ _) :),
      (congrArg State.tiles (hstore _ _) :)⟩

theorem State.scanMany_outcome (n : Nat) (s : State) :
    (s.scanMany n).ring.scanned = s.ring.scanned + n ∧ (s.scanMany n).parts = s.parts ∧ (s.scanMany n).tiles = s.tiles := by
  induction n generalizing s with
  | zero => exact ⟨rfl, rfl, rfl⟩
  | succ n ih =>
    obtain ⟨hn, hp, ht⟩ := ih s.scanOne
    obtain ⟨hn1, hp1, ht1⟩ := s.scanOne_outcome
    exact ⟨by rw [State.scanMany, hn, hn1]; omega, hp.trans hp1, ht.trans ht1⟩

/-- The entry of a record after a change of it that keeps its number and does not refuse it. -/
theorem State.entry_modEntry {seq : Nat} {e : Entry} (f : Entry → Entry) (he : s.ring.entry seq = some e)
    (hf : (f e).lrec.seq = seq ∧ (f e).lrec.state ≠ 4) : (s.modEntry seq f).ring.entry seq = some (f e) := by
  rw [Ring.entry] at he
  rw [Ring.entry, State.modEntry, State.modRing]
  dsimp only
  generalize s.ring.entries = l at he
  induction l with
  | nil => cases he
  | cons x r ih =>
    rw [List.find?_cons] at he
    rw [List.map_cons, List.find?_cons]
    by_cases hx : x.lrec.seq = seq ∧ x.lrec.state ≠ 4
    · have hkey (y : Entry) (hy : y.lrec.seq = seq ∧ y.lrec.state ≠ 4) : (y.lrec.seq == seq && y.lrec.state != 4) = true := by
        simpa using hy
      rw [hkey x hx] at he
      obtain rfl := Option.some.inj he
      rw [if_pos hx, hkey _ hf]
    · have hkey : (x.lrec.seq == seq && x.lrec.state != 4) = false := by
        rw [Bool.eq_false_iff]
        simpa using hx
      rw [hkey] at he
      rw [if_neg hx, hkey]
      exact ih he

/-- A staged image is told in its entry (R162). -/
theorem execImageStaged_outcome {seq : Nat} {e : Entry} (he : s.ring.entry seq = some e) (hs : e.staged = false)
    (hat : e.stagedAt ≤ s.rmt) :
    ∃ u e', exec (.imageStaged seq) s = .next u ∧ u.ring.entry seq = some e' ∧ e'.staged = true ∧ e'.lrec = e.lrec ∧
      u.parts = s.parts := by
  have hfind : e.lrec.seq = seq ∧ e.lrec.state ≠ 4 := by simpa using List.find?_some he
  have hexec : exec (.imageStaged seq) s = .next (s.modEntry seq fun e => { e with staged := true }) := by
    show execImageStaged seq s = _
    simp [execImageStaged, he, hs, hat]
  exact ⟨_, { e with staged := true }, hexec, State.entry_modEntry (fun e => { e with staged := true }) he hfind, rfl, rfl, rfl⟩

/-! Admission (R164 to R166, R306). -/

variable {pid : Nat} {q : Part}

theorem State.sameParts_clearTile (s : State) (t : Coord) : s.SameParts (s.clearTile t) := ⟨rfl, rfl⟩

theorem State.sameParts_setTe (s : State) (d i : Nat) (e : Quad) : s.SameParts (s.setTe d i e) := ⟨rfl, rfl⟩

theorem State.sameParts_modRing (s : State) (f : Ring → Ring) : s.SameParts (s.modRing f) := ⟨rfl, rfl⟩

theorem State.sameParts_ownPcs (s : State) (q : Part) : s.SameParts (s.ownPcs q) := by
  unfold State.ownPcs
  exact State.SameParts.foldl (fun s g => State.sameParts_modPc s g _) _ s

/-- The loading of a pinned set changes nothing of its partition but the list of it (R315). -/
theorem State.loadPins_outcome (hq : s.part q.pid = some q) :
    ∃ pins, (s.loadPins q).part q.pid = some { q with pins := pins } := by
  unfold State.loadPins State.clearPins
  extract_lets cleared places
  have hcleared : cleared.part q.pid = some { q with pins := [] } :=
    State.part_modPart_at (f := fun q => { q with pins := [] })
      (((State.SameParts.foldl (fun s p => State.sameParts_setTe s p.1 p.2 0) q.pins s).part q.pid).trans hq) rfl
  have hplaced : (places.foldl (fun s e => s.setTe e.1 e.2.1 e.2.2) cleared).part q.pid = some { q with pins := [] } :=
    ((State.SameParts.foldl (fun s e => State.sameParts_setTe s e.1 e.2.1 e.2.2) places cleared).part q.pid).trans hcleared
  exact ⟨_, State.part_modPart_at (q := { q with pins := [] }) (f := fun q => { q with pins := places.map fun e => (e.1, e.2.1) }) hplaced rfl⟩

/-- A free number is no partition's. -/
theorem State.part_none_of_freePid (h : s.freePid = some pid) : s.part pid = none := by
  have hfree : s.parts.any (fun q => q.pid == pid) = false := by simpa using List.find?_some h
  rw [State.part, List.find?_eq_none]
  simpa using hfree

/-- A launch admitted stands as launching, at its origin and with its T0 (R166). -/
theorem State.admitRecord_part {r : Record} (o : Nat × Nat) (h : s.freePid = some pid) :
    ∃ q ∈ (s.admitRecord r pid o).parts, q.pid = pid ∧ q.form = .launching ∧ q.x0 = o.1 ∧ q.y0 = o.2 ∧
      q.t0 = if r.trp then r.tstart else s.rmt + 8704 := by
  unfold State.admitRecord
  extract_lets t0 r1 q s1 s2
  have hs1 : s1.part pid = some q := by
    show (s.parts ++ [q]).find? (fun x => x.pid == pid) = some q
    rw [List.find?_append, show s.parts.find? (fun x => x.pid == pid) = none from State.part_none_of_freePid h]
    simp [q, Part.admitted]
  have hs2 : s2.part q.pid = some q :=
    (((State.SameParts.foldl State.sameParts_clearTile q.members s1).trans (State.sameParts_ownPcs _ q)).part pid).trans hs1
  obtain ⟨pins, hpins⟩ := State.loadPins_outcome hs2
  obtain ⟨-, -, r2, hr2⟩ := State.setRecord_outcome hpins r.seq fun _ => r1
  exact ⟨_, List.mem_of_find?_eq_some hr2, rfl, rfl, rfl, rfl, rfl⟩

/-- A candidate that is examined at its launch slot (R161, R164). -/
theorem admitEvent_admitted {seq kind : Nat} {e : Entry} (he : s.ring.entry seq = some e) (hk : e.lrec.kind = kind)
    (hslot : s.rmt % 1024 = 0) (hc : s.isCandidate e = true) (hu : s.examine ⟨e.lrec, none⟩ = .admitted u) :
    admitEvent seq kind s = .next u := by
  simp [admitEvent, he, hk, hslot, hc, hu]

theorem State.examine_launch {r : Record} {o : Nat × Nat} (hpid : s.freePid = some pid) (hplace : s.placeAt [] ⟨r, none⟩ = some o)
    (hk : r.kind = 1) : s.examine ⟨r, none⟩ = .admitted (s.admitRecord r pid o) := by
  simp [State.examine, hpid, hplace, hk]

theorem State.examine_restore {r : Record} {o : Nat × Nat} (hpid : s.freePid = some pid) (hplace : s.placeAt [] ⟨r, none⟩ = some o)
    (hk : r.kind = 2)
    (hok : ∀ x ∈ s.ring.unusable, x.meets ⟨(s.savedOrigin r).1, (s.savedOrigin r).2, r.w, r.h⟩ = false) :
    s.examine ⟨r, none⟩ = .admitted (s.admitRestore r pid (s.savedOrigin r)) := by
  have hany : (s.ring.unusable.any fun x => x.meets ⟨(s.savedOrigin r).1, (s.savedOrigin r).2, r.w, r.h⟩) = false := by
    simpa using hok
  simp [State.examine, hpid, hplace, hk, hany]

/-! The start of a partition (R32, R163, R166). -/

theorem State.loadSegment_frame (s : State) (from' : List Host.Cell) (im : Nat) (t : Coord) (g : Segment) :
    (s.loadSegment from' im t g).parts = s.parts ∧ (s.loadSegment from' im t g).tiles = s.tiles := by
  unfold State.loadSegment
  extract_lets
  split <;> exact ⟨rfl, rfl⟩

theorem State.loadTile_parts (s : State) (from' : List Host.Cell) (im : Nat) (t : Coord) :
    (s.loadTile from' im t).parts = s.parts := by
  unfold State.loadTile
  exact foldl_keeps State.parts (fun s g => (s.loadSegment_frame from' im t g).1) _ _

/-- Slot 0 of the access core of a tile that an image fills (R32). -/
theorem State.loadTile_slot (s : State) (from' : List Host.Cell) (im : Nat) (t : Coord) :
    ((s.loadTile from' im t).tile t).slot .access 0 = Slot.launched (imageCap from' im 0) (imageCap from' im 1) := by
  unfold State.loadTile
  extract_lets tl core s1
  have htiles : ((segmentsAt from' im).foldl (fun s g => s.loadSegment from' im t g) s1).tiles = s1.tiles :=
    foldl_keeps State.tiles (fun s g => (s.loadSegment_frame from' im t g).2) _ _
  rw [State.tile, htiles, ← State.tile, State.tile_setTile_self]
  simp [Tile.slot, Tile.core, core, Core.setSlot]

/-- At T0 a partition runs, its tiles as its staged image fills them (R166). -/
theorem execPartitionStart_outcome (hq : s.part pid = some q) (hform : q.form = .launching) (ht0 : q.t0 = s.rmt) :
    ∃ u q', exec (.partitionStart pid) s = .next u ∧ u.part pid = some q' ∧ q'.form = .running ∧ q'.p = none ∧ q'.tick = 0 ∧
      (q.lrec.w = 1 → q.lrec.h = 1 → (u.tile ⟨q.x0, q.y0⟩).slot .access 0 =
        let staged := ((s.ring.entry q.lrec.seq).map Entry.image).getD []
        Slot.launched (imageCap staged q.lrec.image 0) (imageCap staged q.lrec.image 1)) := by
  have hpid : q.pid = pid := by simpa using List.find?_some hq
  let image := ((s.ring.entry q.lrec.seq).map Entry.image).getD []
  let loaded := q.members.foldl (fun s t => s.loadTile image q.lrec.image t) s
  let begun := (loaded.modEntry q.lrec.seq fun e => { e with image := [] }).modPart pid fun q =>
    { q with form := .running, p := none, tick := 0 }
  have hexec : exec (.partitionStart pid) s = .next (begun.setRecord q.lrec.seq fun r => { r with state := 2, t0 := s.rmt }) := by
    show execPartitionStart pid s = _
    simp only [execPartitionStart, hq, hform, ht0, and_self, if_true]
    rfl
  have hparts : loaded.parts = s.parts := foldl_keeps State.parts (fun s t => s.loadTile_parts image q.lrec.image t) q.members s
  have hloaded : (loaded.modEntry q.lrec.seq fun e => { e with image := [] }).part pid = some q :=
    (congrArg (fun l => l.find? fun x : Part => x.pid == pid) hparts).trans hq
  have hbegun := State.part_modPart_at (f := fun q => { q with form := .running, p := none, tick := 0 }) hloaded hpid
  obtain ⟨htiles, -, r, hr⟩ := State.setRecord_outcome hbegun q.lrec.seq fun r => { r with state := 2, t0 := s.rmt }
  refine ⟨_, _, hexec, hr, rfl, rfl, rfl, fun hw hh => ?_⟩
  have hone : loaded = s.loadTile image q.lrec.image ⟨q.x0, q.y0⟩ := by
    simp only [loaded, Part.members_one hw hh, List.foldl_cons, List.foldl_nil]
  rw [State.tile, htiles]
  show (loaded.tile _).slot .access 0 = _
  rw [hone, State.loadTile_slot]

/-! The launch slot (R164, R329). -/

/-- A launch slot with nothing to do moves JHEAD to the first record not yet scanned (R329). -/
theorem execLaunchSlot_idle (hslot : s.rmt % 1024 = 0) (hboot : s.ring.bootstat = 2) (hp : s.parts = []) (he : s.ring.entries = [])
    (hsw : s.ring.swaps = []) :
    ∃ u, exec .launchSlot s = .next u ∧ u.ring.jhead = BitVec.ofNat 64 s.ring.scanned ∧ u.parts = [] ∧ u.mem = s.mem := by
  have hretire : s.retireAll = s := by simp [State.retireAll, hp]
  have hfinish : s.finishCommands = s := by simp [State.finishCommands, he]
  have hstart : s.startCommands = s := by simp [State.startCommands, he]
  have hlate : s.refuseLate = s := by simp [State.refuseLate, he]
  have hcand : s.candidates = [] := by simp [State.candidates, he, hp]
  have hexec : exec .launchSlot s = .next s.admissions.moveHead := by
    show execLaunchSlot s = _
    simp [execLaunchSlot, hslot, Ring.started, hboot, hretire, hfinish, hstart, hsw, hlate]
  have hadm : ∃ req, s.admissions = s.modRing fun g => { g with request := req } := by
    unfold State.admissions
    rw [hcand]
    split
    · exact ⟨s.ring.request, rfl⟩
    · simp only [State.examineAll]
      split
      · exact ⟨none, rfl⟩
      · exact ⟨s.ring.request, rfl⟩
  obtain ⟨req, hreq⟩ := hadm
  refine ⟨_, hexec, ?_⟩
  rw [hreq]
  refine ⟨?_, hp, rfl⟩
  simp [State.moveHead, State.modRing, he]

end

/-- Settles O55: the journal's publication and scan, and what a launch slot admits and starts. -/
theorem journalAndLaunch : Obligations.JournalAndLaunch := by
  unfold Obligations.JournalAndLaunch
  intro s
  refine ⟨fun v => ⟨fun h => if_pos h, execJtailWrite_outcome v⟩, ?_, fun seq e => execImageStaged_outcome, ?_,
    fun pid q hq _ => execPartitionStart_outcome hq, execLaunchSlot_idle, ?_⟩
  · intro hscan hlatched hboot hle
    obtain ⟨hn, hp, ht⟩ := s.scanMany_outcome (s.ring.published - s.ring.scanned)
    refine ⟨_, if_pos ⟨hscan, hlatched, ?_⟩, hn.trans (by omega), hp, ht⟩
    simp [Ring.started, hboot]
  · intro seq e pid o he hslot hc hpid hplace
    exact ⟨fun hk => ⟨admitEvent_admitted he hk hslot hc (State.examine_launch hpid hplace hk), State.admitRecord_part o hpid⟩,
      fun hk hok => admitEvent_admitted he hk hslot hc (State.examine_restore hpid hplace hk hok)⟩
  · intro h
    show execLaunchSlot s = _
    simp [execLaunchSlot, h]

end Sys2Proof.Machine

/-! ### The commands of the journal -/

namespace Sys2Proof.Machine

section
variable {s : State} {seq kind : Nat} {r : Record} {e : Entry}

/-- A command that a launch slot may start stands in the journal under its number (R330). -/
theorem State.commandAt_entry (h : s.commandAt seq kind = some r) :
    r.kind = kind ∧ r.seq = seq ∧ ∃ e, s.ring.entry r.seq = some e ∧ e.lrec = r := by
  unfold State.commandAt at h
  split at h
  · cases h
  · next e he =>
    have hfind : e.lrec.seq = seq ∧ e.lrec.state ≠ 4 := by simpa using List.find?_some he
    split at h
    · next hc =>
      obtain rfl := Option.some.inj h
      exact ⟨hc.1, hfind.1, e, by rw [hfind.1]; exact he, rfl⟩
    · cases h

theorem commandEvent_starts {f : State → Record → State} (h : s.commandAt seq kind = some r) :
    commandEvent seq kind f s = .next (f s r) := by
  rw [commandEvent, h]

/-! What new device fields of a record change (R161, R332). -/

/-- A record's new fields stand in the journal's memory, its entry and its partition, and nowhere else. -/
theorem State.setRecord_frame (s : State) (seq : Nat) (f : Record → Record) :
    { s.setRecord seq f with
      mem := s.mem, hbmDamage := s.hbmDamage, pcs := s.pcs, parts := s.parts
      ring := { (s.setRecord seq f).ring with entries := s.ring.entries } } = s := by
  unfold State.setRecord
  split
  · rfl
  · next e _ =>
    extract_lets r s1
    have hs1 : { s1 with mem := s.mem, hbmDamage := s.hbmDamage, pcs := s.pcs } =
        s.modEntry seq (fun e => { e with lrec := r }) := State.hbmStore_frame ..
    exact (congrArg (fun u => { u with parts := s.parts, ring := { u.ring with entries := s.ring.entries } }) hs1 :)

theorem State.setRecord_entry (f : Record → Record) (he : s.ring.entry seq = some e)
    (hf : (f e.lrec).seq = seq ∧ (f e.lrec).state ≠ 4) : (s.setRecord seq f).ring.entry seq = some { e with lrec := f e.lrec } := by
  rw [State.setRecord, he]
  have hring : ((s.modEntry seq fun x => { x with lrec := f e.lrec }).writeRecord (f e.lrec)).ring =
      (s.modEntry seq fun x => { x with lrec := f e.lrec }).ring := (congrArg State.ring (State.hbmStore_frame _ _ _) :)
  dsimp only
  rw [hring]
  exact State.entry_modEntry (fun x => { x with lrec := f e.lrec }) he hf

theorem State.setRecord_parts (f : Record → Record) (he : s.ring.entry seq = some e) :
    (s.setRecord seq f).parts = s.parts.map fun q => if q.lrec.seq = seq then { q with lrec := f e.lrec } else q := by
  rw [State.setRecord, he]
  have hparts : ((s.modEntry seq fun x => { x with lrec := f e.lrec }).writeRecord (f e.lrec)).parts = s.parts :=
    (congrArg State.parts (State.hbmStore_frame _ _ _) :)
  dsimp only
  rw [hparts]

/-- A record that is given a STATE stands in it. -/
theorem State.setRecord_stands (f : Record → Record) (he : s.ring.entry r.seq = some e)
    (hf : (f e.lrec).seq = r.seq ∧ (f e.lrec).state ≠ 4) :
    ∃ x, (s.setRecord r.seq f).ring.entry r.seq = some x ∧ x.lrec.state = (f e.lrec).state :=
  ⟨_, State.setRecord_entry f he hf, rfl⟩

/-- HARVEST (R330). -/
theorem State.startHarvest_outcome (he : s.ring.entry r.seq = some e) (hseq : e.lrec = r) :
    let waits := s.xlate.map fun x => (x.1, harvestCount (r.field 56 2) x.2.dirty)
    (s.startHarvest r).ring.harvests = s.ring.harvests ++ [(r.seq, waits)] ∧ waits.length = s.xlate.length ∧
      (∃ x, (s.startHarvest r).ring.entry r.seq = some x ∧ x.lrec.state = 2) ∧
      (s.startHarvest r).parts = s.parts.map fun q => if q.lrec.seq = r.seq then { q with lrec := { r with state := 2 } } else q := by
  intro waits
  subst hseq
  let s1 := s.modRing fun g => { g with harvests := g.harvests ++ [(e.lrec.seq, waits)] }
  let f (r : Record) : Record := { r with state := 2 }
  exact ⟨(congrArg (fun u => u.ring.harvests) (s1.setRecord_frame e.lrec.seq f) :), by simp [waits],
    State.setRecord_stands (s := s1) f he ⟨rfl, by simp [f]⟩, State.setRecord_parts (s := s1) f he⟩

/-- TRAP_ANSWER of a message that waits at the host (R330). -/
theorem State.startTrapAnswer_message {m : Message}
    (hm : (s.messages.find? fun m => m.ticket == r.field 56 2 && m.level == 3) = some m) :
    s.startTrapAnswer r = if s.dispOk m (r.field 58 1) ⟨r.field 60 2, r.field 62 2⟩ then
      (s.dispose m (r.field 58 1) ⟨r.field 60 2, r.field 62 2⟩).setRecord r.seq fun r => { r with state := 3 }
    else s.refuse r.seq 6 := by
  simp only [State.startTrapAnswer, hm]

/-- SPARE_SWAP of a tile whose set has a good spare left, and of one whose set has none (R330, R336). -/
theorem State.startSpareSwap_outcome (he : s.ring.entry r.seq = some e) (hseq : e.lrec = r)
    (hold : (s.spareNext (dieOf ⟨r.field 56 2, r.field 58 2⟩) (spareNum ⟨r.field 56 2, r.field 58 2⟩)).getLsbD 8 = false) :
    if s.spok (dieOf ⟨r.field 56 2, r.field 58 2⟩) (spareNum ⟨r.field 56 2, r.field 58 2⟩) = true then
      ⟨r.field 56 2, r.field 58 2⟩ ∈ (s.startSpareSwap r).ring.swaps ∧
        ∃ x, (s.startSpareSwap r).ring.entry r.seq = some x ∧ x.lrec.state = 2
    else s.startSpareSwap r = s.refuse r.seq 7 := by
  unfold State.startSpareSwap
  extract_lets t d
  have hfree : (s.spareNext d (spareNum t)).getLsbD 8 = false := hold
  rw [hfree]
  split
  · next hgood =>
    let f (r : Record) : Record := { r with state := 2 }
    let s1 := s.modRing fun g => { g with swaps := if g.swaps.contains t then g.swaps else g.swaps ++ [t] }
    have hnum : e.lrec.seq = r.seq := congrArg Record.seq hseq
    have hspok : (false || !s.spok d (spareNum t)) = false := by rw [show s.spok d (spareNum t) = true from hgood]; rfl
    rw [hspok]
    refine ⟨?_, State.setRecord_stands (s := s1) f he ⟨hnum, by simp [f]⟩⟩
    have hswaps : (s1.setRecord r.seq f).ring.swaps = if s.ring.swaps.contains t then s.ring.swaps else s.ring.swaps ++ [t] :=
      (congrArg (fun u => u.ring.swaps) (s1.setRecord_frame r.seq f) :)
    show t ∈ (s1.setRecord r.seq f).ring.swaps
    rw [hswaps]
    split
    · next hin => exact List.contains_iff_mem.mp hin
    · exact List.mem_append_right _ (List.mem_singleton_self t)
  · next hbad =>
    have hspok : (false || !s.spok d (spareNum t)) = true := by
      rw [show s.spok d (spareNum t) = false from Bool.eq_false_iff.mpr hbad]
      rfl
    rw [hspok]
    rfl

/-! The signature record (R335). -/

/-- A signature record counts a signature and takes one place of the log. -/
theorem State.logSign_outcome (s : State) : s.logSign.ring.sigs = s.ring.sigs + 1 ∧ s.logSign.ring.logtail = s.ring.logtail + 1 := by
  unfold State.logSign
  extract_lets slot n w done
  have hw : w.1.ring.sigs = s.ring.sigs ∧ w.1.ring.logtail = s.ring.logtail + 1 :=
    ⟨(congrArg (fun u => u.ring.sigs) (State.ringStore_frame ..) :),
      (congrArg (fun u => u.ring.logtail + 1) (State.ringStore_frame ..) :)⟩
  clear_value w
  exact ⟨congrArg (· + 1) hw.1, hw.2⟩

theorem State.logTurn_idle (h : s.ring.logtail.toNat % 4096 ≠ 4095) : s.logTurn = s := by
  simp [State.logTurn, h]

/-- SIGN_LOG that waits (R334). -/
theorem State.startSignLog_waits (he : s.ring.entry r.seq = some e) (hseq : e.lrec = r)
    (h : s.ring.logRoom = false ∨ s.ring.lost ≠ 0) :
    (∃ x, (s.startSignLog r).ring.entry r.seq = some x ∧ x.lrec.state = 2) ∧
      (s.startSignLog r).ring.logtail = s.ring.logtail := by
  have hwait : s.startSignLog r = s.setRecord r.seq fun r => { r with state := 2 } := by
    rcases h with h | h <;> simp [State.startSignLog, h]
  have hnum : e.lrec.seq = r.seq := congrArg Record.seq hseq
  rw [hwait]
  exact ⟨State.setRecord_stands _ he ⟨hnum, by simp⟩,
    (congrArg (fun u => u.ring.logtail) (s.setRecord_frame r.seq fun r => { r with state := 2 }) :)⟩

/-- SIGN_LOG that finds room (R335). -/
theorem State.startSignLog_signs (he : s.ring.entry r.seq = some e) (hseq : e.lrec = r) (hroom : s.ring.logRoom = true)
    (hlost : s.ring.lost = 0) :
    (∃ x, (s.startSignLog r).ring.entry r.seq = some x ∧ x.lrec.state = 3) ∧
      (∀ x, (s.startSignLog r).ring.entry r.seq = some x → x.lrec.t0 = s.ring.logtail.toNat) ∧
      ((s.ring.logtail + 1).toNat % 4096 ≠ 4095 →
        (s.startSignLog r).ring.sigs = s.ring.sigs + 1 ∧ (s.startSignLog r).ring.logtail = s.ring.logtail + 1) := by
  let f (r : Record) : Record := { r with state := 3, t0 := s.ring.logtail.toNat }
  have hsign : s.startSignLog r = s.logSign.logTurn.setRecord r.seq f := by
    simp [State.startSignLog, hroom, hlost, f]
  have hentry : s.logSign.logTurn.ring.entry r.seq = some e :=
    (congrArg (fun u => u.ring.entry r.seq) (State.besideRings_trans s.logSign_rings s.logSign.logTurn_rings) :).trans he
  have hnum : e.lrec.seq = r.seq := congrArg Record.seq hseq
  have hset := State.setRecord_entry f hentry ⟨hnum, by simp [f]⟩
  rw [hsign]
  refine ⟨⟨_, hset, rfl⟩, fun x hx => ?_, fun hturn => ?_⟩
  · obtain rfl := Option.some.inj (hset.symm.trans hx)
    rfl
  · obtain ⟨hsigs, htail⟩ := s.logSign_outcome
    have hidle : s.logSign.logTurn = s.logSign := State.logTurn_idle (by rw [htail]; exact hturn)
    rw [hidle]
    exact ⟨(congrArg (fun u => u.ring.sigs) (s.logSign.setRecord_frame r.seq f) :).trans hsigs,
      (congrArg (fun u => u.ring.logtail) (s.logSign.setRecord_frame r.seq f) :).trans htail⟩

/-! The attestation (R342). -/

/-- What the Ringmaster's bytes leave held at a pseudo-channel: what it held, and perhaps these bytes (R212). -/
theorem State.hbmStore_held (s : State) (a : Nat) (l : List Byte) (g : Nat) :
    ∃ ws, ((s.hbmStore a l).pc g).held = (s.pc g).held ++ ws ∧ ∀ w ∈ ws, w.data = l := by
  unfold State.hbmStore State.arriveHbm
  split
  · simp only [State.accept]
    by_cases hg : g = pcOf a
    · subst hg
      exact ⟨_, by rw [State.pc, State.modPc, assocGet_assocSet_self]; rfl, by simp⟩
    · exact ⟨[], by rw [State.pc, State.modPc, assocGet_assocSet_other _ _ hg, List.append_nil]; rfl, by simp⟩
  · exact ⟨[], (List.append_nil _).symm, by simp⟩

theorem State.hbmStore_mem {a : Nat} (l : List Byte) (h : s.pcBusy (pcOf a) = false) :
    (s.hbmStore a l).mem = Mem.write s.mem (hbmAddr a) l := by
  simp only [State.hbmStore, State.arriveHbm, h, Bool.false_eq_true, if_false, State.performHbm, State.respond, List.take_length]

/-- The device's bytes of a record are 24 (R161). -/
theorem Record.bytes_device_length (r : Record) : (r.bytes.drop 104).length = 24 := by
  simp [Record.bytes]

/-- A command whose report has a place in HBM has its nonce in whole (R330). -/
theorem Record.nonce_length (h : r.field 88 8 / 2 ^ 60 = 2) : r.nonce.length = 32 := by
  have hlt := leNat_lt ((r.body.drop 88).take 8)
  have hlen : 96 ≤ r.body.length := by
    by_contra hn
    have h7 : ((r.body.drop 88).take 8).length ≤ 7 := by
      rw [List.length_take, List.length_drop]
      omega
    have hpow : 2 ^ (8 * ((r.body.drop 88).take 8).length) ≤ 2 ^ 56 := Nat.pow_le_pow_right (by omega) (by omega)
    rw [Record.field] at h
    omega
  rw [Record.nonce, List.length_take, List.length_drop]
  omega

/-- New device fields of a record are no report, whether they wait at a pseudo-channel or not (R342). -/
theorem State.reportHeld_setRecord (s : State) (f : Record → Record) (seq : Nat) (r : Record) :
    (s.setRecord seq f).reportHeld r = s.reportHeld r := by
  have hheld (g : Nat) : ∃ ws, ((s.setRecord seq f).pc g).held = (s.pc g).held ++ ws ∧ ∀ w ∈ ws, w.data.length = 24 := by
    unfold State.setRecord
    split
    · exact ⟨[], (List.append_nil _).symm, by simp⟩
    · next e _ =>
      obtain ⟨ws, hws, hdata⟩ := (s.modEntry seq fun x => { x with lrec := f e.lrec }).hbmStore_held ((f e.lrec).slotAddr + 104)
        ((f e.lrec).bytes.drop 104) g
      exact ⟨ws, hws, fun w hw => by rw [hdata w hw, Record.bytes_device_length]⟩
  unfold State.reportHeld
  split
  · next a _ h2 =>
    obtain ⟨ws, hws, hlen⟩ := hheld (pcOf a)
    have hnone : (ws.any fun w => w.src == .host && w.addr == BitVec.ofNat 64 (hbmAddr a) && w.data.take 32 == r.nonce) = false := by
      rw [List.any_eq_false]
      intro w hw hmatch
      have hnonce : w.data.take 32 = r.nonce := by
        simp only [Bool.and_eq_true, beq_iff_eq] at hmatch
        exact hmatch.2
      have := congrArg List.length hnonce
      rw [Record.nonce_length h2, List.length_take, hlen w hw] at this
      omega
    rw [hws, List.any_append, hnone, Bool.or_false]
  · rfl

/-- The state in which a report has been written, or waits to be (R342). -/
def State.reported (s : State) (r : Record) : State :=
  match space2 (r.field 88 8), r.field 88 8 / 2 ^ 60 with
  | some a, 2 => s.hbmStore a (s.reportFields r.nonce ++ signatureBytes (s.reportFields r.nonce))
  | _, _ => s

theorem State.reported_frame (s : State) (r : Record) :
    { s.reported r with mem := s.mem, hbmDamage := s.hbmDamage, pcs := s.pcs } = s := by
  unfold State.reported
  split
  · exact State.hbmStore_frame ..
  · rfl

theorem State.startAttest_eq (s : State) (r : Record) : s.startAttest r =
    (s.reported r).setRecord r.seq fun x => { x with state := if (s.reported r).reportHeld r then 2 else 3 } := rfl

theorem State.startAttest_outcome (he : s.ring.entry r.seq = some e) (hseq : e.lrec = r) :
    (∃ x, (s.startAttest r).ring.entry r.seq = some x ∧ x.lrec.state = if (s.startAttest r).reportHeld r then 2 else 3) ∧
      (s.startAttest r).tiles = s.tiles := by
  rw [State.startAttest_eq, State.reportHeld_setRecord]
  have hentry : (s.reported r).ring.entry r.seq = some e := (congrArg (fun u => u.ring.entry r.seq) (s.reported_frame r) :).trans he
  have hnum : e.lrec.seq = r.seq := congrArg Record.seq hseq
  refine ⟨State.setRecord_stands _ hentry ⟨hnum, ?_⟩, ?_⟩
  · dsimp only
    split <;> decide
  · exact (congrArg State.tiles (State.setRecord_frame ..) :).trans (congrArg State.tiles (s.reported_frame r) :)

end

/-- Settles O56: what each command of the journal does at its launch slot. -/
theorem journalCommands : Obligations.JournalCommands := by
  unfold Obligations.JournalCommands
  intro s seq r stands
  refine ⟨fun h => ?_, fun h => ?_, fun h => ?_, fun h => ?_, fun h => ?_⟩ <;>
    obtain ⟨-, -, e, he, hseq⟩ := State.commandAt_entry h
  · exact ⟨_, _, commandEvent_starts h, State.startHarvest_outcome he hseq⟩
  · exact ⟨fun hw => ⟨_, commandEvent_starts h, State.startSignLog_waits he hseq hw⟩,
      fun hroom hlost => ⟨_, commandEvent_starts h, State.startSignLog_signs he hseq hroom hlost⟩⟩
  · refine ⟨fun hm => (commandEvent_starts h).trans ?_, fun m hm => ⟨fun hd => ?_, fun hd => ?_⟩⟩
    · simp only [State.startTrapAnswer, hm]
    · exact (commandEvent_starts h).trans (congrArg Host.Outcome.next ((State.startTrapAnswer_message hm).trans (if_pos hd)))
    · exact (commandEvent_starts h).trans
        (congrArg Host.Outcome.next ((State.startTrapAnswer_message hm).trans (if_neg (Bool.eq_false_iff.mp hd))))
  · refine ⟨fun hold => (commandEvent_starts h).trans (congrArg Host.Outcome.next ?_),
      fun hold => ⟨_, commandEvent_starts h, State.startSpareSwap_outcome he hseq hold⟩⟩
    exact if_pos (by rw [hold]; rfl)
  · refine ⟨_, commandEvent_starts h, ?_⟩
    obtain ⟨hstands, htiles⟩ := State.startAttest_outcome he hseq
    refine ⟨hstands, htiles, ?_⟩
    intro fields report a ha h2
    have hrep : s.reported r = s.hbmStore a report := by
      unfold State.reported
      rw [ha, h2]
      rfl
    refine ⟨?_, fun hbusy hwf => ?_⟩
    · rw [State.startAttest_eq, hrep]
    · rw [State.hbmStore_mem report hbusy]
      exact Mem.read_write_self _ _ hwf

end Sys2Proof.Machine

/-! ### Bring-up, the health log and the spares -/

namespace Sys2Proof.Machine

section
variable {s : State}

/-! Lists that the registers of the spares and the damaged items stand in. -/

/-- Values put one by one under different keys all stand. -/
theorem assocGet_foldl_assocSet {α β : Type} (key : β → Nat) (val : β → α) (l : List β) (m : List (Nat × α))
    (hkeys : (l.map key).Nodup) {x : β} (hx : x ∈ l) :
    assocGet (l.foldl (fun m x => assocSet m (key x) (val x)) m) (key x) = some (val x) := by
  have hkeep (r : List β) (m : List (Nat × α)) (k : Nat) (hk : k ∉ r.map key) :
      assocGet (r.foldl (fun m x => assocSet m (key x) (val x)) m) k = assocGet m k := by
    induction r generalizing m with
    | nil => rfl
    | cons y r ih =>
      rw [List.map_cons, List.mem_cons, not_or] at hk
      rw [List.foldl_cons, ih _ hk.2, assocGet_assocSet_other _ _ hk.1]
  induction l generalizing m with
  | nil => cases hx
  | cons y r ih =>
    rw [List.map_cons, List.nodup_cons] at hkeys
    rw [List.foldl_cons]
    rcases List.mem_cons.1 hx with rfl | hr
    · rw [hkeep r _ _ hkeys.1, assocGet_assocSet_self]
    · exact ih _ hkeys.2 hr

/-- The blocks that a range of bytes touches. -/
theorem mem_blocks {a n step x : Nat} (hstep : 0 < step) :
    x ∈ blocks a n step ↔ x % step = 0 ∧ a < x + step ∧ x < a + n := by
  have hlo (y : Nat) : a / step ≤ y ↔ a < y * step + step := by
    rw [← Nat.lt_succ_iff, Nat.div_lt_iff_lt_mul hstep, Nat.succ_mul]
  have hhi (y : Nat) : y < (a + n + step - 1) / step ↔ y * step < a + n := by
    rw [Nat.lt_iff_add_one_le, Nat.le_div_iff_mul_le hstep, Nat.add_mul]
    omega
  simp only [blocks, List.mem_map, List.mem_range]
  constructor
  · rintro ⟨i, hi, rfl⟩
    exact ⟨Nat.mul_mod_left .., (hlo _).1 (Nat.le_add_right ..), (hhi _).1 (by omega)⟩
  · rintro ⟨hmod, hax, hxn⟩
    obtain ⟨y, rfl⟩ := Nat.dvd_of_mod_eq_zero hmod
    rw [Nat.mul_comm] at hax hxn ⊢
    have := (hlo y).2 hax
    have := (hhi y).2 hxn
    exact ⟨y - a / step, by omega, by rw [Nat.add_sub_cancel' (by assumption)]⟩

theorem mem_mend {reason : Nat} {keys : List Nat} {l : List Damage} {d : Damage} :
    d ∈ mend reason keys l ↔ d ∈ l ∧ ¬(d.reason = reason ∧ d.key ∈ keys) := by
  simp [mend, List.mem_filter]
  tauto

theorem mem_foldl_eraseAll (ks l : List Nat) (x : Nat) : x ∈ ks.foldl eraseAll l ↔ x ∈ l ∧ x ∉ ks := by
  induction ks generalizing l with
  | nil => simp
  | cons k r ih =>
    rw [List.foldl_cons, ih, mem_eraseAll, List.mem_cons]
    tauto

/-! Damage (R272). -/

/-- An item that takes an error is damaged, and nothing else changes (R272). -/
theorem State.damageItem_frame (s : State) (e : ErrEvent) :
    (s.damageItem e).mem = s.mem ∧ (s.damageItem e).ring = s.ring ∧ (s.damageItem e).parts = s.parts := by
  unfold State.damageItem
  extract_lets
  (repeat' split) <;> exact ⟨rfl, rfl, rfl⟩

/-- An item is among the damaged ones once it is added. -/
theorem mem_added (l : List Damage) (d : Damage) : d ∈ if l.contains d then l else l ++ [d] := by
  split
  · next h => exact List.contains_iff_mem.mp h
  · exact List.mem_append_right _ (List.mem_singleton_self d)

theorem State.damageItem_tile {e : ErrEvent} (hhub : e.hub = false) (ht : tileReason e.reason = true) :
    ⟨e.reason, e.info⟩ ∈ ((s.damageItem e).tile (locTile e.loc)).damage := by
  unfold State.damageItem
  rw [if_pos (by rw [ErrEvent.ofTile, ht, hhub]; rfl), State.tile_modTile_self]
  exact mem_added ..

theorem State.damageItem_hub {e : ErrEvent} (h : e.hub = true ∨ e.reason = 0x27) :
    ⟨e.reason, e.info⟩ ∈ ((s.damageItem e).hub e.die (e.loc % 64)).damage := by
  have htile : ¬ErrEvent.ofTile e = true := by
    rcases h with h | h
    · simp [ErrEvent.ofTile, h]
    · simp [ErrEvent.ofTile, h, tileReason]
  have hhub : ErrEvent.ofHub e = true := by
    rcases h with h | h <;> simp [ErrEvent.ofHub, h]
  unfold State.damageItem
  rw [if_neg htile, if_pos hhub, State.hub_modHub_self]
  exact mem_added ..

theorem State.damageItem_hbm {e : ErrEvent} (hhub : e.hub = false) (hr : e.reason = 0x29) :
    (s.damageItem e).hbmDamage.contains (e.info / 64 * 64) = true := by
  have htile : ¬ErrEvent.ofTile e = true := by simp [ErrEvent.ofTile, tileReason, hr]
  have hof : ¬ErrEvent.ofHub e = true := by simp [ErrEvent.ofHub, hhub, hr]
  unfold State.damageItem
  rw [if_neg htile, if_neg hof, if_pos hr]
  exact List.contains_iff_mem.mpr (mem_insertSorted.2 (Or.inl rfl))

/-- A change of a hub that leaves its damaged items leaves every hub's. -/
theorem State.damage_modHub (d h e k : Nat) {f : Hub → Hub} (hf : ∀ hb, (f hb).damage = hb.damage) :
    ((s.modHub d h f).hub e k).damage = (s.hub e k).damage := by
  by_cases hk : hubKey e k = hubKey d h
  · have hdefault (d h : Nat) : (if s.ring.started then Hub.started d h else Hub.powerOn).damage = [] := by split <;> rfl
    have hdamage (d h : Nat) : (s.hub d h).damage = ((assocGet s.hubs (hubKey d h)).map Hub.damage).getD [] := by
      rw [State.hub]
      cases assocGet s.hubs (hubKey d h) with
      | none => exact hdefault d h
      | some hb => rfl
    have hsome : (s.modHub d h f).hub e k = f (s.hub d h) := by
      rw [State.hub, State.modHub, State.setHub, hk, assocGet_assocSet_self]
      rfl
    rw [hsome, hf, hdamage, hdamage, hk]
  · rw [State.hub_modHub_other s f hk]

/-- A fault mends nothing (R269, R272). -/
theorem raiseExact_damage (cx : Cx) (f : Flt) (s : State) :
    (raiseExact cx f s).tiles = s.tiles ∧ (raiseExact cx f s).hbmDamage = s.hbmDamage ∧
      ∀ d h, ((raiseExact cx f s).hub d h).damage = (s.hub d h).damage := by
  cases hwh : cx.wh with
  | tile t k j tl q =>
    rw [raiseExact_tile f hwh]
    exact ⟨rfl, rfl, fun d h => rfl⟩
  | hub d h hb =>
    have hframe := State.hubFault_frame { s with cur := none } d h (hubRecord d h s.rmt 0 cx.pc.toNat cx.word.toNat f)
    rw [raiseExact_hub f hwh]
    refine ⟨(congrArg State.tiles hframe :), (congrArg State.hbmDamage hframe :), fun e k => ?_⟩
    rw [State.hub_hubFault]
    exact State.damage_modHub (s := { s with cur := none }) d h e k fun hb => rfl

/-- A write of a c-register mends that register and nothing else (R272). -/
theorem State.effectDue_creg_damage (s : State) (pid : Nat) (t : Coord) (bad : List Nat) (k : Side) (j : Fin 4) (r : RegNo) (v : CReg) :
    ((s.effectDue pid t bad (.creg k j r v)).tile t).damage =
      (s.tile t).damage.filter fun d => d.reason != 0x21 || d.key != regKey k j r.val := by
  simp only [State.effectDue, State.tile_modTile_self, mend]
  refine List.filter_congr fun d _ => ?_
  simp [bne, beq_eq_decide]

theorem State.respond_tiles (s : State) (src : LooseSrc) (r : Reply) : (s.respond src r).tiles = s.tiles := by
  unfold State.respond
  cases src with
  | device dev port tag gen => dsimp only; split <;> rfl
  | hub => rfl
  | channel => rfl
  | host => rfl
  | cxl => rfl

theorem State.respond_hbmDamage (s : State) (src : LooseSrc) (r : Reply) : (s.respond src r).hbmDamage = s.hbmDamage := by
  unfold State.respond
  cases src with
  | device dev port tag gen => dsimp only; split <;> rfl
  | hub => rfl
  | channel => rfl
  | host => rfl
  | cxl => rfl

/-- A loose read at a tile changes no tile (R272). -/
theorem looseTileArrival_read_tiles {a : Loose} {t : Coord} {off : Nat} (hat : space1 a.addr.toNat = some (t, off))
    (hp : s.partOf t = none) (h : s.looseAdmitted t off a = true) (hop : a.op = .read) :
    ∃ u, exec (.looseTileArrival a) s = .next u ∧ u.tiles = s.tiles := by
  refine ⟨_, looseTileArrival_performed hat hp h, ?_⟩
  rw [State.respond_tiles]
  unfold State.performTile
  rw [hop]
  cases (s.tile t).eccAt off a.size <;> rfl

theorem State.storeTile_damage (s : State) (t : Coord) (off : Nat) (l : List Byte) (tag full : Bool) :
    ((s.storeTile t off l tag full).tile t).damage =
      mend 0x20 (blocks off l.length 8) (mend 0x28 (blocks off l.length 8) (s.tile t).damage) := by
  unfold State.storeTile
  extract_lets m
  have hm : (m.tile t).damage = mend 0x20 (blocks off l.length 8) (mend 0x28 (blocks off l.length 8) (s.tile t).damage) := by
    simp only [m, State.mendTile, State.tile_modTile_self]
    rfl
  split <;> exact hm

/-- A loose write at a tile mends the words that it touches (R272). -/
theorem looseTileArrival_write_damage {a : Loose} {t : Coord} {off : Nat} (hat : space1 a.addr.toNat = some (t, off))
    (hp : s.partOf t = none) (h : s.looseAdmitted t off a = true) (hop : a.op = .write) (hlen : a.data.length = a.size) :
    ∃ u, exec (.looseTileArrival a) s = .next u ∧ ∀ d, d ∈ (u.tile t).damage ↔ d ∈ (s.tile t).damage ∧
      ¬((d.reason = 0x20 ∨ d.reason = 0x28) ∧ d.key % 8 = 0 ∧ off < d.key + 8 ∧ d.key < off + a.size) := by
  refine ⟨_, looseTileArrival_performed hat hp h, fun d => ?_⟩
  have hstore : (s.performTile t off a).1 = s.storeTile t off a.data false true := by
    simp only [State.performTile, hop]
    rw [← hlen, List.take_length]
  rw [State.tile, State.respond_tiles, ← State.tile, hstore, State.storeTile_damage, mem_mend, mem_mend, hlen,
    mem_blocks (by decide)]
  tauto

/-- A loose read of HBM leaves its damaged bursts as they are (R272). -/
theorem looseHbmAccess_read_damage {a : Loose} {hb : Nat} (hat : space2 a.addr.toNat = some hb) (hbusy : s.pcBusy (pcOf hb) = false)
    (hop : a.op = .read) : ∃ u, exec (.looseHbmAccess a) s = .next u ∧ u.hbmDamage = s.hbmDamage := by
  refine ⟨_, looseHbmAccess_performed hat hbusy, ?_⟩
  rw [State.respond_hbmDamage]
  unfold State.performHbm
  rw [hop]
  dsimp only
  split <;> rfl

/-- A loose write of HBM mends the bursts that it touches (R272). -/
theorem looseHbmAccess_write_damage {a : Loose} {hb : Nat} (hat : space2 a.addr.toNat = some hb) (hbusy : s.pcBusy (pcOf hb) = false)
    (hop : a.op = .write) :
    ∃ u, exec (.looseHbmAccess a) s = .next u ∧
      ∀ x, x ∈ u.hbmDamage ↔ x ∈ s.hbmDamage ∧ ¬(x % 64 = 0 ∧ hbmAddr hb < x + 64 ∧ x < hbmAddr hb + a.size) := by
  refine ⟨_, looseHbmAccess_performed hat hbusy, fun x => ?_⟩
  have hdamage : (s.performHbm hb a).1.hbmDamage = (blocks (hbmAddr hb) a.size 64).foldl eraseAll s.hbmDamage := by
    simp only [State.performHbm, hop]
  rw [State.respond_hbmDamage, hdamage, mem_foldl_eraseAll, mem_blocks (by decide)]

/-! The log (R333 to R335). -/

theorem State.lostWrite_rings (s : State) (r : LogRec) :
    s.besideRings ((s.logWrite r).1.modRing fun g => { g with lost := 0 }) = s := by
  have hw := s.logWrite_rings r
  generalize (s.logWrite r).1 = w at hw ⊢
  exact State.besideRings_trans hw rfl

theorem State.logLost_rings (s : State) : s.besideRings s.logLost = s := by
  unfold State.logLost
  extract_lets s1
  have hs1 : s.besideRings s1 = s := s.logTurn_rings
  clear_value s1
  split
  · split
    · exact State.besideRings_trans (State.besideRings_trans hs1 (State.lostWrite_rings _ _)) (State.logTurn_rings _)
    · exact hs1
  · rfl

theorem State.log_rings (s : State) (r : LogRec) : s.besideRings (s.log r) = s := by
  unfold State.log
  split
  · split <;> rfl
  · exact State.besideRings_trans s.logLost_rings (State.logPut_rings _ _)

/-- Before the first write of JTAIL a record is held, or counted as lost (R333, R334). -/
theorem State.log_held (r : LogRec) (hl : s.ring.latched = false) :
    s.log r = if s.ring.heldCount < 2048 then s.modRing fun g => { g with logHeld := g.logHeld ++ [r] }
      else s.modRing fun g => { g with lost := g.lost + 1 } := by
  simp [State.log, hl]

theorem State.log_latched (r : LogRec) (hl : s.ring.latched = true) (hlost : s.ring.lost = 0) : s.log r = s.logPut r := by
  simp [State.log, hl, State.logLost, hlost]

/-- A record for which the log has no room is counted (R334). -/
theorem State.logPut_full (r : LogRec) (hroom : s.ring.logRoom = false) :
    s.logPut r = s.modRing fun g => { g with lost := g.lost + 1 } := by
  have hturn : s.logTurn = s := by simp [State.logTurn, hroom]
  simp [State.logPut, hturn, hroom]

theorem State.logWrite_logtail (s : State) (r : LogRec) : (s.logWrite r).1.ring.logtail = s.ring.logtail + 1 :=
  (congrArg (fun u => u.ring.logtail + 1) (State.ringStore_frame ..) :)

/-- A record whose neighbours are no signatures stands alone (R333, R335). -/
theorem State.logPut_plain (r : LogRec) (hroom : s.ring.logRoom = true) (hn : s.ring.logtail.toNat % 4096 < 4094) :
    s.logPut r = (s.logWrite r).1 := by
  have hbefore : s.logTurn = s := State.logTurn_idle (by omega)
  have hafter : (s.logWrite r).1.logTurn = (s.logWrite r).1 := by
    refine State.logTurn_idle ?_
    rw [State.logWrite_logtail, BitVec.toNat_add]
    have := s.ring.logtail.isLt
    rw [show (1 : DWord).toNat = 1 from rfl]
    omega
  simp only [State.logPut, hbefore, hroom, if_true, hafter]

/-- The bytes that a record of the log leaves in memory (R333). -/
theorem State.read_logWrite (r : LogRec) {a : Nat} (hwf : Mem.wf s.mem = true) (hspace : spaceOf s.ring.logbase = 2)
    (ha : space2 (s.ring.logbase.toNat + 64 * (s.ring.logtail.toNat % ringSize s.ring.logsize)) = some a)
    (hbusy : s.pcBusy (pcOf a) = false) :
    Mem.read (s.logWrite r).1.mem (hbmAddr a) (s.logWrite r).2.length = (s.logWrite r).2 := by
  unfold State.logWrite
  extract_lets n prev b s1
  have hs1 : s1 = s.hbmStore a b := by
    simp only [s1, State.ringStore, n, ha, hspace]
  show Mem.read s1.mem (hbmAddr a) b.length = b
  rw [hs1, State.hbmStore_mem b hbusy]
  exact Mem.read_write_self _ _ hwf

/-! Events of storage (R333, R336). -/

/-- The records of notices that cannot be written wait (R331). -/
theorem State.flushNotices_closed (n : Nat) (h : s.noticeOpen = false) : s.flushNotices n = s := by
  cases n with
  | zero => rfl
  | succ n =>
    unfold State.flushNotices
    split
    · rfl
    · rw [h]
      rfl

/-- Before the first write of JTAIL a notice changes nothing but the notices that wait (R331). -/
theorem State.postNotice_unlatched (n : Notice) (hl : s.ring.latched = false) :
    (s.postNotice n).mem = s.mem ∧ (s.postNotice n).ring.logHeld = s.ring.logHeld := by
  unfold State.postNotice
  extract_lets s1
  have hs1 : s1.ring.latched = false ∧ s1.mem = s.mem ∧ s1.ring.logHeld = s.ring.logHeld := by
    simp only [s1]
    split <;> exact ⟨hl, rfl, rfl⟩
  rw [State.flushNotices_closed _ (by rw [State.noticeOpen, hs1.1]; rfl)]
  exact hs1.2

/-- A state whose structures' histories and pseudo-channels are others. -/
def State.withHealth (s : State) (hl : List Health) (pcs : List (Nat × PChan)) : State :=
  { s with ring := { s.ring with health := hl }, pcs := pcs }

/-- An event is logged and its structure's history kept, and a structure with no lasting fault may become lasting (R333, R336). -/
theorem State.storageEvent_cases (s : State) (e : ErrEvent) :
    ∃ hl pcs, s.storageEvent e = (s.log (errRecord e s.rmt e.kind)).withHealth hl pcs ∨
      (s.ring.healthOf e).lasting = false ∧
        s.storageEvent e = ((s.log (errRecord e s.rmt e.kind)).withHealth hl pcs).makeLasting e := by
  have hhealth : (s.log (errRecord e s.rmt e.kind)).ring.healthOf e = s.ring.healthOf e :=
    (congrArg (fun u => u.ring.healthOf e) (s.log_rings (errRecord e s.rmt e.kind)) :)
  unfold State.storageEvent
  extract_lets s1 h times now s2 s3
  have hs3 : ∃ hl pcs, s3 = s1.withHealth hl pcs := by
    simp only [s3]
    split <;> exact ⟨_, _, rfl⟩
  obtain ⟨hl, pcs, hs3⟩ := hs3
  refine ⟨hl, pcs, ?_⟩
  rw [← hs3]
  split
  · next hnow =>
    refine Or.inr ⟨?_, rfl⟩
    have : h.lasting = false := by
      simp only [now, Bool.and_eq_true, Bool.not_eq_true'] at hnow
      exact hnow.1
    rwa [← hhealth]
  · exact Or.inl rfl

/-- What a structure that becomes lasting before the first write of JTAIL leaves held (R333, R336). -/
theorem State.makeLasting_unlatched (e : ErrEvent) (hl : s.ring.latched = false) :
    ∃ l, (s.makeLasting e).ring.logHeld = s.ring.logHeld ++ l ∧ (s.makeLasting e).mem = s.mem := by
  have hlog (r : LogRec) : ∃ l, (s.log r).ring.logHeld = s.ring.logHeld ++ l ∧ (s.log r).mem = s.mem ∧
      (s.log r).ring.latched = false := by
    rw [State.log_held r hl]
    split
    · exact ⟨[r], rfl, rfl, hl⟩
    · exact ⟨[], (List.append_nil _).symm, rfl, hl⟩
  unfold State.makeLasting
  extract_lets r s1
  obtain ⟨l, hheld, hmem, hlatched⟩ := hlog r
  obtain ⟨hmem', hheld'⟩ := State.postNotice_unlatched (s := s.log r)
    { kind := 0x8002, header := 0, ticket := 0, body := (logBytes s.nextLseq r []).take 32 } hlatched
  refine ⟨l, ?_⟩
  split <;> exact ⟨hheld'.trans hheld, hmem'.trans hmem⟩

/-- An event before the first write of JTAIL is held (R333). -/
theorem State.storageEvent_held (e : ErrEvent) (hl : s.ring.latched = false) (hc : s.ring.heldCount < 2048) :
    ∃ l, (s.storageEvent e).ring.logHeld = s.ring.logHeld ++ errRecord e s.rmt e.kind :: l ∧ (s.storageEvent e).mem = s.mem := by
  obtain ⟨hh, pcs, h⟩ := s.storageEvent_cases e
  rw [State.log_held _ hl, if_pos hc] at h
  rcases h with h | ⟨-, h⟩
  · rw [h]
    exact ⟨[], rfl, rfl⟩
  · rw [h]
    obtain ⟨l, hheld, hmem⟩ := State.makeLasting_unlatched (s := State.withHealth
      (s.modRing fun g => { g with logHeld := g.logHeld ++ [errRecord e s.rmt e.kind] }) hh pcs) e hl
    exact ⟨l, hheld.trans (List.append_assoc _ _ _), hmem⟩

/-- An event of a structure that is lasting already is logged, and no more (R333, R336). -/
theorem State.storageEvent_lasting (e : ErrEvent) (h : (s.ring.healthOf e).lasting = true) :
    ∃ hl pcs, s.storageEvent e = (s.log (errRecord e s.rmt e.kind)).withHealth hl pcs := by
  obtain ⟨hl, pcs, hcase | ⟨hnot, -⟩⟩ := s.storageEvent_cases e
  · exact ⟨hl, pcs, hcase⟩
  · rw [h] at hnot
    cases hnot

/-- The record of the events lost clears their count (R334). -/
theorem State.logLost_clears (hl : s.ring.latched = true) (hlost : s.ring.lost ≠ 0) (hroom : s.ring.logRoom = true)
    (hn : s.ring.logtail.toNat % 4096 ≠ 4095) : s.logLost.ring.lost = 0 ∧ s.logLost.parts = s.parts := by
  refine ⟨?_, (congrArg State.parts s.logLost_rings :)⟩
  have hturn (x : State) : x.logTurn.ring.lost = x.ring.lost := by
    unfold State.logTurn
    split
    · exact (congrArg (fun u => u.ring.lost) (State.ringStore_frame ..) :)
    · rfl
  simp only [State.logLost, hl, hroom, State.logTurn_idle hn, bne_iff_ne, ne_eq, hlost, not_false_eq_true, Bool.true_and,
    if_true, Bool.and_true, hturn]
  rfl

/-! Notices and signatures (R331, R335). -/

theorem State.hostNotices_none (h : s.messages = []) : s.hostNotices = s := by
  simp [State.hostNotices, h]
  exact congrArg (fun l => { s with messages := l }) h.symm

theorem noticeFlush_one {n : Notice} (hm : s.messages = []) (hn : s.ring.notices = [n]) :
    exec .noticeFlush s = .next (s.flushNotices 1) := by
  show execNoticeFlush s = _
  rw [execNoticeFlush, State.hostNotices_none hm, hn]
  rfl

/-- The only notice that waits is written where it can be (R331). -/
theorem State.flushNotices_one {n : Notice} (hn : s.ring.notices = [n]) (h : s.noticeOpen = true) :
    (s.flushNotices 1).ring.notices = [] ∧ (s.flushNotices 1).ring.ntail = s.ring.ntail + 1 ∧ (s.flushNotices 1).parts = s.parts := by
  refine ⟨?_, ?_, (congrArg State.parts (s.flushNotices_frame 1) :)⟩
  · simp only [State.flushNotices, hn, h, if_true, State.modRing]
  · simp only [State.flushNotices, hn, h, if_true, State.modRing]
    exact (congrArg (fun u => u.ring.ntail + 1) (State.ringStore_frame ..) :)

theorem State.noticeOpen_iff : s.noticeOpen = true ↔ s.ring.latched = true ∧
    s.ring.ntail.toNat - s.ring.nhead.toNat < ringSize s.ring.nsize ∧
      s.ringBusy s.ring.nbase (128 * (s.ring.ntail.toNat % ringSize s.ring.nsize)) 128 = false := by
  simp only [State.noticeOpen, Bool.and_eq_true, decide_eq_true_eq, Bool.not_eq_true', and_assoc]

/-- A signature that can be written is done (R335). -/
theorem logSignatureDone_outcome {lseq : Nat} {g : Nat × Nat × Nat × List Byte}
    (hg : (s.ring.signing.find? fun x => x.1 == lseq) = some g) (hbusy : s.ringBusy s.ring.sigbase (16384 * g.2.1) 16224 = false) :
    ∃ u, exec (.logSignatureDone lseq) s = .next u ∧ (∀ x ∈ u.ring.signing, x.1 ≠ lseq) ∧ u.parts = s.parts := by
  obtain ⟨n, slot, done, b⟩ := g
  have hn : n = lseq := by simpa using List.find?_some hg
  let s1 := s.ringStore s.ring.sigbase (16384 * slot) ((List.range 16224).map (Config.signatureByte b))
  let s2 := s1.modRing fun g => { g with signing := g.signing.filter fun e => e.1 != n }
  let note : Notice := { kind := 0x8004, header := 0, ticket := 0, body := b.take 32 }
  have he : exec (.logSignatureDone lseq) s = .next (s2.postNotice note) := by
    show execLogSignatureDone lseq s = _
    simp only [execLogSignatureDone, hg]
    exact if_neg (by rw [hbusy]; decide)
  refine ⟨_, he, fun x hx => ?_, ?_⟩
  · rw [show (s2.postNotice note).ring.signing = s2.ring.signing from (congrArg (fun u => u.ring.signing) (s2.postNotice_frame note) :)] at hx
    have := (List.mem_filter.1 hx).2
    rw [← hn]
    simpa using this
  · exact (congrArg State.parts (s2.postNotice_frame note) :).trans (congrArg State.parts (s.ringStore_frame ..) :)

theorem logSignatureDone_busy {lseq : Nat} {g : Nat × Nat × Nat × List Byte}
    (hg : (s.ring.signing.find? fun x => x.1 == lseq) = some g) (hbusy : s.ringBusy s.ring.sigbase (16384 * g.2.1) 16224 = true) :
    exec (.logSignatureDone lseq) s = .next s := by
  show execLogSignatureDone lseq s = _
  simp only [execLogSignatureDone, hg]
  exact if_pos hbusy

/-! Bring-up and the spares (R328, R336, R337, R341). -/

/-- The row of a tile's strip, as the spares are counted. -/
def spareRow (t : Coord) : Nat := dieOf t * 4096 + spareNum t

/-- The outcome of bring-up when no failed tile lacks its spare (R341): its strips' spares stand in. -/
def State.spared (s : State) (failed : List Coord) : State :=
  { s.modRing (fun g =>
    { g with bootstat := 2
             logHeld := ({ rmt := s.rmt, kind := 7, reason := 0, die := 0, loc := 0, info := 0 } : LogRec) :: g.logHeld
             spare := failed.foldl (fun l t => assocSet l (spareRow t) (BitVec.ofNat 128 (2 ^ 8 + spareCol t))) g.spare }) with
    hubs := [] }

theorem firmwareVerifyDone_tested {failed : List Coord} (hboot : s.ring.bootstat = 1) :
    exec (.firmwareVerifyDone (.tested failed)) s =
      if (failed.map spareRow).any fun r => decide (1 < (failed.map spareRow).count r) || !Config.spok r then
        .next { s.modRing (fun g => { g with bootstat := 0x81 }) with hubs := [] }
      else .next (s.spared failed) := by
  have hb : (s.ring.bootstat != 1) = false := by rw [hboot]; rfl
  have he : exec (.firmwareVerifyDone (.tested failed)) s = execFirmwareVerifyDone (.tested failed) s := rfl
  rw [he, execFirmwareVerifyDone, hb]
  rfl

/-- A spare register that a column's number stands in maps that column, whatever SPOK reads as (R337). -/
theorem spareMaps_standing {c : Nat} (hc : c < 25) (b : Bool) :
    spareMaps (spareBits (BitVec.ofNat 128 (2 ^ 8 + c)) ||| (if b then 0x200#128 else 0)) c = true := by
  have hall : ∀ c < 25, ∀ b : Bool,
      spareMaps (spareBits (BitVec.ofNat 128 (2 ^ 8 + c)) ||| (if b then 0x200#128 else 0)) c = true := by decide
  exact hall c hc b

/-- Two members of a list that a function takes to one value give it twice. -/
theorem one_lt_count_map {α : Type} {f : α → Nat} {l : List α} {x y : α} (hx : x ∈ l) (hy : y ∈ l) (hne : y ≠ x) (hf : f y = f x) :
    1 < (l.map f).count (f x) := by
  have hin {z : α} {r : List α} (hz : z ∈ r) (hfz : f z = f x) : 0 < (r.map f).count (f x) :=
    List.count_pos_iff.2 (hfz ▸ List.mem_map_of_mem hz)
  induction l with
  | nil => cases hx
  | cons z r ih =>
    rw [List.map_cons, List.count_cons]
    rcases List.mem_cons.1 hx with rfl | hxr
    · have := hin ((List.mem_cons.1 hy).resolve_left hne) hf
      rw [if_pos (beq_self_eq_true _)]
      omega
    · rcases List.mem_cons.1 hy with rfl | hyr
      · have := hin hxr rfl
        rw [if_pos (beq_iff_eq.2 hf)]
        omega
      · exact Nat.lt_of_lt_of_le (ih hxr hyr) (Nat.le_add_right ..)

/-- A failed tile that has no good spare to itself ends bring-up with 0x81 (R341). -/
theorem firmwareVerifyDone_spoiled {failed : List Coord} (hboot : s.ring.bootstat = 1)
    (h : ∃ t ∈ failed, Config.spok (spareRow t) = false ∨ ∃ t' ∈ failed, t' ≠ t ∧ spareRow t' = spareRow t) :
    ∃ u, exec (.firmwareVerifyDone (.tested failed)) s = .next u ∧ u.mem = s.mem ∧ u.ring.bootstat = 0x81 ∧ u.parts = s.parts := by
  have hany : ((failed.map spareRow).any fun r => decide (1 < (failed.map spareRow).count r) || !Config.spok r) = true := by
    obtain ⟨t, ht, hbad⟩ := h
    rw [List.any_eq_true]
    refine ⟨_, List.mem_map_of_mem ht, ?_⟩
    rcases hbad with hbad | ⟨t', ht', hne, hrow⟩
    · simp [hbad]
    · simp [one_lt_count_map ht ht' hne hrow]
  refine ⟨{ s.modRing (fun g => { g with bootstat := 0x81 }) with hubs := [] }, ?_, rfl, rfl, rfl⟩
  rw [firmwareVerifyDone_tested hboot]
  exact if_pos hany

/-- Each failed tile that has a good spare to itself is stood in for by it (R341). -/
theorem firmwareVerifyDone_spared {failed : List Coord} (hboot : s.ring.bootstat = 1)
    (hgood : ∀ t ∈ failed, Config.spok (spareRow t) = true) (hown : (failed.map spareRow).Nodup) :
    ∃ u, exec (.firmwareVerifyDone (.tested failed)) s = .next u ∧ u.mem = s.mem ∧ u.ring.bootstat = 2 ∧ u.parts = s.parts ∧
      ∀ t ∈ failed, spareMaps (u.spareReg (dieOf t) (spareNum t)) (spareCol t) = true := by
  have hany : ¬((failed.map spareRow).any fun r => decide (1 < (failed.map spareRow).count r) || !Config.spok r) = true := by
    rw [List.any_eq_true]
    rintro ⟨r, hr, hbad⟩
    obtain ⟨t, ht, rfl⟩ := List.mem_map.1 hr
    have hcount := List.nodup_iff_count_le_one.1 hown (spareRow t)
    simp [hgood t ht] at hbad
    omega
  refine ⟨s.spared failed, ?_, rfl, rfl, rfl, fun t ht => ?_⟩
  · rw [firmwareVerifyDone_tested hboot]
    exact if_neg hany
  · have hget : assocGet (s.spared failed).ring.spare (dieOf t * 4096 + spareNum t) = some (BitVec.ofNat 128 (2 ^ 8 + spareCol t)) :=
      assocGet_foldl_assocSet spareRow (fun t => BitVec.ofNat 128 (2 ^ 8 + spareCol t)) failed s.ring.spare hown ht
    rw [State.spareReg, hget]
    exact spareMaps_standing (Nat.mod_lt _ (by decide)) _

/-- A queued swap whose tile is free begins (R336, R338). -/
theorem spareSwapExecute_outcome {t : Coord} (hin : t ∈ s.ring.swaps) (hfree : s.partOf t = none)
    (hno : ∀ m ∈ s.ring.remaps, m.tile ≠ some t) :
    ∃ u m, exec (.spareSwapExecute t) s = .next u ∧ u.ring.remaps = s.ring.remaps ++ [m] ∧ m.die = dieOf t ∧ m.num = spareNum t ∧
      m.tile = some t ∧ s.rmt < m.at' := by
  have hcond : (s.ring.swaps.contains t && (s.partOf t).isNone && !(s.ring.remaps.any fun m => m.tile == some t)) = true := by
    simpa [hin, hfree] using hno
  refine ⟨s.startRemap (dieOf t) (spareNum t) (s.swapValue t) none (some t), _, if_pos hcond, rfl, rfl, rfl, rfl, ?_⟩
  have hmax (l : List Nat) (a : Nat) : a ≤ l.foldl max a := by
    induction l generalizing a with
    | nil => exact le_refl a
    | cons x r ih => exact (le_max_left a x).trans (ih _)
  exact Nat.lt_of_lt_of_le (by omega) (hmax _ _)

theorem State.respond_ring (s : State) (src : LooseSrc) (r : Reply) : (s.respond src r).ring = s.ring := by
  unfold State.respond
  cases src with
  | device dev port tag gen => dsimp only; split <;> rfl
  | hub => rfl
  | channel => rfl
  | host => rfl
  | cxl => rfl

/-- A remap that is done stands in its register (R337). -/
theorem State.finishRemap_ring (s : State) (m : Remap) :
    assocGet (s.finishRemap m).ring.spare (m.die * 4096 + m.num) = some m.v ∧ m ∉ (s.finishRemap m).ring.remaps := by
  unfold State.finishRemap
  extract_lets old tiles s1 s2 t s3
  have hs2 : assocGet s2.ring.spare (m.die * 4096 + m.num) = some m.v ∧ m ∉ s2.ring.remaps := by
    refine ⟨assocGet_assocSet_self .., fun hm => ?_⟩
    have := (List.mem_filter.1 hm).2
    simp at this
  have hlog : s2.besideRings s3 = s2 := s2.log_rings _
  have hs3 : assocGet s3.ring.spare (m.die * 4096 + m.num) = some m.v ∧ m ∉ s3.ring.remaps := by
    rw [show s3.ring.spare = s2.ring.spare from (congrArg (fun u => u.ring.spare) hlog :),
      show s3.ring.remaps = s2.ring.remaps from (congrArg (fun u => u.ring.remaps) hlog :)]
    exact hs2
  split
  · exact hs3
  · split
    · exact hs3
    · rw [State.respond_ring]
      exact hs3
  · rw [State.respond_ring]
    exact hs3

theorem remapDone_outcome {die num : Nat} {m : Remap} (hm : (s.ring.remaps.find? fun x => x.die == die && x.num == num) = some m) :
    ∃ u, exec (.remapDone die num) s = .next u ∧ assocGet u.ring.spare (die * 4096 + num) = some m.v ∧ m ∉ u.ring.remaps := by
  have hkey : m.die = die ∧ m.num = num := by simpa using List.find?_some hm
  have he : exec (.remapDone die num) s = .next (s.finishRemap m) := by
    show execRemapDone die num s = _
    rw [execRemapDone, hm]
  have hring := s.finishRemap_ring m
  rw [hkey.1, hkey.2] at hring
  exact ⟨_, he, hring⟩

end

section
variable {s : State} {e : ErrEvent} (h : (s.ring.healthOf e).lasting = true)
include h

/-- An event of a lasting structure for which nothing more can be held (R333, R334). -/
theorem logAppend_unheld (hl : s.ring.latched = false) (hc : 2048 ≤ s.ring.heldCount) :
    ∃ u, exec (.logAppend e) s = .next u ∧ u.ring.logHeld = s.ring.logHeld ∧ u.ring.lost = s.ring.lost + 1 ∧ u.mem = s.mem := by
  obtain ⟨hh, pcs, he⟩ := State.storageEvent_lasting e h
  rw [State.log_held _ hl, if_neg (Nat.not_lt.2 hc)] at he
  exact ⟨_, congrArg Host.Outcome.next he, rfl, rfl, rfl⟩

/-- An event of a lasting structure for which the log has no room (R334). -/
theorem logAppend_full (hl : s.ring.latched = true) (hlost : s.ring.lost = 0) (hroom : s.ring.logRoom = false) :
    ∃ u, exec (.logAppend e) s = .next u ∧ u.ring.lost = 1 ∧ u.ring.logtail = s.ring.logtail ∧ u.mem = s.mem := by
  obtain ⟨hh, pcs, he⟩ := State.storageEvent_lasting e h
  rw [State.log_latched _ hl hlost, State.logPut_full _ hroom] at he
  exact ⟨_, congrArg Host.Outcome.next he, congrArg (· + 1) hlost, rfl, rfl⟩

/-- An event of a lasting structure is appended where the log has room (R333). -/
theorem logAppend_written (hl : s.ring.latched = true) (hlost : s.ring.lost = 0) (hroom : s.ring.logRoom = true)
    (hn : s.ring.logtail.toNat % 4096 < 4094) :
    let w := s.logWrite (errRecord e s.rmt e.kind)
    ∃ u, exec (.logAppend e) s = .next u ∧ u.ring.logtail = s.ring.logtail + 1 ∧ u.ring.prev = sha256 w.2 ∧ u.ring.lost = 0 ∧
      u.parts = s.parts ∧ u.mem = w.1.mem := by
  intro w
  obtain ⟨hh, pcs, he⟩ := State.storageEvent_lasting e h
  rw [State.log_latched _ hl hlost, State.logPut_plain _ hroom hn] at he
  refine ⟨_, congrArg Host.Outcome.next he, State.logWrite_logtail .., rfl, ?_, ?_, rfl⟩
  · exact (congrArg (fun u => u.ring.lost) (State.ringStore_frame ..) :).trans hlost
  · exact (congrArg State.parts (s.logWrite_rings (errRecord e s.rmt e.kind)) :)

end

/-- Settles O57: bring-up, damaged items, the log, notices and spares. -/
theorem bringUpLogAndSpares : Obligations.BringUpLogAndSpares := by
  unfold Obligations.BringUpLogAndSpares
  intro s
  refine ⟨fun hboot => ?_, fun hboot => ⟨?_, fun failed => ⟨firmwareVerifyDone_spoiled hboot, firmwareVerifyDone_spared hboot⟩⟩, rfl,
    fun e hl hc => ⟨?_, fun hk => ?_⟩, fun e h => ⟨logAppend_unheld h, logAppend_full h, fun hl hlost hroom hn => ?_⟩,
    fun e hk => ?_, fun cx f => raiseExact_damage cx f s, s.effectDue_creg_damage,
    fun a t off hat hp h => ⟨looseTileArrival_read_tiles hat hp h, fun hop _ => looseTileArrival_write_damage hat hp h hop⟩,
    fun a hb hat hbusy => ⟨looseHbmAccess_read_damage hat hbusy, fun hop _ _ => looseHbmAccess_write_damage hat hbusy hop⟩,
    fun hl hlost hroom hn => ⟨_, rfl, State.logLost_clears hl hlost hroom hn⟩, fun n hm hn => ⟨fun hl hr hb => ?_, fun hshut => ?_⟩,
    fun lseq g hg => ⟨logSignatureDone_outcome hg, logSignatureDone_busy hg⟩, fun t => spareSwapExecute_outcome,
    fun die num m => remapDone_outcome⟩
  · exact ⟨s.modRing fun g => { g with bootstat := 1 }, if_pos ⟨rfl, hboot⟩, rfl, rfl, rfl⟩
  · exact ⟨s.modRing fun g => { g with bootstat := 0x80 }, if_neg (by rw [hboot]; decide), rfl, rfl⟩
  · obtain ⟨l, hheld, hmem⟩ := State.storageEvent_held e hl hc
    exact ⟨_, l, rfl, hheld, hmem⟩
  · obtain ⟨l, hheld, hmem⟩ := State.storageEvent_held { e with kind := 1 } hl hc
    exact ⟨_, l, congrArg Host.Outcome.next (if_neg hk), hheld, hmem⟩
  · obtain ⟨u, he, htail, hprev, hlost', hparts, hmem⟩ := logAppend_written h hl hlost hroom hn
    refine ⟨u, he, htail, hprev, hlost', hparts, fun hwf hspace a ha hbusy => ?_⟩
    rw [hmem]
    exact State.read_logWrite _ hwf hspace ha hbusy
  · obtain ⟨hmem, hring, hparts⟩ := s.damageItem_frame e
    exact ⟨s.damageItem e, congrArg Host.Outcome.next (if_pos hk), hmem, hring, hparts, State.damageItem_tile, State.damageItem_hub,
      State.damageItem_hbm⟩
  · have hopen : s.noticeOpen = true := State.noticeOpen_iff.2 ⟨hl, hr, hb⟩
    exact ⟨_, noticeFlush_one hm hn, State.flushNotices_one hn hopen⟩
  · have hclosed : s.noticeOpen = false := by
      refine Bool.eq_false_iff.2 fun hopen => ?_
      obtain ⟨hl, hr, hb⟩ := State.noticeOpen_iff.1 hopen
      rcases hshut with h | h | h
      · rw [hl] at h
        cases h
      · exact h hr
      · cases hb.symm.trans h
    refine ⟨_, noticeFlush_one hm hn, ?_⟩
    rw [State.flushNotices_closed 1 hclosed]
    exact ⟨hn, rfl, rfl⟩

end Sys2Proof.Machine

/-! ### The device's registers -/

namespace Sys2Proof.Machine

section
variable {s : State} {v : Quad} {w : DWord}

/-! Window registers (R200, R201). -/

theorem State.writeWindow_running {t : Coord} (n : Fin 4) (w : DWord) {q : Part} (hq : s.partOf t = some q) (hform : q.form = .running) :
    s.writeWindow t n w = s.modTile t fun tl => { tl with winShadow := tl.winShadow.set n (some (winWrite w)) } := by
  simp [State.writeWindow, hq, hform]

theorem State.writeWindow_idle {t : Coord} (n : Fin 4) (w : DWord) (h : ∀ q, s.partOf t = some q → q.form ≠ .running) :
    s.writeWindow t n w =
      s.modTile t fun tl => { tl with win := tl.win.set n (winWrite w), winShadow := tl.winShadow.set n none } := by
  unfold State.writeWindow
  cases hq : s.partOf t with
  | none => rfl
  | some q => simp [h q hq]

/-! Plain registers (R216, R316, R328, R358, R369, R370). -/

theorem registerWrite_of {r : DevReg} {u : State} (h : s.writeReg r v = u) : exec (.registerWrite r v) s = .next u :=
  congrArg Host.Outcome.next h

/-- The writable bits of an edge window are those outside [67:16] (R358). -/
theorem ewinBits_eq (v : Quad) : ewinBits v = v &&& ~~~0xFFFFFFFFFFFFF0000#128 := by
  have hmask : ∀ i : Fin 128, (~~~0xFFFFFFFFFFFFF0000#128).getLsbD i.val = (decide (i.val < 16) || decide (68 ≤ i.val)) := by decide
  have hlo : bits v.toNat 15 0 < 2 ^ 68 := by
    rw [bits_zero]
    exact Nat.lt_trans (Nat.mod_lt _ (by decide)) (by decide)
  refine BitVec.eq_of_getLsbD_eq fun i hi => ?_
  rw [BitVec.getLsbD_and, hmask ⟨i, hi⟩, ewinBits, BitVec.getLsbD_ofNat, Nat.mul_comm, Nat.testBit_two_pow_mul_add _ hlo,
    bits_zero, bits, Nat.testBit_mod_two_pow, Nat.testBit_mod_two_pow, Nat.testBit_div_two_pow]
  by_cases hi68 : i < 68
  · simp [hi, hi68, Nat.not_le.2 hi68, BitVec.testBit_toNat, Bool.and_comm]
  · have h16 : ¬i < 16 := by omega
    have h60 : i - 68 < 60 := by omega
    simp [hi, hi68, h16, h60, Nat.not_lt.1 hi68, BitVec.testBit_toNat, Nat.sub_add_cancel (Nat.not_lt.1 hi68)]

theorem adescBits_eq (word : Fin 4) (w : DWord) :
    adescBits word.val w =
      w &&& (if word = 0 then ~~~0xFFF#64 else if word = 1 then ~~~7#64 else if word = 2 then 0x1FF#64 else 0) := by
  match word with
  | 0 => rfl
  | 1 => rfl
  | 2 => rfl
  | 3 => exact BitVec.and_zero.symm

/-- OPT and NEXT of a group (R370). -/
theorem gctl_fields (v : Quad) :
    BitVec.ofNat 4 (bits v.toNat 4 4) = (if (v.setWidth 64).getLsbD 4 then 1#4 else 0#4) ∧
      fin4 v.toNat = ((v.setWidth 64).setWidth 2 : BitVec 2).toFin := by
  constructor
  · have hbit : (v.setWidth 64).getLsbD 4 = v.toNat.testBit 4 := by simp [BitVec.testBit_toNat]
    rw [hbit, bits, Nat.testBit_eq_decide_div_mod_eq]
    rcases Nat.mod_two_eq_zero_or_one (v.toNat / 2 ^ 4) with h | h <;> rw [show v.toNat / 2 ^ 4 % 2 ^ (4 + 1 - 4) = _ from h, h] <;> rfl
  · rw [fin4]
    congr 1
    refine BitVec.eq_of_toNat_eq ?_
    rw [BitVec.toNat_ofNat, BitVec.toNat_setWidth, BitVec.toNat_setWidth]
    omega

/-- A port that is up takes no write but of its first register (R369). -/
theorem Port.write_up {p : Port} (h : p.up = true) {off : Nat} (hoff : off ≠ 0) (w : DWord) : p.write off w = p := by
  simp [Port.write, h, hoff]

theorem Port.write_down {p : Port} (h : p.up = false) (w : DWord) :
    p.write 0x18 w = { p with txctr := w } ∧ p.write 0x20 w = { p with rxctr := w } ∧
      p.write 0x28 w = { p with lid := w.setWidth 32 } := by
  simp [Port.write, h]

theorem State.modPort_congr {s : State} {n : Nat} {f g : Port → Port} (h : f (s.port n) = g (s.port n)) : s.modPort n f = s.modPort n g := by
  rw [State.modPort, State.modPort, h]

/-- Before the first write of JTAIL the rings' registers take what is written (R328). -/
theorem State.hostWrite_open (h : s.ring.latched = false) (w : DWord) :
    s.hostWrite 0x008 w = s.modRing (fun g => { g with devnum := w &&& 0xFFFFF#64 }) ∧
      s.hostWrite 0x010 w = s.modRing (fun g => { g with jbase := w }) ∧
      s.hostWrite 0x030 w = s.modRing (fun g => { g with nbase := w }) ∧
      s.hostWrite 0x050 w = s.modRing (fun g => { g with logbase := w }) ∧
      s.hostWrite 0x070 w = s.modRing (fun g => { g with sigbase := w }) ∧
      s.hostWrite 0x018 w = s.modRing (fun g => { g with jsize := w &&& 0x1F#64 }) ∧
      s.hostWrite 0x038 w = s.modRing (fun g => { g with nsize := w &&& 0x1F#64 }) ∧
      s.hostWrite 0x058 w = s.modRing (fun g => { g with logsize := w &&& 0x1F#64 }) := by
  simp [State.hostWrite, h]

/-- From the first write of JTAIL on they hold (R328). -/
theorem State.hostWrite_latched (h : s.ring.latched = true) (w : DWord) {off : Nat}
    (hoff : off ∈ [0x008, 0x010, 0x018, 0x030, 0x038, 0x050, 0x058, 0x070]) : s.hostWrite off w = s := by
  simp only [List.mem_cons, List.not_mem_nil, or_false] at hoff
  rcases hoff with rfl | rfl | rfl | rfl | rfl | rfl | rfl | rfl <;> simp [State.hostWrite, h]

theorem State.hostWrite_readOnly (w : DWord) {off : Nat} (hoff : off ∈ [0x028, 0x040, 0x060, 0x080, 0x098, 0x0C0, 0x0D8]) :
    s.hostWrite off w = s := by
  simp only [List.mem_cons, List.not_mem_nil, or_false] at hoff
  rcases hoff with rfl | rfl | rfl | rfl | rfl | rfl | rfl <;> rfl

/-! Translation registers (R316, R323). -/

theorem assocGet_map {α β : Type} (f : α → β) (l : List (Nat × α)) (k : Nat) :
    assocGet (l.map fun x => (x.1, f x.2)) k = (assocGet l k).map f := by
  induction l with
  | nil => rfl
  | cons x r ih =>
    obtain ⟨n, a⟩ := x
    rw [List.map_cons, assocGet, assocGet]
    split
    · rfl
    · exact ih

/-- What a write of AGEN makes of an entry (R316). -/
def agenEntry (a g : Nat) (e : Quad) : Quad := if teAsid e = a ∧ !teP e ∧ teGen e = g then teClearV e else e

/-- A write of AGEN changes the entries of each die one by one, and its own register (R316). -/
theorem State.dieX_writeAgen (s : State) (a : Nat) (w : DWord) (die : Nat) :
    (s.writeAgen a w).dieX die =
      { s.dieX die with tlb := (s.dieX die).tlb.map fun e => (e.1, agenEntry a (w.toNat % 2 ^ 32 % 2 ^ 16) e.2) } := by
  have hget := assocGet_map (fun x : DieXlate =>
    { x with tlb := x.tlb.map fun (e : Nat × Quad) => (e.1, agenEntry a (w.toNat % 2 ^ 32 % 2 ^ 16) e.2) }) s.xlate die
  rw [State.dieX, State.dieX]
  refine (congrArg (fun o => Option.getD o DieXlate.powerOn) hget).trans ?_
  cases assocGet s.xlate die <;> rfl

theorem agenWrite_outcome (s : State) (a : Nat) (w : DWord) :
    ∃ u, exec (.agenWrite a w) s = .next u ∧ u.ring.agen = assocSet s.ring.agen a (w.toNat % 2 ^ 32) ∧
      u.mem = s.mem ∧ u.parts = s.parts ∧ u.tiles = s.tiles ∧
      ∀ die, let goes (e : Quad) : Prop := teAsid e = a ∧ teP e = false ∧ teGen e = w.toNat % 2 ^ 16
        { u.dieX die with tlb := (s.dieX die).tlb } = s.dieX die ∧
        (u.dieX die).tlb.map Prod.fst = (s.dieX die).tlb.map Prod.fst ∧
        ∀ n : Nat, ∀ e, (s.dieX die).tlb[n]? = some e →
          ∃ e', (u.dieX die).tlb[n]? = some e' ∧ (goes e.2 → e'.2 = e.2 &&& ~~~(1#128 <<< 127)) ∧ (¬goes e.2 → e'.2 = e.2) := by
  have hmod : w.toNat % 2 ^ 32 % 2 ^ 16 = w.toNat % 2 ^ 16 := Nat.mod_mod_of_dvd _ (by decide)
  refine ⟨_, rfl, rfl, rfl, rfl, rfl, fun die => ?_⟩
  rw [State.dieX_writeAgen, hmod]
  refine ⟨rfl, by simp [Function.comp_def], fun n e he => ⟨(e.1, agenEntry a (w.toNat % 2 ^ 16) e.2), by simp [he], fun hg => ?_, fun hg => ?_⟩⟩
  · simp only [agenEntry, hg, Bool.not_false, and_self, if_true, teClearV]
  · exact if_neg fun h => hg ⟨h.1, by simpa using h.2.1, h.2.2⟩

/-- What waits for a request goes on, and the translation state of the dies stays (R317, R318). -/
theorem State.finishXlate_xlate (s : State) (die num reason : Nat) : (s.finishXlate die num reason).xlate = s.xlate := by
  have hrespond (u : State) (src : LooseSrc) (r : Reply) : (u.respond src r).xlate = u.xlate := by
    unfold State.respond
    cases src with
    | device dev port tag gen => dsimp only; split <;> rfl
    | hub => rfl
    | channel => rfl
    | host => rfl
    | cxl => rfl
  unfold State.finishXlate
  dsimp only
  split
  · rfl
  · split
    · rfl
    · exact hrespond _ _ _

/-- A write of XDONE ends the request of its number, if there is one (R323). -/
theorem xdoneWrite_unknown {die hub : Nat} (h : ∀ r ∈ (s.dieX die).reqs, r.num ≠ v.toNat % 2 ^ 16) :
    exec (.xdoneWrite die hub v) s = .next s := by
  have hnone : ((s.dieX die).reqs.any fun r => r.num == bits v.toNat 15 0) = false := by
    rw [bits_zero]
    simpa using h
  show execXdoneWrite die hub v s = _
  simp only [execXdoneWrite, State.xdone, hnone, Bool.false_eq_true, if_false, Option.getD_none]

theorem xdoneWrite_known {die hub : Nat} {r : XReq} (hr : r ∈ (s.dieX die).reqs) (hn : r.num = v.toNat % 2 ^ 16) :
    ∃ u, exec (.xdoneWrite die hub v) s = .next u ∧ ∀ x ∈ (u.dieX die).reqs, x.num ≠ v.toNat % 2 ^ 16 := by
  have hany : ((s.dieX die).reqs.any fun r => r.num == bits v.toNat 15 0) = true := by
    rw [bits_zero, List.any_eq_true]
    exact ⟨r, hr, by simp [hn]⟩
  let s1 := s.modDieX die fun x => { x with reqs := x.reqs.filter fun r => r.num != bits v.toNat 15 0 }
  have he : exec (.xdoneWrite die hub v) s = .next (s1.finishXlate die (bits v.toNat 15 0) (bits v.toNat 23 16)) := by
    show execXdoneWrite die hub v s = _
    simp only [execXdoneWrite, State.xdone, hany, if_true, Option.getD_some]
    rfl
  refine ⟨_, he, fun x hx => ?_⟩
  have hdie : s1.dieX die = { s.dieX die with reqs := (s.dieX die).reqs.filter fun r => r.num != bits v.toNat 15 0 } := by
    show (assocGet (assocSet s.xlate die _) die).getD _ = _
    rw [assocGet_assocSet_self]
    rfl
  rw [State.dieX, State.finishXlate_xlate, ← State.dieX, hdie] at hx
  have := (List.mem_filter.1 hx).2
  rw [bits_zero] at this
  simpa using this

/-- A write of DLOG of more records than stand there does nothing (R323). -/
theorem dlogWrite_refused {die hub : Nat} (h : (s.dieX die).dirty.length < v.toNat % 2 ^ 13) :
    exec (.dlogWrite die hub v) s = .next s := by
  show execDlogWrite die hub v s = _
  rw [← bits_zero _ 12] at h
  simp only [execDlogWrite, State.dlog, h, if_true, Option.getD_none]

theorem dlogWrite_merges {die hub : Nat} (h : v.toNat % 2 ^ 13 ≤ (s.dieX die).dirty.length)
    (hfull : ∀ r ∈ (s.dieX die).reqs, r.full = false) :
    ∃ u, exec (.dlogWrite die hub v) s = .next u ∧ (u.dieX die).dirty = (s.dieX die).dirty.drop (v.toNat % 2 ^ 13) ∧ u.mem = s.mem := by
  rw [← bits_zero _ 12] at h ⊢
  let n := bits v.toNat 12 0
  let s1 := s.modDieX die fun x => { x with dirty := x.dirty.drop n, dirtyIdx := (x.dirtyIdx + n) % 4096 }
  let s2 := s1.modRing fun g => { g with harvests := g.harvests.map (harvestStep die n) }
  have hnone : (s.dieX die).reqs.filter (fun r => r.full) = [] := by
    rw [List.filter_eq_nil_iff]
    intro r hr
    rw [hfull r hr]
    decide
  have hdlog : s.dlog die v = some s2 := by
    simp only [State.dlog, Nat.not_lt.2 h, if_false, hnone, List.foldl_nil]
    split <;> rfl
  have he : exec (.dlogWrite die hub v) s = .next s2 := by
    show execDlogWrite die hub v s = _
    rw [execDlogWrite, hdlog]
    rfl
  have hdie : s2.dieX die = { s.dieX die with dirty := (s.dieX die).dirty.drop n, dirtyIdx := ((s.dieX die).dirtyIdx + n) % 4096 } := by
    show (assocGet (assocSet s.xlate die _) die).getD _ = _
    rw [assocGet_assocSet_self]
    rfl
  exact ⟨s2, he, by rw [hdie], rfl⟩

/-- A write of a spare-map register that the rule admits begins a remap for which its hub waits (R337). -/
theorem spareMapWrite_begins {die hub num : Nat} (h : s.spareIllegal die num v = false) :
    ∃ u m, exec (.spareMapWrite die hub num v) s = .next u ∧ u.ring.remaps = s.ring.remaps ++ [m] ∧ m.die = die ∧ m.num = num ∧
      (u.hub die hub).wait = some (.remap num) := by
  refine ⟨(s.startRemap die num v (some (.hub die hub)) none).modHub die hub fun hb => { hb with wait := some (.remap num) }, _,
    if_neg (by rw [h]; decide), rfl, rfl, rfl, ?_⟩
  rw [State.hub_modHub_self]

end

/-- Settles O58: what a write of each of the device's registers does. -/
theorem deviceRegisters : Obligations.DeviceRegisters := by
  unfold Obligations.DeviceRegisters
  intro s
  refine ⟨fun t n v => ⟨fun q hq hform => congrArg Host.Outcome.next (State.writeWindow_running n v hq hform),
    fun h => congrArg Host.Outcome.next (State.writeWindow_idle n v h)⟩, fun v => ?_, agenWrite_outcome s, fun die hub v =>
    ⟨xdoneWrite_unknown, fun r => xdoneWrite_known, dlogWrite_refused, dlogWrite_merges, fun num => ⟨fun h => if_pos h, spareMapWrite_begins⟩⟩,
    fun port => ⟨_, rfl, ?_, rfl, rfl⟩⟩
  · intro w writes ring port
    refine ⟨rfl, rfl, fun n => registerWrite_of ?_, fun d h => rfl, fun n => ⟨rfl, rfl⟩, fun a word => registerWrite_of ?_,
      fun g => registerWrite_of ?_, fun n => ⟨fun hup off hoff => registerWrite_of
        (State.modPort_congr (f := fun q => q.write off w) (g := id) (Port.write_up hup hoff w)),
      fun hdown => ?_⟩, fun hopen => ?_, fun hl off hoff => registerWrite_of (State.hostWrite_latched hl w hoff),
      fun off hoff => registerWrite_of (State.hostWrite_readOnly w hoff), fun hlo hhi => registerWrite_of (if_pos ⟨hlo, hhi⟩),
      fun hlo hhi => registerWrite_of (if_pos ⟨hlo, hhi⟩)⟩
    · show { s with edge := { s.edge with ewin := assocSet s.edge.ewin n (ewinBits v) } } = _
      rw [ewinBits_eq]
    · show (s.modRing fun g => { g with adesc := assocSet g.adesc (4 * a + word.val) (adescBits word.val w) }) = _
      rw [adescBits_eq]
      rfl
    · obtain ⟨hopt, hnext⟩ := gctl_fields v
      show (s.modGroup g fun q => { q with opt := BitVec.ofNat 4 (bits v.toNat 4 4), next := fin4 v.toNat }) = _
      rw [hopt, hnext]
      rfl
    · obtain ⟨htx, hrx, hlid⟩ := Port.write_down hdown w
      exact ⟨registerWrite_of (State.modPort_congr (f := fun q => q.write 0x18 w) htx),
        registerWrite_of (State.modPort_congr (f := fun q => q.write 0x20 w) hrx),
        registerWrite_of (State.modPort_congr (f := fun q => q.write 0x28 w) hlid)⟩
    · obtain ⟨h08, h10, h30, h50, h70, h18, h38, h58⟩ := State.hostWrite_open hopen w
      exact ⟨registerWrite_of h08, registerWrite_of h10, registerWrite_of h30, registerWrite_of h50, registerWrite_of h70,
        registerWrite_of h18, registerWrite_of h38, registerWrite_of h58⟩
  · show ((assocGet (assocSet s.edge.ports port _) port).getD Port.powerOn).slackmin = _
    rw [assocGet_assocSet_self]
    rfl

end Sys2Proof.Machine

/-! ### The port groups -/

namespace Sys2Proof.Machine

section
variable {s u v : State} {g port : Nat}

theorem State.port_modPort (s : State) (p n : Nat) (f : Port → Port) :
    (s.modPort p f).port n = if n = p then f (s.port p) else s.port n := by
  show (assocGet (assocSet s.edge.ports p _) n).getD _ = _
  split
  · next h => rw [h, assocGet_assocSet_self]; rfl
  · next h => rw [assocGet_assocSet_other _ _ h]; rfl

theorem State.port_modPort_self (s : State) (p : Nat) (f : Port → Port) : (s.modPort p f).port p = f (s.port p) := by
  rw [State.port_modPort, if_pos rfl]

theorem State.group_modGroup_self (s : State) (g : Nat) (f : Group → Group) : (s.modGroup g f).group g = f (s.group g) := by
  show (assocGet (assocSet s.edge.groups g _) g).getD _ = _
  rw [assocGet_assocSet_self]
  rfl

/-! Answers of what is outstanding (R356, R368). -/

/-- A state with what the answers of requests touch as another has it: what is on its way to a source, the agenda and the ports. -/
def State.besideAnswers (s u : State) : State :=
  { u with returning := s.returning, freeCount := s.freeCount, agenda := s.agenda, edge := { u.edge with ports := s.edge.ports } }

theorem State.besideAnswers_trans (h : s.besideAnswers u = s) (h' : u.besideAnswers v = u) : s.besideAnswers v = s :=
  (show s.besideAnswers v = s.besideAnswers (u.besideAnswers v) from rfl).trans ((congrArg s.besideAnswers h').trans h)

theorem State.besideAnswers_foldl {α : Type} {f : State → α → State} (hf : ∀ (s : State) x, s.besideAnswers (f s x) = s) (l : List α)
    (s : State) : s.besideAnswers (l.foldl f s) = s := by
  induction l generalizing s with
  | nil => rfl
  | cons x r ih => exact State.besideAnswers_trans (hf s x) (ih _)

theorem State.respond_answers (s : State) (src : LooseSrc) (r : Reply) : s.besideAnswers (s.respond src r) = s := by
  unfold State.respond
  cases src with
  | device dev port tag gen => dsimp only; split <;> rfl
  | hub => rfl
  | channel => rfl
  | host => rfl
  | cxl => rfl

theorem State.answerNow_answers (s : State) (src : LooseSrc) (r : Reply) : s.besideAnswers (s.answerNow src r) = s := by
  unfold State.answerNow
  cases src with
  | device dev port tag gen => exact s.respond_answers _ r
  | hub => rfl
  | channel => rfl
  | host => rfl
  | cxl => rfl

/-- What the answers of a group's requests leave: but for them, only what has been asked through the group is gone (R368). -/
theorem State.answerGroup_outcome (s : State) (g : Nat) (r : Reply) :
    (s.answerGroup g r).mem = s.mem ∧ (s.answerGroup g r).parts = s.parts ∧ (s.answerGroup g r).edge.groups = s.edge.groups ∧
      (s.answerGroup g r).edge.outbound = s.edge.outbound.filter fun o => o.group != some g := by
  unfold State.answerGroup
  extract_lets mine edge s1
  have h : s1.besideAnswers (mine.reverse.foldl (fun s o => s.answerNow o.src r) s1) = s1 :=
    State.besideAnswers_foldl (fun s (o : Outbound) => s.answerNow_answers o.src r) _ s1
  exact ⟨(congrArg State.mem h :), (congrArg State.parts h :), (congrArg (fun u => u.edge.groups) h :),
    (congrArg (fun u => u.edge.outbound) h :)⟩

/-! The ports of a group. -/

/-- What a change of ports, one by one, leaves. -/
theorem State.foldl_modPort_frame (l : List Nat) (f : Port → Port) (s : State) :
    { l.foldl (fun s p => s.modPort p f) s with
      edge := { (l.foldl (fun s p => s.modPort p f) s).edge with ports := s.edge.ports } } = s := by
  induction l generalizing s with
  | nil => rfl
  | cons p r ih =>
    exact (congrArg (fun u : State => { u with edge := { u.edge with ports := s.edge.ports } }) (ih (s.modPort p f)) :)

theorem State.modPorts_frame (s : State) (g : Nat) (f : Port → Port) :
    { s.modPorts g f with edge := { (s.modPorts g f).edge with ports := s.edge.ports } } = s := State.foldl_modPort_frame _ f s

/-- Ports that are cut are down. -/
theorem State.foldl_cut_down (l : List Nat) (s : State) {p : Nat} (hp : p ∈ l ∨ (s.port p).up = false) :
    ((l.foldl (fun s p => s.modPort p Port.cut) s).port p).up = false := by
  induction l generalizing s with
  | nil => exact hp.resolve_left List.not_mem_nil
  | cons x r ih =>
    refine ih _ ?_
    rw [State.port_modPort]
    split
    · exact Or.inr rfl
    · next hne => exact hp.imp_left fun h => (List.mem_cons.1 h).resolve_left hne

theorem mem_groupPorts (port : Nat) : port ∈ groupPorts (port / 4) := by
  simp only [groupPorts, List.mem_cons, List.not_mem_nil, or_false]
  omega

/-- The group of a lost port is DOWN, its ports too, and the receive entries note it (R362, R367). -/
theorem State.portLost_outcome (s : State) (port : Nat) :
    ((s.portLost port).group (port / 4)).state = .down ∧ ((s.portLost port).port port).up = false ∧
      (s.portLost port).parts = s.parts.map (fun q => q.noteDown (port / 4)) ∧ (s.portLost port).mem = s.mem := by
  obtain ⟨hmem, hparts, -, -⟩ := s.answerGroup_outcome (port / 4) .pathDown
  have hcut := (s.answerGroup (port / 4) .pathDown).modPorts_frame (port / 4) Port.cut
  have hdown : (((s.answerGroup (port / 4) .pathDown).modPorts (port / 4) Port.cut).port port).up = false :=
    State.foldl_cut_down (groupPorts (port / 4)) _ (Or.inl (mem_groupPorts port))
  have hmem' := (congrArg State.mem hcut :).trans hmem
  have hparts' := (congrArg State.parts hcut :).trans hparts
  unfold State.portLost
  dsimp only at hmem' hparts' ⊢
  generalize (s.answerGroup (port / 4) .pathDown).modPorts (port / 4) Port.cut = cut at hdown hmem' hparts' ⊢
  exact ⟨congrArg Group.state (cut.group_modGroup_self (port / 4) fun x => { x with state := .down }), hdown,
    congrArg (List.map fun q => q.noteDown (port / 4)) hparts', hmem'⟩

/-! The personality switch (R367, R368, R370). -/

theorem personalitySwitchRequest_forbidden (next : Fin 4) (opt : BitVec 4) (hup : (s.group g).state ≠ .up)
    (hdown : (s.group g).state ≠ .down) :
    ∃ u, exec (.personalitySwitchRequest g next opt) s = .next u ∧ (u.group g).res = 3 ∧ (u.group g).state = (s.group g).state := by
  refine ⟨_, congrArg Host.Outcome.next (if_pos ⟨hup, hdown⟩), ?_⟩
  rw [State.group_modGroup_self]
  exact ⟨rfl, rfl⟩

theorem personalitySwitchRequest_reserved (next : Fin 4) (opt : BitVec 4) (hst : (s.group g).state = .up ∨ (s.group g).state = .down)
    (hres : s.groupReserved g = true) :
    ∃ u, exec (.personalitySwitchRequest g next opt) s = .next u ∧ (u.group g).res = 2 ∧ (u.group g).state = (s.group g).state := by
  refine ⟨_, congrArg Host.Outcome.next ((if_neg fun h => hst.elim h.1 h.2).trans (if_pos hres)), ?_⟩
  rw [State.group_modGroup_self]
  exact ⟨rfl, rfl⟩

theorem personalitySwitchRequest_down (next : Fin 4) (opt : BitVec 4) (hst : (s.group g).state = .down)
    (hres : s.groupReserved g = false) :
    ∃ u, exec (.personalitySwitchRequest g next opt) s = .next u ∧ (u.group g).state = .retrain ∧
      (u.group g).until' = s.rmt + 4800000 ∧ (u.group g).next = next ∧ (u.group g).res = 0 ∧ u.mem = s.mem ∧ u.parts = s.parts := by
  refine ⟨_, congrArg Host.Outcome.next
    ((if_neg fun h => h.2 hst).trans ((if_neg (by rw [hres]; decide)).trans (if_pos hst))), ?_⟩
  rw [State.group_modGroup_self]
  exact ⟨rfl, rfl, rfl, rfl, rfl, rfl⟩

theorem personalitySwitchRequest_up (next : Fin 4) (opt : BitVec 4) (hst : (s.group g).state = .up)
    (hres : s.groupReserved g = false) :
    ∃ u, exec (.personalitySwitchRequest g next opt) s = .next u ∧ (u.group g).state = .quiesce ∧
      (u.group g).until' = s.rmt + 1024 ∧ (u.group g).next = next ∧ u.mem = s.mem := by
  let s1 := s.modGroup g fun x => { x with next := next, opt := opt &&& 1#4, state := .quiesce, res := 0, until' := s.rmt + 1024 }
  let tell (s : State) (p : Nat) : State :=
    if (s.port p).up then s.queueFlit p ⟨s.device, (s.port p).peer, .mgmt 8 0 0 0⟩ else s
  let u := if (s.group g).pers = 0 then (groupPorts g).foldl tell s1 else s1
  have hnot : ¬((s.group g).state = .down) := by rw [hst]; decide
  have he : exec (.personalitySwitchRequest g next opt) s = .next u :=
    congrArg Host.Outcome.next ((if_neg fun h => h.1 hst).trans ((if_neg (by rw [hres]; decide)).trans (if_neg hnot)))
  have htell (s : State) (p : Nat) : s.besideAnswers (tell s p) = s := by
    simp only [tell]
    split <;> rfl
  have hu : s1.besideAnswers u = s1 := by
    simp only [u]
    split
    · exact State.besideAnswers_foldl htell _ s1
    · rfl
  have hgroup : u.group g = s1.group g := (congrArg (fun u => u.group g) hu :)
  refine ⟨u, he, ?_⟩
  rw [hgroup, State.group_modGroup_self]
  exact ⟨rfl, rfl, rfl, (congrArg State.mem hu :)⟩

theorem drainBegin_outcome (hst : (s.group g).state = .quiesce) (hat : (s.group g).until' ≤ s.rmt) :
    ∃ u, exec (.drainBegin g) s = .next u ∧ (u.group g).state = .drain ∧ (u.group g).until' = s.rmt + 240000 ∧ u.parts = s.parts ∧
      u.mem = s.mem := by
  refine ⟨_, if_pos ⟨hst, hat⟩, ?_⟩
  rw [State.group_modGroup_self]
  exact ⟨rfl, rfl, rfl, rfl⟩

/-- The end of DRAIN: GEN advances, the ports are down and nothing is outstanding through them (R367, R368). -/
theorem drainEnd_outcome (hst : (s.group g).state = .drain) (hend : (s.group g).until' ≤ s.rmt + 1 ∨ s.groupBusy g = false) :
    ∃ u, exec (.drainEnd g) s = .next u ∧
      (u.group g).state = .inval ∧ (u.group g).gen = (s.group g).gen + 1 ∧ (∀ p ∈ groupPorts g, (u.port p).up = false) ∧
      (∀ o ∈ u.edge.outbound, ∀ p, o.port = some p → p / 4 ≠ g) ∧ u.parts = s.parts ∧ u.mem = s.mem := by
  have hdrained : s.drained g = true := by
    rcases hend with h | h <;> simp [State.drained, hst, h]
  obtain ⟨hmem, hparts, hgroups, hout⟩ := s.answerGroup_outcome g .abort
  have hcut := (s.answerGroup g .abort).modPorts_frame g Port.cut
  have hgroup : ((s.answerGroup g .abort).modPorts g Port.cut).group g = s.group g :=
    (congrArg (fun u => u.group g) hcut :).trans (congrArg (fun l => (assocGet l g).getD Group.powerOn) hgroups)
  refine ⟨_, if_pos hdrained, ?_⟩
  rw [State.group_modGroup_self, hgroup]
  refine ⟨rfl, rfl, fun p hp => State.foldl_cut_down (groupPorts g) _ (Or.inl hp), fun o ho p hport => ?_,
    (congrArg State.parts hcut :).trans hparts, (congrArg State.mem hcut :).trans hmem⟩
  have hout' : ((s.answerGroup g .abort).modPorts g Port.cut).edge.outbound = s.edge.outbound.filter fun o => o.group != some g :=
    (congrArg (fun u => u.edge.outbound) hcut :).trans hout
  rw [State.modGroup_edge, hout'] at ho
  have := (List.mem_filter.1 ho).2
  simpa [Outbound.group, hport] using this

theorem retrainComplete_failed {r : TrainResult} (hst : (s.group g).state = .retrain) (hok : r.ok = false) :
    ∃ u, exec (.retrainComplete g r) s = .next u ∧ (u.group g).state = .down ∧ (u.group g).res = 4 ∧ u.edge.ports = s.edge.ports := by
  refine ⟨_, (if_neg fun h => h hst).trans (if_pos (by rw [hok]; rfl)), ?_⟩
  rw [State.group_modGroup_self]
  exact ⟨rfl, rfl, rfl⟩

theorem retrainComplete_up {r : TrainResult} (hst : (s.group g).state = .retrain) (hok : r.ok = true) :
    ∃ u, exec (.retrainComplete g r) s = .next u ∧ (u.group g).state = .up ∧ (u.group g).res = 1 ∧
      (u.group g).pers = (s.group g).next ∧ u.mem = s.mem := by
  let s1 := s.modGroup g fun x => { x with state := .up, pers := x.next, res := 1 }
  let learn (s0 : State) (t : PortTrain) : State := s0.modPort t.port fun p =>
    { p.cut with up := t.up, width := t.width, rxwidth := t.width, pport := t.pport, peer := t.peer, lat := t.lat, ofs := t.ofs,
                 sent := 0, received := 0, nextAt := 5 * s0.rmt, reducing := false, rxreducing := false }
  have hlearn := State.besideAnswers_foldl (f := learn) (fun _ _ => rfl) (r.ports.filter fun t => t.port / 4 == g) s1
  have hgroup : ((r.ports.filter fun t => t.port / 4 == g).foldl learn s1).group g = s1.group g :=
    (congrArg (fun u => u.group g) hlearn :)
  have he : exec (.retrainComplete g r) s = .next ((r.ports.filter fun t => t.port / 4 == g).foldl learn s1) := by
    refine (if_neg fun h => h hst).trans ?_
    rw [hok]
    rfl
  refine ⟨_, he, ?_⟩
  rw [hgroup, State.group_modGroup_self]
  exact ⟨rfl, rfl, rfl, (congrArg State.mem hlearn :)⟩

/-! Modes and widths (R364, R371). -/

theorem Port.agree_of {p : Port} {mode : Fin 3} (h : p.imodeNew = mode) :
    Port.agree { p with peerMode := mode } = { p with peerMode := mode, agreed := some mode } := if_pos h

theorem Port.agree_not {p : Port} {mode : Fin 3} (h : p.imodeNew ≠ mode) :
    Port.agree { p with peerMode := mode } = { p with peerMode := mode } := if_neg h

theorem Port.agree_fields (p : Port) : p.agree.imodeNew = p.imodeNew ∧ p.agree.imode = p.imode ∧
    p.agree.agreed = if p.imodeNew = p.peerMode then some p.peerMode else p.agreed := by
  unfold Port.agree
  split <;> exact ⟨rfl, rfl, rfl⟩

/-- A write of a port's mode (R371). -/
theorem Port.write_mode (p : Port) {w : DWord} {mode : Fin 3} (h : w.toNat / 2 ^ 58 % 4 = mode.val) :
    (p.write 0 w).imodeNew = mode ∧ (p.write 0 w).imode = p.imode ∧
      (p.write 0 w).agreed = if mode = p.peerMode then some mode else p.agreed := by
  have hbits : bits w.toNat 59 58 = mode.val := h
  have hlt : bits w.toNat 59 58 < 3 := hbits ▸ mode.isLt
  have hmode : (⟨bits w.toNat 59 58, hlt⟩ : Fin 3) = mode := Fin.ext hbits
  have hagree : (Port.agree { p with imodeNew := mode }).imodeNew = mode ∧ (Port.agree { p with imodeNew := mode }).imode = p.imode ∧
      (Port.agree { p with imodeNew := mode }).agreed = if mode = p.peerMode then some mode else p.agreed := by
    obtain ⟨hnew, hold, hag⟩ := Port.agree_fields { p with imodeNew := mode }
    refine ⟨hnew, hold, hag.trans ?_⟩
    show (if mode = p.peerMode then some p.peerMode else p.agreed) = _
    split
    · next h => rw [h]
    · rfl
  have hwrite : p.write 0 w = if w.getLsbD 60 && p.width == 2 then { Port.agree { p with imodeNew := mode } with reducing := true }
      else Port.agree { p with imodeNew := mode } := by
    simp only [Port.write, hlt, dif_pos, if_true, hmode]
  rw [hwrite]
  split <;> exact hagree

theorem widthReduction_receiving (hup : (s.port port).up = true) (hw : (s.port port).rxwidth = 2) :
    exec (.widthReduction ⟨port, true⟩) s = .next (s.modPort port fun p => { p with rxreducing := true }) :=
  ((if_neg (by rw [hup]; decide)).trans (if_pos rfl)).trans (congrArg Host.Outcome.next (State.modPort_congr (if_pos hw)))

theorem widthReduction_ordered (hup : (s.port port).up = true) (hr : (s.port port).reducing = false) (hw : (s.port port).width = 2) :
    exec (.widthReduction ⟨port, false⟩) s = .next (s.modPort port fun p => { p with reducing := true }) := by
  have hnot : ¬((s.port port).reducing = true ∧ (s.port port).boundary = true ∧ (s.port port).width = 2 ∧ s.flitDue port = true) := by
    rw [hr]
    exact fun h => Bool.false_ne_true h.1
  exact ((if_neg (by rw [hup]; decide)).trans ((if_neg Bool.false_ne_true).trans (if_neg hnot))).trans
    (congrArg Host.Outcome.next (State.modPort_congr (if_pos hw)))

theorem widthReduction_goes (hup : (s.port port).up = true) (hr : (s.port port).reducing = true) (hb : (s.port port).boundary = true)
    (hw : (s.port port).width = 2) (hdue : s.flitDue port = true) :
    ∃ u, exec (.widthReduction ⟨port, false⟩) s = .next u ∧ (u.port port).width = 1 ∧ (u.port port).reducing = false ∧
      (u.port port).nextAt = max (s.port port).nextAt (5 * s.rmt - 4) + 480 ∧ (u.port port).rxwidth = (s.port port).rxwidth := by
  refine ⟨_, (if_neg (by rw [hup]; decide)).trans ((if_neg Bool.false_ne_true).trans (if_pos ⟨hr, hb, hw, hdue⟩)), ?_⟩
  rw [State.port_modPort_self]
  exact ⟨rfl, rfl, rfl, rfl⟩

/-! Sending (R354, R363). -/

theorem bestFlit_none {l : List LinkFlit} (h : bestFlit l = none) : l = [] := by
  cases l with
  | nil => rfl
  | cons f r =>
    rw [bestFlit] at h
    split at h
    · cases h
    · split at h <;> cases h

section
variable (hdue : s.flitDue port = true)
  (hgo : ((s.port port).turnTx.reducing && (s.port port).turnTx.boundary && (s.port port).turnTx.width == 2) = false)
include hdue hgo

theorem linkFlitSend_eq : exec (.linkFlitSend port) s =
    let p := (s.port port).turnTx
    let base := max p.nextAt (5 * s.rmt - 4)
    let drawn : State := { s with freeCount := s.freeCount + 5 }
    let fails := crcRun 4 (s.freeCount + 1)
    if p.imode ≠ 0 ∧ p.txctr = BitVec.allOnes 64 then .next (s.portLost port)
    else if !Config.linkCredit s.freeCount then
      .next (drawn.modPort port fun _ => { p with nextAt := base + flitTime p.width s.ring.stretch })
    else if fails = 4 then .next (drawn.portLost port)
    else .next (drawn.modPort port fun _ => p.transmit ((bestFlit p.queue).getD ⟨s.device, p.peer, .idle⟩) base fails s.ring.stretch) :=
  if_neg (by rw [hdue, hgo]; decide)

theorem linkFlitSend_ended (hmode : (s.port port).turnTx.imode ≠ 0) (hctr : (s.port port).turnTx.txctr = BitVec.allOnes 64) :
    ∃ u, exec (.linkFlitSend port) s = .next u ∧ (u.group (port / 4)).state = .down :=
  ⟨_, (linkFlitSend_eq hdue hgo).trans (if_pos ⟨hmode, hctr⟩), (s.portLost_outcome port).1⟩

theorem linkFlitSend_sends (hctr : (s.port port).turnTx.imode = 0 ∨ (s.port port).turnTx.txctr ≠ BitVec.allOnes 64) :
    let p := (s.port port).turnTx
    let fails := crcRun 4 (s.freeCount + 1)
    ∃ u, exec (.linkFlitSend port) s = .next u ∧ u.mem = s.mem ∧
       (Config.linkCredit s.freeCount = true → fails < 4 → u.parts = s.parts ∧ (u.port port).sent = p.sent + 1 ∧
         (∀ f, bestFlit p.queue = some f → (u.port port).queue = p.queue.erase f) ∧
         (bestFlit p.queue = none → (u.port port).queue = p.queue) ∧ (u.port port).imode = p.imode ∧
         (u.port port).txctr = if p.imode ≠ 0 ∧ p.sent % 5 = 4 then p.txctr + 1 else p.txctr) ∧
       (Config.linkCredit s.freeCount = false → u.parts = s.parts ∧ (u.port port).sent = p.sent ∧ (u.port port).queue = p.queue) ∧
       (Config.linkCredit s.freeCount = true → fails = 4 → (u.group (port / 4)).state = .down ∧ (u.port port).up = false) := by
  intro p fails
  let base := max p.nextAt (5 * s.rmt - 4)
  let drawn : State := { s with freeCount := s.freeCount + 5 }
  have hnot : ¬(p.imode ≠ 0 ∧ p.txctr = BitVec.allOnes 64) := fun h => hctr.elim h.1 fun hne => hne h.2
  have he := (linkFlitSend_eq hdue hgo).trans (if_neg hnot)
  cases hcredit : Config.linkCredit s.freeCount with
  | false =>
    have hone := State.port_modPort_self drawn port fun _ => { p with nextAt := base + flitTime p.width s.ring.stretch }
    refine ⟨_, he.trans (if_pos (by rw [hcredit]; rfl)), rfl, (fun h => by cases h), fun _ => ⟨rfl, ?_, ?_⟩, (fun h => by cases h)⟩
    · exact (congrArg Port.sent hone :)
    · exact (congrArg Port.queue hone :)
  | true =>
    have he := he.trans (if_neg (by rw [hcredit]; decide))
    by_cases hfails : fails = 4
    · obtain ⟨hstate, hup, -, hmem⟩ := drawn.portLost_outcome port
      exact ⟨_, he.trans (if_pos hfails), hmem, fun _ hlt => absurd hfails (Nat.ne_of_lt hlt), (fun h => by cases h),
        fun _ _ => ⟨hstate, hup⟩⟩
    · let f := (bestFlit p.queue).getD ⟨s.device, p.peer, .idle⟩
      have hone := State.port_modPort_self drawn port fun _ => p.transmit f base fails s.ring.stretch
      have hqueue := congrArg Port.queue hone
      refine ⟨_, he.trans (if_neg hfails), rfl, fun _ _ => ⟨rfl, (congrArg Port.sent hone :), fun x hx => ?_, fun hx => ?_,
        (congrArg Port.imode hone :), (congrArg Port.txctr hone :)⟩, (fun h => by cases h), fun _ h => absurd h hfails⟩
      · refine hqueue.trans ?_
        show p.queue.erase f = _
        rw [show f = x by simp only [f, hx, Option.getD_some]]
      · refine hqueue.trans ?_
        show p.queue.erase f = _
        rw [bestFlit_none hx]
        rfl

end

/-! The release of a reserved slot's quads (R361, R362). -/

section
variable {pid entry : Nat} {q : Part} {e : EdgeEntry} {quad : SlotQuad} (hq : s.part pid = some q) (he : q.tt.edge[entry]? = some e)
  (hform : q.form = .running) (hat : q.releaseAt e quad.ss quad.k = some (q.cyc : Int))
include hq he hform hat

theorem edgeQuadRelease_eq : exec (.edgeQuadRelease pid entry quad) s = .next (s.release q entry e quad.ss quad.k q.cyc) := by
  show execEdgeQuadRelease pid entry quad s = _
  simp only [execEdgeQuadRelease, hq, he, hform, hat, and_self, if_true]

theorem edgeQuadRelease_present {x : EdgeQuad}
    (hx : (q.edgeIn.find? fun x => x.entry == entry && x.ss == quad.ss && x.quad == quad.k) = some x) :
    ∃ u q' a b, exec (.edgeQuadRelease pid entry quad) s = .next u ∧ u.part pid = some q' ∧ x ∉ q'.edgeIn ∧
      q'.flits = q.flits ++ [a, b] ∧ a.payload = x.v.setWidth 64 ∧ b.payload = (x.v >>> 64).setWidth 64 ∧
      a.dst = q.edgeTile e ∧ b.dst = q.edgeTile e ∧ u.mem = s.mem := by
  have hpid : q.pid = pid := by simpa using List.find?_some hq
  let s1 := s.modPort e.port fun p => { p with slackmin := slackMin p.slackmin ((q.cyc : Int) - x.at') }
  have hrel : s.release q entry e quad.ss quad.k q.cyc =
      s1.modPart pid fun q' => { (q'.releaseQuad e q.cyc x.v) with edgeIn := q'.edgeIn.filter (· != x) } := by
    simp only [State.release, hx, hpid]
    rfl
  refine ⟨_, _, _, _, (edgeQuadRelease_eq hq he hform hat).trans (congrArg Host.Outcome.next hrel),
    State.part_modPart_at (s := s1) (q := q)
      (f := fun q' => { (q'.releaseQuad e q.cyc x.v) with edgeIn := q'.edgeIn.filter (· != x) }) hq hpid, fun hin => ?_, rfl, rfl, rfl,
    rfl, rfl, rfl⟩
  have := (List.mem_filter.1 hin).2
  simp at this

theorem edgeQuadRelease_missing (hx : (q.edgeIn.find? fun x => x.entry == entry && x.ss == quad.ss && x.quad == quad.k) = none) :
    ∃ u q' f, exec (.edgeQuadRelease pid entry quad) s = .next u ∧ u.part pid = some q' ∧ q'.freezing = true ∧
      q'.faults = q.faults ++ [f] ∧ f.code = 0x13 ∧
      f.reason = if (s.port e.port).up = false ∨ ∃ d ∈ q.linkDown, d.1 = e.port ∧ quad.ss ≤ d.2 + 1 then 0x11 else 0x0A := by
  have hpid : q.pid = pid := by simpa using List.find?_some hq
  let f := unitRecord (q.edgeTile e) .access q.cyc 1 (lateFlt e.port e.slot quad.k (s.lateReason q e.port quad.ss))
  have hrel : s.release q entry e quad.ss quad.k q.cyc = s.modPart pid fun q => q.take f := by
    simp only [State.release, hx, hpid]
    rfl
  have hreason : s.lateReason q e.port quad.ss =
      if (s.port e.port).up = false ∨ ∃ d ∈ q.linkDown, d.1 = e.port ∧ quad.ss ≤ d.2 + 1 then 0x11 else 0x0A := by
    unfold State.lateReason
    refine if_congr ?_ rfl rfl
    simp
  exact ⟨_, q.take f, f, (edgeQuadRelease_eq hq he hform hat).trans (congrArg Host.Outcome.next hrel),
    State.part_modPart_at (q := q) (f := fun q => q.take f) hq ((Part.take_pid q f).trans hpid), rfl, rfl, rfl, hreason⟩

end

end

/-- Settles O59: what becomes of a port group, its ports and their reserved slots. -/
theorem portGroups : Obligations.PortGroups := by
  unfold Obligations.PortGroups
  intro g port s
  refine ⟨fun next opt => ⟨personalitySwitchRequest_forbidden next opt, personalitySwitchRequest_up next opt,
      personalitySwitchRequest_reserved next opt, personalitySwitchRequest_down next opt⟩, drainBegin_outcome, drainEnd_outcome,
    fun r hst => ⟨retrainComplete_failed hst, retrainComplete_up hst⟩, fun hst => ?_,
    ⟨fun mode => ⟨fun h => ?_, fun h => ?_, fun w => Port.write_mode _⟩,
      fun hup => ⟨widthReduction_receiving hup, widthReduction_ordered hup, widthReduction_goes hup⟩⟩,
    fun hdue hgo => ⟨linkFlitSend_ended hdue hgo, linkFlitSend_sends hdue hgo⟩,
    fun pid q entry e quad hq _ he hform hat =>
      ⟨fun x hx => edgeQuadRelease_present hq he hform hat hx, edgeQuadRelease_missing hq he hform hat⟩⟩
  · refine ⟨_, if_neg ?_, s.portLost_outcome port⟩
    rw [hst]
    decide
  · exact congrArg Host.Outcome.next (State.modPort_congr (Port.agree_of h))
  · exact congrArg Host.Outcome.next (State.modPort_congr (Port.agree_not h))

end Sys2Proof.Machine

/-! ### Flits that reach a port -/

namespace Sys2Proof.Machine

section
variable {s : State} {port : Nat} {f : WireFlit} {l : LinkFlit} {b : FlitBody}

/-- The state in which a port of receiving mode 0 has counted a flit (R363). -/
def State.took (s : State) (port : Nat) : State :=
  s.modPort port fun _ => { (s.port port).turnRx with received := (s.port port).turnRx.received + 1, groupIn := [] }

theorem Port.turnRx_up (p : Port) : p.turnRx.up = p.up := by
  unfold Port.turnRx
  split <;> rfl

/-- A port that is down loses what reaches it (R353; log entry 47). -/
theorem State.receive_down (h : (s.port port).up = false) : s.receive port f = s := by
  simp [State.receive, Port.turnRx_up, h]

theorem State.receive_open (hup : (s.port port).up = true) (hmode : (s.port port).turnRx.rxmode = 0) :
    s.receive port f = (s.took port).applyWire port f := by
  simp [State.receive, Port.turnRx_up, hup, hmode, State.took, Port.accept]

/-- A flit whose kind is an event's own is received by it (R353). -/
theorem State.receiveIf_kind {kind : FlitBody → Bool} (hb : wireBody f = some b) (hk : kind b = true) :
    s.receiveIf port f kind = s.receive port f := by
  simp [State.receiveIf, hb, hk]

theorem State.receiveIf_unlisted (kind : FlitBody → Bool) (hb : wireBody f = none) :
    s.receiveIf port f kind = s.receive port f := by
  simp [State.receiveIf, hb]

theorem wireBody_of_wireFlit (h : wireFlit f = some l) : wireBody f = some l.body := by
  obtain ⟨b, hb, rfl⟩ := Option.map_eq_some_iff.1 h
  exact hb

theorem wireBody_none (h : wireFlit f = none) : wireBody f = none := by
  simpa [wireFlit] using h

theorem State.applyWire_some (h : wireFlit f = some l) : s.applyWire port f = s.applyFlit port l := by
  rw [State.applyWire, h]

/-- What an event of a flit's own kind does on a port that is down, and on one of receiving mode 0 (R353). -/
theorem receiveIf_forms {kind : FlitBody → Bool} {P : Prop} {u : State} (h : wireFlit f = some l) (hk : P → kind l.body = true)
    (hu : P → (s.took port).applyFlit port l = u) :
    (P → (s.port port).up = false → (.next (s.receiveIf port f kind) : Out) = .next s) ∧
      (P → (s.port port).up = true ∧ (s.port port).turnRx.rxmode = 0 → (.next (s.receiveIf port f kind) : Out) = .next u) := by
  refine ⟨fun hp hdown => ?_, fun hp hopen => ?_⟩
  · rw [State.receiveIf_kind (wireBody_of_wireFlit h) (hk hp), State.receive_down hdown]
  · rw [State.receiveIf_kind (wireBody_of_wireFlit h) (hk hp), State.receive_open hopen.1 hopen.2, State.applyWire_some h, hu hp]

/-- A flit of an unlisted KIND is counted, whichever event receives it (R353). -/
theorem receiveIf_unlisted_forms (kind : FlitBody → Bool) (h : wireFlit f = none) :
    (True → (s.port port).up = false → (.next (s.receiveIf port f kind) : Out) = .next s) ∧
      (True → (s.port port).up = true ∧ (s.port port).turnRx.rxmode = 0 →
        (.next (s.receiveIf port f kind) : Out) = .next ((s.took port).drop port)) := by
  rw [State.receiveIf_unlisted kind (wireBody_none h)]
  refine ⟨fun _ hdown => by rw [State.receive_down hdown], fun _ hopen => ?_⟩
  rw [State.receive_open hopen.1 hopen.2, State.applyWire, h]

/-- What an event of a management flit's MTYPE does (R353). -/
theorem receiveMgmt_forms {mtype : Nat} {P : Prop} (h : wireFlit f = some l) (hne : mtype ≠ 9)
    (hP : P → ∃ m, (m = mtype ∨ mtype = 8 ∧ (m = 0 ∨ 9 < m)) ∧ ∃ t arg rmt, l.body = .mgmt m t arg rmt) :
    (P → (s.port port).up = false → (.next (s.receiveMgmt port f mtype) : Out) = .next s) ∧
      (P → (s.port port).up = true ∧ (s.port port).turnRx.rxmode = 0 →
        (.next (s.receiveMgmt port f mtype) : Out) = .next ((s.took port).mgmt l)) := by
  refine receiveIf_forms h (fun hp => ?_) fun hp => ?_ <;> obtain ⟨m, hm, t, arg, rmt, hb⟩ := hP hp
  · rw [hb]
    rcases hm with rfl | ⟨rfl, rfl | hlt⟩
    · simp
    · rfl
    · simp [Nat.not_le.2 hlt]
  · have h9 : m ≠ 9 := by omega
    rw [State.applyFlit, hb]
    exact if_neg h9

/-- A management flit whose MTYPE asks for nothing (R353, R367; log entry 50). -/
theorem State.mgmt_nothing {m t arg rmt : Nat} (hb : l.body = .mgmt m t arg rmt) (hm : m = 8 ∨ m = 0 ∨ 9 < m)
    (hdst : l.dst = s.device) : s.mgmt l = s := by
  unfold State.mgmt
  rw [hb]
  dsimp only
  rw [if_neg (not_not.2 hdst)]
  rcases hm with rfl | rfl | hm
  · rfl
  · rfl
  · obtain ⟨k, rfl⟩ := Nat.exists_eq_add_of_lt hm
    rw [show 9 + k + 1 = k + 10 by omega]
    rfl

/-! Slot data (R361, R363). -/

theorem isSlot_of_body {slot ss q0 : Nat} {v : List Quad} (h : wireBody f = some (.slot slot ss q0 v)) : isSlot f = true := by
  unfold wireBody at h
  dsimp only at h
  split at h
  · cases h
  · next hn => rw [isSlot, hn]; rfl
  · cases h
  · cases h
  · cases h
  · cases h

theorem State.slotData_dropped {slot ss q0 : Nat} {v : List Quad} (hb : l.body = .slot slot ss q0 v)
    (ht : s.slotTarget port l.src slot ss = none) : s.slotData port l = s.drop port := by
  simp only [State.slotData, hb, ht]

theorem State.slotData_landed {slot ss q0 : Nat} {v : List Quad} {q : Part} {e : EdgeEntry} {i : Nat}
    (hb : l.body = .slot slot ss q0 v) (ht : s.slotTarget port l.src slot ss = some (q, e, i)) (hss : q.ss ≤ ss)
    (hform : q.form = .running) :
    s.slotData port l = s.modPart q.pid fun p => { p with
      edgeIn := p.edgeIn ++ v.zipIdx.map fun (x : Quad × Nat) => ⟨i, ss, q0 + x.2, x.1, q.cycleNow s.rmt⟩ } := by
  have hfrozen : q.frozen = false := by rw [Part.frozen, hform]; rfl
  simp only [State.slotData, hb, ht, Nat.not_lt.2 hss, if_false, hfrozen, Bool.false_eq_true]

theorem State.applyFlit_slot {slot ss q0 : Nat} {v : List Quad} (hb : l.body = .slot slot ss q0 v) (hslot : slot < 2 ^ 15) :
    s.applyFlit port l = s.slotData port l := by
  rw [State.applyFlit, hb]
  exact if_neg (Nat.not_le.2 hslot)

theorem State.applyFlit_carousel {slot ss q0 : Nat} {v : List Quad} (hb : l.body = .slot slot ss q0 v) (hslot : 2 ^ 15 ≤ slot) :
    s.applyFlit port l = s.carouselData port l := by
  rw [State.applyFlit, hb]
  exact if_pos hslot

/-- On a port of receiving mode 2 slot data takes effect as it comes (R363). -/
theorem linkSlotDataFlit_skid {slot ss q0 : Nat} {v : List Quad} (h : wireFlit f = some l) (hb : l.body = .slot slot ss q0 v)
    (hslot : slot < 2 ^ 15) (hup : (s.port port).up = true) (hmode : (s.port port).turnRx.rxmode = 2) :
    exec (.linkSlotDataFlit port f) s =
      .next ((s.modPort port fun _ => ((s.port port).turnRx.accept f s.rmt).noteTaker
        (s.slotTaker port (s.port port).turnRx.received f)).slotData port l) := by
  have hbody := wireBody_of_wireFlit h
  rw [hb] at hbody
  refine congrArg Host.Outcome.next ((State.receiveIf_kind hbody (decide_eq_true hslot)).trans ?_)
  simp only [State.receive, Port.turnRx_up, hup, hmode, isSlot_of_body hbody, Bool.not_true, Bool.false_eq_true, if_false, and_self,
    if_true, State.applyWire_some h, State.applyFlit_slot hb hslot]
  rfl

/-! Requests and responses (R356). -/

theorem State.request_elsewhere {tag size : Nat} {addr cmp : DWord} {op : LooseOp} {data : List Byte}
    (hb : l.body = .request tag addr op size data cmp) (hdst : l.dst ≠ s.device) :
    s.request port l = s.respond (.device l.src port tag (s.group (port / 4)).gen.toNat) .pathDown := by
  simp only [State.request, hb]
  exact if_pos (Or.inl hdst)

theorem State.response_unknown {tag : Nat} {r : Reply} (hb : l.body = .response tag r)
    (hno : (s.edge.outbound.find? fun o => o.tag == tag && o.port == some port) = none) : s.response port l = s.drop port := by
  simp only [State.response, hb, hno]

/-! Groups (R363). -/

/-- The fifth flit of a protected group begins its verification (R363). -/
theorem linkIdleFlit_fifth (hup : (s.port port).up = true) (hmode : (s.port port).turnRx.rxmode = 1)
    (hlen : (s.port port).turnRx.groupIn.length = 4) (hb : wireBody f = some .idle) :
    ∃ u, exec (.linkIdleFlit port f) s = .next u ∧
      (u.port port).verifying = (s.port port).turnRx.verifying ++ [⟨s.rmt + 8, 1, (s.port port).turnRx.groupIn ++ [f]⟩] ∧
      (u.port port).groupIn = [] ∧ u.parts = s.parts := by
  let u := s.modPort port fun _ => (s.port port).turnRx.accept f s.rmt
  have hreceive : s.receive port f = u := by
    simp only [State.receive, Port.turnRx_up, hup, hmode, Bool.not_true, Bool.false_eq_true, if_false,
      show ¬((1 : Fin 3) = 0) by decide, show ¬((1 : Fin 3) = 2 ∧ isSlot f = true) from fun h => absurd h.1 (by decide)]
    rfl
  refine ⟨u, congrArg Host.Outcome.next ((State.receiveIf_kind hb rfl).trans hreceive), ?_⟩
  rw [State.port_modPort_self]
  simp only [Port.accept, hmode, List.length_append, hlen, show ¬((1 : Fin 3) = 0) by decide, if_false, List.length_singleton,
    if_true]
  exact ⟨trivial, trivial, rfl⟩

/-- A group whose tag agrees is released (R363). -/
theorem tagVerify_agrees {g : TagGroup} {rest : List TagGroup} (hg : (s.port port).verifying = g :: rest) (hat : g.at' ≤ s.rmt)
    (htag : groupTag (s.port port).rxkey (s.port port).lid (s.port port).rxctr g.flits = trailer (g.flits.getLastD [])) :
    let after := s.modPort port fun p => { p with verifying := rest, rxctr := p.rxctr + 1 }
    exec (.tagVerify port (s.port port).rxctr.toNat) s = .next
      ((if g.mode = 2 then g.flits.filter fun w => !isSlot w else g.flits).foldl
        (fun s w => s.applyVerified port (after.deferredAt port) w) after) := by
  show execTagVerify port _ s = _
  simp only [execTagVerify, hg, Nat.not_lt.2 hat, ne_eq, not_true_eq_false, or_self, if_false, htag, if_true]

/-- What a structure that becomes lasting leaves (R336). -/
theorem State.makeLasting_keeps (s : State) (e : ErrEvent) :
    (s.makeLasting e).edge = s.edge ∧ (s.makeLasting e).parts = s.parts := by
  unfold State.makeLasting
  extract_lets r s1
  have hs1 : s.besideRings s1 = s :=
    State.besideRings_trans (s.log_rings r) (State.besideRings_of_notices (State.postNotice_frame _ _))
  have hkeep : s1.edge = s.edge ∧ s1.parts = s.parts := ⟨(congrArg State.edge hs1 :), (congrArg State.parts hs1 :)⟩
  split <;> exact hkeep

theorem State.storageEvent_keeps (s : State) (e : ErrEvent) :
    (s.storageEvent e).edge = s.edge ∧ (s.storageEvent e).parts = s.parts := by
  have hlog := s.log_rings (errRecord e s.rmt e.kind)
  have hkeep (hl : List Health) (pcs : List (Nat × PChan)) :
      ((s.log (errRecord e s.rmt e.kind)).withHealth hl pcs).edge = s.edge ∧
        ((s.log (errRecord e s.rmt e.kind)).withHealth hl pcs).parts = s.parts :=
    ⟨(congrArg State.edge hlog :), (congrArg State.parts hlog :)⟩
  obtain ⟨hl, pcs, h | ⟨-, h⟩⟩ := s.storageEvent_cases e
  · rw [h]
    exact hkeep hl pcs
  · rw [h]
    obtain ⟨hedge, hparts⟩ := State.makeLasting_keeps ((s.log (errRecord e s.rmt e.kind)).withHealth hl pcs) e
    exact ⟨hedge.trans (hkeep hl pcs).1, hparts.trans (hkeep hl pcs).2⟩

/-- A group whose tag fails is counted and discarded, with what came after it (R363; log entry 93). -/
theorem tagVerify_fails {g : TagGroup} {rest : List TagGroup} (hg : (s.port port).verifying = g :: rest) (hat : g.at' ≤ s.rmt)
    (htag : groupTag (s.port port).rxkey (s.port port).lid (s.port port).rxctr g.flits ≠ trailer (g.flits.getLastD []))
    (hmode : g.mode ≠ 2) :
    ∃ u, exec (.tagVerify port (s.port port).rxctr.toNat) s = .next u ∧ (u.port port).verifying = [] ∧ (u.port port).groupIn = [] ∧
      (u.port port).ifail = (s.port port).ifail + 1 ∧ (u.port port).rxctr = (s.port port).rxctr ∧ u.parts = s.parts := by
  let again := 5 * (rest.length + 1) + (s.port port).groupIn.length
  let s1 := s.modPort port fun p =>
    { p with verifying := [], groupIn := [], released := [], ifail := p.ifail + 1, received := p.received - again }
  have he : exec (.tagVerify port (s.port port).rxctr.toNat) s = .next (s1.storageEvent ⟨1, 0x2A, 0, port, 0, 0, false⟩) := by
    show execTagVerify port _ s = _
    simp only [execTagVerify, hg, Nat.not_lt.2 hat, ne_eq, not_true_eq_false, or_self, if_false, htag, hmode]
    rfl
  obtain ⟨hedge, hparts⟩ := s1.storageEvent_keeps ⟨1, 0x2A, 0, port, 0, 0, false⟩
  refine ⟨_, he, ?_⟩
  have hport : (s1.storageEvent ⟨1, 0x2A, 0, port, 0, 0, false⟩).port port = s1.port port := by
    rw [State.port, hedge, State.port]
  rw [hport, State.port_modPort_self]
  exact ⟨rfl, rfl, rfl, rfl, hparts⟩

end

/-- Settles O60: what a flit does at the port that it reaches. -/
theorem receivedFlits : Obligations.ReceivedFlits := by
  unfold Obligations.ReceivedFlits
  intro port s f pt took open' form
  refine ⟨fun l h => ?_, fun h i hi => ?_, linkIdleFlit_fifth, fun g rest hg hat => ⟨tagVerify_agrees hg hat, tagVerify_fails hg hat⟩⟩
  · intro mgmt
    refine ⟨receiveIf_forms h (fun hb => by rw [hb]) fun hb => by rw [State.applyFlit, hb]; rfl, fun slot ss q0 v hb => ⟨?_, ?_,
      State.slotData_dropped hb, fun q e i => State.slotData_landed hb, linkSlotDataFlit_skid h hb⟩,
      fun tag addr op size data cmp hb => ⟨?_, State.request_elsewhere (s := took) hb⟩,
      fun tag r hb => ⟨?_, State.response_unknown (s := took) hb⟩, ?_, ?_, ?_, ?_, ?_, ?_, ?_, ?_, ?_, ?_⟩
    · exact receiveIf_forms h (fun hslot => by rw [hb]; exact decide_eq_true hslot) fun hslot => State.applyFlit_slot hb hslot
    · exact receiveIf_forms h (fun hslot => by rw [hb]; exact decide_eq_true hslot) fun hslot => State.applyFlit_carousel hb hslot
    · exact receiveIf_forms h (fun _ => by rw [hb]) fun _ => by rw [State.applyFlit, hb]; rfl
    · exact receiveIf_forms h (fun _ => by rw [hb]) fun _ => by rw [State.applyFlit, hb]; rfl
    · refine receiveIf_forms h ?_ ?_
      · rintro ⟨t, arg, rmt, hb⟩
        rw [hb]
        rfl
      · rintro ⟨t, arg, rmt, hb⟩
        rw [State.applyFlit, hb]
        rfl
    · exact receiveMgmt_forms h (by decide) fun hm => ⟨1, Or.inl rfl, hm⟩
    · exact receiveMgmt_forms h (by decide) fun hm => ⟨2, Or.inl rfl, hm⟩
    · exact receiveMgmt_forms h (by decide) fun hm => ⟨3, Or.inl rfl, hm⟩
    · exact receiveMgmt_forms h (by decide) fun hm => ⟨4, Or.inl rfl, hm⟩
    · exact receiveMgmt_forms h (by decide) fun hm => ⟨5, Or.inl rfl, hm⟩
    · exact receiveMgmt_forms h (by decide) fun hm => ⟨6, Or.inl rfl, hm⟩
    · exact receiveMgmt_forms h (by decide) fun hm => ⟨7, Or.inl rfl, hm⟩
    · refine receiveMgmt_forms h (by decide) ?_
      rintro ⟨m, hm, hmgmt⟩
      exact ⟨m, hm.imp_right fun h => ⟨rfl, h⟩, hmgmt⟩
    · rintro ⟨m, hm, t, arg, rmt, hb⟩ hdst
      exact State.mgmt_nothing (s := took) hb hm hdst
  · simp only [List.mem_cons, List.not_mem_nil, or_false] at hi
    rcases hi with rfl | rfl | rfl | rfl | rfl | rfl | rfl | rfl | rfl | rfl | rfl | rfl | rfl | rfl <;>
      exact receiveIf_unlisted_forms _ h

end Sys2Proof.Machine

/-! ### The hulls of a copy -/

namespace Sys2Proof.Machine

/-! The walk of a hull and the search in it (R253, R270). -/

/-- The address of a word of a hull before it is taken modulo 2^64. -/
def Hull.word (h : Hull) (i2 i1 i0 k : Nat) : Int :=
  h.cur + i2 * h.s2 + i1 * h.s1 + i0 * h.s0 + Nat.xor (8 * k) (i1 % 2 ^ h.swb * 2 ^ h.sws)

/-- The words of a hull in walk order. -/
def Hull.walk (h : Hull) : List Nat :=
  (List.range h.n2).flatMap fun i2 => (List.range h.n1).flatMap fun i1 => (List.range h.n0).flatMap fun i0 =>
    (List.range h.w).map fun k => (h.word i2 i1 i0 k % 2 ^ 64).toNat

/-- A hull whose swizzle keeps every word within its element. -/
def Hull.Contained (h : Hull) : Prop :=
  ∀ i1 < h.n1, ∀ k < h.w, Nat.xor (8 * k) (i1 % 2 ^ h.swb * 2 ^ h.sws) ≤ 8 * (h.w - 1)

/-- A search of a list for a word that fails `ok`: one that finds none says `Q` of every word, and where `Q` says no more than `ok`, it
is the first that fails. -/
def Finds (ok : Nat → Nat → Bool) (Q : Nat → Prop) (o : Option Nat) (l : List Nat) : Prop :=
  (o = none → ∀ x ∈ l, Q x) ∧ ((∀ x, Q x → ok x x = true) → o = l.find? fun x => !ok x x)

section
variable {ok : Nat → Nat → Bool} {Q : Nat → Prop} (hQ : ∀ lo hi, ok lo hi = true → ∀ x, lo ≤ x → x ≤ hi → Q x)

/-- A level of a search that passes over what a test of its whole range lets pass. -/
theorem Finds.level {pass : Bool} {l : List Nat} {f : Nat → Option Nat} {g : Nat → List Nat}
    (hpass : pass = true → ∀ i ∈ l, ∀ x ∈ g i, Q x) (hf : ∀ i ∈ l, Finds ok Q (f i) (g i)) :
    Finds ok Q (if pass then none else l.findSome? f) (l.flatMap g) := by
  have hflat : (∀ x ∈ l.flatMap g, Q x) ↔ ∀ i ∈ l, ∀ x ∈ g i, Q x := by
    simp only [List.mem_flatMap, forall_exists_index, and_imp]
    exact ⟨fun h i hi x hx => h x i hi hx, fun h x i hi hx => h i hi x hx⟩
  rw [Finds, hflat]
  split
  · next hp =>
    refine ⟨fun _ => hpass hp, fun hsub => (List.find?_eq_none.2 fun x hx => ?_).symm⟩
    obtain ⟨i, hi, hx⟩ := List.mem_flatMap.1 hx
    rw [hsub x (hpass hp i hi x hx)]
    decide
  · refine ⟨fun hnone i hi => (hf i hi).1 (List.findSome?_eq_none_iff.1 hnone i hi), fun hsub => ?_⟩
    rw [List.find?_flatMap]
    clear hflat hpass
    induction l with
    | nil => rfl
    | cons y r ih =>
      rw [List.findSome?_cons, List.findSome?_cons, (hf y List.mem_cons_self).2 hsub, ih fun i hi => hf i (List.mem_cons_of_mem y hi)]

include hQ

theorem rangeOk_inside {lo hi x : Int} (h : rangeOk ok lo hi = true) (hlo : lo ≤ x) (hhi : x ≤ hi) : Q (x % 2 ^ 64).toNat := by
  simp only [rangeOk, Bool.and_eq_true, decide_eq_true_eq] at h
  obtain ⟨hm, hok⟩ := h
  exact hQ _ _ hok _ (by omega) (by omega)

theorem Finds.word (a : Int) :
    Finds ok Q (if rangeOk ok a a then none else some (a % 2 ^ 64).toNat) [(a % 2 ^ 64).toNat] := by
  have hself : rangeOk ok a a = ok (a % 2 ^ 64).toNat (a % 2 ^ 64).toNat := by
    rw [rangeOk, show a - a / 2 ^ 64 * 2 ^ 64 = a % 2 ^ 64 by omega]
    simp
  rw [hself]
  generalize (a % 2 ^ 64).toNat = y
  split
  · next h =>
    refine ⟨fun _ x hx => ?_, fun _ => by simp [h]⟩
    rw [List.mem_singleton.1 hx]
    exact hQ _ _ h _ (le_refl _) (le_refl _)
  · next h => exact ⟨(fun hnone => by cases hnone), fun _ => by simp [h]⟩

omit hQ in
/-- The offsets of n steps lie between the least and the greatest. -/
theorem span_bounds {n i : Nat} (st : Int) (hi : i < n) : spanLo n st ≤ i * st ∧ i * st ≤ spanHi n st := by
  have hin : (i : Int) ≤ (n - 1 : Nat) := by omega
  have hi0 : (0 : Int) ≤ i := Int.natCast_nonneg i
  rcases le_total 0 st with h | h
  · exact ⟨(min_le_left _ _).trans (mul_nonneg hi0 h), (mul_le_mul_of_nonneg_right hin h).trans (le_max_right _ _)⟩
  · exact ⟨(min_le_right _ _).trans (mul_le_mul_of_nonpos_right hin h),
      (mul_nonpos_of_nonneg_of_nonpos hi0 h).trans (le_max_left _ _)⟩

/-- The search of a hull is a search of its walk (R253). -/
theorem Hull.firstBad_finds {h : Hull} (hc : h.Contained) : Finds ok Q (h.firstBad ok) h.walk := by
  by_cases hn1 : h.n1 = 0
  · have hwalk : h.walk = [] := by simp [Hull.walk, hn1]
    have hbad : h.firstBad ok = none := by simp [Hull.firstBad, hn1]
    rw [hwalk, hbad]
    exact ⟨(fun _ x hx => by cases hx), fun _ => rfl⟩
  have hxor {i1 k : Nat} (h1 : i1 < h.n1) (hk : k < h.w) :
      (0 : Int) ≤ Nat.xor (8 * k) (i1 % 2 ^ h.swb * 2 ^ h.sws) ∧
        (Nat.xor (8 * k) (i1 % 2 ^ h.swb * 2 ^ h.sws) : Int) ≤ 8 * (h.w - 1 : Nat) := by
    have := hc i1 h1 k hk
    omega
  unfold Hull.firstBad
  rw [if_neg hn1]
  refine Finds.level (fun hp i2 h2 x hx => ?_) fun i2 h2 => Finds.level (fun hp i1 h1 x hx => ?_) fun i1 h1 =>
    Finds.level (fun hp i0 h0 x hx => ?_) fun i0 h0 => ?_
  · rw [List.mem_range] at h2
    simp only [List.mem_flatMap, List.mem_map, List.mem_range] at hx
    obtain ⟨i1, h1, i0, h0, k, hk, rfl⟩ := hx
    have b2 := span_bounds h.s2 h2
    have b1 := span_bounds h.s1 h1
    have b0 := span_bounds h.s0 h0
    have bx := hxor h1 hk
    exact rangeOk_inside hQ hp (by rw [Hull.word]; omega) (by rw [Hull.word]; omega)
  · rw [List.mem_range] at h1
    simp only [List.mem_flatMap, List.mem_map, List.mem_range] at hx
    obtain ⟨i0, h0, k, hk, rfl⟩ := hx
    have b1 := span_bounds h.s1 h1
    have b0 := span_bounds h.s0 h0
    have bx := hxor h1 hk
    exact rangeOk_inside hQ hp (by rw [Hull.word]; omega) (by rw [Hull.word]; omega)
  · rw [List.mem_range] at h1 h0
    simp only [List.mem_map, List.mem_range] at hx
    obtain ⟨k, hk, rfl⟩ := hx
    have b0 := span_bounds h.s0 h0
    have bx := hxor h1 hk
    exact rangeOk_inside hQ hp (by rw [Hull.word]; omega) (by rw [Hull.word]; omega)
  · rw [List.mem_range] at h1
    rw [← List.flatMap_singleton' (List.map _ _), List.flatMap_map]
    refine Finds.level (fun hp k hk x hx => ?_) fun k hk => Finds.word hQ _
    rw [List.mem_range] at hk
    rw [List.mem_singleton.1 hx]
    have bx := hxor h1 hk
    exact rangeOk_inside hQ hp (by rw [Hull.word]; omega) (by rw [Hull.word]; omega)

end

/-! The record of a copy (R243, R253). -/

/-- What makes a record malformed: reserved bits, a stride that is no multiple of 8, a swizzle that leaves its element, and the fields of
an index list where there is none, or one that the list cannot have. -/
def Shape.Malformed (g : EngForm) (u : Nat → Nat → Nat) (r : Shape) : Prop :=
  512 ≤ u 0 2 ∨ (∃ i ∈ [8, 12, 16, 20, 24, 28], sextNat (u i 4) 32 % 8 ≠ 0) ∨ 2 ≤ u 40 1 ∨ 128 ≤ u 41 1 ∨ u 42 6 ≠ 0 ∨
    (r.swb = 0 ∧ r.sws ≠ 0) ∨ (r.swb ≠ 0 ∧ (r.sws < 3 ∨ 8 * r.w < 2 ^ (r.sws + r.swb))) ∨
    (g = .cpy ∧ (u 32 4 ≠ 0 ∨ u 36 4 ≠ 0 ∨ u 40 1 ≠ 0)) ∨ (g ≠ .cpy ∧ (r.ioff % r.isz ≠ 0 ∨ 512 < r.n1 * r.n2)) ∨
    ∃ i1 < r.n1, ∃ k < r.w, 8 * r.w ≤ Nat.xor (8 * k) (i1 % 2 ^ r.swb * 2 ^ r.sws)

/-- Bytes of a record that stands in memory. -/
theorem recNat_read (m : List Host.Cell) (a : Nat) {lo n : Nat} (h : lo + n ≤ 48) :
    recNat (Mem.read m a 48) lo n = Mem.readLE m (a + lo) n := by
  rw [recNat, Mem.readLE]
  congr 1
  refine List.ext_getElem (by simp [Mem.read]; omega) fun i h1 h2 => ?_
  simp [Mem.read, Nat.add_assoc]

theorem sextNat_eq_zero {x : Nat} (h : x < 2 ^ 32) : sextNat x 32 = 0 ↔ x = 0 := by
  rw [sextNat, Nat.mod_eq_of_lt h]
  split <;> omega

/-- An exclusive or with less than a block's size stays in its block. -/
theorem xor_lt_of_dvd {n x y t : Nat} (hx : x < n) (hy : y < 2 ^ t) (hn : n % 2 ^ t = 0) : Nat.xor x y < n := by
  have hdiv : (x ^^^ y) / 2 ^ t = x / 2 ^ t := by
    rw [Nat.xor_div_two_pow, Nat.div_eq_of_lt hy, Nat.xor_zero]
  obtain ⟨c, rfl⟩ := Nat.dvd_of_mod_eq_zero hn
  show x ^^^ y < 2 ^ t * c
  rw [Nat.mul_comm, ← Nat.div_lt_iff_lt_mul (Nat.two_pow_pos t), hdiv, Nat.div_lt_iff_lt_mul (Nat.two_pow_pos t), Nat.mul_comm]
  exact hx

/-- Whether a swizzle leaves its element (R244; log entry 20). -/
theorem swizzleOk_iff (r : Shape) : swizzleOk r = true ↔
    ¬((r.swb ≠ 0 ∧ 8 * r.w < 2 ^ (r.sws + r.swb)) ∨
      ∃ i1 < r.n1, ∃ k < r.w, 8 * r.w ≤ Nat.xor (8 * k) (i1 % 2 ^ r.swb * 2 ^ r.sws)) := by
  by_cases hb : r.swb = 0
  · have hstay (k : Nat) (i1 : Nat) : Nat.xor (8 * k) (i1 % 2 ^ 0 * 2 ^ r.sws) = 8 * k := by
      rw [pow_zero, Nat.mod_one, Nat.zero_mul]
      exact Nat.xor_zero _
    simp only [swizzleOk, hb, beq_self_eq_true, Bool.true_or, ne_eq, not_true_eq_false, false_and, false_or, hstay, true_iff]
    rintro ⟨-, -, k, hk, hle⟩
    omega
  · have hrows : (∃ i1 < r.n1, ∃ k < r.w, 8 * r.w ≤ Nat.xor (8 * k) (i1 % 2 ^ r.swb * 2 ^ r.sws)) ↔
        ∃ v < min r.n1 (2 ^ r.swb), ∃ k < r.w, 8 * r.w ≤ Nat.xor (8 * k) (v * 2 ^ r.sws) := by
      constructor
      · rintro ⟨i1, h1, hk⟩
        have hle := Nat.mod_le i1 (2 ^ r.swb)
        exact ⟨i1 % 2 ^ r.swb, lt_min (by omega) (Nat.mod_lt _ (Nat.two_pow_pos _)), hk⟩
      · rintro ⟨v, hv, hk⟩
        rw [lt_min_iff] at hv
        exact ⟨v, hv.1, by rwa [Nat.mod_eq_of_lt hv.2]⟩
    have hblock : 8 * r.w % 2 ^ (r.sws + r.swb) = 0 →
        ¬∃ v < min r.n1 (2 ^ r.swb), ∃ k < r.w, 8 * r.w ≤ Nat.xor (8 * k) (v * 2 ^ r.sws) := by
      rintro hmod ⟨v, hv, k, hk, hle⟩
      rw [lt_min_iff] at hv
      refine absurd (xor_lt_of_dvd (by omega) ?_ hmod) (Nat.not_lt.2 hle)
      rw [Nat.add_comm, pow_add]
      exact Nat.mul_lt_mul_of_pos_right hv.2 (Nat.two_pow_pos _)
    have hall : ((List.range (min r.n1 (2 ^ r.swb))).all fun v => (List.range r.w).all fun k =>
        decide (Nat.xor (8 * k) (v * 2 ^ r.sws) < 8 * r.w)) = true ↔
        ¬∃ v < min r.n1 (2 ^ r.swb), ∃ k < r.w, 8 * r.w ≤ Nat.xor (8 * k) (v * 2 ^ r.sws) := by
      simp only [List.all_eq_true, List.mem_range, decide_eq_true_eq]
      push Not
      rfl
    have hb' : (r.swb == 0) = false := by simpa using hb
    simp only [swizzleOk, hb', Bool.false_or, Bool.and_eq_true, Bool.or_eq_true, decide_eq_true_eq, beq_iff_eq, hall, hrows, ne_eq, hb,
      not_false_eq_true, true_and, not_or, Nat.not_lt]
    exact and_congr_right fun _ => or_iff_right_of_imp hblock

/-- The FORMAT test of a record (R243, R253). -/
theorem shapeOk_iff {g : EngForm} (hg : g = .cpy ∨ g = .cpyG ∨ g = .cpyS) (l : List Byte) :
    shapeOk g l (shapeOf l) = true ↔ ¬(shapeOf l).Malformed g (recNat l) := by
  have hsw := swizzleOk_iff (shapeOf l)
  have hidx : g.indexed = true ↔ g ≠ .cpy := by
    rcases hg with rfl | rfl | rfl <;> simp [EngForm.indexed]
  have hioff : (shapeOf l).ioff = 0 ↔ recNat l 32 4 = 0 := by
    refine sextNat_eq_zero ?_
    have := leNat_lt ((l.drop 32).take 4)
    have hlen : 2 ^ (8 * ((l.drop 32).take 4).length) ≤ 2 ^ 32 :=
      Nat.pow_le_pow_right (by decide) (by rw [List.length_take]; omega)
    exact Nat.lt_of_lt_of_le this hlen
  have hstrides : ([(shapeOf l).ss0, (shapeOf l).ss1, (shapeOf l).ss2, (shapeOf l).ds0, (shapeOf l).ds1, (shapeOf l).ds2].all
      fun v => v % 8 == 0) = true ↔ ¬∃ i ∈ [8, 12, 16, 20, 24, 28], sextNat (recNat l i 4) 32 % 8 ≠ 0 := by
    simp [shapeOf, recInt]
  have hswz : (if (shapeOf l).swb = 0 then (shapeOf l).sws == 0 else decide (3 ≤ (shapeOf l).sws)) = true ↔
      ¬(((shapeOf l).swb = 0 ∧ (shapeOf l).sws ≠ 0) ∨ ((shapeOf l).swb ≠ 0 ∧ (shapeOf l).sws < 3)) := by
    split
    · next h => simp [h]
    · next h => simp [h]
  have hlist : (if g.indexed = true then (shapeOf l).ioff % (shapeOf l).isz == 0 && decide ((shapeOf l).n1 * (shapeOf l).n2 ≤ 512)
      else (shapeOf l).ioff == 0 && (shapeOf l).lim == 0 && recNat l 40 1 == 0) = true ↔
      ¬((g = .cpy ∧ (recNat l 32 4 ≠ 0 ∨ recNat l 36 4 ≠ 0 ∨ recNat l 40 1 ≠ 0)) ∨
        (g ≠ .cpy ∧ ((shapeOf l).ioff % (shapeOf l).isz ≠ 0 ∨ 512 < (shapeOf l).n1 * (shapeOf l).n2))) := by
    split
    · next h => simp [hidx.1 h]
    · next h =>
      have hcpy : g = .cpy := not_not.1 (mt hidx.2 h)
      have hlim : (shapeOf l).lim = recNat l 36 4 := rfl
      simp [hcpy, hioff, hlim, and_assoc]
  have hreserved : (decide (recNat l 0 2 < 2 ^ 9) = true ↔ ¬512 ≤ recNat l 0 2) ∧ (decide (recNat l 40 1 < 2) = true ↔ ¬2 ≤ recNat l 40 1) ∧
      (decide (recNat l 41 1 < 2 ^ 7) = true ↔ ¬128 ≤ recNat l 41 1) ∧ ((recNat l 42 6 == 0) = true ↔ ¬recNat l 42 6 ≠ 0) := by simp
  obtain ⟨h0, h40, h41, h42⟩ := hreserved
  rw [shapeOk]
  simp only [Bool.and_eq_true, h0, h40, h41, h42, hstrides, hswz, hsw, hlist, Shape.Malformed, and_or_left (a := (shapeOf l).swb ≠ 0)]
  simp only [not_or, and_assoc]
  iterate 8 refine and_congr_right fun _ => ?_
  exact ⟨fun ⟨hx, hc, hi⟩ => ⟨hc, hi, hx⟩, fun ⟨hc, hi, hx⟩ => ⟨hx, hc, hi⟩⟩

/-! The checks of one side (R253). -/

/-- The test of a range of words by a capability's bounds. -/
def boundsOk (c : CReg) (lo hi : Nat) : Bool := decide ((decodeBounds c.data).1 ≤ lo ∧ hi + 8 ≤ (decodeBounds c.data).2)

section
variable {cx : Cx} {c : CReg} {need : BitVec 12} {h : Hull} {src indexed : Bool}

theorem Cx.checkSide_untagged (ht : c.tag = false) : cx.checkSide c need h src indexed = .error { code := 0x04, info := h.cur } := by
  simp only [Cx.checkSide, ht, Bool.not_false, if_true]
  rfl

theorem Cx.checkSide_closed (ht : c.tag = true) (hb : ¬(sealed c.data = false ∧ hasPerm c.data need = true)) :
    cx.checkSide c need h src indexed = .error { code := 0x06, info := h.cur } := by
  cases hs : sealed c.data with
  | true =>
    simp only [Cx.checkSide, ht, hs, Bool.not_true, Bool.false_eq_true, if_false, if_true]
    rfl
  | false =>
    have hp : hasPerm c.data need = false := by simpa [hs] using hb
    simp only [Cx.checkSide, ht, hs, hp, Bool.not_true, Bool.not_false, Bool.false_eq_true, if_false, if_true]
    rfl

theorem Cx.checkSide_bounds {x : Nat} (ht : c.tag = true) (hb : sealed c.data = false ∧ hasPerm c.data need = true)
    (hx : h.firstBad (boundsOk c) = some x) : cx.checkSide c need h src indexed = .error { code := 0x05, info := x } := by
  have hx' : (h.firstBad fun lo hi => decide ((decodeBounds c.data).1 ≤ lo ∧ hi + 8 ≤ (decodeBounds c.data).2)) = some x := hx
  simp only [Cx.checkSide, ht, hb.1, hb.2, Bool.not_true, Bool.false_eq_true, if_false, hx']
  rfl

theorem Cx.checkSide_misaligned (ht : c.tag = true) (hb : sealed c.data = false ∧ hasPerm c.data need = true)
    (hx : h.firstBad (boundsOk c) = none) (hn : h.n1 ≠ 0) (hm : h.cur % 8 ≠ 0) :
    cx.checkSide c need h src indexed = .error { code := 0x07, info := h.cur } := by
  have hx' : (h.firstBad fun lo hi => decide ((decodeBounds c.data).1 ≤ lo ∧ hi + 8 ≤ (decodeBounds c.data).2)) = none := hx
  have hm' : (h.cur % 8 != 0) = true := by simpa using hm
  simp only [Cx.checkSide, ht, hb.1, hb.2, Bool.not_true, Bool.false_eq_true, if_false, hx', hn, hm', if_true]
  rfl

/-- What a side that passes has passed. -/
theorem Cx.checkSide_passed {sd : SideAt} (hok : cx.checkSide c need h src indexed = .ok sd) :
    c.tag = true ∧ sealed c.data = false ∧ hasPerm c.data need = true ∧ h.firstBad (boundsOk c) = none ∧
      (h.n1 = 0 ∨ h.cur % 8 = 0) ∧ cx.sideAt h.cur = some sd ∧ checkSpacePerm c (BitVec.ofNat 64 h.cur) = .ok () ∧
      h.firstBad (cx.sideOk h.cur sd) = none := by
  have ht : c.tag = true := by
    by_contra hn
    rw [Cx.checkSide_untagged (Bool.eq_false_iff.2 hn)] at hok
    cases hok
  have hb : sealed c.data = false ∧ hasPerm c.data need = true := by
    by_contra hn
    rw [Cx.checkSide_closed ht hn] at hok
    cases hok
  have hx : h.firstBad (boundsOk c) = none := by
    by_contra hn
    obtain ⟨x, hx⟩ := Option.ne_none_iff_exists'.1 hn
    rw [Cx.checkSide_bounds ht hb hx] at hok
    cases hok
  have hm : h.n1 = 0 ∨ h.cur % 8 = 0 := by
    by_contra hn
    rw [not_or] at hn
    rw [Cx.checkSide_misaligned ht hb hx hn.1 hn.2] at hok
    cases hok
  have hx' : (h.firstBad fun lo hi => decide ((decodeBounds c.data).1 ≤ lo ∧ hi + 8 ≤ (decodeBounds c.data).2)) = none := hx
  simp only [Cx.checkSide, ht, hb.1, hb.2, Bool.not_true, Bool.false_eq_true, if_false, hx'] at hok
  refine ⟨ht, hb.1, hb.2, hx, hm, ?_⟩
  split at hok
  · cases hok
  · split at hok
    · cases hok
    · cases hok
    · next sd' hperm hat =>
      split at hok
      · cases hok
      · split at hok
        · cases hok
        · next hspace =>
          cases hok
          exact ⟨hat, hperm, hspace⟩

/-- The space of a side that passes: its cursor's, which is not space 0 only with GLB (R196). -/
theorem Cx.checkSide_glb {sd : SideAt} (hcur : h.cur < 2 ^ 64) (hat : cx.sideAt h.cur = some sd)
    (hperm : checkSpacePerm c (BitVec.ofNat 64 h.cur) = .ok ()) (hne : h.cur / 2 ^ 60 ≠ 0) : hasPerm c.data 0x200 = true := by
  have hsp : spaceOf (BitVec.ofNat 64 h.cur) = h.cur / 2 ^ 60 := by
    rw [spaceOf, BitVec.toNat_ofNat, Nat.mod_eq_of_lt hcur]
  have h6 : h.cur / 2 ^ 60 ≤ 6 := by
    by_contra hgt
    unfold Cx.sideAt at hat
    split at hat
    iterate 7 omega
    cases hat
  by_contra hn
  rw [checkSpacePerm, hsp, if_pos ⟨by omega, h6, by rw [show hasPerm c.data pGLB = false from Bool.eq_false_iff.2 hn]; rfl⟩] at hperm
  cases hperm

/-- A side in the issuer's own space lies in space 0. -/
theorem Cx.sideAt_own {a : Nat} (h : cx.sideAt a = some .own) : a / 2 ^ 60 = 0 := by
  unfold Cx.sideAt at h
  split at h
  · assumption
  · split at h
    · cases h
    · split at h <;> cases h
    · cases h
  · split at h
    · cases h
    · split at h <;> cases h
    · cases h
  · split at h <;> cases h
  · cases h
  · split at h <;> cases h
  · split at h <;> cases h
  · cases h

theorem pathOf_own {sa da : Nat} {s d : SideAt} {p : Path} (h : pathOf s d sa da = .ok p) : s = .own ∨ d = .own := by
  unfold pathOf at h
  split at h
  iterate 4 exact Or.inl rfl
  iterate 3 exact Or.inr rfl
  cases h

/-- A range test by bounds, word by word. -/
theorem boundsOk_inside (c : CReg) : ∀ lo hi, boundsOk c lo hi = true → ∀ x, lo ≤ x → x ≤ hi → boundsOk c x x = true := by
  intro lo hi hok x hlo hhi
  simp only [boundsOk, decide_eq_true_eq] at hok ⊢
  omega

/-- A range test by space, word by word. -/
theorem Cx.sideOk_inside (cx : Cx) (a : Nat) (sd : SideAt) :
    ∀ lo hi, cx.sideOk a sd lo hi = true → ∀ x, lo ≤ x → x ≤ hi → x / 2 ^ 60 = a / 2 ^ 60 := by
  intro lo hi hok x hlo hhi
  simp only [Cx.sideOk, Bool.and_eq_true, beq_iff_eq] at hok
  obtain ⟨⟨hl, hh⟩, -⟩ := hok
  have := Nat.div_le_div_right (c := 2 ^ 60) hlo
  have := Nat.div_le_div_right (c := 2 ^ 60) hhi
  omega

/-- The faults of a side, where the command is decided by its checks (R253, R270). -/
theorem side_faults {run : Chk Cmd} (hrun : ∀ f, cx.checkSide c need h src indexed = .error f → run = .error f) (hc : h.Contained) :
    (c.tag = false → run = .error { code := 0x04, info := h.cur }) ∧
      (c.tag = true → ¬(sealed c.data = false ∧ hasPerm c.data need = true) → run = .error { code := 0x06, info := h.cur }) ∧
      (∀ x, c.tag = true → (sealed c.data = false ∧ hasPerm c.data need = true) →
        h.walk.find? (fun x => !boundsOk c x x) = some x → run = .error { code := 0x05, info := x }) ∧
      (c.tag = true → (sealed c.data = false ∧ hasPerm c.data need = true) → h.walk.find? (fun x => !boundsOk c x x) = none →
        h.n1 ≠ 0 → h.cur % 8 ≠ 0 → run = .error { code := 0x07, info := h.cur }) := by
  have hfirst := (Hull.firstBad_finds (boundsOk_inside c) hc).2 fun _ hx => hx
  rw [← hfirst]
  exact ⟨fun ht => hrun _ (Cx.checkSide_untagged ht), fun ht hb => hrun _ (Cx.checkSide_closed ht hb),
    fun x ht hb hx => hrun _ (Cx.checkSide_bounds ht hb hx), fun ht hb hx hn hm => hrun _ (Cx.checkSide_misaligned ht hb hx hn hm)⟩

/-- Every word of a side that passes lies inside its bounds and in its space (R253). -/
theorem side_words {sd : SideAt} (hok : cx.checkSide c need h src indexed = .ok sd) (hc : h.Contained) :
    ∀ x ∈ h.walk, ((decodeBounds c.data).1 ≤ x ∧ x + 8 ≤ (decodeBounds c.data).2) ∧ x / 2 ^ 60 = h.cur / 2 ^ 60 := by
  obtain ⟨-, -, -, hbounds, -, -, -, hspace⟩ := Cx.checkSide_passed hok
  intro x hx
  have hin := (Hull.firstBad_finds (boundsOk_inside c) hc).1 hbounds x hx
  exact ⟨by simpa [boundsOk] using hin, (Hull.firstBad_finds (cx.sideOk_inside h.cur sd) hc).1 hspace x hx⟩

end

/-! The checks of a copy in their order (R253). -/

/-- The command that a copy forms of a well-formed record and its index list, or the fault of one of its sides. -/
def Cx.copySides (cx : Cx) (g : EngForm) (r : Shape) (idx : List Nat) (ca cd : CReg) : Chk Cmd :=
  match cx.checkSide ca 0x401 (shapeHull r ca false (g == .cpyG)) true (g == .cpyG) with
  | .error f => .error f
  | .ok ss =>
    match cx.checkSide cd 0x402 (shapeHull r cd true (g == .cpyS)) false (g == .cpyS) with
    | .error f => .error f
    | .ok sd =>
      match pathOf ss sd (capCur ca.data).toNat (capCur cd.data).toNat with
      | .error f => .error f
      | .ok path =>
        .ok { form := g, shape := r, idx := idx, src := ca, dst := cd, path := path, issued := cx.n, start := none, last := none,
              first := 0, burst := 0, tr := [], entry := 0, n := 0 }

section
variable {g : EngForm} {cx : Cx} {m : List Host.Cell} {cd ca cb : CReg} {o io : Nat}

theorem copyCmd_span {f : Flt} (h : checkSpan cb 0 48 0x001 16 0 0x8000 = .error f) : copyCmd g cx m cd ca cb = .error f := by
  have h : checkSpan cb 0 48 pLD 16 0 0x8000 = .error f := h
  simp only [copyCmd, h]

theorem copyCmd_ecc {f : Flt} (ho : checkSpan cb 0 48 0x001 16 0 0x8000 = .ok o) (h : cx.ownEcc o 48 = some f) :
    copyCmd g cx m cd ca cb = .error f := by
  have ho : checkSpan cb 0 48 pLD 16 0 0x8000 = .ok o := ho
  simp only [copyCmd, ho, h]

section
variable (ho : checkSpan cb 0 48 0x001 16 0 0x8000 = .ok o) (hecc : cx.ownEcc o 48 = none)
include ho hecc

theorem copyCmd_malformed (h : shapeOk g (Mem.read m (cx.fetchAddr o) 48) (shapeOf (Mem.read m (cx.fetchAddr o) 48)) = false) :
    copyCmd g cx m cd ca cb = .error { code := 0x02 } := by
  have ho : checkSpan cb 0 48 pLD 16 0 0x8000 = .ok o := ho
  simp only [copyCmd, ho, hecc, h, Bool.not_false, if_true]
  rfl

variable {r : Shape} (hr : shapeOf (Mem.read m (cx.fetchAddr o) 48) = r)
  (hshape : shapeOk g (Mem.read m (cx.fetchAddr o) 48) r = true)
include hr hshape

theorem copyCmd_list {f : Flt} (hg : g.indexed = true)
    (h : checkSpan cb r.ioff (r.isz * (r.n1 * r.n2)) 0x001 r.isz 0 0x8000 = .error f) : copyCmd g cx m cd ca cb = .error f := by
  have ho : checkSpan cb 0 48 pLD 16 0 0x8000 = .ok o := ho
  have h : checkSpan cb r.ioff (r.isz * (r.n1 * r.n2)) pLD r.isz 0 0x8000 = .error f := h
  simp only [copyCmd, ho, hecc, hr, hshape, Bool.not_true, Bool.false_eq_true, if_false, hg, if_true, h]

/-- A copy whose record and list pass is decided by its sides. -/
theorem copyCmd_sides (hlist : g.indexed = true → checkSpan cb r.ioff (r.isz * (r.n1 * r.n2)) 0x001 r.isz 0 0x8000 = .ok io ∧
      cx.ownEcc io (r.isz * (r.n1 * r.n2)) = none) :
    copyCmd g cx m cd ca cb = cx.copySides g r
      (if g.indexed then (List.range (r.n1 * r.n2)).map fun i => Mem.readLE m (cx.fetchAddr io + r.isz * i) r.isz else []) ca cd := by
  have ho : checkSpan cb 0 48 pLD 16 0 0x8000 = .ok o := ho
  cases hg : g.indexed with
  | false =>
    simp only [copyCmd, ho, hecc, hr, hshape, Bool.not_true, Bool.false_eq_true, if_false, hg]
    rfl
  | true =>
    obtain ⟨hspan, hecc'⟩ := hlist hg
    have hspan : checkSpan cb r.ioff (r.isz * (r.n1 * r.n2)) pLD r.isz 0 0x8000 = .ok io := hspan
    simp only [copyCmd, ho, hecc, hr, hshape, Bool.not_true, Bool.false_eq_true, if_false, hg, if_true, hspan, hecc']
    rfl

end

section
variable {r : Shape} {idx : List Nat}

theorem Cx.copySides_source {f : Flt}
    (h : cx.checkSide ca 0x401 (shapeHull r ca false (g == .cpyG)) true (g == .cpyG) = .error f) :
    cx.copySides g r idx ca cd = .error f := by
  simp only [Cx.copySides, h]

theorem Cx.copySides_destination {ss : SideAt} {f : Flt}
    (hs : cx.checkSide ca 0x401 (shapeHull r ca false (g == .cpyG)) true (g == .cpyG) = .ok ss)
    (h : cx.checkSide cd 0x402 (shapeHull r cd true (g == .cpyS)) false (g == .cpyS) = .error f) :
    cx.copySides g r idx ca cd = .error f := by
  simp only [Cx.copySides, hs, h]

/-- What a copy that passes has passed, and the command that it forms. -/
theorem Cx.copySides_passed {cmd : Cmd} (h : cx.copySides g r idx ca cd = .ok cmd) :
    ∃ ss sd path, cx.checkSide ca 0x401 (shapeHull r ca false (g == .cpyG)) true (g == .cpyG) = .ok ss ∧
      cx.checkSide cd 0x402 (shapeHull r cd true (g == .cpyS)) false (g == .cpyS) = .ok sd ∧ (ss = .own ∨ sd = .own) ∧
      cmd = { form := g, shape := r, idx := idx, src := ca, dst := cd, path := path, issued := cx.n, start := none, last := none,
              first := 0, burst := 0, tr := [], entry := 0, n := 0 } := by
  unfold Cx.copySides at h
  split at h
  · cases h
  · next ss hs =>
    split at h
    · cases h
    · next sd hd =>
      split at h
      · cases h
      · next path hp =>
        cases h
        exact ⟨ss, sd, path, hs, hd, pathOf_own hp, rfl⟩

end

end

/-! The words of a copy (R244, R245). -/

theorem Hull.mem_walk {h : Hull} {i2 i1 i0 k : Nat} (h2 : i2 < h.n2) (h1 : i1 < h.n1) (h0 : i0 < h.n0) (hk : k < h.w) :
    (h.word i2 i1 i0 k % 2 ^ 64).toNat ∈ h.walk := by
  simp only [Hull.walk, List.mem_flatMap, List.mem_map, List.mem_range]
  exact ⟨i2, h2, i1, h1, i0, h0, k, hk, rfl⟩

/-- The multiples of 8 that a swizzle leaves are multiples of 8. -/
theorem xor_mod_eight {r : Shape} (hsw : r.swb = 0 ∨ 3 ≤ r.sws) (k i1 : Nat) :
    Nat.xor (8 * k) (i1 % 2 ^ r.swb * 2 ^ r.sws) % 8 = 0 := by
  have hright : i1 % 2 ^ r.swb * 2 ^ r.sws % 2 ^ 3 = 0 := by
    rcases hsw with h | h
    · rw [h, pow_zero, Nat.mod_one, Nat.zero_mul]
      rfl
    · exact Nat.mod_eq_zero_of_dvd (Dvd.dvd.mul_left (pow_dvd_pow 2 h) _)
  show (8 * k ^^^ _) % 2 ^ 3 = 0
  rw [Nat.xor_mod_two_pow, hright, Nat.mul_mod_right]
  rfl

theorem toNat_emod_eight {a : Int} (h : a % 8 = 0) : (a % 2 ^ 64).toNat % 8 = 0 := by omega

theorem mul_emod_eight {s : Int} (i : Nat) (h : s % 8 = 0) : (i * s : Int) % 8 = 0 :=
  Int.emod_eq_zero_of_dvd (Dvd.dvd.mul_left (Int.dvd_of_emod_eq_zero h) _)

/-- What a record that is not malformed has. -/
theorem Shape.sound {g : EngForm} {l : List Byte} (h : ¬(shapeOf l).Malformed g (recNat l)) :
    ((shapeOf l).ss0 % 8 = 0 ∧ (shapeOf l).ss1 % 8 = 0 ∧ (shapeOf l).ss2 % 8 = 0) ∧
      ((shapeOf l).ds0 % 8 = 0 ∧ (shapeOf l).ds1 % 8 = 0 ∧ (shapeOf l).ds2 % 8 = 0) ∧
      ((shapeOf l).swb = 0 ∨ 3 ≤ (shapeOf l).sws) ∧
      ∀ i1 < (shapeOf l).n1, ∀ k < (shapeOf l).w,
        Nat.xor (8 * k) (i1 % 2 ^ (shapeOf l).swb * 2 ^ (shapeOf l).sws) ≤ 8 * ((shapeOf l).w - 1) := by
  simp only [Shape.Malformed, not_or, not_and, not_exists, not_lt, not_le] at h
  obtain ⟨-, hstr, -, -, -, -, hsw, -, -, hstay⟩ := h
  have hs (i : Nat) (hi : i ∈ [8, 12, 16, 20, 24, 28]) : sextNat (recNat l i 4) 32 % 8 = 0 := not_not.1 (hstr i hi)
  have hswz : (shapeOf l).swb = 0 ∨ 3 ≤ (shapeOf l).sws := by
    by_cases hb : (shapeOf l).swb = 0
    · exact Or.inl hb
    · exact Or.inr (hsw hb).1
  refine ⟨⟨hs 8 (by decide), hs 12 (by decide), hs 16 (by decide)⟩, ⟨hs 20 (by decide), hs 24 (by decide), hs 28 (by decide)⟩, hswz,
    fun i1 h1 k hk => ?_⟩
  have hlt := hstay i1 h1 k hk
  have hmod := xor_mod_eight hswz k i1
  omega

section
variable {cmd : Cmd} {e : Nat}

/-- The place of an element in the walk lies within the counts. -/
theorem Cmd.at_bounds (h0 : 0 < cmd.shape.n0) (h1 : 0 < cmd.shape.n1) (he : e < cmd.elements) :
    (cmd.at' e).1 < cmd.shape.n2 ∧ (cmd.at' e).2.1 < cmd.shape.n1 ∧ (cmd.at' e).2.2 < cmd.shape.n0 :=
  ⟨(Nat.div_lt_iff_lt_mul (Nat.mul_pos h0 h1)).2 (by rw [Nat.mul_comm]; exact he), Nat.mod_lt _ h1, Nat.mod_lt _ h0⟩

/-- The row of the source, and of the destination, of an element. -/
def Cmd.srcRow (c : Cmd) (e : Nat) : Nat := if c.form = .cpyG then c.index e else (c.at' e).2.1
def Cmd.dstRow (c : Cmd) (e : Nat) : Nat := if c.form = .cpyS then c.index e else (c.at' e).2.1

/-- The place of word k within its element at the destination, swizzled. -/
def Cmd.dstWord (c : Cmd) (e k : Nat) : Nat := Nat.xor (8 * k) ((c.at' e).2.1 % 2 ^ c.shape.swb * 2 ^ c.shape.sws)

theorem Cmd.srcAddr_eq (c : Cmd) (e k : Nat) : c.srcAddr e k = (((capCur c.src.data).toNat + (c.at' e).1 * c.shape.ss2 +
    c.srcRow e * c.shape.ss1 + (c.at' e).2.2 * c.shape.ss0 + (8 * k : Nat) : Int) % 2 ^ 64).toNat := by
  rw [Cmd.srcAddr, Cmd.srcRow]
  congr 2
  push_cast
  ring

theorem Cmd.dstAddr_eq (c : Cmd) (e k : Nat) : c.dstAddr e k = (((capCur c.dst.data).toNat + (c.at' e).1 * c.shape.ds2 +
    c.dstRow e * c.shape.ds1 + (c.at' e).2.2 * c.shape.ds0 + c.dstWord e k : Int) % 2 ^ 64).toNat := by
  rw [Cmd.dstAddr, Cmd.dstRow, Cmd.dstWord]
  congr 2
  push_cast
  ring

/-- The sum of a cursor and offsets that are multiples of 8. -/
theorem addr_mod_eight {cur i2 i1 i0 x : Nat} {s2 s1 s0 : Int} (hcur : cur % 8 = 0) (h0 : s0 % 8 = 0) (h1 : s1 % 8 = 0) (h2 : s2 % 8 = 0)
    (hx : x % 8 = 0) : ((cur + i2 * s2 + i1 * s1 + i0 * s0 + x : Int) % 2 ^ 64).toNat % 8 = 0 := by
  have m2 := mul_emod_eight i2 h2
  have m1 := mul_emod_eight i1 h1
  have m0 := mul_emod_eight i0 h0
  exact toNat_emod_eight (by omega)

/-- The source words of elements that are not skipped are words of the source hull (R245, R253). -/
theorem Cmd.srcAddr_mem {k : Nat} (h0 : 0 < cmd.shape.n0) (h1 : 0 < cmd.shape.n1) (he : e < cmd.elements) (hk : k < cmd.shape.w)
    (hskip : cmd.form = .cpyG → cmd.skips e = false) :
    cmd.srcAddr e k ∈ (shapeHull cmd.shape cmd.src false (cmd.form == .cpyG)).walk := by
  obtain ⟨b2, b1, b0⟩ := Cmd.at_bounds h0 h1 he
  have hrow : cmd.srcRow e < (shapeHull cmd.shape cmd.src false (cmd.form == .cpyG)).n1 := by
    by_cases hg : cmd.form = .cpyG
    · have := hskip hg
      simpa [hg, Cmd.skips, EngForm.indexed, Cmd.srcRow, shapeHull] using this
    · simpa [hg, Cmd.srcRow, shapeHull] using b1
  have hmem := Hull.mem_walk (h := shapeHull cmd.shape cmd.src false (cmd.form == .cpyG)) b2 hrow b0 hk
  have hxor : Nat.xor (8 * k) (cmd.srcRow e % 2 ^ 0 * 2 ^ 0) = 8 * k := by
    rw [pow_zero, Nat.mod_one, Nat.zero_mul]
    exact Nat.xor_zero _
  rw [Cmd.srcAddr_eq, ← hxor]
  exact hmem

/-- The destination words of elements that are not skipped are words of the destination hull (R245, R253). -/
theorem Cmd.dstAddr_mem {k : Nat} (h0 : 0 < cmd.shape.n0) (h1 : 0 < cmd.shape.n1) (he : e < cmd.elements) (hk : k < cmd.shape.w)
    (hskip : cmd.form = .cpyS → cmd.skips e = false) (hword : cmd.dstWord e k % 8 = 0 ∧ cmd.dstWord e k ≤ 8 * (cmd.shape.w - 1)) :
    cmd.dstAddr e k ∈ (shapeHull cmd.shape cmd.dst true (cmd.form == .cpyS)).walk := by
  obtain ⟨b2, b1, b0⟩ := Cmd.at_bounds h0 h1 he
  rw [Cmd.dstAddr_eq]
  by_cases hg : cmd.form = .cpyS
  · have hrow : cmd.dstRow e < (shapeHull cmd.shape cmd.dst true (cmd.form == .cpyS)).n1 := by
      have := hskip hg
      simpa [hg, Cmd.skips, EngForm.indexed, Cmd.dstRow, shapeHull] using this
    have hk' : cmd.dstWord e k / 8 < cmd.shape.w := by omega
    have hmem := Hull.mem_walk (h := shapeHull cmd.shape cmd.dst true (cmd.form == .cpyS)) b2 hrow b0 hk'
    have hxor : Nat.xor (8 * (cmd.dstWord e k / 8)) (cmd.dstRow e % 2 ^ 0 * 2 ^ cmd.shape.sws) = cmd.dstWord e k := by
      rw [pow_zero, Nat.mod_one, Nat.zero_mul]
      exact (Nat.xor_zero _).trans (by omega)
    have hswb : (shapeHull cmd.shape cmd.dst true (cmd.form == .cpyS)).swb = 0 := by simp [shapeHull, hg]
    rw [Hull.word, hswb] at hmem
    rw [← hxor]
    exact hmem
  · have hrow : cmd.dstRow e < (shapeHull cmd.shape cmd.dst true (cmd.form == .cpyS)).n1 := by
      simpa [hg, Cmd.dstRow, shapeHull] using b1
    have hmem := Hull.mem_walk (h := shapeHull cmd.shape cmd.dst true (cmd.form == .cpyS)) b2 hrow b0 hk
    have hswb : (shapeHull cmd.shape cmd.dst true (cmd.form == .cpyS)).swb = cmd.shape.swb := by simp [shapeHull, hg]
    have hsame : cmd.dstWord e k = Nat.xor (8 * k) (cmd.dstRow e % 2 ^ cmd.shape.swb * 2 ^ cmd.shape.sws) := by
      simp [Cmd.dstWord, Cmd.dstRow, hg]
    rw [Hull.word, hswb] at hmem
    rw [hsame]
    exact hmem

end

/-- The hulls of a well-formed record are contained. -/
theorem shapeHull_source_contained (r : Shape) (c : CReg) (ix : Bool) : (shapeHull r c false ix).Contained := by
  intro i1 _ k hk
  have hk : k < r.w := hk
  show Nat.xor (8 * k) (i1 % 2 ^ 0 * 2 ^ 0) ≤ 8 * (r.w - 1)
  rw [pow_zero, Nat.mod_one, Nat.zero_mul]
  exact (Nat.xor_zero _).trans_le (by omega)

theorem shapeHull_destination_contained {r : Shape} (c : CReg) (ix : Bool)
    (hstay : ∀ i1 < r.n1, ∀ k < r.w, Nat.xor (8 * k) (i1 % 2 ^ r.swb * 2 ^ r.sws) ≤ 8 * (r.w - 1)) :
    (shapeHull r c true ix).Contained := by
  intro i1 h1 k hk
  have hk : k < r.w := hk
  cases ix with
  | false => exact hstay i1 h1 k hk
  | true =>
    show Nat.xor (8 * k) (i1 % 2 ^ 0 * 2 ^ r.sws) ≤ 8 * (r.w - 1)
    rw [pow_zero, Nat.mod_one, Nat.zero_mul]
    exact (Nat.xor_zero _).trans_le (by omega)

end Sys2Proof.Machine

/-! ### Copies and reductions at their issue -/

namespace Sys2Proof.Machine

section
variable {g : EngForm}

theorem Shape.malformed_congr {u u' : Nat → Nat → Nat} (h : ∀ lo n, lo + n ≤ 48 → u lo n = u' lo n) (r : Shape) :
    r.Malformed g u ↔ r.Malformed g u' := by
  simp only [Shape.Malformed, List.exists_mem_cons_iff, List.not_mem_nil, false_and, exists_false, h 0 2 (by decide),
    h 8 4 (by decide), h 12 4 (by decide), h 16 4 (by decide), h 20 4 (by decide), h 24 4 (by decide), h 28 4 (by decide),
    h 32 4 (by decide), h 36 4 (by decide), h 40 1 (by decide), h 41 1 (by decide), h 42 6 (by decide)]

/-- The shape that the fields of a record give (R243). -/
def shapeFrom (u : Nat → Nat → Nat) : Shape :=
  ⟨u 0 2 % 512 + 1, u 2 2 + 1, u 4 2 + 1, u 6 2 + 1, sextNat (u 8 4) 32, sextNat (u 12 4) 32, sextNat (u 16 4) 32, sextNat (u 20 4) 32,
    sextNat (u 24 4) 32, sextNat (u 28 4) 32, sextNat (u 32 4) 32, u 36 4, if u 40 1 % 2 = 1 then 4 else 2, u 41 1 % 16, u 41 1 / 16 % 8⟩

theorem shapeOf_read (m : List Host.Cell) (a : Nat) : shapeOf (Mem.read m a 48) = shapeFrom fun i n => Mem.readLE m (a + i) n := by
  have h {lo n : Nat} (hle : lo + n ≤ 48) : recNat (Mem.read m a 48) lo n = Mem.readLE m (a + lo) n := recNat_read m a hle
  simp only [shapeOf, shapeFrom, recInt, h (show 0 + 2 ≤ 48 by decide), h (show 2 + 2 ≤ 48 by decide), h (show 4 + 2 ≤ 48 by decide),
    h (show 6 + 2 ≤ 48 by decide), h (show 8 + 4 ≤ 48 by decide), h (show 12 + 4 ≤ 48 by decide), h (show 16 + 4 ≤ 48 by decide),
    h (show 20 + 4 ≤ 48 by decide), h (show 24 + 4 ≤ 48 by decide), h (show 28 + 4 ≤ 48 by decide), h (show 32 + 4 ≤ 48 by decide),
    h (show 36 + 4 ≤ 48 by decide), h (show 40 + 1 ≤ 48 by decide), h (show 41 + 1 ≤ 48 by decide)]
  rfl

/-- The FORMAT test of a record in memory (R243, R253). -/
theorem shapeOk_read (hg : g = .cpy ∨ g = .cpyG ∨ g = .cpyS) (m : List Host.Cell) (a : Nat) :
    shapeOk g (Mem.read m a 48) (shapeOf (Mem.read m a 48)) = true ↔
      ¬(shapeFrom fun i n => Mem.readLE m (a + i) n).Malformed g fun i n => Mem.readLE m (a + i) n := by
  rw [shapeOk_iff hg, shapeOf_read]
  exact not_congr (Shape.malformed_congr (fun lo n h => recNat_read m a h) _)

theorem EngForm.indexed_iff (hg : g = .cpy ∨ g = .cpyG ∨ g = .cpyS) : g.indexed = true ↔ g ≠ .cpy := by
  rcases hg with rfl | rfl | rfl <;> simp [EngForm.indexed]

end

/-- The walk of a hull without a swizzle is the same with any place of the swizzle's bits. -/
theorem Hull.walk_unswizzled {h : Hull} (hb : h.swb = 0) (k : Nat) : Hull.walk { h with sws := k } = h.walk := by
  have hword (i2 i1 i0 j : Nat) : Hull.word { h with sws := k } i2 i1 i0 j = h.word i2 i1 i0 j := by
    simp only [Hull.word, hb, pow_zero, Nat.mod_one, Nat.zero_mul]
  simp only [Hull.walk, hword]

/-! What a copy that passes accesses (R244, R245, R253). -/

/-- A word that a command accesses: inside the bounds, a multiple of 8, in the space of the cursor. -/
def GoodWord (c : CReg) (x : Nat) : Prop :=
  ((decodeBounds c.data).1 ≤ x ∧ x + 8 ≤ (decodeBounds c.data).2) ∧ x % 8 = 0 ∧ x / 2 ^ 60 = (capCur c.data).toNat / 2 ^ 60

/-- A capability that a side may have. -/
def FitSide (c : CReg) (need : BitVec 12) : Prop :=
  c.tag = true ∧ sealed c.data = false ∧ hasPerm c.data need = true ∧
    ((capCur c.data).toNat / 2 ^ 60 ≠ 0 → hasPerm c.data 0x200 = true)

section
variable {g : EngForm} {cx : Cx} {cd ca : CReg} {idx : List Nat} {cmd : Cmd} {l : List Byte}
  (hsound : ¬(shapeOf l).Malformed g (recNat l)) (hrun : cx.copySides g (shapeOf l) idx ca cd = .ok cmd)
include hsound hrun

omit hsound in
theorem copySides_fit : FitSide ca 0x401 ∧ FitSide cd 0x402 ∧
    ((capCur ca.data).toNat / 2 ^ 60 = 0 ∨ (capCur cd.data).toNat / 2 ^ 60 = 0) := by
  obtain ⟨ss, sd, path, hs, hd, hown, -⟩ := Cx.copySides_passed hrun
  obtain ⟨hts, hss, hps, -, -, has, hperms, -⟩ := Cx.checkSide_passed hs
  obtain ⟨htd, hsd, hpd, -, -, had, hpermd, -⟩ := Cx.checkSide_passed hd
  refine ⟨⟨hts, hss, hps, Cx.checkSide_glb (capCur ca.data).isLt has hperms⟩,
    ⟨htd, hsd, hpd, Cx.checkSide_glb (capCur cd.data).isLt had hpermd⟩, ?_⟩
  rcases hown with rfl | rfl
  · exact Or.inl (Cx.sideAt_own has)
  · exact Or.inr (Cx.sideAt_own had)

theorem copySides_source_word {e k : Nat} (he : e < cmd.elements) (hk : k < cmd.shape.w) :
    (g = .cpyG ∧ cmd.skips e = true) ∨ GoodWord ca (cmd.srcAddr e k) := by
  obtain ⟨ss, sd, path, hs, -, -, hcmd⟩ := Cx.copySides_passed hrun
  have hform : cmd.form = g := by rw [hcmd]
  have hshape : cmd.shape = shapeOf l := by rw [hcmd]
  have hsrc : cmd.src = ca := by rw [hcmd]
  by_cases hskip : g = .cpyG ∧ cmd.skips e = true
  · exact Or.inl hskip
  have hkept : cmd.form = .cpyG → cmd.skips e = false := fun h => Bool.eq_false_iff.2 fun hs => hskip ⟨hform ▸ h, hs⟩
  obtain ⟨⟨h0, h1, h2⟩, -, -, -⟩ := Shape.sound hsound
  have hn0 : 0 < cmd.shape.n0 := hshape ▸ Nat.succ_pos _
  have hn1 : 0 < cmd.shape.n1 := hshape ▸ Nat.succ_pos _
  have hmem := Cmd.srcAddr_mem hn0 hn1 he hk hkept
  rw [hform, hshape, hsrc] at hmem
  obtain ⟨hin, hspace⟩ := side_words hs (shapeHull_source_contained _ _ _) _ hmem
  obtain ⟨-, -, -, -, halign, -, -, -⟩ := Cx.checkSide_passed hs
  have hcur : (capCur ca.data).toNat % 8 = 0 := by
    refine halign.resolve_left fun hz => ?_
    simp [Hull.walk, hz] at hmem
  refine Or.inr ⟨hin, ?_, hspace⟩
  rw [Cmd.srcAddr_eq, hshape, hsrc]
  exact addr_mod_eight hcur h0 h1 h2 (Nat.mul_mod_right 8 k)

theorem copySides_destination_word {e k : Nat} (he : e < cmd.elements) (hk : k < cmd.shape.w) :
    (g = .cpyS ∧ cmd.skips e = true) ∨ GoodWord cd (cmd.dstAddr e k) := by
  obtain ⟨ss, sd, path, -, hd, -, hcmd⟩ := Cx.copySides_passed hrun
  have hform : cmd.form = g := by rw [hcmd]
  have hshape : cmd.shape = shapeOf l := by rw [hcmd]
  have hdst : cmd.dst = cd := by rw [hcmd]
  by_cases hskip : g = .cpyS ∧ cmd.skips e = true
  · exact Or.inl hskip
  have hkept : cmd.form = .cpyS → cmd.skips e = false := fun h => Bool.eq_false_iff.2 fun hs => hskip ⟨hform ▸ h, hs⟩
  obtain ⟨-, ⟨h0, h1, h2⟩, hswz, hstay⟩ := Shape.sound hsound
  have hn0 : 0 < cmd.shape.n0 := hshape ▸ Nat.succ_pos _
  have hn1 : 0 < cmd.shape.n1 := hshape ▸ Nat.succ_pos _
  have hword : cmd.dstWord e k % 8 = 0 ∧ cmd.dstWord e k ≤ 8 * (cmd.shape.w - 1) := by
    have hrow := (Cmd.at_bounds hn0 hn1 he).2.1
    rw [Cmd.dstWord]
    rw [hshape] at hrow hk ⊢
    exact ⟨xor_mod_eight hswz k _, hstay _ hrow k hk⟩
  have hmem := Cmd.dstAddr_mem hn0 hn1 he hk hkept hword
  rw [hform, hshape, hdst] at hmem
  obtain ⟨hin, hspace⟩ := side_words hd (shapeHull_destination_contained _ _ hstay) _ hmem
  obtain ⟨-, -, -, -, halign, -, -, -⟩ := Cx.checkSide_passed hd
  have hcur : (capCur cd.data).toNat % 8 = 0 := by
    refine halign.resolve_left fun hz => ?_
    simp [Hull.walk, hz] at hmem
  refine Or.inr ⟨hin, ?_, hspace⟩
  rw [Cmd.dstAddr_eq, hshape, hdst]
  exact addr_mod_eight hcur h0 h1 h2 hword.1

end

/-! The copies and the reductions as instructions (R241, R253, R257). -/

/-- Whether a command may enter the channel of a tile in this cycle: on the paths of a member tile its last write lies in the exchange
phase (R247, R253). -/
def Cmd.timely (cmd : Cmd) (tc : TileCx) (ch : Fin 4) (n : Nat) : Bool :=
  match cmd.path with
  | .memberDst | .memberSrc => (tc.part.startFor tc.t ch tc.tile.chans[ch] n).any fun st => tc.part.phaseOk n (cmd.lastWrite tc.t st)
  | _ => true

theorem Cmd.timely_iff (cmd : Cmd) (tc : TileCx) (ch : Fin 4) (n : Nat) : cmd.timely tc ch n = true ↔
    ((cmd.path = .memberDst ∨ cmd.path = .memberSrc) →
      ((tc.part.startFor tc.t ch tc.tile.chans[ch] n).any fun st => tc.part.phaseOk n (cmd.lastWrite tc.t st)) = true) := by
  unfold Cmd.timely
  split
  · next h => simp [h]
  · next h => simp [h]
  · next hd hs => exact ⟨fun _ h => absurd h (not_or.2 ⟨hd, hs⟩), fun _ => rfl⟩

/-- A channel that holds two commands (R241). -/
theorem Chan.full_iff (c : Chan) : (c.run.isSome && c.que.isSome) = true ↔ c.run ≠ none ∧ c.que ≠ none := by
  rw [Bool.and_eq_true, Option.isSome_iff_ne_none, Option.isSome_iff_ne_none]

theorem Cx.tile_ok {cx : Cx} {tc : TileCx} (ht : cx.tile = .ok tc) : ∃ k j, cx.wh = .tile tc.t k j tc.tile tc.part := by
  unfold Cx.tile at ht
  split at ht
  · next t k j tl q hwh => exact ⟨k, j, by cases ht; exact hwh⟩
  · cases ht

section
variable {i : Instr} {g : EngForm} {d a b : RegNo} {ch : Fin 4} {s : State} {cx : Cx}
  (he : exec i s = copyForm i g d a b ch s) (hr : Ready i s cx)
include he hr

theorem copyForm_raises {f : Flt} (hf : copyCmd g cx s.mem (cx.read d) (cx.read a) (cx.read b) = .error f) : Raises i cx s f :=
  raises_of he hr rfl (by simp only [hf])

variable {cmd : Cmd} (hcmd : copyCmd g cx s.mem (cx.read d) (cx.read a) (cx.read b) = .ok cmd)
include hcmd

/-- A copy in a tile: its phase, its channel's room, then its place there (R253). -/
theorem copyForm_tile {tc : TileCx} (ht : cx.tile = .ok tc) :
    (cmd.timely tc ch cx.n = false → Raises i cx s { code := 0x10, reason := 0x04 }) ∧
    (cmd.timely tc ch cx.n = true → (tc.tile.chans[ch]).run ≠ none → (tc.tile.chans[ch]).que ≠ none →
      Raises i cx s { code := 0x10, reason := 0x02 }) ∧
    (cmd.timely tc ch cx.n = true → ((tc.tile.chans[ch]).run = none ∨ (tc.tile.chans[ch]).que = none) →
      Completes i cx s (s.modTile tc.t fun x => { x with chans := x.chans.set ch ((x.chans[ch]).put cmd cx.n cmd.words) }) .seq) := by
  obtain ⟨k, j, hwh⟩ := Cx.tile_ok ht
  have hnot {p : Bool} (h : p = true) : ¬(!p) = true := by simp [h]
  refine ⟨fun h => raises_of he hr rfl ?_, fun h h1 h2 => raises_of he hr rfl ?_, fun h hfree => completes_of he hr rfl ?_⟩ <;>
    simp only [hcmd, hwh]
  · exact if_pos (show (!cmd.timely tc ch cx.n) = true by rw [h]; rfl)
  · exact (if_neg (hnot h)).trans (if_pos ((Chan.full_iff _).2 ⟨h1, h2⟩))
  · refine (if_neg (hnot h)).trans (if_neg fun hfull => ?_)
    obtain ⟨h1, h2⟩ := (Chan.full_iff _).1 hfull
    exact hfree.elim h1 h2

/-- A copy on a hub: it waits for room in its channel, else it takes its place there (R253). -/
theorem copyForm_hub {die h : Nat} {hb : Hub} (hwh : cx.wh = .hub die h hb) :
    (((s.hub die h).chans[ch]).run ≠ none → ((s.hub die h).chans[ch]).que ≠ none →
      Completes i cx s (s.modHub die h fun x => { x with wait := some .channel }) .stay) ∧
    (((s.hub die h).chans[ch]).run = none ∨ ((s.hub die h).chans[ch]).que = none →
      Completes i cx s (s.modHub die h fun x => { x with chans := x.chans.set ch ((x.chans[ch]).put cmd cx.n cmd.words) }) .seq) := by
  refine ⟨fun h1 h2 => completes_of he hr rfl ?_, fun hfree => completes_of he hr rfl ?_⟩ <;> simp only [hcmd, hwh]
  · exact if_pos ((Chan.full_iff _).2 ⟨h1, h2⟩)
  · refine if_neg fun hfull => ?_
    obtain ⟨h1, h2⟩ := (Chan.full_iff _).1 hfull
    exact hfree.elim h1 h2

end

section
variable {i : Instr} {f : EngForm} {d a b : RegNo} {ch : Fin 4} {s : State} {cx : Cx} {tc : TileCx}
  (he : exec i s = reduceForm i f d a b ch s) (hr : Ready i s cx) (ht : cx.tile = .ok tc)
include he hr ht

/-- The number of words of a reduction (R257). -/
def Cx.reduceWords (cx : Cx) (b : RegNo) : Nat := bits (cx.data b).toNat 15 8 + 1

/-- The command of a reduction (R257). -/
def reduceCmd (f : EngForm) (cx : Cx) (d a b : RegNo) : Cmd :=
  { form := f, shape := shapeOf [], idx := [], src := cx.read a, dst := cx.read d, path := .reduce, issued := cx.n, start := none,
    last := none, first := 0, burst := 0, tr := [], entry := (cx.data b).toNat % 64, n := cx.reduceWords b }

/-- The group that a reduction selects (R257). -/
def TileCx.selected (tc : TileCx) (cx : Cx) (b : RegNo) : GroupEntry := groupEntry (tc.tile.gtab.toList.getD ((cx.data b).toNat % 64) 0)

theorem reduceForm_format (h : (tc.selected cx b).v = false ∨ (tc.selected cx b).holds tc.part tc.t = false) :
    Raises i cx s { code := 0x02 } := by
  refine tileForm_raises he hr ht (if_pos ?_)
  rcases h with h | h
  · exact Bool.or_eq_true_iff.2 (Or.inl ((congrArg (!·) h :)))
  · exact Bool.or_eq_true_iff.2 (Or.inr ((congrArg (!·) h :)))

/-- The last cycle of a reduction that starts in cycle `st` (R257). -/
def TileCx.reduceTimely (tc : TileCx) (cx : Cx) (b : RegNo) (ch : Fin 4) : Bool :=
  (tc.part.startFor tc.t ch (tc.tile.chans[ch]) cx.n).any fun st =>
    tc.part.phaseOk cx.n (st + (cx.reduceWords b - 1) + (tc.selected cx b).latency tc.part + 3)

variable (hv : (tc.selected cx b).v = true) (hh : (tc.selected cx b).holds tc.part tc.t = true) {o o' : Nat}
  (ho : checkSpan (cx.read a) 0 (8 * cx.reduceWords b) 0x401 8 0 0x8000 = .ok o)
  (ho' : checkSpan (cx.read d) 0 (8 * cx.reduceWords b) 0x402 8 0 0x8000 = .ok o')
include hv hh ho ho'

theorem reduceForm_outcome :
    (tc.reduceTimely cx b ch = false → Raises i cx s { code := 0x10, reason := 0x04 }) ∧
    (tc.reduceTimely cx b ch = true → (tc.tile.chans[ch]).run ≠ none → (tc.tile.chans[ch]).que ≠ none →
      Raises i cx s { code := 0x10, reason := 0x02 }) ∧
    (tc.reduceTimely cx b ch = true → ((tc.tile.chans[ch]).run = none ∨ (tc.tile.chans[ch]).que = none) →
      ∃ cmd : Cmd, cmd.form = f ∧ cmd.path = .reduce ∧ cmd.src = cx.read a ∧ cmd.dst = cx.read d ∧
        cmd.entry = (cx.data b).toNat % 64 ∧ cmd.n = cx.reduceWords b ∧ cmd.issued = cx.n ∧
        Completes i cx s (s.modTile tc.t fun x => { x with chans := x.chans.set ch ((x.chans[ch]).put cmd cx.n
          (if f = .gget ∨ (tc.selected cx b).origin tc.part = tc.t then cx.reduceWords b else 0)) }) .seq) := by
  have hgroup : ¬(!(tc.selected cx b).v || !(tc.selected cx b).holds tc.part tc.t) = true := by simp [hv, hh]
  have ho : checkSpan (cx.read a) 0 (8 * (bits (cx.data b).toNat 15 8 + 1)) (pLD ||| pENG) 8 0 0x8000 = .ok o := ho
  have ho' : checkSpan (cx.read d) 0 (8 * (bits (cx.data b).toNat 15 8 + 1)) (pST ||| pENG) 8 0 0x8000 = .ok o' := ho'
  have hin {p : Bool} (h : p = true) : ¬(!p) = true := by simp [h]
  refine ⟨fun h => tileForm_raises he hr ht ((if_neg hgroup).trans ?_),
    fun h h1 h2 => tileForm_raises he hr ht ((if_neg hgroup).trans ?_),
    fun h hfree => ⟨reduceCmd f cx d a b, rfl, rfl, rfl, rfl, rfl, rfl, rfl, tileForm_completes he hr ht ((if_neg hgroup).trans ?_)⟩⟩ <;>
    simp only [ho, ho']
  · exact if_pos (show (!tc.reduceTimely cx b ch) = true by rw [h]; rfl)
  · exact (if_neg (hin h)).trans (if_pos ((Chan.full_iff _).2 ⟨h1, h2⟩))
  · refine (if_neg (hin h)).trans ((if_neg fun hfull => ?_).trans rfl)
    obtain ⟨h1, h2⟩ := (Chan.full_iff _).1 hfull
    exact hfree.elim h1 h2

end

/-- Settles O41: the span of the record, the test of its fields, the list, then each side decide a copy; the words of one that passes
are words of its hulls, which both sides' tests let pass, and its channel's room decides where it goes. -/
theorem commandsEnterTheChannel : Obligations.CommandsEnterTheChannel := by
  unfold Obligations.CommandsEnterTheChannel
  refine ⟨fun g cx m cd ca cb hg => ?_, fun d a b ch s cx => ?_, fun d a b ch s cx tc ht => ?_⟩
  · intro run
    refine ⟨fun f hf => copyCmd_span hf, fun o ho => ?_⟩
    intro u si r malformed
    have hshape : shapeOf (Mem.read m (cx.fetchAddr o) 48) = r := shapeOf_read m _
    have hok : shapeOk g (Mem.read m (cx.fetchAddr o) 48) r = true ↔ ¬malformed := by
      rw [← hshape]
      exact shapeOk_read hg m _
    have hidx := EngForm.indexed_iff hg
    refine ⟨fun f hf => copyCmd_ecc ho hf, fun hecc hm => copyCmd_malformed ho hecc ?_, fun hecc hm hne f hf =>
      copyCmd_list ho hecc hshape (hok.2 hm) (hidx.2 hne) hf, fun io hlist hecc hm => ?_⟩
    · rw [hshape]
      exact Bool.eq_false_iff.2 fun h => hok.1 h hm
    intro cur inside firstOut side
    have hsides : run = _ := copyCmd_sides (cd := cd) (ca := ca) ho hecc hshape (hok.2 hm) fun h => hlist (hidx.1 h)
    have hsound : ¬(shapeOf (Mem.read m (cx.fetchAddr o) 48)).Malformed g (recNat (Mem.read m (cx.fetchAddr o) 48)) :=
      (shapeOk_iff hg _).1 (hshape ▸ hok.2 hm)
    have hstay := (Shape.sound hsound).2.2.2
    rw [hshape] at hstay
    clear_value r run
    refine ⟨?_, fun ss hss => ?_, fun cmd hrun => ?_⟩
    · have hf := side_faults (run := run) (fun f hf => hsides.trans (Cx.copySides_source hf))
        (shapeHull_source_contained r ca (g == .cpyG))
      have hn1 : (if g = .cpyG then r.lim else r.n1) = (shapeHull r ca false (g == .cpyG)).n1 := by
        rcases hg with rfl | rfl | rfl <;> rfl
      rw [← Hull.walk_unswizzled (h := shapeHull r ca false (g == .cpyG)) rfl r.sws] at hf
      rw [hn1]
      exact hf
    · have hf := side_faults (run := run) (fun f hf => hsides.trans (Cx.copySides_destination hss hf))
        (shapeHull_destination_contained cd (g == .cpyS) hstay)
      have hn1 : (if g = .cpyS then r.lim else r.n1) = (shapeHull r cd true (g == .cpyS)).n1 := by
        rcases hg with rfl | rfl | rfl <;> rfl
      have hswb : (if g = .cpyS then 0 else r.swb) = (shapeHull r cd true (g == .cpyS)).swb := by
        rcases hg with rfl | rfl | rfl <;> rfl
      rw [hn1, hswb]
      exact hf
    · intro word fit
      have hcopy := hsides.symm.trans hrun
      subst hshape
      obtain ⟨hsrc, hdst, hown⟩ := copySides_fit hcopy
      obtain ⟨_, _, path, -, -, -, hcmd⟩ := Cx.copySides_passed hcopy
      refine ⟨by rw [hcmd], by rw [hcmd], by rw [hcmd], by rw [hcmd], by rw [hcmd], by rw [hcmd], ?_, hsrc, hdst, hown,
        fun e he k hk => ⟨copySides_source_word hsound hcopy he ?_, copySides_destination_word hsound hcopy he ?_⟩⟩
      · rw [hcmd]
        by_cases hcpy : g = .cpy
        · exact (if_neg fun h => hidx.1 h hcpy).trans (if_pos hcpy).symm
        · exact (if_pos (hidx.2 hcpy)).trans (if_neg hcpy).symm
      · rw [hcmd]
        exact hk
      · rw [hcmd]
        exact hk
  · intro form
    have hform {i : Instr} {g : EngForm} (he : exec i s = copyForm i g d a b ch s) : form i g := by
      intro hr
      refine ⟨fun f hf => copyForm_raises he hr hf, fun cmd hcmd => ⟨fun tc ht => ?_, fun die h hb hwh => copyForm_hub he hr hcmd hwh⟩⟩
      obtain ⟨hlate, hfull, hfree⟩ := copyForm_tile he hr hcmd ht
      intro timely member
      have htimely := cmd.timely_iff tc ch cx.n
      refine ⟨fun hm hn => hlate (Bool.eq_false_iff.2 fun h => ?_), fun h => hfull (htimely.2 h), fun h => hfree (htimely.2 h)⟩
      exact Bool.eq_false_iff.1 hn (htimely.1 h hm)
    exact ⟨hform rfl, hform rfl, hform rfl⟩
  · intro sel n grp c timely form
    refine ⟨fun hr => ⟨fun h => reduceForm_format rfl hr ht (h.imp id id), fun hv hh o o' ho ho' => ?_⟩,
      fun hr => ⟨fun h => reduceForm_format rfl hr ht (h.imp id id), fun hv hh o o' ho ho' => ?_⟩⟩
    · have hwords : (if (EngForm.gput = .gget ∨ (tc.selected cx b).origin tc.part = tc.t) then cx.reduceWords b else 0) =
          if grp.origin tc.part = tc.t then n else 0 := by
        simp only [reduceCtorEq, false_or]
        rfl
      have hout := reduceForm_outcome (f := .gput) (d := d) (a := a) (b := b) (ch := ch) rfl hr ht hv hh ho ho'
      rw [hwords] at hout
      exact hout
    · have hout := reduceForm_outcome (f := .gget) (d := d) (a := a) (b := b) (ch := ch) rfl hr ht hv hh ho ho'
      rw [if_pos (Or.inl rfl)] at hout
      exact hout

end Sys2Proof.Machine

/-! ### Rounding to a format -/

namespace Sys2Proof.Machine

/-! Powers of two and logarithms of exact values (R45). -/

theorem scalePow_den_pos {num den : Nat} (hd : 0 < den) (e : Int) : 0 < (scalePow num den e).2 := by
  unfold scalePow
  split
  · exact hd
  · exact Nat.mul_pos hd (Nat.two_pow_pos _)

theorem scalePow_num_pos {num : Nat} (hn : 0 < num) (den : Nat) (e : Int) : 0 < (scalePow num den e).1 := by
  unfold scalePow
  split
  · exact Nat.mul_pos hn (Nat.two_pow_pos _)
  · exact hn

theorem scalePow_num_zero (den : Nat) (e : Int) : (scalePow 0 den e).1 = 0 := by
  unfold scalePow
  split
  · exact Nat.zero_mul _
  · rfl

section
variable {K : Type} [Field K] [LinearOrder K] [IsStrictOrderedRing K]

theorem scalePow_div (num den : Nat) (e : Int) :
    ((scalePow num den e).1 : K) / (scalePow num den e).2 = (num : K) / den * 2 ^ e := by
  unfold scalePow
  split
  · next h =>
    obtain ⟨n, rfl⟩ := Int.eq_ofNat_of_zero_le h
    simp only [Int.toNat_natCast, zpow_natCast]
    push_cast
    ring
  · next h =>
    obtain ⟨n, hn⟩ := Int.eq_ofNat_of_zero_le (show 0 ≤ -e by omega)
    obtain rfl : e = -(n : Int) := by omega
    simp only [neg_neg, Int.toNat_natCast, zpow_neg, zpow_natCast]
    push_cast
    rw [div_mul_eq_div_div, div_eq_mul_inv _ ((2 : K) ^ n)]

/-- The exact value of a finite dyadic is its magnitude with its sign. -/
theorem exact_div (s : Bool) (m : Nat) (e : Int) :
    ((scalePow m 1 e).1 : K) / (scalePow m 1 e).2 = |((FVal.fin s m e).rat : K)| := by
  rw [scalePow_div, FVal.rat, Nat.cast_one, div_one]
  cases s <;> simp [abs_mul]

variable [FloorSemiring K]

/-- The exponent of a positive rational (R45). -/
theorem floorLog2_eq {num den : Nat} (hn : 0 < num) (hd : 0 < den) : floorLog2 num den = Int.log 2 ((num : K) / den) := by
  have hden : (0 : K) < den := by exact_mod_cast hd
  have ha : (0 : K) < (num : K) / den := div_pos (by exact_mod_cast hn) hden
  have hlow {n : Nat} (h : 0 < n) : (2 : K) ^ (Nat.log2 n) ≤ n := by exact_mod_cast Nat.log2_self_le h.ne'
  have hup {n : Nat} (h : 0 < n) : (n : K) < 2 ^ (Nat.log2 n + 1) := by exact_mod_cast Nat.lt_log2_self
  have hle (d : Int) : (2 : K) ^ d ≤ (num : K) / den ↔ d ≤ Int.log 2 ((num : K) / den) := by
    have := Int.zpow_le_iff_le_log (b := 2) (x := d) one_lt_two ha
    exact_mod_cast this
  have hlo : (Nat.log2 num : Int) - Nat.log2 den - 1 ≤ Int.log 2 ((num : K) / den) := by
    rw [← hle, le_div_iff₀ hden,
      show (Nat.log2 num : Int) - Nat.log2 den - 1 = Nat.log2 num - (Nat.log2 den + 1 : Nat) by push_cast; ring,
      zpow_sub₀ two_ne_zero, zpow_natCast, zpow_natCast]
    calc (2 : K) ^ Nat.log2 num / 2 ^ (Nat.log2 den + 1) * den
        ≤ 2 ^ Nat.log2 num / 2 ^ (Nat.log2 den + 1) * 2 ^ (Nat.log2 den + 1) :=
          mul_le_mul_of_nonneg_left (hup hd).le (by positivity)
      _ = 2 ^ Nat.log2 num := div_mul_cancel₀ _ (by positivity)
      _ ≤ num := hlow hn
  have hhi : Int.log 2 ((num : K) / den) < (Nat.log2 num : Int) - Nat.log2 den + 1 := by
    rw [← not_le, ← hle, not_le, div_lt_iff₀ hden,
      show (Nat.log2 num : Int) - Nat.log2 den + 1 = (Nat.log2 num + 1 : Nat) - Nat.log2 den by push_cast; ring,
      zpow_sub₀ two_ne_zero, zpow_natCast, zpow_natCast]
    calc (num : K) < 2 ^ (Nat.log2 num + 1) := hup hn
      _ = 2 ^ (Nat.log2 num + 1) / 2 ^ Nat.log2 den * 2 ^ Nat.log2 den := (div_mul_cancel₀ _ (by positivity)).symm
      _ ≤ 2 ^ (Nat.log2 num + 1) / 2 ^ Nat.log2 den * den := mul_le_mul_of_nonneg_left (hlow hd) (by positivity)
  have hfits : (scalePow den 1 ((Nat.log2 num : Int) - Nat.log2 den)).1 ≤
      num * (scalePow den 1 ((Nat.log2 num : Int) - Nat.log2 den)).2 ↔
      (Nat.log2 num : Int) - Nat.log2 den ≤ Int.log 2 ((num : K) / den) := by
    have hp : (0 : K) < (scalePow den 1 ((Nat.log2 num : Int) - Nat.log2 den)).2 := by
      exact_mod_cast scalePow_den_pos Nat.one_pos _
    have hv := scalePow_div (K := K) den 1 ((Nat.log2 num : Int) - Nat.log2 den)
    rw [← hle, le_div_iff₀ hden, ← Nat.cast_le (α := K), Nat.cast_mul, ← div_le_iff₀ hp, hv]
    simp [mul_comm]
  simp only [floorLog2, hfits]
  split <;> omega

end

/-! The kept and the discarded part (R45). -/

section
variable {a : ℝ} {nd : Nat × Nat} (hden : 0 < nd.2) (hq : (nd.1 : ℝ) / nd.2 = a)
include hden hq

omit hden in
theorem kept_part : ⌊a⌋ = ((nd.1 / nd.2 : Nat) : ℤ) := by
  rw [← hq, Int.floor_div_natCast, Int.floor_natCast, Int.natCast_div]

theorem discarded_part : a - ⌊a⌋ = ((nd.1 % nd.2 : Nat) : ℝ) / nd.2 := by
  have hpos : (0 : ℝ) < nd.2 := by exact_mod_cast hden
  rw [kept_part hq, ← hq, eq_div_iff hpos.ne', sub_mul, div_mul_cancel₀ _ hpos.ne']
  have hc : (nd.2 : ℝ) * ((nd.1 / nd.2 : Nat) : ℝ) + ((nd.1 % nd.2 : Nat) : ℝ) = nd.1 := by exact_mod_cast Nat.div_add_mod nd.1 nd.2
  rw [Int.cast_natCast]
  linarith

end

/-! The codes of a floating element in the order of their magnitudes (R35, R45). -/

/-- The mantissa of the magnitude of a code, and its exponent. -/
def codeMant (mw c : Nat) : Nat := (if c / 2 ^ mw = 0 then 0 else 2 ^ mw) + c % 2 ^ mw
def codeExp (mw bias c : Nat) : Int := max ((c / 2 ^ mw : Nat) : Int) 1 - bias - mw
noncomputable def codeMag (mw bias c : Nat) : ℝ := codeMant mw c * 2 ^ codeExp mw bias c

/-- The largest magnitude of a floating element is no special code. -/
theorem Elem.maxCode_finite {f : Elem} {ew mw bias : Nat} (hf : f.fpParams = some (ew, mw, bias)) :
    f.width = ew + mw + 1 ∧ f.maxCode < 2 ^ (ew + mw) ∧ (f.ieee = true → f.maxCode / 2 ^ mw < 2 ^ ew - 1) ∧
      (f = .e4m3 → mw = 3 ∧ f.maxCode < 127) := by
  cases f <;> simp only [Elem.fpParams, reduceCtorEq, Option.some.injEq, Prod.mk.injEq] at hf
  all_goals
    obtain ⟨rfl, rfl, rfl⟩ := hf
    decide

theorem Elem.decode_code {f : Elem} {ew mw bias : Nat} (hf : f.fpParams = some (ew, mw, bias)) (s : Bool) {c : Nat} (hc : c ≤ f.maxCode) :
    f.signBit s + c < 2 ^ f.width ∧ f.decode (f.signBit s + c) = .fin s (codeMant mw c) (codeExp mw bias c) := by
  obtain ⟨hw, hmax, hieee, he4⟩ := Elem.maxCode_finite hf
  have hc' : c < 2 ^ (ew + mw) := by omega
  have hfield : c / 2 ^ mw < 2 ^ ew := by rwa [Nat.div_lt_iff_lt_mul (Nat.two_pow_pos mw), ← pow_add]
  have hsign : f.signBit s = 2 ^ (ew + mw) * s.toNat := by
    rw [Elem.signBit, hw]
    cases s <;> simp
  have hs : s.toNat < 2 := by cases s <;> decide
  have hlt : f.signBit s + c < 2 ^ f.width := by
    rw [hsign, hw, pow_succ]
    nlinarith [Nat.two_pow_pos (ew + mw)]
  have hv : (f.signBit s + c) % 2 ^ f.width = 2 ^ (ew + mw) * s.toNat + c := by rw [Nat.mod_eq_of_lt hlt, hsign]
  have hbit : (2 ^ (ew + mw) * s.toNat + c) / 2 ^ (ew + mw) % 2 = s.toNat := by
    rw [Nat.mul_add_div (Nat.two_pow_pos _), Nat.div_eq_of_lt hc', Nat.add_zero, Nat.mod_eq_of_lt hs]
  have hexp : (2 ^ (ew + mw) * s.toNat + c) / 2 ^ mw % 2 ^ ew = c / 2 ^ mw := by
    rw [pow_add, Nat.mul_comm (2 ^ ew), Nat.mul_assoc, Nat.mul_add_div (Nat.two_pow_pos _), Nat.mul_add_mod, Nat.mod_eq_of_lt hfield]
  have hmant : (2 ^ (ew + mw) * s.toNat + c) % 2 ^ mw = c % 2 ^ mw := by
    rw [pow_add, Nat.mul_comm (2 ^ ew), Nat.mul_assoc, Nat.mul_add_mod]
  have hspecial : (f.ieee && c / 2 ^ mw == 2 ^ ew - 1) = false := by
    cases h : f.ieee with
    | false => rfl
    | true =>
      have := hieee h
      have := Nat.div_le_div_right (c := 2 ^ mw) hc
      simp only [Bool.true_and, beq_eq_false_iff_ne]
      omega
  have hnan : (f == .e4m3 && c / 2 ^ mw == 15 && c % 2 ^ mw == 7) = false := by
    by_contra h
    simp only [Bool.not_eq_false, Bool.and_eq_true, beq_iff_eq, and_assoc] at h
    obtain ⟨rfl, h15, h7⟩ := h
    obtain ⟨rfl, h127⟩ := he4 rfl
    omega
  refine ⟨hlt, ?_⟩
  have hflag : (s.toNat == 1) = s := by cases s <;> rfl
  simp only [Elem.decode, hf, hv, hbit, hexp, hmant, hspecial, hnan, hflag, Bool.false_eq_true, if_false, beq_iff_eq]
  split
  · next h => simp [codeMant, codeExp, h]
  · next h =>
    have hmax1 : max ((c / 2 ^ mw : Nat) : Int) 1 = ((c / 2 ^ mw : Nat) : Int) := max_eq_left (by omega)
    simp only [codeMant, codeExp, h, if_false, hmax1]

theorem codeMag_fields (mw bias k : Nat) {x : Nat} (hx : x < 2 ^ mw) : codeMag mw bias (k * 2 ^ mw + x) =
    (((if k = 0 then 0 else 2 ^ mw) + x : Nat) : ℝ) * 2 ^ (max (k : Int) 1 - bias - mw) := by
  have hdiv : (k * 2 ^ mw + x) / 2 ^ mw = k := by
    rw [Nat.mul_comm, Nat.mul_add_div (Nat.two_pow_pos mw), Nat.div_eq_of_lt hx, Nat.add_zero]
  have hmod : (k * 2 ^ mw + x) % 2 ^ mw = x := by rw [Nat.mul_comm, Nat.mul_add_mod, Nat.mod_eq_of_lt hx]
  rw [codeMag, codeMant, codeExp, hdiv, hmod]

/-- The magnitude of a code in terms of its exponent and a mantissa that may reach the next power of two. -/
theorem codeMag_eq {mw bias e m : Nat} (h : e = 0 ∨ 2 ^ mw ≤ m) (hm : m ≤ 2 ^ (mw + 1)) :
    codeMag mw bias (e * 2 ^ mw + m) = m * 2 ^ ((e : Int) + 1 - bias - mw) := by
  have hpos := Nat.two_pow_pos mw
  rw [pow_succ] at hm
  by_cases hsub : m < 2 ^ mw
  · obtain rfl := h.resolve_right (by omega)
    rw [codeMag_fields _ _ _ hsub, if_pos rfl, Nat.zero_add]
    rfl
  by_cases hnorm : m < 2 ^ mw * 2
  · rw [show e * 2 ^ mw + m = (e + 1) * 2 ^ mw + (m - 2 ^ mw) by rw [Nat.succ_mul]; omega, codeMag_fields _ _ _ (by omega),
      if_neg e.succ_ne_zero, show 2 ^ mw + (m - 2 ^ mw) = m by omega, show max (((e + 1 : Nat) : Int)) 1 = (e : Int) + 1 by omega]
  · obtain rfl : m = 2 ^ mw * 2 := by omega
    rw [show e * 2 ^ mw + 2 ^ mw * 2 = (e + 2) * 2 ^ mw + 0 by ring, codeMag_fields _ _ _ hpos, if_neg (e + 1).succ_ne_zero,
      show max (((e + 2 : Nat) : Int)) 1 - bias - mw = ((e : Int) + 1 - bias - mw) + 1 by omega, zpow_add_one₀ two_ne_zero]
    push_cast
    ring

theorem codeMag_strictMono (mw bias : Nat) : StrictMono (codeMag mw bias) := by
  refine strictMono_nat_of_lt_succ fun c => ?_
  obtain ⟨e, m, rfl, h, hm⟩ : ∃ e m, c = e * 2 ^ mw + m ∧ (e = 0 ∨ 2 ^ mw ≤ m) ∧ m + 1 ≤ 2 ^ (mw + 1) := by
    have hpos := Nat.two_pow_pos mw
    have hsum := Nat.div_add_mod' c (2 ^ mw)
    have hlt := Nat.mod_lt c hpos
    rw [pow_succ]
    cases hE : c / 2 ^ mw with
    | zero =>
      rw [hE] at hsum
      exact ⟨0, c, by omega, Or.inl rfl, by omega⟩
    | succ e =>
      rw [hE, Nat.succ_mul] at hsum
      exact ⟨e, 2 ^ mw + c % 2 ^ mw, by omega, Or.inr (by omega), by omega⟩
  rw [Nat.add_assoc, codeMag_eq h (by omega), codeMag_eq (h.imp_right (by omega)) hm]
  exact mul_lt_mul_of_pos_right (by exact_mod_cast Nat.lt_succ_self m) (by positivity)

/-! The rounding function (R45). -/

/-- Whether a mode takes the magnitude `x`, in quanta, to the next one. -/
def RoundsUp (rm : RMode) (s : Bool) (lane : Nat) (x : ℝ) : Prop :=
  match rm with
  | .rne => 1 / 2 < x - ⌊x⌋ ∨ (x - ⌊x⌋ = 1 / 2 ∧ ⌊x⌋ % 2 = 1)
  | .rtz => False
  | .rdn => s = true ∧ 0 < x - ⌊x⌋
  | .rup => s = false ∧ 0 < x - ⌊x⌋
  | .sr => 2 ^ 32 ≤ ⌊(x - ⌊x⌋) * 2 ^ 32⌋ + (lane : ℤ)

/-- `r` is the rounding of a magnitude of `x` quanta of size `q`, `most` the largest magnitude, `low` whether it lies below the least
normal one. -/
def RoundedAt (f : Elem) (rm : RMode) (sat : Bool) (lane : Nat) (s : Bool) (x q most : ℝ) (low : Prop) (r : Nat × FlagSet) : Prop :=
  ∃ n : ℤ, (RoundsUp rm s lane x → n = ⌊x⌋ + 1) ∧ (¬RoundsUp rm s lane x → n = ⌊x⌋) ∧
    (most < n * q → r = overflowResult f s rm sat) ∧
    (n * q ≤ most → r.1 < 2 ^ f.width ∧ (∃ s' m e, f.decode r.1 = .fin s' m e ∧ (f.fpParams.isSome → s' = s)) ∧
      ((f.decode r.1).rat : ℝ) = (if s then -1 else 1) * (n * q) ∧ (x - ⌊x⌋ = 0 → r.2 = flNone) ∧
      (0 < x - ⌊x⌋ → (f.fpParams.isSome = true ∧ low → r.2 = flNX ||| flUF) ∧
        (¬(f.fpParams.isSome = true ∧ low) → r.2 = flNX)))

section
variable {f : Elem} {rm : RMode} {sat s : Bool} {lane : Nat} {a : ℝ} {r : Nat × FlagSet}

theorem roundsTo_float {ew mw bias : Nat} (hf : f.fpParams = some (ew, mw, bias)) : RoundsTo f rm sat lane s a r ↔
    RoundedAt f rm sat lane s (a / 2 ^ (max (Int.log 2 a) (1 - bias) - (mw : ℤ))) (2 ^ (max (Int.log 2 a) (1 - bias) - (mw : ℤ)))
      ((f.decode f.maxCode).rat : ℝ) (a < 2 ^ (1 - (bias : ℤ))) r := by
  simp only [RoundsTo, RoundedAt, RoundsUp, hf] <;> rfl

theorem roundsTo_integer (hf : f.fpParams = none) : RoundsTo f rm sat lane s a r ↔
    RoundedAt f rm sat lane s (a / 2 ^ (-(f.quantumShift : ℤ))) (2 ^ (-(f.quantumShift : ℤ)))
      ((f.maxInt s * 2 ^ (-(f.quantumShift : ℤ)) : ℚ) : ℝ) (a < 2 ^ (0 : ℤ)) r := by
  simp only [RoundsTo, RoundedAt, RoundsUp, hf] <;> rfl

variable {x q most : ℝ} {low : Prop} {nd : Nat × Nat} (hden : 0 < nd.2) (hq : (nd.1 : ℝ) / nd.2 = x)
include hden hq

/-- Whether the model increases the magnitude (R45). -/
theorem roundInc_iff (rm : RMode) (s : Bool) (lane : Nat) :
    roundInc rm s (nd.1 / nd.2) (nd.1 % nd.2) nd.2 lane = true ↔ RoundsUp rm s lane x := by
  have hpos : (0 : ℝ) < nd.2 := by exact_mod_cast hden
  unfold RoundsUp
  rw [discarded_part hden hq]
  have hzero : (0 : ℝ) < ((nd.1 % nd.2 : Nat) : ℝ) / nd.2 ↔ 0 < nd.1 % nd.2 := by
    rw [div_pos_iff_of_pos_right hpos]
    exact_mod_cast Iff.rfl
  cases rm with
  | rtz => simp [roundInc]
  | rdn => simp only [roundInc, Bool.and_eq_true, decide_eq_true_eq, hzero, gt_iff_lt]
  | rup => simp only [roundInc, Bool.and_eq_true, Bool.not_eq_true', decide_eq_true_eq, hzero, gt_iff_lt]
  | rne =>
    have hhalf : (1 : ℝ) / 2 < ((nd.1 % nd.2 : Nat) : ℝ) / nd.2 ↔ nd.2 < 2 * (nd.1 % nd.2) := by
      rw [div_lt_div_iff₀ two_pos hpos, one_mul, mul_comm]
      exact_mod_cast Iff.rfl
    have htie : ((nd.1 % nd.2 : Nat) : ℝ) / nd.2 = 1 / 2 ↔ 2 * (nd.1 % nd.2) = nd.2 := by
      rw [div_eq_div_iff hpos.ne' two_ne_zero, one_mul, mul_comm]
      exact_mod_cast Iff.rfl
    simp only [roundInc, Bool.or_eq_true, Bool.and_eq_true, beq_iff_eq, decide_eq_true_eq, hhalf, htie, kept_part hq, gt_iff_lt]
    exact or_congr_right (and_congr_right fun _ => by omega)
  | sr =>
    have hfloor : ⌊((nd.1 % nd.2 : Nat) : ℝ) / nd.2 * 2 ^ 32⌋ = ((nd.1 % nd.2 * 2 ^ 32 / nd.2 : Nat) : ℤ) := by
      rw [div_mul_eq_mul_div, Int.floor_div_natCast, Int.natCast_div]
      congr 1
      exact_mod_cast Int.floor_natCast (R := ℝ) (nd.1 % nd.2 * 2 ^ 32)
    simp only [roundInc, decide_eq_true_eq, hfloor, ge_iff_le]
    omega

/-- A result that has the rounded magnitude and the flags of its discarded part is the rounding. -/
theorem roundedAt_of
    (hover : most < ((nd.1 / nd.2 + (roundInc rm s (nd.1 / nd.2) (nd.1 % nd.2) nd.2 lane).toNat : Nat) : ℝ) * q →
      r = overflowResult f s rm sat)
    (hfits : ((nd.1 / nd.2 + (roundInc rm s (nd.1 / nd.2) (nd.1 % nd.2) nd.2 lane).toNat : Nat) : ℝ) * q ≤ most →
      r.1 < 2 ^ f.width ∧ (∃ s' m e, f.decode r.1 = .fin s' m e ∧ (f.fpParams.isSome → s' = s)) ∧
      ((f.decode r.1).rat : ℝ) = (if s then -1 else 1) *
        (((nd.1 / nd.2 + (roundInc rm s (nd.1 / nd.2) (nd.1 % nd.2) nd.2 lane).toNat : Nat) : ℝ) * q) ∧
      (nd.1 % nd.2 = 0 → r.2 = flNone) ∧ (nd.1 % nd.2 ≠ 0 → (f.fpParams.isSome = true ∧ low → r.2 = flNX ||| flUF) ∧
        (¬(f.fpParams.isSome = true ∧ low) → r.2 = flNX))) :
    RoundedAt f rm sat lane s x q most low r := by
  have hinc := roundInc_iff hden hq rm s lane
  have hkept := kept_part hq
  have hpos : (0 : ℝ) < nd.2 := by exact_mod_cast hden
  refine ⟨((nd.1 / nd.2 + (roundInc rm s (nd.1 / nd.2) (nd.1 % nd.2) nd.2 lane).toNat : Nat) : ℤ), fun hup => ?_, fun hstay => ?_,
    by rw [Int.cast_natCast]; exact hover, ?_⟩
  · rw [hkept, hinc.2 hup]
    rfl
  · rw [hkept, Bool.eq_false_iff.2 (mt hinc.1 hstay)]
    rfl
  · rw [Int.cast_natCast, discarded_part hden hq]
    intro hle
    obtain ⟨hlt, hfin, hrat, hexact, hflags⟩ := hfits hle
    refine ⟨hlt, hfin, hrat, fun h => hexact ?_, fun h => hflags fun hz => ?_⟩
    · rw [div_eq_zero_iff, Nat.cast_eq_zero] at h
      exact h.resolve_right hpos.ne'
    · rw [hz] at h
      simp at h

end

section
variable {f : Elem} {ew mw bias : Nat} (hf : f.fpParams = some (ew, mw, bias))
include hf

theorem Elem.rat_code (s : Bool) {c : Nat} (hc : c ≤ f.maxCode) :
    ((f.decode (f.signBit s + c)).rat : ℝ) = (if s then -1 else 1) * codeMag mw bias c := by
  rw [(Elem.decode_code hf s hc).2, FVal.rat, codeMag]
  cases s <;> simp

theorem Elem.rat_maxCode : ((f.decode f.maxCode).rat : ℝ) = codeMag mw bias f.maxCode := by
  have h := Elem.rat_code hf false le_rfl
  have hzero : f.signBit false + f.maxCode = f.maxCode := Nat.zero_add _
  rwa [hzero, if_neg Bool.false_ne_true, one_mul] at h

omit hf in
/-- The kept part of a magnitude has at most one bit more than the mantissa, and exactly that where it is normal. -/
theorem kept_bounds {a : ℝ} (ha : 0 < a) {e emin : ℤ} (he : max (Int.log 2 a) emin = e) (mw : Nat) :
    a / 2 ^ (e - (mw : ℤ)) < 2 ^ (mw + 1) ∧ (emin < e → 2 ^ mw ≤ a / 2 ^ (e - (mw : ℤ))) := by
  have hq : (0 : ℝ) < 2 ^ (e - (mw : ℤ)) := zpow_pos two_pos _
  have hsplit (j : ℤ) : (2 : ℝ) ^ (j + mw) * 2 ^ (e - (mw : ℤ)) = 2 ^ (j + e) := by
    rw [← zpow_add₀ two_ne_zero]
    congr 1
    ring
  constructor
  · rw [div_lt_iff₀ hq, ← zpow_natCast, show ((mw + 1 : Nat) : ℤ) = 1 + mw by push_cast; ring, hsplit]
    exact (Int.lt_zpow_iff_log_lt one_lt_two ha).2 (by omega)
  · intro h
    have hzero := hsplit 0
    rw [zero_add, zero_add, zpow_natCast] at hzero
    rw [le_div_iff₀ hq, hzero]
    exact (Int.zpow_le_iff_le_log one_lt_two ha).2 (by omega)

/-- round_to_format of a floating element (R45). -/
theorem roundToFormat_float (rm : RMode) (sat : Bool) (lane : Nat) (s : Bool) {num den : Nat} (hn : 0 < num) (hd : 0 < den) :
    RoundsTo f rm sat lane s ((num : ℝ) / den) (roundToFormat (.fin s num den) f rm sat lane) := by
  have hlog := floorLog2_eq (K := ℝ) hn hd
  have ha : (0 : ℝ) < (num : ℝ) / den := div_pos (by exact_mod_cast hn) (by exact_mod_cast hd)
  rw [roundsTo_float hf]
  simp only [roundToFormat, hf, hn.ne', if_false, hlog]
  have hnd := scalePow_div (K := ℝ) num den ((mw : Int) - max (Int.log 2 ((num : ℝ) / den)) (1 - bias))
  have hpos := scalePow_den_pos (num := num) hd ((mw : Int) - max (Int.log 2 ((num : ℝ) / den)) (1 - bias))
  generalize scalePow num den ((mw : Int) - max (Int.log 2 ((num : ℝ) / den)) (1 - bias)) = nd at hnd hpos
  generalize (num : ℝ) / den = a at hnd ha
  obtain ⟨hlt, hnormal⟩ := kept_bounds ha (e := max (Int.log 2 a) (1 - bias)) rfl mw
  have hlow : a < 2 ^ (1 - (bias : ℤ)) ↔ Int.log 2 a < 1 - bias := Int.lt_zpow_iff_log_lt one_lt_two ha
  have hemin : 1 - (bias : ℤ) ≤ max (Int.log 2 a) (1 - bias) := le_max_right _ _
  generalize max (Int.log 2 a) (1 - bias) = e at hnd hlt hnormal hemin
  have hq : (nd.1 : ℝ) / nd.2 = a / 2 ^ (e - mw) := by
    rw [hnd, ← neg_sub e, zpow_neg, div_eq_mul_inv]
  generalize a / 2 ^ (e - mw) = x at hq hlt hnormal
  have hkept := kept_part hq
  have ht : nd.1 / nd.2 < 2 ^ (mw + 1) := by
    have h : ⌊x⌋ < ((2 ^ (mw + 1) : Nat) : ℤ) := Int.floor_lt.2 (by push_cast; exact hlt)
    rw [hkept] at h
    exact_mod_cast h
  have hmin : (e - (1 - (bias : ℤ))).toNat = 0 ∨ 2 ^ mw ≤ nd.1 / nd.2 := by
    by_cases h : 1 - (bias : ℤ) < e
    · have hle : ((2 ^ mw : Nat) : ℤ) ≤ ⌊x⌋ := Int.le_floor.2 (by push_cast; exact hnormal h)
      rw [hkept] at hle
      exact Or.inr (by exact_mod_cast hle)
    · exact Or.inl (by omega)
  have hexp : (((e - (1 - (bias : ℤ))).toNat : Nat) : ℤ) + 1 - bias - mw = e - mw := by omega
  generalize (e - (1 - (bias : ℤ))).toNat = k at hmin hexp ⊢
  have hone : (roundInc rm s (nd.1 / nd.2) (nd.1 % nd.2) nd.2 lane).toNat ≤ 1 := Bool.toNat_le _
  generalize hm : nd.1 / nd.2 + (roundInc rm s (nd.1 / nd.2) (nd.1 % nd.2) nd.2 lane).toNat = m
  have hmag : codeMag mw bias (k * 2 ^ mw + m) = m * 2 ^ (e - (mw : ℤ)) := by
    rw [codeMag_eq (hmin.imp_right fun h => by omega) (by omega), hexp]
  refine roundedAt_of hpos hq ?_ ?_ <;> rw [hm, ← hmag, Elem.rat_maxCode hf]
  · intro h
    exact if_pos ((codeMag_strictMono mw bias).lt_iff_lt.1 h)
  · intro h
    have hle : k * 2 ^ mw + m ≤ f.maxCode := (codeMag_strictMono mw bias).le_iff_le.1 h
    obtain ⟨hwidth, hdecode⟩ := Elem.decode_code hf s hle
    rw [if_neg (Nat.not_lt.2 hle)]
    refine ⟨hwidth, ⟨s, _, _, hdecode, fun _ => rfl⟩, Elem.rat_code hf s hle, fun hz => if_pos hz, fun hz =>
      ⟨fun hl => (if_neg hz).trans (if_pos (hlow.1 hl.2)), fun hl => (if_neg hz).trans (if_neg fun hlt => hl ⟨?_, hlow.2 hlt⟩)⟩⟩
    rw [hf]
    rfl

end

/-! The integer elements (R36, R45). -/

theorem Elem.decode_intCode {f : Elem} (hf : f.fpParams = none) (s : Bool) {n : Nat} (hn : n ≤ f.maxInt s) :
    f.intCode s n < 2 ^ f.width ∧ ∃ s', f.decode (f.intCode s n) = .fin s' n (-(f.quantumShift : Int)) ∧ (s' = s ∨ n = 0) := by
  have hcode : f.intCode s n < 2 ^ f.width ∧
      (if f.signed then sextNat (f.intCode s n) f.width else (f.intCode s n : Int)) = if s then -(n : Int) else n := by
    cases s <;> cases f <;> simp only [Elem.fpParams, reduceCtorEq] at hf <;>
      simp only [Elem.maxInt, Elem.width, Bool.false_eq_true, if_true, if_false] at hn <;>
      simp only [Elem.intCode, Elem.width, Elem.signed, sextNat, Bool.false_eq_true, if_true, if_false, and_true] <;>
      omega
  obtain ⟨hlt, hval⟩ := hcode
  refine ⟨hlt, decide ((if s then -(n : Int) else n) < 0), ?_, ?_⟩
  · simp only [Elem.decode, hf, Nat.mod_eq_of_lt hlt, hval]
    cases s <;> simp
  · cases s <;> simp [Nat.pos_iff_ne_zero, or_comm, em]

/-- round_to_format of an integer element (R45). -/
theorem roundToFormat_integer {f : Elem} (hf : f.fpParams = none) (rm : RMode) (sat : Bool) (lane : Nat) (s : Bool) {num den : Nat}
    (hn : 0 < num) (hd : 0 < den) :
    RoundsTo f rm sat lane s ((num : ℝ) / den) (roundToFormat (.fin s num den) f rm sat lane) := by
  rw [roundsTo_integer hf]
  simp only [roundToFormat, hf, hn.ne', if_false]
  have hq : (((num * 2 ^ f.quantumShift, den) : Nat × Nat).1 : ℝ) / ((num * 2 ^ f.quantumShift, den) : Nat × Nat).2 =
      (num : ℝ) / den / 2 ^ (-(f.quantumShift : ℤ)) := by
    simp only [zpow_neg, zpow_natCast, div_inv_eq_mul]
    push_cast
    ring
  have hquantum : (0 : ℝ) < 2 ^ (-(f.quantumShift : ℤ)) := zpow_pos two_pos _
  refine roundedAt_of hd hq ?_ ?_ <;>
    generalize hm : num * 2 ^ f.quantumShift / den +
      (roundInc rm s (num * 2 ^ f.quantumShift / den) (num * 2 ^ f.quantumShift % den) den lane).toNat = m <;>
    push_cast <;> intro h
  · exact if_pos (by exact_mod_cast lt_of_mul_lt_mul_right h hquantum.le)
  · have hle : m ≤ f.maxInt s := by exact_mod_cast le_of_mul_le_mul_right h hquantum
    obtain ⟨hwidth, s', hdecode, hs⟩ := Elem.decode_intCode hf s hle
    rw [if_neg (Nat.not_lt.2 hle)]
    refine ⟨hwidth, ⟨s', _, _, hdecode, (fun h => by rw [hf] at h; cases h)⟩, ?_, (fun hz => if_pos hz), fun hz =>
      ⟨fun hl => absurd hl.1 (by rw [hf]; decide), fun _ => if_neg hz⟩⟩
    rw [hdecode, FVal.rat]
    rcases hs with rfl | rfl
    · cases s' <;> simp
    · simp

/-- round_to_format (R45). -/
theorem roundToFormat_roundsTo (f : Elem) (rm : RMode) (sat : Bool) (lane : Nat) (s : Bool) {num den : Nat} (hn : 0 < num)
    (hd : 0 < den) : RoundsTo f rm sat lane s ((num : ℝ) / den) (roundToFormat (.fin s num den) f rm sat lane) := by
  cases hf : f.fpParams with
  | none => exact roundToFormat_integer hf rm sat lane s hn hd
  | some p => exact roundToFormat_float hf rm sat lane s hn hd

theorem roundToFormat_zero (f : Elem) (rm : RMode) (sat s : Bool) (lane den : Nat) :
    roundToFormat (.fin s 0 den) f rm sat lane = (if f.fpParams.isSome ∧ s = true then 2 ^ (f.width - 1) else 0, flNone) := by
  cases hf : f.fpParams with
  | none => simp [roundToFormat, hf]
  | some p => simp [roundToFormat, hf, Elem.signBit]

end Sys2Proof.Machine

/-! ### The matrix unit -/

namespace Sys2Proof.Machine

/-! The checks that a description places before SLIP_EMPTY (R131, R397). -/

section
variable {i : Instr} {pre : Cx → Chk Unit} {body : Cx → State → Chk (State × Next)} {s : State} {cx : Cx}

/-- An instruction whose early check fails. -/
theorem raises_pre {f : Flt} (he : exec i s = issue i pre body s) (hr : Ready i s cx) (hp : pre cx = .error f) : Raises i cx s f := by
  refine he.trans (issue_check hr.1 ?_)
  simp only [issueChecks, hr.2.legal, hr.2.timed, hp]
  cases slotFirst i <;> rfl

/-- An instruction that is ready reads no damaged register. -/
theorem Clear.regDamage_eq (h : Clear i cx) : (regDamage cx i).isSome = false := by
  have hs := h.sound
  unfold damageCheck at hs
  split at hs
  · cases hs
  · next hn => rw [hn]; rfl

end

/-! The operands of an mma (R125, R126, R131). -/

/-- The mask of the numbers that pass a test. -/
theorem sum_pow_lt (p : Nat → Bool) (n : Nat) : (((List.range n).filter p).map fun e => 2 ^ e).sum < 2 ^ n := by
  induction n with
  | zero => simp
  | succ n ih =>
    rw [List.range_succ, List.filter_append, List.map_append, List.sum_append, pow_succ]
    cases h : p n <;> simp [h] <;> omega

theorem testBit_sum_pow (p : Nat → Bool) {n e : Nat} (he : e < n) :
    (((List.range n).filter p).map fun e => 2 ^ e).sum.testBit e = p e := by
  induction n with
  | zero => omega
  | succ n ih =>
    rw [List.range_succ, List.filter_append, List.map_append, List.sum_append]
    have hlt := sum_pow_lt p n
    rcases Nat.lt_succ_iff_lt_or_eq.1 he with he | rfl
    · cases h : p n with
      | false => simpa [h] using ih he
      | true =>
        rw [Nat.add_comm]
        simpa [h, Nat.testBit_two_pow_add_gt he] using ih he
    · cases h : p e with
      | false => simp [h, Nat.testBit_lt_two_pow hlt]
      | true =>
        rw [Nat.add_comm]
        simp [h, Nat.testBit_two_pow_add_eq, Nat.testBit_lt_two_pow hlt]

theorem mmaForm_live (tc : TileCx) (cx : Cx) (m : List Host.Cell) (z : Fin 4) (fa fb : Fmt) (pa pb : Nat) (sa sb : Quad)
    (ha hb : BitVec 1) {e : Nat} (he : e < 64) :
    (mmaForm tc cx m z fa fb pa pb sa sb ha hb).live.getLsbD e = tc.tile.mg.live tc.tile.z[z].mask z.val e := by
  simp only [mmaForm, BitVec.getLsbD_ofNat, he, decide_true, Bool.true_and]
  exact testBit_sum_pow _ he

theorem mmaLine_eq (l : List Byte) (f : Fmt) (sc : Quad) (hi : BitVec 1) (i : Nat) : mmaLine l f sc hi i =
    (List.range 32).map fun k =>
      scaledVal (f.elem.decode (leNat l / 2 ^ (f.elem.width * k) % 2 ^ f.elem.width)) (mmaScale f sc hi i k) := by
  refine List.ext_getElem (by simp [mmaLine, lanesOf]) fun k h1 h2 => ?_
  simp [mmaLine, lanesOf]

theorem mmaScale_eq (f : Fmt) (sc : Quad) (hi : BitVec 1) (i k : Nat) : mmaScale f sc hi i k =
    if f.scale = .none then some (1, 0)
    else scaleVal f.scale
      (sc.toNat / 2 ^ (8 * if f.tensor then 0 else if f.block = 16 then 2 * i + k / 16 else i + 8 * hi.toNat) % 256) := by
  simp only [mmaScale, beq_iff_eq]

/-- The units of an element (R131). -/
theorem mmaElement_eq (anc : Int) (ul : Nat) (a b : Nat → FVal) :
    mmaElement anc ul ((List.range 32).map a) ((List.range 32).map b) =
      if ul = 16 then [mmaUnit anc ((List.range 16).map fun k => (a (0 + k), b (0 + k))),
        mmaUnit anc ((List.range 16).map fun k => (a (16 + k), b (16 + k)))]
      else [mmaUnit anc ((List.range 32).map fun k => (a (0 + k), b (0 + k)))] := by
  have hzip : ((List.range 32).map a).zip ((List.range 32).map b) = (List.range 32).map fun k => (a k, b k) := by
    rw [List.zip_map']
  have htake : (List.range 32).take 16 = List.range 16 := by decide
  have hdrop : (List.range 32).drop 16 = (List.range 16).map fun k => 16 + k := by decide
  simp only [mmaElement, hzip, ← List.map_take, ← List.map_drop, htake, hdrop, List.map_map, Nat.zero_add]
  rfl

theorem getD_zipIdx_map {α β : Type} (g : α × Nat → β) {l : List α} {i : Nat} (hi : i < l.length) (x : α) (y : β) :
    (l.zipIdx.map g).getD i y = g (l.getD i x, i) := by
  simp [List.getD_eq_getElem?_getD, hi]

section
variable {op : MmaOp} {fa fb : Fmt} (ha : fmtOf op.fa = some fa) (hb : fmtOf op.fb = some fb)
include ha hb

/-- The contributions of an mma, by its lines (R131). -/
theorem MmaOp.contributions_eq : op.contributions = ((List.range 64).filter fun e => op.live.getLsbD e).map fun e =>
    (e, mmaElement op.anchor.toInt (if fa.block = 16 ∨ fb.block = 16 then 16 else 32)
      ((op.rows.zipIdx.map fun p => mmaLine p.1 fa op.sa op.ha p.2).getD (e / 8) [])
      ((op.cols.zipIdx.map fun p => mmaLine p.1 fb op.sb op.hb p.2).getD (e % 8) [])) := by
  simp only [MmaOp.contributions, ha, hb]

theorem MmaOp.contributions_keys : op.contributions.map Prod.fst = (List.range 64).filter fun e => op.live.getLsbD e := by
  rw [MmaOp.contributions_eq ha hb, List.map_map]
  exact List.map_id _

theorem MmaOp.contributions_units {c : Nat × List (Option Int)} (hc : c ∈ op.contributions) :
    c.2.length = if fa.block = 16 ∨ fb.block = 16 then 2 else 1 := by
  rw [MmaOp.contributions_eq ha hb] at hc
  obtain ⟨e, -, rfl⟩ := List.mem_map.1 hc
  by_cases h : fa.block = 16 ∨ fb.block = 16 <;> simp [mmaElement, h]

end

/-! Exact sums (R49). -/

theorem foldl_min_le (l : List (Int × Int)) (a : Int) :
    l.foldl (fun a p => min a p.2) a ≤ a ∧ ∀ p ∈ l, l.foldl (fun a p => min a p.2) a ≤ p.2 := by
  induction l generalizing a with
  | nil => exact ⟨le_rfl, fun p hp => by cases hp⟩
  | cons x r ih =>
    obtain ⟨hle, hmem⟩ := ih (min a x.2)
    refine ⟨hle.trans (min_le_left _ _), fun p hp => ?_⟩
    rcases List.mem_cons.1 hp with rfl | hp
    · exact hle.trans (min_le_right _ _)
    · exact hmem p hp

theorem foldl_add_eq (l : List (Int × Int)) (g : Int × Int → Int) (a : Int) : l.foldl (fun a p => a + g p) a = a + (l.map g).sum := by
  induction l generalizing a with
  | nil => simp
  | cons x r ih => rw [List.foldl_cons, ih, List.map_cons, List.sum_cons, add_assoc]

/-- floor_to_anchor is the floor of the exact sum over 2^anchor (R49). -/
theorem floorSum_eq (anc : Int) (l : List (Int × Int)) :
    floorSum anc l = ⌊(l.map fun p => (p.1 : ℚ) * (2 : ℚ) ^ p.2).sum / (2 : ℚ) ^ anc⌋ := by
  obtain ⟨hanc, hmin⟩ := foldl_min_le l anc
  dsimp only [floorSum]
  generalize l.foldl (fun a p => min a p.2) anc = e0 at hanc hmin
  have hscale {e : Int} (h : e0 ≤ e) : (2 : ℚ) ^ e = 2 ^ (e - e0).toNat * 2 ^ e0 := by
    rw [← zpow_natCast, ← zpow_add₀ two_ne_zero]
    congr 1
    omega
  have hsum : (l.map fun p => (p.1 : ℚ) * (2 : ℚ) ^ p.2).sum = ((l.map fun p => p.1 * 2 ^ (p.2 - e0).toNat).sum : Int) * 2 ^ e0 := by
    rw [Int.cast_list_sum, List.map_map, ← List.sum_map_mul_right]
    refine congrArg List.sum (List.map_congr_left fun p hp => ?_)
    simp only [Function.comp_apply, hscale (hmin p hp)]
    push_cast
    ring
  have hquot : (l.map fun p => (p.1 : ℚ) * (2 : ℚ) ^ p.2).sum / (2 : ℚ) ^ anc =
      ((l.map fun p => p.1 * 2 ^ (p.2 - e0).toNat).sum : Int) / ((2 ^ (anc - e0).toNat : Nat) : ℚ) := by
    rw [hsum, hscale hanc, mul_div_mul_right _ _ (zpow_ne_zero _ two_ne_zero)]
    push_cast
    rfl
  rw [hquot, Rat.floor_intCast_div_natCast, foldl_add_eq l (fun p => p.1 * 2 ^ (p.2 - e0).toNat), zero_add]
  push_cast
  rfl

/-- A unit: nothing where an input is not finite, else the floored sum of its products (R49). -/
theorem mmaUnit_nonfinite {anc : Int} {l : List (FVal × FVal)} (h : none ∈ l.map fun p => finTerm p.1 p.2) : mmaUnit anc l = none := by
  refine if_neg fun hall => ?_
  cases List.all_eq_true.1 hall _ h

theorem mmaUnit_finite {anc : Int} {l : List (FVal × FVal)} {ts : List (Int × Int)} (h : (l.map fun p => finTerm p.1 p.2) = ts.map some) :
    mmaUnit anc l = some (floorSum anc ts) := by
  simp only [mmaUnit, h]
  simp

/-! An mma's contributions added (R50, R128). -/

section
variable {cs : List (Nat × List (Option Int))}

/-- The additions of one element's units. -/
def unitAdds (c : Nat × List (Option Int)) : List (Nat × Int) := c.2.map fun v => (c.1, v.getD 0)

theorem Acc.addAll_append (z : Acc) (l m : List (Nat × Int)) : z.addAll (l ++ m) = (z.addAll l).addAll m := List.foldl_append ..

theorem unitAdds_sum (cs : List (Nat × List (Option Int))) (e : Nat) :
    (((cs.flatMap unitAdds).filter fun p => p.1 == e).map Prod.snd).sum =
      ((cs.filter fun c => c.1 == e).flatMap fun c => c.2.map fun v => v.getD 0).sum := by
  induction cs with
  | nil => rfl
  | cons c r ih =>
    rw [List.flatMap_cons, List.filter_append, List.map_append, List.sum_append, ih, List.filter_cons]
    by_cases h : c.1 = e
    · simp [unitAdds, h, List.filter_map, Function.comp_def]
    · have hne : (c.1 == e) = false := by simpa using h
      simp [unitAdds, hne, List.filter_map, Function.comp_def]

/-- The value of an element before unit k of its contributions. -/
def Acc.before (z : Acc) (e : Fin 64) (l : List (Option Int)) (k : Nat) : BitVec 96 :=
  BitVec.ofInt 96 ((z.el[e]).toInt + ((l.take k).map fun v => v.getD 0).sum)

/-- OV after the units of one element. -/
theorem Acc.unitAdds_ov (z : Acc) (e : Fin 64) (l : List (Option Int)) : (z.addAll (unitAdds (e.val, l))).ov = true ↔ z.ov = true ∨
    ∃ k < l.length, AccOverflows ((z.before e l k).toInt + (l.getD k none).getD 0) := by
  induction l generalizing z with
  | nil => simp [unitAdds, Acc.addAll]
  | cons v r ih =>
    have hr : z.addAll (unitAdds (e.val, v :: r)) = (z.add e.val (v.getD 0)).addAll (unitAdds (e.val, r)) := rfl
    have hnext (k : Nat) : (z.add e.val (v.getD 0)).before e r k = z.before e (v :: r) (k + 1) := by
      rw [Acc.before, Acc.before, Acc.add_el, if_pos rfl, ofInt_toInt_ofInt_add, List.take_succ_cons, List.map_cons, List.sum_cons,
        add_assoc]
    have hfirst : z.before e (v :: r) 0 = z.el[e] := by simp [Acc.before]
    rw [hr, ih, Acc.add_ov, or_assoc]
    refine or_congr_right ⟨fun h => ?_, fun h => ?_⟩
    · rcases h with h | ⟨k, hk, ho⟩
      · exact ⟨0, Nat.succ_pos _, by rw [hfirst]; exact h⟩
      · exact ⟨k + 1, Nat.succ_lt_succ hk, by rw [← hnext]; exact ho⟩
    · obtain ⟨k, hk, ho⟩ := h
      cases k with
      | zero => exact Or.inl (by rw [hfirst] at ho; exact ho)
      | succ k => exact Or.inr ⟨k, Nat.lt_of_succ_lt_succ hk, by rw [← hnext] at ho; exact ho⟩

/-- OV after the units of elements of which none is named twice. -/
theorem Acc.allUnits_ov (z : Acc) (hkeys : ∀ c ∈ cs, c.1 < 64) (hnodup : (cs.map Prod.fst).Nodup) :
    (z.addAll (cs.flatMap unitAdds)).ov = true ↔ z.ov = true ∨ ∃ c ∈ cs, ∃ e : Fin 64, c.1 = e.val ∧
      ∃ k < c.2.length, AccOverflows ((z.before e c.2 k).toInt + (c.2.getD k none).getD 0) := by
  induction cs generalizing z with
  | nil => simp [Acc.addAll]
  | cons c r ih =>
    obtain ⟨n, l⟩ := c
    have hn : n < 64 := hkeys _ List.mem_cons_self
    rw [List.map_cons, List.nodup_cons] at hnodup
    obtain ⟨hfresh, hnodup⟩ := hnodup
    have hother {c : Nat × List (Option Int)} (hc : c ∈ r) (e : Fin 64) (he : c.1 = e.val) (k : Nat) :
        (z.addAll (unitAdds (n, l))).before e c.2 k = z.before e c.2 k := by
      rw [Acc.before, Acc.before, Acc.addAll_el_of_not_mem z fun p hp => ?_]
      obtain ⟨v, -, rfl⟩ := List.mem_map.1 hp
      exact fun h => hfresh (List.mem_map.2 ⟨c, hc, he.trans h.symm⟩)
    rw [List.flatMap_cons, Acc.addAll_append, ih _ (fun c hc => hkeys c (List.mem_cons_of_mem _ hc)) hnodup,
      Acc.unitAdds_ov z ⟨n, hn⟩ l, or_assoc]
    refine or_congr_right ⟨fun h => ?_, fun h => ?_⟩
    · rcases h with ⟨k, hk, ho⟩ | ⟨c, hc, e, he, k, hk, ho⟩
      · exact ⟨(n, l), List.mem_cons_self, ⟨n, hn⟩, rfl, k, hk, ho⟩
      · rw [hother hc e he] at ho
        exact ⟨c, List.mem_cons_of_mem _ hc, e, he, k, hk, ho⟩
    · obtain ⟨c, hc, e, he, k, hk, ho⟩ := h
      rcases List.mem_cons.1 hc with rfl | hc
      · obtain rfl : (⟨n, hn⟩ : Fin 64) = e := Fin.ext he
        exact Or.inl ⟨k, hk, ho⟩
      · exact Or.inr ⟨c, hc, e, he, k, hk, by rw [hother hc e he]; exact ho⟩

end

theorem MmaOp.contributions_sound (op : MmaOp) :
    (∀ c ∈ op.contributions, c.1 < 64) ∧ (op.contributions.map Prod.fst).Nodup := by
  cases ha : fmtOf op.fa with
  | none => simp [MmaOp.contributions, ha]
  | some fa =>
    cases hb : fmtOf op.fb with
    | none => simp [MmaOp.contributions, ha, hb]
    | some fb =>
      have hkeys := MmaOp.contributions_keys ha hb
      rw [hkeys]
      refine ⟨fun c hc => ?_, List.nodup_range.filter _⟩
      have hmem := List.mem_map_of_mem (f := Prod.fst) hc
      rw [hkeys] at hmem
      exact List.mem_range.1 (List.mem_filter.1 hmem).1

/-- An accumulator with an mma's contributions added (R49, R50). -/
theorem Acc.addMma_outcome (z : Acc) (op : MmaOp) :
    (z.addMma op).anchor = z.anchor ∧ (z.addMma op).mask = z.mask ∧
      ((z.addMma op).iv = true ↔ z.iv = true ∨ ∃ c ∈ op.contributions, none ∈ c.2) ∧
      ((z.addMma op).ov = true ↔ z.ov = true ∨ ∃ c ∈ op.contributions, ∃ e : Fin 64, c.1 = e.val ∧
        ∃ k < c.2.length, AccOverflows ((z.before e c.2 k).toInt + (c.2.getD k none).getD 0)) ∧
      ∀ e : Fin 64, (z.addMma op).el[e] = BitVec.ofInt 96 ((z.el[e]).toInt +
        ((op.contributions.filter fun c => c.1 == e.val).flatMap fun c => c.2.map fun v => v.getD 0).sum) := by
  obtain ⟨hkeys, hnodup⟩ := op.contributions_sound
  let z1 : Acc := { z with iv := z.iv || op.contributions.any fun p => p.2.any Option.isNone }
  have hz : z.addMma op = z1.addAll (op.contributions.flatMap unitAdds) := rfl
  obtain ⟨hanchor, hiv, hmask⟩ := z1.addAll_frame (op.contributions.flatMap unitAdds)
  rw [hz]
  refine ⟨hanchor, hmask, ?_, z1.allUnits_ov hkeys hnodup, fun e => ?_⟩
  · rw [hiv]
    simp only [z1, Bool.or_eq_true, List.any_eq_true, Option.isNone_iff_eq_none]
    exact or_congr_right (exists_congr fun c => and_congr_right fun _ => ⟨fun ⟨v, hv, h⟩ => h ▸ hv, fun h => ⟨none, h, rfl⟩⟩)
  · rw [Acc.addAll_el, unitAdds_sum]

/-! mma as an instruction (R131). -/

theorem execMmaComplete_eq {t : Coord} {s : State} {q : Part} {op : MmaOp} (hq : s.partOf t = some q) (hop : (s.tile t).mma = some op)
    (hdue : op.due ≤ q.cyc) (hd : (s.tile t).damage = []) :
    exec (.mmaComplete t) s =
      .next (s.modTile t fun tl => { tl with mma := none, z := tl.z.set op.z ((s.tile t).z[op.z].addMma op) }) := by
  show execMmaComplete t s = _
  simp only [execMmaComplete, hq, hop, if_pos hdue, hd]
  rfl

section
variable {z : Fin 4} {a b : RegNo} {sca scb : BitVec 3} {ha hb : BitVec 1} {s : State} {cx : Cx} {tc : TileCx}
  (hr : Ready (.mma z a b sca scb ha hb) s cx)
include hr

theorem mma_reserved (h : fmtOf (fmFA cx.slot.fm) = none ∨ fmtOf (fmFB cx.slot.fm) = none) :
    Raises (.mma z a b sca scb ha hb) cx s { code := 0x02 } := by
  have hf : mmaFormats cx.slot.fm = .error { code := fcFormat } := by
    unfold mmaFormats
    split
    · next fa fb h1 h2 => simp [h1, h2] at h
    · rfl
  have he : exec (.mma z a b sca scb ha hb) s = execMma z a b sca scb ha hb s := rfl
  dsimp only [execMma] at he
  refine raises_pre he hr ?_
  simp only [hr.2.regDamage_eq, hf]
  rfl

variable (ht : cx.tile = .ok tc) {fa fb : Fmt} {pa : Nat} (hfa : fmtOf (fmFA cx.slot.fm) = some fa)
  (hfb : fmtOf (fmFB cx.slot.fm) = some fb) (hspan : checkSpan (cx.read a) 0 (32 * fa.elem.width) 0x001 16 0 0x8000 = .ok pa)
  (hcols : checkColumns (cx.read b) (4 * fb.elem.width) 8 = .ok ())
include ht hfa hfb hspan hcols

theorem mma_outcome :
    (tc.tile.mma ≠ none → Raises (.mma z a b sca scb ha hb) cx s { code := 0x12, reason := 0x07 }) ∧
    (tc.tile.damage = [] → tc.tile.mma = none → ∀ op,
      op = mmaForm tc cx s.mem z fa fb pa (capCur (cx.data b)).toNat (cx.scale sca) (cx.scale scb) ha hb →
      Completes (.mma z a b sca scb ha hb) cx s (s.modTile tc.t fun x => { x with mma := some op }) .seq) := by
  have hf : mmaFormats cx.slot.fm = .ok (fa, fb) := by simp only [mmaFormats, hfa, hfb]
  have hspan : checkSpan (cx.read a) 0 (8 * (4 * fa.elem.width)) pLD 16 0 0x8000 = .ok pa := by
    rw [← Nat.mul_assoc]
    exact hspan
  have he : exec (.mma z a b sca scb ha hb) s = execMma z a b sca scb ha hb s := rfl
  dsimp only [execMma] at he
  have hpre : (if (regDamage cx (.mma z a b sca scb ha hb)).isSome = true then (.ok () : Chk Unit)
      else match mmaFormats cx.slot.fm with | .error e => .error e | .ok _ => .ok ()) = .ok () := by
    simp only [hr.2.regDamage_eq, hf]
    rfl
  refine ⟨fun hbusy => raises_of he hr hpre ?_, fun hd hfree op hop => completes_of he hr hpre ?_⟩
  · simp only [ht, hf, hspan, hcols, Option.isSome_iff_ne_none.2 hbusy, if_true]
    rfl
  · simp only [ht, hf, hspan, hcols, hfree, Option.isSome_none, Bool.false_eq_true, if_false, Tile.eccAt_sound hd, Tile.accEcc_sound hd]
    subst hop
    have hs : (s.tile tc.t).damage = [] := by rw [(hr.1.tile_eq ht).1, hd]
    refine congrArg (fun t => Except.ok (t, Next.seq)) (congrArg (s.setTile tc.t) ?_)
    simp only [hs]
    rfl

end

/-- Settles O33: mma is its checks and the operands that it reads; what it adds at its end is a sum for each element, OV by the sums on
the way; a unit is the floor of one exact sum. -/
theorem mmaRuns : Obligations.MmaRuns := by
  refine ⟨⟨fun z a b sca scb ha hb s cx tc => ?_, fun t s q op hq hop hdue hd => ?_, fun fa fb op hfa hfb => ?_⟩, fun anc l => ?_,
    fun z e v => ?_⟩
  · intro i hr ht hd
    refine ⟨mma_reserved hr, fun fa fb pa hfa hfb hspan hcols => ?_⟩
    obtain ⟨hbusy, hfree⟩ := mma_outcome hr ht hfa hfb hspan hcols
    refine ⟨hbusy, fun hnone => ⟨_, hfree hd hnone _ rfl, rfl, rfl, hfa, hfb, rfl, rfl, rfl, rfl, rfl, rfl, rfl,
      fun e he => mmaForm_live _ _ _ _ _ _ _ _ _ _ _ _ he⟩⟩
  · exact ⟨_, execMmaComplete_eq hq hop hdue hd, Acc.addMma_outcome _ op⟩
  · refine ⟨MmaOp.contributions_keys hfa hfb, fun c hc => MmaOp.contributions_units hfa hfb hc, fun hrows hcols => ?_⟩
    intro scale value a b unit
    rw [MmaOp.contributions_eq hfa hfb]
    refine List.map_congr_left fun e he => congrArg (Prod.mk e) ?_
    have he : e < 64 := List.mem_range.1 (List.mem_filter.1 he).1
    rw [getD_zipIdx_map _ (show e / 8 < op.rows.length by omega) [], getD_zipIdx_map _ (show e % 8 < op.cols.length by omega) [],
      mmaLine_eq, mmaLine_eq, mmaElement_eq]
    simp only [mmaScale_eq]
    by_cases h16 : fa.block = 16 ∨ fb.block = 16
    · rw [if_pos h16, if_pos h16, if_pos rfl]
    · rw [if_neg h16, if_neg h16, if_neg (by decide)]
  · exact ⟨mmaUnit_nonfinite, fun ts h => by rw [mmaUnit_finite h, floorSum_eq]⟩
  · obtain ⟨hanchor, hiv, hmask⟩ := z.add_frame e.val v
    exact ⟨by rw [Acc.add_el, if_pos rfl], z.add_ov e v,
      fun k hk => by rw [Acc.add_el, if_neg fun h => hk (Fin.ext h.symm)], hanchor, hiv, hmask⟩

/-! mz.rd and mgeo (R130, R135, R136). -/

theorem Mg.live_iff (g : Mg) (mask : BitVec 64) (k e : Nat) : g.live mask k e = true ↔ mask.getLsbD e = true ∧
    (g.mdim = 0 ∨ (g.coords k e).1 < g.mdim.toNat) ∧ (g.ndim = 0 ∨ (g.coords k e).2 < g.ndim.toNat) := by
  simp only [Mg.live, Bool.and_eq_true, Bool.or_eq_true, beq_iff_eq, decide_eq_true_eq, and_assoc]

section
variable (g : Mg) (k : Nat) (acc : Acc) (f : Elem) (rm : RMode) (sat : Bool) (sr : Quad) (e : Fin 64)

theorem mzLane_masked (h : g.live acc.mask k e.val = false) : mzLane g k acc f rm sat sr e.val = (0, flNone) := by
  simp only [mzLane, h, Bool.not_false, if_true]

/-- The lane word of a live element. -/
def mzWord : Nat := match rm with | .sr => elementLane sr (g.coords k e.val).1 (g.coords k e.val).2 | _ => 0

theorem mzLane_live (h : g.live acc.mask k e.val = true) : mzLane g k acc f rm sat sr e.val =
    roundToFormat (if acc.iv then .nan else .fin (decide ((acc.el[e]).toInt < 0)) (scalePow (acc.el[e]).toInt.natAbs 1 acc.anchor.toInt).1
      (scalePow (acc.el[e]).toInt.natAbs 1 acc.anchor.toInt).2) f rm sat (mzWord g k rm sr e) := by
  have hel : acc.el.toList.getD e.val 0 = acc.el[e] := by simp
  simp only [mzLane, h, hel, Bool.not_true, Bool.false_eq_true, if_false]
  rfl

/-- An element that is 0 reads as 0, and another one is rounded once (R136). -/
theorem mzLane_rounds (h : g.live acc.mask k e.val = true) (hiv : acc.iv = false) :
    ((acc.el[e]).toInt = 0 → mzLane g k acc f rm sat sr e.val = (0, flNone)) ∧
    ((acc.el[e]).toInt ≠ 0 → RoundsTo f rm sat (mzWord g k rm sr e) (decide ((acc.el[e]).toInt < 0))
      (|((acc.el[e]).toInt : ℝ)| * 2 ^ acc.anchor.toInt) (mzLane g k acc f rm sat sr e.val)) := by
  rw [mzLane_live g k acc f rm sat sr e h, hiv]
  have hdiv := scalePow_div (K := ℝ) (acc.el[e]).toInt.natAbs 1 acc.anchor.toInt
  have hpos := scalePow_den_pos (num := (acc.el[e]).toInt.natAbs) Nat.one_pos acc.anchor.toInt
  refine ⟨fun hv => ?_, fun hv => ?_⟩
  · have hzero : (scalePow (acc.el[e]).toInt.natAbs 1 acc.anchor.toInt).1 = 0 := by
      rw [hv]
      exact scalePow_num_zero _ _
    rw [hzero, hv]
    exact (roundToFormat_zero f rm sat _ _ _).trans (by simp)
  · have hn := scalePow_num_pos (Int.natAbs_pos.2 hv) 1 acc.anchor.toInt
    rw [Nat.cast_one, div_one, Nat.cast_natAbs, Int.cast_abs] at hdiv
    rw [← hdiv]
    exact roundToFormat_roundsTo f rm sat _ _ hn hpos

end

theorem zarrExtent_eq : ∀ arr : BitVec 2, zarrExtent arr =
    (if arr.toNat = 2 then 32 else if arr.toNat = 3 then 16 else 8, if arr.toNat = 1 then 32 else if arr.toNat = 3 then 16 else 8) := by
  decide

/-- Settles O32: mz.rd is the lanes of half a row, each one rounding of an element, and mgeo a result and a write of the register. -/
theorem accumulatorReadOut : Obligations.AccumulatorReadOut := by
  intro d a sx rmx ty half z row arr s cx tc ht hd i acc mode f els
  have hrd : exec i s = execMzRd d sx rmx ty half z row s := rfl
  refine ⟨fun hr => ⟨fun hm => ?_, fun rm hm => ?_⟩, fun hr => ?_, fun g fp rm sat sr e => ?_⟩
  · refine tileForm_raises hrd hr ht ?_
    simp only [show rmxMode cx.slot.fm rmx = none from hm]
    rfl
  · refine tileForm_completes hrd hr ht ?_
    simp only [show rmxMode cx.slot.fm rmx = some rm from hm, Tile.accEcc_sound hd]
    rfl
  · intro rows cols row0 col0 v
    have he : exec (.mgeo d a arr) s = execMgeo d a arr s := rfl
    refine tileForm_completes he hr ht ?_
    have hcorner : ((col0 ++ row0).setWidth 128 : Quad) = BitVec.ofNat 128 (col0.toNat * 2 ^ 32 + row0.toNat) := by
      refine BitVec.eq_of_toNat_eq ?_
      rw [BitVec.toNat_setWidth, BitVec.toNat_ofNat, BitVec.toNat_append, ← Nat.shiftLeft_add_eq_or_of_lt row0.isLt, Nat.shiftLeft_eq]
    simp only [zarrExtent_eq, extractLsb'_eq_ofNat, Nat.pow_zero, Nat.div_one]
    rw [← hcorner]
    rfl
  · intro f k off row col live v r
    have hlive : g.live acc.mask k e.val = true ↔ live := g.live_iff acc.mask k e.val
    refine ⟨fun h => mzLane_masked g k acc f rm sat sr e (Bool.eq_false_iff.2 (mt hlive.1 h)), fun h hiv => ?_, fun h hiv => ?_⟩
    · rw [show r = _ from mzLane_live g k acc f rm sat sr e (hlive.2 h), hiv]
      cases fp <;> rfl
    · obtain ⟨hzero, hround⟩ := mzLane_rounds g k acc f rm sat sr e (hlive.2 h) hiv
      have hword : mzWord g k rm sr e = if rm = .sr then elementLane sr row col else 0 := by
        cases rm <;> rfl
      rw [hword] at hround
      exact ⟨hzero, hround⟩

end Sys2Proof.Machine

/-! ### Lanes, conversions and scales -/

namespace Sys2Proof.Machine

/-! Lanes of a register (R42, R103). -/

/-- Field k of `w` bits of a number. -/
def fieldAt (w v k : Nat) : Nat := v / 2 ^ (w * k) % 2 ^ w

theorem packLanes_lt (w : Nat) (l : List Nat) : packLanes w l < 2 ^ (w * l.length) := by
  induction l with
  | nil => exact Nat.one_pos
  | cons x r ih =>
    have hx := Nat.mod_lt x (Nat.two_pow_pos w)
    have hcons : packLanes w (x :: r) = x % 2 ^ w + 2 ^ w * packLanes w r := rfl
    rw [hcons, List.length_cons, Nat.mul_succ, Nat.add_comm (w * r.length), pow_add]
    nlinarith

theorem packLanes_field (w : Nat) {l : List Nat} {k : Nat} (hk : k < l.length) : fieldAt w (packLanes w l) k = l[k] % 2 ^ w := by
  induction l generalizing k with
  | nil => exact absurd hk (Nat.not_lt_zero k)
  | cons x r ih =>
    have hcons : packLanes w (x :: r) = 2 ^ w * packLanes w r + x % 2 ^ w := Nat.add_comm ..
    cases k with
    | zero => rw [fieldAt, hcons, Nat.mul_zero, pow_zero, Nat.div_one, Nat.mul_add_mod, Nat.mod_mod, List.getElem_cons_zero]
    | succ k =>
      rw [fieldAt, hcons, Nat.mul_succ, Nat.add_comm (w * k), pow_add, ← Nat.div_div_eq_div_mul, Nat.mul_add_div (Nat.two_pow_pos w),
        Nat.div_eq_of_lt (Nat.mod_lt x (Nat.two_pow_pos w)), Nat.add_zero, List.getElem_cons_succ]
      exact ih (Nat.lt_of_succ_lt_succ hk)

theorem packLanes_toNat {w : Nat} {l : List Nat} (h : w * l.length ≤ 128) : (BitVec.ofNat 128 (packLanes w l)).toNat = packLanes w l := by
  rw [BitVec.toNat_ofNat]
  exact Nat.mod_eq_of_lt ((packLanes_lt w l).trans_le (Nat.pow_le_pow_right Nat.two_pos h))

theorem foldl_or_getLsbD (l : List FlagSet) (x : FlagSet) (n : Nat) :
    (l.foldl (· ||| ·) x).getLsbD n = true ↔ x.getLsbD n = true ∨ ∃ f ∈ l, f.getLsbD n = true := by
  induction l generalizing x with
  | nil => simp
  | cons y r ih =>
    rw [List.foldl_cons, ih, BitVec.getLsbD_or, Bool.or_eq_true, or_assoc, List.exists_mem_cons_iff]

/-- A flag of several lanes is raised exactly when one of them raises it. -/
theorem orFlags_getLsbD (l : List FlagSet) (n : Nat) : (orFlags l).getLsbD n = true ↔ ∃ f ∈ l, f.getLsbD n = true := by
  rw [orFlags, foldl_or_getLsbD]
  simp

theorem lanesOf_eq (v w n : Nat) : lanesOf v w n = (List.range n).map (fieldAt w v) := rfl

theorem getD_map_range {α : Type} (g : Nat → α) {n k : Nat} (hk : k < n) (x : α) : ((List.range n).map g).getD k x = g k := by
  simp [List.getD_eq_getElem?_getD, hk]

/-- The lanes of a result and its flags (R103). -/
theorem packResults_range {w n : Nat} (g : Nat → Nat × FlagSet) (h : w * n ≤ 128) :
    (∀ k < n, fieldAt w (packResults w ((List.range n).map g)).1.toNat k = (g k).1 % 2 ^ w) ∧
      ∀ b, (packResults w ((List.range n).map g)).2.getLsbD b = true ↔ ∃ k < n, (g k).2.getLsbD b = true := by
  refine ⟨fun k hk => ?_, fun b => ?_⟩
  · rw [packResults, packLanes_toNat (by simpa using h), packLanes_field w (by simpa using hk)]
    simp
  · simp only [packResults, orFlags_getLsbD, List.map_map, List.mem_map, List.mem_range]
    constructor
    · rintro ⟨_, ⟨k, hk, rfl⟩, hf⟩
      exact ⟨k, hk, hf⟩
    · rintro ⟨k, hk, hf⟩
      exact ⟨_, ⟨k, hk, rfl⟩, hf⟩

theorem lane_bits (ty : FTy) : (laneElem ty).width * laneCount ty = 128 := by cases ty <;> rfl

/-- A list with a run of its elements replaced (R112). -/
theorem replaceFrom_map_range {k c n : Nat} (old new : Nat → Nat) (h : k + c ≤ n) :
    replaceFrom ((List.range n).map old) k ((List.range c).map new) =
      (List.range n).map fun e => if k ≤ e ∧ e < k + c then new (e - k) else old e := by
  refine List.ext_getElem (by simp [replaceFrom]; omega) fun e h1 h2 => ?_
  have he : e < n := by simpa using h2
  simp only [replaceFrom, List.append_assoc, List.getElem_append, List.getElem_take, List.getElem_drop, List.getElem_map,
    List.getElem_range, List.length_take, List.length_map, List.length_range]
  by_cases hlow : e < k
  · rw [dif_pos (by omega), if_neg (by omega)]
  by_cases hmid : e < k + c
  · rw [dif_neg (by omega), dif_pos (by omega), if_pos (by omega)]
    congr 1
    omega
  · rw [dif_neg (by omega), dif_neg (by omega), if_neg (by omega)]
    congr 1
    omega

/-! The conversions as instructions (R113). -/

section
variable {i : Instr} {d : RegNo} {useFc : Bool} {parts : Fmt → Nat} {rmx : BitVec 3} {sx : BitVec 2} {pt : BitVec 3}
  {v : Cx → Fmt → CvtMode → Quad × FlagSet} {s : State} {cx : Cx} {fmt : Option Fmt}
  (he : exec i s = cvtForm i d useFc parts rmx sx pt v s) (hr : Ready i s cx)
  (hfmt : (if useFc then fmtOf (fmFC cx.slot.fm) else some ⟨.fp32, 0, .none, false⟩) = fmt)
include he hr hfmt

theorem cvtForm_completes {f : Fmt} {rm : RMode} (hf : fmt = some f) (hm : rmxMode cx.slot.fm rmx = some rm) (hp : pt.toNat < parts f) :
    let r := v cx f { rm := rm, sat := sxSat cx.slot.fm sx, sr := cx.slot.sr, c27 := cx.slot.c[27].data }
    Completes i cx s ((s.result cx d 2 ⟨r.1, false⟩).flags cx 2 r.2) .seq := by
  intro r
  have hsetup : cvtSetup cx useFc parts rmx sx pt =
      .ok (f, { rm := rm, sat := sxSat cx.slot.fm sx, sr := cx.slot.sr, c27 := cx.slot.c[27].data }) := by
    simp only [cvtSetup, hfmt.trans hf, hm, if_neg (Nat.not_le.2 hp)]
  refine completes_of he hr ?_ ?_
  · simp only [hr.2.regDamage_eq, hsetup, Bool.false_eq_true, if_false]
  · simp only [hsetup]
    rfl

theorem cvtForm_raises (h : fmt = none ∨ rmxMode cx.slot.fm rmx = none ∨ ∀ f, fmt = some f → parts f ≤ pt.toNat) :
    Raises i cx s { code := 0x02 } := by
  have hsetup : cvtSetup cx useFc parts rmx sx pt = .error { code := fcFormat } := by
    simp only [cvtSetup, hfmt]
    cases hf : fmt with
    | none => rfl
    | some f =>
      cases hm : rmxMode cx.slot.fm rmx with
      | none => rfl
      | some rm =>
        rw [hf, hm] at h
        exact if_pos (by simpa using h)
  refine raises_pre he hr ?_
  simp only [hr.2.regDamage_eq, hsetup, Bool.false_eq_true, if_false]
  rfl

end

/-! The elements of a conversion (R112 to R115). -/

/-- The lane word of element i of a conversion (R114). -/
theorem CvtMode.lane_eq (m : CvtMode) (i : Nat) : m.lane i =
    if m.rm = .sr then elementLane m.sr (m.c27.toNat % 2 ^ 32) ((m.c27.toNat / 2 ^ 32 % 2 ^ 32 + i) % 2 ^ 32) else 0 := by
  rw [Nat.mod_add_mod]
  obtain ⟨rm, sat, sr, c27⟩ := m
  cases rm <;> rfl

theorem elemScale_eq (fm : Fmt) (sc : Quad) (e : Nat) : elemScale fm sc e =
    if fm.scale = .none then some (1, 0)
    else scaleVal fm.scale (if fm.tensor then sc.toNat % 256 else sc.toNat / 2 ^ (8 * (e / fm.block)) % 256) := by
  simp only [elemScale, beq_iff_eq]
  split
  · rfl
  · split <;> rfl

theorem regElems_eq (f : Elem) : regElems f = if f.width = 32 then 4 else if f.width = 16 then 8 else if f.width = 4 then 32 else 16 := by
  cases f <;> rfl

theorem regElems_bits (f : Elem) : f.width * regElems f ≤ 128 := by cases f <;> decide

theorem fLanes_getD (ty : FTy) (a : Quad) {i : Nat} (hi : i < laneCount ty) :
    (fLanes ty a).getD i 0 = fieldAt (laneElem ty).width a.toNat i := by
  rw [fLanes, lanesOf_eq, getD_map_range _ hi]

/-- Four lanes of a result and their flags. -/
def FourLanes (r : Quad × FlagSet) (lane : Nat → Nat × FlagSet) : Prop :=
  (∀ i < 4, fieldAt 32 r.1.toNat i = (lane i).1 % 2 ^ 32) ∧ ∀ b, r.2.getLsbD b = true ↔ ∃ i < 4, (lane i).2.getLsbD b = true

section
variable (m : CvtMode)

theorem cvtLanes32_lanes (src tgt : Elem) (a : Quad) :
    FourLanes (cvtLanes32 m src tgt a) fun i => m.round (src.value (fieldAt 32 a.toNat i)) tgt i := by
  have h : cvtLanes32 m src tgt a = packResults 32 ((List.range 4).map fun i => m.round (src.value (fieldAt 32 a.toNat i)) tgt i) := by
    refine congrArg (packResults 32) (List.map_congr_left fun i hi => ?_)
    rw [fLanes_getD .f32 a (List.mem_range.1 hi)]
    rfl
  rw [h]
  exact packResults_range _ (by decide)

theorem cvtB2fQ_lanes (a : Quad) {pt : Nat} (hp : pt < 2) :
    FourLanes (cvtB2fQ m a pt) fun i => m.round (Elem.bf16.value (fieldAt 16 a.toNat (4 * pt + i))) .fp32 i := by
  have h : cvtB2fQ m a pt =
      packResults 32 ((List.range 4).map fun i => m.round (Elem.bf16.value (fieldAt 16 a.toNat (4 * pt + i))) .fp32 i) := by
    refine congrArg (packResults 32) (List.map_congr_left fun i hi => ?_)
    have hi := List.mem_range.1 hi
    rw [fLanes_getD .bf16 a (show 4 * pt + i < laneCount .bf16 by simp only [laneCount]; omega)]
    rfl
  rw [h]
  exact packResults_range _ (by decide)

/-- Elements packed into a run of a register's elements (R112). -/
theorem packRun_fields {w n k c : Nat} (lane : Nat → Nat × FlagSet) (d : Quad) (hn : w * n ≤ 128) (hk : k + c ≤ n) :
    let r : Quad × FlagSet := (BitVec.ofNat 128 (packLanes w (replaceFrom (lanesOf d.toNat w n) k
      (((List.range c).map lane).map Prod.fst))), orFlags (((List.range c).map lane).map Prod.snd))
    (∀ e < n, fieldAt w r.1.toNat e = if k ≤ e ∧ e < k + c then (lane (e - k)).1 % 2 ^ w else fieldAt w d.toNat e) ∧
      r.1.toNat < 2 ^ (w * n) ∧ ∀ b, r.2.getLsbD b = true ↔ ∃ i < c, (lane i).2.getLsbD b = true := by
  intro r
  have hlist : replaceFrom (lanesOf d.toNat w n) k (((List.range c).map lane).map Prod.fst) =
      (List.range n).map fun e => if k ≤ e ∧ e < k + c then (lane (e - k)).1 else fieldAt w d.toNat e := by
    rw [List.map_map, lanesOf_eq, replaceFrom_map_range _ _ hk]
    rfl
  have hnat : r.1.toNat =
      packLanes w ((List.range n).map fun e => if k ≤ e ∧ e < k + c then (lane (e - k)).1 else fieldAt w d.toNat e) := by
    rw [← hlist]
    exact packLanes_toNat (by rw [hlist]; simpa using hn)
  refine ⟨fun e he => ?_, ?_, (packResults_range (w := 0) lane (by simp)).2⟩
  · rw [hnat, packLanes_field w (by simpa using he)]
    simp only [List.getElem_map, List.getElem_range]
    split
    · rfl
    · exact Nat.mod_mod _ _
  · rw [hnat]
    simpa using packLanes_lt w ((List.range n).map fun e => if k ≤ e ∧ e < k + c then (lane (e - k)).1 else fieldAt w d.toNat e)

theorem cvtF2bQ_lanes (a d : Quad) {pt : Nat} (hp : pt < 2) :
    let lane (i : Nat) : Nat × FlagSet := m.round (Elem.fp32.value (fieldAt 32 a.toNat i)) .bf16 i
    (∀ k < 8, fieldAt 16 (cvtF2bQ m a d pt).1.toNat k =
      if 4 * pt ≤ k ∧ k < 4 * pt + 4 then (lane (k - 4 * pt)).1 % 2 ^ 16 else fieldAt 16 d.toNat k) ∧
      ∀ b, (cvtF2bQ m a d pt).2.getLsbD b = true ↔ ∃ i < 4, (lane i).2.getLsbD b = true := by
  intro lane
  have hnew : ((List.range 4).map fun i => m.round (Elem.fp32.value ((fLanes .f32 a).getD i 0)) .bf16 i) = (List.range 4).map lane := by
    refine List.map_congr_left fun i hi => ?_
    rw [fLanes_getD .f32 a (List.mem_range.1 hi)]
    rfl
  obtain ⟨hfields, -, hflags⟩ := packRun_fields (w := 16) (n := 8) (k := 4 * pt) (c := 4) lane d (by decide) (by omega)
  simp only [cvtF2bQ, hnew]
  exact ⟨hfields, hflags⟩

variable (fm : Fmt) (sc : Quad) (ty : FTy)

theorem cvtWiden_lanes (a : Quad) (pt : Nat) :
    let lane (i : Nat) : Nat × FlagSet := if laneCount ty * pt + i < regElems fm.elem then
      m.round (plusZero fm.elem (scaledVal (fm.elem.decode (fieldAt fm.elem.width a.toNat (laneCount ty * pt + i)))
        (elemScale fm sc (laneCount ty * pt + i)))).exact (laneElem ty) i else (0, flNone)
    (∀ i < laneCount ty, fieldAt (laneElem ty).width (cvtWiden m fm sc ty a pt).1.toNat i = (lane i).1 % 2 ^ (laneElem ty).width) ∧
      ∀ b, (cvtWiden m fm sc ty a pt).2.getLsbD b = true ↔ ∃ i < laneCount ty, (lane i).2.getLsbD b = true := by
  intro lane
  have h : cvtWiden m fm sc ty a pt = packResults (laneElem ty).width ((List.range (laneCount ty)).map lane) := by
    refine congrArg (packResults _) (List.map_congr_left fun i hi => ?_)
    simp only [lane]
    split
    · next hlt => rw [lanesOf_eq, getD_map_range _ hlt]
    · rfl
  rw [h]
  exact packResults_range _ (lane_bits ty).le

/-- The lanes of a register that a part takes lie in it. -/
theorem part_fits {pt : Nat} (h : laneCount ty * pt < regElems fm.elem) :
    laneCount ty * pt + min (laneCount ty) (regElems fm.elem) ≤ regElems fm.elem := by
  cases ty <;> cases hf : fm.elem <;> simp only [hf, laneCount, regElems, Elem.width] at h ⊢ <;> omega

theorem cvtNarrow_lanes (a d : Quad) {pt : Nat} (h : laneCount ty * pt < regElems fm.elem) :
    let k := laneCount ty * pt
    let c := min (laneCount ty) (regElems fm.elem)
    let lane (i : Nat) : Nat × FlagSet :=
      packLane m fm.elem (elemScale fm sc (k + i)) ((laneElem ty).value (fieldAt (laneElem ty).width a.toNat i)) i
    (∀ e < regElems fm.elem, fieldAt fm.elem.width (cvtNarrow m fm sc ty a d pt).1.toNat e =
      if k ≤ e ∧ e < k + c then (lane (e - k)).1 % 2 ^ fm.elem.width else fieldAt fm.elem.width d.toNat e) ∧
      (cvtNarrow m fm sc ty a d pt).1.toNat < 2 ^ (fm.elem.width * regElems fm.elem) ∧
      ∀ b, (cvtNarrow m fm sc ty a d pt).2.getLsbD b = true ↔ ∃ i < c, (lane i).2.getLsbD b = true := by
  intro k c lane
  have hnew : ((List.range c).map fun i => packLane m fm.elem (elemScale fm sc (k + i)) ((laneElem ty).value ((fLanes ty a).getD i 0)) i) =
      (List.range c).map lane := by
    refine List.map_congr_left fun i hi => ?_
    rw [fLanes_getD ty a ((List.mem_range.1 hi).trans_le (min_le_left _ _))]
  have hrun := packRun_fields (k := k) (c := c) lane d (regElems_bits fm.elem) (part_fits fm ty h)
  rw [← hnew] at hrun
  exact hrun

end

/-! A packed lane (R47). -/

section
variable (m : CvtMode) (f : Elem) (x : FVal) (i : Nat)

/-- The NaN of a format with NV (R47). -/
def invalidNaN (f : Elem) : Nat × FlagSet := match f.nan with | some c => (c, flNV) | none => (0, flNV)

theorem nanResult_invalid : ((nanResult f).1, (nanResult f).2 ||| flNV) = invalidNaN f := by
  unfold nanResult invalidNaN
  have hnv : flNone ||| flNV = flNV := by decide
  cases f.nan with
  | none => rfl
  | some c => exact congrArg (Prod.mk c) hnv

theorem packLane_nanScale : packLane m f none x.exact i = invalidNaN f := nanResult_invalid f

theorem packLane_zeroScale (se : Int) : packLane m f (some (0, se)) x.exact i = match x with
    | .fin s k _ => (if s then 2 ^ (f.width - 1) else 0, if k = 0 then flNone else flNV)
    | _ => invalidNaN f := by
  cases x with
  | nan => exact nanResult_invalid f
  | inf s => exact nanResult_invalid f
  | fin s k e =>
    have hzero : (scalePow k 1 e).1 = 0 ↔ k = 0 := by
      constructor
      · intro h
        by_contra hk
        exact absurd h (scalePow_num_pos (Nat.pos_of_ne_zero hk) 1 e).ne'
      · rintro rfl
        exact scalePow_num_zero 1 e
    simp only [packLane, FVal.exact, Elem.signBit, hzero]

variable {sm : Nat} (se : Int) (hsm : sm ≠ 0)
include hsm

theorem packLane_special (h : ∀ s k e, x ≠ .fin s k e) : packLane m f (some (sm, se)) x.exact i = m.round x.exact f i := by
  obtain ⟨n, rfl⟩ := Nat.exists_eq_succ_of_ne_zero hsm
  cases x with
  | nan => rfl
  | inf s => rfl
  | fin s k e => exact absurd rfl (h s k e)

theorem packLane_rounds {s : Bool} {k : Nat} {e : Int} (hk : k ≠ 0) :
    RoundsTo f m.rm m.sat (m.lane i) s (|((FVal.fin s k e).rat : ℝ)| / (sm * 2 ^ se))
      (packLane m f (some (sm, se)) (FVal.fin s k e).exact i) := by
  obtain ⟨n, rfl⟩ := Nat.exists_eq_succ_of_ne_zero hsm
  have hd := scalePow_den_pos (num := k) Nat.one_pos e
  have hn := scalePow_num_pos (Nat.pos_of_ne_zero hk) 1 e
  have hden := Nat.mul_pos hd n.succ_pos
  have hvalue : |((FVal.fin s k e).rat : ℝ)| / ((n.succ : ℕ) * 2 ^ se) =
      ((scalePow (scalePow k 1 e).1 ((scalePow k 1 e).2 * n.succ) (-se)).1 : ℝ) /
        (scalePow (scalePow k 1 e).1 ((scalePow k 1 e).2 * n.succ) (-se)).2 := by
    rw [scalePow_div, ← exact_div s k e, Nat.cast_mul, div_mul_eq_div_div, div_mul_eq_div_div, zpow_neg,
      div_eq_mul_inv _ ((2 : ℝ) ^ se)]
  rw [hvalue]
  exact roundToFormat_roundsTo f m.rm m.sat _ s (scalePow_num_pos hn _ _) (scalePow_den_pos hden _)

end

/-! The block maximum (R116). -/

theorem Elem.decode_mod (f : Elem) (v : Nat) : f.decode (v % 2 ^ f.width) = f.decode v := by
  simp only [Elem.decode, Nat.mod_mod]

/-- The exact magnitude of a value. -/
def XVal.mag : XVal → XVal
  | .fin _ n d => .fin false n d
  | .inf _ => .inf false
  | .nan => .nan

/-- The greater of a magnitude and that of a value. -/
def XVal.amax (acc x : XVal) : XVal := if acc.lt x.mag then x.mag else acc

/-- The values among which amaxb takes the largest. -/
def amaxValues (ty : FTy) (a b : Quad) : List FVal :=
  ((List.range (laneCount ty)).map fun k => (laneElem ty).decode (a.toNat / 2 ^ ((laneElem ty).width * k))) ++ [Elem.fp32.decode b.toNat]

theorem amaxbQ_eq (ty : FTy) (a b : Quad) : amaxbQ ty a b =
    if ((amaxValues ty a b).map FVal.exact).any XVal.isNan then BitVec.ofNat 128 0x7FC00000
    else BitVec.ofNat 128 (roundToFormat (((amaxValues ty a b).map FVal.exact).foldl XVal.amax (.fin false 0 1)) .fp32 .rne false 0).1 := by
  have hvalues : (fLanes ty a).map (laneElem ty).value ++ [Elem.fp32.value (b.toNat % 2 ^ 32)] = (amaxValues ty a b).map FVal.exact := by
    rw [amaxValues, List.map_append, List.map_map, fLanes, lanesOf_eq, List.map_map]
    congr 1
    · exact List.map_congr_left fun k _ => congrArg FVal.exact ((laneElem ty).decode_mod _)
    · exact congrArg (fun v => [FVal.exact v]) (Elem.fp32.decode_mod _)
  rw [← hvalues]
  rfl

theorem exact_isNan (v : FVal) : v.exact.isNan = true ↔ v = .nan := by
  cases v <;> simp [FVal.exact, XVal.isNan]

theorem any_isNan (l : List FVal) : (l.map FVal.exact).any XVal.isNan = true ↔ .nan ∈ l := by
  simp [exact_isNan]

/-- The search for the largest stays at an infinity. -/
theorem amax_inf (l : List XVal) : l.foldl XVal.amax (.inf false) = .inf false := by
  induction l with
  | nil => rfl
  | cons x r ih =>
    have hstep : XVal.amax (.inf false) x = .inf false := by cases x <;> rfl
    rw [List.foldl_cons, hstep, ih]

theorem amax_of_inf {l : List FVal} (hnan : .nan ∉ l) (hinf : ∃ s, .inf s ∈ l) (n d : Nat) :
    (l.map FVal.exact).foldl XVal.amax (.fin false n d) = .inf false := by
  induction l generalizing n d with
  | nil => obtain ⟨s, hs⟩ := hinf; cases hs
  | cons v r ih =>
    rw [List.map_cons, List.foldl_cons]
    cases v with
    | nan => exact absurd List.mem_cons_self hnan
    | inf s => exact amax_inf _
    | fin s m e =>
      have hr : .nan ∉ r ∧ ∃ s, .inf s ∈ r := ⟨fun h => hnan (List.mem_cons_of_mem _ h), by simpa using hinf⟩
      have hstep : ∃ n' d', XVal.amax (.fin false n d) (FVal.fin s m e).exact = .fin false n' d' := by
        unfold XVal.amax
        split
        · exact ⟨_, _, rfl⟩
        · exact ⟨_, _, rfl⟩
      obtain ⟨n', d', hstep⟩ := hstep
      rw [hstep]
      exact ih hr.1 hr.2 n' d'

theorem XVal.lt_magnitudes {n d n' d' : Nat} (hd : 0 < d) (hd' : 0 < d') :
    XVal.lt (.fin false n d) (.fin false n' d') = true ↔ (n : ℚ) / d < n' / d' := by
  have h : (0 : ℚ) < d ∧ (0 : ℚ) < d' := ⟨by exact_mod_cast hd, by exact_mod_cast hd'⟩
  rw [div_lt_div_iff₀ h.1 h.2]
  simp only [XVal.lt, signedNum, Bool.false_eq_true, if_false, decide_eq_true_eq]
  exact_mod_cast Iff.rfl

/-- The largest of finite magnitudes. -/
theorem amax_finite {l : List FVal} (h : ∀ v ∈ l, ∃ s m e, v = .fin s m e) {n d : Nat} (hd : 0 < d) :
    ∃ n' d', 0 < d' ∧ (l.map FVal.exact).foldl XVal.amax (.fin false n d) = .fin false n' d' ∧ (n : ℚ) / d ≤ n' / d' ∧
      ((n' : ℚ) / d' = n / d ∨ ∃ v ∈ l, (n' : ℚ) / d' = |v.rat|) ∧ ∀ v ∈ l, |v.rat| ≤ (n' : ℚ) / d' := by
  induction l generalizing n d with
  | nil => exact ⟨n, d, hd, rfl, le_rfl, Or.inl rfl, fun v hv => by cases hv⟩
  | cons v r ih =>
    obtain ⟨s, m, e, rfl⟩ := h _ List.mem_cons_self
    have hpos := scalePow_den_pos (num := m) Nat.one_pos e
    have hmag : ((scalePow m 1 e).1 : ℚ) / (scalePow m 1 e).2 = |(FVal.fin s m e).rat| := exact_div s m e
    have hlt := XVal.lt_magnitudes (n := n) (n' := (scalePow m 1 e).1) hd hpos
    rw [hmag] at hlt
    have hr : ∀ v ∈ r, ∃ s m e, v = .fin s m e := fun v hv => h v (List.mem_cons_of_mem _ hv)
    rw [List.map_cons, List.foldl_cons]
    by_cases hgreater : (n : ℚ) / d < |(FVal.fin s m e).rat|
    · have hstep : XVal.amax (.fin false n d) (FVal.fin s m e).exact = .fin false (scalePow m 1 e).1 (scalePow m 1 e).2 :=
        if_pos (hlt.2 hgreater)
      obtain ⟨n', d', hd', hfold, hle, hfrom, hall⟩ := ih hr (n := (scalePow m 1 e).1) hpos
      rw [hmag] at hle hfrom
      rw [hstep]
      refine ⟨n', d', hd', hfold, hgreater.le.trans hle, Or.inr ?_, fun v hv => ?_⟩
      · rcases hfrom with hfrom | ⟨v, hv, hfrom⟩
        · exact ⟨_, List.mem_cons_self, hfrom⟩
        · exact ⟨v, List.mem_cons_of_mem _ hv, hfrom⟩
      · rcases List.mem_cons.1 hv with rfl | hv
        · exact hle
        · exact hall v hv
    · have hstep : XVal.amax (.fin false n d) (FVal.fin s m e).exact = .fin false n d := if_neg (mt hlt.1 hgreater)
      obtain ⟨n', d', hd', hfold, hle, hfrom, hall⟩ := ih hr (n := n) hd
      rw [hstep]
      refine ⟨n', d', hd', hfold, hle, hfrom.imp_right fun ⟨v, hv, hfrom⟩ => ⟨v, List.mem_cons_of_mem _ hv, hfrom⟩,
        fun v hv => ?_⟩
      rcases List.mem_cons.1 hv with rfl | hv
      · exact (not_lt.1 hgreater).trans hle
      · exact hall v hv

/-! Values that a rounding keeps (R45). -/

/-- The rounding of a whole number of quanta that is not too large is that value. -/
theorem RoundedAt.exact {f : Elem} {rm : RMode} {sat s : Bool} {x q most : ℝ} {low : Prop} {r : Nat × FlagSet} (hrm : rm ≠ .sr)
    (h : RoundedAt f rm sat 0 s x q most low r) {j : ℤ} (hx : x = j) (hmost : x * q ≤ most) :
    r.1 < 2 ^ f.width ∧ (∃ s' m e, f.decode r.1 = .fin s' m e ∧ (f.fpParams.isSome → s' = s)) ∧
      ((f.decode r.1).rat : ℝ) = (if s then -1 else 1) * (x * q) ∧ r.2 = flNone := by
  have hfloor : (⌊x⌋ : ℝ) = x := by rw [hx, Int.floor_intCast]
  have hfr : x - ⌊x⌋ = 0 := by rw [hfloor, sub_self]
  have hstay : ¬RoundsUp rm s 0 x := by
    unfold RoundsUp
    rw [hfr]
    cases rm with
    | sr => exact absurd rfl hrm
    | rne => norm_num
    | rtz => exact id
    | rdn => simp
    | rup => simp
  obtain ⟨n, -, hn, -, hfits⟩ := h
  have hnx : (n : ℝ) = x := by rw [hn hstay, hfloor]
  rw [hnx] at hfits
  obtain ⟨hlt, hfin, hrat, hflags, -⟩ := hfits hmost
  exact ⟨hlt, hfin, hrat, hflags hfr⟩

theorem fp32_most : ((Elem.fp32.decode Elem.fp32.maxCode).rat : ℝ) = (2 ^ 24 - 1) * 2 ^ (104 : ℤ) := by
  have hm : codeMant 23 Elem.fp32.maxCode = 2 ^ 24 - 1 := by decide
  have he : codeExp 23 127 Elem.fp32.maxCode = 104 := by decide
  rw [Elem.rat_maxCode (f := .fp32) rfl, codeMag, hm, he]
  norm_num

/-- A value of at most 24 bits in range is an FP32 value, which its rounding gives. -/
theorem fp32_exact {m : Nat} {e : ℤ} (hm : m ≠ 0) (h24 : m < 2 ^ 24) (hlow : -149 ≤ e)
    (hmost : (m : ℝ) * 2 ^ e ≤ (2 ^ 24 - 1) * 2 ^ (104 : ℤ))
    {r : Nat × FlagSet} (hr : RoundsTo .fp32 .rne false 0 false ((m : ℝ) * 2 ^ e) r) :
    r.1 < 2 ^ 31 ∧ (∃ k e, Elem.fp32.decode r.1 = .fin false k e) ∧ ((Elem.fp32.decode r.1).rat : ℝ) = m * 2 ^ e := by
  have ha : (0 : ℝ) < (m : ℝ) * 2 ^ e := mul_pos (by exact_mod_cast Nat.pos_of_ne_zero hm) (zpow_pos two_pos _)
  have hlog : Int.log 2 ((m : ℝ) * 2 ^ e) < 24 + e := by
    refine (Int.lt_zpow_iff_log_lt one_lt_two ha).1 ?_
    rw [Nat.cast_ofNat, zpow_add₀ two_ne_zero]
    exact mul_lt_mul_of_pos_right (by exact_mod_cast h24) (zpow_pos two_pos _)
  have h := (roundsTo_float (f := .fp32) (ew := 8) (mw := 23) (bias := 127) rfl).1 hr
  generalize hk : max (Int.log 2 ((m : ℝ) * 2 ^ e)) (1 - ((127 : Nat) : ℤ)) - ((23 : Nat) : ℤ) = k at h
  have hke : k ≤ e := by omega
  have hx : (m : ℝ) * 2 ^ e / 2 ^ k = ((m * 2 ^ (e - k).toNat : Nat) : ℤ) := by
    rw [mul_div_assoc, ← zpow_sub₀ two_ne_zero, show e - k = (((e - k).toNat : Nat) : ℤ) by omega, zpow_natCast]
    push_cast
    rfl
  have hxq : (m : ℝ) * 2 ^ e / 2 ^ k * 2 ^ k = m * 2 ^ e := div_mul_cancel₀ _ (zpow_ne_zero _ two_ne_zero)
  obtain ⟨hlt, ⟨s', k', e', hdec, hs⟩, hrat, -⟩ := h.exact (by decide) hx (by rw [hxq, fp32_most]; exact hmost)
  obtain rfl := hs rfl
  refine ⟨?_, ⟨k', e', hdec⟩, by rw [hrat, hxq, if_neg Bool.false_ne_true, one_mul]⟩
  by_contra hge
  have hsign : (r.1 % 2 ^ 32 / 2 ^ (8 + 23) % 2 == 1) = true := by
    have hlt : r.1 < 2 ^ 32 := hlt
    rw [beq_iff_eq]
    omega
  simp only [Elem.decode, Elem.width, Elem.fpParams, hsign] at hdec
  split at hdec
  · split at hdec <;> cases hdec
  · split at hdec
    · cases hdec
    · split at hdec <;> cases hdec

/-- The mantissa bits of a lane type. -/
def laneMant : FTy → Nat
  | .f32 => 23
  | .bf16 => 7

theorem laneElem_params (ty : FTy) : (laneElem ty).fpParams = some (8, laneMant ty, 127) := by cases ty <;> rfl

/-- The mantissa and the exponent of a finite lane. -/
theorem laneElem_fields {ty : FTy} {c : Nat} {s : Bool} {m : Nat} {e : ℤ} (h : (laneElem ty).decode c = .fin s m e) :
    m < 2 ^ (laneMant ty + 1) ∧ -126 - (laneMant ty : ℤ) ≤ e ∧ e ≤ 127 - (laneMant ty : ℤ) := by
  have hieee : (laneElem ty).ieee = true := by cases ty <;> rfl
  have hne : ((laneElem ty) == .e4m3) = false := by cases ty <;> rfl
  have hmant := Nat.mod_lt (c % 2 ^ (laneElem ty).width) (Nat.two_pow_pos (laneMant ty))
  have hexp := Nat.mod_lt (c % 2 ^ (laneElem ty).width / 2 ^ laneMant ty) (Nat.two_pow_pos 8)
  simp only [Elem.decode, laneElem_params, hieee, hne, Bool.true_and, Bool.false_and, Bool.false_eq_true, if_false, beq_iff_eq] at h
  rw [pow_succ]
  generalize c % 2 ^ (laneElem ty).width % 2 ^ laneMant ty = M at h hmant
  generalize c % 2 ^ (laneElem ty).width / 2 ^ laneMant ty % 2 ^ 8 = E at h hexp
  split at h
  · split at h <;> cases h
  · next hmax =>
    split at h
    · injection h with _ hm he
      omega
    · injection h with _ hm he
      omega

/-- A finite lane has at most 24 bits and lies in FP32's range. -/
theorem laneElem_range {ty : FTy} {c : Nat} {s : Bool} {m : Nat} {e : ℤ} (h : (laneElem ty).decode c = .fin s m e) :
    m < 2 ^ 24 ∧ -149 ≤ e ∧ (m : ℝ) * 2 ^ e ≤ (2 ^ 24 - 1) * 2 ^ (104 : ℤ) := by
  obtain ⟨hm, hlow, hhigh⟩ := laneElem_fields h
  have hle {k : Nat} {j : ℤ} (hk : m ≤ k) (he : e ≤ j) : (m : ℝ) * 2 ^ e ≤ k * 2 ^ j :=
    mul_le_mul (by exact_mod_cast hk) (zpow_le_zpow_right₀ one_le_two he) (zpow_pos two_pos _).le (Nat.cast_nonneg k)
  cases ty with
  | f32 =>
    simp only [laneMant] at hm hlow hhigh
    refine ⟨by omega, by omega, (hle (k := 2 ^ 24 - 1) (j := 104) (by omega) (by omega)).trans_eq (by norm_num)⟩
  | bf16 =>
    simp only [laneMant] at hm hlow hhigh
    refine ⟨by omega, by omega, (hle (k := 2 ^ 8 - 1) (j := 120) (by omega) (by omega)).trans ?_⟩
    norm_num

/-- The largest of finite lanes as an FP32 value (R116). -/
theorem amaxb_finite {ty : FTy} {a b : Quad} (h : ∀ v ∈ amaxValues ty a b, ∃ s m e, v = .fin s m e) :
    let r := roundToFormat (((amaxValues ty a b).map FVal.exact).foldl XVal.amax (.fin false 0 1)) .fp32 .rne false 0
    r.1 < 2 ^ 31 ∧ (∃ v ∈ amaxValues ty a b, (Elem.fp32.decode r.1).rat = |v.rat|) ∧
      (∃ k e, Elem.fp32.decode r.1 = .fin false k e) ∧ ∀ v ∈ amaxValues ty a b, |v.rat| ≤ (Elem.fp32.decode r.1).rat := by
  intro r
  obtain ⟨n, d, hd, hfold, -, hfrom, hall⟩ := amax_finite h (n := 0) Nat.one_pos
  have hlast : Elem.fp32.decode b.toNat ∈ amaxValues ty a b := List.mem_append_right _ List.mem_cons_self
  have hr : r = roundToFormat (.fin false n d) .fp32 .rne false 0 := by rw [← hfold]
  rcases Nat.eq_zero_or_pos n with rfl | hn
  · have hzero : r = (0, flNone) := hr.trans (roundToFormat_zero _ _ _ _ _ _)
    have hrat : (Elem.fp32.decode 0).rat = 0 := by
      have hdec : Elem.fp32.decode 0 = .fin false 0 (-149) := by decide
      rw [hdec, FVal.rat]
      simp
    rw [Nat.cast_zero, zero_div] at hall
    rw [hzero]
    refine ⟨by decide, ⟨_, hlast, ?_⟩, ⟨0, -149, by decide⟩, fun v hv => by rw [hrat]; exact hall v hv⟩
    rw [hrat]
    exact le_antisymm (abs_nonneg _) (hall _ hlast)
  · have hpos : (0 : ℚ) < (n : ℚ) / d := div_pos (by exact_mod_cast hn) (by exact_mod_cast hd)
    obtain ⟨v, hv, hval⟩ := hfrom.resolve_left (by rw [Nat.cast_zero, zero_div]; exact hpos.ne')
    obtain ⟨s, m, e, rfl⟩ := h v hv
    have hrange : m < 2 ^ 24 ∧ -149 ≤ e ∧ (m : ℝ) * 2 ^ e ≤ (2 ^ 24 - 1) * 2 ^ (104 : ℤ) := by
      rcases List.mem_append.1 hv with hv | hv
      · obtain ⟨k, -, hk⟩ := List.mem_map.1 hv
        exact laneElem_range hk
      · exact laneElem_range (ty := .f32) (List.mem_singleton.1 hv).symm
    have hmag : |(FVal.fin s m e).rat| = (m : ℚ) * 2 ^ e := by
      rw [FVal.rat]
      cases s <;> simp [abs_mul]
    have hm : m ≠ 0 := by
      rintro rfl
      rw [hval, hmag, Nat.cast_zero, zero_mul] at hpos
      exact lt_irrefl _ hpos
    have hreal : (n : ℝ) / d = m * 2 ^ e := by
      rw [hmag] at hval
      have hcast := congrArg (Rat.cast : ℚ → ℝ) hval
      push_cast at hcast
      exact hcast
    have hround := roundToFormat_roundsTo .fp32 .rne false 0 false hn hd
    rw [hreal, ← hr] at hround
    obtain ⟨hlt, hdec, hrat⟩ := fp32_exact hm hrange.1 hrange.2.1 hrange.2.2 hround
    have hq : (Elem.fp32.decode r.1).rat = (n : ℚ) / d := by
      rw [hval, hmag]
      refine Rat.cast_injective (α := ℝ) ?_
      push_cast
      exact hrat
    exact ⟨hlt, ⟨_, hv, hq.trans hval⟩, hdec, fun v hv => by rw [hq]; exact hall v hv⟩

/-! The scale code (R117). -/

section
variable (fm : Fmt) (ty : FTy) (a : Quad)

theorem sclCode_unscaled (h : fm.scale = .none) : sclCode fm ty a = (0x7F, flNone) := by
  simp only [sclCode, h]

/-- The scale code of a value, in a scaled format. -/
theorem sclCode_eq (h : fm.scale ≠ .none) : sclCode fm ty a = match ((laneElem ty).decode a.toNat).exact with
    | .nan | .inf _ => (0xFF, flNV)
    | .fin _ n d =>
      if n = 0 then (0, flNone)
      else if fm.scale == .e8m0 then ((max 0 (min 254 (floorLog2 n d - fm.elem.emax + 127))).toNat, flNone)
      else e5m3Code fm.elem n d := by
  have hvalue : (laneElem ty).value (a.toNat % 2 ^ (laneElem ty).width) = ((laneElem ty).decode a.toNat).exact :=
    congrArg FVal.exact ((laneElem ty).decode_mod _)
  rw [← hvalue]
  unfold sclCode
  split
  · next h' => exact absurd h' h
  · rfl

variable {s : Bool} {k : Nat} {e : ℤ} (hm : (laneElem ty).decode a.toNat = .fin s k e)
include hm

theorem sclCode_power (hk : k ≠ 0) (h : fm.scale = .e8m0) : sclCode fm ty a =
    ((max 0 (min 254 (Int.log 2 |((laneElem ty).decode a.toNat).rat| - fm.elem.emax + 127))).toNat, flNone) := by
  have hn := scalePow_num_pos (Nat.pos_of_ne_zero hk) 1 e
  have hlog := floorLog2_eq (K := ℚ) hn (scalePow_den_pos (num := k) Nat.one_pos e)
  rw [exact_div s k e, Rat.cast_id] at hlog
  rw [sclCode_eq fm ty a (by rw [h]; decide), hm]
  simp only [FVal.exact, if_neg hn.ne', h, hlog, beq_self_eq_true, if_true]

end

/-- The largest magnitude of a floating element is positive. -/
theorem Elem.decode_maxCode {f : Elem} (hf : f.fpParams.isSome = true) : ∃ m e, f.decode f.maxCode = .fin false m e ∧ 0 < m := by
  cases f <;> simp only [Elem.fpParams, Option.isSome_some, Option.isSome_none, Bool.false_eq_true] at hf <;>
    exact ⟨_, _, rfl, by decide⟩

/-- The value of an E5M3 code (R39). -/
def e5m3Value (c : Nat) : ℚ := match scaleVal .e5m3 c with | some p => p.1 * 2 ^ p.2 | none => 0

/-- Whether the value of a code is at least n / d over the largest magnitude mn / md. -/
def e5m3Fits (mn md n d c : Nat) : Bool :=
  match scaleVal .e5m3 c with
  | none => false
  | some (sm, se) =>
    let p := scalePow (sm * mn * d) (md * n) se
    p.2 ≤ p.1

theorem e5m3Fits_iff {mn md n d c : Nat} (hmn : 0 < mn) (hmd : 0 < md) (hn : 0 < n) (hd : 0 < d) (hc : c < 0xFF) :
    e5m3Fits mn md n d c = true ↔ (n : ℚ) / d / (mn / md) ≤ e5m3Value c := by
  have hval : ∃ p, scaleVal .e5m3 c = some p := by
    simp only [scaleVal, if_neg hc.ne]
    split <;> exact ⟨_, rfl⟩
  obtain ⟨⟨sm, se⟩, hval⟩ := hval
  have hden := scalePow_den_pos (num := sm * mn * d) (Nat.mul_pos hmd hn) se
  have hq := scalePow_div (K := ℚ) (sm * mn * d) (md * n) se
  generalize hp : scalePow (sm * mn * d) (md * n) se = p at hden hq
  have hden' : (0 : ℚ) < p.2 := by exact_mod_cast hden
  have hpos : (0 : ℚ) < (mn : ℚ) / md ∧ (0 : ℚ) < d ∧ (0 : ℚ) < n ∧ (0 : ℚ) < md :=
    ⟨div_pos (by exact_mod_cast hmn) (by exact_mod_cast hmd), by exact_mod_cast hd, by exact_mod_cast hn, by exact_mod_cast hmd⟩
  have hle : p.2 ≤ p.1 ↔ (1 : ℚ) ≤ (p.1 : ℚ) / p.2 := by
    rw [le_div_iff₀ hden', one_mul]
    exact_mod_cast Iff.rfl
  have hratio : ((sm * mn * d : Nat) : ℚ) / (md * n : Nat) * 2 ^ se = sm * 2 ^ se / ((n : ℚ) / d / (mn / md)) := by
    push_cast
    have := hpos.2.1.ne'
    have := hpos.2.2.1.ne'
    have := hpos.2.2.2.ne'
    have : (mn : ℚ) ≠ 0 := by exact_mod_cast hmn.ne'
    field_simp
  have hleast : (0 : ℚ) < (n : ℚ) / d / (mn / md) := div_pos (div_pos hpos.2.2.1 hpos.2.1) hpos.1
  simp only [e5m3Fits, e5m3Value, hval, hp, decide_eq_true_eq, hle, hq, hratio]
  rw [le_div_iff₀ hleast, one_mul]

section
variable {f : Elem} (hf : f.fpParams.isSome = true) {n d : Nat} (hn : 0 < n) (hd : 0 < d)
include hf hn hd

/-- The E5M3 code of a scale is found by its value (R117). -/
theorem e5m3Code_search : e5m3Code f n d =
    match (List.range 254).find? fun i => decide ((n : ℚ) / d / (f.decode f.maxCode).rat ≤ e5m3Value (i + 1)) with
    | some i => (i + 1, flNone)
    | none => (0xFE, flSA) := by
  obtain ⟨m, e, hmax, hm⟩ := Elem.decode_maxCode hf
  have hmn := scalePow_num_pos hm 1 e
  have hmd := scalePow_den_pos (num := m) Nat.one_pos e
  have hrat : (f.decode f.maxCode).rat = ((scalePow m 1 e).1 : ℚ) / (scalePow m 1 e).2 := by
    rw [hmax, exact_div false m e, Rat.cast_id, abs_of_nonneg]
    exact mul_nonneg (by simp) (zpow_nonneg (by norm_num) _)
  have hmag : f.maxMag = .fin false (scalePow m 1 e).1 (scalePow m 1 e).2 := congrArg FVal.exact hmax
  have hfind : ((List.range 254).find? fun i => e5m3Fits (scalePow m 1 e).1 (scalePow m 1 e).2 n d (i + 1)) =
      (List.range 254).find? fun i => decide ((n : ℚ) / d / (f.decode f.maxCode).rat ≤ e5m3Value (i + 1)) := by
    refine List.find?_congr fun i hi => ?_
    have hi := List.mem_range.1 hi
    rw [Bool.eq_iff_iff, e5m3Fits_iff hmn hmd hn hd (by omega), hrat, decide_eq_true_iff]
  rw [← hfind]
  simp only [e5m3Code, hmag] <;> rfl

theorem e5m3Code_least {c : Nat} (h1 : 1 ≤ c) (h2 : c ≤ 0xFE) (hc : (n : ℚ) / d / (f.decode f.maxCode).rat ≤ e5m3Value c)
    (hless : ∀ c', 1 ≤ c' → c' < c → e5m3Value c' < (n : ℚ) / d / (f.decode f.maxCode).rat) : e5m3Code f n d = (c, flNone) := by
  have hfind : ((List.range 254).find? fun i => decide ((n : ℚ) / d / (f.decode f.maxCode).rat ≤ e5m3Value (i + 1))) =
      some (c - 1) := by
    rw [List.find?_range_eq_some]
    refine ⟨by rw [Nat.sub_add_cancel h1]; exact decide_eq_true hc, List.mem_range.2 (by omega), fun j hj => ?_⟩
    rw [Bool.not_eq_true', decide_eq_false_iff_not, not_le]
    exact hless (j + 1) (by omega) (by omega)
  rw [e5m3Code_search hf hn hd, hfind]
  simp only [Nat.sub_add_cancel h1]

theorem e5m3Code_saturated (h : ∀ c, 1 ≤ c → c ≤ 0xFE → e5m3Value c < (n : ℚ) / d / (f.decode f.maxCode).rat) :
    e5m3Code f n d = (0xFE, flSA) := by
  have hfind : ((List.range 254).find? fun i => decide ((n : ℚ) / d / (f.decode f.maxCode).rat ≤ e5m3Value (i + 1))) = none := by
    refine List.find?_eq_none.2 fun i hi => ?_
    have hi := List.mem_range.1 hi
    rw [decide_eq_true_iff, not_le]
    exact h (i + 1) (by omega) (by omega)
  rw [e5m3Code_search hf hn hd, hfind]

end

/-! scl as an instruction (R117). -/

theorem scl_outcome {sd : BitVec 3} {a : RegNo} {pos : BitVec 4} {ty : FTy} {s : State} {cx : Cx} (hr : Ready (.scl sd a pos ty) s cx)
    {t : Coord} {k : Side} {j : Fin 4} {tl : Tile} {q : Part} (hwh : cx.wh = .tile t k j tl q) :
    (fmtOf (fmFC cx.slot.fm) = none → Raises (.scl sd a pos ty) cx s { code := 0x02 }) ∧
      ∀ f, fmtOf (fmFC cx.slot.fm) = some f →
        let r := sclCode f ty (cx.data a)
        Completes (.scl sd a pos ty) cx s
          ((s.due cx (cx.n + 7) (.sByte j sd.toFin pos.toNat (BitVec.ofNat 8 r.1))).flags cx 2 r.2) .seq := by
  have he : exec (.scl sd a pos ty) s = execScl sd a pos ty s := rfl
  refine ⟨fun hf => raises_of he hr rfl ?_, fun f hf => completes_of he hr rfl ?_⟩ <;> simp only [hwh, hf]
  rfl

/-- Settles O29: a conversion is its checks and one rounding for each element; amaxb is the largest magnitude, which FP32 holds; scl is
one code, of the exponent or of the least large enough value. -/
theorem conversionsAndScales : Obligations.ConversionsAndScales := by
  refine ⟨fun d a sc rmx sx pt s cx => ?_, fun d a b ty sd pos s cx => ⟨?_, fun hr t k j tl q hwh => scl_outcome hr hwh⟩,
    fun m fm sc a d ty pt => ?_, fun fm ty a b => ?_⟩
  · intro scale form fc plain
    have of (i : Instr) {useFc : Bool} {parts : Fmt → Nat} {v : Cx → Fmt → CvtMode → Quad × FlagSet}
        (he : exec i s = cvtForm i d useFc parts rmx sx pt v s) : form i (if useFc then fc else plain) parts (v cx) := fun hr =>
      ⟨fun f rm hf hm hp => cvtForm_completes he hr rfl hf hm hp, fun h => cvtForm_raises he hr rfl h⟩
    exact ⟨(of (.cvtWide d a sc rmx sx pt) (Eq.refl (execCvtWide d a sc rmx sx pt s)) :),
      (of (.cvtWideb d a sc rmx sx pt) (Eq.refl (execCvtWideb d a sc rmx sx pt s)) :),
      (of (.cvtPack d a sc rmx sx pt) (Eq.refl (execCvtPack d a sc rmx sx pt s)) :),
      (of (.cvtPackb d a sc rmx sx pt) (Eq.refl (execCvtPackb d a sc rmx sx pt s)) :),
      (of (.cvtF2b d a sc rmx sx pt) (Eq.refl (execCvtF2b d a sc rmx sx pt s)) :),
      (of (.cvtB2f d a sc rmx sx pt) (Eq.refl (execCvtB2f d a sc rmx sx pt s)) :),
      (of (.cvtF2i d a sc rmx sx pt) (Eq.refl (execCvtF2i d a sc rmx sx pt s)) :),
      (of (.cvtI2f d a sc rmx sx pt) (Eq.refl (execCvtI2f d a sc rmx sx pt s)) :)⟩
  · exact writes_plain (fun _ => rfl) fun _ => rfl
  · intro field we w L n lw round scale flags four
    have hlane : m.lane = lw := funext m.lane_eq
    have hround : m.round = round := by
      funext x f i
      rw [CvtMode.round, hlane]
    have hscale : elemScale fm sc = scale := funext (elemScale_eq fm sc)
    have hn : regElems fm.elem = n := regElems_eq fm.elem
    rw [← hround, ← hscale, ← hn, ← hlane]
    refine ⟨cvtLanes32_lanes m .fp32 .int32 a, cvtLanes32_lanes m .int32 .fp32 a,
      fun hp => ⟨cvtB2fQ_lanes m a hp, cvtF2bQ_lanes m a d hp⟩,
      fun hp => ⟨cvtWiden_lanes m fm sc ty a pt, cvtNarrow_lanes m fm sc ty a d hp⟩,
      fun f x i => ⟨packLane_nanScale m f x i, fun se => packLane_zeroScale m f x i se, fun sm se hsm =>
        ⟨packLane_special m f x i se hsm, fun s k e hx hk => ?_⟩⟩⟩
    subst hx
    exact packLane_rounds m f i se hsm hk
  · intro f vs r mv scv
    have hr : r = _ := amaxbQ_eq ty a b
    have hnan := any_isNan (amaxValues ty a b)
    refine ⟨fun h => ?_, fun h hinf => ?_, fun h hfin => ?_, sclCode_unscaled fm ty a, fun h hm => ?_, fun h s e hm => ?_,
      fun s k e hm hk => ⟨fun h => ?_, fun h hf => ?_⟩⟩
    · rw [hr, if_pos (hnan.2 h)]
      rfl
    · rw [hr, if_neg (mt hnan.1 h), amax_of_inf (l := amaxValues ty a b) h hinf]
      rfl
    · have hall : ∀ v ∈ amaxValues ty a b, ∃ s m e, v = .fin s m e := by
        intro v hv
        cases v with
        | nan => exact absurd hv h
        | inf s => exact absurd hv (hfin s)
        | fin s m e => exact ⟨s, m, e, rfl⟩
      have hout := amaxb_finite hall
      have hnat : r.toNat =
          (roundToFormat (((amaxValues ty a b).map FVal.exact).foldl XVal.amax (.fin false 0 1)) .fp32 .rne false 0).1 := by
        rw [hr, if_neg (mt hnan.1 h), BitVec.toNat_ofNat]
        exact Nat.mod_eq_of_lt (hout.1.trans (by decide))
      rw [hnat]
      exact hout
    · refine (sclCode_eq fm ty a h).trans ?_
      rcases hm with hm | ⟨s, hm⟩
      · rw [show (laneElem ty).decode a.toNat = .nan from hm]
        rfl
      · rw [show (laneElem ty).decode a.toNat = .inf s from hm]
        rfl
    · refine (sclCode_eq fm ty a h).trans ?_
      rw [show (laneElem ty).decode a.toNat = .fin s 0 e from hm]
      simp only [FVal.exact, scalePow_num_zero, if_true]
    · exact sclCode_power fm ty a hm hk h
    · have hcode : scv = e5m3Code fm.elem (scalePow k 1 e).1 (scalePow k 1 e).2 := by
        refine (sclCode_eq fm ty a (by rw [h]; decide)).trans ?_
        rw [show (laneElem ty).decode a.toNat = .fin s k e from hm]
        have hn := scalePow_num_pos (Nat.pos_of_ne_zero hk) 1 e
        simp only [FVal.exact, if_neg hn.ne', h]
        rfl
      intro value least
      have hleast : ((scalePow k 1 e).1 : ℚ) / (scalePow k 1 e).2 / (fm.elem.decode fm.elem.maxCode).rat = least := by
        rw [exact_div s k e, Rat.cast_id, ← hm]
      have hn := scalePow_num_pos (Nat.pos_of_ne_zero hk) 1 e
      have hd := scalePow_den_pos (num := k) Nat.one_pos e
      rw [hcode, ← hleast]
      exact ⟨fun c h1 h2 hc hless => e5m3Code_least hf hn hd h1 h2 hc hless, e5m3Code_saturated hf hn hd⟩

end Sys2Proof.Machine

/-! ### Floating lanes -/

namespace Sys2Proof.Machine

/-! Forms that work lane by lane (R103). -/

section
variable (ty : FTy)

theorem fLanes_eq (a : Quad) : fLanes ty a = (List.range (laneCount ty)).map (fieldAt (laneElem ty).width a.toNat) := rfl

theorem mapF_eq (op : Nat → Nat × FlagSet) (a : Quad) : mapF ty op a =
    packResults (laneElem ty).width ((List.range (laneCount ty)).map fun k => op (fieldAt (laneElem ty).width a.toNat k)) := by
  rw [mapF, fLanes_eq, List.map_map]
  rfl

theorem mapF2_eq (op : Nat → Nat → Nat × FlagSet) (a b : Quad) : mapF2 ty op a b =
    packResults (laneElem ty).width ((List.range (laneCount ty)).map fun k =>
      op (fieldAt (laneElem ty).width a.toNat k) (fieldAt (laneElem ty).width b.toNat k)) := by
  rw [mapF2, fLanes_eq, fLanes_eq, List.zipWith_map, List.zipWith_self]

theorem mapF3_eq (op : Nat → Nat → Nat → Nat × FlagSet) (a b e : Quad) : mapF3 ty op a b e =
    packResults (laneElem ty).width ((List.range (laneCount ty)).map fun k =>
      op (fieldAt (laneElem ty).width a.toNat k) (fieldAt (laneElem ty).width b.toNat k) (fieldAt (laneElem ty).width e.toNat k)) := by
  rw [mapF3, fLanes_eq, fLanes_eq, fLanes_eq, List.zip_map', List.zipWith_map, List.zipWith_self]

end

/-! Codes of results (R35, R45). -/

section
variable (ty : FTy)

theorem laneElem_finite (s : Bool) {c : Nat} (hc : c ≤ (laneElem ty).maxCode) : (laneElem ty).signBit s + c < 2 ^ (laneElem ty).width :=
  (Elem.decode_code (laneElem_params ty) s hc).1

theorem nanResult_lt : (nanResult (laneElem ty)).1 < 2 ^ (laneElem ty).width := by cases ty <;> decide

theorem overflowResult_lt (s : Bool) (rm : RMode) (sat : Bool) :
    (overflowResult (laneElem ty) s rm sat).1 < 2 ^ (laneElem ty).width := by
  have hcodes : (laneElem ty).ovf s < 2 ^ (laneElem ty).width ∧ (laneElem ty).maxOf s < 2 ^ (laneElem ty).width := by
    cases ty <;> cases s <;> decide
  unfold overflowResult
  split
  · exact hcodes.2
  · have hif (toMax : Bool) :
        (if toMax then (laneElem ty).maxOf s else (laneElem ty).ovf s) < 2 ^ (laneElem ty).width := by
      cases toMax
      · exact hcodes.1
      · exact hcodes.2
    exact hif _

/-- A result fits its lane. -/
theorem roundToFormat_lt (x : XVal) (rm : RMode) (sat : Bool) (lane : Nat) :
    (roundToFormat x (laneElem ty) rm sat lane).1 < 2 ^ (laneElem ty).width := by
  cases x with
  | nan => exact nanResult_lt ty
  | inf s =>
    have hinf : (infResult (laneElem ty) s sat).1 = (laneElem ty).ovf s := by cases ty <;> rfl
    refine hinf.trans_lt ?_
    cases ty <;> cases s <;> decide
  | fin s num den =>
    simp only [roundToFormat, laneElem_params]
    split
    · exact laneElem_finite ty s (Nat.zero_le _)
    · split
      · exact overflowResult_lt ty s rm sat
      · next h => exact laneElem_finite ty s (Nat.not_lt.1 h)

theorem rndLane_lt (rm : RMode) (x : Option XVal) : (rndLane (laneElem ty) rm x).1 < 2 ^ (laneElem ty).width := by
  cases x with
  | none => exact nanResult_lt ty
  | some v => exact roundToFormat_lt ty v _ _ _

end

/-! The order of fmin and fmax (R107). -/

/-- The place of a value in the order in which -0 stands below +0. -/
noncomputable def FVal.rank : FVal → EReal ×ₗ Bool
  | .nan => toLex (⊥, false)
  | .inf s => toLex (if s then ⊥ else ⊤, !s)
  | .fin s m e => toLex ((((FVal.fin s m e).rat : ℝ) : EReal), !s)

theorem rat_eq_div (s : Bool) (m : Nat) (e : ℤ) :
    (FVal.fin s m e).rat = (signedNum s (scalePow m 1 e).1 : ℚ) / (scalePow m 1 e).2 := by
  have h := scalePow_div (K := ℚ) m 1 e
  rw [Nat.cast_one, div_one] at h
  cases s
  · simp [FVal.rat, signedNum, h]
  · simp [FVal.rat, signedNum, neg_div, h]

section
variable {s t : Bool} {m n : Nat} {e g : ℤ}

theorem exact_lt : (FVal.fin s m e).exact.lt (FVal.fin t n g).exact = decide ((FVal.fin s m e).rat < (FVal.fin t n g).rat) := by
  have h1 : (0 : ℚ) < (scalePow m 1 e).2 := by exact_mod_cast scalePow_den_pos (num := m) Nat.one_pos e
  have h2 : (0 : ℚ) < (scalePow n 1 g).2 := by exact_mod_cast scalePow_den_pos (num := n) Nat.one_pos g
  rw [rat_eq_div, rat_eq_div, Bool.eq_iff_iff, decide_eq_true_iff, div_lt_div_iff₀ h1 h2]
  simp only [FVal.exact, XVal.lt, decide_eq_true_eq]
  exact_mod_cast Iff.rfl

theorem exact_eq : (FVal.fin s m e).exact.eq (FVal.fin t n g).exact = decide ((FVal.fin s m e).rat = (FVal.fin t n g).rat) := by
  have h1 : ((scalePow m 1 e).2 : ℚ) ≠ 0 := by exact_mod_cast (scalePow_den_pos (num := m) Nat.one_pos e).ne'
  have h2 : ((scalePow n 1 g).2 : ℚ) ≠ 0 := by exact_mod_cast (scalePow_den_pos (num := n) Nat.one_pos g).ne'
  rw [rat_eq_div, rat_eq_div, Bool.eq_iff_iff, decide_eq_true_iff, div_eq_div_iff h1 h2]
  simp only [FVal.exact, XVal.eq, beq_iff_eq]
  exact_mod_cast Iff.rfl

end

theorem not_le_not_iff (s t : Bool) : (!s) ≤ (!t) ↔ (s || !t) = true := by cases s <;> cases t <;> decide

/-- The order of fmin and fmax is that of the places. -/
theorem le0_iff {x y : FVal} (hx : x ≠ .nan) (hy : y ≠ .nan) : x.exact.le0 y.exact = true ↔ x.rank ≤ y.rank := by
  cases x with
  | nan => exact absurd rfl hx
  | inf s =>
    cases y with
    | nan => exact absurd rfl hy
    | inf t => cases s <;> cases t <;> simp [FVal.exact, XVal.le0, XVal.lt, XVal.eq, XVal.sign, FVal.rank, Prod.Lex.toLex_le_toLex]
    | fin t n g => cases s <;> simp [FVal.exact, XVal.le0, XVal.lt, XVal.eq, FVal.rank, Prod.Lex.toLex_le_toLex]
  | fin s m e =>
    cases y with
    | nan => exact absurd rfl hy
    | inf t => cases t <;> simp [FVal.exact, XVal.le0, XVal.lt, XVal.eq, FVal.rank, Prod.Lex.toLex_le_toLex]
    | fin t n g =>
      have hsign : (FVal.fin s m e).exact.sign = s ∧ (FVal.fin t n g).exact.sign = t := ⟨rfl, rfl⟩
      simp only [XVal.le0, exact_lt, exact_eq, hsign.1, hsign.2, FVal.rank, Prod.Lex.toLex_le_toLex, not_le_not_iff, Bool.or_eq_true,
        Bool.and_eq_true, decide_eq_true_eq, EReal.coe_lt_coe_iff, EReal.coe_eq_coe_iff]
      norm_cast

/-! vsum and the folds (R108). -/

/-- A sum of two lanes with the flags of both and its own. -/
def sumLanes (f : Elem) (rm : RMode) (a b : Nat × FlagSet) : Nat × FlagSet :=
  ((addCodes f rm a.1 b.1).1, a.2 ||| b.2 ||| (addCodes f rm a.1 b.1).2)

/-- The tree of vsum over four lanes from lane k on. -/
def sumFour (f : Elem) (rm : RMode) (l : Nat → Nat) (k : Nat) : Nat × FlagSet :=
  sumLanes f rm (sumLanes f rm (l k, flNone) (l (k + 1), flNone)) (sumLanes f rm (l (k + 2), flNone) (l (k + 3), flNone))

theorem vsumQ_eq (ty : FTy) (rm : RMode) (q : Quad) :
    let l := fieldAt (laneElem ty).width q.toNat
    let sum := if ty = .f32 then sumFour (laneElem ty) rm l 0
      else sumLanes (laneElem ty) rm (sumFour (laneElem ty) rm l 0) (sumFour (laneElem ty) rm l 4)
    vsumQ ty rm q = (BitVec.ofNat 128 sum.1, sum.2) ∧ sum.1 < 2 ^ (laneElem ty).width := by
  intro l sum
  cases ty with
  | f32 => exact ⟨rfl, rndLane_lt .f32 rm _⟩
  | bf16 => exact ⟨rfl, rndLane_lt .bf16 rm _⟩

/-- The canonical NaN of a lane type. -/
def laneNaN (ty : FTy) : Nat := if ty = .f32 then 0x7FC00000 else 0x7FC0

theorem nanResult_eq (ty : FTy) : nanResult (laneElem ty) = (laneNaN ty, flNone) := by cases ty <;> rfl

theorem decode_laneNaN (ty : FTy) : (laneElem ty).decode (laneNaN ty) = .nan := by cases ty <;> decide

section
variable (ty : FTy) (isMax : Bool)

theorem minMaxCodes_nan {a b : Nat} (h : (laneElem ty).decode a = .nan ∨ (laneElem ty).decode b = .nan) :
    minMaxCodes isMax (laneElem ty) a b = laneNaN ty := by
  have hnan : (((laneElem ty).value a).isNan || ((laneElem ty).value b).isNan) = true := by
    rw [Bool.or_eq_true, Elem.value, Elem.value, exact_isNan, exact_isNan]
    exact h
  simp only [minMaxCodes, hnan, if_true, nanResult_eq]

theorem minMaxCodes_of {a b : Nat} (ha : (laneElem ty).decode a ≠ .nan) (hb : (laneElem ty).decode b ≠ .nan) :
    minMaxCodes isMax (laneElem ty) a b =
      if ((laneElem ty).decode a).rank ≤ ((laneElem ty).decode b).rank then (if isMax then b else a) else (if isMax then a else b) := by
  have hnan : (((laneElem ty).value a).isNan || ((laneElem ty).value b).isNan) = false := by
    rw [Bool.or_eq_false_iff, Elem.value, Elem.value, Bool.eq_false_iff, Bool.eq_false_iff, ne_eq, ne_eq, exact_isNan, exact_isNan]
    exact ⟨ha, hb⟩
  simp only [minMaxCodes, hnan, Bool.false_eq_true, if_false]
  exact if_congr (le0_iff ha hb) rfl rfl

/-- A fold meets a NaN and stays there. -/
theorem foldl_minMax_nan {l : List Nat} {a : Nat}
    (h : a = laneNaN ty ∨ ∃ c ∈ l, (laneElem ty).decode c = .nan) : l.foldl (minMaxCodes isMax (laneElem ty)) a = laneNaN ty := by
  induction l generalizing a with
  | nil => exact h.resolve_right (by simp)
  | cons c r ih =>
    refine ih ?_
    rcases h with rfl | ⟨c', hc', hnan⟩
    · exact Or.inl (minMaxCodes_nan ty isMax (Or.inl (decode_laneNaN ty)))
    · rcases List.mem_cons.1 hc' with rfl | hr
      · exact Or.inl (minMaxCodes_nan ty isMax (Or.inr hnan))
      · exact Or.inr ⟨c', hr, hnan⟩

/-- Whether a code stands at the end of an order that a fold seeks. -/
def Extreme (a b : Nat) : Prop :=
  if isMax then ((laneElem ty).decode b).rank ≤ ((laneElem ty).decode a).rank
  else ((laneElem ty).decode a).rank ≤ ((laneElem ty).decode b).rank

theorem Extreme.trans {a b c : Nat} (h : Extreme ty isMax a b) (h' : Extreme ty isMax b c) : Extreme ty isMax a c := by
  cases isMax
  · exact le_trans (α := EReal ×ₗ Bool) h h'
  · exact le_trans (α := EReal ×ₗ Bool) h' h

theorem foldl_minMax {l : List Nat} {a : Nat} (ha : (laneElem ty).decode a ≠ .nan) (hl : ∀ c ∈ l, (laneElem ty).decode c ≠ .nan) :
    l.foldl (minMaxCodes isMax (laneElem ty)) a ∈ a :: l ∧
      ∀ c ∈ a :: l, Extreme ty isMax (l.foldl (minMaxCodes isMax (laneElem ty)) a) c := by
  induction l generalizing a with
  | nil =>
    refine ⟨List.mem_cons_self, fun c hc => ?_⟩
    obtain rfl := List.mem_singleton.1 hc
    cases isMax <;> exact le_refl (α := EReal ×ₗ Bool) _
  | cons b r ih =>
    have hb := hl b List.mem_cons_self
    have hr : ∀ c ∈ r, (laneElem ty).decode c ≠ .nan := fun c hc => hl c (List.mem_cons_of_mem b hc)
    rw [List.foldl_cons]
    have hstep : (minMaxCodes isMax (laneElem ty) a b = a ∨ minMaxCodes isMax (laneElem ty) a b = b) ∧
        Extreme ty isMax (minMaxCodes isMax (laneElem ty) a b) a ∧ Extreme ty isMax (minMaxCodes isMax (laneElem ty) a b) b := by
      rw [minMaxCodes_of ty isMax ha hb]
      split
      · next hle => cases isMax <;> simp [Extreme, hle]
      · next hle => cases isMax <;> simp [Extreme, (le_total _ _).resolve_left hle]
    obtain ⟨hfrom, hea, heb⟩ := hstep
    have hstill : (laneElem ty).decode (minMaxCodes isMax (laneElem ty) a b) ≠ .nan := by
      rcases hfrom with h | h <;> rw [h] <;> assumption
    obtain ⟨hmem, hall⟩ := ih hstill hr
    have hself := hall _ List.mem_cons_self
    refine ⟨?_, fun c hc => ?_⟩
    · rcases List.mem_cons.1 hmem with h | h
      · rw [h]
        rcases hfrom with h | h <;> rw [h]
        · exact List.mem_cons_self
        · exact List.mem_cons_of_mem _ List.mem_cons_self
      · exact List.mem_cons_of_mem _ (List.mem_cons_of_mem _ h)
    · rcases List.mem_cons.1 hc with rfl | hc
      · exact hself.trans ty isMax hea
      rcases List.mem_cons.1 hc with rfl | hc
      · exact hself.trans ty isMax heb
      · exact hall c (List.mem_cons_of_mem _ hc)

end

section
variable (ty : FTy) (isMax : Bool) (q : Quad)

theorem mem_fLanes {c : Nat} : c ∈ fLanes ty q ↔ ∃ k < laneCount ty, fieldAt (laneElem ty).width q.toNat k = c := by
  simp [fLanes_eq]

theorem copyCode_of (c : Nat) : copyCode (laneElem ty) c = if (laneElem ty).decode c = .nan then laneNaN ty else c := by
  simp only [copyCode, nanResult_eq]
  exact if_congr (exact_isNan _) rfl rfl

theorem vfoldQ_cons {c : Nat} {r : List Nat} (h : fLanes ty q = c :: r) :
    vfoldQ isMax ty q = BitVec.ofNat 128 (r.foldl (minMaxCodes isMax (laneElem ty)) (copyCode (laneElem ty) c)) := by
  simp only [vfoldQ, h]

theorem fLanes_cons : ∃ c r, fLanes ty q = c :: r := by
  cases ty <;> exact ⟨_, _, rfl⟩

/-- The fold of lanes of which one is a NaN (R108). -/
theorem vfoldQ_nan (h : ∃ k < laneCount ty, (laneElem ty).decode (fieldAt (laneElem ty).width q.toNat k) = .nan) :
    vfoldQ isMax ty q = BitVec.ofNat 128 (laneNaN ty) := by
  obtain ⟨c, r, hcr⟩ := fLanes_cons ty q
  obtain ⟨k, hk, hnan⟩ := h
  have hmem : fieldAt (laneElem ty).width q.toNat k ∈ c :: r := hcr ▸ (mem_fLanes ty q).2 ⟨k, hk, rfl⟩
  rw [vfoldQ_cons ty isMax q hcr, copyCode_of, foldl_minMax_nan ty isMax]
  rcases List.mem_cons.1 hmem with h | h
  · rw [h] at hnan
    exact Or.inl (if_pos hnan)
  · exact Or.inr ⟨_, h, hnan⟩

/-- The fold of other lanes is an extreme one (R108). -/
theorem vfoldQ_extreme (h : ∀ k < laneCount ty, (laneElem ty).decode (fieldAt (laneElem ty).width q.toNat k) ≠ .nan) :
    ∃ k < laneCount ty, vfoldQ isMax ty q = BitVec.ofNat 128 (fieldAt (laneElem ty).width q.toNat k) ∧
      ∀ j < laneCount ty, if isMax
        then ((laneElem ty).value (fieldAt (laneElem ty).width q.toNat j)).le0 ((laneElem ty).value (fieldAt (laneElem ty).width q.toNat k))
          = true
        else ((laneElem ty).value (fieldAt (laneElem ty).width q.toNat k)).le0 ((laneElem ty).value (fieldAt (laneElem ty).width q.toNat j))
          = true := by
  obtain ⟨c, r, hcr⟩ := fLanes_cons ty q
  have hall {x : Nat} (hx : x ∈ c :: r) : (laneElem ty).decode x ≠ .nan := by
    obtain ⟨k, hk, rfl⟩ := (mem_fLanes ty q).1 (hcr ▸ hx)
    exact h k hk
  have hc := hall List.mem_cons_self
  obtain ⟨hmem, hext⟩ := foldl_minMax ty isMax hc fun x hx => hall (List.mem_cons_of_mem c hx)
  obtain ⟨k, hk, hkeq⟩ := (mem_fLanes ty q).1 (hcr ▸ hmem)
  refine ⟨k, hk, by rw [vfoldQ_cons ty isMax q hcr, copyCode_of, if_neg hc, hkeq], fun j hj => ?_⟩
  have hj' := hext _ (hcr ▸ (mem_fLanes ty q).2 ⟨j, hj, rfl⟩)
  rw [← hkeq] at hj'
  cases isMax
  · exact (le0_iff (h k hk) (h j hj)).2 hj'
  · exact (le0_iff (h j hj) (h k hk)).2 hj'

end

/-! One rounding of an exact value (R106). -/

/-- `r` is one rounding of the exact value `v`, a zero having the sign `s0`. -/
def RoundsOnce (f : Elem) (m : RMode) (v : ℚ) (s0 : Bool) (r : Nat × FlagSet) : Prop :=
  (v ≠ 0 → RoundsTo f m false 0 (decide (v < 0)) |(v : ℝ)| r) ∧ (v = 0 → r = (if s0 then 2 ^ (f.width - 1) else 0, flNone))

/-- The exact rational of a finite exact value. -/
def ratOf (s : Bool) (n d : Nat) : ℚ := (signedNum s n : ℚ) / d

theorem signedNum_natAbs (z : ℤ) : signedNum (decide (z < 0)) z.natAbs = z := by
  rw [signedNum]
  by_cases h : z < 0
  · simp only [h, decide_true, if_true]
    omega
  · simp only [h, decide_false, Bool.false_eq_true, if_false]
    omega

section
variable {s t : Bool} {a b c d : Nat}

theorem ratOf_eq_zero (hb : 0 < b) : ratOf s a b = 0 ↔ a = 0 := by
  have hb' : (b : ℚ) ≠ 0 := by exact_mod_cast hb.ne'
  rw [ratOf, div_eq_zero_iff, or_iff_left hb', Int.cast_eq_zero]
  cases s <;> simp [signedNum]

theorem ratOf_neg (hb : 0 < b) (ha : a ≠ 0) : ratOf s a b < 0 ↔ s = true := by
  have hb' : (0 : ℚ) < b := by exact_mod_cast hb
  have ha' : (0 : ℚ) < a := by exact_mod_cast Nat.pos_of_ne_zero ha
  cases s
  · simpa [ratOf, signedNum] using (div_pos ha' hb').le
  · simpa [ratOf, signedNum, neg_div] using div_pos ha' hb'

theorem abs_ratOf : |(ratOf s a b : ℝ)| = (a : ℝ) / b := by
  cases s <;> simp [ratOf, signedNum, abs_div]

/-- A rounded finite value of a lane. -/
theorem roundsOnce_fin (ty : FTy) (m : RMode) (hb : 0 < b) :
    RoundsOnce (laneElem ty) m (ratOf s a b) s (roundToFormat (.fin s a b) (laneElem ty) m false 0) := by
  refine ⟨fun hv => ?_, fun hv => ?_⟩
  · have ha : a ≠ 0 := mt (ratOf_eq_zero hb).2 hv
    have hs : decide (ratOf s a b < 0) = s := by rw [Bool.eq_iff_iff, decide_eq_true_iff, ratOf_neg hb ha]
    rw [hs, abs_ratOf]
    exact roundToFormat_roundsTo _ m false 0 s (Nat.pos_of_ne_zero ha) hb
  · rw [(ratOf_eq_zero hb).1 hv, roundToFormat_zero, laneElem_params]
    simp

theorem ratOf_add (hb : 0 < b) (hd : 0 < d) :
    ratOf s a b + ratOf t c d = ((signedNum s a * d + signedNum t c * b : Int) : ℚ) / (b * d : Nat) := by
  have hb' : (b : ℚ) ≠ 0 := by exact_mod_cast hb.ne'
  have hd' : (d : ℚ) ≠ 0 := by exact_mod_cast hd.ne'
  rw [ratOf, ratOf, div_add_div _ _ hb' hd']
  push_cast
  ring

/-- A sum of finite values, rounded once (R106). -/
theorem roundsOnce_add (ty : FTy) (rm : RMode) (hb : 0 < b) (hd : 0 < d) :
    RoundsOnce (laneElem ty) rm.noSR (ratOf s a b + ratOf t c d) (if s = t then s else decide (rm = .rdn))
      (rndLane (laneElem ty) rm (XVal.add (.fin s a b) (.fin t c d) (rm == .rdn))) := by
  have hbd := Nat.mul_pos hb hd
  have hsum := ratOf_add (s := s) (a := a) (t := t) (c := c) hb hd
  by_cases hn : signedNum s a * d + signedNum t c * b = 0
  · have hzero : ratOf s a b + ratOf t c d = 0 := by rw [hsum, hn, Int.cast_zero, zero_div]
    have hsign : XVal.add (.fin s a b) (.fin t c d) (rm == .rdn) = some (.fin (if s = t then s else decide (rm = .rdn)) 0 1) := by
      simp only [XVal.add, hn, if_true]
      by_cases hst : s = t
      · subst hst
        have hac : a = 0 ∧ c = 0 := by
          have hb' : (b : ℤ) ≠ 0 := by exact_mod_cast hb.ne'
          have hd' : (d : ℤ) ≠ 0 := by exact_mod_cast hd.ne'
          have hmul : (a : ℤ) * d + c * b = 0 := by
            cases s
            · exact hn
            · simp only [signedNum, if_true] at hn
              linarith
          have hnat : a * d + c * b = 0 := by exact_mod_cast hmul
          obtain ⟨h1, h2⟩ := Nat.add_eq_zero_iff.1 hnat
          exact ⟨(Nat.mul_eq_zero.1 h1).resolve_right hd.ne', (Nat.mul_eq_zero.1 h2).resolve_right hb.ne'⟩
        simp [hac]
      · simp only [hst, and_false, if_false]
        cases rm <;> rfl
    rw [hsign, hzero, ← (ratOf_eq_zero (s := if s = t then s else decide (rm = .rdn)) Nat.one_pos).2 rfl]
    exact roundsOnce_fin ty rm.noSR Nat.one_pos
  · have hfin : XVal.add (.fin s a b) (.fin t c d) (rm == .rdn) = some (.fin (decide (signedNum s a * d + signedNum t c * b < 0))
        (signedNum s a * d + signedNum t c * b).natAbs (b * d)) := by
      simp only [XVal.add, hn, if_false]
    have hval : ratOf s a b + ratOf t c d = ratOf (decide (signedNum s a * d + signedNum t c * b < 0))
        (signedNum s a * d + signedNum t c * b).natAbs (b * d) := by
      rw [hsum, ratOf, signedNum_natAbs]
    have hne : ratOf s a b + ratOf t c d ≠ 0 := by
      rw [hval]
      exact mt (ratOf_eq_zero hbd).1 (by omega)
    rw [hfin]
    refine ⟨fun h => ?_, fun h => absurd h hne⟩
    rw [hval] at h ⊢
    exact (roundsOnce_fin ty rm.noSR hbd).1 h

theorem ratOf_mul : ratOf s a b * ratOf t c d = ratOf (s != t) (a * c) (b * d) := by
  cases s <;> cases t <;> simp [ratOf, signedNum, div_mul_div_comm, neg_mul, mul_neg]

/-- A product of finite values, rounded once (R106). -/
theorem roundsOnce_mul (ty : FTy) (rm : RMode) (hb : 0 < b) (hd : 0 < d) :
    RoundsOnce (laneElem ty) rm.noSR (ratOf s a b * ratOf t c d) (s != t)
      (rndLane (laneElem ty) rm (XVal.mul (.fin s a b) (.fin t c d))) := by
  rw [ratOf_mul]
  exact roundsOnce_fin ty rm.noSR (Nat.mul_pos hb hd)

end

/-! fadd, fsub, fmul, fma and fms on codes (R106). -/

/-- The infinity of a lane type. -/
def laneInf (ty : FTy) (s : Bool) : Nat := (if ty = .f32 then 0x7F800000 else 0x7F80) + (if s then 2 ^ ((laneElem ty).width - 1) else 0)

theorem ovf_eq (ty : FTy) (s : Bool) : (laneElem ty).ovf s = laneInf ty s := by cases ty <;> cases s <;> rfl

theorem scalePow_num_eq_zero {n : Nat} (den : Nat) (e : Int) : (scalePow n den e).1 = 0 ↔ n = 0 := by
  constructor
  · intro h
    by_contra hn
    exact absurd h (scalePow_num_pos (Nat.pos_of_ne_zero hn) den e).ne'
  · rintro rfl
    exact scalePow_num_zero den e

/-- A product of an infinity and a finite value, in either order. -/
theorem mul_inf_fin (s t : Bool) (n : Nat) (e : ℤ) :
    XVal.mul (FVal.inf s).exact (FVal.fin t n e).exact = (if n = 0 then none else some (.inf (s != t))) ∧
      XVal.mul (FVal.fin t n e).exact (FVal.inf s).exact = (if n = 0 then none else some (.inf (s != t))) := by
  have hzero := scalePow_num_eq_zero (n := n) 1 e
  refine ⟨if_congr hzero rfl rfl, ?_⟩
  rw [bne_comm (a := s)]
  exact if_congr hzero rfl rfl

theorem add_inf_inf (s t rdn : Bool) : XVal.add (.inf s) (.inf t) rdn = if s = t then some (.inf s) else none := rfl

section
variable (ty : FTy) (rm : RMode)

theorem rndLane_invalid : rndLane (laneElem ty) rm none = (laneNaN ty, flNV) := by
  show ((nanResult (laneElem ty)).1, flNV) = _
  rw [nanResult_eq]

theorem rndLane_nan : rndLane (laneElem ty) rm (some .nan) = (laneNaN ty, flNone) := nanResult_eq ty

theorem rndLane_inf (s : Bool) : rndLane (laneElem ty) rm (some (.inf s)) = (laneInf ty s, flNone) := by
  rw [← ovf_eq]
  cases ty <;> rfl

variable {a b c : Nat} {x y z : FVal} (hx : (laneElem ty).decode a = x) (hy : (laneElem ty).decode b = y)
include hx hy

theorem addCodes_eq : addCodes (laneElem ty) rm a b = rndLane (laneElem ty) rm (x.exact.add y.exact (rm == .rdn)) := by
  rw [addCodes, Elem.value, Elem.value, hx, hy]

theorem mulCodes_eq : mulCodes (laneElem ty) rm a b = rndLane (laneElem ty) rm (x.exact.mul y.exact) := by
  rw [mulCodes, Elem.value, Elem.value, hx, hy]

theorem codes_nan (h : x = .nan ∨ y = .nan) :
    addCodes (laneElem ty) rm a b = (laneNaN ty, flNone) ∧ mulCodes (laneElem ty) rm a b = (laneNaN ty, flNone) := by
  have hadd : x.exact.add y.exact (rm == .rdn) = some .nan := by
    rcases h with rfl | rfl
    · rfl
    · cases x <;> rfl
  have hmul : x.exact.mul y.exact = some .nan := by
    rcases h with rfl | rfl
    · rfl
    · cases x <;> rfl
  rw [addCodes_eq ty rm hx hy, mulCodes_eq ty rm hx hy, hadd, hmul]
  exact ⟨rndLane_nan ty rm, rndLane_nan ty rm⟩

theorem codes_inf_inf {s t : Bool} (h : x = .inf s) (h' : y = .inf t) :
    addCodes (laneElem ty) rm a b = (if s = t then (laneInf ty s, flNone) else (laneNaN ty, flNV)) ∧
      mulCodes (laneElem ty) rm a b = (laneInf ty (s != t), flNone) := by
  subst h h'
  rw [addCodes_eq ty rm hx hy, mulCodes_eq ty rm hx hy]
  refine ⟨?_, rndLane_inf ty rm _⟩
  rw [FVal.exact, FVal.exact, add_inf_inf]
  split
  · exact rndLane_inf ty rm s
  · exact rndLane_invalid ty rm

theorem codes_inf_fin {s t : Bool} {n : Nat} {e : ℤ} (h : x = .inf s) (h' : y = .fin t n e) :
    addCodes (laneElem ty) rm a b = (laneInf ty s, flNone) ∧ addCodes (laneElem ty) rm b a = (laneInf ty s, flNone) ∧
      mulCodes (laneElem ty) rm a b = (if n = 0 then (laneNaN ty, flNV) else (laneInf ty (s != t), flNone)) ∧
      mulCodes (laneElem ty) rm b a = mulCodes (laneElem ty) rm a b := by
  subst h h'
  obtain ⟨hmul, hmul'⟩ := mul_inf_fin s t n e
  rw [addCodes_eq ty rm hx hy, addCodes_eq ty rm hy hx, mulCodes_eq ty rm hx hy, mulCodes_eq ty rm hy hx, hmul, hmul']
  refine ⟨rndLane_inf ty rm s, rndLane_inf ty rm s, ?_, rfl⟩
  split
  · exact rndLane_invalid ty rm
  · exact rndLane_inf ty rm _

theorem codes_fin {s t : Bool} {n k : Nat} {d e : ℤ} (h : x = .fin s n d) (h' : y = .fin t k e) :
    RoundsOnce (laneElem ty) rm.noSR (x.rat + y.rat) (if s = t then s else decide (rm = .rdn)) (addCodes (laneElem ty) rm a b) ∧
      RoundsOnce (laneElem ty) rm.noSR (x.rat * y.rat) (s != t) (mulCodes (laneElem ty) rm a b) := by
  subst h h'
  rw [addCodes_eq ty rm hx hy, mulCodes_eq ty rm hx hy, rat_eq_div, rat_eq_div]
  have hb := scalePow_den_pos (num := n) Nat.one_pos d
  have hd := scalePow_den_pos (num := k) Nat.one_pos e
  exact ⟨roundsOnce_add ty rm hb hd, roundsOnce_mul ty rm hb hd⟩

/-! The fused forms. -/

variable (minus : Bool) (hz : (laneElem ty).decode c = z)
include hz

theorem fusedCodes_eq : fusedCodes minus (laneElem ty) rm a b c =
    rndLane (laneElem ty) rm (fusedX x.exact y.exact z.exact minus (rm == .rdn)) := by
  rw [fusedCodes, Elem.value, Elem.value, Elem.value, hx, hy, hz]

theorem fusedCodes_nan (h : x = .nan ∨ y = .nan ∨ z = .nan) : fusedCodes minus (laneElem ty) rm a b c = (laneNaN ty, flNone) := by
  have hnan : (x.exact.isNan || y.exact.isNan || z.exact.isNan) = true := by
    simp only [Bool.or_eq_true, exact_isNan, or_assoc]
    exact h
  rw [fusedCodes_eq ty rm hx hy minus hz, fusedX, if_pos hnan, rndLane_nan]

omit hx hy hz in
theorem fusedX_of (hx : x ≠ .nan) (hy : y ≠ .nan) (hz : z ≠ .nan) (rdn : Bool) : fusedX x.exact y.exact z.exact minus rdn =
    match x.exact.mul y.exact with
    | none => none
    | some p => p.add (if minus then z.exact.neg else z.exact) rdn := by
  have hnan : (x.exact.isNan || y.exact.isNan || z.exact.isNan) = false := by
    rw [Bool.eq_false_iff]
    simp only [ne_eq, Bool.or_eq_true, exact_isNan, not_or]
    exact ⟨⟨hx, hy⟩, hz⟩
  rw [fusedX, hnan]
  rfl

/-- An invalid product (R106). -/
theorem fusedCodes_invalid {s t : Bool} {e : ℤ} (hznan : z ≠ .nan)
    (h : (x = .inf s ∧ y = .fin t 0 e) ∨ (x = .fin s 0 e ∧ y = .inf t)) :
    fusedCodes minus (laneElem ty) rm a b c = (laneNaN ty, flNV) := by
  have hmul : x ≠ .nan ∧ y ≠ .nan ∧ x.exact.mul y.exact = none := by
    rcases h with ⟨rfl, rfl⟩ | ⟨rfl, rfl⟩
    · exact ⟨by simp, by simp, (mul_inf_fin s t 0 e).1⟩
    · exact ⟨by simp, by simp, (mul_inf_fin t s 0 e).2⟩
  obtain ⟨hxn, hyn, hmul⟩ := hmul
  rw [fusedCodes_eq ty rm hx hy minus hz, fusedX_of minus hxn hyn hznan, hmul]
  exact rndLane_invalid ty rm

/-- An infinite product (R106). -/
theorem fusedCodes_infProduct {s t u : Bool}
    (h : (x = .inf s ∧ (y = .inf t ∨ ∃ n e, n ≠ 0 ∧ y = .fin t n e)) ∨ ((∃ n e, n ≠ 0 ∧ x = .fin s n e) ∧ y = .inf t)) :
    (z = .inf u → fusedCodes minus (laneElem ty) rm a b c =
      if (s != t) = (u != minus) then (laneInf ty (s != t), flNone) else (laneNaN ty, flNV)) ∧
    ∀ l g, z = .fin u l g → fusedCodes minus (laneElem ty) rm a b c = (laneInf ty (s != t), flNone) := by
  have hmul : x ≠ .nan ∧ y ≠ .nan ∧ x.exact.mul y.exact = some (.inf (s != t)) := by
    rcases h with ⟨rfl, rfl | ⟨n, e, hn, rfl⟩⟩ | ⟨⟨n, e, hn, rfl⟩, rfl⟩
    · exact ⟨by simp, by simp, rfl⟩
    · exact ⟨by simp, by simp, (mul_inf_fin s t n e).1.trans (if_neg hn)⟩
    · exact ⟨by simp, by simp, (mul_inf_fin t s n e).2.trans ((if_neg hn).trans (by rw [bne_comm (a := t)]))⟩
  obtain ⟨hxn, hyn, hmul⟩ := hmul
  rw [fusedCodes_eq ty rm hx hy minus hz]
  refine ⟨fun h => ?_, fun l g h => ?_⟩ <;> subst h <;> rw [fusedX_of minus hxn hyn (by simp), hmul]
  · have hthird : (if minus then (FVal.inf u).exact.neg else (FVal.inf u).exact) = .inf (u != minus) := by
      cases minus <;> cases u <;> rfl
    rw [hthird]
    dsimp only
    rw [add_inf_inf]
    split
    · exact rndLane_inf ty rm _
    · exact rndLane_invalid ty rm
  · cases minus <;> exact rndLane_inf ty rm _

/-- A finite product and an infinity (R106). -/
theorem fusedCodes_inf {s t u : Bool} {n k : Nat} {d e : ℤ} (h : x = .fin s n d) (h' : y = .fin t k e) (h'' : z = .inf u) :
    fusedCodes minus (laneElem ty) rm a b c = (laneInf ty (u != minus), flNone) := by
  subst h h' h''
  have hthird : (if minus then (FVal.inf u).exact.neg else (FVal.inf u).exact) = .inf (u != minus) := by
    cases minus <;> cases u <;> rfl
  rw [fusedCodes_eq ty rm hx hy minus hz, fusedX_of minus (by simp) (by simp) (by simp), hthird]
  exact rndLane_inf ty rm _

/-- A finite product and a finite value, rounded once (R106). -/
theorem fusedCodes_fin {s t u : Bool} {n k l : Nat} {d e g : ℤ} (h : x = .fin s n d) (h' : y = .fin t k e) (h'' : z = .fin u l g) :
    RoundsOnce (laneElem ty) rm.noSR (x.rat * y.rat + (if minus then -z.rat else z.rat))
      (if (s != t) = (u != minus) then u != minus else decide (rm = .rdn)) (fusedCodes minus (laneElem ty) rm a b c) := by
  subst h h' h''
  have hthird : (if minus then (FVal.fin u l g).exact.neg else (FVal.fin u l g).exact) =
      .fin (u != minus) (scalePow l 1 g).1 (scalePow l 1 g).2 := by
    cases minus <;> cases u <;> rfl
  have hrat : (if minus then -(FVal.fin u l g).rat else (FVal.fin u l g).rat) =
      ratOf (u != minus) (scalePow l 1 g).1 (scalePow l 1 g).2 := by
    rw [rat_eq_div]
    cases minus <;> cases u <;> simp [ratOf, signedNum, neg_div]
  have hb := scalePow_den_pos (num := n) Nat.one_pos d
  have hd := scalePow_den_pos (num := k) Nat.one_pos e
  have hg := scalePow_den_pos (num := l) Nat.one_pos g
  have hprod : (FVal.fin s n d).rat * (FVal.fin t k e).rat =
      ratOf (s != t) ((scalePow n 1 d).1 * (scalePow k 1 e).1) ((scalePow n 1 d).2 * (scalePow k 1 e).2) := by
    rw [rat_eq_div, rat_eq_div]
    exact ratOf_mul
  rw [fusedCodes_eq ty rm hx hy minus hz, fusedX_of minus (by simp) (by simp) (by simp), hthird, hrat, hprod]
  have hround := roundsOnce_add (s := s != t) (t := u != minus) (a := (scalePow n 1 d).1 * (scalePow k 1 e).1)
    (c := (scalePow l 1 g).1) ty rm (Nat.mul_pos hb hd) hg
  by_cases hst : (s != t) = (u != minus)
  · rw [if_pos hst] at hround ⊢
    rw [← hst]
    rw [← hst] at hround
    exact hround
  · rw [if_neg hst] at hround ⊢
    exact hround

end

/-! fsub and fcmp (R106, R107). -/

/-- The code of the value with the other sign. -/
theorem value_flip (ty : FTy) (b : Nat) :
    (laneElem ty).value ((b + 2 ^ ((laneElem ty).width - 1)) % 2 ^ (laneElem ty).width) = ((laneElem ty).value b).neg := by
  have hfields : let w := (laneElem ty).width
      let v := b % 2 ^ w
      let v' := (b + 2 ^ (w - 1)) % 2 ^ w % 2 ^ w
      (v' / 2 ^ (8 + laneMant ty) % 2 == 1) = !(v / 2 ^ (8 + laneMant ty) % 2 == 1) ∧
        v' / 2 ^ laneMant ty % 2 ^ 8 = v / 2 ^ laneMant ty % 2 ^ 8 ∧ v' % 2 ^ laneMant ty = v % 2 ^ laneMant ty := by
    refine ⟨?_, ?_, ?_⟩
    · rw [Bool.eq_iff_iff, Bool.not_eq_true', beq_iff_eq, beq_eq_false_iff_ne]
      cases ty <;> simp only [laneElem, Elem.width, laneMant] <;> omega
    · cases ty <;> simp only [laneElem, Elem.width, laneMant] <;> omega
    · cases ty <;> simp only [laneElem, Elem.width, laneMant] <;> omega
  obtain ⟨hsign, hexp, hmant⟩ := hfields
  simp only [Elem.value, Elem.decode, laneElem_params, hsign, hexp, hmant]
  split
  · split <;> rfl
  · split
    · rfl
    · split <;> rfl

theorem subCodes_flip (ty : FTy) (rm : RMode) (a b : Nat) : subCodes (laneElem ty) rm a b =
    addCodes (laneElem ty) rm a ((b + 2 ^ ((laneElem ty).width - 1)) % 2 ^ (laneElem ty).width) := by
  rw [subCodes, addCodes, value_flip]

section
variable (f : Elem) {a b : Nat} {x y : FVal} (hx : f.decode a = x) (hy : f.decode b = y)
include hx hy

theorem cmpCodes_nan (h : x = .nan ∨ y = .nan) (r : FRel) : cmpCodes r f a b = (0, if r = .eq then flNone else flNV) := by
  have hnan : ((f.value a).isNan || (f.value b).isNan) = true := by
    rw [Bool.or_eq_true, Elem.value, Elem.value, exact_isNan, exact_isNan, hx, hy]
    exact h
  simp only [cmpCodes, hnan, if_true, beq_iff_eq]

/-- What the comparisons of two values answer. -/
def Ordered (f : Elem) (a b : Nat) (x y : FVal) (le lt eq : Bool) : Prop :=
  x.exact.le0 y.exact = le ∧ cmpCodes .eq f a b = (if eq then 2 ^ f.width - 1 else 0, flNone) ∧
    cmpCodes .lt f a b = (if lt then 2 ^ f.width - 1 else 0, flNone) ∧
    cmpCodes .le f a b = (if lt || eq then 2 ^ f.width - 1 else 0, flNone)

theorem ordered_of (hxn : x ≠ .nan) (hyn : y ≠ .nan) :
    Ordered f a b x y (x.exact.le0 y.exact) (x.exact.lt y.exact) (x.exact.eq y.exact) := by
  have hnan : ((f.value a).isNan || (f.value b).isNan) = false := by
    rw [Bool.eq_false_iff]
    simp only [ne_eq, Bool.or_eq_true, Elem.value, exact_isNan, hx, hy, not_or]
    exact ⟨hxn, hyn⟩
  refine ⟨rfl, ?_, ?_, ?_⟩ <;> simp only [cmpCodes, hnan, Bool.false_eq_true, if_false] <;> simp only [Elem.value, hx, hy]

theorem ordered_inf_inf {s t : Bool} (h : x = .inf s) (h' : y = .inf t) : Ordered f a b x y (s || !t) (s && !t) (s == t) := by
  have hle : ((s && !t) || (s == t && (s || !t))) = (s || !t) := by cases s <;> cases t <;> rfl
  have hord := ordered_of f hx hy (by rw [h]; simp) (by rw [h']; simp)
  subst h h'
  rw [← hle]
  exact hord

theorem ordered_inf_fin {s t : Bool} {k : Nat} {g : ℤ} (h : x = .inf s) (h' : y = .fin t k g) : Ordered f a b x y s s false := by
  have hord := ordered_of f hx hy (by rw [h]; simp) (by rw [h']; simp)
  subst h h'
  have hle : XVal.le0 (FVal.inf s).exact (FVal.fin t k g).exact = s := Bool.or_false s
  rw [hle] at hord
  exact hord

theorem ordered_fin_inf {s t : Bool} {n : Nat} {e : ℤ} (h : x = .fin s n e) (h' : y = .inf t) : Ordered f a b x y (!t) (!t) false := by
  have hord := ordered_of f hx hy (by rw [h]; simp) (by rw [h']; simp)
  subst h h'
  have hle : XVal.le0 (FVal.fin s n e).exact (FVal.inf t).exact = !t := Bool.or_false (!t)
  rw [hle] at hord
  exact hord

theorem ordered_fin_fin {s t : Bool} {n k : Nat} {e g : ℤ} (h : x = .fin s n e) (h' : y = .fin t k g) :
    Ordered f a b x y (decide (x.rat < y.rat) || (decide (x.rat = y.rat) && (s || !t))) (decide (x.rat < y.rat))
      (decide (x.rat = y.rat)) := by
  have hord := ordered_of f hx hy (by rw [h]; simp) (by rw [h']; simp)
  subst h h'
  rw [exact_lt, exact_eq] at hord
  have hle : XVal.le0 (FVal.fin s n e).exact (FVal.fin t k g).exact = (decide ((FVal.fin s n e).rat < (FVal.fin t k g).rat) ||
      (decide ((FVal.fin s n e).rat = (FVal.fin t k g).rat) && (s || !t))) := by
    rw [XVal.le0, exact_lt, exact_eq]
    rfl
  rw [hle] at hord
  exact hord

end

end Sys2Proof.Machine

/-! ### Special functions -/

namespace Sys2Proof.Machine

/-! The integer square root (R109). -/

/-- Newton steps downward from above the root reach it, where the fuel exceeds the binary logarithm of the distance. -/
theorem isqrtFrom_eq {n : Nat} (hn : 0 < n) (fuel x : Nat) (hx : 0 < x) (hlow : n.sqrt ≤ x) (hfuel : x - n.sqrt < 2 ^ fuel) :
    isqrtFrom fuel n x = n.sqrt := by
  induction fuel generalizing x with
  | zero =>
    rw [pow_zero] at hfuel
    exact (show x = n.sqrt by omega)
  | succ fuel ih =>
    have hroot := Nat.sqrt_le n
    have hnext := Nat.lt_succ_sqrt n
    have hpos := Nat.sqrt_pos.2 hn
    simp only [Nat.succ_eq_add_one] at hnext
    generalize n.sqrt = r at *
    have hge : r ≤ (x + n / x) / 2 := by
      rw [Nat.le_div_iff_mul_le two_pos]
      have hdiv := Nat.lt_mul_div_succ n hx
      by_contra hlt
      obtain ⟨i, rfl⟩ : ∃ i, r = i + 1 + n / x := ⟨r - 1 - n / x, by omega⟩
      nlinarith
    unfold isqrtFrom
    dsimp only
    split
    · next hlt =>
      have hle : n / x ≤ r := by
        have hrx : r + 1 ≤ x := by omega
        have : n < (r + 1) * x := hnext.trans_le (Nat.mul_le_mul_left _ hrx)
        exact Nat.le_of_lt_succ ((Nat.div_lt_iff_lt_mul hx).2 this)
      exact ih _ (by omega) hge (by rw [pow_succ] at hfuel; omega)
    · next hstop =>
      have hle : x ≤ n / x := by omega
      have hsq : x * x ≤ n := (Nat.le_div_iff_mul_le hx).1 hle
      by_contra hne
      have : (r + 1) * (r + 1) ≤ x * x := Nat.mul_le_mul (by omega) (by omega)
      omega

theorem isqrt_eq (n : Nat) : isqrt n = n.sqrt := by
  unfold isqrt
  split
  · next h => rw [h]; rfl
  · next h =>
    have hlt : n < 2 ^ (Nat.log2 n + 1) := Nat.lt_log2_self
    have hroot : n.sqrt < 2 ^ (Nat.log2 n / 2 + 1) := by
      rw [Nat.sqrt_lt']
      rw [← pow_mul]
      exact hlt.trans_le (Nat.pow_le_pow_right two_pos (by omega))
    refine isqrtFrom_eq (Nat.pos_of_ne_zero h) _ _ (Nat.two_pow_pos _) hroot.le ?_
    exact (Nat.sub_le _ _).trans_lt (Nat.pow_lt_pow_right one_lt_two (by omega))

/-! Values that no rounding boundary parts (log entry 5). -/

/-- Two magnitudes lie on the same sides of every half. -/
def SamePlace (x y : ℝ) : Prop := ∀ z : ℤ, ((z : ℝ) / 2 ≤ x ↔ (z : ℝ) / 2 ≤ y) ∧ (x ≤ (z : ℝ) / 2 ↔ y ≤ (z : ℝ) / 2)

section
variable {x y : ℝ} (h : SamePlace x y)
include h

theorem SamePlace.floor_eq : ⌊x⌋ = ⌊y⌋ := by
  refine eq_of_forall_le_iff fun z => ?_
  have hz := (h (2 * z)).1
  push_cast at hz
  rw [mul_div_cancel_left₀ _ two_ne_zero] at hz
  rw [Int.le_floor, Int.le_floor, hz]

theorem SamePlace.fract_pos : 0 < x - ⌊x⌋ ↔ 0 < y - ⌊y⌋ := by
  have hz := (h (2 * ⌊x⌋)).2
  push_cast at hz
  rw [mul_div_cancel_left₀ _ two_ne_zero] at hz
  rw [← h.floor_eq, sub_pos, sub_pos, ← not_le, ← not_le, hz]

theorem SamePlace.fract_half : (1 / 2 < x - ⌊x⌋ ↔ 1 / 2 < y - ⌊y⌋) ∧ (x - ⌊x⌋ = 1 / 2 ↔ y - ⌊y⌋ = 1 / 2) := by
  obtain ⟨hlow, hhigh⟩ := h (2 * ⌊x⌋ + 1)
  push_cast at hlow hhigh
  rw [show (2 * (⌊x⌋ : ℝ) + 1) / 2 = 1 / 2 + ⌊x⌋ by ring] at hlow hhigh
  rw [← h.floor_eq]
  constructor
  · rw [lt_sub_iff_add_lt, lt_sub_iff_add_lt, ← not_le, ← not_le, hhigh]
  · rw [sub_eq_iff_eq_add, sub_eq_iff_eq_add, le_antisymm_iff, le_antisymm_iff, hlow, hhigh]

theorem SamePlace.roundsUp {rm : RMode} (hrm : rm ≠ .sr) (s : Bool) (lane : Nat) : RoundsUp rm s lane x ↔ RoundsUp rm s lane y := by
  cases rm with
  | sr => exact absurd rfl hrm
  | rtz => exact Iff.rfl
  | rdn => exact and_congr_right fun _ => h.fract_pos
  | rup => exact and_congr_right fun _ => h.fract_pos
  | rne =>
    obtain ⟨hhalf, htie⟩ := h.fract_half
    exact or_congr hhalf (and_congr htie (by rw [h.floor_eq]))

theorem SamePlace.rounded {f : Elem} {rm : RMode} (hrm : rm ≠ .sr) {sat s : Bool} {q most : ℝ} {low low' : Prop} (hlow : low ↔ low')
    {r : Nat × FlagSet} (hr : RoundedAt f rm sat 0 s x q most low r) : RoundedAt f rm sat 0 s y q most low' r := by
  have hfloor := h.floor_eq
  have hpos := h.fract_pos
  have hzero : x - ⌊x⌋ = 0 ↔ y - ⌊y⌋ = 0 := by
    have hx := sub_nonneg.2 (Int.floor_le x)
    have hy := sub_nonneg.2 (Int.floor_le y)
    rw [← not_iff_not, ← ne_eq, ← ne_eq, ← hx.lt_iff_ne', ← hy.lt_iff_ne', hpos]
  obtain ⟨n, hup, hstay, hover, hfits⟩ := hr
  refine ⟨n, fun hu => ?_, fun hu => ?_, hover, fun hle => ?_⟩
  · rw [← hfloor]
    exact hup ((h.roundsUp hrm s 0).2 hu)
  · rw [← hfloor]
    exact hstay fun hx => hu ((h.roundsUp hrm s 0).1 hx)
  · obtain ⟨hlt, hfin, hrat, hexact, hflags⟩ := hfits hle
    refine ⟨hlt, hfin, hrat, fun hz => hexact (hzero.2 hz), fun hp => ?_⟩
    rw [← hlow]
    exact hflags (hpos.2 hp)

end

/-- Two magnitudes lie on the same sides of every multiple of 2^-200, and so of every rounding boundary of a lane. -/
def SameSides (a b : ℝ) : Prop :=
  ∀ z : ℤ, ((z : ℝ) / 2 ^ 200 ≤ a ↔ (z : ℝ) / 2 ^ 200 ≤ b) ∧ (a ≤ (z : ℝ) / 2 ^ 200 ↔ b ≤ (z : ℝ) / 2 ^ 200)

/-- Magnitudes between two neighbouring multiples. -/
theorem sameSides_between {v : ℤ} {a b : ℝ} (ha : (v : ℝ) / 2 ^ 200 < a ∧ a < ((v + 1 : ℤ) : ℝ) / 2 ^ 200)
    (hb : (v : ℝ) / 2 ^ 200 < b ∧ b < ((v + 1 : ℤ) : ℝ) / 2 ^ 200) : SameSides a b := by
  have hp : (0 : ℝ) < 2 ^ 200 := by positivity
  have hside {x : ℝ} (hx : (v : ℝ) / 2 ^ 200 < x ∧ x < ((v + 1 : ℤ) : ℝ) / 2 ^ 200) (z : ℤ) :
      ((z : ℝ) / 2 ^ 200 ≤ x ↔ z ≤ v) ∧ (x ≤ (z : ℝ) / 2 ^ 200 ↔ v + 1 ≤ z) := by
    have hmono {y w : ℤ} (h : y ≤ w) : (y : ℝ) / 2 ^ 200 ≤ (w : ℝ) / 2 ^ 200 :=
      (div_le_div_iff_of_pos_right hp).2 (by exact_mod_cast h)
    refine ⟨⟨fun h => ?_, fun h => (hmono h).trans hx.1.le⟩, ⟨fun h => ?_, fun h => hx.2.le.trans (hmono h)⟩⟩
    · by_contra hlt
      exact absurd (h.trans_lt hx.2) (not_lt.2 (hmono (show v + 1 ≤ z by omega)))
    · by_contra hlt
      exact absurd (hx.1.trans_le h) (not_lt.2 (hmono (show z ≤ v by omega)))
  exact fun z => ⟨(hside ha z).1.trans (hside hb z).1.symm, (hside ha z).2.trans (hside hb z).2.symm⟩

section
variable {a b : ℝ} (h : SameSides a b)
include h

/-- The same holds for the multiples of a greater power of two. -/
theorem SameSides.power {j : ℤ} (hj : -200 ≤ j) (z : ℤ) :
    ((z : ℝ) * 2 ^ j ≤ a ↔ (z : ℝ) * 2 ^ j ≤ b) ∧ (a ≤ (z : ℝ) * 2 ^ j ↔ b ≤ (z : ℝ) * 2 ^ j) := by
  obtain ⟨k, hk⟩ := Int.eq_ofNat_of_zero_le (show 0 ≤ j + 200 by omega)
  have hz := h (z * 2 ^ k)
  have hpow : ((z * 2 ^ k : ℤ) : ℝ) / 2 ^ 200 = z * 2 ^ j := by
    have hexp : (2 : ℝ) ^ j = 2 ^ k / 2 ^ 200 := by
      rw [show j = (k : ℤ) - (200 : ℕ) by push_cast; omega, zpow_sub₀ two_ne_zero, zpow_natCast, zpow_natCast]
    rw [hexp]
    push_cast
    ring
  rwa [hpow] at hz

theorem SameSides.log_max (ha : 0 < a) (hb : 0 < b) {emin : ℤ} (he : -200 ≤ emin) :
    max (Int.log 2 a) emin = max (Int.log 2 b) emin ∧ (a < 2 ^ emin ↔ b < 2 ^ emin) := by
  have hle {j : ℤ} (hj : -200 ≤ j) : j ≤ Int.log 2 a ↔ j ≤ Int.log 2 b := by
    have hz := (h.power hj 1).1
    rw [Int.cast_one, one_mul] at hz
    have h1 := Int.zpow_le_iff_le_log (b := 2) (x := j) one_lt_two ha
    have h2 := Int.zpow_le_iff_le_log (b := 2) (x := j) one_lt_two hb
    push_cast at h1 h2
    rw [← h1, ← h2, hz]
  constructor
  · have h1 := hle (j := max (Int.log 2 a) emin) (by omega)
    have h2 := hle (j := max (Int.log 2 b) emin) (by omega)
    omega
  · have hz := (h.power he 1).1
    rw [Int.cast_one, one_mul] at hz
    rw [← not_le, ← not_le, hz]

/-- Such magnitudes are rounded alike to a lane (log entry 5). -/
theorem SameSides.roundsTo (ty : FTy) {rm : RMode} (hrm : rm ≠ .sr) {sat s : Bool} (ha : 0 < a) (hb : 0 < b) {r : Nat × FlagSet}
    (hr : RoundsTo (laneElem ty) rm sat 0 s a r) : RoundsTo (laneElem ty) rm sat 0 s b r := by
  rw [roundsTo_float (laneElem_params ty)] at hr ⊢
  obtain ⟨hmax, hlow⟩ := h.log_max ha hb (emin := 1 - ((127 : Nat) : ℤ)) (by norm_num)
  rw [← hmax]
  have hmant : laneMant ty ≤ 23 := by cases ty <;> decide
  have hk : -199 ≤ max (Int.log 2 a) (1 - ((127 : Nat) : ℤ)) - (laneMant ty : ℤ) := by omega
  generalize max (Int.log 2 a) (1 - ((127 : Nat) : ℤ)) - (laneMant ty : ℤ) = k at hr hk ⊢
  have hq : (0 : ℝ) < 2 ^ k := zpow_pos two_pos k
  have hplace : SamePlace (a / 2 ^ k) (b / 2 ^ k) := by
    intro z
    have hz := h.power (j := k - 1) (by omega) z
    have hhalf : (z : ℝ) / 2 * 2 ^ k = z * 2 ^ (k - 1) := by
      rw [zpow_sub_one₀ two_ne_zero]
      ring
    rw [le_div_iff₀ hq, le_div_iff₀ hq, div_le_iff₀ hq, div_le_iff₀ hq, hhalf]
    exact hz
  exact hplace.rounded hrm hlow hr

end

/-- A truncated magnitude without its sticky bit, and the places of one with it. -/
theorem sticky_exact (v k : Nat) : ((2 * v + (!true).toNat : Nat) : ℝ) / (2 ^ (k + 1) : Nat) = v / 2 ^ k := by
  simp only [Bool.not_true, Bool.toNat_false, Nat.add_zero]
  push_cast
  rw [pow_succ, mul_comm (2 : ℝ), mul_div_mul_right _ _ two_ne_zero]

theorem sticky_inexact (v k : Nat) : (v : ℝ) / 2 ^ k < ((2 * v + (!false).toNat : Nat) : ℝ) / (2 ^ (k + 1) : Nat) ∧
    ((2 * v + (!false).toNat : Nat) : ℝ) / (2 ^ (k + 1) : Nat) < (v + 1) / 2 ^ k := by
  have hp : (0 : ℝ) < 2 ^ k := by positivity
  have hval : ((2 * v + (!false).toNat : Nat) : ℝ) / (2 ^ (k + 1) : Nat) = (v + 1 / 2) / 2 ^ k := by
    simp only [Bool.not_false, Bool.toNat_true]
    push_cast
    rw [pow_succ, div_eq_div_iff (by positivity) (by positivity)]
    ring
  rw [hval, div_lt_div_iff_of_pos_right hp, div_lt_div_iff_of_pos_right hp]
  constructor <;> linarith

/-- The root of a rational that is scaled by an even power of two. -/
theorem sqrt_scaled (num den k : Nat) : Real.sqrt ((num : ℝ) / den) = Real.sqrt (((num * 2 ^ (2 * k) : Nat) : ℝ) / den) / 2 ^ k := by
  have hp : (0 : ℝ) < 2 ^ k := by positivity
  have hscale : ((num * 2 ^ (2 * k) : Nat) : ℝ) / den = (num : ℝ) / den * (2 ^ k) ^ 2 := by
    push_cast
    rw [← pow_mul, Nat.mul_comm k 2, mul_div_right_comm]
  rw [eq_div_iff hp.ne', hscale, Real.sqrt_mul' _ (by positivity), Real.sqrt_sq hp.le]

theorem sqrtX_eq (num den : Nat) : sqrtX num den = sticky false (num * 2 ^ (2 * 200) / den).sqrt 200
    ((num * 2 ^ (2 * 200) / den).sqrt * (num * 2 ^ (2 * 200) / den).sqrt * den == num * 2 ^ (2 * 200)) := by
  rw [← isqrt_eq]
  rfl

/-- A truncated root with a sticky bit where it is not exact is rounded as the root is. -/
theorem root_rounds (ty : FTy) {rm : RMode} (hrm : rm ≠ .sr) {n den : Nat} (hn : 0 < n) (hd : 0 < den) :
    RoundsTo (laneElem ty) rm false 0 false (Real.sqrt ((n : ℝ) / den) / 2 ^ 200)
      (roundToFormat (sticky false (n / den).sqrt 200 ((n / den).sqrt * (n / den).sqrt * den == n)) (laneElem ty) rm false 0) := by
  have hd' : (0 : ℝ) < den := by exact_mod_cast hd
  have hle := (Nat.le_div_iff_mul_le hd).1 (Nat.sqrt_le (n / den))
  have hlt := (Nat.div_lt_iff_lt_mul hd).1 (Nat.lt_succ_sqrt (n / den))
  generalize (n / den).sqrt = v at hle hlt ⊢
  rw [Nat.succ_eq_add_one] at hlt
  cases hexact : v * v * den == n with
  | true =>
    rw [beq_iff_eq] at hexact
    have hv : 0 < v := by
      refine Nat.pos_of_ne_zero ?_
      rintro rfl
      omega
    have hroot : Real.sqrt ((n : ℝ) / den) = v := by
      rw [← hexact]
      push_cast
      rw [mul_div_assoc, div_self hd'.ne', mul_one, Real.sqrt_mul_self (Nat.cast_nonneg v)]
    rw [hroot, ← sticky_exact v 200]
    exact roundToFormat_roundsTo _ rm false 0 false (Nat.add_pos_left (Nat.mul_pos two_pos hv) _) (Nat.two_pow_pos _)
  | false =>
    rw [beq_eq_false_iff_ne] at hexact
    have hp : (0 : ℝ) < 2 ^ 200 := by positivity
    have hlow : (v : ℝ) < Real.sqrt ((n : ℝ) / den) := by
      refine Real.lt_sqrt_of_sq_lt ?_
      rw [lt_div_iff₀ hd', sq]
      exact_mod_cast lt_of_le_of_ne hle hexact
    have hhigh : Real.sqrt ((n : ℝ) / den) < v + 1 := by
      rw [Real.sqrt_lt' (by positivity), div_lt_iff₀ hd', sq]
      exact_mod_cast hlt
    obtain ⟨h1, h2⟩ := sticky_inexact v 200
    refine SameSides.roundsTo (sameSides_between (v := v) ⟨h1, ?_⟩ ⟨?_, ?_⟩) ty hrm ?_ ?_
      (roundToFormat_roundsTo _ rm false 0 false (Nat.add_pos_right _ Nat.one_pos) (Nat.two_pow_pos _))
    · push_cast at h2 ⊢
      exact h2
    · exact (div_lt_div_iff_of_pos_right hp).2 (by exact_mod_cast hlow)
    · exact (div_lt_div_iff_of_pos_right hp).2 (by exact_mod_cast hhigh)
    · exact (div_nonneg (Nat.cast_nonneg v) hp.le).trans_lt h1
    · exact div_pos ((Nat.cast_nonneg v).trans_lt hlow) hp

/-- The root of a positive rational is rounded once (R109). -/
theorem sqrtX_rounds (ty : FTy) {rm : RMode} (hrm : rm ≠ .sr) {num den : Nat} (hn : 0 < num) (hd : 0 < den) :
    RoundsTo (laneElem ty) rm false 0 false (Real.sqrt ((num : ℝ) / den)) (roundToFormat (sqrtX num den) (laneElem ty) rm false 0) := by
  rw [sqrtX_eq, sqrt_scaled num den 200]
  exact root_rounds ty hrm (Nat.mul_pos hn (pow_pos two_pos _)) hd

/-- A magnitude past the range of the lane is an overflow. -/
theorem roundsTo_large (ty : FTy) {rm : RMode} {sat s : Bool} {lane : Nat} {a : ℝ} (h : (2 : ℝ) ^ 128 ≤ a) {r : Nat × FlagSet}
    (hr : RoundsTo (laneElem ty) rm sat lane s a r) : r = overflowResult (laneElem ty) s rm sat := by
  have ha : 0 < a := lt_of_lt_of_le (by positivity) h
  have hlog : 128 ≤ Int.log 2 a := (Int.zpow_le_iff_le_log one_lt_two ha).1 (by exact_mod_cast h)
  rw [roundsTo_float (laneElem_params ty), max_eq_left (by omega)] at hr
  have hkept := (kept_bounds ha (max_eq_left (show (1 - ((127 : Nat) : ℤ)) ≤ Int.log 2 a by omega)) (laneMant ty)).2 (by omega)
  obtain ⟨n, hup, hstay, hover, -⟩ := hr
  refine hover ?_
  have hn : (2 : ℝ) ^ laneMant ty ≤ n := by
    have hfloor : (2 : ℤ) ^ laneMant ty ≤ ⌊a / 2 ^ (Int.log 2 a - (laneMant ty : ℤ))⌋ := Int.le_floor.2 (by exact_mod_cast hkept)
    have hle : (2 : ℤ) ^ laneMant ty ≤ n := by
      by_cases hu : RoundsUp rm s lane (a / 2 ^ (Int.log 2 a - (laneMant ty : ℤ)))
      · rw [hup hu]
        omega
      · rw [hstay hu]
        exact hfloor
    exact_mod_cast hle
  have hmost : (((laneElem ty).decode (laneElem ty).maxCode).rat : ℝ) < 2 ^ 128 := by
    obtain ⟨m, e, hdec, -⟩ := Elem.decode_maxCode (f := laneElem ty) (by rw [laneElem_params]; rfl)
    obtain ⟨-, -, hle⟩ := laneElem_range hdec
    rw [hdec]
    refine lt_of_eq_of_lt (b := (m : ℝ) * 2 ^ e) (by simp [FVal.rat]) (hle.trans_lt ?_)
    norm_num
  refine hmost.trans_le ?_
  calc (2 : ℝ) ^ 128 ≤ 2 ^ Int.log 2 a := by
        rw [← zpow_natCast]
        exact zpow_le_zpow_right₀ one_le_two hlog
    _ = 2 ^ laneMant ty * 2 ^ (Int.log 2 a - (laneMant ty : ℤ)) := by
        rw [← zpow_natCast, ← zpow_add₀ two_ne_zero]
        congr 1
        ring
    _ ≤ n * 2 ^ (Int.log 2 a - (laneMant ty : ℤ)) := mul_le_mul_of_nonneg_right hn (zpow_pos two_pos _).le

/-- A fixed-point integer, rounded once. -/
theorem roundsOnce_fixed (ty : FTy) (m : RMode) (v : ℤ) (p : Nat) :
    RoundsOnce (laneElem ty) m ((v : ℚ) / 2 ^ p) false (roundToFormat (.fin (v < 0) v.natAbs (2 ^ p)) (laneElem ty) m false 0) := by
  have hr := roundsOnce_fin (s := decide (v < 0)) (a := v.natAbs) ty m (Nat.two_pow_pos p)
  have hval : ratOf (decide (v < 0)) v.natAbs (2 ^ p) = (v : ℚ) / 2 ^ p := by
    rw [ratOf, signedNum_natAbs]
    push_cast
    rfl
  rw [hval] at hr
  refine ⟨hr.1, fun h => (hr.2 h).trans ?_⟩
  have hv : v = 0 := by
    rw [div_eq_zero_iff, or_iff_left (by positivity)] at h
    exact_mod_cast h
  rw [hv]
  rfl

/-! The special functions of a finite lane (R109). -/

section
variable {s : Bool} {n : Nat} {e : ℤ}

theorem rat_eq_ratOf : (FVal.fin s n e).rat = ratOf s (scalePow n 1 e).1 (scalePow n 1 e).2 := rat_eq_div s n e

theorem abs_rat : |(FVal.fin s n e).rat| = ((scalePow n 1 e).1 : ℚ) / (scalePow n 1 e).2 := by
  rw [exact_div s, Rat.cast_id]

variable (ty : FTy) {rm : RMode} (hn : n ≠ 0)
include hn

theorem frcp_rounds : RoundsTo (laneElem ty) rm false 0 s |((FVal.fin s n e).rat : ℝ)|⁻¹
    (specialLane .rcp (laneElem ty) rm (.fin s n e)) := by
  rw [← exact_div, inv_div]
  simp only [specialLane, hn, if_false]
  exact roundToFormat_roundsTo _ rm false 0 s (scalePow_den_pos Nat.one_pos e) (scalePow_num_pos (Nat.pos_of_ne_zero hn) 1 e)

theorem roots_round (hrm : rm ≠ .sr) :
    RoundsTo (laneElem ty) rm false 0 false (Real.sqrt |((FVal.fin false n e).rat : ℝ)|)⁻¹
        (specialLane .rsq (laneElem ty) rm (.fin false n e)) ∧
      RoundsTo (laneElem ty) rm false 0 false (Real.sqrt |((FVal.fin false n e).rat : ℝ)|)
        (specialLane .sqrt (laneElem ty) rm (.fin false n e)) := by
  have hnum := scalePow_num_pos (Nat.pos_of_ne_zero hn) 1 e
  have hden := scalePow_den_pos (num := n) Nat.one_pos e
  rw [← Real.sqrt_inv, ← exact_div, inv_div]
  simp only [specialLane, hn, if_false, Bool.false_eq_true]
  exact ⟨sqrtX_rounds ty hrm hden hnum, sqrtX_rounds ty hrm hnum hden⟩

/-- The forms that a negative lane makes invalid. -/
theorem special_negative : specialLane .rsq (laneElem ty) rm (.fin true n e) = (laneNaN ty, flNV) ∧
    specialLane .sqrt (laneElem ty) rm (.fin true n e) = (laneNaN ty, flNV) ∧
    specialLane .lg2 (laneElem ty) rm (.fin true n e) = (laneNaN ty, flNV) := by
  simp only [specialLane, hn, if_false, if_true, nanResult_eq, and_self]

end

/-- 2^a of an integral a (R109). -/
theorem exp2X_integral {s : Bool} {n : Nat} {e k : ℤ} (hk : (FVal.fin s n e).rat = k) : exp2X s n e =
    if (scalePow n 1 e).1 ≥ 1024 * (scalePow n 1 e).2 then (if s then .fin false 1 (2 ^ 1024) else .fin false (2 ^ 1024) 1)
    else .fin false (scalePow 1 1 k).1 (scalePow 1 1 k).2 := by
  have hden := scalePow_den_pos (num := n) Nat.one_pos e
  have hmul : signedNum s (scalePow n 1 e).1 = k * (scalePow n 1 e).2 := by
    rw [rat_eq_div, div_eq_iff (by exact_mod_cast hden.ne')] at hk
    exact_mod_cast hk
  have hden' : ((scalePow n 1 e).2 : ℤ) ≠ 0 := by exact_mod_cast hden.ne'
  simp only [exp2X, hmul, Int.mul_ediv_cancel _ hden', Int.mul_emod_left, Int.toNat_zero, if_true]

/-- Powers of two below the least rounding boundary are rounded alike. -/
theorem sameSides_tiny {j k : ℤ} (hj : j < -200) (hk : k < -200) : SameSides ((2 : ℝ) ^ j) (2 ^ k) := by
  have hbounds {i : ℤ} (hi : i < -200) : ((0 : ℤ) : ℝ) / 2 ^ 200 < (2 : ℝ) ^ i ∧ (2 : ℝ) ^ i < ((0 + 1 : ℤ) : ℝ) / 2 ^ 200 := by
    have hlast : ((0 + 1 : ℤ) : ℝ) / 2 ^ 200 = 2 ^ (-200 : ℤ) := by norm_num
    rw [Int.cast_zero, zero_div, hlast]
    exact ⟨zpow_pos two_pos _, zpow_lt_zpow_right₀ one_lt_two hi⟩
  exact sameSides_between (hbounds hj) (hbounds hk)

/-- The rounding of a power of two. -/
theorem powers_round (ty : FTy) (rm : RMode) (j : Nat) :
    RoundsTo (laneElem ty) rm false 0 false ((2 : ℝ) ^ (j : ℤ)) (roundToFormat (.fin false (2 ^ j) 1) (laneElem ty) rm false 0) ∧
      RoundsTo (laneElem ty) rm false 0 false ((2 : ℝ) ^ (-(j : ℤ)))
        (roundToFormat (.fin false 1 (2 ^ j)) (laneElem ty) rm false 0) := by
  have hup := roundToFormat_roundsTo (laneElem ty) rm false 0 false (Nat.two_pow_pos j) Nat.one_pos
  have hdown := roundToFormat_roundsTo (laneElem ty) rm false 0 false Nat.one_pos (Nat.two_pow_pos j)
  rw [Nat.cast_one, Nat.cast_pow, Nat.cast_ofNat] at hup hdown
  rw [zpow_neg, zpow_natCast, ← one_div]
  rw [div_one] at hup
  exact ⟨hup, hdown⟩

/-- fex2 of an integer is one rounding of the power of two. -/
theorem fex2_rounds (ty : FTy) {rm : RMode} (hrm : rm ≠ .sr) {s : Bool} {n : Nat} {e k : ℤ} (hn : n ≠ 0)
    (hk : (FVal.fin s n e).rat = k) :
    RoundsTo (laneElem ty) rm false 0 false ((2 : ℝ) ^ k) (specialLane .ex2 (laneElem ty) rm (.fin s n e)) := by
  have hpow (j : ℤ) : RoundsTo (laneElem ty) rm false 0 false ((2 : ℝ) ^ j)
      (roundToFormat (.fin false (scalePow 1 1 j).1 (scalePow 1 1 j).2) (laneElem ty) rm false 0) := by
    have hr := roundToFormat_roundsTo (laneElem ty) rm false 0 false (scalePow_num_pos Nat.one_pos 1 j)
      (scalePow_den_pos (num := 1) Nat.one_pos j)
    rwa [scalePow_div, Nat.cast_one, div_one, one_mul] at hr
  simp only [specialLane, hn, if_false, exp2X_integral hk]
  split
  · next hbig =>
    have hmag : (1024 : ℚ) ≤ |(k : ℚ)| := by
      rw [← hk, abs_rat, le_div_iff₀ (by exact_mod_cast scalePow_den_pos (num := n) Nat.one_pos e)]
      exact_mod_cast hbig
    have hmag' : 1024 ≤ |k| := by exact_mod_cast hmag
    cases s with
    | true =>
      have hneg : k < 0 := by
        have := (ratOf_neg (s := true) (scalePow_den_pos (num := n) Nat.one_pos e) (scalePow_num_pos (Nat.pos_of_ne_zero hn) 1 e).ne').2 rfl
        rw [← rat_eq_ratOf, hk] at this
        exact_mod_cast this
      rw [abs_of_neg hneg] at hmag'
      exact (sameSides_tiny (by omega) (by omega)).roundsTo ty hrm (zpow_pos two_pos _) (zpow_pos two_pos _)
        (powers_round ty rm 1024).2
    | false =>
      have hpos : 0 ≤ k := by
        have : (0 : ℚ) ≤ (FVal.fin false n e).rat := by simpa [FVal.rat] using mul_nonneg (Nat.cast_nonneg n) (zpow_pos two_pos e).le
        rw [hk] at this
        exact_mod_cast this
      rw [abs_of_nonneg hpos] at hmag'
      have hlarge {j : ℤ} (hj : 1024 ≤ j) : (2 : ℝ) ^ 128 ≤ 2 ^ j := by
        rw [← zpow_natCast]
        exact zpow_le_zpow_right₀ one_le_two (by omega)
      have hover := roundsTo_large ty (hlarge (by omega)) (powers_round ty rm 1024).1
      have hround := hpow k
      rw [roundsTo_large ty (hlarge hmag') hround, ← hover] at hround
      exact hround
  · exact hpow k

/-- The fractional digits of the logarithm of one. -/
theorem log2Frac_one (i : Nat) : log2Frac i (2 ^ fixP) 0 = 0 := by
  induction i with
  | zero => rfl
  | succ i ih =>
    have hlt : ¬ 2 ^ fixP ≥ 2 ^ (fixP + 1) := Nat.not_le.2 (Nat.pow_lt_pow_right one_lt_two (Nat.lt_succ_self fixP))
    have hone : 2 ^ fixP * 2 ^ fixP / 2 ^ fixP = 2 ^ fixP := Nat.mul_div_cancel _ (Nat.two_pow_pos fixP)
    simp only [log2Frac, hone, hlt, if_false, Nat.mul_zero]
    exact ih

/-- log2 of a power of two (R109). -/
theorem log2X_power {num den : Nat} (hn : 0 < num) (hd : 0 < den) {k : ℤ} (hk : (num : ℚ) / den = 2 ^ k) :
    log2X num den = .fin (decide (2 * (k * 2 ^ 200) < 0)) (2 * (k * 2 ^ 200)).natAbs (2 ^ 201) := by
  have hfloor : floorLog2 num den = k := by
    rw [floorLog2_eq (K := ℚ) hn hd, hk]
    exact_mod_cast Int.log_zpow (R := ℚ) one_lt_two k
  have hsame : (scalePow num den (-k)).1 = (scalePow num den (-k)).2 := by
    have hdiv := scalePow_div (K := ℚ) num den (-k)
    rw [hk, ← zpow_add₀ two_ne_zero, add_neg_cancel, zpow_zero,
      div_eq_one_iff_eq (by exact_mod_cast (scalePow_den_pos (num := num) hd (-k)).ne')] at hdiv
    exact_mod_cast hdiv
  have hone : (scalePow num den (-k)).2 * 2 ^ fixP / (scalePow num den (-k)).2 = 2 ^ fixP :=
    Nat.mul_div_cancel_left _ (scalePow_den_pos hd (-k))
  simp only [log2X, hfloor, hsame, hone, log2Frac_one, beq_self_eq_true, if_true, Nat.cast_zero, Int.add_zero]

/-- flg2 of a power of two is one rounding of the exponent. -/
theorem flg2_rounds (ty : FTy) {rm : RMode} {n : Nat} {e k : ℤ} (hn : n ≠ 0) (hk : (FVal.fin false n e).rat = 2 ^ k) :
    RoundsOnce (laneElem ty) rm k false (specialLane .lg2 (laneElem ty) rm (.fin false n e)) := by
  have hval : ((2 * (k * 2 ^ 200) : ℤ) : ℚ) / 2 ^ 201 = k := by
    push_cast
    ring
  rw [rat_eq_div] at hk
  have hr := roundsOnce_fixed ty rm (2 * (k * 2 ^ 200)) 201
  rw [hval, ← log2X_power (scalePow_num_pos (Nat.pos_of_ne_zero hn) 1 e) (scalePow_den_pos Nat.one_pos e) hk] at hr
  simp only [specialLane, hn, if_false, Bool.false_eq_true]
  exact hr

/-- The table of special inputs (R109). -/
theorem special_inf (ty : FTy) (rm : RMode) (s : Bool) :
    specialLane .rcp (laneElem ty) rm (.inf s) = (if s then 2 ^ ((laneElem ty).width - 1) else 0, flNone) ∧
      specialLane .rsq (laneElem ty) rm (.inf s) = (if s then (laneNaN ty, flNV) else (0, flNone)) ∧
      specialLane .sqrt (laneElem ty) rm (.inf s) = (if s then (laneNaN ty, flNV) else (laneInf ty false, flNone)) ∧
      specialLane .ex2 (laneElem ty) rm (.inf s) = (if s then (0, flNone) else (laneInf ty false, flNone)) ∧
      specialLane .lg2 (laneElem ty) rm (.inf s) = (if s then (laneNaN ty, flNV) else (laneInf ty false, flNone)) := by
  simp only [specialLane, nanResult_eq, ovf_eq, Elem.signBit, and_self]

/-- 2^0 in a lane type. -/
theorem one_rounds (ty : FTy) {rm : RMode} (hrm : rm ≠ .sr) :
    roundToFormat (.fin false 1 1) (laneElem ty) rm false 0 = (if ty = .f32 then 0x3F800000 else 0x3F80, flNone) := by
  cases rm with
  | sr => exact absurd rfl hrm
  | _ => cases ty <;> decide

theorem special_zero (ty : FTy) {rm : RMode} (hrm : rm ≠ .sr) (s : Bool) (e : ℤ) :
    specialLane .rcp (laneElem ty) rm (.fin s 0 e) = (laneInf ty s, flDZ) ∧
      specialLane .rsq (laneElem ty) rm (.fin s 0 e) = (laneInf ty s, flDZ) ∧
      specialLane .sqrt (laneElem ty) rm (.fin s 0 e) = (if s then 2 ^ ((laneElem ty).width - 1) else 0, flNone) ∧
      specialLane .ex2 (laneElem ty) rm (.fin s 0 e) = (if ty = .f32 then 0x3F800000 else 0x3F80, flNone) ∧
      specialLane .lg2 (laneElem ty) rm (.fin s 0 e) = (laneInf ty true, flDZ) := by
  simp only [specialLane, ovf_eq, Elem.signBit, if_true, one_rounds ty hrm, and_self]

/-! Sine and cosine (R110). -/

/-- The value of trig from the scaled argument on. -/
def trigFrom (sine : Bool) (T : ℤ) : ℤ :=
  let k : ℤ := (T + 2 ^ 39) / 2 ^ 40
  let F : ℤ := T - k * 2 ^ 40
  let g1 : ℤ := F * trigPI32 / 2 ^ 40
  let g2 : ℤ := g1 * g1 / 2 ^ 40
  let g3 : ℤ := g2 * g1 / 2 ^ 40
  let g5 : ℤ := (g2 * g2 / 2 ^ 40) * g1 / 2 ^ 40
  let sp : ℤ := g1 - g3 / 6 + g5 / 120
  let cp : ℤ := 2 ^ 40 - g2 / 2 + (g2 * g2 / 2 ^ 40) / 24
  let S : ℤ := trigTS.getD (k % 64).toNat 0
  let C : ℤ := trigTC.getD (k % 64).toNat 0
  if sine then (S * cp + C * sp) / 2 ^ 40 else (C * cp - S * sp) / 2 ^ 40

section
variable {s : Bool} {n : Nat} {e : ℤ} (sine : Bool)

theorem trigFixed_eq : trigFixed sine (signedNum s (scalePow n 1 e).1) (scalePow n 1 e).2 =
    trigFrom sine ⌊(FVal.fin s n e).rat * 13539405185619352255862778433820118492 / 2 ^ 80⌋ := by
  have hT : ⌊(FVal.fin s n e).rat * 13539405185619352255862778433820118492 / 2 ^ 80⌋ =
      signedNum s (scalePow n 1 e).1 * trigIPI / (((scalePow n 1 e).2 : ℤ) * 2 ^ 80) := by
    have hdiv := Rat.floor_intCast_div_natCast (signedNum s (scalePow n 1 e).1 * trigIPI) ((scalePow n 1 e).2 * 2 ^ 80)
    have hIPI : (trigIPI : ℚ) = 13539405185619352255862778433820118492 := Int.cast_ofNat _
    simp only [Int.cast_mul, Nat.cast_mul, Nat.cast_pow, Nat.cast_ofNat, hIPI] at hdiv
    rw [← hdiv, rat_eq_div, div_mul_eq_mul_div, div_div]
  rw [hT]
  rfl

theorem trig_large : (scalePow n 1 e).1 ≥ 2 ^ 18 * (scalePow n 1 e).2 ↔ 2 ^ 18 ≤ |(FVal.fin s n e).rat| := by
  rw [abs_rat, le_div_iff₀ (by exact_mod_cast scalePow_den_pos (num := n) Nat.one_pos e)]
  exact_mod_cast Iff.rfl

theorem trig_small : (scalePow n 1 e).1 * 2 ^ 12 < (scalePow n 1 e).2 ↔ |(FVal.fin s n e).rat| < 1 / 2 ^ 12 := by
  rw [abs_rat, div_lt_div_iff₀ (by exact_mod_cast scalePow_den_pos (num := n) Nat.one_pos e) (by positivity), one_mul]
  exact_mod_cast Iff.rfl

variable (ty : FTy) (rm : RMode)

theorem trigLane_inf : trigLane sine (laneElem ty) rm (.inf s) = (laneNaN ty, flNV) := by
  simp only [trigLane, nanResult_eq]

theorem trigLane_large (h : 2 ^ 18 ≤ |(FVal.fin s n e).rat|) :
    trigLane sine (laneElem ty) rm (.fin s n e) = (laneNaN ty, flNV) := by
  simp only [trigLane, trig_large.2 h, if_true, nanResult_eq]

theorem trigLane_small (h : sine = true ∧ |(FVal.fin s n e).rat| < 1 / 2 ^ 12) :
    (n ≠ 0 → RoundsTo (laneElem ty) rm false 0 s |((FVal.fin s n e).rat : ℝ)| (trigLane sine (laneElem ty) rm (.fin s n e))) ∧
      (n = 0 → trigLane sine (laneElem ty) rm (.fin s n e) = (if s then 2 ^ ((laneElem ty).width - 1) else 0, flNone)) := by
  obtain ⟨rfl, hsmall⟩ := h
  have hlarge : ¬ 2 ^ 18 ≤ |(FVal.fin s n e).rat| := not_le.2 (hsmall.trans (by norm_num))
  have hlane : trigLane true (laneElem ty) rm (.fin s n e) =
      roundToFormat (.fin s (scalePow n 1 e).1 (scalePow n 1 e).2) (laneElem ty) rm false 0 := by
    simp only [trigLane, trig_large.not.2 hlarge, trig_small.2 hsmall, if_false, decide_true, Bool.and_self, if_true]
  rw [hlane]
  refine ⟨fun hn => ?_, ?_⟩
  · rw [← exact_div]
    exact roundToFormat_roundsTo _ rm false 0 s (scalePow_num_pos (Nat.pos_of_ne_zero hn) 1 e) (scalePow_den_pos Nat.one_pos e)
  · rintro rfl
    rw [scalePow_num_zero, roundToFormat_zero, laneElem_params]
    simp

theorem trigLane_steps (h : |(FVal.fin s n e).rat| < 2 ^ 18) (hs : ¬ (sine = true ∧ |(FVal.fin s n e).rat| < 1 / 2 ^ 12)) :
    RoundsOnce (laneElem ty) rm ((trigFrom sine ⌊(FVal.fin s n e).rat * 13539405185619352255862778433820118492 / 2 ^ 80⌋ : ℚ) / 2 ^ 40) false
      (trigLane sine (laneElem ty) rm (.fin s n e)) := by
  have hsmall : ¬ (sine && decide ((scalePow n 1 e).1 * 2 ^ 12 < (scalePow n 1 e).2)) = true := by
    rwa [Bool.and_eq_true, decide_eq_true_iff, trig_small (s := s)]
  have hround := roundsOnce_fixed ty rm (trigFixed sine (signedNum s (scalePow n 1 e).1) (scalePow n 1 e).2) 40
  rw [trigFixed_eq] at hround
  simp only [trigLane, trig_large.not.2 (not_le.2 h), hsmall, if_false, trigFixed_eq]
  exact hround

end

end Sys2Proof.Machine

/-! ### The lanes of the floating forms -/

namespace Sys2Proof.Machine

/-! Lane k of a result is the lane function of lanes k of the sources (R103). -/

theorem binary_lanes (ty : FTy) (op : Nat → Nat → Nat × FlagSet) (x y : Quad) :
    let lane (v : Quad) : Nat → Nat := fieldAt (laneElem ty).width v.toNat
    (∀ k < laneCount ty, lane (mapF2 ty op x y).1 k = (op (lane x k) (lane y k)).1 % 2 ^ (laneElem ty).width) ∧
      ∀ n, (mapF2 ty op x y).2.getLsbD n = true ↔ ∃ k < laneCount ty, (op (lane x k) (lane y k)).2.getLsbD n = true := by
  rw [mapF2_eq]
  exact packResults_range _ (lane_bits ty).le

theorem unary_ternary_lanes (ty : FTy) (op : Nat → Nat × FlagSet) (op3 : Nat → Nat → Nat → Nat × FlagSet) (x y z : Quad) :
    let lane (v : Quad) : Nat → Nat := fieldAt (laneElem ty).width v.toNat
    (∀ k < laneCount ty, lane (mapF ty op x).1 k = (op (lane x k)).1 % 2 ^ (laneElem ty).width ∧
        lane (mapF3 ty op3 x y z).1 k = (op3 (lane x k) (lane y k) (lane z k)).1 % 2 ^ (laneElem ty).width) ∧
      ∀ n, ((mapF ty op x).2.getLsbD n = true ↔ ∃ k < laneCount ty, (op (lane x k)).2.getLsbD n = true) ∧
        ((mapF3 ty op3 x y z).2.getLsbD n = true ↔
          ∃ k < laneCount ty, (op3 (lane x k) (lane y k) (lane z k)).2.getLsbD n = true) := by
  rw [mapF_eq, mapF3_eq]
  obtain ⟨hlane, hflag⟩ := packResults_range (fun k => op (fieldAt (laneElem ty).width x.toNat k)) (lane_bits ty).le
  obtain ⟨hlane3, hflag3⟩ := packResults_range (fun k => op3 (fieldAt (laneElem ty).width x.toNat k)
    (fieldAt (laneElem ty).width y.toNat k) (fieldAt (laneElem ty).width z.toNat k)) (lane_bits ty).le
  exact ⟨fun k hk => ⟨hlane k hk, hlane3 k hk⟩, fun n => ⟨hflag n, hflag3 n⟩⟩

/-! round_to_format of a NaN (R47). -/

theorem roundToFormat_nan (f : Elem) (rm : RMode) (sat : Bool) (lane : Nat) :
    roundToFormat .nan f rm sat lane = match f.nan with | some c => (c, flNone) | none => (0, flNV) := by
  cases f <;> rfl

theorem noSR_eq (rm : RMode) : (if rm = .sr then .rne else rm) = rm.noSR := by cases rm <;> rfl

theorem noSR_of {rm : RMode} (h : rm ≠ .sr) : rm.noSR = rm := by
  rw [← noSR_eq, if_neg h]

/-- The rounding of an integer. -/
theorem roundsOnce_int (ty : FTy) (rm : RMode) (s0 : Bool) {k : ℤ} {r : Nat × FlagSet} : RoundsOnce (laneElem ty) rm k s0 r ↔
    (k ≠ 0 → RoundsTo (laneElem ty) rm false 0 (decide (k < 0)) |(k : ℝ)| r) ∧
      (k = 0 → r = (if s0 then 2 ^ ((laneElem ty).width - 1) else 0, flNone)) := by
  simp only [RoundsOnce, Rat.cast_intCast, Int.cast_lt_zero, ne_eq, Int.cast_eq_zero]

/-- Settles O26: the forms are maps of lane functions, whose finite cases are one rounding of an exact rational, or of a truncated
root between the same rounding boundaries as the root, and whose other cases are the tables of R106 to R110. -/
theorem lanesAreIndependent : Obligations.LanesAreIndependent := by
  refine ⟨fun ty op x y => binary_lanes ty op x y, fun ty op op3 x y z => unary_ternary_lanes ty op op3 x y z, ?_, ?_, ?_⟩
  · intro ty rm q f w l add four sum
    obtain ⟨hsum, hlt⟩ := vsumQ_eq ty rm q
    refine ⟨hsum, hlt, fun isMax => ⟨fun h => (vfoldQ_nan ty isMax q h).trans ?_, fun h => vfoldQ_extreme ty isMax q h⟩⟩
    cases ty <;> rfl
  · intro f rm sat s lane num den hden
    exact ⟨fun hn => roundToFormat_roundsTo f rm sat lane s hn hden, roundToFormat_zero f rm sat s lane den, roundToFormat_nan f rm sat lane⟩
  · intro ty rm a b c f x y z m nan inf zero exact
    have hexact {v : ℚ} {s0 : Bool} {r : Nat × FlagSet} (h : RoundsOnce f rm.noSR v s0 r) : exact v s0 r := by
      rw [← noSR_eq] at h
      exact h
    refine ⟨codes_nan ty rm rfl rfl, fun h minus => fusedCodes_nan ty rm rfl rfl minus rfl h,
      fun s t hx hy => codes_inf_inf ty rm rfl rfl hx hy, fun s t n e hx hy => codes_inf_fin ty rm rfl rfl hx hy, ?_, ?_,
      fun minus s t u h => fusedCodes_infProduct ty rm rfl rfl minus rfl h,
      fun minus s t u n k d e hx hy hz => fusedCodes_inf ty rm rfl rfl minus rfl hx hy hz, ?_, ?_, subCodes_flip ty rm a b, ?_, ?_⟩
    · intro s t n k d e hx hy
      obtain ⟨hadd, hmul⟩ := codes_fin ty rm rfl rfl hx hy
      refine ⟨hexact hadd, hexact hmul, fun u l g hz => ⟨hexact ?_, hexact ?_⟩⟩
      · have hf := fusedCodes_fin ty rm rfl rfl false rfl hx hy hz
        rwa [Bool.bne_false] at hf
      · have hf := fusedCodes_fin ty rm rfl rfl true rfl hx hy hz
        rwa [Bool.bne_true, if_pos rfl, ← sub_eq_add_neg] at hf
    · rintro minus s t n e hz rfl h
      exact fusedCodes_invalid ty rm rfl rfl minus rfl hz h
    · intro s t n e k g all order
      exact ⟨fun hx hy => ordered_inf_inf f rfl rfl hx hy, fun hx hy => ordered_inf_fin f rfl rfl hx hy,
        fun hx hy => ordered_fin_inf f rfl rfl hx hy, fun hx hy => ordered_fin_fin f rfl rfl hx hy⟩
    · intro h
      exact ⟨cmpCodes_nan f rfl rfl h .eq, cmpCodes_nan f rfl rfl h .lt, cmpCodes_nan f rfl rfl h .le⟩
    · intro hrm sp
      clear_value x
      refine ⟨?_, ?_, ?_, ?_⟩
      · rintro rfl fn
        exact nanResult_eq ty
      · rintro s rfl
        exact special_inf ty rm s
      · rintro s e rfl
        exact special_zero ty hrm s e
      · rintro s n e rfl hn
        refine ⟨frcp_rounds ty hn, ?_, ?_, fun k hk => fex2_rounds ty hrm hn hk, ?_⟩
        · rintro rfl
          exact special_negative ty hn
        · rintro rfl
          exact roots_round ty hn hrm
        · rintro k rfl hk
          exact (roundsOnce_int ty rm false).1 (flg2_rounds ty hn hk)
    · intro hrm sine r
      clear_value x
      refine ⟨?_, ?_, ?_⟩
      · rintro rfl
        exact nanResult_eq ty
      · rintro s rfl
        exact trigLane_inf sine ty rm
      · rintro s n e rfl
        refine ⟨trigLane_large sine ty rm, trigLane_small sine ty rm, fun h hs => ?_⟩
        refine hexact ?_
        rw [noSR_of hrm]
        exact trigLane_steps sine ty rm h hs

end Sys2Proof.Machine

/-! ### What decodes, encodes, family by family -/

namespace Sys2Proof.Machine

section
variable {n : Nat} (hn : upper n 32 = 0)
include hn

theorem decodeCap_encodes (hop : bits n 31 26 = 0x0C) : Encodes n (decodeCap n) := by
  unfold decodeCap
  split <;> rename_i hf
  all_goals try exact encodes_error _ -- an unassigned function
  all_goals
    simp -implicitDefEqProofs [encodeNat, word, operand_bits, bits_eq_iff] at hop hf ⊢
    intros
    rw [eq_word_iff]
    simp -implicitDefEqProofs [bits_eq_upper]
    omega

theorem decodeCtrl_encodes (hop : bits n 31 26 = 0x1A) : Encodes n (decodeCtrl n) := by
  unfold decodeCtrl
  split <;> rename_i hf
  all_goals try exact encodes_error _ -- an unassigned function
  all_goals
    simp -implicitDefEqProofs [encodeNat, word, operand_bits, bits_eq_iff] at hop hf ⊢
    intros
    rw [eq_word_iff]
    simp -implicitDefEqProofs [bits_eq_upper]
    omega

theorem decodeLd_encodes (hop : bits n 31 26 = 0x20) : Encodes n (decodeLd n) := by
  unfold decodeLd
  split <;> rename_i hf
  all_goals try exact encodes_error _ -- an unassigned function
  all_goals
    simp -implicitDefEqProofs [encodeNat, word, operand_bits, bits_eq_iff] at hop hf ⊢
    intros
    rw [eq_word_iff]
    simp -implicitDefEqProofs [bits_eq_upper]
    omega

theorem decodeSt_encodes (hop : bits n 31 26 = 0x21) : Encodes n (decodeSt n) := by
  unfold decodeSt
  split <;> rename_i hf
  all_goals try exact encodes_error _ -- an unassigned function
  all_goals
    simp -implicitDefEqProofs [encodeNat, word, operand_bits, bits_eq_iff] at hop hf ⊢
    intros
    rw [eq_word_iff]
    simp -implicitDefEqProofs [bits_eq_upper]
    omega

theorem decodeVfp_encodes (hop : bits n 31 26 = 0x28) : Encodes n (decodeVfp n) := by
  unfold decodeVfp
  split <;> rename_i hf
  all_goals try exact encodes_error _ -- an unassigned function
  all_goals
    simp -implicitDefEqProofs [encodeNat, word, operand_bits, bits_eq_iff] at hop hf ⊢
    intros
    rw [eq_word_iff]
    simp -implicitDefEqProofs [bits_eq_upper]
    omega

theorem decodeVsf_encodes (hop : bits n 31 26 = 0x29) : Encodes n (decodeVsf n) := by
  unfold decodeVsf
  split <;> rename_i hf
  all_goals try exact encodes_error _ -- an unassigned function
  all_goals
    simp -implicitDefEqProofs [encodeNat, word, operand_bits, bits_eq_iff] at hop hf ⊢
    intros
    rw [eq_word_iff]
    simp -implicitDefEqProofs [bits_eq_upper]
    omega

theorem decodeVint_encodes (hop : bits n 31 26 = 0x2A) : Encodes n (decodeVint n) := by
  unfold decodeVint
  split <;> rename_i hf
  all_goals try exact encodes_error _ -- an unassigned function
  all_goals
    simp -implicitDefEqProofs [encodeNat, word, operand_bits, bits_eq_iff] at hop hf ⊢
    intros
    rw [eq_word_iff]
    simp -implicitDefEqProofs [bits_eq_upper]
    omega

theorem decodeCvt_encodes (hop : bits n 31 26 = 0x2B) : Encodes n (decodeCvt n) := by
  unfold decodeCvt
  split <;> rename_i hf
  all_goals try exact encodes_error _ -- an unassigned function
  all_goals
    simp -implicitDefEqProofs [encodeNat, word, operand_bits, bits_eq_iff] at hop hf ⊢
    intros
    rw [eq_word_iff]
    simp -implicitDefEqProofs [bits_eq_upper]
    omega

theorem decodeVblk_encodes (hop : bits n 31 26 = 0x2C) : Encodes n (decodeVblk n) := by
  unfold decodeVblk
  split <;> rename_i hf
  all_goals try exact encodes_error _ -- an unassigned function
  all_goals
    simp -implicitDefEqProofs [encodeNat, word, operand_bits, bits_eq_iff] at hop hf ⊢
    intros
    rw [eq_word_iff]
    simp -implicitDefEqProofs [bits_eq_upper]
    omega

theorem decodeMatc_encodes (hop : bits n 31 26 = 0x31) : Encodes n (decodeMatc n) := by
  unfold decodeMatc
  split <;> rename_i hf
  all_goals try exact encodes_error _ -- an unassigned function
  all_goals
    simp -implicitDefEqProofs [encodeNat, word, operand_bits, bits_eq_iff] at hop hf ⊢
    intros
    rw [eq_word_iff]
    simp -implicitDefEqProofs [bits_eq_upper]
    omega

theorem decodeXch_encodes (hop : bits n 31 26 = 0x34) : Encodes n (decodeXch n) := by
  unfold decodeXch
  split <;> rename_i hf
  all_goals try exact encodes_error _ -- an unassigned function
  all_goals
    simp -implicitDefEqProofs [encodeNat, word, operand_bits, bits_eq_iff] at hop hf ⊢
    intros
    rw [eq_word_iff]
    simp -implicitDefEqProofs [bits_eq_upper]
    omega

theorem decodeAmo_encodes (hop : bits n 31 26 = 0x38) : Encodes n (decodeAmo n) := by
  unfold decodeAmo
  split <;> rename_i hf
  all_goals try exact encodes_error _ -- an unassigned function
  all_goals
    simp -implicitDefEqProofs [encodeNat, word, operand_bits, bits_eq_iff] at hop hf ⊢
    intros
    rw [eq_word_iff]
    simp -implicitDefEqProofs [bits_eq_upper]
    omega

theorem decodeEng_encodes (hop : bits n 31 26 = 0x39) : Encodes n (decodeEng n) := by
  unfold decodeEng
  split <;> rename_i hf
  all_goals try exact encodes_error _ -- an unassigned function
  all_goals
    simp -implicitDefEqProofs [encodeNat, word, operand_bits, bits_eq_iff] at hop hf ⊢
    intros
    rw [eq_word_iff]
    simp -implicitDefEqProofs [bits_eq_upper]
    omega

theorem decodeSys_encodes (hop : bits n 31 26 = 0x3C) : Encodes n (decodeSys n) := by
  unfold decodeSys
  split <;> rename_i hf
  all_goals try exact encodes_error _ -- an unassigned function
  all_goals
    simp -implicitDefEqProofs [encodeNat, word, operand_bits, bits_eq_iff] at hop hf ⊢
    intros
    rw [eq_word_iff]
    simp -implicitDefEqProofs [bits_eq_upper]
    omega

theorem decodeCrs_encodes (hop : bits n 31 26 = 0x3D) : Encodes n (decodeCrs n) := by
  unfold decodeCrs
  split <;> rename_i hf
  all_goals try exact encodes_error _ -- an unassigned function
  all_goals
    simp -implicitDefEqProofs [encodeNat, word, operand_bits, bits_eq_iff] at hop hf ⊢
    intros
    rw [eq_word_iff]
    simp -implicitDefEqProofs [bits_eq_upper]
    omega

theorem wordBc_encodes {op : Nat} (hop : bits n 31 26 = op) : wordBc op (rA n) (rB n) (branchOff n) = n := by
  have hoff : bits n 10 0 < 2 ^ 11 := Nat.mod_lt _ (by decide)
  have hhigh : (branchOff n).toNat / 2 ^ 11 = bits n 25 21 := by
    rw [branchOff_toNat]
    omega
  have hlow : (branchOff n).toNat % 2 ^ 11 = bits n 10 0 := by
    rw [branchOff_toNat]
    omega
  obtain ⟨-, hA, hB, -⟩ := operand_bits (n := n)
  rw [wordBc, hhigh, hlow, hA, hB, ← hop, eq_word_iff]
  simp [bits_eq_upper]
  omega

/-- The opcode map (R62): a family by its functions, a branch by its two pieces of the offset, every other row as its family
would. -/
theorem decodeFields_encodes : Encodes n (decodeFields n) := by
  unfold decodeFields
  split <;> rename_i hop
  case h_1 => exact decodeInt_encodes hn hop
  case h_12 => exact decodeCap_encodes hn hop
  case h_14 => exact encodes_accept.2 (congrArg some (wordBc_encodes hn hop))
  case h_15 => exact encodes_accept.2 (congrArg some (wordBc_encodes hn hop))
  case h_16 => exact encodes_accept.2 (congrArg some (wordBc_encodes hn hop))
  case h_17 => exact encodes_accept.2 (congrArg some (wordBc_encodes hn hop))
  case h_18 => exact encodes_accept.2 (congrArg some (wordBc_encodes hn hop))
  case h_19 => exact encodes_accept.2 (congrArg some (wordBc_encodes hn hop))
  case h_23 => exact decodeCtrl_encodes hn hop
  case h_24 => exact decodeLd_encodes hn hop
  case h_25 => exact decodeSt_encodes hn hop
  case h_26 => exact decodeVfp_encodes hn hop
  case h_27 => exact decodeVsf_encodes hn hop
  case h_28 => exact decodeVint_encodes hn hop
  case h_29 => exact decodeCvt_encodes hn hop
  case h_30 => exact decodeVblk_encodes hn hop
  case h_33 => exact decodeMatc_encodes hn hop
  case h_34 => exact decodeXch_encodes hn hop
  case h_35 => exact decodeAmo_encodes hn hop
  case h_36 => exact decodeEng_encodes hn hop
  case h_37 => exact decodeSys_encodes hn hop
  case h_38 => exact decodeCrs_encodes hn hop
  case h_39 => exact encodes_error _
  all_goals
    simp -implicitDefEqProofs [encodeNat, word, operand_bits, bits_eq_iff] at hop ⊢
    intros
    rw [eq_word_iff]
    simp [bits_eq_upper]
    omega

end

/-- Settles O2: what the decoder accepts, it accepts from the word that the encoder makes of it. -/
theorem decodedWordsEncode : Obligations.DecodedWordsEncode := by
  intro w i h
  have henc := decodeFields_encodes (upper_top w.isLt)
  unfold decode at h
  split at h
  · cases h
  · next j hj =>
    split at h
    · next hw =>
      cases h
      refine ⟨hw, ?_⟩
      rw [encode, henc _ hj, Option.map_some, BitVec.ofNat_toNat, BitVec.setWidth_eq]
    · cases h

end Sys2Proof.Machine

/-! ### Fields of a word -/

namespace Sys2Proof.Machine

/-- A word with one more field, the value `v` from bit `k` on (R60). -/
def place (x v k : Nat) : Nat := x + v * 2 ^ k

/-- The encoder places its fields one after the other. -/
theorem word_place (b v k : Nat) (r : List (Nat × Nat)) : word b ((v, k) :: r) = word (place b v k) r := rfl

section
variable {x v k m hi lo : Nat}

/-- A read below a field does not see it. -/
@[simp] theorem bits_add_of_lt (h : hi < k) : bits (place x v k) hi lo = bits x hi lo := by
  by_cases hl : hi < lo
  · simp [bits, Nat.sub_eq_zero_of_le hl, Nat.mod_one]
  · obtain ⟨j, rfl⟩ : ∃ j, k = lo + (hi + 1 - lo) + j := ⟨k - (lo + (hi + 1 - lo)), by omega⟩
    rw [place, bits, bits, pow_add, pow_add, mul_assoc, mul_left_comm, Nat.add_mul_div_left _ _ (by positivity), mul_left_comm,
      Nat.add_mul_mod_self_left]

/-- Above a place that holds 0, the place is divided off exactly. -/
theorem div_add_of_place (hm : hi + 1 = k + m) (hv : v < 2 ^ m) (hx : bits x hi k = 0) :
    (place x v k) / 2 ^ (k + m) = x / 2 ^ (k + m) := by
  have hw : hi + 1 - k = m := by omega
  rw [bits, hw] at hx
  rw [place, pow_add, ← Nat.div_div_eq_div_mul, ← Nat.div_div_eq_div_mul, Nat.add_mul_div_right _ _ (by positivity)]
  obtain ⟨q, hq⟩ : 2 ^ m ∣ x / 2 ^ k := Nat.dvd_of_mod_eq_zero hx
  rw [hq, Nat.mul_add_div (by positivity), Nat.div_eq_of_lt hv, Nat.add_zero, Nat.mul_div_cancel_left _ (by positivity)]

/-- A read of the place of a field finds it. -/
theorem bits_add_self (hm : hi + 1 = k + m) (hv : v < 2 ^ m) (hx : bits x hi k = 0) : bits (place x v k) hi k = v := by
  have hw : hi + 1 - k = m := by omega
  rw [bits, hw] at hx ⊢
  rw [place, Nat.add_mul_div_right _ _ (by positivity), Nat.add_mod, hx, Nat.zero_add, Nat.mod_mod, Nat.mod_eq_of_lt hv]

/-- A read above a field does not see it. -/
theorem bits_add_of_le (hv : v < 2 ^ m) (hm : k + m ≤ lo) (hx : bits x (k + m - 1) k = 0) :
    bits (place x v k) hi lo = bits x hi lo := by
  rcases Nat.eq_zero_or_pos m with rfl | hpos
  · obtain rfl : v = 0 := by simpa using hv
    rw [place, Nat.zero_mul, Nat.add_zero]
  · obtain ⟨j, rfl⟩ : ∃ j, lo = k + m + j := ⟨lo - (k + m), by omega⟩
    rw [bits, bits, pow_add, ← Nat.div_div_eq_div_mul, ← Nat.div_div_eq_div_mul, div_add_of_place (by omega) hv hx]

/-- A field that lies in a word keeps the word a word. -/
theorem add_field_lt (hv : v < 2 ^ m) (hm : k + m ≤ 32) (hx : bits x (k + m - 1) k = 0) (h : x < 0x100000000) :
    place x v k < 0x100000000 := by
  obtain ⟨j, hj⟩ : ∃ j, 16 + 16 = k + m + j := ⟨32 - (k + m), by omega⟩
  rcases Nat.eq_zero_or_pos m with rfl | hpos
  · obtain rfl : v = 0 := by simpa using hv
    rwa [place, Nat.zero_mul, Nat.add_zero]
  · rw [show 0x100000000 = (2 : Nat) ^ (16 + 16) from rfl, hj, pow_add 2 _ j, Nat.mul_comm, ← Nat.div_lt_iff_lt_mul (by positivity)] at h ⊢
    rwa [div_add_of_place (by omega) hv hx]

/-- The bits of a word's fixed part are those of a number. -/
@[simp] theorem bits_literal {n : Nat} :
    bits (no_index (OfNat.ofNat n)) hi lo = no_index (OfNat.ofNat n) / 2 ^ lo % 2 ^ (hi + 1 - lo) := by rw [bits]

variable {r : RegNo} {f : Fin 4} {w : Nat} {b : BitVec w} {n : Nat}

/-! The kinds of field: a register, a two-bit index, a bit vector. -/

@[simp] theorem bits_reg (hm : hi + 1 = k + 5) (hx : bits x hi k = 0) : bits (place x r.val k) hi k = r.val :=
  bits_add_self hm r.isLt hx
@[simp] theorem bits_reg_above (hm : k + 5 ≤ lo) (hx : bits x (k + 5 - 1) k = 0) : bits (place x r.val k) hi lo = bits x hi lo :=
  bits_add_of_le r.isLt hm hx
@[simp] theorem bits_fin (hm : hi + 1 = k + 2) (hx : bits x hi k = 0) : bits (place x f.val k) hi k = f.val :=
  bits_add_self hm f.isLt hx
@[simp] theorem bits_fin_above (hm : k + 2 ≤ lo) (hx : bits x (k + 2 - 1) k = 0) : bits (place x f.val k) hi lo = bits x hi lo :=
  bits_add_of_le f.isLt hm hx
@[simp] theorem bits_bv (hm : hi + 1 = k + w) (hx : bits x hi k = 0) : bits (place x b.toNat k) hi k = b.toNat :=
  bits_add_self hm b.isLt hx
@[simp] theorem bits_bv_above (hm : k + w ≤ lo) (hx : bits x (k + w - 1) k = 0) : bits (place x b.toNat k) hi lo = bits x hi lo :=
  bits_add_of_le b.isLt hm hx
@[simp] theorem reg_lt (hm : k + 5 ≤ 32) (hx : bits x (k + 5 - 1) k = 0) (h : x < 0x100000000) : place x r.val k < 0x100000000 :=
  add_field_lt r.isLt hm hx h
@[simp] theorem fin_lt (hm : k + 2 ≤ 32) (hx : bits x (k + 2 - 1) k = 0) (h : x < 0x100000000) : place x f.val k < 0x100000000 :=
  add_field_lt f.isLt hm hx h
@[simp] theorem bv_lt (hm : k + w ≤ 32) (hx : bits x (k + w - 1) k = 0) (h : x < 0x100000000) : place x b.toNat k < 0x100000000 :=
  add_field_lt b.isLt hm hx h

/-! The decoder's reads of operands, as reads of bits. -/

@[simp] theorem rD_eq_bits : rD n = Fin.ofNat 32 (bits n 25 21) := Fin.ext (Nat.mod_mod _ _).symm
@[simp] theorem rA_eq_bits : rA n = Fin.ofNat 32 (bits n 20 16) := Fin.ext (Nat.mod_mod _ _).symm
@[simp] theorem rB_eq_bits : rB n = Fin.ofNat 32 (bits n 15 11) := Fin.ext (Nat.mod_mod _ _).symm
@[simp] theorem rE_eq_bits : rE n = Fin.ofNat 32 (bits n 10 6) := Fin.ext (Nat.mod_mod _ _).symm
@[simp] theorem fin4_eq_bits : Sys2Proof.fin4 n lo = Fin.ofNat 4 (bits n (lo + 1) lo) :=
  Fin.ext (by simp [Sys2Proof.fin4, bits, Fin.ofNat, show lo + 1 + 1 - lo = 2 by omega])
@[simp] theorem bv_eq_bits : bv w n lo = BitVec.ofNat w (bits n (lo + w - 1) lo) := by
  apply BitVec.eq_of_toNat_eq
  rcases Nat.eq_zero_or_pos w with rfl | hpos
  · simp [bv, Nat.mod_one]
  · simp [bv, bits, show lo + w - 1 + 1 - lo = w by omega]

/-! A type code, which stands lowest in its word. -/

theorem FTy.code_lt (ty : FTy) : ty.code < 2 ^ 2 := by cases ty <;> decide
theorem ATy.code_lt (ty : ATy) : ty.code < 2 ^ 2 := by cases ty <;> decide
theorem VTy.code_lt (ty : VTy) : ty.code < 2 ^ 2 := by cases ty <;> decide

@[simp] theorem fty_place (ty : FTy) (c : FTy → Except Reject Instr) (hx : bits x 5 4 = 0) :
    fty (place x ty.code 4) c = c ty := by
  rw [fty, bits_add_self (m := 2) rfl (FTy.code_lt ty) hx]
  cases ty <;> rfl
@[simp] theorem aty_place (ty : ATy) (c : ATy → Except Reject Instr) (hx : bits x 5 4 = 0) :
    aty (place x ty.code 4) c = c ty := by
  rw [aty, bits_add_self (m := 2) rfl (ATy.code_lt ty) hx]
  cases ty <;> rfl
@[simp] theorem vty_place (ty : VTy) (hx : bits x 5 4 = 0) : vty (place x ty.code 4) = ty := by
  rw [vty, bits_add_self (m := 2) rfl (VTy.code_lt ty) hx]
  cases ty <;> rfl
@[simp] theorem width_place (ty : VTy) (c : VTy → Except Reject Instr) (hx : bits x 12 11 = 0) (hz : bits x 15 13 = 0) :
    width (place x ty.code 11) c = c ty := by
  rw [width, bits_add_of_le (VTy.code_lt ty) (by decide) hx, if_pos hz, bits_add_self (m := 2) rfl (VTy.code_lt ty) hx]
  cases ty <;> rfl
@[simp] theorem bits_fty_above {ty : FTy} (hm : k + 2 ≤ lo) (hx : bits x (k + 2 - 1) k = 0) :
    bits (place x ty.code k) hi lo = bits x hi lo := bits_add_of_le (FTy.code_lt ty) hm hx
@[simp] theorem bits_aty_above {ty : ATy} (hm : k + 2 ≤ lo) (hx : bits x (k + 2 - 1) k = 0) :
    bits (place x ty.code k) hi lo = bits x hi lo := bits_add_of_le (ATy.code_lt ty) hm hx
@[simp] theorem bits_vty_above {ty : VTy} (hm : k + 2 ≤ lo) (hx : bits x (k + 2 - 1) k = 0) :
    bits (place x ty.code k) hi lo = bits x hi lo := bits_add_of_le (VTy.code_lt ty) hm hx
@[simp] theorem fty_lt {ty : FTy} (hm : k + 2 ≤ 32) (hx : bits x (k + 2 - 1) k = 0) (h : x < 0x100000000) :
    place x ty.code k < 0x100000000 := add_field_lt (FTy.code_lt ty) hm hx h
@[simp] theorem aty_lt {ty : ATy} (hm : k + 2 ≤ 32) (hx : bits x (k + 2 - 1) k = 0) (h : x < 0x100000000) :
    place x ty.code k < 0x100000000 := add_field_lt (ATy.code_lt ty) hm hx h
@[simp] theorem vty_lt {ty : VTy} (hm : k + 2 ≤ 32) (hx : bits x (k + 2 - 1) k = 0) (h : x < 0x100000000) :
    place x ty.code k < 0x100000000 := add_field_lt (VTy.code_lt ty) hm hx h

/-! The Bc format, whose offset stands in two pieces (R60). -/

theorem wordBc_digits {n op x a c y : Nat} (hn : op * 2 ^ 26 + x * 2 ^ 21 + a * 2 ^ 16 + c * 2 ^ 11 + y = n) (hx : x < 32)
    (ha : a < 32) (hc : c < 32) (hy : y < 2 ^ 11) :
    n / 2 ^ 26 = op ∧ n / 2 ^ 21 % 32 = x ∧ n / 2 ^ 16 % 32 = a ∧ n / 2 ^ 11 % 32 = c ∧ n % 2 ^ 11 = y := by
  simp only [Nat.reducePow] at *
  omega

theorem wordBc_fields {op n : Nat} {a c : RegNo} {off : BitVec 16} (hn : wordBc op a c off = n) (hop : op < 64) :
    bits n 31 26 = op ∧ rA n = a ∧ rB n = c ∧ branchOff n = off ∧ n < 0x100000000 := by
  have hx : off.toNat / 2 ^ 11 < 32 := by omega
  obtain ⟨h26, h21, h16, h11, h0⟩ := wordBc_digits hn hx a.isLt c.isLt (Nat.mod_lt _ (by decide))
  refine ⟨?_, Fin.ext h16, Fin.ext h11, ?_, by omega⟩
  · rw [bits, h26]
    exact Nat.mod_eq_of_lt hop
  · rw [branchOff, h21, h0, Nat.mul_comm, Nat.div_add_mod, BitVec.ofNat_toNat, BitVec.setWidth_eq]

end

/-! The families of the opcode map (R62). -/

theorem decodeFields_cap {n : Nat} (h : bits n 31 26 = 0x0C) : decodeFields n = decodeCap n := by simp only [decodeFields, h]
theorem decodeFields_ctrl {n : Nat} (h : bits n 31 26 = 0x1A) : decodeFields n = decodeCtrl n := by simp only [decodeFields, h]
theorem decodeFields_ld {n : Nat} (h : bits n 31 26 = 0x20) : decodeFields n = decodeLd n := by simp only [decodeFields, h]
theorem decodeFields_st {n : Nat} (h : bits n 31 26 = 0x21) : decodeFields n = decodeSt n := by simp only [decodeFields, h]
theorem decodeFields_vfp {n : Nat} (h : bits n 31 26 = 0x28) : decodeFields n = decodeVfp n := by simp only [decodeFields, h]
theorem decodeFields_vsf {n : Nat} (h : bits n 31 26 = 0x29) : decodeFields n = decodeVsf n := by simp only [decodeFields, h]
theorem decodeFields_vint {n : Nat} (h : bits n 31 26 = 0x2A) : decodeFields n = decodeVint n := by simp only [decodeFields, h]
theorem decodeFields_cvt {n : Nat} (h : bits n 31 26 = 0x2B) : decodeFields n = decodeCvt n := by simp only [decodeFields, h]
theorem decodeFields_vblk {n : Nat} (h : bits n 31 26 = 0x2C) : decodeFields n = decodeVblk n := by simp only [decodeFields, h]
theorem decodeFields_matc {n : Nat} (h : bits n 31 26 = 0x31) : decodeFields n = decodeMatc n := by simp only [decodeFields, h]
theorem decodeFields_xch {n : Nat} (h : bits n 31 26 = 0x34) : decodeFields n = decodeXch n := by simp only [decodeFields, h]
theorem decodeFields_amo {n : Nat} (h : bits n 31 26 = 0x38) : decodeFields n = decodeAmo n := by simp only [decodeFields, h]
theorem decodeFields_eng {n : Nat} (h : bits n 31 26 = 0x39) : decodeFields n = decodeEng n := by simp only [decodeFields, h]
theorem decodeFields_sys {n : Nat} (h : bits n 31 26 = 0x3C) : decodeFields n = decodeSys n := by simp only [decodeFields, h]
theorem decodeFields_crs {n : Nat} (h : bits n 31 26 = 0x3D) : decodeFields n = decodeCrs n := by simp only [decodeFields, h]

/-- The word of an instruction is the one that the decoder reads it from. -/
def Decodes (i : Instr) : Prop := ∀ n, encodeNat i = some n → decodeFields n = .ok (spelled i) ∧ n < 0x100000000

/-- An event has no word. -/
theorem decodes_of_eq_none {i : Instr} (h : encodeNat i = none) : Decodes i := fun n hn => by rw [h] at hn; cases hn

/-! Row by row: the opcode and the function select the row, the bits that must be 0 are 0, and each operand stands in its
field. -/

@[simp] theorem decodes_int :
    (∀ d a b, Decodes (.add d a b)) ∧ (∀ d a b, Decodes (.sub d a b)) ∧ (∀ d a b, Decodes (.and d a b)) ∧
    (∀ d a b, Decodes (.or d a b)) ∧ (∀ d a b, Decodes (.xor d a b)) ∧ (∀ d a b, Decodes (.andn d a b)) ∧
    (∀ d a b, Decodes (.sll d a b)) ∧ (∀ d a b, Decodes (.srl d a b)) ∧ (∀ d a b, Decodes (.sra d a b)) ∧
    (∀ d a b, Decodes (.rol d a b)) ∧ (∀ d a b, Decodes (.slt d a b)) ∧ (∀ d a b, Decodes (.sltu d a b)) ∧
    (∀ d a b, Decodes (.min d a b)) ∧ (∀ d a b, Decodes (.max d a b)) ∧ (∀ d a b, Decodes (.minu d a b)) ∧
    (∀ d a b, Decodes (.maxu d a b)) ∧ (∀ d a b, Decodes (.mul d a b)) ∧ (∀ d a b, Decodes (.mulh d a b)) ∧
    (∀ d a b, Decodes (.mulhu d a b)) ∧ (∀ d a b, Decodes (.div d a b)) ∧ (∀ d a b, Decodes (.divu d a b)) ∧
    (∀ d a b, Decodes (.rem d a b)) ∧ (∀ d a b, Decodes (.remu d a b)) ∧ (∀ d a, Decodes (.clz d a)) ∧
    (∀ d a, Decodes (.ctz d a)) ∧ (∀ d a, Decodes (.pop d a)) ∧ (∀ d a wd, Decodes (.sext d a wd)) ∧
    (∀ d a wd, Decodes (.zext d a wd)) := by
  and_intros
  all_goals
    intros
    intro n h
    simp -implicitDefEqProofs only [encodeNat, word_place, word_nil, Option.some.injEq] at h
    subst h
    rw [decodeFields_int (by simp (maxDischargeDepth := 20) -implicitDefEqProofs)]
    simp (maxDischargeDepth := 20) -implicitDefEqProofs [decodeInt, zero, accept, spelled]

@[simp] theorem decodes_immediate :
    (∀ d a imm, Decodes (.addi d a imm)) ∧ (∀ d a imm, Decodes (.andi d a imm)) ∧ (∀ d a imm, Decodes (.ori d a imm)) ∧
    (∀ d a imm, Decodes (.xori d a imm)) ∧ (∀ d a imm, Decodes (.slti d a imm)) ∧ (∀ d a imm, Decodes (.sltui d a imm)) ∧
    (∀ d a sh, Decodes (.slli d a sh)) ∧ (∀ d a sh, Decodes (.srli d a sh)) ∧ (∀ d a sh, Decodes (.srai d a sh)) ∧
    (∀ d imm, Decodes (.lhi d imm)) ∧ (∀ d a imm, Decodes (.cincImm d a imm)) ∧ (∀ a imm, Decodes (.loop a imm)) ∧
    (∀ off, Decodes (.j off)) ∧ (∀ off, Decodes (.jl off)) ∧ (∀ n len ds as bs es, Decodes (.rep n len ds as bs es)) ∧
    (∀ z a b sca scb ha hb, Decodes (.mma z a b sca scb ha hb)) := by
  and_intros
  all_goals
    intros
    intro n h
    simp -implicitDefEqProofs only [encodeNat, word_place, word_nil, Option.some.injEq] at h
    subst h
    simp (maxDischargeDepth := 20) -implicitDefEqProofs [decodeFields, zero, accept, spelled]

@[simp] theorem decodes_cap :
    (∀ d a b, Decodes (.cbnd d a b)) ∧ (∀ d a b, Decodes (.cperm d a b)) ∧ (∀ d a b, Decodes (.cinc d a b)) ∧
    (∀ d a b, Decodes (.cset d a b)) ∧ (∀ d a, Decodes (.cgetBase d a)) ∧ (∀ d a, Decodes (.cgetLen d a)) ∧
    (∀ d a, Decodes (.cgetPerm d a)) ∧ (∀ d a, Decodes (.cgetTag d a)) ∧ (∀ d a, Decodes (.cgetCur d a)) ∧
    (∀ d a b, Decodes (.cseal d a b)) ∧ (∀ d a b, Decodes (.cunseal d a b)) := by
  and_intros
  all_goals
    intros
    intro n h
    simp -implicitDefEqProofs only [encodeNat, word_place, word_nil, Option.some.injEq] at h
    subst h
    rw [decodeFields_cap (by simp (maxDischargeDepth := 20) -implicitDefEqProofs)]
    simp (maxDischargeDepth := 20) -implicitDefEqProofs [decodeCap, zero, accept, spelled]

@[simp] theorem decodes_branch :
    (∀ a b off, Decodes (.beq a b off)) ∧ (∀ a b off, Decodes (.bne a b off)) ∧ (∀ a b off, Decodes (.blt a b off)) ∧
    (∀ a b off, Decodes (.bge a b off)) ∧ (∀ a b off, Decodes (.bltu a b off)) ∧
    (∀ a b off, Decodes (.bgeu a b off)) := by
  and_intros
  all_goals
    intro a b off n h
    obtain ⟨hop, hA, hB, hoff, hlt⟩ := wordBc_fields (Option.some.inj h) (by decide)
    exact ⟨by simp only [decodeFields, hop, hA, hB, hoff]; rfl, hlt⟩

@[simp] theorem decodes_ctrl :
    Decodes .nop ∧ (∀ a, Decodes (.jr a)) ∧ (∀ a, Decodes (.hold a)) := by
  and_intros
  all_goals
    intros
    intro n h
    simp -implicitDefEqProofs only [encodeNat, word_place, word_nil, Option.some.injEq] at h
    subst h
    rw [decodeFields_ctrl (by simp (maxDischargeDepth := 20) -implicitDefEqProofs)]
    simp (maxDischargeDepth := 20) -implicitDefEqProofs [decodeCtrl, zero, accept, spelled]

@[simp] theorem decodes_ld :
    (∀ d a off, Decodes (.ldB d a off)) ∧ (∀ d a off, Decodes (.ldBu d a off)) ∧ (∀ d a off, Decodes (.ldH d a off)) ∧
    (∀ d a off, Decodes (.ldHu d a off)) ∧ (∀ d a off, Decodes (.ldW d a off)) ∧ (∀ d a off, Decodes (.ldD d a off)) ∧
    (∀ d a off, Decodes (.ldQ d a off)) ∧ (∀ d a off, Decodes (.ldC d a off)) ∧ (∀ d a off, Decodes (.ldFe d a off)) ∧
    (∀ d a off, Decodes (.ldbQ d a off)) ∧ (∀ a off, Decodes (.ldLq a off)) := by
  and_intros
  all_goals
    intros
    intro n h
    simp -implicitDefEqProofs only [encodeNat, word_place, word_nil, Option.some.injEq] at h
    subst h
    rw [decodeFields_ld (by simp (maxDischargeDepth := 20) -implicitDefEqProofs)]
    simp (maxDischargeDepth := 20) -implicitDefEqProofs [decodeLd, zero, accept, spelled]

@[simp] theorem decodes_st :
    (∀ d a off, Decodes (.stB d a off)) ∧ (∀ d a off, Decodes (.stH d a off)) ∧ (∀ d a off, Decodes (.stW d a off)) ∧
    (∀ d a off, Decodes (.stD d a off)) ∧ (∀ d a off, Decodes (.stQ d a off)) ∧ (∀ d a off, Decodes (.stC d a off)) ∧
    (∀ d a off, Decodes (.stFe d a off)) ∧ (∀ d a off, Decodes (.stbQ d a off)) ∧ (∀ a off, Decodes (.stSq a off)) := by
  and_intros
  all_goals
    intros
    intro n h
    simp -implicitDefEqProofs only [encodeNat, word_place, word_nil, Option.some.injEq] at h
    subst h
    rw [decodeFields_st (by simp (maxDischargeDepth := 20) -implicitDefEqProofs)]
    simp (maxDischargeDepth := 20) -implicitDefEqProofs [decodeSt, zero, accept, spelled]

@[simp] theorem decodes_vfp :
    (∀ d a b ty, Decodes (.fadd d a b ty)) ∧ (∀ d a b ty, Decodes (.fsub d a b ty)) ∧
    (∀ d a b ty, Decodes (.fmul d a b ty)) ∧ (∀ d a b e ty, Decodes (.fma d a b e ty)) ∧
    (∀ d a b e ty, Decodes (.fms d a b e ty)) ∧ (∀ d a b ty, Decodes (.fmin d a b ty)) ∧
    (∀ d a b ty, Decodes (.fmax d a b ty)) ∧ (∀ d a ty, Decodes (.fabs d a ty)) ∧ (∀ d a ty, Decodes (.fneg d a ty)) ∧
    (∀ d a b ty, Decodes (.fcmpEq d a b ty)) ∧ (∀ d a b ty, Decodes (.fcmpLt d a b ty)) ∧
    (∀ d a b ty, Decodes (.fcmpLe d a b ty)) ∧ (∀ d a b e ty, Decodes (.fsel d a b e ty)) ∧
    (∀ d a ty, Decodes (.vsum d a ty)) ∧ (∀ d a ty, Decodes (.vmaxr d a ty)) ∧ (∀ d a ty, Decodes (.vminr d a ty)) := by
  and_intros
  all_goals
    intros
    intro n h
    simp -implicitDefEqProofs only [encodeNat, word_place, word_nil, Option.some.injEq] at h
    subst h
    rw [decodeFields_vfp (by simp (maxDischargeDepth := 20) -implicitDefEqProofs)]
    simp (maxDischargeDepth := 20) -implicitDefEqProofs [decodeVfp, zero, accept, spelled]

@[simp] theorem decodes_vsf :
    (∀ d a ty, Decodes (.frcp d a ty)) ∧ (∀ d a ty, Decodes (.frsq d a ty)) ∧ (∀ d a ty, Decodes (.fsqrt d a ty)) ∧
    (∀ d a ty, Decodes (.fex2 d a ty)) ∧ (∀ d a ty, Decodes (.flg2 d a ty)) ∧ (∀ d a ty, Decodes (.fsin d a ty)) ∧
    (∀ d a ty, Decodes (.fcos d a ty)) := by
  and_intros
  all_goals
    intros
    intro n h
    simp -implicitDefEqProofs only [encodeNat, word_place, word_nil, Option.some.injEq] at h
    subst h
    rw [decodeFields_vsf (by simp (maxDischargeDepth := 20) -implicitDefEqProofs)]
    simp (maxDischargeDepth := 20) -implicitDefEqProofs [decodeVsf, zero, accept, spelled]

@[simp] theorem decodes_vint :
    (∀ d a b ty, Decodes (.vadd d a b ty)) ∧ (∀ d a b ty, Decodes (.vsub d a b ty)) ∧
    (∀ d a b ty, Decodes (.vmul d a b ty)) ∧ (∀ d a b ty, Decodes (.vmin d a b ty)) ∧
    (∀ d a b ty, Decodes (.vmax d a b ty)) ∧ (∀ d a b ty, Decodes (.vand d a b ty)) ∧
    (∀ d a b ty, Decodes (.vor d a b ty)) ∧ (∀ d a b ty, Decodes (.vxor d a b ty)) ∧
    (∀ d a b ty, Decodes (.vshl d a b ty)) ∧ (∀ d a b ty, Decodes (.vsra d a b ty)) ∧
    (∀ d a b ty, Decodes (.vperm d a b ty)) ∧ (∀ d a idx ty, Decodes (.vbcast d a idx ty)) := by
  and_intros
  all_goals
    intros
    intro n h
    simp -implicitDefEqProofs only [encodeNat, word_place, word_nil, Option.some.injEq] at h
    subst h
    rw [decodeFields_vint (by simp (maxDischargeDepth := 20) -implicitDefEqProofs)]
    simp (maxDischargeDepth := 20) -implicitDefEqProofs [decodeVint, zero, accept, spelled]

@[simp] theorem decodes_cvt :
    (∀ d a sc rmx sx pt, Decodes (.cvtWide d a sc rmx sx pt)) ∧
    (∀ d a sc rmx sx pt, Decodes (.cvtWideb d a sc rmx sx pt)) ∧
    (∀ d a sc rmx sx pt, Decodes (.cvtPack d a sc rmx sx pt)) ∧
    (∀ d a sc rmx sx pt, Decodes (.cvtPackb d a sc rmx sx pt)) ∧
    (∀ d a sc rmx sx pt, Decodes (.cvtF2b d a sc rmx sx pt)) ∧ (∀ d a sc rmx sx pt, Decodes (.cvtB2f d a sc rmx sx pt)) ∧
    (∀ d a sc rmx sx pt, Decodes (.cvtF2i d a sc rmx sx pt)) ∧
    (∀ d a sc rmx sx pt, Decodes (.cvtI2f d a sc rmx sx pt)) := by
  and_intros
  all_goals
    intros
    intro n h
    simp -implicitDefEqProofs only [encodeNat, word_place, word_nil, Option.some.injEq] at h
    subst h
    rw [decodeFields_cvt (by simp (maxDischargeDepth := 20) -implicitDefEqProofs)]
    simp (maxDischargeDepth := 20) -implicitDefEqProofs [decodeCvt, selector, accept, spelled]

@[simp] theorem decodes_vblk :
    (∀ d a b ty, Decodes (.amaxb d a b ty)) ∧ (∀ sd a pos ty, Decodes (.scl sd a pos ty)) := by
  and_intros
  all_goals
    intros
    intro n h
    simp -implicitDefEqProofs only [encodeNat, word_place, word_nil, Option.some.injEq] at h
    subst h
    rw [decodeFields_vblk (by simp (maxDischargeDepth := 20) -implicitDefEqProofs)]
    simp (maxDischargeDepth := 20) -implicitDefEqProofs [decodeVblk, zero, accept, spelled]

@[simp] theorem decodes_matc :
    (∀ z, Decodes (.mzClr z)) ∧ (∀ a z, Decodes (.mzAnc a z)) ∧
    (∀ d sx rmx ty half z row, Decodes (.mzRd d sx rmx ty half z row)) ∧ (∀ a z, Decodes (.mzRaw a z)) ∧
    (∀ a z, Decodes (.mzAdd a z)) ∧ (∀ d z clear, Decodes (.mzOvf d z clear)) ∧ (∀ d a arr, Decodes (.mgeo d a arr)) ∧
    (∀ a arr, Decodes (.mgeoSub a arr)) ∧ (∀ a z, Decodes (.msk a z)) := by
  and_intros
  all_goals
    intros
    intro n h
    simp -implicitDefEqProofs only [encodeNat, word_place, word_nil, Option.some.injEq] at h
    subst h
    rw [decodeFields_matc (by simp (maxDischargeDepth := 20) -implicitDefEqProofs)]
    simp (maxDischargeDepth := 20) -implicitDefEqProofs [decodeMatc, zero, accept, spelled]

@[simp] theorem decodes_xch :
    (∀ a, Decodes (.xmit a)) ∧ (∀ a cnt, Decodes (.xmitM a cnt)) ∧ (∀ a off, Decodes (.catchOne a off)) ∧
    (∀ a cnt, Decodes (.catchM a cnt)) ∧ (∀ d a off, Decodes (.put d a off)) ∧ Decodes .sealOp ∧
    (∀ d, Decodes (.trn d)) ∧ (∀ k, Decodes (.chkLq k)) ∧ (∀ a off, Decodes (.chkFe a off)) ∧
    (∀ a ch, Decodes (.chkWp a ch)) ∧ (∀ a k, Decodes (.semUp a k)) ∧ (∀ a k, Decodes (.semChk a k)) ∧ Decodes .resync ∧
    (∀ d a k, Decodes (.start d a k)) ∧ Decodes .stop ∧ (∀ d sel, Decodes (.rmt d sel)) ∧
    (∀ a mtag, Decodes (.mark a mtag)) := by
  and_intros
  all_goals
    intros
    intro n h
    simp -implicitDefEqProofs only [encodeNat, word_place, word_nil, Option.some.injEq] at h
    subst h
    rw [decodeFields_xch (by simp (maxDischargeDepth := 20) -implicitDefEqProofs)]
    simp (maxDischargeDepth := 20) -implicitDefEqProofs [decodeXch, zero, accept, spelled]

@[simp] theorem decodes_amo :
    (∀ d a b ty, Decodes (.amoAdd d a b ty)) ∧ (∀ d a b ty, Decodes (.amoMax d a b ty)) ∧
    (∀ d a b ty, Decodes (.amoMin d a b ty)) ∧ (∀ d a b ty, Decodes (.amoMaxu d a b ty)) ∧
    (∀ d a b ty, Decodes (.amoMinu d a b ty)) ∧ (∀ d a b ty, Decodes (.amoAnd d a b ty)) ∧
    (∀ d a b ty, Decodes (.amoOr d a b ty)) ∧ (∀ d a b ty, Decodes (.amoXor d a b ty)) ∧
    (∀ d a b ty, Decodes (.amoSwap d a b ty)) ∧ (∀ d a b e ty, Decodes (.amoCas d a b e ty)) ∧
    (∀ d a b, Decodes (.amoFmax d a b)) ∧ (∀ scope, Decodes (.fence scope)) := by
  and_intros
  all_goals
    intros
    intro n h
    simp -implicitDefEqProofs only [encodeNat, word_place, word_nil, Option.some.injEq] at h
    subst h
    rw [decodeFields_amo (by simp (maxDischargeDepth := 20) -implicitDefEqProofs)]
    simp (maxDischargeDepth := 20) -implicitDefEqProofs [decodeAmo, zero, selector, accept, spelled]

@[simp] theorem decodes_eng :
    (∀ d a b ch, Decodes (.cpy d a b ch)) ∧ (∀ d a b ch, Decodes (.cpyG d a b ch)) ∧
    (∀ d a b ch, Decodes (.cpyS d a b ch)) ∧ (∀ d ch, Decodes (.cpyWp d ch)) ∧ (∀ d a b ch, Decodes (.gput d a b ch)) ∧
    (∀ d a b ch, Decodes (.gget d a b ch)) ∧ (∀ a b, Decodes (.gtbl a b)) := by
  and_intros
  all_goals
    intros
    intro n h
    simp -implicitDefEqProofs only [encodeNat, word_place, word_nil, Option.some.injEq] at h
    subst h
    rw [decodeFields_eng (by simp (maxDischargeDepth := 20) -implicitDefEqProofs)]
    simp (maxDischargeDepth := 20) -implicitDefEqProofs [decodeEng, zero, accept, spelled]

@[simp] theorem decodes_sys :
    (∀ a num, Decodes (.trapTrap a num)) ∧ (∀ a, Decodes (.tretResume a)) ∧ (∀ a, Decodes (.tretAbandon a)) ∧
    (∀ a, Decodes (.tretForward a)) ∧ (∀ a, Decodes (.tretIsolate a)) ∧ (∀ d num, Decodes (.sysrd d num)) ∧
    (∀ a num, Decodes (.syswr a num)) ∧ Decodes .ifence ∧ Decodes .halt ∧ (∀ a, Decodes (.hbeat a)) ∧
    (∀ a imm, Decodes (.tlbW a imm)) ∧ (∀ a mode, Decodes (.tlbInv a mode)) := by
  and_intros
  all_goals
    intros
    intro n h
    simp -implicitDefEqProofs only [encodeNat, word_place, word_nil, Option.some.injEq] at h
    subst h
    rw [decodeFields_sys (by simp (maxDischargeDepth := 20) -implicitDefEqProofs)]
    simp (maxDischargeDepth := 20) -implicitDefEqProofs [decodeSys, zero, accept, spelled]

@[simp] theorem decodes_crs :
    (∀ a, Decodes (.crsOpen a)) ∧ (∀ d, Decodes (.crsStep d)) ∧ (∀ a, Decodes (.crsSend a)) ∧
    (∀ a, Decodes (.crsChk a)) ∧ (∀ a, Decodes (.crsRel a)) ∧ Decodes .crsClose := by
  and_intros
  all_goals
    intros
    intro n h
    simp -implicitDefEqProofs only [encodeNat, word_place, word_nil, Option.some.injEq] at h
    subst h
    rw [decodeFields_crs (by simp (maxDischargeDepth := 20) -implicitDefEqProofs)]
    simp (maxDischargeDepth := 20) -implicitDefEqProofs [decodeCrs, zero, accept, spelled]

theorem decodes (i : Instr) : Decodes i := by
  cases i
  all_goals try exact decodes_of_eq_none rfl -- the events
  all_goals simp -- the words

theorem encodeNat_spelled (i : Instr) : encodeNat (spelled i) = encodeNat i := by
  unfold spelled
  split <;> rfl

theorem wellFormed_spelled (i : Instr) : (spelled i).wellFormed = i.wellFormed := by
  unfold spelled
  split <;> rfl

/-- Settles O1: the word of an instruction is a number whose fields decode, row by row, to what the word spells. -/
theorem encodedWordsDecode : Obligations.EncodedWordsDecode := by
  intro i w hw henc
  obtain ⟨n, hn, -⟩ := Option.map_eq_some_iff.1 henc
  obtain ⟨hd, hlt⟩ := decodes i n hn
  refine decode_encode_of ((encodeNat_spelled i).trans hn) hlt hd ((wellFormed_spelled i).trans hw) ?_
  rw [encode, encodeNat_spelled]
  exact henc

end Sys2Proof.Machine
